-- ==== Sys2Proof/Word.lean ====
section
/-! DEFINITION. The words of the machine and the register files they stand in. -/

namespace Sys2Proof

/-- A 64-bit register (01 R10). -/
abbrev Word := BitVec 64
/-- A 32-bit word of code or of an accumulator tile. -/
abbrev Word32 := BitVec 32
/-- A byte of memory. -/
abbrev Byte := BitVec 8
/-- A vector register or a queue entry of 64 bytes; byte j is bits 8j up to 8j + 7 (01 R14). -/
abbrev Line := BitVec 512

/-- The entry of a register file at a number that is in range. -/
abbrev vget {α : Type} {n : Nat} (v : Vector α n) (i : Fin n) : α := v[i.val]

/-- A register file with one entry replaced. -/
abbrev vset {α : Type} {n : Nat} (v : Vector α n) (i : Fin n) (x : α) : Vector α n := v.set i.val x i.isLt

end Sys2Proof
end

