-- ==== Sys2Proof/Config.lean ====
section
/-! DEFINITION. The values the spec leaves open: constants without a body, so that no proof sees a value of them. -/

namespace Sys2Proof.Config

/-- A free value: one for each number drawn from `State.free`. -/
opaque freeWord : Nat → Word

/-- What a line reads as under a key it was not encrypted under (15 R365): line number, content, key of the write, key
of the read. -/
opaque misread : Nat → Line → BitVec 512 → BitVec 512 → Line

/-- Local cycles of a tile move over a memory path, or of a command whose time R167 does not state. -/
opaque pathCycles : Nat → Nat

/-- The result of a special function (07 R187) at an operand whose bounds do not decide it: function and operand bits. -/
opaque special : Nat → Nat → BitVec 32

/-- A word of a save slot that does not translate (15 R353): slot, offset, tick. -/
opaque slotWord : Nat → Nat → Nat → Word

/-- A word of the overlap checker's record in a save slot (15 R354): core, offset, tick. -/
opaque checkerWord : Nat → Nat → Nat → Word

/-- The tick until which a translation is cached (16 R391): mark, context slot, tensor, page. -/
opaque cachedUntil : Nat → Nat → Nat → Nat → Nat

/-- Microjoules measured (17 R399): tick, account. -/
opaque energy : Nat → Nat → Nat

/-- How far a counter of cycles moves (10 R267): start number of the task, counter, tick, ticks that pass. -/
opaque cycles : Nat → Nat → Nat → Nat → Word

end Sys2Proof.Config
end

