-- ==== Sys2Proof/Syntax.lean ====
section
/-! DEFINITION. The instructions and device steps of the Sniris Evdin-8: one constructor per row of the opcode table.
The first 224 constructors are instructions (02 R54 to R82). The other 89 are the table's events: indivisible steps of
the device's agents and of its host (file 95). An event carries as arguments what the device or the environment chooses
freely in it (which core, which data arrives). -/

namespace Sys2Proof

/-- A general register g0 to g31 (R10). -/
abbrev Reg := Fin 32
/-- A predicate p0 to p7 (R11). -/
abbrev Pred := Fin 8
/-- A vector register v0 to v31 (R14). -/
abbrev VReg := Fin 32
/-- A mask m0 to m7 (R15). -/
abbrev MReg := Fin 8
/-- A tile register t0 to t15 (R16). -/
abbrev TReg := Fin 16

/-- The cluster codes of R35: 0 C, 1 A, 2 V, 3 M. -/
inductive Clu where
  | c | a | v | m
  deriving DecidableEq, Repr

/-- The second word of a long form less its x7 field (R50). -/
structure Long where
  guard : Pred
  wait : BitVec 3
  post : BitVec 3
  stamp : BitVec 16
  deriving DecidableEq, Repr

/-- Words an engine or a path delivers wrongly: index and bits flipped. Empty when nothing is wrong (R320, R330). -/
abbrev Upset := List (Nat × BitVec 32)

/-- A core, and the upsets that fall on its two matrix engines in what an event starts (R322). -/
structure Struck where
  core : Fin 768
  upsetP : Upset
  upsetS : Upset
  deriving DecidableEq, Repr

/-- A core, and the upsets that fall on its two matrix engines and on the assay in what an event stops (R328). -/
structure Stopping where
  core : Fin 768
  upsetP : Upset
  upsetS : Upset
  upsetA : Upset
  deriving DecidableEq, Repr

/-- A turn of a cluster's held form, and the aligned 8-byte words it performs, one bit each; 0 for all that are left (R192). -/
structure FormTurn where
  clu : Clu
  words : BitVec 8
  deriving DecidableEq, Repr

/-- A turn of a channel's command: its next unit, or with `early` one 32-byte chunk of the unit's source buffer read ahead of the rest
(R301). -/
structure ChanTurn where
  ch : Fin 8
  early : Option Nat
  deriving DecidableEq, Repr

/-- An address of a context slot, and the traffic class of the request that names it (R287). -/
structure MemRef where
  slot : Fin 64
  addr : BitVec 64
  cls : BitVec 2 := 0
  deriving DecidableEq, Repr

/-- What a host or a peer asks of bytes in a window (R306, R386, R389), within one aligned 64-byte line: n bytes read, bytes written,
or an atomic on 4 (sz 0) or 8 (sz 1) of them, which names its operation: add, and, or, xor, signed and unsigned minimum and maximum,
swap, compare and swap. -/
inductive HostReq where
  | read (n : Nat)
  | write (data : List (BitVec 8))
  | atomic (op : Fin 10) (sz : BitVec 1) (data cmp : BitVec 64)
  deriving DecidableEq, Repr

/-- One constructor per row of the opcode table. -/
inductive Instr where
  /-- `ADD`: R57, R129, R130. -/
  | add (d : Reg) (a : Reg) (b : Reg)
  /-- `SUB`: R57, R129, R130. -/
  | sub (d : Reg) (a : Reg) (b : Reg)
  /-- `ADDT`: R57, R129, R130. -/
  | addt (d : Reg) (a : Reg) (b : Reg)
  /-- `SUBT`: R57, R129, R130. -/
  | subt (d : Reg) (a : Reg) (b : Reg)
  /-- `MUL`: R57, R129, R130. -/
  | mul (d : Reg) (a : Reg) (b : Reg)
  /-- `MULH`: R57, R129, R130. -/
  | mulh (d : Reg) (a : Reg) (b : Reg)
  /-- `MULHN`: R57, R129, R130. -/
  | mulhn (d : Reg) (a : Reg) (b : Reg)
  /-- `MULT`: R57, R129, R130. -/
  | mult (d : Reg) (a : Reg) (b : Reg)
  /-- `DIV`: R57, R129, R130. -/
  | div (d : Reg) (a : Reg) (b : Reg)
  /-- `DIVN`: R57, R129, R130. -/
  | divn (d : Reg) (a : Reg) (b : Reg)
  /-- `REM`: R57, R129, R130. -/
  | rem (d : Reg) (a : Reg) (b : Reg)
  /-- `REMN`: R57, R129, R130. -/
  | remn (d : Reg) (a : Reg) (b : Reg)
  /-- `MIN`: R57, R129, R130. -/
  | min (d : Reg) (a : Reg) (b : Reg)
  /-- `MAX`: R57, R129, R130. -/
  | max (d : Reg) (a : Reg) (b : Reg)
  /-- `MINN`: R57, R129, R130. -/
  | minn (d : Reg) (a : Reg) (b : Reg)
  /-- `MAXN`: R57, R129, R130. -/
  | maxn (d : Reg) (a : Reg) (b : Reg)
  /-- `AND`: R57, R131. -/
  | and (d : Reg) (a : Reg) (b : Reg)
  /-- `OR`: R57, R131. -/
  | or (d : Reg) (a : Reg) (b : Reg)
  /-- `XOR`: R57, R131. -/
  | xor (d : Reg) (a : Reg) (b : Reg)
  /-- `ANDN`: R57, R131. -/
  | andn (d : Reg) (a : Reg) (b : Reg)
  /-- `ORN`: R57, R131. -/
  | orn (d : Reg) (a : Reg) (b : Reg)
  /-- `SHL`: R57, R131. -/
  | shl (d : Reg) (a : Reg) (b : Reg)
  /-- `SHR`: R57, R131. -/
  | shr (d : Reg) (a : Reg) (b : Reg)
  /-- `SRA`: R57, R131. -/
  | sra (d : Reg) (a : Reg) (b : Reg)
  /-- `ROL`: R57, R131. -/
  | rol (d : Reg) (a : Reg) (b : Reg)
  /-- `ROR`: R57, R131. -/
  | ror (d : Reg) (a : Reg) (b : Reg)
  /-- `CLZ`: R57, R131. -/
  | clz (d : Reg) (a : Reg)
  /-- `CTZ`: R57, R131. -/
  | ctz (d : Reg) (a : Reg)
  /-- `POPC`: R57, R131. -/
  | popc (d : Reg) (a : Reg)
  /-- `BREV`: R57, R131. -/
  | brev (d : Reg) (a : Reg)
  /-- `BSWAP`: R57, R131. -/
  | bswap (d : Reg) (a : Reg)
  /-- `SEXT_I8`: R57, R131. -/
  | sextI8 (d : Reg) (a : Reg)
  /-- `SEXT_I16`: R57, R131. -/
  | sextI16 (d : Reg) (a : Reg)
  /-- `SEXT_I32`: R57, R131. -/
  | sextI32 (d : Reg) (a : Reg)
  /-- `ZEXT_N8`: R57, R131. -/
  | zextN8 (d : Reg) (a : Reg)
  /-- `ZEXT_N16`: R57, R131. -/
  | zextN16 (d : Reg) (a : Reg)
  /-- `ZEXT_N32`: R57, R131. -/
  | zextN32 (d : Reg) (a : Reg)
  /-- `CMPEQ`: R57, R132. -/
  | cmpeq (d : Pred) (a : Reg) (b : Reg)
  /-- `CMPNE`: R57, R132. -/
  | cmpne (d : Pred) (a : Reg) (b : Reg)
  /-- `CMPLT`: R57, R132. -/
  | cmplt (d : Pred) (a : Reg) (b : Reg)
  /-- `CMPLE`: R57, R132. -/
  | cmple (d : Pred) (a : Reg) (b : Reg)
  /-- `CMPLTN`: R57, R132. -/
  | cmpltn (d : Pred) (a : Reg) (b : Reg)
  /-- `CMPLEN`: R57, R132. -/
  | cmplen (d : Pred) (a : Reg) (b : Reg)
  /-- `TSTNZ`: R57, R132. -/
  | tstnz (d : Pred) (a : Reg) (b : Reg)
  /-- `PAND`: R57, R133. -/
  | pand (d : Pred) (a : Pred) (b : Pred)
  /-- `POR`: R57, R133. -/
  | por (d : Pred) (a : Pred) (b : Pred)
  /-- `PXOR`: R57, R133. -/
  | pxor (d : Pred) (a : Pred) (b : Pred)
  /-- `PANDN`: R57, R133. -/
  | pandn (d : Pred) (a : Pred) (b : Pred)
  /-- `PNOT`: R57, R133. -/
  | pnot (d : Pred) (a : Pred)
  /-- `PSET`: R57, R133. -/
  | pset (d : Pred) (a : Reg)
  /-- `PGET`: R57, R133. -/
  | pget (d : Reg) (a : Pred)
  /-- `SEL`: R57, R133. -/
  | sel (d : Reg) (a : Reg) (b : Reg) (p : Pred)
  /-- `LEA`: R57, R134. -/
  | lea (d : Reg) (a : Reg) (b : Reg) (sh : BitVec 2)
  /-- `GADDR`: R57, R134. -/
  | gaddr (d : Reg) (a : Reg) (b : Reg)
  /-- `ADDI`: R58. -/
  | addi (d : Reg) (a : Reg) (imm : BitVec 14)
  /-- `ANDI`: R58. -/
  | andi (d : Reg) (a : Reg) (imm : BitVec 14)
  /-- `ORI`: R58. -/
  | ori (d : Reg) (a : Reg) (imm : BitVec 14)
  /-- `XORI`: R58. -/
  | xori (d : Reg) (a : Reg) (imm : BitVec 14)
  /-- `SHLI`: R58, R131. -/
  | shli (d : Reg) (a : Reg) (n : BitVec 6)
  /-- `SHRI`: R58, R131. -/
  | shri (d : Reg) (a : Reg) (n : BitVec 6)
  /-- `SRAI`: R58, R131. -/
  | srai (d : Reg) (a : Reg) (n : BitVec 6)
  /-- `RORI`: R58, R131. -/
  | rori (d : Reg) (a : Reg) (n : BitVec 6)
  /-- `CMPEQI`: R58, R132. -/
  | cmpeqi (d : Pred) (a : Reg) (imm : BitVec 11)
  /-- `CMPNEI`: R58, R132. -/
  | cmpnei (d : Pred) (a : Reg) (imm : BitVec 11)
  /-- `CMPLTI`: R58, R132. -/
  | cmplti (d : Pred) (a : Reg) (imm : BitVec 11)
  /-- `CMPLEI`: R58, R132. -/
  | cmplei (d : Pred) (a : Reg) (imm : BitVec 11)
  /-- `CMPGTI`: R58, R132. -/
  | cmpgti (d : Pred) (a : Reg) (imm : BitVec 11)
  /-- `CMPGEI`: R58, R132. -/
  | cmpgei (d : Pred) (a : Reg) (imm : BitVec 11)
  /-- `CMPLTNI`: R58, R132. -/
  | cmpltni (d : Pred) (a : Reg) (imm : BitVec 11)
  /-- `CMPGTNI`: R58, R132. -/
  | cmpgtni (d : Pred) (a : Reg) (imm : BitVec 11)
  /-- `LI`: R58, R134. -/
  | li (d : Reg) (imm : BitVec 19)
  /-- `LIX`: R58, R134. -/
  | lix (d : Reg) (imm : BitVec 16)
  /-- `B`: R59, R135; word 1 to 15. -/
  | b (p : Pred) (sense : BitVec 1) (word : BitVec 4) (delta : BitVec 16)
  /-- `CALL`: R59, R135; word 1 to 15. -/
  | call (p : Pred) (sense : BitVec 1) (word : BitVec 4) (delta : BitVec 16)
  /-- `JMPR`: R60. -/
  | jmpr (a : Reg)
  /-- `CALLR`: R60. -/
  | callr (d : Reg) (a : Reg)
  /-- `LOOP`: R62, R136; word 1 to 15. -/
  | loop (lv : BitVec 2) (c : Reg) (word : BitVec 4) (delta : BitVec 13)
  /-- `MFS`: R63, R139. -/
  | mfs (d : Reg) (n : BitVec 12)
  /-- `MTS`: R63, R139. -/
  | mts (n : BitVec 12) (s : Reg)
  /-- `TSHAPE`: R64, R140. -/
  | tshape (t : TReg) (ty : BitVec 4) (cols : BitVec 7) (rows : BitVec 6)
  /-- `TRAP`: R65, R243. -/
  | trap (code : BitVec 10)
  /-- `SRET`: R65, R347. -/
  | sret
  /-- `IDLE`: R65, R347. -/
  | idle
  /-- `NOP`: R65, R128. -/
  | nop
  /-- `LD`: R66, R142. -/
  | ld (d : Reg) (a : Reg) (ty : BitVec 3) (off : BitVec 11)
  /-- `ST`: R66, R142. -/
  | st (a : Reg) (s : Reg) (sz : BitVec 2) (off : BitVec 12)
  /-- `LDA`: R67, R143. -/
  | lda (d : Reg) (a : Reg) (scope : BitVec 2) (sz : BitVec 2) (sg : BitVec 1)
  /-- `STR`: R67, R143. -/
  | str (a : Reg) (b : Reg) (scope : BitVec 2) (sz : BitVec 2)
  /-- `FENCE`: R68, R144. -/
  | fence (scope : BitVec 2)
  /-- `FENCEA`: R68, R144. -/
  | fencea (scope : BitVec 2)
  /-- `FENCER`: R68, R144. -/
  | fencer (scope : BitVec 2)
  /-- `WBR`: R68, R149 to R153. -/
  | wbr (a : Reg) (b : Reg)
  /-- `INVR`: R68, R149 to R153. -/
  | invr (a : Reg) (b : Reg)
  /-- `DISCARD`: R68, R149 to R153. -/
  | discard (a : Reg) (b : Reg)
  /-- `PREF`: R68, R149 to R153. -/
  | pref (a : Reg) (b : Reg)
  /-- `AADD`: R69, R146. -/
  | aadd (d : Reg) (a : Reg) (b : Reg) (sz : BitVec 1) (order : BitVec 2) (scope : BitVec 2)
  /-- `AAND`: R69, R146. -/
  | aand (d : Reg) (a : Reg) (b : Reg) (sz : BitVec 1) (order : BitVec 2) (scope : BitVec 2)
  /-- `AOR`: R69, R146. -/
  | aor (d : Reg) (a : Reg) (b : Reg) (sz : BitVec 1) (order : BitVec 2) (scope : BitVec 2)
  /-- `AXOR`: R69, R146. -/
  | axor (d : Reg) (a : Reg) (b : Reg) (sz : BitVec 1) (order : BitVec 2) (scope : BitVec 2)
  /-- `AMIN`: R69, R146. -/
  | amin (d : Reg) (a : Reg) (b : Reg) (sz : BitVec 1) (order : BitVec 2) (scope : BitVec 2)
  /-- `AMAX`: R69, R146. -/
  | amax (d : Reg) (a : Reg) (b : Reg) (sz : BitVec 1) (order : BitVec 2) (scope : BitVec 2)
  /-- `AMINN`: R69, R146. -/
  | aminn (d : Reg) (a : Reg) (b : Reg) (sz : BitVec 1) (order : BitVec 2) (scope : BitVec 2)
  /-- `AMAXN`: R69, R146. -/
  | amaxn (d : Reg) (a : Reg) (b : Reg) (sz : BitVec 1) (order : BitVec 2) (scope : BitVec 2)
  /-- `ASWP`: R69, R146. -/
  | aswp (d : Reg) (a : Reg) (b : Reg) (sz : BitVec 1) (order : BitVec 2) (scope : BitVec 2)
  /-- `AFADD`: R69, R146. -/
  | afadd (d : Reg) (a : Reg) (b : Reg) (order : BitVec 2) (scope : BitVec 2)
  /-- `ACAS`: R69, R146. -/
  | acas (d : Reg) (a : Reg) (b : Reg) (sz : BitVec 1) (order : BitVec 2) (scope : BitVec 2)
  /-- `JOIN`: R70, R232. -/
  | join (a : Reg) (b : Reg)
  /-- `JOINA`: R70, R232. -/
  | joina (a : Reg) (b : Reg)
  /-- `LDLAT`: R70, R232. -/
  | ldlat (d : Reg) (a : Reg)
  /-- `LDGE`: R70, R232. -/
  | ldge (d : Reg) (a : Reg) (b : Reg)
  /-- `TKWAIT`: R71, R224; a nonempty set. -/
  | tkwait (set : BitVec 3)
  /-- `TKPOST`: R71, R224; a nonempty set. -/
  | tkpost (set : BitVec 3)
  /-- `QPUSH`: R71, R217; q is 3 (QAC) or 4 (QCA). -/
  | qpush (q : BitVec 3) (a : Reg)
  /-- `QPOP`: R71, R217; q is 3 (QAC) or 4 (QCA). -/
  | qpop (d : Reg) (q : BitVec 3)
  /-- `SCLAIM`: R72, R227. -/
  | sclaim (st : BitVec 4) (d : Reg)
  /-- `SFILL`: R72, R227. -/
  | sfill (st : BitVec 4) (a : Reg)
  /-- `SWFILL`: R72, R227. -/
  | swfill (st : BitVec 4) (d : Reg)
  /-- `SREL`: R72, R227. -/
  | srel (st : BitVec 4) (a : Reg)
  /-- `SWFREE`: R72, R227. -/
  | swfree (st : BitVec 4) (a : Reg)
  /-- `CLINIT`: R73, R230. -/
  | clinit (a : Reg) (rel : BitVec 1)
  /-- `CLEXPECT`: R73, R230. -/
  | clexpect (a : Reg) (b : Reg) (rel : BitVec 1)
  /-- `CLARRIVE`: R73, R230. -/
  | clarrive (a : Reg) (b : Reg) (rel : BitVec 1)
  /-- `CLWAIT`: R73, R230. -/
  | clwait (a : Reg) (rel : BitVec 1)
  /-- `CLBASE`: R73, R229. -/
  | clbase (a : Reg)
  /-- `PUBL`: R74, R235. -/
  | publ
  /-- `RDCAD`: R74, R236. -/
  | rdcad (d : Reg)
  /-- `LOCQ`: R74, R237. -/
  | locq (d : Reg) (a : Reg)
  /-- `LAUNCH`: R74, R238. -/
  | launch (d : Reg) (a : Reg)
  /-- `PWRACQ`: R74, R239; level 1 to 255. -/
  | pwracq (lv : BitVec 8)
  /-- `PWRREL`: R74, R239. -/
  | pwrrel
  /-- `EXIT`: R74, R241. -/
  | exit
  /-- `END`: R74, R240. -/
  | end_
  /-- `TDESC`: R75, R201. -/
  | tdesc (l : Long) (slot : BitVec 4) (ga : Reg) (gb : Reg)
  /-- `SEQCFG`: R75, R211; level 0 to 5. -/
  | seqcfg (l : Long) (lv : BitVec 3) (ga : Reg) (gb : Reg) (gc : Reg)
  /-- `SEQRUN_COPY`: R75, R212. -/
  | seqrunCopy (l : Long) (ch : BitVec 3) (slot : BitVec 4) (ga : Reg) (gb : Reg)
  /-- `SEQRUN_GATHER`: R75, R212. -/
  | seqrunGather (l : Long) (ch : BitVec 3) (slot : BitVec 4) (ga : Reg) (gb : Reg)
  /-- `SEQRUN_SCATTER`: R75, R212. -/
  | seqrunScatter (l : Long) (ch : BitVec 3) (slot : BitVec 4) (ga : Reg) (gb : Reg)
  /-- `SEQRUN_CPYSCL`: R75, R212. -/
  | seqrunCpyscl (l : Long) (ch : BitVec 3) (slot : BitVec 4) (ga : Reg) (gb : Reg)
  /-- `COPY`: R75, R204. -/
  | copy (l : Long) (ch : BitVec 3) (ga : Reg) (gb : Reg) (gc : Reg)
  /-- `COPYJ`: R75, R206. -/
  | copyj (l : Long) (ch : BitVec 3) (ga : Reg) (gb : Reg) (gc : Reg)
  /-- `GATHER`: R75, R208; the field is the count less 1. -/
  | gather (l : Long) (ch : BitVec 3) (ga : Reg) (gb : Reg) (gc : Reg) (cnt : BitVec 5) (esz : BitVec 2)
  /-- `SCATTER`: R75, R208; the field is the count less 1. -/
  | scatter (l : Long) (ch : BitVec 3) (ga : Reg) (gb : Reg) (gc : Reg) (cnt : BitVec 5) (esz : BitVec 2)
  /-- `COPYMC`: R75, R209; a nonzero mask. -/
  | copymc (l : Long) (ch : BitVec 3) (ga : Reg) (gb : Reg) (gc : Reg) (mask : BitVec 4)
  /-- `CPYSCL`: R75, R207. -/
  | cpyscl (l : Long) (ch : BitVec 3) (ga : Reg) (gb : Reg) (gc : Reg)
  /-- `QSEND`: R75, R218. -/
  | qsend (l : Long) (ch : BitVec 3) (ga : Reg) (q : BitVec 1)
  /-- `QRECV`: R75, R218. -/
  | qrecv (l : Long) (ch : BitVec 3) (ga : Reg)
  /-- `CHWAIT`: R75, R197. -/
  | chwait (l : Long) (ch : BitVec 3)
  /-- `CHWAIT_STAGE`: R75, R216; a nonzero gA field. -/
  | chwaitStage (l : Long) (ch : BitVec 3) (ga : Reg)
  /-- `VADD_I`: R77, R183. -/
  | vaddI (vd : VReg) (va : VReg) (vb : VReg) (mk : MReg) (sz : BitVec 2)
  /-- `VSUB_I`: R77, R183. -/
  | vsubI (vd : VReg) (va : VReg) (vb : VReg) (mk : MReg) (sz : BitVec 2)
  /-- `VMUL_I`: R77, R183. -/
  | vmulI (vd : VReg) (va : VReg) (vb : VReg) (mk : MReg) (sz : BitVec 2)
  /-- `VADDS_I`: R77, R183. -/
  | vaddsI (vd : VReg) (va : VReg) (vb : VReg) (mk : MReg) (sz : BitVec 2)
  /-- `VSUBS_I`: R77, R183. -/
  | vsubsI (vd : VReg) (va : VReg) (vb : VReg) (mk : MReg) (sz : BitVec 2)
  /-- `VMIN_I`: R77, R183. -/
  | vminI (vd : VReg) (va : VReg) (vb : VReg) (mk : MReg) (sz : BitVec 2)
  /-- `VMAX_I`: R77, R183. -/
  | vmaxI (vd : VReg) (va : VReg) (vb : VReg) (mk : MReg) (sz : BitVec 2)
  /-- `VSHL_I`: R77, R183. -/
  | vshlI (vd : VReg) (va : VReg) (vb : VReg) (mk : MReg) (sz : BitVec 2)
  /-- `VSHR_I`: R77, R183. -/
  | vshrI (vd : VReg) (va : VReg) (vb : VReg) (mk : MReg) (sz : BitVec 2)
  /-- `VCMPEQ_I`: R77, R183. -/
  | vcmpeqI (md : MReg) (va : VReg) (vb : VReg) (mk : MReg) (sz : BitVec 2)
  /-- `VCMPLT_I`: R77, R183. -/
  | vcmpltI (md : MReg) (va : VReg) (vb : VReg) (mk : MReg) (sz : BitVec 2)
  /-- `VCMPLE_I`: R77, R183. -/
  | vcmpleI (md : MReg) (va : VReg) (vb : VReg) (mk : MReg) (sz : BitVec 2)
  /-- `VADD_N`: R77, R183. -/
  | vaddN (vd : VReg) (va : VReg) (vb : VReg) (mk : MReg) (sz : BitVec 2)
  /-- `VSUB_N`: R77, R183. -/
  | vsubN (vd : VReg) (va : VReg) (vb : VReg) (mk : MReg) (sz : BitVec 2)
  /-- `VMUL_N`: R77, R183. -/
  | vmulN (vd : VReg) (va : VReg) (vb : VReg) (mk : MReg) (sz : BitVec 2)
  /-- `VADDS_N`: R77, R183. -/
  | vaddsN (vd : VReg) (va : VReg) (vb : VReg) (mk : MReg) (sz : BitVec 2)
  /-- `VSUBS_N`: R77, R183. -/
  | vsubsN (vd : VReg) (va : VReg) (vb : VReg) (mk : MReg) (sz : BitVec 2)
  /-- `VMIN_N`: R77, R183. -/
  | vminN (vd : VReg) (va : VReg) (vb : VReg) (mk : MReg) (sz : BitVec 2)
  /-- `VMAX_N`: R77, R183. -/
  | vmaxN (vd : VReg) (va : VReg) (vb : VReg) (mk : MReg) (sz : BitVec 2)
  /-- `VSHL_N`: R77, R183. -/
  | vshlN (vd : VReg) (va : VReg) (vb : VReg) (mk : MReg) (sz : BitVec 2)
  /-- `VSHR_N`: R77, R183. -/
  | vshrN (vd : VReg) (va : VReg) (vb : VReg) (mk : MReg) (sz : BitVec 2)
  /-- `VCMPEQ_N`: R77, R183. -/
  | vcmpeqN (md : MReg) (va : VReg) (vb : VReg) (mk : MReg) (sz : BitVec 2)
  /-- `VCMPLT_N`: R77, R183. -/
  | vcmpltN (md : MReg) (va : VReg) (vb : VReg) (mk : MReg) (sz : BitVec 2)
  /-- `VCMPLE_N`: R77, R183. -/
  | vcmpleN (md : MReg) (va : VReg) (vb : VReg) (mk : MReg) (sz : BitVec 2)
  /-- `VAND`: R78, R184. -/
  | vand (vd : VReg) (va : VReg) (vb : VReg) (mk : MReg)
  /-- `VOR`: R78, R184. -/
  | vor (vd : VReg) (va : VReg) (vb : VReg) (mk : MReg)
  /-- `VXOR`: R78, R184. -/
  | vxor (vd : VReg) (va : VReg) (vb : VReg) (mk : MReg)
  /-- `VANDN`: R78, R184. -/
  | vandn (vd : VReg) (va : VReg) (vb : VReg) (mk : MReg)
  /-- `VSEL`: R78, R184. -/
  | vsel (vd : VReg) (va : VReg) (vb : VReg) (mk : MReg)
  /-- `VBCST`: R78, R184. -/
  | vbcst (vd : VReg) (a : Reg) (sz : BitVec 2) (mk : MReg)
  /-- `VSHUF`: R78, R184. -/
  | vshuf (vd : VReg) (va : VReg) (vb : VReg) (mk : MReg)
  /-- `VMOV`: R78, R184. -/
  | vmov (vd : VReg) (va : VReg) (mk : MReg)
  /-- `MAND`: R78, R184. -/
  | mand (md : MReg) (ma : MReg) (mb : MReg)
  /-- `MOR`: R78, R184. -/
  | mor (md : MReg) (ma : MReg) (mb : MReg)
  /-- `MXOR`: R78, R184. -/
  | mxor (md : MReg) (ma : MReg) (mb : MReg)
  /-- `MANDN`: R78, R184. -/
  | mandn (md : MReg) (ma : MReg) (mb : MReg)
  /-- `MNOT`: R78, R184. -/
  | mnot (md : MReg) (ma : MReg)
  /-- `VLANE`: R78, R184. -/
  | vlane (d : Reg) (va : VReg) (lane : BitVec 4)
  /-- `VADD_F`: R79, R185. -/
  | vaddF (vd : VReg) (va : VReg) (vb : VReg) (mk : MReg) (ty : BitVec 2)
  /-- `VSUB_F`: R79, R185. -/
  | vsubF (vd : VReg) (va : VReg) (vb : VReg) (mk : MReg) (ty : BitVec 2)
  /-- `VMUL_F`: R79, R185. -/
  | vmulF (vd : VReg) (va : VReg) (vb : VReg) (mk : MReg) (ty : BitVec 2)
  /-- `VFMA`: R79, R185. -/
  | vfma (vd : VReg) (va : VReg) (vb : VReg) (mk : MReg) (ty : BitVec 2)
  /-- `VMIN_F`: R79, R185. -/
  | vminF (vd : VReg) (va : VReg) (vb : VReg) (mk : MReg) (ty : BitVec 2)
  /-- `VMAX_F`: R79, R185. -/
  | vmaxF (vd : VReg) (va : VReg) (vb : VReg) (mk : MReg) (ty : BitVec 2)
  /-- `VCMPEQ_F`: R79, R185. -/
  | vcmpeqF (md : MReg) (va : VReg) (vb : VReg) (mk : MReg) (ty : BitVec 2)
  /-- `VCMPLT_F`: R79, R185. -/
  | vcmpltF (md : MReg) (va : VReg) (vb : VReg) (mk : MReg) (ty : BitVec 2)
  /-- `VCMPLE_F`: R79, R185. -/
  | vcmpleF (md : MReg) (va : VReg) (vb : VReg) (mk : MReg) (ty : BitVec 2)
  /-- `VABS`: R79, R185. -/
  | vabs (vd : VReg) (va : VReg) (mk : MReg) (ty : BitVec 2)
  /-- `VNEG`: R79, R185. -/
  | vneg (vd : VReg) (va : VReg) (mk : MReg) (ty : BitVec 2)
  /-- `VEXP2`: R79, R187, R188. -/
  | vexp2 (vd : VReg) (va : VReg) (mk : MReg)
  /-- `VLOG2`: R79, R187, R188. -/
  | vlog2 (vd : VReg) (va : VReg) (mk : MReg)
  /-- `VRCP`: R79, R187, R188. -/
  | vrcp (vd : VReg) (va : VReg) (mk : MReg)
  /-- `VRSQ`: R79, R187, R188. -/
  | vrsq (vd : VReg) (va : VReg) (mk : MReg)
  /-- `VTANH`: R79, R187, R188. -/
  | vtanh (vd : VReg) (va : VReg) (mk : MReg)
  /-- `VRSUM`: R79, R187, R188. -/
  | vrsum (vd : VReg) (va : VReg) (mk : MReg)
  /-- `VRMAX`: R79, R187, R188. -/
  | vrmax (vd : VReg) (va : VReg) (mk : MReg)
  /-- `VRMIN`: R79, R187, R188. -/
  | vrmin (vd : VReg) (va : VReg) (mk : MReg)
  /-- `VTOPK`: R79, R189; even registers. -/
  | vtopk (vd : VReg) (va : VReg) (vb : VReg) (mk : MReg)
  /-- `VCVT`: R80, R190. -/
  | vcvt (vd : VReg) (va : VReg) (dt : BitVec 4) (st : BitVec 4) (rm : BitVec 2) (sa : BitVec 1) (mk : MReg)
  /-- `VLD`: R81, R191 to R193. -/
  | vld (l : Long) (v : VReg) (a : Reg) (off : BitVec 7) (mk : MReg)
  /-- `VST`: R81, R191 to R193. -/
  | vst (l : Long) (v : VReg) (a : Reg) (off : BitVec 7) (mk : MReg)
  /-- `VQPOP`: R81, R191 to R193. -/
  | vqpop (l : Long) (v : VReg) (mk : MReg)
  /-- `VQPUSH`: R81, R191 to R193. -/
  | vqpush (l : Long) (v : VReg) (mk : MReg)
  /-- `FMTW`: R82, R160. -/
  | fmtw (l : Long) (g : Reg)
  /-- `TLD`: R82, R162. -/
  | tld (l : Long) (ta : TReg) (g : Reg)
  /-- `TST`: R82, R162. -/
  | tst (l : Long) (ta : TReg) (g : Reg)
  /-- `TQLD`: R82, R162. -/
  | tqld (l : Long) (ta : TReg)
  /-- `TZERO`: R82, R163. -/
  | tzero (l : Long) (ta : TReg)
  /-- `TTRANS`: R82, R163. -/
  | ttrans (l : Long) (ta : TReg) (tb : TReg)
  /-- `TCVT`: R82, R164. -/
  | tcvt (l : Long) (ta : TReg) (tb : TReg) (rm : BitVec 2)
  /-- `TMMA`: R82, R165. -/
  | tmma (l : Long) (acc : BitVec 6) (ta : TReg) (tb : TReg)
  /-- `TMMAS`: R82, R166. -/
  | tmmas (l : Long) (acc : BitVec 6) (ta : TReg) (tb : TReg) (g : Reg)
  /-- `TDRAIN`: R82, R168. -/
  | tdrain (l : Long) (g : Reg) (acc : BitVec 6)
  /-- `TDRAINADD`: R82, R169. -/
  | tdrainadd (l : Long) (g : Reg) (acc : BitVec 6) (k : BitVec 1)
  /-- `HMRD`: R82, R172; g even, 2 to 30. -/
  | hmrd (l : Long) (g : Reg) (acc : BitVec 6)
  /-- `HMCLR`: R82, R173. -/
  | hmclr (l : Long) (acc : BitVec 6)
  /-- `VECTOR_FORM_FINISH`: R191; the oldest held form of a cluster takes its turn. -/
  | vectorFormFinish (core : Fin 768) (turn : FormTurn)
  /-- `SYNC_RENDEZVOUS`: R48. -/
  | syncRendezvous (core : Fin 768)
  /-- `STALLED_BUNDLE_ISSUE`: R25. -/
  | stalledBundleIssue (core : Fin 768) (clu : Clu)
  /-- `STAMPED_ISSUE`: R174; the upsets of the two engines are the environment's. -/
  | stampedIssue (on : Struck)
  /-- `SCHEDULE_MISS`: R176. -/
  | scheduleMiss (core : Fin 768)
  /-- `MATRIX_COMMAND_START`: R156; the upsets of the two engines are the environment's. -/
  | matrixCommandStart (core : Fin 768) (upsetP upsetS : Upset)
  /-- `MATRIX_COMMAND_FINISH`: R159. -/
  | matrixCommandFinish (core : Fin 768)
  /-- `HALLMARK_COMPARE`: R322. -/
  | hallmarkCompare (core : Fin 768) (acc : BitVec 6)
  /-- `ASSAY_START`: R325. -/
  | assayStart (core : Fin 768)
  /-- `ASSAY_VERDICT`: R326. -/
  | assayVerdict (core : Fin 768) (upset : Upset)
  /-- `LOCKET_RELEASE`: R171, R323; the oldest held drain of an accumulator. -/
  | locketRelease (core : Fin 768) (acc : BitVec 6) (upsetP upsetS : Upset)
  /-- `CHANNEL_COMMAND_START`: R196. -/
  | channelCommandStart (core : Fin 768) (ch : Fin 8)
  /-- `COPY_PIECE`: R260. -/
  | copyPiece (core : Fin 768) (turn : ChanTurn)
  /-- `PIECE_ARRIVAL`: R221; the upset is XORed into the piece's first word on the way. -/
  | pieceArrival (core : Fin 768) (ch : Fin 8) (upset : BitVec 32)
  /-- `SEQUENCER_EMISSION`: R212. -/
  | sequencerEmission (core : Fin 768) (turn : ChanTurn)
  /-- `MULTICAST_ARRIVAL`: R210. -/
  | multicastArrival (core : Fin 768)
  /-- `WATERMARK_RELEASE`: R215. -/
  | watermarkRelease (core : Fin 768) (clu : Clu)
  /-- `CHANNEL_COMMAND_FINISH`: R196. -/
  | channelCommandFinish (core : Fin 768) (ch : Fin 8)
  /-- `CHWAIT_FINISH`: R197. -/
  | chwaitFinish (core : Fin 768)
  /-- `STRAND_WAIT_END`: R227. -/
  | strandWaitEnd (core : Fin 768) (clu : Clu)
  /-- `CLASP_WAIT_PASS`: R230. -/
  | claspWaitPass (core : Fin 768) (clu : Clu)
  /-- `CLASP_TIMEOUT`: R230. -/
  | claspTimeout (core : Fin 768) (clu : Clu)
  /-- `LATTICE_WAIT_PASS`: R232. -/
  | latticeWaitPass (core : Fin 768) (clu : Clu)
  /-- `LATTICE_TIMEOUT`: R234. -/
  | latticeTimeout (core : Fin 768) (clu : Clu)
  /-- `POWER_GRANT`: R395; the sensors' answers are the environment's. -/
  | powerGrant (die : Fin 8) (thermalOk currentOk : Bool)
  /-- `TRAP_DELIVERY`: R345. -/
  | trapDelivery (core : Fin 768) (clu : Clu)
  /-- `HANDLER_TIMEOUT`: R348. -/
  | handlerTimeout (core : Fin 768) (clu : Clu)
  /-- `TASK_RETIRE`: R241. -/
  | taskRetire (core : Fin 768)
  /-- `WALKER_PLACE`: R251; the choice among the cores that are free is the walker's (R3). -/
  | walkerPlace (choice : Nat)
  /-- `SAVE_COMPLETE`: R351; the upsets are those of a group stop's partial result and of its assay (R328). -/
  | saveComplete (on : Stopping)
  /-- `RESTORE_ISSUE_START`: R355; the upsets fall on a command that goes on from a group stop (R322, R328). -/
  | restoreIssueStart (on : Struck)
  /-- `LAUNCH_COMPLETE`: R265. -/
  | launchComplete (lid : BitVec 16)
  /-- `HOME_SLICE_ACCESS`: R280; an access of an aligned 8-byte word at its home slice, through a context slot. -/
  | homeSliceAccess (place : MemRef) (data : Option (BitVec 64))
  /-- `RDS`: R280; the line of an address of a context slot, and the die that asks. -/
  | rds (place : MemRef) (die : Fin 8)
  /-- `RDX`: R280; the line of an address of a context slot, and the die that asks. -/
  | rdx (place : MemRef) (die : Fin 8)
  /-- `UPG`: R280; the line of an address of a context slot, and the die that asks. -/
  | upg (place : MemRef) (die : Fin 8)
  /-- `PUTC`: R280. -/
  | putc (line : Nat) (die : Fin 8)
  /-- `PUTM`: R280. -/
  | putm (line : Nat) (die : Fin 8)
  /-- `DIRECTORY_ACK`: R280. -/
  | directoryAck (line : Nat) (die : Fin 8)
  /-- `INV`: R279. -/
  | inv (line : Nat) (die : Fin 8)
  /-- `RECALL_S`: R279. -/
  | recallS (line : Nat) (die : Fin 8)
  /-- `RECALL_I`: R279. -/
  | recallI (line : Nat) (die : Fin 8)
  /-- `GRANT`: R279. -/
  | grant (line : Nat) (die : Fin 8)
  /-- `EXCHANGE_INSTANT`: R316. -/
  | exchangeInstant (sched : Fin 8)
  /-- `EXCHANGE_LINE_DELIVERY`: R316. -/
  | exchangeLineDelivery
  /-- `FLIT_RECEIVE`: R374. -/
  | flitReceive (link : Fin 14) (dir : Fin 2) (crcOk : Bool)
  /-- `FLIT_REPLAY`: R374. -/
  | flitReplay (link : Fin 14) (dir : Fin 2)
  /-- `FLIT_ACK`: R374. -/
  | flitAck (link : Fin 14) (dir : Fin 2)
  /-- `LINK_STOP_END`: R371. -/
  | linkStopEnd (link : Fin 14)
  /-- `LANE_RETIREMENT`: R373. -/
  | laneRetirement (link : Fin 14) (dir : Fin 2) (group : Fin 32)
  /-- `LKCTL_RATE_CHANGE`: R371. -/
  | lkctlRateChange (link : Fin 14) (value : BitVec 64)
  /-- `LKCTL_RETIRE`: R371. -/
  | lkctlRetire (link : Fin 14) (value : BitVec 64)
  /-- `LKCTL_RETIRE1`: R371. -/
  | lkctlRetire1 (link : Fin 14) (value : BitVec 64)
  /-- `CLOCK_STRETCH`: R380. -/
  | clockStretch (island : Fin 76) (margin : BitVec 3)
  /-- `ISTATE_WRITE`: R393. -/
  | istateWrite (island : Fin 76) (value : BitVec 64)
  /-- `ISLAND_STOP_END`: R381. -/
  | islandStopEnd (island : Fin 76)
  /-- `CAP_STRETCH`: R397. -/
  | capStretch (die : Fin 8) (power : BitVec 16)
  /-- `BALLAST_START`: R398; the fall of the die's current in 0.1 A per µs. -/
  | ballastStart (die : Fin 8) (fall : Nat)
  /-- `BALLAST_END`: R398. -/
  | ballastEnd (die : Fin 8)
  /-- `HOST_WINDOW_ACCESS`: R386. -/
  | hostWindowAccess (addr : BitVec 64) (req : HostReq)
  /-- `SUBMIT`: R388. -/
  | submit (q : Fin 32) (addr : BitVec 64)
  /-- `HQLID`: R388. -/
  | hqlid (lid : BitVec 16)
  /-- `KS_LOAD`: R391. -/
  | ksLoad (slot : BitVec 10) (keys : BitVec 512)
  /-- `KS_INVALIDATE`: R391. -/
  | ksInvalidate (slot : BitVec 10)
  /-- `KS_ERASE`: R391. -/
  | ksErase (slot : BitVec 10)
  /-- `PEER_ACCESS`: R389. -/
  | peerAccess (off : BitVec 48) (req : HostReq)
  /-- `REDUCTION_WRITE`: R389. -/
  | reductionWrite (off : BitVec 48) (op : Fin 9) (sz : BitVec 1) (data : BitVec 64)
  /-- `UALINK_PORT_LOSS`: R389. -/
  | ualinkPortLoss (port : Fin 16)
  /-- `CXL_PORT_ERROR`: R390. -/
  | cxlPortError (port : Fin 8) (lost : Bool)
  /-- `DEVICE_RESET`: R400. -/
  | deviceReset (cxlFrames : List (BitVec 40))
  /-- `BOOT_LOAD`: R401. -/
  | bootLoad (addr len : BitVec 64) (signatureOk readOk : Bool)
  /-- `LRT_LOAD`: R311. -/
  | lrtLoad (addr : BitVec 64)
  /-- `LRT_UNLOAD`: R311. -/
  | lrtUnload
  /-- `XSCH_WRITE`: R315. -/
  | xschWrite (k : Fin 8) (value : BitVec 64)
  /-- `SHOOTDOWN_PAGES`: R364. -/
  | shootdownPages (value : BitVec 64)
  /-- `SHOOTDOWN_TENSOR`: R364. -/
  | shootdownTensor (value : BitVec 64)
  /-- `SHOOTDOWN_CONTEXT`: R364. -/
  | shootdownContext (value : BitVec 64)
  /-- `TRESUME_PLACE`: R357. -/
  | tresumePlace (slot : BitVec 16)
  /-- `TRESUME_KILL`: R357. -/
  | tresumeKill (slot : BitVec 16)
  /-- `LCTL_SAVE`: R357. -/
  | lctlSave (lid : BitVec 16)
  /-- `LCTL_KILL`: R357. -/
  | lctlKill (lid : BitVec 16)
  /-- `IFT_START`: R338. -/
  | iftStart (value : BitVec 64)
  /-- `IFT_COMPLETE`: R338. -/
  | iftComplete (pass : Bool)
  /-- `CFENCE_CLEAR`: R338. -/
  | cfenceClear (n : Fin 12) (value : BitVec 64)
  /-- `EMUDONE_FINISH`: R349. -/
  | emudoneFinish (core : Fin 768)
  /-- `EMUDONE_FAULT`: R349. -/
  | emudoneFault (core : Fin 768)
  /-- `WAKE`: R347. -/
  | wake (core : Fin 768) (mask : BitVec 4)
  /-- `REGISTER_WRITE`: R367. -/
  | registerWrite (core : Fin 768) (n : BitVec 12) (value : BitVec 64)
  /-- `PATROL_SCRUB`: R287; a location in the form of CELOC, and what reading it finds: 0 no error, 1 an error that is
  corrected, 2 one that is not. -/
  | patrolScrub (die : Fin 8) (unit : BitVec 2) (loc : BitVec 56) (found : Fin 3)
  deriving DecidableEq, Repr

end Sys2Proof
end

