-- ==== Sys2Proof/WellFormed.lean ====
section
/-! DEFINITION. Which instruction terms have an encoding: the field limits of 02 R53 to R82 that the operand types do
not already say. Events have no encoding. -/

namespace Sys2Proof

/-- The largest COLS of an element-type code, 0 for the unshaped code (R18, R64). -/
def maxCols (ty : BitVec 4) : Nat :=
  match ty.toNat with
  | 0 => 0 | 5 => 32 | 6 => 32 | 7 => 16 | 8 => 16 | _ => 64

/-- The legal ETYPE, COLS and ROWS combinations of `TSHAPE` (R64). -/
def tshapeLegal (ty : BitVec 4) (cols : BitVec 7) (rows : BitVec 6) : Bool :=
  if ty = 0 then decide (cols = 0) && decide (rows = 0)
  else decide (1 ≤ rows.toNat) && decide (rows.toNat ≤ 32) && decide (1 ≤ cols.toNat) && decide (cols.toNat ≤ maxCols ty)

/-- A vector type code of `VCVT` (R80): 0x1 to 0xC. -/
def vtypeLegal (t : BitVec 4) : Bool := decide (1 ≤ t.toNat) && decide (t.toNat ≤ 12)

/-- The legal codes of `VCVT` (R80, R122, R190): SR into LOG6 is refused. -/
def vcvtLegal (dt st : BitVec 4) (rm : BitVec 2) : Bool :=
  vtypeLegal dt && vtypeLegal st && decide (rm ≠ 3) && (decide (dt ≠ 4) || decide (rm ≠ 2))

/-- The field limits of an instruction; false of an event, which has no encoding. -/
def wellFormed : Instr → Bool
  | .add _ _ _ => true
  | .sub _ _ _ => true
  | .addt _ _ _ => true
  | .subt _ _ _ => true
  | .mul _ _ _ => true
  | .mulh _ _ _ => true
  | .mulhn _ _ _ => true
  | .mult _ _ _ => true
  | .div _ _ _ => true
  | .divn _ _ _ => true
  | .rem _ _ _ => true
  | .remn _ _ _ => true
  | .min _ _ _ => true
  | .max _ _ _ => true
  | .minn _ _ _ => true
  | .maxn _ _ _ => true
  | .and _ _ _ => true
  | .or _ _ _ => true
  | .xor _ _ _ => true
  | .andn _ _ _ => true
  | .orn _ _ _ => true
  | .shl _ _ _ => true
  | .shr _ _ _ => true
  | .sra _ _ _ => true
  | .rol _ _ _ => true
  | .ror _ _ _ => true
  | .clz _ _ => true
  | .ctz _ _ => true
  | .popc _ _ => true
  | .brev _ _ => true
  | .bswap _ _ => true
  | .sextI8 _ _ => true
  | .sextI16 _ _ => true
  | .sextI32 _ _ => true
  | .zextN8 _ _ => true
  | .zextN16 _ _ => true
  | .zextN32 _ _ => true
  | .cmpeq _ _ _ => true
  | .cmpne _ _ _ => true
  | .cmplt _ _ _ => true
  | .cmple _ _ _ => true
  | .cmpltn _ _ _ => true
  | .cmplen _ _ _ => true
  | .tstnz _ _ _ => true
  | .pand _ _ _ => true
  | .por _ _ _ => true
  | .pxor _ _ _ => true
  | .pandn _ _ _ => true
  | .pnot _ _ => true
  | .pset _ _ => true
  | .pget _ _ => true
  | .sel _ _ _ _ => true
  | .lea _ _ _ _ => true
  | .gaddr _ _ _ => true
  | .addi _ _ _ => true
  | .andi _ _ _ => true
  | .ori _ _ _ => true
  | .xori _ _ _ => true
  | .shli _ _ _ => true
  | .shri _ _ _ => true
  | .srai _ _ _ => true
  | .rori _ _ _ => true
  | .cmpeqi _ _ _ => true
  | .cmpnei _ _ _ => true
  | .cmplti _ _ _ => true
  | .cmplei _ _ _ => true
  | .cmpgti _ _ _ => true
  | .cmpgei _ _ _ => true
  | .cmpltni _ _ _ => true
  | .cmpgtni _ _ _ => true
  | .li _ _ => true
  | .lix _ _ => true
  | .b _ _ word _ => decide (word ≠ 0)
  | .call _ _ word _ => decide (word ≠ 0)
  | .jmpr _ => true
  | .callr _ _ => true
  | .loop _ _ word _ => decide (word ≠ 0)
  | .mfs _ _ => true
  | .mts _ _ => true
  | .tshape _ ty cols rows => tshapeLegal ty cols rows
  | .trap _ => true
  | .sret => true
  | .idle => true
  | .nop => true
  | .ld _ _ ty _ => decide (ty ≠ 7)
  | .st _ _ _ _ => true
  | .lda _ _ _ sz sg => (decide (sg = 0) || decide (sz ≠ 3))
  | .str _ _ _ _ => true
  | .fence _ => true
  | .fencea _ => true
  | .fencer _ => true
  | .wbr _ _ => true
  | .invr _ _ => true
  | .discard _ _ => true
  | .pref _ _ => true
  | .aadd _ _ _ _ _ _ => true
  | .aand _ _ _ _ _ _ => true
  | .aor _ _ _ _ _ _ => true
  | .axor _ _ _ _ _ _ => true
  | .amin _ _ _ _ _ _ => true
  | .amax _ _ _ _ _ _ => true
  | .aminn _ _ _ _ _ _ => true
  | .amaxn _ _ _ _ _ _ => true
  | .aswp _ _ _ _ _ _ => true
  | .afadd _ _ _ _ _ => true
  | .acas _ _ _ _ _ _ => true
  | .join _ _ => true
  | .joina _ _ => true
  | .ldlat _ _ => true
  | .ldge _ _ _ => true
  | .tkwait set => decide (set ≠ 0)
  | .tkpost set => decide (set ≠ 0)
  | .qpush q _ => (decide (q = 3) || decide (q = 4))
  | .qpop _ q => (decide (q = 3) || decide (q = 4))
  | .sclaim _ _ => true
  | .sfill _ _ => true
  | .swfill _ _ => true
  | .srel _ _ => true
  | .swfree _ _ => true
  | .clinit _ _ => true
  | .clexpect _ _ _ => true
  | .clarrive _ _ _ => true
  | .clwait _ _ => true
  | .clbase _ => true
  | .publ => true
  | .rdcad _ => true
  | .locq _ _ => true
  | .launch _ _ => true
  | .pwracq lv => decide (lv ≠ 0)
  | .pwrrel => true
  | .exit => true
  | .end_ => true
  | .tdesc l _ _ _ => decide (l.stamp = 0)
  | .seqcfg l lv _ _ _ => decide (lv.toNat < 6) && decide (l.stamp = 0)
  | .seqrunCopy l _ _ _ _ => decide (l.stamp = 0)
  | .seqrunGather l _ _ _ _ => decide (l.stamp = 0)
  | .seqrunScatter l _ _ _ _ => decide (l.stamp = 0)
  | .seqrunCpyscl l _ _ _ _ => decide (l.stamp = 0)
  | .copy l _ _ _ _ => decide (l.stamp = 0)
  | .copyj l _ _ _ _ => decide (l.stamp = 0)
  | .gather l _ _ _ _ cnt _ => decide (cnt.toNat < 16) && decide (l.stamp = 0)
  | .scatter l _ _ _ _ cnt _ => decide (cnt.toNat < 16) && decide (l.stamp = 0)
  | .copymc l _ _ _ _ mask => decide (mask ≠ 0) && decide (l.stamp = 0)
  | .cpyscl l _ _ _ _ => decide (l.stamp = 0)
  | .qsend l _ _ _ => decide (l.stamp = 0)
  | .qrecv l _ _ => decide (l.stamp = 0)
  | .chwait l _ => decide (l.stamp = 0)
  | .chwaitStage l _ ga => decide (ga ≠ 0) && decide (l.stamp = 0)
  | .vaddI _ _ _ _ sz => decide (sz ≠ 3)
  | .vsubI _ _ _ _ sz => decide (sz ≠ 3)
  | .vmulI _ _ _ _ sz => decide (sz ≠ 3)
  | .vaddsI _ _ _ _ sz => decide (sz ≠ 3)
  | .vsubsI _ _ _ _ sz => decide (sz ≠ 3)
  | .vminI _ _ _ _ sz => decide (sz ≠ 3)
  | .vmaxI _ _ _ _ sz => decide (sz ≠ 3)
  | .vshlI _ _ _ _ sz => decide (sz ≠ 3)
  | .vshrI _ _ _ _ sz => decide (sz ≠ 3)
  | .vcmpeqI _ _ _ _ sz => decide (sz ≠ 3)
  | .vcmpltI _ _ _ _ sz => decide (sz ≠ 3)
  | .vcmpleI _ _ _ _ sz => decide (sz ≠ 3)
  | .vaddN _ _ _ _ sz => decide (sz ≠ 3)
  | .vsubN _ _ _ _ sz => decide (sz ≠ 3)
  | .vmulN _ _ _ _ sz => decide (sz ≠ 3)
  | .vaddsN _ _ _ _ sz => decide (sz ≠ 3)
  | .vsubsN _ _ _ _ sz => decide (sz ≠ 3)
  | .vminN _ _ _ _ sz => decide (sz ≠ 3)
  | .vmaxN _ _ _ _ sz => decide (sz ≠ 3)
  | .vshlN _ _ _ _ sz => decide (sz ≠ 3)
  | .vshrN _ _ _ _ sz => decide (sz ≠ 3)
  | .vcmpeqN _ _ _ _ sz => decide (sz ≠ 3)
  | .vcmpltN _ _ _ _ sz => decide (sz ≠ 3)
  | .vcmpleN _ _ _ _ sz => decide (sz ≠ 3)
  | .vand _ _ _ _ => true
  | .vor _ _ _ _ => true
  | .vxor _ _ _ _ => true
  | .vandn _ _ _ _ => true
  | .vsel _ _ _ _ => true
  | .vbcst _ _ _ _ => true
  | .vshuf _ _ _ _ => true
  | .vmov _ _ _ => true
  | .mand _ _ _ => true
  | .mor _ _ _ => true
  | .mxor _ _ _ => true
  | .mandn _ _ _ => true
  | .mnot _ _ => true
  | .vlane _ _ _ => true
  | .vaddF _ _ _ _ ty => decide (ty ≠ 3)
  | .vsubF _ _ _ _ ty => decide (ty ≠ 3)
  | .vmulF _ _ _ _ ty => decide (ty ≠ 3)
  | .vfma _ _ _ _ ty => decide (ty ≠ 3)
  | .vminF _ _ _ _ ty => decide (ty ≠ 3)
  | .vmaxF _ _ _ _ ty => decide (ty ≠ 3)
  | .vcmpeqF _ _ _ _ ty => decide (ty ≠ 3)
  | .vcmpltF _ _ _ _ ty => decide (ty ≠ 3)
  | .vcmpleF _ _ _ _ ty => decide (ty ≠ 3)
  | .vabs _ _ _ ty => decide (ty ≠ 3)
  | .vneg _ _ _ ty => decide (ty ≠ 3)
  | .vexp2 _ _ _ => true
  | .vlog2 _ _ _ => true
  | .vrcp _ _ _ => true
  | .vrsq _ _ _ => true
  | .vtanh _ _ _ => true
  | .vrsum _ _ _ => true
  | .vrmax _ _ _ => true
  | .vrmin _ _ _ => true
  | .vtopk vd va vb _ => (decide (vd.val % 2 = 0) && decide (va.val % 2 = 0) && decide (vb.val % 2 = 0))
  | .vcvt _ _ dt st rm _ _ => vcvtLegal dt st rm
  | .vld l _ _ _ _ => decide (l.stamp = 0)
  | .vst l _ _ _ _ => decide (l.stamp = 0)
  | .vqpop l _ _ => decide (l.stamp = 0)
  | .vqpush l _ _ => decide (l.stamp = 0)
  | .fmtw l _ => decide (l.stamp = 0)
  | .tld _ _ _ => true
  | .tst _ _ _ => true
  | .tqld _ _ => true
  | .tzero _ _ => true
  | .ttrans _ _ _ => true
  | .tcvt _ _ _ rm => decide (rm ≠ 3)
  | .tmma _ acc _ _ => decide (acc.toNat < 48)
  | .tmmas _ acc _ _ _ => decide (acc.toNat < 48)
  | .tdrain _ _ acc => decide (acc.toNat < 48)
  | .tdrainadd _ _ acc _ => decide (acc.toNat < 48)
  | .hmrd _ g acc => (decide (acc.toNat < 48) && decide (g.val % 2 = 0) && decide (g.val ≠ 0))
  | .hmclr _ acc => decide (acc.toNat < 48)
  | .vectorFormFinish _ _ => false
  | .syncRendezvous _ => false
  | .stalledBundleIssue _ _ => false
  | .stampedIssue _ => false
  | .scheduleMiss _ => false
  | .matrixCommandStart _ _ _ => false
  | .matrixCommandFinish _ => false
  | .hallmarkCompare _ _ => false
  | .assayStart _ => false
  | .assayVerdict _ _ => false
  | .locketRelease _ _ _ _ => false
  | .channelCommandStart _ _ => false
  | .copyPiece _ _ => false
  | .pieceArrival _ _ _ => false
  | .sequencerEmission _ _ => false
  | .multicastArrival _ => false
  | .watermarkRelease _ _ => false
  | .channelCommandFinish _ _ => false
  | .chwaitFinish _ => false
  | .strandWaitEnd _ _ => false
  | .claspWaitPass _ _ => false
  | .claspTimeout _ _ => false
  | .latticeWaitPass _ _ => false
  | .latticeTimeout _ _ => false
  | .powerGrant _ _ _ => false
  | .trapDelivery _ _ => false
  | .handlerTimeout _ _ => false
  | .taskRetire _ => false
  | .walkerPlace _ => false
  | .saveComplete _ => false
  | .restoreIssueStart _ => false
  | .launchComplete _ => false
  | .homeSliceAccess _ _ => false
  | .rds _ _ => false
  | .rdx _ _ => false
  | .upg _ _ => false
  | .putc _ _ => false
  | .putm _ _ => false
  | .directoryAck _ _ => false
  | .inv _ _ => false
  | .recallS _ _ => false
  | .recallI _ _ => false
  | .grant _ _ => false
  | .exchangeInstant _ => false
  | .exchangeLineDelivery => false
  | .flitReceive _ _ _ => false
  | .flitReplay _ _ => false
  | .flitAck _ _ => false
  | .linkStopEnd _ => false
  | .laneRetirement _ _ _ => false
  | .lkctlRateChange _ _ => false
  | .lkctlRetire _ _ => false
  | .lkctlRetire1 _ _ => false
  | .clockStretch _ _ => false
  | .istateWrite _ _ => false
  | .islandStopEnd _ => false
  | .capStretch _ _ => false
  | .ballastStart _ _ => false
  | .ballastEnd _ => false
  | .hostWindowAccess _ _ => false
  | .submit _ _ => false
  | .hqlid _ => false
  | .ksLoad _ _ => false
  | .ksInvalidate _ => false
  | .ksErase _ => false
  | .peerAccess _ _ => false
  | .reductionWrite _ _ _ _ => false
  | .ualinkPortLoss _ => false
  | .cxlPortError _ _ => false
  | .deviceReset _ => false
  | .bootLoad _ _ _ _ => false
  | .lrtLoad _ => false
  | .lrtUnload => false
  | .xschWrite _ _ => false
  | .shootdownPages _ => false
  | .shootdownTensor _ => false
  | .shootdownContext _ => false
  | .tresumePlace _ => false
  | .tresumeKill _ => false
  | .lctlSave _ => false
  | .lctlKill _ => false
  | .iftStart _ => false
  | .iftComplete _ => false
  | .cfenceClear _ _ => false
  | .emudoneFinish _ => false
  | .emudoneFault _ => false
  | .wake _ _ => false
  | .registerWrite _ _ _ => false
  | .patrolScrub _ _ _ _ => false

end Sys2Proof
end

