-- ==== Sys2Proof/Decode.lean ====
section
/-! DEFINITION. Decoding of instruction words, total and rejecting by name (02 R49 to R83), and the encoder written from
the same encoding tables. Words are natural numbers below 2^32; bit 0 is the least significant. -/

namespace Sys2Proof

/-- Why a word is no instruction (R83); each is the illegal-instruction fault. -/
inductive DecodeError where
  /-- The major is one of the unassigned majors, or major 0x00 with a bit set. -/
  | unassignedMajor
  /-- A function code, sub-code or zero field has a value that no form takes. -/
  | noSuchForm
  /-- The form exists, but a field holds a reserved value. -/
  | reservedValue
  deriving DecidableEq, Repr

/-- Bits lo up to lo + wd - 1 of a word. -/
def fld (w lo wd : Nat) : Nat := w / 2 ^ lo % 2 ^ wd

/-- The major of a first word (R49). -/
def majorOf (w0 : Nat) : Nat := fld w0 26 6

/-- The majors of the long forms (R49). -/
def isLongMajor (m : Nat) : Bool :=
  (decide (0x28 ≤ m) && decide (m ≤ 0x2F)) || decide (m = 0x36) || (decide (0x38 ≤ m) && decide (m ≤ 0x3E))

/-- The assigned majors (R54); 0x00 is PAD, and an instruction of no kind. -/
def majorAssigned (m : Nat) : Bool :=
  !(decide (m = 0) || decide (m = 0x07) || decide (m = 0x1E) || decide (m = 0x1F) || decide (m = 0x26) ||
    decide (m = 0x27) || decide (m = 0x37) || decide (m = 0x3F)) && decide (m < 64)

/-- The guard, sets and stamp of a second word (R50). -/
def longOf (w1 : Nat) : Long :=
  { guard := Fin.ofNat 8 (fld w1 29 3), wait := BitVec.ofNat 3 (fld w1 26 3), post := BitVec.ofNat 3 (fld w1 23 3),
    stamp := BitVec.ofNat 16 (fld w1 7 16) }

/-- An instruction whose fields are within their limits, or the named refusal. -/
def checked (i : Instr) : Except DecodeError Instr :=
  if wellFormed i then .ok i else .error .reservedValue

/-- The forms of major 0x01. -/
def decode01 (w0 : Nat) : Except DecodeError Instr :=
  if fld w0 0 9 = 0 then checked (.add (Fin.ofNat 32 (fld w0 19 5)) (Fin.ofNat 32 (fld w0 14 5)) (Fin.ofNat 32 (fld w0 9 5)))
  else if fld w0 0 9 = 1 then checked (.sub (Fin.ofNat 32 (fld w0 19 5)) (Fin.ofNat 32 (fld w0 14 5)) (Fin.ofNat 32 (fld w0 9 5)))
  else if fld w0 0 9 = 2 then checked (.addt (Fin.ofNat 32 (fld w0 19 5)) (Fin.ofNat 32 (fld w0 14 5)) (Fin.ofNat 32 (fld w0 9 5)))
  else if fld w0 0 9 = 3 then checked (.subt (Fin.ofNat 32 (fld w0 19 5)) (Fin.ofNat 32 (fld w0 14 5)) (Fin.ofNat 32 (fld w0 9 5)))
  else if fld w0 0 9 = 4 then checked (.mul (Fin.ofNat 32 (fld w0 19 5)) (Fin.ofNat 32 (fld w0 14 5)) (Fin.ofNat 32 (fld w0 9 5)))
  else if fld w0 0 9 = 5 then checked (.mulh (Fin.ofNat 32 (fld w0 19 5)) (Fin.ofNat 32 (fld w0 14 5)) (Fin.ofNat 32 (fld w0 9 5)))
  else if fld w0 0 9 = 6 then checked (.mulhn (Fin.ofNat 32 (fld w0 19 5)) (Fin.ofNat 32 (fld w0 14 5)) (Fin.ofNat 32 (fld w0 9 5)))
  else if fld w0 0 9 = 7 then checked (.mult (Fin.ofNat 32 (fld w0 19 5)) (Fin.ofNat 32 (fld w0 14 5)) (Fin.ofNat 32 (fld w0 9 5)))
  else if fld w0 0 9 = 8 then checked (.div (Fin.ofNat 32 (fld w0 19 5)) (Fin.ofNat 32 (fld w0 14 5)) (Fin.ofNat 32 (fld w0 9 5)))
  else if fld w0 0 9 = 9 then checked (.divn (Fin.ofNat 32 (fld w0 19 5)) (Fin.ofNat 32 (fld w0 14 5)) (Fin.ofNat 32 (fld w0 9 5)))
  else if fld w0 0 9 = 10 then checked (.rem (Fin.ofNat 32 (fld w0 19 5)) (Fin.ofNat 32 (fld w0 14 5)) (Fin.ofNat 32 (fld w0 9 5)))
  else if fld w0 0 9 = 11 then checked (.remn (Fin.ofNat 32 (fld w0 19 5)) (Fin.ofNat 32 (fld w0 14 5)) (Fin.ofNat 32 (fld w0 9 5)))
  else if fld w0 0 9 = 12 then checked (.min (Fin.ofNat 32 (fld w0 19 5)) (Fin.ofNat 32 (fld w0 14 5)) (Fin.ofNat 32 (fld w0 9 5)))
  else if fld w0 0 9 = 13 then checked (.max (Fin.ofNat 32 (fld w0 19 5)) (Fin.ofNat 32 (fld w0 14 5)) (Fin.ofNat 32 (fld w0 9 5)))
  else if fld w0 0 9 = 14 then checked (.minn (Fin.ofNat 32 (fld w0 19 5)) (Fin.ofNat 32 (fld w0 14 5)) (Fin.ofNat 32 (fld w0 9 5)))
  else if fld w0 0 9 = 15 then checked (.maxn (Fin.ofNat 32 (fld w0 19 5)) (Fin.ofNat 32 (fld w0 14 5)) (Fin.ofNat 32 (fld w0 9 5)))
  else .error .noSuchForm

/-- The forms of major 0x02. -/
def decode02 (w0 : Nat) : Except DecodeError Instr :=
  if fld w0 0 9 = 0 then checked (.and (Fin.ofNat 32 (fld w0 19 5)) (Fin.ofNat 32 (fld w0 14 5)) (Fin.ofNat 32 (fld w0 9 5)))
  else if fld w0 0 9 = 1 then checked (.or (Fin.ofNat 32 (fld w0 19 5)) (Fin.ofNat 32 (fld w0 14 5)) (Fin.ofNat 32 (fld w0 9 5)))
  else if fld w0 0 9 = 2 then checked (.xor (Fin.ofNat 32 (fld w0 19 5)) (Fin.ofNat 32 (fld w0 14 5)) (Fin.ofNat 32 (fld w0 9 5)))
  else if fld w0 0 9 = 3 then checked (.andn (Fin.ofNat 32 (fld w0 19 5)) (Fin.ofNat 32 (fld w0 14 5)) (Fin.ofNat 32 (fld w0 9 5)))
  else if fld w0 0 9 = 4 then checked (.orn (Fin.ofNat 32 (fld w0 19 5)) (Fin.ofNat 32 (fld w0 14 5)) (Fin.ofNat 32 (fld w0 9 5)))
  else if fld w0 0 9 = 8 then checked (.shl (Fin.ofNat 32 (fld w0 19 5)) (Fin.ofNat 32 (fld w0 14 5)) (Fin.ofNat 32 (fld w0 9 5)))
  else if fld w0 0 9 = 9 then checked (.shr (Fin.ofNat 32 (fld w0 19 5)) (Fin.ofNat 32 (fld w0 14 5)) (Fin.ofNat 32 (fld w0 9 5)))
  else if fld w0 0 9 = 10 then checked (.sra (Fin.ofNat 32 (fld w0 19 5)) (Fin.ofNat 32 (fld w0 14 5)) (Fin.ofNat 32 (fld w0 9 5)))
  else if fld w0 0 9 = 11 then checked (.rol (Fin.ofNat 32 (fld w0 19 5)) (Fin.ofNat 32 (fld w0 14 5)) (Fin.ofNat 32 (fld w0 9 5)))
  else if fld w0 0 9 = 12 then checked (.ror (Fin.ofNat 32 (fld w0 19 5)) (Fin.ofNat 32 (fld w0 14 5)) (Fin.ofNat 32 (fld w0 9 5)))
  else .error .noSuchForm

/-- The forms of major 0x03. -/
def decode03 (w0 : Nat) : Except DecodeError Instr :=
  if fld w0 0 14 = 0 then checked (.clz (Fin.ofNat 32 (fld w0 19 5)) (Fin.ofNat 32 (fld w0 14 5)))
  else if fld w0 0 14 = 1 then checked (.ctz (Fin.ofNat 32 (fld w0 19 5)) (Fin.ofNat 32 (fld w0 14 5)))
  else if fld w0 0 14 = 2 then checked (.popc (Fin.ofNat 32 (fld w0 19 5)) (Fin.ofNat 32 (fld w0 14 5)))
  else if fld w0 0 14 = 3 then checked (.brev (Fin.ofNat 32 (fld w0 19 5)) (Fin.ofNat 32 (fld w0 14 5)))
  else if fld w0 0 14 = 4 then checked (.bswap (Fin.ofNat 32 (fld w0 19 5)) (Fin.ofNat 32 (fld w0 14 5)))
  else if fld w0 0 14 = 8 then checked (.sextI8 (Fin.ofNat 32 (fld w0 19 5)) (Fin.ofNat 32 (fld w0 14 5)))
  else if fld w0 0 14 = 9 then checked (.sextI16 (Fin.ofNat 32 (fld w0 19 5)) (Fin.ofNat 32 (fld w0 14 5)))
  else if fld w0 0 14 = 10 then checked (.sextI32 (Fin.ofNat 32 (fld w0 19 5)) (Fin.ofNat 32 (fld w0 14 5)))
  else if fld w0 0 14 = 12 then checked (.zextN8 (Fin.ofNat 32 (fld w0 19 5)) (Fin.ofNat 32 (fld w0 14 5)))
  else if fld w0 0 14 = 13 then checked (.zextN16 (Fin.ofNat 32 (fld w0 19 5)) (Fin.ofNat 32 (fld w0 14 5)))
  else if fld w0 0 14 = 14 then checked (.zextN32 (Fin.ofNat 32 (fld w0 19 5)) (Fin.ofNat 32 (fld w0 14 5)))
  else .error .noSuchForm

/-- The forms of major 0x04. -/
def decode04 (w0 : Nat) : Except DecodeError Instr :=
  if fld w0 0 9 = 0 ∧ fld w0 22 2 = 0 then checked (.cmpeq (Fin.ofNat 8 (fld w0 19 3)) (Fin.ofNat 32 (fld w0 14 5)) (Fin.ofNat 32 (fld w0 9 5)))
  else if fld w0 0 9 = 1 ∧ fld w0 22 2 = 0 then checked (.cmpne (Fin.ofNat 8 (fld w0 19 3)) (Fin.ofNat 32 (fld w0 14 5)) (Fin.ofNat 32 (fld w0 9 5)))
  else if fld w0 0 9 = 2 ∧ fld w0 22 2 = 0 then checked (.cmplt (Fin.ofNat 8 (fld w0 19 3)) (Fin.ofNat 32 (fld w0 14 5)) (Fin.ofNat 32 (fld w0 9 5)))
  else if fld w0 0 9 = 3 ∧ fld w0 22 2 = 0 then checked (.cmple (Fin.ofNat 8 (fld w0 19 3)) (Fin.ofNat 32 (fld w0 14 5)) (Fin.ofNat 32 (fld w0 9 5)))
  else if fld w0 0 9 = 4 ∧ fld w0 22 2 = 0 then checked (.cmpltn (Fin.ofNat 8 (fld w0 19 3)) (Fin.ofNat 32 (fld w0 14 5)) (Fin.ofNat 32 (fld w0 9 5)))
  else if fld w0 0 9 = 5 ∧ fld w0 22 2 = 0 then checked (.cmplen (Fin.ofNat 8 (fld w0 19 3)) (Fin.ofNat 32 (fld w0 14 5)) (Fin.ofNat 32 (fld w0 9 5)))
  else if fld w0 0 9 = 6 ∧ fld w0 22 2 = 0 then checked (.tstnz (Fin.ofNat 8 (fld w0 19 3)) (Fin.ofNat 32 (fld w0 14 5)) (Fin.ofNat 32 (fld w0 9 5)))
  else .error .noSuchForm

/-- The forms of major 0x05. -/
def decode05 (w0 : Nat) : Except DecodeError Instr :=
  if fld w0 0 9 = 0 ∧ fld w0 12 2 = 0 ∧ fld w0 17 2 = 0 ∧ fld w0 22 2 = 0 then checked (.pand (Fin.ofNat 8 (fld w0 19 3)) (Fin.ofNat 8 (fld w0 14 3)) (Fin.ofNat 8 (fld w0 9 3)))
  else if fld w0 0 9 = 1 ∧ fld w0 12 2 = 0 ∧ fld w0 17 2 = 0 ∧ fld w0 22 2 = 0 then checked (.por (Fin.ofNat 8 (fld w0 19 3)) (Fin.ofNat 8 (fld w0 14 3)) (Fin.ofNat 8 (fld w0 9 3)))
  else if fld w0 0 9 = 2 ∧ fld w0 12 2 = 0 ∧ fld w0 17 2 = 0 ∧ fld w0 22 2 = 0 then checked (.pxor (Fin.ofNat 8 (fld w0 19 3)) (Fin.ofNat 8 (fld w0 14 3)) (Fin.ofNat 8 (fld w0 9 3)))
  else if fld w0 0 9 = 3 ∧ fld w0 12 2 = 0 ∧ fld w0 17 2 = 0 ∧ fld w0 22 2 = 0 then checked (.pandn (Fin.ofNat 8 (fld w0 19 3)) (Fin.ofNat 8 (fld w0 14 3)) (Fin.ofNat 8 (fld w0 9 3)))
  else if fld w0 0 14 = 4 ∧ fld w0 17 2 = 0 ∧ fld w0 22 2 = 0 then checked (.pnot (Fin.ofNat 8 (fld w0 19 3)) (Fin.ofNat 8 (fld w0 14 3)))
  else if fld w0 0 14 = 8 ∧ fld w0 22 2 = 0 then checked (.pset (Fin.ofNat 8 (fld w0 19 3)) (Fin.ofNat 32 (fld w0 14 5)))
  else if fld w0 0 14 = 9 ∧ fld w0 17 2 = 0 then checked (.pget (Fin.ofNat 32 (fld w0 19 5)) (Fin.ofNat 8 (fld w0 14 3)))
  else if fld w0 3 6 = 32 then checked (.sel (Fin.ofNat 32 (fld w0 19 5)) (Fin.ofNat 32 (fld w0 14 5)) (Fin.ofNat 32 (fld w0 9 5)) (Fin.ofNat 8 (fld w0 0 3)))
  else .error .noSuchForm

/-- The forms of major 0x06. -/
def decode06 (w0 : Nat) : Except DecodeError Instr :=
  if fld w0 2 7 = 0 then checked (.lea (Fin.ofNat 32 (fld w0 19 5)) (Fin.ofNat 32 (fld w0 14 5)) (Fin.ofNat 32 (fld w0 9 5)) (BitVec.ofNat 2 (fld w0 0 2)))
  else if fld w0 0 9 = 16 then checked (.gaddr (Fin.ofNat 32 (fld w0 19 5)) (Fin.ofNat 32 (fld w0 14 5)) (Fin.ofNat 32 (fld w0 9 5)))
  else .error .noSuchForm

/-- The forms of major 0x08. -/
def decode08 (w0 : Nat) : Except DecodeError Instr :=
  checked (.addi (Fin.ofNat 32 (fld w0 19 5)) (Fin.ofNat 32 (fld w0 14 5)) (BitVec.ofNat 14 (fld w0 0 14)))

/-- The forms of major 0x09. -/
def decode09 (w0 : Nat) : Except DecodeError Instr :=
  checked (.andi (Fin.ofNat 32 (fld w0 19 5)) (Fin.ofNat 32 (fld w0 14 5)) (BitVec.ofNat 14 (fld w0 0 14)))

/-- The forms of major 0x0A. -/
def decode0A (w0 : Nat) : Except DecodeError Instr :=
  checked (.ori (Fin.ofNat 32 (fld w0 19 5)) (Fin.ofNat 32 (fld w0 14 5)) (BitVec.ofNat 14 (fld w0 0 14)))

/-- The forms of major 0x0B. -/
def decode0B (w0 : Nat) : Except DecodeError Instr :=
  checked (.xori (Fin.ofNat 32 (fld w0 19 5)) (Fin.ofNat 32 (fld w0 14 5)) (BitVec.ofNat 14 (fld w0 0 14)))

/-- The forms of major 0x0C. -/
def decode0C (w0 : Nat) : Except DecodeError Instr :=
  if fld w0 6 8 = 0 then checked (.shli (Fin.ofNat 32 (fld w0 19 5)) (Fin.ofNat 32 (fld w0 14 5)) (BitVec.ofNat 6 (fld w0 0 6)))
  else if fld w0 6 8 = 64 then checked (.shri (Fin.ofNat 32 (fld w0 19 5)) (Fin.ofNat 32 (fld w0 14 5)) (BitVec.ofNat 6 (fld w0 0 6)))
  else if fld w0 6 8 = 128 then checked (.srai (Fin.ofNat 32 (fld w0 19 5)) (Fin.ofNat 32 (fld w0 14 5)) (BitVec.ofNat 6 (fld w0 0 6)))
  else if fld w0 6 8 = 192 then checked (.rori (Fin.ofNat 32 (fld w0 19 5)) (Fin.ofNat 32 (fld w0 14 5)) (BitVec.ofNat 6 (fld w0 0 6)))
  else .error .noSuchForm

/-- The forms of major 0x0D. -/
def decode0D (w0 : Nat) : Except DecodeError Instr :=
  if fld w0 11 3 = 0 ∧ fld w0 22 2 = 0 then checked (.cmpeqi (Fin.ofNat 8 (fld w0 19 3)) (Fin.ofNat 32 (fld w0 14 5)) (BitVec.ofNat 11 (fld w0 0 11)))
  else if fld w0 11 3 = 1 ∧ fld w0 22 2 = 0 then checked (.cmpnei (Fin.ofNat 8 (fld w0 19 3)) (Fin.ofNat 32 (fld w0 14 5)) (BitVec.ofNat 11 (fld w0 0 11)))
  else if fld w0 11 3 = 2 ∧ fld w0 22 2 = 0 then checked (.cmplti (Fin.ofNat 8 (fld w0 19 3)) (Fin.ofNat 32 (fld w0 14 5)) (BitVec.ofNat 11 (fld w0 0 11)))
  else if fld w0 11 3 = 3 ∧ fld w0 22 2 = 0 then checked (.cmplei (Fin.ofNat 8 (fld w0 19 3)) (Fin.ofNat 32 (fld w0 14 5)) (BitVec.ofNat 11 (fld w0 0 11)))
  else if fld w0 11 3 = 4 ∧ fld w0 22 2 = 0 then checked (.cmpgti (Fin.ofNat 8 (fld w0 19 3)) (Fin.ofNat 32 (fld w0 14 5)) (BitVec.ofNat 11 (fld w0 0 11)))
  else if fld w0 11 3 = 5 ∧ fld w0 22 2 = 0 then checked (.cmpgei (Fin.ofNat 8 (fld w0 19 3)) (Fin.ofNat 32 (fld w0 14 5)) (BitVec.ofNat 11 (fld w0 0 11)))
  else if fld w0 11 3 = 6 ∧ fld w0 22 2 = 0 then checked (.cmpltni (Fin.ofNat 8 (fld w0 19 3)) (Fin.ofNat 32 (fld w0 14 5)) (BitVec.ofNat 11 (fld w0 0 11)))
  else if fld w0 11 3 = 7 ∧ fld w0 22 2 = 0 then checked (.cmpgtni (Fin.ofNat 8 (fld w0 19 3)) (Fin.ofNat 32 (fld w0 14 5)) (BitVec.ofNat 11 (fld w0 0 11)))
  else .error .noSuchForm

/-- The forms of major 0x0E. -/
def decode0E (w0 : Nat) : Except DecodeError Instr :=
  checked (.li (Fin.ofNat 32 (fld w0 19 5)) (BitVec.ofNat 19 (fld w0 0 19)))

/-- The forms of major 0x0F. -/
def decode0F (w0 : Nat) : Except DecodeError Instr :=
  if fld w0 16 3 = 0 then checked (.lix (Fin.ofNat 32 (fld w0 19 5)) (BitVec.ofNat 16 (fld w0 0 16)))
  else .error .noSuchForm

/-- The forms of major 0x10. -/
def decode10 (w0 : Nat) : Except DecodeError Instr :=
  checked (.b (Fin.ofNat 8 (fld w0 21 3)) (BitVec.ofNat 1 (fld w0 20 1)) (BitVec.ofNat 4 (fld w0 16 4)) (BitVec.ofNat 16 (fld w0 0 16)))

/-- The forms of major 0x11. -/
def decode11 (w0 : Nat) : Except DecodeError Instr :=
  checked (.call (Fin.ofNat 8 (fld w0 21 3)) (BitVec.ofNat 1 (fld w0 20 1)) (BitVec.ofNat 4 (fld w0 16 4)) (BitVec.ofNat 16 (fld w0 0 16)))

/-- The forms of major 0x12. A register field that a form does not name must be 0 (DESIGN CHOICE, notes/assumptions/100.md). -/
def decode12 (w0 : Nat) : Except DecodeError Instr :=
  if fld w0 0 14 = 0 ∧ fld w0 19 5 = 0 then checked (.jmpr (Fin.ofNat 32 (fld w0 14 5)))
  else if fld w0 0 14 = 1 then checked (.callr (Fin.ofNat 32 (fld w0 19 5)) (Fin.ofNat 32 (fld w0 14 5)))
  else .error .noSuchForm

/-- The forms of major 0x13. -/
def decode13 (w0 : Nat) : Except DecodeError Instr :=
  checked (.loop (BitVec.ofNat 2 (fld w0 22 2)) (Fin.ofNat 32 (fld w0 17 5)) (BitVec.ofNat 4 (fld w0 13 4)) (BitVec.ofNat 13 (fld w0 0 13)))

/-- The forms of major 0x14. -/
def decode14 (w0 : Nat) : Except DecodeError Instr :=
  if fld w0 12 7 = 0 then checked (.mfs (Fin.ofNat 32 (fld w0 19 5)) (BitVec.ofNat 12 (fld w0 0 12)))
  else .error .noSuchForm

/-- The forms of major 0x15. -/
def decode15 (w0 : Nat) : Except DecodeError Instr :=
  if fld w0 12 7 = 0 then checked (.mts (BitVec.ofNat 12 (fld w0 0 12)) (Fin.ofNat 32 (fld w0 19 5)))
  else .error .noSuchForm

/-- The forms of major 0x16. -/
def decode16 (w0 : Nat) : Except DecodeError Instr :=
  if fld w0 6 1 = 0 ∧ fld w0 14 2 = 0 then checked (.tshape (Fin.ofNat 16 (fld w0 20 4)) (BitVec.ofNat 4 (fld w0 16 4)) (BitVec.ofNat 7 (fld w0 7 7)) (BitVec.ofNat 6 (fld w0 0 6)))
  else .error .noSuchForm

/-- The forms of major 0x17. -/
def decode17 (w0 : Nat) : Except DecodeError Instr :=
  if fld w0 0 9 = 0 ∧ fld w0 19 5 = 0 then checked (.trap (BitVec.ofNat 10 (fld w0 9 10)))
  else if fld w0 0 24 = 1 then checked (.sret)
  else if fld w0 0 24 = 2 then checked (.idle)
  else if fld w0 0 24 = 3 then checked (.nop)
  else .error .noSuchForm

/-- The forms of major 0x18. -/
def decode18 (w0 : Nat) : Except DecodeError Instr :=
  checked (.ld (Fin.ofNat 32 (fld w0 19 5)) (Fin.ofNat 32 (fld w0 14 5)) (BitVec.ofNat 3 (fld w0 11 3)) (BitVec.ofNat 11 (fld w0 0 11)))

/-- The forms of major 0x19. -/
def decode19 (w0 : Nat) : Except DecodeError Instr :=
  checked (.st (Fin.ofNat 32 (fld w0 14 5)) (Fin.ofNat 32 (fld w0 19 5)) (BitVec.ofNat 2 (fld w0 12 2)) (BitVec.ofNat 12 (fld w0 0 12)))

/-- The forms of major 0x1A. -/
def decode1A (w0 : Nat) : Except DecodeError Instr :=
  if fld w0 0 2 = 0 ∧ fld w0 7 7 = 0 then checked (.lda (Fin.ofNat 32 (fld w0 19 5)) (Fin.ofNat 32 (fld w0 14 5)) (BitVec.ofNat 2 (fld w0 5 2)) (BitVec.ofNat 2 (fld w0 3 2)) (BitVec.ofNat 1 (fld w0 2 1)))
  else if fld w0 0 3 = 0 ∧ fld w0 7 2 = 1 ∧ fld w0 19 5 = 0 then checked (.str (Fin.ofNat 32 (fld w0 14 5)) (Fin.ofNat 32 (fld w0 9 5)) (BitVec.ofNat 2 (fld w0 5 2)) (BitVec.ofNat 2 (fld w0 3 2)))
  else .error .noSuchForm

/-- The forms of major 0x1B. A register field that a form does not name must be 0 (DESIGN CHOICE, notes/assumptions/100.md). -/
def decode1B (w0 : Nat) : Except DecodeError Instr :=
  if fld w0 0 2 = 0 ∧ fld w0 4 20 = 0 then checked (.fence (BitVec.ofNat 2 (fld w0 2 2)))
  else if fld w0 0 2 = 0 ∧ fld w0 4 20 = 1 then checked (.fencea (BitVec.ofNat 2 (fld w0 2 2)))
  else if fld w0 0 2 = 0 ∧ fld w0 4 20 = 2 then checked (.fencer (BitVec.ofNat 2 (fld w0 2 2)))
  else if fld w0 0 9 = 64 ∧ fld w0 19 5 = 0 then checked (.wbr (Fin.ofNat 32 (fld w0 14 5)) (Fin.ofNat 32 (fld w0 9 5)))
  else if fld w0 0 9 = 80 ∧ fld w0 19 5 = 0 then checked (.invr (Fin.ofNat 32 (fld w0 14 5)) (Fin.ofNat 32 (fld w0 9 5)))
  else if fld w0 0 9 = 96 ∧ fld w0 19 5 = 0 then checked (.discard (Fin.ofNat 32 (fld w0 14 5)) (Fin.ofNat 32 (fld w0 9 5)))
  else if fld w0 0 9 = 112 ∧ fld w0 19 5 = 0 then checked (.pref (Fin.ofNat 32 (fld w0 14 5)) (Fin.ofNat 32 (fld w0 9 5)))
  else .error .noSuchForm

/-- The forms of major 0x1C. -/
def decode1C (w0 : Nat) : Except DecodeError Instr :=
  if fld w0 5 4 = 0 then checked (.aadd (Fin.ofNat 32 (fld w0 19 5)) (Fin.ofNat 32 (fld w0 14 5)) (Fin.ofNat 32 (fld w0 9 5)) (BitVec.ofNat 1 (fld w0 4 1)) (BitVec.ofNat 2 (fld w0 2 2)) (BitVec.ofNat 2 (fld w0 0 2)))
  else if fld w0 5 4 = 1 then checked (.aand (Fin.ofNat 32 (fld w0 19 5)) (Fin.ofNat 32 (fld w0 14 5)) (Fin.ofNat 32 (fld w0 9 5)) (BitVec.ofNat 1 (fld w0 4 1)) (BitVec.ofNat 2 (fld w0 2 2)) (BitVec.ofNat 2 (fld w0 0 2)))
  else if fld w0 5 4 = 2 then checked (.aor (Fin.ofNat 32 (fld w0 19 5)) (Fin.ofNat 32 (fld w0 14 5)) (Fin.ofNat 32 (fld w0 9 5)) (BitVec.ofNat 1 (fld w0 4 1)) (BitVec.ofNat 2 (fld w0 2 2)) (BitVec.ofNat 2 (fld w0 0 2)))
  else if fld w0 5 4 = 3 then checked (.axor (Fin.ofNat 32 (fld w0 19 5)) (Fin.ofNat 32 (fld w0 14 5)) (Fin.ofNat 32 (fld w0 9 5)) (BitVec.ofNat 1 (fld w0 4 1)) (BitVec.ofNat 2 (fld w0 2 2)) (BitVec.ofNat 2 (fld w0 0 2)))
  else if fld w0 5 4 = 4 then checked (.amin (Fin.ofNat 32 (fld w0 19 5)) (Fin.ofNat 32 (fld w0 14 5)) (Fin.ofNat 32 (fld w0 9 5)) (BitVec.ofNat 1 (fld w0 4 1)) (BitVec.ofNat 2 (fld w0 2 2)) (BitVec.ofNat 2 (fld w0 0 2)))
  else if fld w0 5 4 = 5 then checked (.amax (Fin.ofNat 32 (fld w0 19 5)) (Fin.ofNat 32 (fld w0 14 5)) (Fin.ofNat 32 (fld w0 9 5)) (BitVec.ofNat 1 (fld w0 4 1)) (BitVec.ofNat 2 (fld w0 2 2)) (BitVec.ofNat 2 (fld w0 0 2)))
  else if fld w0 5 4 = 6 then checked (.aminn (Fin.ofNat 32 (fld w0 19 5)) (Fin.ofNat 32 (fld w0 14 5)) (Fin.ofNat 32 (fld w0 9 5)) (BitVec.ofNat 1 (fld w0 4 1)) (BitVec.ofNat 2 (fld w0 2 2)) (BitVec.ofNat 2 (fld w0 0 2)))
  else if fld w0 5 4 = 7 then checked (.amaxn (Fin.ofNat 32 (fld w0 19 5)) (Fin.ofNat 32 (fld w0 14 5)) (Fin.ofNat 32 (fld w0 9 5)) (BitVec.ofNat 1 (fld w0 4 1)) (BitVec.ofNat 2 (fld w0 2 2)) (BitVec.ofNat 2 (fld w0 0 2)))
  else if fld w0 5 4 = 8 then checked (.aswp (Fin.ofNat 32 (fld w0 19 5)) (Fin.ofNat 32 (fld w0 14 5)) (Fin.ofNat 32 (fld w0 9 5)) (BitVec.ofNat 1 (fld w0 4 1)) (BitVec.ofNat 2 (fld w0 2 2)) (BitVec.ofNat 2 (fld w0 0 2)))
  else if fld w0 4 5 = 18 then checked (.afadd (Fin.ofNat 32 (fld w0 19 5)) (Fin.ofNat 32 (fld w0 14 5)) (Fin.ofNat 32 (fld w0 9 5)) (BitVec.ofNat 2 (fld w0 2 2)) (BitVec.ofNat 2 (fld w0 0 2)))
  else if fld w0 5 4 = 10 then checked (.acas (Fin.ofNat 32 (fld w0 19 5)) (Fin.ofNat 32 (fld w0 14 5)) (Fin.ofNat 32 (fld w0 9 5)) (BitVec.ofNat 1 (fld w0 4 1)) (BitVec.ofNat 2 (fld w0 2 2)) (BitVec.ofNat 2 (fld w0 0 2)))
  else .error .noSuchForm

/-- The forms of major 0x1D. -/
def decode1D (w0 : Nat) : Except DecodeError Instr :=
  if fld w0 0 9 = 0 ∧ fld w0 19 5 = 0 then checked (.join (Fin.ofNat 32 (fld w0 14 5)) (Fin.ofNat 32 (fld w0 9 5)))
  else if fld w0 0 9 = 1 ∧ fld w0 19 5 = 0 then checked (.joina (Fin.ofNat 32 (fld w0 14 5)) (Fin.ofNat 32 (fld w0 9 5)))
  else if fld w0 0 14 = 2 then checked (.ldlat (Fin.ofNat 32 (fld w0 19 5)) (Fin.ofNat 32 (fld w0 14 5)))
  else if fld w0 0 9 = 3 then checked (.ldge (Fin.ofNat 32 (fld w0 19 5)) (Fin.ofNat 32 (fld w0 14 5)) (Fin.ofNat 32 (fld w0 9 5)))
  else .error .noSuchForm

/-- The forms of major 0x20. A register field that a form does not name must be 0 (DESIGN CHOICE, notes/assumptions/100.md). -/
def decode20 (w0 : Nat) : Except DecodeError Instr :=
  if fld w0 0 3 = 0 ∧ fld w0 6 18 = 0 then checked (.tkwait (BitVec.ofNat 3 (fld w0 3 3)))
  else if fld w0 3 21 = 8 then checked (.tkpost (BitVec.ofNat 3 (fld w0 0 3)))
  else if fld w0 3 11 = 16 ∧ fld w0 19 5 = 0 then checked (.qpush (BitVec.ofNat 3 (fld w0 0 3)) (Fin.ofNat 32 (fld w0 14 5)))
  else if fld w0 3 16 = 24 then checked (.qpop (Fin.ofNat 32 (fld w0 19 5)) (BitVec.ofNat 3 (fld w0 0 3)))
  else .error .noSuchForm

/-- The forms of major 0x21. -/
def decode21 (w0 : Nat) : Except DecodeError Instr :=
  if fld w0 4 15 = 0 then checked (.sclaim (BitVec.ofNat 4 (fld w0 0 4)) (Fin.ofNat 32 (fld w0 19 5)))
  else if fld w0 4 10 = 1 ∧ fld w0 19 5 = 0 then checked (.sfill (BitVec.ofNat 4 (fld w0 0 4)) (Fin.ofNat 32 (fld w0 14 5)))
  else if fld w0 4 15 = 2 then checked (.swfill (BitVec.ofNat 4 (fld w0 0 4)) (Fin.ofNat 32 (fld w0 19 5)))
  else if fld w0 4 10 = 3 ∧ fld w0 19 5 = 0 then checked (.srel (BitVec.ofNat 4 (fld w0 0 4)) (Fin.ofNat 32 (fld w0 14 5)))
  else if fld w0 4 10 = 4 ∧ fld w0 19 5 = 0 then checked (.swfree (BitVec.ofNat 4 (fld w0 0 4)) (Fin.ofNat 32 (fld w0 14 5)))
  else .error .noSuchForm

/-- The forms of major 0x22. A register field that a form does not name must be 0 (DESIGN CHOICE, notes/assumptions/100.md). -/
def decode22 (w0 : Nat) : Except DecodeError Instr :=
  if fld w0 0 5 = 0 ∧ fld w0 6 8 = 0 ∧ fld w0 19 5 = 0 then checked (.clinit (Fin.ofNat 32 (fld w0 14 5)) (BitVec.ofNat 1 (fld w0 5 1)))
  else if fld w0 0 5 = 0 ∧ fld w0 6 3 = 1 ∧ fld w0 19 5 = 0 then checked (.clexpect (Fin.ofNat 32 (fld w0 14 5)) (Fin.ofNat 32 (fld w0 9 5)) (BitVec.ofNat 1 (fld w0 5 1)))
  else if fld w0 0 5 = 0 ∧ fld w0 6 3 = 2 ∧ fld w0 19 5 = 0 then checked (.clarrive (Fin.ofNat 32 (fld w0 14 5)) (Fin.ofNat 32 (fld w0 9 5)) (BitVec.ofNat 1 (fld w0 5 1)))
  else if fld w0 0 5 = 0 ∧ fld w0 6 8 = 3 ∧ fld w0 19 5 = 0 then checked (.clwait (Fin.ofNat 32 (fld w0 14 5)) (BitVec.ofNat 1 (fld w0 5 1)))
  else if fld w0 0 14 = 256 ∧ fld w0 19 5 = 0 then checked (.clbase (Fin.ofNat 32 (fld w0 14 5)))
  else .error .noSuchForm

/-- The forms of major 0x23. A register field that a form does not name must be 0 (DESIGN CHOICE, notes/assumptions/100.md). -/
def decode23 (w0 : Nat) : Except DecodeError Instr :=
  if fld w0 0 24 = 0 then checked (.publ)
  else if fld w0 0 19 = 1 then checked (.rdcad (Fin.ofNat 32 (fld w0 19 5)))
  else if fld w0 0 14 = 2 then checked (.locq (Fin.ofNat 32 (fld w0 19 5)) (Fin.ofNat 32 (fld w0 14 5)))
  else if fld w0 0 14 = 3 then checked (.launch (Fin.ofNat 32 (fld w0 19 5)) (Fin.ofNat 32 (fld w0 14 5)))
  else .error .noSuchForm

/-- The forms of major 0x24. -/
def decode24 (w0 : Nat) : Except DecodeError Instr :=
  if fld w0 8 16 = 0 then checked (.pwracq (BitVec.ofNat 8 (fld w0 0 8)))
  else if fld w0 0 24 = 262144 then checked (.pwrrel)
  else .error .noSuchForm

/-- The forms of major 0x25. -/
def decode25 (w0 : Nat) : Except DecodeError Instr :=
  if fld w0 0 24 = 0 then checked (.exit)
  else if fld w0 0 24 = 1 then checked (.end_)
  else .error .noSuchForm

/-- The forms of major 0x28. -/
def decode28 (w0 w1 : Nat) : Except DecodeError Instr :=
  if fld w0 0 14 = 0 ∧ fld w1 4 3 = 0 then checked (.tdesc (longOf w1) (BitVec.ofNat 4 (fld w1 0 4)) (Fin.ofNat 32 (fld w0 19 5)) (Fin.ofNat 32 (fld w0 14 5)))
  else .error .noSuchForm

/-- The forms of major 0x29. -/
def decode29 (w0 w1 : Nat) : Except DecodeError Instr :=
  if fld w0 0 9 = 0 ∧ fld w1 3 4 = 0 then checked (.seqcfg (longOf w1) (BitVec.ofNat 3 (fld w1 0 3)) (Fin.ofNat 32 (fld w0 19 5)) (Fin.ofNat 32 (fld w0 14 5)) (Fin.ofNat 32 (fld w0 9 5)))
  else .error .noSuchForm

/-- The forms of major 0x2A. -/
def decode2A (w0 w1 : Nat) : Except DecodeError Instr :=
  if fld w0 0 6 = 0 ∧ fld w0 9 5 = 0 ∧ fld w1 4 3 = 0 then checked (.seqrunCopy (longOf w1) (BitVec.ofNat 3 (fld w0 6 3)) (BitVec.ofNat 4 (fld w1 0 4)) (Fin.ofNat 32 (fld w0 19 5)) (Fin.ofNat 32 (fld w0 14 5)))
  else if fld w0 0 6 = 1 ∧ fld w0 9 5 = 0 ∧ fld w1 4 3 = 0 then checked (.seqrunGather (longOf w1) (BitVec.ofNat 3 (fld w0 6 3)) (BitVec.ofNat 4 (fld w1 0 4)) (Fin.ofNat 32 (fld w0 19 5)) (Fin.ofNat 32 (fld w0 14 5)))
  else if fld w0 0 6 = 2 ∧ fld w0 9 5 = 0 ∧ fld w1 4 3 = 0 then checked (.seqrunScatter (longOf w1) (BitVec.ofNat 3 (fld w0 6 3)) (BitVec.ofNat 4 (fld w1 0 4)) (Fin.ofNat 32 (fld w0 19 5)) (Fin.ofNat 32 (fld w0 14 5)))
  else if fld w0 0 6 = 3 ∧ fld w0 9 5 = 0 ∧ fld w1 4 3 = 0 then checked (.seqrunCpyscl (longOf w1) (BitVec.ofNat 3 (fld w0 6 3)) (BitVec.ofNat 4 (fld w1 0 4)) (Fin.ofNat 32 (fld w0 19 5)) (Fin.ofNat 32 (fld w0 14 5)))
  else .error .noSuchForm

/-- The forms of major 0x2B. -/
def decode2B (w0 w1 : Nat) : Except DecodeError Instr :=
  if fld w0 0 6 = 0 ∧ fld w1 0 7 = 0 then checked (.copy (longOf w1) (BitVec.ofNat 3 (fld w0 6 3)) (Fin.ofNat 32 (fld w0 19 5)) (Fin.ofNat 32 (fld w0 14 5)) (Fin.ofNat 32 (fld w0 9 5)))
  else if fld w0 0 6 = 1 ∧ fld w1 0 7 = 0 then checked (.copyj (longOf w1) (BitVec.ofNat 3 (fld w0 6 3)) (Fin.ofNat 32 (fld w0 19 5)) (Fin.ofNat 32 (fld w0 14 5)) (Fin.ofNat 32 (fld w0 9 5)))
  else .error .noSuchForm

/-- The forms of major 0x2C. -/
def decode2C (w0 w1 : Nat) : Except DecodeError Instr :=
  if fld w0 0 6 = 0 then checked (.gather (longOf w1) (BitVec.ofNat 3 (fld w0 6 3)) (Fin.ofNat 32 (fld w0 19 5)) (Fin.ofNat 32 (fld w0 14 5)) (Fin.ofNat 32 (fld w0 9 5)) (BitVec.ofNat 5 (fld w1 2 5)) (BitVec.ofNat 2 (fld w1 0 2)))
  else if fld w0 0 6 = 1 then checked (.scatter (longOf w1) (BitVec.ofNat 3 (fld w0 6 3)) (Fin.ofNat 32 (fld w0 19 5)) (Fin.ofNat 32 (fld w0 14 5)) (Fin.ofNat 32 (fld w0 9 5)) (BitVec.ofNat 5 (fld w1 2 5)) (BitVec.ofNat 2 (fld w1 0 2)))
  else .error .noSuchForm

/-- The forms of major 0x2D. -/
def decode2D (w0 w1 : Nat) : Except DecodeError Instr :=
  if fld w0 0 6 = 0 ∧ fld w1 4 3 = 0 then checked (.copymc (longOf w1) (BitVec.ofNat 3 (fld w0 6 3)) (Fin.ofNat 32 (fld w0 19 5)) (Fin.ofNat 32 (fld w0 14 5)) (Fin.ofNat 32 (fld w0 9 5)) (BitVec.ofNat 4 (fld w1 0 4)))
  else .error .noSuchForm

/-- The forms of major 0x2E. -/
def decode2E (w0 w1 : Nat) : Except DecodeError Instr :=
  if fld w0 0 6 = 0 ∧ fld w1 0 7 = 0 then checked (.cpyscl (longOf w1) (BitVec.ofNat 3 (fld w0 6 3)) (Fin.ofNat 32 (fld w0 19 5)) (Fin.ofNat 32 (fld w0 14 5)) (Fin.ofNat 32 (fld w0 9 5)))
  else .error .noSuchForm

/-- The forms of major 0x2F. -/
def decode2F (w0 w1 : Nat) : Except DecodeError Instr :=
  if fld w0 0 6 = 0 ∧ fld w0 9 10 = 0 ∧ fld w1 1 6 = 0 then checked (.qsend (longOf w1) (BitVec.ofNat 3 (fld w0 6 3)) (Fin.ofNat 32 (fld w0 19 5)) (BitVec.ofNat 1 (fld w1 0 1)))
  else if fld w0 0 6 = 1 ∧ fld w0 9 10 = 0 ∧ fld w1 0 7 = 0 then checked (.qrecv (longOf w1) (BitVec.ofNat 3 (fld w0 6 3)) (Fin.ofNat 32 (fld w0 19 5)))
  else if fld w0 0 6 = 2 ∧ fld w0 9 15 = 0 ∧ fld w1 0 7 = 0 then checked (.chwait (longOf w1) (BitVec.ofNat 3 (fld w0 6 3)))
  else if fld w0 0 6 = 2 ∧ fld w0 9 10 = 0 ∧ fld w1 0 7 = 0 then checked (.chwaitStage (longOf w1) (BitVec.ofNat 3 (fld w0 6 3)) (Fin.ofNat 32 (fld w0 19 5)))
  else .error .noSuchForm

/-- The forms of major 0x30. -/
def decode30 (w0 : Nat) : Except DecodeError Instr :=
  if fld w0 0 4 = 0 then checked (.vaddI (Fin.ofNat 32 (fld w0 19 5)) (Fin.ofNat 32 (fld w0 14 5)) (Fin.ofNat 32 (fld w0 9 5)) (Fin.ofNat 8 (fld w0 6 3)) (BitVec.ofNat 2 (fld w0 4 2)))
  else if fld w0 0 4 = 1 then checked (.vsubI (Fin.ofNat 32 (fld w0 19 5)) (Fin.ofNat 32 (fld w0 14 5)) (Fin.ofNat 32 (fld w0 9 5)) (Fin.ofNat 8 (fld w0 6 3)) (BitVec.ofNat 2 (fld w0 4 2)))
  else if fld w0 0 4 = 2 then checked (.vmulI (Fin.ofNat 32 (fld w0 19 5)) (Fin.ofNat 32 (fld w0 14 5)) (Fin.ofNat 32 (fld w0 9 5)) (Fin.ofNat 8 (fld w0 6 3)) (BitVec.ofNat 2 (fld w0 4 2)))
  else if fld w0 0 4 = 3 then checked (.vaddsI (Fin.ofNat 32 (fld w0 19 5)) (Fin.ofNat 32 (fld w0 14 5)) (Fin.ofNat 32 (fld w0 9 5)) (Fin.ofNat 8 (fld w0 6 3)) (BitVec.ofNat 2 (fld w0 4 2)))
  else if fld w0 0 4 = 4 then checked (.vsubsI (Fin.ofNat 32 (fld w0 19 5)) (Fin.ofNat 32 (fld w0 14 5)) (Fin.ofNat 32 (fld w0 9 5)) (Fin.ofNat 8 (fld w0 6 3)) (BitVec.ofNat 2 (fld w0 4 2)))
  else if fld w0 0 4 = 5 then checked (.vminI (Fin.ofNat 32 (fld w0 19 5)) (Fin.ofNat 32 (fld w0 14 5)) (Fin.ofNat 32 (fld w0 9 5)) (Fin.ofNat 8 (fld w0 6 3)) (BitVec.ofNat 2 (fld w0 4 2)))
  else if fld w0 0 4 = 6 then checked (.vmaxI (Fin.ofNat 32 (fld w0 19 5)) (Fin.ofNat 32 (fld w0 14 5)) (Fin.ofNat 32 (fld w0 9 5)) (Fin.ofNat 8 (fld w0 6 3)) (BitVec.ofNat 2 (fld w0 4 2)))
  else if fld w0 0 4 = 7 then checked (.vshlI (Fin.ofNat 32 (fld w0 19 5)) (Fin.ofNat 32 (fld w0 14 5)) (Fin.ofNat 32 (fld w0 9 5)) (Fin.ofNat 8 (fld w0 6 3)) (BitVec.ofNat 2 (fld w0 4 2)))
  else if fld w0 0 4 = 8 then checked (.vshrI (Fin.ofNat 32 (fld w0 19 5)) (Fin.ofNat 32 (fld w0 14 5)) (Fin.ofNat 32 (fld w0 9 5)) (Fin.ofNat 8 (fld w0 6 3)) (BitVec.ofNat 2 (fld w0 4 2)))
  else if fld w0 0 4 = 9 ∧ fld w0 22 2 = 0 then checked (.vcmpeqI (Fin.ofNat 8 (fld w0 19 3)) (Fin.ofNat 32 (fld w0 14 5)) (Fin.ofNat 32 (fld w0 9 5)) (Fin.ofNat 8 (fld w0 6 3)) (BitVec.ofNat 2 (fld w0 4 2)))
  else if fld w0 0 4 = 10 ∧ fld w0 22 2 = 0 then checked (.vcmpltI (Fin.ofNat 8 (fld w0 19 3)) (Fin.ofNat 32 (fld w0 14 5)) (Fin.ofNat 32 (fld w0 9 5)) (Fin.ofNat 8 (fld w0 6 3)) (BitVec.ofNat 2 (fld w0 4 2)))
  else if fld w0 0 4 = 11 ∧ fld w0 22 2 = 0 then checked (.vcmpleI (Fin.ofNat 8 (fld w0 19 3)) (Fin.ofNat 32 (fld w0 14 5)) (Fin.ofNat 32 (fld w0 9 5)) (Fin.ofNat 8 (fld w0 6 3)) (BitVec.ofNat 2 (fld w0 4 2)))
  else .error .noSuchForm

/-- The forms of major 0x31. -/
def decode31 (w0 : Nat) : Except DecodeError Instr :=
  if fld w0 0 4 = 0 then checked (.vaddN (Fin.ofNat 32 (fld w0 19 5)) (Fin.ofNat 32 (fld w0 14 5)) (Fin.ofNat 32 (fld w0 9 5)) (Fin.ofNat 8 (fld w0 6 3)) (BitVec.ofNat 2 (fld w0 4 2)))
  else if fld w0 0 4 = 1 then checked (.vsubN (Fin.ofNat 32 (fld w0 19 5)) (Fin.ofNat 32 (fld w0 14 5)) (Fin.ofNat 32 (fld w0 9 5)) (Fin.ofNat 8 (fld w0 6 3)) (BitVec.ofNat 2 (fld w0 4 2)))
  else if fld w0 0 4 = 2 then checked (.vmulN (Fin.ofNat 32 (fld w0 19 5)) (Fin.ofNat 32 (fld w0 14 5)) (Fin.ofNat 32 (fld w0 9 5)) (Fin.ofNat 8 (fld w0 6 3)) (BitVec.ofNat 2 (fld w0 4 2)))
  else if fld w0 0 4 = 3 then checked (.vaddsN (Fin.ofNat 32 (fld w0 19 5)) (Fin.ofNat 32 (fld w0 14 5)) (Fin.ofNat 32 (fld w0 9 5)) (Fin.ofNat 8 (fld w0 6 3)) (BitVec.ofNat 2 (fld w0 4 2)))
  else if fld w0 0 4 = 4 then checked (.vsubsN (Fin.ofNat 32 (fld w0 19 5)) (Fin.ofNat 32 (fld w0 14 5)) (Fin.ofNat 32 (fld w0 9 5)) (Fin.ofNat 8 (fld w0 6 3)) (BitVec.ofNat 2 (fld w0 4 2)))
  else if fld w0 0 4 = 5 then checked (.vminN (Fin.ofNat 32 (fld w0 19 5)) (Fin.ofNat 32 (fld w0 14 5)) (Fin.ofNat 32 (fld w0 9 5)) (Fin.ofNat 8 (fld w0 6 3)) (BitVec.ofNat 2 (fld w0 4 2)))
  else if fld w0 0 4 = 6 then checked (.vmaxN (Fin.ofNat 32 (fld w0 19 5)) (Fin.ofNat 32 (fld w0 14 5)) (Fin.ofNat 32 (fld w0 9 5)) (Fin.ofNat 8 (fld w0 6 3)) (BitVec.ofNat 2 (fld w0 4 2)))
  else if fld w0 0 4 = 7 then checked (.vshlN (Fin.ofNat 32 (fld w0 19 5)) (Fin.ofNat 32 (fld w0 14 5)) (Fin.ofNat 32 (fld w0 9 5)) (Fin.ofNat 8 (fld w0 6 3)) (BitVec.ofNat 2 (fld w0 4 2)))
  else if fld w0 0 4 = 8 then checked (.vshrN (Fin.ofNat 32 (fld w0 19 5)) (Fin.ofNat 32 (fld w0 14 5)) (Fin.ofNat 32 (fld w0 9 5)) (Fin.ofNat 8 (fld w0 6 3)) (BitVec.ofNat 2 (fld w0 4 2)))
  else if fld w0 0 4 = 9 ∧ fld w0 22 2 = 0 then checked (.vcmpeqN (Fin.ofNat 8 (fld w0 19 3)) (Fin.ofNat 32 (fld w0 14 5)) (Fin.ofNat 32 (fld w0 9 5)) (Fin.ofNat 8 (fld w0 6 3)) (BitVec.ofNat 2 (fld w0 4 2)))
  else if fld w0 0 4 = 10 ∧ fld w0 22 2 = 0 then checked (.vcmpltN (Fin.ofNat 8 (fld w0 19 3)) (Fin.ofNat 32 (fld w0 14 5)) (Fin.ofNat 32 (fld w0 9 5)) (Fin.ofNat 8 (fld w0 6 3)) (BitVec.ofNat 2 (fld w0 4 2)))
  else if fld w0 0 4 = 11 ∧ fld w0 22 2 = 0 then checked (.vcmpleN (Fin.ofNat 8 (fld w0 19 3)) (Fin.ofNat 32 (fld w0 14 5)) (Fin.ofNat 32 (fld w0 9 5)) (Fin.ofNat 8 (fld w0 6 3)) (BitVec.ofNat 2 (fld w0 4 2)))
  else .error .noSuchForm

/-- The forms of major 0x32. -/
def decode32 (w0 : Nat) : Except DecodeError Instr :=
  if fld w0 0 6 = 0 then checked (.vand (Fin.ofNat 32 (fld w0 19 5)) (Fin.ofNat 32 (fld w0 14 5)) (Fin.ofNat 32 (fld w0 9 5)) (Fin.ofNat 8 (fld w0 6 3)))
  else if fld w0 0 6 = 1 then checked (.vor (Fin.ofNat 32 (fld w0 19 5)) (Fin.ofNat 32 (fld w0 14 5)) (Fin.ofNat 32 (fld w0 9 5)) (Fin.ofNat 8 (fld w0 6 3)))
  else if fld w0 0 6 = 2 then checked (.vxor (Fin.ofNat 32 (fld w0 19 5)) (Fin.ofNat 32 (fld w0 14 5)) (Fin.ofNat 32 (fld w0 9 5)) (Fin.ofNat 8 (fld w0 6 3)))
  else if fld w0 0 6 = 3 then checked (.vandn (Fin.ofNat 32 (fld w0 19 5)) (Fin.ofNat 32 (fld w0 14 5)) (Fin.ofNat 32 (fld w0 9 5)) (Fin.ofNat 8 (fld w0 6 3)))
  else if fld w0 0 6 = 4 then checked (.vsel (Fin.ofNat 32 (fld w0 19 5)) (Fin.ofNat 32 (fld w0 14 5)) (Fin.ofNat 32 (fld w0 9 5)) (Fin.ofNat 8 (fld w0 6 3)))
  else if fld w0 0 6 = 5 ∧ fld w0 11 3 = 0 then checked (.vbcst (Fin.ofNat 32 (fld w0 19 5)) (Fin.ofNat 32 (fld w0 14 5)) (BitVec.ofNat 2 (fld w0 9 2)) (Fin.ofNat 8 (fld w0 6 3)))
  else if fld w0 0 6 = 6 then checked (.vshuf (Fin.ofNat 32 (fld w0 19 5)) (Fin.ofNat 32 (fld w0 14 5)) (Fin.ofNat 32 (fld w0 9 5)) (Fin.ofNat 8 (fld w0 6 3)))
  else if fld w0 0 6 = 7 ∧ fld w0 9 5 = 0 then checked (.vmov (Fin.ofNat 32 (fld w0 19 5)) (Fin.ofNat 32 (fld w0 14 5)) (Fin.ofNat 8 (fld w0 6 3)))
  else if fld w0 0 9 = 8 ∧ fld w0 12 2 = 0 ∧ fld w0 17 2 = 0 ∧ fld w0 22 2 = 0 then checked (.mand (Fin.ofNat 8 (fld w0 19 3)) (Fin.ofNat 8 (fld w0 14 3)) (Fin.ofNat 8 (fld w0 9 3)))
  else if fld w0 0 9 = 9 ∧ fld w0 12 2 = 0 ∧ fld w0 17 2 = 0 ∧ fld w0 22 2 = 0 then checked (.mor (Fin.ofNat 8 (fld w0 19 3)) (Fin.ofNat 8 (fld w0 14 3)) (Fin.ofNat 8 (fld w0 9 3)))
  else if fld w0 0 9 = 10 ∧ fld w0 12 2 = 0 ∧ fld w0 17 2 = 0 ∧ fld w0 22 2 = 0 then checked (.mxor (Fin.ofNat 8 (fld w0 19 3)) (Fin.ofNat 8 (fld w0 14 3)) (Fin.ofNat 8 (fld w0 9 3)))
  else if fld w0 0 9 = 11 ∧ fld w0 12 2 = 0 ∧ fld w0 17 2 = 0 ∧ fld w0 22 2 = 0 then checked (.mandn (Fin.ofNat 8 (fld w0 19 3)) (Fin.ofNat 8 (fld w0 14 3)) (Fin.ofNat 8 (fld w0 9 3)))
  else if fld w0 0 14 = 12 ∧ fld w0 17 2 = 0 ∧ fld w0 22 2 = 0 then checked (.mnot (Fin.ofNat 8 (fld w0 19 3)) (Fin.ofNat 8 (fld w0 14 3)))
  else if fld w0 0 9 = 13 ∧ fld w0 13 1 = 0 then checked (.vlane (Fin.ofNat 32 (fld w0 19 5)) (Fin.ofNat 32 (fld w0 14 5)) (BitVec.ofNat 4 (fld w0 9 4)))
  else .error .noSuchForm

/-- The forms of major 0x33. -/
def decode33 (w0 : Nat) : Except DecodeError Instr :=
  if fld w0 0 4 = 0 then checked (.vaddF (Fin.ofNat 32 (fld w0 19 5)) (Fin.ofNat 32 (fld w0 14 5)) (Fin.ofNat 32 (fld w0 9 5)) (Fin.ofNat 8 (fld w0 6 3)) (BitVec.ofNat 2 (fld w0 4 2)))
  else if fld w0 0 4 = 1 then checked (.vsubF (Fin.ofNat 32 (fld w0 19 5)) (Fin.ofNat 32 (fld w0 14 5)) (Fin.ofNat 32 (fld w0 9 5)) (Fin.ofNat 8 (fld w0 6 3)) (BitVec.ofNat 2 (fld w0 4 2)))
  else if fld w0 0 4 = 2 then checked (.vmulF (Fin.ofNat 32 (fld w0 19 5)) (Fin.ofNat 32 (fld w0 14 5)) (Fin.ofNat 32 (fld w0 9 5)) (Fin.ofNat 8 (fld w0 6 3)) (BitVec.ofNat 2 (fld w0 4 2)))
  else if fld w0 0 4 = 3 then checked (.vfma (Fin.ofNat 32 (fld w0 19 5)) (Fin.ofNat 32 (fld w0 14 5)) (Fin.ofNat 32 (fld w0 9 5)) (Fin.ofNat 8 (fld w0 6 3)) (BitVec.ofNat 2 (fld w0 4 2)))
  else if fld w0 0 4 = 4 then checked (.vminF (Fin.ofNat 32 (fld w0 19 5)) (Fin.ofNat 32 (fld w0 14 5)) (Fin.ofNat 32 (fld w0 9 5)) (Fin.ofNat 8 (fld w0 6 3)) (BitVec.ofNat 2 (fld w0 4 2)))
  else if fld w0 0 4 = 5 then checked (.vmaxF (Fin.ofNat 32 (fld w0 19 5)) (Fin.ofNat 32 (fld w0 14 5)) (Fin.ofNat 32 (fld w0 9 5)) (Fin.ofNat 8 (fld w0 6 3)) (BitVec.ofNat 2 (fld w0 4 2)))
  else if fld w0 0 4 = 6 ∧ fld w0 22 2 = 0 then checked (.vcmpeqF (Fin.ofNat 8 (fld w0 19 3)) (Fin.ofNat 32 (fld w0 14 5)) (Fin.ofNat 32 (fld w0 9 5)) (Fin.ofNat 8 (fld w0 6 3)) (BitVec.ofNat 2 (fld w0 4 2)))
  else if fld w0 0 4 = 7 ∧ fld w0 22 2 = 0 then checked (.vcmpltF (Fin.ofNat 8 (fld w0 19 3)) (Fin.ofNat 32 (fld w0 14 5)) (Fin.ofNat 32 (fld w0 9 5)) (Fin.ofNat 8 (fld w0 6 3)) (BitVec.ofNat 2 (fld w0 4 2)))
  else if fld w0 0 4 = 8 ∧ fld w0 22 2 = 0 then checked (.vcmpleF (Fin.ofNat 8 (fld w0 19 3)) (Fin.ofNat 32 (fld w0 14 5)) (Fin.ofNat 32 (fld w0 9 5)) (Fin.ofNat 8 (fld w0 6 3)) (BitVec.ofNat 2 (fld w0 4 2)))
  else if fld w0 0 4 = 9 ∧ fld w0 9 5 = 0 then checked (.vabs (Fin.ofNat 32 (fld w0 19 5)) (Fin.ofNat 32 (fld w0 14 5)) (Fin.ofNat 8 (fld w0 6 3)) (BitVec.ofNat 2 (fld w0 4 2)))
  else if fld w0 0 4 = 10 ∧ fld w0 9 5 = 0 then checked (.vneg (Fin.ofNat 32 (fld w0 19 5)) (Fin.ofNat 32 (fld w0 14 5)) (Fin.ofNat 8 (fld w0 6 3)) (BitVec.ofNat 2 (fld w0 4 2)))
  else .error .noSuchForm

/-- The forms of major 0x34. -/
def decode34 (w0 : Nat) : Except DecodeError Instr :=
  if fld w0 0 6 = 0 ∧ fld w0 9 5 = 0 then checked (.vexp2 (Fin.ofNat 32 (fld w0 19 5)) (Fin.ofNat 32 (fld w0 14 5)) (Fin.ofNat 8 (fld w0 6 3)))
  else if fld w0 0 6 = 1 ∧ fld w0 9 5 = 0 then checked (.vlog2 (Fin.ofNat 32 (fld w0 19 5)) (Fin.ofNat 32 (fld w0 14 5)) (Fin.ofNat 8 (fld w0 6 3)))
  else if fld w0 0 6 = 2 ∧ fld w0 9 5 = 0 then checked (.vrcp (Fin.ofNat 32 (fld w0 19 5)) (Fin.ofNat 32 (fld w0 14 5)) (Fin.ofNat 8 (fld w0 6 3)))
  else if fld w0 0 6 = 3 ∧ fld w0 9 5 = 0 then checked (.vrsq (Fin.ofNat 32 (fld w0 19 5)) (Fin.ofNat 32 (fld w0 14 5)) (Fin.ofNat 8 (fld w0 6 3)))
  else if fld w0 0 6 = 4 ∧ fld w0 9 5 = 0 then checked (.vtanh (Fin.ofNat 32 (fld w0 19 5)) (Fin.ofNat 32 (fld w0 14 5)) (Fin.ofNat 8 (fld w0 6 3)))
  else if fld w0 0 6 = 8 ∧ fld w0 9 5 = 0 then checked (.vrsum (Fin.ofNat 32 (fld w0 19 5)) (Fin.ofNat 32 (fld w0 14 5)) (Fin.ofNat 8 (fld w0 6 3)))
  else if fld w0 0 6 = 9 ∧ fld w0 9 5 = 0 then checked (.vrmax (Fin.ofNat 32 (fld w0 19 5)) (Fin.ofNat 32 (fld w0 14 5)) (Fin.ofNat 8 (fld w0 6 3)))
  else if fld w0 0 6 = 10 ∧ fld w0 9 5 = 0 then checked (.vrmin (Fin.ofNat 32 (fld w0 19 5)) (Fin.ofNat 32 (fld w0 14 5)) (Fin.ofNat 8 (fld w0 6 3)))
  else if fld w0 0 6 = 16 then checked (.vtopk (Fin.ofNat 32 (fld w0 19 5)) (Fin.ofNat 32 (fld w0 14 5)) (Fin.ofNat 32 (fld w0 9 5)) (Fin.ofNat 8 (fld w0 6 3)))
  else .error .noSuchForm

/-- The forms of major 0x35. -/
def decode35 (w0 : Nat) : Except DecodeError Instr :=
  checked (.vcvt (Fin.ofNat 32 (fld w0 19 5)) (Fin.ofNat 32 (fld w0 14 5)) (BitVec.ofNat 4 (fld w0 10 4)) (BitVec.ofNat 4 (fld w0 6 4)) (BitVec.ofNat 2 (fld w0 4 2)) (BitVec.ofNat 1 (fld w0 3 1)) (Fin.ofNat 8 (fld w0 0 3)))

/-- The forms of major 0x36. -/
def decode36 (w0 w1 : Nat) : Except DecodeError Instr :=
  if fld w0 0 3 = 0 ∧ fld w0 6 8 = 0 then checked (.vld (longOf w1) (Fin.ofNat 32 (fld w0 19 5)) (Fin.ofNat 32 (fld w0 14 5)) (BitVec.ofNat 7 (fld w1 0 7)) (Fin.ofNat 8 (fld w0 3 3)))
  else if fld w0 0 3 = 0 ∧ fld w0 6 8 = 1 then checked (.vst (longOf w1) (Fin.ofNat 32 (fld w0 19 5)) (Fin.ofNat 32 (fld w0 14 5)) (BitVec.ofNat 7 (fld w1 0 7)) (Fin.ofNat 8 (fld w0 3 3)))
  else if fld w0 0 3 = 0 ∧ fld w0 6 13 = 2 ∧ fld w1 0 7 = 0 then checked (.vqpop (longOf w1) (Fin.ofNat 32 (fld w0 19 5)) (Fin.ofNat 8 (fld w0 3 3)))
  else if fld w0 0 3 = 0 ∧ fld w0 6 13 = 3 ∧ fld w1 0 7 = 0 then checked (.vqpush (longOf w1) (Fin.ofNat 32 (fld w0 19 5)) (Fin.ofNat 8 (fld w0 3 3)))
  else .error .noSuchForm

/-- The forms of major 0x38. -/
def decode38 (w0 w1 : Nat) : Except DecodeError Instr :=
  if fld w0 0 5 = 0 ∧ fld w0 10 14 = 0 ∧ fld w1 0 7 = 0 then checked (.fmtw (longOf w1) (Fin.ofNat 32 (fld w0 5 5)))
  else .error .noSuchForm

/-- The forms of major 0x39. -/
def decode39 (w0 w1 : Nat) : Except DecodeError Instr :=
  if fld w0 0 5 = 0 ∧ fld w0 10 10 = 0 ∧ fld w1 0 7 = 0 then checked (.tld (longOf w1) (Fin.ofNat 16 (fld w0 20 4)) (Fin.ofNat 32 (fld w0 5 5)))
  else if fld w0 0 5 = 1 ∧ fld w0 10 10 = 0 ∧ fld w1 0 7 = 0 then checked (.tst (longOf w1) (Fin.ofNat 16 (fld w0 20 4)) (Fin.ofNat 32 (fld w0 5 5)))
  else if fld w0 0 20 = 2 ∧ fld w1 0 7 = 0 then checked (.tqld (longOf w1) (Fin.ofNat 16 (fld w0 20 4)))
  else .error .noSuchForm

/-- The forms of major 0x3A. -/
def decode3A (w0 w1 : Nat) : Except DecodeError Instr :=
  if fld w0 0 20 = 0 ∧ fld w1 0 7 = 0 then checked (.tzero (longOf w1) (Fin.ofNat 16 (fld w0 20 4)))
  else if fld w0 0 16 = 1 ∧ fld w1 0 7 = 0 then checked (.ttrans (longOf w1) (Fin.ofNat 16 (fld w0 20 4)) (Fin.ofNat 16 (fld w0 16 4)))
  else if fld w0 0 3 = 2 ∧ fld w0 5 11 = 0 ∧ fld w1 0 7 = 0 then checked (.tcvt (longOf w1) (Fin.ofNat 16 (fld w0 20 4)) (Fin.ofNat 16 (fld w0 16 4)) (BitVec.ofNat 2 (fld w0 3 2)))
  else .error .noSuchForm

/-- The forms of major 0x3B. -/
def decode3B (w0 w1 : Nat) : Except DecodeError Instr :=
  if fld w0 0 10 = 0 ∧ fld w1 0 7 = 0 then checked (.tmma (longOf w1) (BitVec.ofNat 6 (fld w0 10 6)) (Fin.ofNat 16 (fld w0 20 4)) (Fin.ofNat 16 (fld w0 16 4)))
  else .error .noSuchForm

/-- The forms of major 0x3C. -/
def decode3C (w0 w1 : Nat) : Except DecodeError Instr :=
  if fld w0 0 5 = 0 ∧ fld w1 0 7 = 0 then checked (.tmmas (longOf w1) (BitVec.ofNat 6 (fld w0 10 6)) (Fin.ofNat 16 (fld w0 20 4)) (Fin.ofNat 16 (fld w0 16 4)) (Fin.ofNat 32 (fld w0 5 5)))
  else .error .noSuchForm

/-- The forms of major 0x3D. -/
def decode3D (w0 w1 : Nat) : Except DecodeError Instr :=
  if fld w0 0 5 = 0 ∧ fld w0 16 8 = 0 ∧ fld w1 0 7 = 0 then checked (.tdrain (longOf w1) (Fin.ofNat 32 (fld w0 5 5)) (BitVec.ofNat 6 (fld w0 10 6)))
  else if fld w0 0 4 = 1 ∧ fld w0 16 8 = 0 ∧ fld w1 0 7 = 0 then checked (.tdrainadd (longOf w1) (Fin.ofNat 32 (fld w0 5 5)) (BitVec.ofNat 6 (fld w0 10 6)) (BitVec.ofNat 1 (fld w0 4 1)))
  else .error .noSuchForm

/-- The forms of major 0x3E. -/
def decode3E (w0 w1 : Nat) : Except DecodeError Instr :=
  if fld w0 0 5 = 0 ∧ fld w0 16 8 = 0 ∧ fld w1 0 7 = 0 then checked (.hmrd (longOf w1) (Fin.ofNat 32 (fld w0 5 5)) (BitVec.ofNat 6 (fld w0 10 6)))
  else if fld w0 0 10 = 1 ∧ fld w0 16 8 = 0 ∧ fld w1 0 7 = 0 then checked (.hmclr (longOf w1) (BitVec.ofNat 6 (fld w0 10 6)))
  else .error .noSuchForm

/-- The instruction of a first word and, for a long form, its second word. -/
def decode (w0 w1 : Nat) : Except DecodeError Instr :=
  match majorOf w0 with
  | 1 => decode01 w0
  | 2 => decode02 w0
  | 3 => decode03 w0
  | 4 => decode04 w0
  | 5 => decode05 w0
  | 6 => decode06 w0
  | 8 => decode08 w0
  | 9 => decode09 w0
  | 10 => decode0A w0
  | 11 => decode0B w0
  | 12 => decode0C w0
  | 13 => decode0D w0
  | 14 => decode0E w0
  | 15 => decode0F w0
  | 16 => decode10 w0
  | 17 => decode11 w0
  | 18 => decode12 w0
  | 19 => decode13 w0
  | 20 => decode14 w0
  | 21 => decode15 w0
  | 22 => decode16 w0
  | 23 => decode17 w0
  | 24 => decode18 w0
  | 25 => decode19 w0
  | 26 => decode1A w0
  | 27 => decode1B w0
  | 28 => decode1C w0
  | 29 => decode1D w0
  | 32 => decode20 w0
  | 33 => decode21 w0
  | 34 => decode22 w0
  | 35 => decode23 w0
  | 36 => decode24 w0
  | 37 => decode25 w0
  | 40 => decode28 w0 w1
  | 41 => decode29 w0 w1
  | 42 => decode2A w0 w1
  | 43 => decode2B w0 w1
  | 44 => decode2C w0 w1
  | 45 => decode2D w0 w1
  | 46 => decode2E w0 w1
  | 47 => decode2F w0 w1
  | 48 => decode30 w0
  | 49 => decode31 w0
  | 50 => decode32 w0
  | 51 => decode33 w0
  | 52 => decode34 w0
  | 53 => decode35 w0
  | 54 => decode36 w0 w1
  | 56 => decode38 w0 w1
  | 57 => decode39 w0 w1
  | 58 => decode3A w0 w1
  | 59 => decode3B w0 w1
  | 60 => decode3C w0 w1
  | 61 => decode3D w0 w1
  | 62 => decode3E w0 w1
  | _ => .error .unassignedMajor

/-- The word of four bytes, least significant first (R40). -/
def wordOfBytes (b0 b1 b2 b3 : BitVec 8) : Nat :=
  b0.toNat + b1.toNat * 2 ^ 8 + b2.toNat * 2 ^ 16 + b3.toNat * 2 ^ 24

/-- The bytes of a word as the hardware stores them, least significant first (R40). -/
def bytesOfWord (w : Nat) : List (BitVec 8) :=
  [BitVec.ofNat 8 w, BitVec.ofNat 8 (w / 2 ^ 8), BitVec.ofNat 8 (w / 2 ^ 16), BitVec.ofNat 8 (w / 2 ^ 24)]

/-- Decodes the instruction whose bytes stand at the head of a list, and gives how many bytes it takes. -/
def decodeBytes : List (BitVec 8) → Except DecodeError (Instr × Nat)
  | b0 :: b1 :: b2 :: b3 :: rest =>
    let w0 := wordOfBytes b0 b1 b2 b3
    if isLongMajor (majorOf w0) then
      match rest with
      | c0 :: c1 :: c2 :: c3 :: _ => (decode w0 (wordOfBytes c0 c1 c2 c3)).map (·, 8)
      | _ => .error .noSuchForm
    else (decode w0 0).map (·, 4)
  | _ => .error .noSuchForm

/-- The instruction that `decodeBytes` reads from an instruction of nbits bits, whose further bits are zero. -/
def decodeTableWord (nbits w : Nat) : Option Instr :=
  let w := w % 2 ^ nbits
  (decodeBytes (bytesOfWord (w % 2 ^ 32) ++ bytesOfWord (w / 2 ^ 32 % 2 ^ 32))).toOption.map (·.1)

/-! The encoder. -/

/-- A field value at its place in a word. -/
def sl (v lo : Nat) : Nat := v * 2 ^ lo

/-- The second word of a long form with its x7 field (R50). -/
def longWord (l : Long) (x7 : Nat) : Nat :=
  sl l.guard.val 29 + sl l.wait.toNat 26 + sl l.post.toNat 23 + sl l.stamp.toNat 7 + x7

/-- Bits [23:0] of the first word. -/
def encodeLow : Instr → Nat
  | .add d a b => sl d.val 19 + sl a.val 14 + sl b.val 9
  | .sub d a b => sl d.val 19 + sl a.val 14 + sl b.val 9 + 1
  | .addt d a b => sl d.val 19 + sl a.val 14 + sl b.val 9 + 2
  | .subt d a b => sl d.val 19 + sl a.val 14 + sl b.val 9 + 3
  | .mul d a b => sl d.val 19 + sl a.val 14 + sl b.val 9 + 4
  | .mulh d a b => sl d.val 19 + sl a.val 14 + sl b.val 9 + 5
  | .mulhn d a b => sl d.val 19 + sl a.val 14 + sl b.val 9 + 6
  | .mult d a b => sl d.val 19 + sl a.val 14 + sl b.val 9 + 7
  | .div d a b => sl d.val 19 + sl a.val 14 + sl b.val 9 + 8
  | .divn d a b => sl d.val 19 + sl a.val 14 + sl b.val 9 + 9
  | .rem d a b => sl d.val 19 + sl a.val 14 + sl b.val 9 + 10
  | .remn d a b => sl d.val 19 + sl a.val 14 + sl b.val 9 + 11
  | .min d a b => sl d.val 19 + sl a.val 14 + sl b.val 9 + 12
  | .max d a b => sl d.val 19 + sl a.val 14 + sl b.val 9 + 13
  | .minn d a b => sl d.val 19 + sl a.val 14 + sl b.val 9 + 14
  | .maxn d a b => sl d.val 19 + sl a.val 14 + sl b.val 9 + 15
  | .and d a b => sl d.val 19 + sl a.val 14 + sl b.val 9
  | .or d a b => sl d.val 19 + sl a.val 14 + sl b.val 9 + 1
  | .xor d a b => sl d.val 19 + sl a.val 14 + sl b.val 9 + 2
  | .andn d a b => sl d.val 19 + sl a.val 14 + sl b.val 9 + 3
  | .orn d a b => sl d.val 19 + sl a.val 14 + sl b.val 9 + 4
  | .shl d a b => sl d.val 19 + sl a.val 14 + sl b.val 9 + 8
  | .shr d a b => sl d.val 19 + sl a.val 14 + sl b.val 9 + 9
  | .sra d a b => sl d.val 19 + sl a.val 14 + sl b.val 9 + 10
  | .rol d a b => sl d.val 19 + sl a.val 14 + sl b.val 9 + 11
  | .ror d a b => sl d.val 19 + sl a.val 14 + sl b.val 9 + 12
  | .clz d a => sl d.val 19 + sl a.val 14
  | .ctz d a => sl d.val 19 + sl a.val 14 + 1
  | .popc d a => sl d.val 19 + sl a.val 14 + 2
  | .brev d a => sl d.val 19 + sl a.val 14 + 3
  | .bswap d a => sl d.val 19 + sl a.val 14 + 4
  | .sextI8 d a => sl d.val 19 + sl a.val 14 + 8
  | .sextI16 d a => sl d.val 19 + sl a.val 14 + 9
  | .sextI32 d a => sl d.val 19 + sl a.val 14 + 10
  | .zextN8 d a => sl d.val 19 + sl a.val 14 + 12
  | .zextN16 d a => sl d.val 19 + sl a.val 14 + 13
  | .zextN32 d a => sl d.val 19 + sl a.val 14 + 14
  | .cmpeq d a b => sl d.val 19 + sl a.val 14 + sl b.val 9
  | .cmpne d a b => sl d.val 19 + sl a.val 14 + sl b.val 9 + 1
  | .cmplt d a b => sl d.val 19 + sl a.val 14 + sl b.val 9 + 2
  | .cmple d a b => sl d.val 19 + sl a.val 14 + sl b.val 9 + 3
  | .cmpltn d a b => sl d.val 19 + sl a.val 14 + sl b.val 9 + 4
  | .cmplen d a b => sl d.val 19 + sl a.val 14 + sl b.val 9 + 5
  | .tstnz d a b => sl d.val 19 + sl a.val 14 + sl b.val 9 + 6
  | .pand d a b => sl d.val 19 + sl a.val 14 + sl b.val 9
  | .por d a b => sl d.val 19 + sl a.val 14 + sl b.val 9 + 1
  | .pxor d a b => sl d.val 19 + sl a.val 14 + sl b.val 9 + 2
  | .pandn d a b => sl d.val 19 + sl a.val 14 + sl b.val 9 + 3
  | .pnot d a => sl d.val 19 + sl a.val 14 + 4
  | .pset d a => sl d.val 19 + sl a.val 14 + 8
  | .pget d a => sl d.val 19 + sl a.val 14 + 9
  | .sel d a b p => sl d.val 19 + sl a.val 14 + sl b.val 9 + p.val + 256
  | .lea d a b sh => sl d.val 19 + sl a.val 14 + sl b.val 9 + sh.toNat
  | .gaddr d a b => sl d.val 19 + sl a.val 14 + sl b.val 9 + 16
  | .addi d a imm => sl d.val 19 + sl a.val 14 + imm.toNat
  | .andi d a imm => sl d.val 19 + sl a.val 14 + imm.toNat
  | .ori d a imm => sl d.val 19 + sl a.val 14 + imm.toNat
  | .xori d a imm => sl d.val 19 + sl a.val 14 + imm.toNat
  | .shli d a n => sl d.val 19 + sl a.val 14 + n.toNat
  | .shri d a n => sl d.val 19 + sl a.val 14 + n.toNat + 4096
  | .srai d a n => sl d.val 19 + sl a.val 14 + n.toNat + 8192
  | .rori d a n => sl d.val 19 + sl a.val 14 + n.toNat + 12288
  | .cmpeqi d a imm => sl d.val 19 + sl a.val 14 + imm.toNat
  | .cmpnei d a imm => sl d.val 19 + sl a.val 14 + imm.toNat + 2048
  | .cmplti d a imm => sl d.val 19 + sl a.val 14 + imm.toNat + 4096
  | .cmplei d a imm => sl d.val 19 + sl a.val 14 + imm.toNat + 6144
  | .cmpgti d a imm => sl d.val 19 + sl a.val 14 + imm.toNat + 8192
  | .cmpgei d a imm => sl d.val 19 + sl a.val 14 + imm.toNat + 10240
  | .cmpltni d a imm => sl d.val 19 + sl a.val 14 + imm.toNat + 12288
  | .cmpgtni d a imm => sl d.val 19 + sl a.val 14 + imm.toNat + 14336
  | .li d imm => sl d.val 19 + imm.toNat
  | .lix d imm => sl d.val 19 + imm.toNat
  | .b p sense word delta => sl p.val 21 + sl sense.toNat 20 + sl word.toNat 16 + delta.toNat
  | .call p sense word delta => sl p.val 21 + sl sense.toNat 20 + sl word.toNat 16 + delta.toNat
  | .jmpr a => sl a.val 14
  | .callr d a => sl d.val 19 + sl a.val 14 + 1
  | .loop lv c word delta => sl lv.toNat 22 + sl c.val 17 + sl word.toNat 13 + delta.toNat
  | .mfs d n => sl d.val 19 + n.toNat
  | .mts n s => sl s.val 19 + n.toNat
  | .tshape t ty cols rows => sl t.val 20 + sl ty.toNat 16 + sl cols.toNat 7 + rows.toNat
  | .trap code => sl code.toNat 9
  | .sret => 1
  | .idle => 2
  | .nop => 3
  | .ld d a ty off => sl d.val 19 + sl a.val 14 + sl ty.toNat 11 + off.toNat
  | .st a s sz off => sl s.val 19 + sl a.val 14 + sl sz.toNat 12 + off.toNat
  | .lda d a scope sz sg => sl d.val 19 + sl a.val 14 + sl scope.toNat 5 + sl sz.toNat 3 + sl sg.toNat 2
  | .str a b scope sz => sl a.val 14 + sl b.val 9 + sl scope.toNat 5 + sl sz.toNat 3 + 128
  | .fence scope => sl scope.toNat 2
  | .fencea scope => sl scope.toNat 2 + 16
  | .fencer scope => sl scope.toNat 2 + 32
  | .wbr a b => sl a.val 14 + sl b.val 9 + 64
  | .invr a b => sl a.val 14 + sl b.val 9 + 80
  | .discard a b => sl a.val 14 + sl b.val 9 + 96
  | .pref a b => sl a.val 14 + sl b.val 9 + 112
  | .aadd d a b sz order scope => sl d.val 19 + sl a.val 14 + sl b.val 9 + sl sz.toNat 4 + sl order.toNat 2 + scope.toNat
  | .aand d a b sz order scope => sl d.val 19 + sl a.val 14 + sl b.val 9 + sl sz.toNat 4 + sl order.toNat 2 + scope.toNat + 32
  | .aor d a b sz order scope => sl d.val 19 + sl a.val 14 + sl b.val 9 + sl sz.toNat 4 + sl order.toNat 2 + scope.toNat + 64
  | .axor d a b sz order scope => sl d.val 19 + sl a.val 14 + sl b.val 9 + sl sz.toNat 4 + sl order.toNat 2 + scope.toNat + 96
  | .amin d a b sz order scope => sl d.val 19 + sl a.val 14 + sl b.val 9 + sl sz.toNat 4 + sl order.toNat 2 + scope.toNat + 128
  | .amax d a b sz order scope => sl d.val 19 + sl a.val 14 + sl b.val 9 + sl sz.toNat 4 + sl order.toNat 2 + scope.toNat + 160
  | .aminn d a b sz order scope => sl d.val 19 + sl a.val 14 + sl b.val 9 + sl sz.toNat 4 + sl order.toNat 2 + scope.toNat + 192
  | .amaxn d a b sz order scope => sl d.val 19 + sl a.val 14 + sl b.val 9 + sl sz.toNat 4 + sl order.toNat 2 + scope.toNat + 224
  | .aswp d a b sz order scope => sl d.val 19 + sl a.val 14 + sl b.val 9 + sl sz.toNat 4 + sl order.toNat 2 + scope.toNat + 256
  | .afadd d a b order scope => sl d.val 19 + sl a.val 14 + sl b.val 9 + sl order.toNat 2 + scope.toNat + 288
  | .acas d a b sz order scope => sl d.val 19 + sl a.val 14 + sl b.val 9 + sl sz.toNat 4 + sl order.toNat 2 + scope.toNat + 320
  | .join a b => sl a.val 14 + sl b.val 9
  | .joina a b => sl a.val 14 + sl b.val 9 + 1
  | .ldlat d a => sl d.val 19 + sl a.val 14 + 2
  | .ldge d a b => sl d.val 19 + sl a.val 14 + sl b.val 9 + 3
  | .tkwait set => sl set.toNat 3
  | .tkpost set => set.toNat + 64
  | .qpush q a => sl a.val 14 + q.toNat + 128
  | .qpop d q => sl d.val 19 + q.toNat + 192
  | .sclaim st d => sl d.val 19 + st.toNat
  | .sfill st a => sl a.val 14 + st.toNat + 16
  | .swfill st d => sl d.val 19 + st.toNat + 32
  | .srel st a => sl a.val 14 + st.toNat + 48
  | .swfree st a => sl a.val 14 + st.toNat + 64
  | .clinit a rel => sl a.val 14 + sl rel.toNat 5
  | .clexpect a b rel => sl a.val 14 + sl b.val 9 + sl rel.toNat 5 + 64
  | .clarrive a b rel => sl a.val 14 + sl b.val 9 + sl rel.toNat 5 + 128
  | .clwait a rel => sl a.val 14 + sl rel.toNat 5 + 192
  | .clbase a => sl a.val 14 + 256
  | .publ => 0
  | .rdcad d => sl d.val 19 + 1
  | .locq d a => sl d.val 19 + sl a.val 14 + 2
  | .launch d a => sl d.val 19 + sl a.val 14 + 3
  | .pwracq lv => lv.toNat
  | .pwrrel => 262144
  | .exit => 0
  | .end_ => 1
  | .tdesc _ _ ga gb => sl ga.val 19 + sl gb.val 14
  | .seqcfg _ _ ga gb gc => sl ga.val 19 + sl gb.val 14 + sl gc.val 9
  | .seqrunCopy _ ch _ ga gb => sl ga.val 19 + sl gb.val 14 + sl ch.toNat 6
  | .seqrunGather _ ch _ ga gb => sl ga.val 19 + sl gb.val 14 + sl ch.toNat 6 + 1
  | .seqrunScatter _ ch _ ga gb => sl ga.val 19 + sl gb.val 14 + sl ch.toNat 6 + 2
  | .seqrunCpyscl _ ch _ ga gb => sl ga.val 19 + sl gb.val 14 + sl ch.toNat 6 + 3
  | .copy _ ch ga gb gc => sl ga.val 19 + sl gb.val 14 + sl gc.val 9 + sl ch.toNat 6
  | .copyj _ ch ga gb gc => sl ga.val 19 + sl gb.val 14 + sl gc.val 9 + sl ch.toNat 6 + 1
  | .gather _ ch ga gb gc _ _ => sl ga.val 19 + sl gb.val 14 + sl gc.val 9 + sl ch.toNat 6
  | .scatter _ ch ga gb gc _ _ => sl ga.val 19 + sl gb.val 14 + sl gc.val 9 + sl ch.toNat 6 + 1
  | .copymc _ ch ga gb gc _ => sl ga.val 19 + sl gb.val 14 + sl gc.val 9 + sl ch.toNat 6
  | .cpyscl _ ch ga gb gc => sl ga.val 19 + sl gb.val 14 + sl gc.val 9 + sl ch.toNat 6
  | .qsend _ ch ga _ => sl ga.val 19 + sl ch.toNat 6
  | .qrecv _ ch ga => sl ga.val 19 + sl ch.toNat 6 + 1
  | .chwait _ ch => sl ch.toNat 6 + 2
  | .chwaitStage _ ch ga => sl ga.val 19 + sl ch.toNat 6 + 2
  | .vaddI vd va vb mk sz => sl vd.val 19 + sl va.val 14 + sl vb.val 9 + sl mk.val 6 + sl sz.toNat 4
  | .vsubI vd va vb mk sz => sl vd.val 19 + sl va.val 14 + sl vb.val 9 + sl mk.val 6 + sl sz.toNat 4 + 1
  | .vmulI vd va vb mk sz => sl vd.val 19 + sl va.val 14 + sl vb.val 9 + sl mk.val 6 + sl sz.toNat 4 + 2
  | .vaddsI vd va vb mk sz => sl vd.val 19 + sl va.val 14 + sl vb.val 9 + sl mk.val 6 + sl sz.toNat 4 + 3
  | .vsubsI vd va vb mk sz => sl vd.val 19 + sl va.val 14 + sl vb.val 9 + sl mk.val 6 + sl sz.toNat 4 + 4
  | .vminI vd va vb mk sz => sl vd.val 19 + sl va.val 14 + sl vb.val 9 + sl mk.val 6 + sl sz.toNat 4 + 5
  | .vmaxI vd va vb mk sz => sl vd.val 19 + sl va.val 14 + sl vb.val 9 + sl mk.val 6 + sl sz.toNat 4 + 6
  | .vshlI vd va vb mk sz => sl vd.val 19 + sl va.val 14 + sl vb.val 9 + sl mk.val 6 + sl sz.toNat 4 + 7
  | .vshrI vd va vb mk sz => sl vd.val 19 + sl va.val 14 + sl vb.val 9 + sl mk.val 6 + sl sz.toNat 4 + 8
  | .vcmpeqI md va vb mk sz => sl md.val 19 + sl va.val 14 + sl vb.val 9 + sl mk.val 6 + sl sz.toNat 4 + 9
  | .vcmpltI md va vb mk sz => sl md.val 19 + sl va.val 14 + sl vb.val 9 + sl mk.val 6 + sl sz.toNat 4 + 10
  | .vcmpleI md va vb mk sz => sl md.val 19 + sl va.val 14 + sl vb.val 9 + sl mk.val 6 + sl sz.toNat 4 + 11
  | .vaddN vd va vb mk sz => sl vd.val 19 + sl va.val 14 + sl vb.val 9 + sl mk.val 6 + sl sz.toNat 4
  | .vsubN vd va vb mk sz => sl vd.val 19 + sl va.val 14 + sl vb.val 9 + sl mk.val 6 + sl sz.toNat 4 + 1
  | .vmulN vd va vb mk sz => sl vd.val 19 + sl va.val 14 + sl vb.val 9 + sl mk.val 6 + sl sz.toNat 4 + 2
  | .vaddsN vd va vb mk sz => sl vd.val 19 + sl va.val 14 + sl vb.val 9 + sl mk.val 6 + sl sz.toNat 4 + 3
  | .vsubsN vd va vb mk sz => sl vd.val 19 + sl va.val 14 + sl vb.val 9 + sl mk.val 6 + sl sz.toNat 4 + 4
  | .vminN vd va vb mk sz => sl vd.val 19 + sl va.val 14 + sl vb.val 9 + sl mk.val 6 + sl sz.toNat 4 + 5
  | .vmaxN vd va vb mk sz => sl vd.val 19 + sl va.val 14 + sl vb.val 9 + sl mk.val 6 + sl sz.toNat 4 + 6
  | .vshlN vd va vb mk sz => sl vd.val 19 + sl va.val 14 + sl vb.val 9 + sl mk.val 6 + sl sz.toNat 4 + 7
  | .vshrN vd va vb mk sz => sl vd.val 19 + sl va.val 14 + sl vb.val 9 + sl mk.val 6 + sl sz.toNat 4 + 8
  | .vcmpeqN md va vb mk sz => sl md.val 19 + sl va.val 14 + sl vb.val 9 + sl mk.val 6 + sl sz.toNat 4 + 9
  | .vcmpltN md va vb mk sz => sl md.val 19 + sl va.val 14 + sl vb.val 9 + sl mk.val 6 + sl sz.toNat 4 + 10
  | .vcmpleN md va vb mk sz => sl md.val 19 + sl va.val 14 + sl vb.val 9 + sl mk.val 6 + sl sz.toNat 4 + 11
  | .vand vd va vb mk => sl vd.val 19 + sl va.val 14 + sl vb.val 9 + sl mk.val 6
  | .vor vd va vb mk => sl vd.val 19 + sl va.val 14 + sl vb.val 9 + sl mk.val 6 + 1
  | .vxor vd va vb mk => sl vd.val 19 + sl va.val 14 + sl vb.val 9 + sl mk.val 6 + 2
  | .vandn vd va vb mk => sl vd.val 19 + sl va.val 14 + sl vb.val 9 + sl mk.val 6 + 3
  | .vsel vd va vb mk => sl vd.val 19 + sl va.val 14 + sl vb.val 9 + sl mk.val 6 + 4
  | .vbcst vd a sz mk => sl vd.val 19 + sl a.val 14 + sl sz.toNat 9 + sl mk.val 6 + 5
  | .vshuf vd va vb mk => sl vd.val 19 + sl va.val 14 + sl vb.val 9 + sl mk.val 6 + 6
  | .vmov vd va mk => sl vd.val 19 + sl va.val 14 + sl mk.val 6 + 7
  | .mand md ma mb => sl md.val 19 + sl ma.val 14 + sl mb.val 9 + 8
  | .mor md ma mb => sl md.val 19 + sl ma.val 14 + sl mb.val 9 + 9
  | .mxor md ma mb => sl md.val 19 + sl ma.val 14 + sl mb.val 9 + 10
  | .mandn md ma mb => sl md.val 19 + sl ma.val 14 + sl mb.val 9 + 11
  | .mnot md ma => sl md.val 19 + sl ma.val 14 + 12
  | .vlane d va lane => sl d.val 19 + sl va.val 14 + sl lane.toNat 9 + 13
  | .vaddF vd va vb mk ty => sl vd.val 19 + sl va.val 14 + sl vb.val 9 + sl mk.val 6 + sl ty.toNat 4
  | .vsubF vd va vb mk ty => sl vd.val 19 + sl va.val 14 + sl vb.val 9 + sl mk.val 6 + sl ty.toNat 4 + 1
  | .vmulF vd va vb mk ty => sl vd.val 19 + sl va.val 14 + sl vb.val 9 + sl mk.val 6 + sl ty.toNat 4 + 2
  | .vfma vd va vb mk ty => sl vd.val 19 + sl va.val 14 + sl vb.val 9 + sl mk.val 6 + sl ty.toNat 4 + 3
  | .vminF vd va vb mk ty => sl vd.val 19 + sl va.val 14 + sl vb.val 9 + sl mk.val 6 + sl ty.toNat 4 + 4
  | .vmaxF vd va vb mk ty => sl vd.val 19 + sl va.val 14 + sl vb.val 9 + sl mk.val 6 + sl ty.toNat 4 + 5
  | .vcmpeqF md va vb mk ty => sl md.val 19 + sl va.val 14 + sl vb.val 9 + sl mk.val 6 + sl ty.toNat 4 + 6
  | .vcmpltF md va vb mk ty => sl md.val 19 + sl va.val 14 + sl vb.val 9 + sl mk.val 6 + sl ty.toNat 4 + 7
  | .vcmpleF md va vb mk ty => sl md.val 19 + sl va.val 14 + sl vb.val 9 + sl mk.val 6 + sl ty.toNat 4 + 8
  | .vabs vd va mk ty => sl vd.val 19 + sl va.val 14 + sl mk.val 6 + sl ty.toNat 4 + 9
  | .vneg vd va mk ty => sl vd.val 19 + sl va.val 14 + sl mk.val 6 + sl ty.toNat 4 + 10
  | .vexp2 vd va mk => sl vd.val 19 + sl va.val 14 + sl mk.val 6
  | .vlog2 vd va mk => sl vd.val 19 + sl va.val 14 + sl mk.val 6 + 1
  | .vrcp vd va mk => sl vd.val 19 + sl va.val 14 + sl mk.val 6 + 2
  | .vrsq vd va mk => sl vd.val 19 + sl va.val 14 + sl mk.val 6 + 3
  | .vtanh vd va mk => sl vd.val 19 + sl va.val 14 + sl mk.val 6 + 4
  | .vrsum vd va mk => sl vd.val 19 + sl va.val 14 + sl mk.val 6 + 8
  | .vrmax vd va mk => sl vd.val 19 + sl va.val 14 + sl mk.val 6 + 9
  | .vrmin vd va mk => sl vd.val 19 + sl va.val 14 + sl mk.val 6 + 10
  | .vtopk vd va vb mk => sl vd.val 19 + sl va.val 14 + sl vb.val 9 + sl mk.val 6 + 16
  | .vcvt vd va dt st rm sa mk => sl vd.val 19 + sl va.val 14 + sl dt.toNat 10 + sl st.toNat 6 + sl rm.toNat 4 + sl sa.toNat 3 + mk.val
  | .vld _ v a _ mk => sl v.val 19 + sl a.val 14 + sl mk.val 3
  | .vst _ v a _ mk => sl v.val 19 + sl a.val 14 + sl mk.val 3 + 64
  | .vqpop _ v mk => sl v.val 19 + sl mk.val 3 + 128
  | .vqpush _ v mk => sl v.val 19 + sl mk.val 3 + 192
  | .fmtw _ g => sl g.val 5
  | .tld _ ta g => sl ta.val 20 + sl g.val 5
  | .tst _ ta g => sl ta.val 20 + sl g.val 5 + 1
  | .tqld _ ta => sl ta.val 20 + 2
  | .tzero _ ta => sl ta.val 20
  | .ttrans _ ta tb => sl ta.val 20 + sl tb.val 16 + 1
  | .tcvt _ ta tb rm => sl ta.val 20 + sl tb.val 16 + sl rm.toNat 3 + 2
  | .tmma _ acc ta tb => sl ta.val 20 + sl tb.val 16 + sl acc.toNat 10
  | .tmmas _ acc ta tb g => sl ta.val 20 + sl tb.val 16 + sl acc.toNat 10 + sl g.val 5
  | .tdrain _ g acc => sl acc.toNat 10 + sl g.val 5
  | .tdrainadd _ g acc k => sl acc.toNat 10 + sl g.val 5 + sl k.toNat 4 + 1
  | .hmrd _ g acc => sl acc.toNat 10 + sl g.val 5
  | .hmclr _ acc => sl acc.toNat 10 + 1
  | .vectorFormFinish _ _ => 0
  | .syncRendezvous _ => 0
  | .stalledBundleIssue _ _ => 0
  | .stampedIssue _ => 0
  | .scheduleMiss _ => 0
  | .matrixCommandStart _ _ _ => 0
  | .matrixCommandFinish _ => 0
  | .hallmarkCompare _ _ => 0
  | .assayStart _ => 0
  | .assayVerdict _ _ => 0
  | .locketRelease _ _ _ _ => 0
  | .channelCommandStart _ _ => 0
  | .copyPiece _ _ => 0
  | .pieceArrival _ _ _ => 0
  | .sequencerEmission _ _ => 0
  | .multicastArrival _ => 0
  | .watermarkRelease _ _ => 0
  | .channelCommandFinish _ _ => 0
  | .chwaitFinish _ => 0
  | .strandWaitEnd _ _ => 0
  | .claspWaitPass _ _ => 0
  | .claspTimeout _ _ => 0
  | .latticeWaitPass _ _ => 0
  | .latticeTimeout _ _ => 0
  | .powerGrant _ _ _ => 0
  | .trapDelivery _ _ => 0
  | .handlerTimeout _ _ => 0
  | .taskRetire _ => 0
  | .walkerPlace _ => 0
  | .saveComplete _ => 0
  | .restoreIssueStart _ => 0
  | .launchComplete _ => 0
  | .homeSliceAccess _ _ => 0
  | .rds _ _ => 0
  | .rdx _ _ => 0
  | .upg _ _ => 0
  | .putc _ _ => 0
  | .putm _ _ => 0
  | .directoryAck _ _ => 0
  | .inv _ _ => 0
  | .recallS _ _ => 0
  | .recallI _ _ => 0
  | .grant _ _ => 0
  | .exchangeInstant _ => 0
  | .exchangeLineDelivery => 0
  | .flitReceive _ _ _ => 0
  | .flitReplay _ _ => 0
  | .flitAck _ _ => 0
  | .linkStopEnd _ => 0
  | .laneRetirement _ _ _ => 0
  | .lkctlRateChange _ _ => 0
  | .lkctlRetire _ _ => 0
  | .lkctlRetire1 _ _ => 0
  | .clockStretch _ _ => 0
  | .istateWrite _ _ => 0
  | .islandStopEnd _ => 0
  | .capStretch _ _ => 0
  | .ballastStart _ _ => 0
  | .ballastEnd _ => 0
  | .hostWindowAccess _ _ => 0
  | .submit _ _ => 0
  | .hqlid _ => 0
  | .ksLoad _ _ => 0
  | .ksInvalidate _ => 0
  | .ksErase _ => 0
  | .peerAccess _ _ => 0
  | .reductionWrite _ _ _ _ => 0
  | .ualinkPortLoss _ => 0
  | .cxlPortError _ _ => 0
  | .deviceReset _ => 0
  | .bootLoad _ _ _ _ => 0
  | .lrtLoad _ => 0
  | .lrtUnload => 0
  | .xschWrite _ _ => 0
  | .shootdownPages _ => 0
  | .shootdownTensor _ => 0
  | .shootdownContext _ => 0
  | .tresumePlace _ => 0
  | .tresumeKill _ => 0
  | .lctlSave _ => 0
  | .lctlKill _ => 0
  | .iftStart _ => 0
  | .iftComplete _ => 0
  | .cfenceClear _ _ => 0
  | .emudoneFinish _ => 0
  | .emudoneFault _ => 0
  | .wake _ _ => 0
  | .registerWrite _ _ _ => 0
  | .patrolScrub _ _ _ _ => 0

/-- The major of an instruction; 0 for an event (R54). -/
def majorOfInstr : Instr → Nat
  | .add _ _ _ => 1
  | .sub _ _ _ => 1
  | .addt _ _ _ => 1
  | .subt _ _ _ => 1
  | .mul _ _ _ => 1
  | .mulh _ _ _ => 1
  | .mulhn _ _ _ => 1
  | .mult _ _ _ => 1
  | .div _ _ _ => 1
  | .divn _ _ _ => 1
  | .rem _ _ _ => 1
  | .remn _ _ _ => 1
  | .min _ _ _ => 1
  | .max _ _ _ => 1
  | .minn _ _ _ => 1
  | .maxn _ _ _ => 1
  | .and _ _ _ => 2
  | .or _ _ _ => 2
  | .xor _ _ _ => 2
  | .andn _ _ _ => 2
  | .orn _ _ _ => 2
  | .shl _ _ _ => 2
  | .shr _ _ _ => 2
  | .sra _ _ _ => 2
  | .rol _ _ _ => 2
  | .ror _ _ _ => 2
  | .clz _ _ => 3
  | .ctz _ _ => 3
  | .popc _ _ => 3
  | .brev _ _ => 3
  | .bswap _ _ => 3
  | .sextI8 _ _ => 3
  | .sextI16 _ _ => 3
  | .sextI32 _ _ => 3
  | .zextN8 _ _ => 3
  | .zextN16 _ _ => 3
  | .zextN32 _ _ => 3
  | .cmpeq _ _ _ => 4
  | .cmpne _ _ _ => 4
  | .cmplt _ _ _ => 4
  | .cmple _ _ _ => 4
  | .cmpltn _ _ _ => 4
  | .cmplen _ _ _ => 4
  | .tstnz _ _ _ => 4
  | .pand _ _ _ => 5
  | .por _ _ _ => 5
  | .pxor _ _ _ => 5
  | .pandn _ _ _ => 5
  | .pnot _ _ => 5
  | .pset _ _ => 5
  | .pget _ _ => 5
  | .sel _ _ _ _ => 5
  | .lea _ _ _ _ => 6
  | .gaddr _ _ _ => 6
  | .addi _ _ _ => 8
  | .andi _ _ _ => 9
  | .ori _ _ _ => 10
  | .xori _ _ _ => 11
  | .shli _ _ _ => 12
  | .shri _ _ _ => 12
  | .srai _ _ _ => 12
  | .rori _ _ _ => 12
  | .cmpeqi _ _ _ => 13
  | .cmpnei _ _ _ => 13
  | .cmplti _ _ _ => 13
  | .cmplei _ _ _ => 13
  | .cmpgti _ _ _ => 13
  | .cmpgei _ _ _ => 13
  | .cmpltni _ _ _ => 13
  | .cmpgtni _ _ _ => 13
  | .li _ _ => 14
  | .lix _ _ => 15
  | .b _ _ _ _ => 16
  | .call _ _ _ _ => 17
  | .jmpr _ => 18
  | .callr _ _ => 18
  | .loop _ _ _ _ => 19
  | .mfs _ _ => 20
  | .mts _ _ => 21
  | .tshape _ _ _ _ => 22
  | .trap _ => 23
  | .sret => 23
  | .idle => 23
  | .nop => 23
  | .ld _ _ _ _ => 24
  | .st _ _ _ _ => 25
  | .lda _ _ _ _ _ => 26
  | .str _ _ _ _ => 26
  | .fence _ => 27
  | .fencea _ => 27
  | .fencer _ => 27
  | .wbr _ _ => 27
  | .invr _ _ => 27
  | .discard _ _ => 27
  | .pref _ _ => 27
  | .aadd _ _ _ _ _ _ => 28
  | .aand _ _ _ _ _ _ => 28
  | .aor _ _ _ _ _ _ => 28
  | .axor _ _ _ _ _ _ => 28
  | .amin _ _ _ _ _ _ => 28
  | .amax _ _ _ _ _ _ => 28
  | .aminn _ _ _ _ _ _ => 28
  | .amaxn _ _ _ _ _ _ => 28
  | .aswp _ _ _ _ _ _ => 28
  | .afadd _ _ _ _ _ => 28
  | .acas _ _ _ _ _ _ => 28
  | .join _ _ => 29
  | .joina _ _ => 29
  | .ldlat _ _ => 29
  | .ldge _ _ _ => 29
  | .tkwait _ => 32
  | .tkpost _ => 32
  | .qpush _ _ => 32
  | .qpop _ _ => 32
  | .sclaim _ _ => 33
  | .sfill _ _ => 33
  | .swfill _ _ => 33
  | .srel _ _ => 33
  | .swfree _ _ => 33
  | .clinit _ _ => 34
  | .clexpect _ _ _ => 34
  | .clarrive _ _ _ => 34
  | .clwait _ _ => 34
  | .clbase _ => 34
  | .publ => 35
  | .rdcad _ => 35
  | .locq _ _ => 35
  | .launch _ _ => 35
  | .pwracq _ => 36
  | .pwrrel => 36
  | .exit => 37
  | .end_ => 37
  | .tdesc _ _ _ _ => 40
  | .seqcfg _ _ _ _ _ => 41
  | .seqrunCopy _ _ _ _ _ => 42
  | .seqrunGather _ _ _ _ _ => 42
  | .seqrunScatter _ _ _ _ _ => 42
  | .seqrunCpyscl _ _ _ _ _ => 42
  | .copy _ _ _ _ _ => 43
  | .copyj _ _ _ _ _ => 43
  | .gather _ _ _ _ _ _ _ => 44
  | .scatter _ _ _ _ _ _ _ => 44
  | .copymc _ _ _ _ _ _ => 45
  | .cpyscl _ _ _ _ _ => 46
  | .qsend _ _ _ _ => 47
  | .qrecv _ _ _ => 47
  | .chwait _ _ => 47
  | .chwaitStage _ _ _ => 47
  | .vaddI _ _ _ _ _ => 48
  | .vsubI _ _ _ _ _ => 48
  | .vmulI _ _ _ _ _ => 48
  | .vaddsI _ _ _ _ _ => 48
  | .vsubsI _ _ _ _ _ => 48
  | .vminI _ _ _ _ _ => 48
  | .vmaxI _ _ _ _ _ => 48
  | .vshlI _ _ _ _ _ => 48
  | .vshrI _ _ _ _ _ => 48
  | .vcmpeqI _ _ _ _ _ => 48
  | .vcmpltI _ _ _ _ _ => 48
  | .vcmpleI _ _ _ _ _ => 48
  | .vaddN _ _ _ _ _ => 49
  | .vsubN _ _ _ _ _ => 49
  | .vmulN _ _ _ _ _ => 49
  | .vaddsN _ _ _ _ _ => 49
  | .vsubsN _ _ _ _ _ => 49
  | .vminN _ _ _ _ _ => 49
  | .vmaxN _ _ _ _ _ => 49
  | .vshlN _ _ _ _ _ => 49
  | .vshrN _ _ _ _ _ => 49
  | .vcmpeqN _ _ _ _ _ => 49
  | .vcmpltN _ _ _ _ _ => 49
  | .vcmpleN _ _ _ _ _ => 49
  | .vand _ _ _ _ => 50
  | .vor _ _ _ _ => 50
  | .vxor _ _ _ _ => 50
  | .vandn _ _ _ _ => 50
  | .vsel _ _ _ _ => 50
  | .vbcst _ _ _ _ => 50
  | .vshuf _ _ _ _ => 50
  | .vmov _ _ _ => 50
  | .mand _ _ _ => 50
  | .mor _ _ _ => 50
  | .mxor _ _ _ => 50
  | .mandn _ _ _ => 50
  | .mnot _ _ => 50
  | .vlane _ _ _ => 50
  | .vaddF _ _ _ _ _ => 51
  | .vsubF _ _ _ _ _ => 51
  | .vmulF _ _ _ _ _ => 51
  | .vfma _ _ _ _ _ => 51
  | .vminF _ _ _ _ _ => 51
  | .vmaxF _ _ _ _ _ => 51
  | .vcmpeqF _ _ _ _ _ => 51
  | .vcmpltF _ _ _ _ _ => 51
  | .vcmpleF _ _ _ _ _ => 51
  | .vabs _ _ _ _ => 51
  | .vneg _ _ _ _ => 51
  | .vexp2 _ _ _ => 52
  | .vlog2 _ _ _ => 52
  | .vrcp _ _ _ => 52
  | .vrsq _ _ _ => 52
  | .vtanh _ _ _ => 52
  | .vrsum _ _ _ => 52
  | .vrmax _ _ _ => 52
  | .vrmin _ _ _ => 52
  | .vtopk _ _ _ _ => 52
  | .vcvt _ _ _ _ _ _ _ => 53
  | .vld _ _ _ _ _ => 54
  | .vst _ _ _ _ _ => 54
  | .vqpop _ _ _ => 54
  | .vqpush _ _ _ => 54
  | .fmtw _ _ => 56
  | .tld _ _ _ => 57
  | .tst _ _ _ => 57
  | .tqld _ _ => 57
  | .tzero _ _ => 58
  | .ttrans _ _ _ => 58
  | .tcvt _ _ _ _ => 58
  | .tmma _ _ _ _ => 59
  | .tmmas _ _ _ _ _ => 60
  | .tdrain _ _ _ => 61
  | .tdrainadd _ _ _ _ => 61
  | .hmrd _ _ _ => 62
  | .hmclr _ _ => 62
  | .vectorFormFinish _ _ => 0
  | .syncRendezvous _ => 0
  | .stalledBundleIssue _ _ => 0
  | .stampedIssue _ => 0
  | .scheduleMiss _ => 0
  | .matrixCommandStart _ _ _ => 0
  | .matrixCommandFinish _ => 0
  | .hallmarkCompare _ _ => 0
  | .assayStart _ => 0
  | .assayVerdict _ _ => 0
  | .locketRelease _ _ _ _ => 0
  | .channelCommandStart _ _ => 0
  | .copyPiece _ _ => 0
  | .pieceArrival _ _ _ => 0
  | .sequencerEmission _ _ => 0
  | .multicastArrival _ => 0
  | .watermarkRelease _ _ => 0
  | .channelCommandFinish _ _ => 0
  | .chwaitFinish _ => 0
  | .strandWaitEnd _ _ => 0
  | .claspWaitPass _ _ => 0
  | .claspTimeout _ _ => 0
  | .latticeWaitPass _ _ => 0
  | .latticeTimeout _ _ => 0
  | .powerGrant _ _ _ => 0
  | .trapDelivery _ _ => 0
  | .handlerTimeout _ _ => 0
  | .taskRetire _ => 0
  | .walkerPlace _ => 0
  | .saveComplete _ => 0
  | .restoreIssueStart _ => 0
  | .launchComplete _ => 0
  | .homeSliceAccess _ _ => 0
  | .rds _ _ => 0
  | .rdx _ _ => 0
  | .upg _ _ => 0
  | .putc _ _ => 0
  | .putm _ _ => 0
  | .directoryAck _ _ => 0
  | .inv _ _ => 0
  | .recallS _ _ => 0
  | .recallI _ _ => 0
  | .grant _ _ => 0
  | .exchangeInstant _ => 0
  | .exchangeLineDelivery => 0
  | .flitReceive _ _ _ => 0
  | .flitReplay _ _ => 0
  | .flitAck _ _ => 0
  | .linkStopEnd _ => 0
  | .laneRetirement _ _ _ => 0
  | .lkctlRateChange _ _ => 0
  | .lkctlRetire _ _ => 0
  | .lkctlRetire1 _ _ => 0
  | .clockStretch _ _ => 0
  | .istateWrite _ _ => 0
  | .islandStopEnd _ => 0
  | .capStretch _ _ => 0
  | .ballastStart _ _ => 0
  | .ballastEnd _ => 0
  | .hostWindowAccess _ _ => 0
  | .submit _ _ => 0
  | .hqlid _ => 0
  | .ksLoad _ _ => 0
  | .ksInvalidate _ => 0
  | .ksErase _ => 0
  | .peerAccess _ _ => 0
  | .reductionWrite _ _ _ _ => 0
  | .ualinkPortLoss _ => 0
  | .cxlPortError _ _ => 0
  | .deviceReset _ => 0
  | .bootLoad _ _ _ _ => 0
  | .lrtLoad _ => 0
  | .lrtUnload => 0
  | .xschWrite _ _ => 0
  | .shootdownPages _ => 0
  | .shootdownTensor _ => 0
  | .shootdownContext _ => 0
  | .tresumePlace _ => 0
  | .tresumeKill _ => 0
  | .lctlSave _ => 0
  | .lctlKill _ => 0
  | .iftStart _ => 0
  | .iftComplete _ => 0
  | .cfenceClear _ _ => 0
  | .emudoneFinish _ => 0
  | .emudoneFault _ => 0
  | .wake _ _ => 0
  | .registerWrite _ _ _ => 0
  | .patrolScrub _ _ _ _ => 0

/-- The second word of a long form. -/
def encodeSecond : Instr → Option Nat
  | .add _ _ _ => none
  | .sub _ _ _ => none
  | .addt _ _ _ => none
  | .subt _ _ _ => none
  | .mul _ _ _ => none
  | .mulh _ _ _ => none
  | .mulhn _ _ _ => none
  | .mult _ _ _ => none
  | .div _ _ _ => none
  | .divn _ _ _ => none
  | .rem _ _ _ => none
  | .remn _ _ _ => none
  | .min _ _ _ => none
  | .max _ _ _ => none
  | .minn _ _ _ => none
  | .maxn _ _ _ => none
  | .and _ _ _ => none
  | .or _ _ _ => none
  | .xor _ _ _ => none
  | .andn _ _ _ => none
  | .orn _ _ _ => none
  | .shl _ _ _ => none
  | .shr _ _ _ => none
  | .sra _ _ _ => none
  | .rol _ _ _ => none
  | .ror _ _ _ => none
  | .clz _ _ => none
  | .ctz _ _ => none
  | .popc _ _ => none
  | .brev _ _ => none
  | .bswap _ _ => none
  | .sextI8 _ _ => none
  | .sextI16 _ _ => none
  | .sextI32 _ _ => none
  | .zextN8 _ _ => none
  | .zextN16 _ _ => none
  | .zextN32 _ _ => none
  | .cmpeq _ _ _ => none
  | .cmpne _ _ _ => none
  | .cmplt _ _ _ => none
  | .cmple _ _ _ => none
  | .cmpltn _ _ _ => none
  | .cmplen _ _ _ => none
  | .tstnz _ _ _ => none
  | .pand _ _ _ => none
  | .por _ _ _ => none
  | .pxor _ _ _ => none
  | .pandn _ _ _ => none
  | .pnot _ _ => none
  | .pset _ _ => none
  | .pget _ _ => none
  | .sel _ _ _ _ => none
  | .lea _ _ _ _ => none
  | .gaddr _ _ _ => none
  | .addi _ _ _ => none
  | .andi _ _ _ => none
  | .ori _ _ _ => none
  | .xori _ _ _ => none
  | .shli _ _ _ => none
  | .shri _ _ _ => none
  | .srai _ _ _ => none
  | .rori _ _ _ => none
  | .cmpeqi _ _ _ => none
  | .cmpnei _ _ _ => none
  | .cmplti _ _ _ => none
  | .cmplei _ _ _ => none
  | .cmpgti _ _ _ => none
  | .cmpgei _ _ _ => none
  | .cmpltni _ _ _ => none
  | .cmpgtni _ _ _ => none
  | .li _ _ => none
  | .lix _ _ => none
  | .b _ _ _ _ => none
  | .call _ _ _ _ => none
  | .jmpr _ => none
  | .callr _ _ => none
  | .loop _ _ _ _ => none
  | .mfs _ _ => none
  | .mts _ _ => none
  | .tshape _ _ _ _ => none
  | .trap _ => none
  | .sret => none
  | .idle => none
  | .nop => none
  | .ld _ _ _ _ => none
  | .st _ _ _ _ => none
  | .lda _ _ _ _ _ => none
  | .str _ _ _ _ => none
  | .fence _ => none
  | .fencea _ => none
  | .fencer _ => none
  | .wbr _ _ => none
  | .invr _ _ => none
  | .discard _ _ => none
  | .pref _ _ => none
  | .aadd _ _ _ _ _ _ => none
  | .aand _ _ _ _ _ _ => none
  | .aor _ _ _ _ _ _ => none
  | .axor _ _ _ _ _ _ => none
  | .amin _ _ _ _ _ _ => none
  | .amax _ _ _ _ _ _ => none
  | .aminn _ _ _ _ _ _ => none
  | .amaxn _ _ _ _ _ _ => none
  | .aswp _ _ _ _ _ _ => none
  | .afadd _ _ _ _ _ => none
  | .acas _ _ _ _ _ _ => none
  | .join _ _ => none
  | .joina _ _ => none
  | .ldlat _ _ => none
  | .ldge _ _ _ => none
  | .tkwait _ => none
  | .tkpost _ => none
  | .qpush _ _ => none
  | .qpop _ _ => none
  | .sclaim _ _ => none
  | .sfill _ _ => none
  | .swfill _ _ => none
  | .srel _ _ => none
  | .swfree _ _ => none
  | .clinit _ _ => none
  | .clexpect _ _ _ => none
  | .clarrive _ _ _ => none
  | .clwait _ _ => none
  | .clbase _ => none
  | .publ => none
  | .rdcad _ => none
  | .locq _ _ => none
  | .launch _ _ => none
  | .pwracq _ => none
  | .pwrrel => none
  | .exit => none
  | .end_ => none
  | .tdesc l slot _ _ => some (longWord l (slot.toNat))
  | .seqcfg l lv _ _ _ => some (longWord l (lv.toNat))
  | .seqrunCopy l _ slot _ _ => some (longWord l (slot.toNat))
  | .seqrunGather l _ slot _ _ => some (longWord l (slot.toNat))
  | .seqrunScatter l _ slot _ _ => some (longWord l (slot.toNat))
  | .seqrunCpyscl l _ slot _ _ => some (longWord l (slot.toNat))
  | .copy l _ _ _ _ => some (longWord l (0))
  | .copyj l _ _ _ _ => some (longWord l (0))
  | .gather l _ _ _ _ cnt esz => some (longWord l (sl cnt.toNat 2 + esz.toNat))
  | .scatter l _ _ _ _ cnt esz => some (longWord l (sl cnt.toNat 2 + esz.toNat))
  | .copymc l _ _ _ _ mask => some (longWord l (mask.toNat))
  | .cpyscl l _ _ _ _ => some (longWord l (0))
  | .qsend l _ _ q => some (longWord l (q.toNat))
  | .qrecv l _ _ => some (longWord l (0))
  | .chwait l _ => some (longWord l (0))
  | .chwaitStage l _ _ => some (longWord l (0))
  | .vaddI _ _ _ _ _ => none
  | .vsubI _ _ _ _ _ => none
  | .vmulI _ _ _ _ _ => none
  | .vaddsI _ _ _ _ _ => none
  | .vsubsI _ _ _ _ _ => none
  | .vminI _ _ _ _ _ => none
  | .vmaxI _ _ _ _ _ => none
  | .vshlI _ _ _ _ _ => none
  | .vshrI _ _ _ _ _ => none
  | .vcmpeqI _ _ _ _ _ => none
  | .vcmpltI _ _ _ _ _ => none
  | .vcmpleI _ _ _ _ _ => none
  | .vaddN _ _ _ _ _ => none
  | .vsubN _ _ _ _ _ => none
  | .vmulN _ _ _ _ _ => none
  | .vaddsN _ _ _ _ _ => none
  | .vsubsN _ _ _ _ _ => none
  | .vminN _ _ _ _ _ => none
  | .vmaxN _ _ _ _ _ => none
  | .vshlN _ _ _ _ _ => none
  | .vshrN _ _ _ _ _ => none
  | .vcmpeqN _ _ _ _ _ => none
  | .vcmpltN _ _ _ _ _ => none
  | .vcmpleN _ _ _ _ _ => none
  | .vand _ _ _ _ => none
  | .vor _ _ _ _ => none
  | .vxor _ _ _ _ => none
  | .vandn _ _ _ _ => none
  | .vsel _ _ _ _ => none
  | .vbcst _ _ _ _ => none
  | .vshuf _ _ _ _ => none
  | .vmov _ _ _ => none
  | .mand _ _ _ => none
  | .mor _ _ _ => none
  | .mxor _ _ _ => none
  | .mandn _ _ _ => none
  | .mnot _ _ => none
  | .vlane _ _ _ => none
  | .vaddF _ _ _ _ _ => none
  | .vsubF _ _ _ _ _ => none
  | .vmulF _ _ _ _ _ => none
  | .vfma _ _ _ _ _ => none
  | .vminF _ _ _ _ _ => none
  | .vmaxF _ _ _ _ _ => none
  | .vcmpeqF _ _ _ _ _ => none
  | .vcmpltF _ _ _ _ _ => none
  | .vcmpleF _ _ _ _ _ => none
  | .vabs _ _ _ _ => none
  | .vneg _ _ _ _ => none
  | .vexp2 _ _ _ => none
  | .vlog2 _ _ _ => none
  | .vrcp _ _ _ => none
  | .vrsq _ _ _ => none
  | .vtanh _ _ _ => none
  | .vrsum _ _ _ => none
  | .vrmax _ _ _ => none
  | .vrmin _ _ _ => none
  | .vtopk _ _ _ _ => none
  | .vcvt _ _ _ _ _ _ _ => none
  | .vld l _ _ off _ => some (longWord l (off.toNat))
  | .vst l _ _ off _ => some (longWord l (off.toNat))
  | .vqpop l _ _ => some (longWord l (0))
  | .vqpush l _ _ => some (longWord l (0))
  | .fmtw l _ => some (longWord l (0))
  | .tld l _ _ => some (longWord l (0))
  | .tst l _ _ => some (longWord l (0))
  | .tqld l _ => some (longWord l (0))
  | .tzero l _ => some (longWord l (0))
  | .ttrans l _ _ => some (longWord l (0))
  | .tcvt l _ _ _ => some (longWord l (0))
  | .tmma l _ _ _ => some (longWord l (0))
  | .tmmas l _ _ _ _ => some (longWord l (0))
  | .tdrain l _ _ => some (longWord l (0))
  | .tdrainadd l _ _ _ => some (longWord l (0))
  | .hmrd l _ _ => some (longWord l (0))
  | .hmclr l _ => some (longWord l (0))
  | .vectorFormFinish _ _ => none
  | .syncRendezvous _ => none
  | .stalledBundleIssue _ _ => none
  | .stampedIssue _ => none
  | .scheduleMiss _ => none
  | .matrixCommandStart _ _ _ => none
  | .matrixCommandFinish _ => none
  | .hallmarkCompare _ _ => none
  | .assayStart _ => none
  | .assayVerdict _ _ => none
  | .locketRelease _ _ _ _ => none
  | .channelCommandStart _ _ => none
  | .copyPiece _ _ => none
  | .pieceArrival _ _ _ => none
  | .sequencerEmission _ _ => none
  | .multicastArrival _ => none
  | .watermarkRelease _ _ => none
  | .channelCommandFinish _ _ => none
  | .chwaitFinish _ => none
  | .strandWaitEnd _ _ => none
  | .claspWaitPass _ _ => none
  | .claspTimeout _ _ => none
  | .latticeWaitPass _ _ => none
  | .latticeTimeout _ _ => none
  | .powerGrant _ _ _ => none
  | .trapDelivery _ _ => none
  | .handlerTimeout _ _ => none
  | .taskRetire _ => none
  | .walkerPlace _ => none
  | .saveComplete _ => none
  | .restoreIssueStart _ => none
  | .launchComplete _ => none
  | .homeSliceAccess _ _ => none
  | .rds _ _ => none
  | .rdx _ _ => none
  | .upg _ _ => none
  | .putc _ _ => none
  | .putm _ _ => none
  | .directoryAck _ _ => none
  | .inv _ _ => none
  | .recallS _ _ => none
  | .recallI _ _ => none
  | .grant _ _ => none
  | .exchangeInstant _ => none
  | .exchangeLineDelivery => none
  | .flitReceive _ _ _ => none
  | .flitReplay _ _ => none
  | .flitAck _ _ => none
  | .linkStopEnd _ => none
  | .laneRetirement _ _ _ => none
  | .lkctlRateChange _ _ => none
  | .lkctlRetire _ _ => none
  | .lkctlRetire1 _ _ => none
  | .clockStretch _ _ => none
  | .istateWrite _ _ => none
  | .islandStopEnd _ => none
  | .capStretch _ _ => none
  | .ballastStart _ _ => none
  | .ballastEnd _ => none
  | .hostWindowAccess _ _ => none
  | .submit _ _ => none
  | .hqlid _ => none
  | .ksLoad _ _ => none
  | .ksInvalidate _ => none
  | .ksErase _ => none
  | .peerAccess _ _ => none
  | .reductionWrite _ _ _ _ => none
  | .ualinkPortLoss _ => none
  | .cxlPortError _ _ => none
  | .deviceReset _ => none
  | .bootLoad _ _ _ _ => none
  | .lrtLoad _ => none
  | .lrtUnload => none
  | .xschWrite _ _ => none
  | .shootdownPages _ => none
  | .shootdownTensor _ => none
  | .shootdownContext _ => none
  | .tresumePlace _ => none
  | .tresumeKill _ => none
  | .lctlSave _ => none
  | .lctlKill _ => none
  | .iftStart _ => none
  | .iftComplete _ => none
  | .cfenceClear _ _ => none
  | .emudoneFinish _ => none
  | .emudoneFault _ => none
  | .wake _ _ => none
  | .registerWrite _ _ _ => none
  | .patrolScrub _ _ _ _ => none

/-- The first word with its S and E bits (R49). -/
def encodeFirst (s e : Bool) (i : Instr) : Nat :=
  sl (majorOfInstr i) 26 + sl s.toNat 25 + sl e.toNat 24 + encodeLow i

/-- The words of a well-formed instruction, first word first. -/
def encode (s e : Bool) (i : Instr) : List Nat :=
  encodeFirst s e i :: (encodeSecond i).toList

end Sys2Proof
end

