-- ==== Sys2Proof/Machine/State.lean ====
section
/-! DEFINITION. The state of the device as plain data, and the state right after reset. -/

namespace Sys2Proof.Machine

/-! Tables with a default: sorted lists of (key, value) pairs in which no value equals the default. -/

/-- The value of a key, the default where the key is not listed. -/
def lookup {α : Type} (dflt : Nat → α) : List (Nat × α) → Nat → α
  | [], k => dflt k
  | (j, v) :: rest, k => if j = k then v else if k < j then dflt k else lookup dflt rest k

/-- The table with the value of a key replaced, in canonical form. -/
def insert {α : Type} [DecidableEq α] (dflt : Nat → α) : List (Nat × α) → Nat → α → List (Nat × α)
  | [], k, v => if v = dflt k then [] else [(k, v)]
  | (j, u) :: rest, k, v =>
    if j < k then (j, u) :: insert dflt rest k v
    else if j = k then (if v = dflt k then rest else (k, v) :: rest)
    else if v = dflt k then (j, u) :: rest else (k, v) :: (j, u) :: rest

/-- Keys rise strictly above a bound and no value equals its default. -/
def canonicalAbove {α : Type} [DecidableEq α] (dflt : Nat → α) : Option Nat → List (Nat × α) → Bool
  | _, [] => true
  | lo, (j, v) :: rest =>
    (match lo with | none => true | some b => decide (b < j)) && decide (v ≠ dflt j) && canonicalAbove dflt (some j) rest

/-! Memory. -/

/-- A byte store: the bytes that differ from what an unlisted address reads as, addresses rising. -/
structure Memory where
  cells : List Host.Cell
  deriving DecidableEq, Repr

/-- What a byte that nothing has written reads as; notes/assumptions/2.md. DESIGN CHOICE for memory behind the die;
R33 for typed buffers and tiles. -/
def Memory.unlisted (_ : Nat) : Byte := 0

/-- The memory that lists nothing. -/
def Memory.empty : Memory := ⟨[]⟩

/-- The byte at an address. -/
def Memory.read (m : Memory) (a : Nat) : Byte := lookup Memory.unlisted m.cells a

/-- The memory after one byte is written. -/
def Memory.write (m : Memory) (a : Nat) (b : Byte) : Memory := ⟨insert Memory.unlisted m.cells a b⟩

/-- The canonical form: addresses strictly rising, no cell equal to what an unlisted address reads as. -/
def Memory.wf (m : Memory) : Bool := canonicalAbove Memory.unlisted none m.cells

/-! A cluster. -/

/-- The lines in a row that fetch may enter without issuing a bundle (R44, detail 8). -/
def maxLines : Nat := 65536

/-- The state of one cluster of a core (01 R8 to R13, R29, R35; 05 R136; 09 R229; 15 R341 to R347). -/
structure Cluster where
  /-- Code address of the next bundle; word index 0 stands for the end of the line below. -/
  pc : Word
  /-- The pc came from a register and is checked by R42 when fetch uses it. -/
  pcReg : Bool
  /-- A taken branch of the bundle at the pc has a target outside the offset (R43); the fault is due at the next bundle. -/
  pcBad : Bool
  /-- Lines fetch may still visit from the pc without issuing a bundle, the line of the pc among them (R44). -/
  lineRoom : Nat
  /-- g0 to g31. -/
  g : Vector Word 32
  /-- p0 to p7. -/
  p : Vector Bool 8
  /-- LPS0 to LPS3. -/
  lps : Vector Word 4
  /-- LPE0 to LPE3. -/
  lpe : Vector Word 4
  /-- LPC0 to LPC3. -/
  lpc : Vector Word 4
  /-- CLBCUR. -/
  clb : Word
  /-- LGTMO. -/
  lgtmo : Word
  /-- CLTMO. -/
  cltmo : Word
  /-- SRKEY, of V and of M. -/
  srkey : Word
  /-- SRCTR, of V and of M. -/
  srctr : Word
  /-- Sync bundles issued in the task (R48). -/
  syncs : BitVec 32
  /-- The cluster waits at its next rendezvous (R48). -/
  atSync : Bool
  /-- The cluster has executed END or EXIT. -/
  ended : Bool
  /-- The cluster is halted at a fault (R366). -/
  halted : Bool
  /-- An exit sequence, a save or a termination has stopped issue (R241, R351, R350). -/
  stopped : Bool
  /-- Privileged level (R341). -/
  priv : Bool
  /-- INH (R341). -/
  inh : Bool
  /-- The wake latch (R347). -/
  wake : Bool
  /-- IDLE is in force (R347). -/
  idle : Bool
  /-- TVEC. -/
  tvec : Word
  /-- TCAUSE. -/
  tcause : Word
  /-- TPC. -/
  tpc : Word
  /-- TPC came from a register and is checked by R42 when fetch uses it after the return. -/
  tpcReg : Bool
  /-- TADDR. -/
  taddr : Word
  /-- TINFO. -/
  tinfo : Word
  /-- TSTAT. -/
  tstat : Word
  /-- HKEEP0 to HKEEP3. -/
  hkeep : Vector Word 4
  /-- PCTX. -/
  pctx : Word
  /-- Tick at which the present CLWAIT or LDGE began to wait, and the timeout it began with (R139, R230, R234). -/
  waitSince : Option (Nat × Word)
  /-- The clasp the present CLWAIT waits at, and whether its condition has held since it began to wait (R230). -/
  claspWait : Option (Fin 256 × Bool)
  /-- Issue number of the core at the cluster's last fence: long forms issued before it act before those issued after (05 R144). -/
  fence : Nat
  /-- What held the stamped bundle at the cluster's pc when its target tick passed: true for a hold that makes it miss its schedule,
  false for none, or for the cluster's own earlier matrix commands; none where the cluster did not stand at it (06 R175). -/
  stampSeen : Option Bool
  /-- The latest hold of the cluster by its own earlier matrix commands: its first tick, and its last once it is over (06 R175). -/
  hold : Option (Nat × Option Nat)
  /-- A `CLWAIT` that had passed when a trap came before its bundle issued: the bundle's address and the clasp (R230). -/
  claspKept : Option (Word × Fin 256)
  deriving DecidableEq, Repr

/-- A cluster as R33 leaves it, less what the launch record gives. -/
def Cluster.reset : Cluster :=
  { pc := 0, pcReg := false, pcBad := false, lineRoom := maxLines, g := Vector.replicate 32 0, p := Vector.replicate 8 false,
    lps := Vector.replicate 4 0, lpe := Vector.replicate 4 0, lpc := Vector.replicate 4 0,
    clb := 0, lgtmo := 0, cltmo := 0, srkey := 0, srctr := 0, syncs := 0, atSync := false,
    ended := false, halted := false, stopped := false, priv := false, inh := false, wake := false, idle := false,
    tvec := 0, tcause := 0, tpc := 0, tpcReg := false, taddr := 0, tinfo := 0, tstat := 0, hkeep := Vector.replicate 4 0, pctx := 0,
    waitSince := none, claspWait := none, fence := 0, stampSeen := none, hold := none, claspKept := none }

/-! Engines of a core. -/

/-- A trap as it is raised (15 R343, R346). -/
structure Trap where
  /-- The cluster whose instruction raised the cause. -/
  clu : Clu
  cause : Nat
  detail : Nat
  /-- Not raised precisely at the bundle of TPC. -/
  async : Bool
  addr : Word
  info : Word
  deriving DecidableEq, Repr

/-- An issued long form of a cluster outside the matrix and copy engines that has not finished (R191, R352). -/
structure Form where
  i : Instr
  w0 : Word32
  w1 : Word32
  clu : Clu
  /-- The address, or the sequence number of a stage wait. -/
  addr : Word
  /-- The write mask read at issue. -/
  mask : Word
  /-- The bytes to store or to push. -/
  data : Line
  /-- The aligned 8-byte words already performed (07 R192). -/
  parts : BitVec 8
  /-- Issue number in the core. -/
  order : Nat
  /-- The issue number below which the cluster's forms act first (05 R144). -/
  after : Nat
  /-- Issued inside a handler. -/
  handler : Bool
  deriving DecidableEq, Repr

/-- A translated byte address (15 R361): where it lies, under which key and mode, at which home. -/
structure Phys where
  /-- tier * 2^50 + frame * 65536 + offset in the page. -/
  addr : Nat
  key : Nat
  /-- 0 coherent, 1 non-coherent, 2 coherent and system-atomic. -/
  mode : Nat
  home : Fin 8
  local_ : Bool
  dead : Bool
  /-- Physical address of the page entry. -/
  pte : Nat
  /-- Context slot, tensor and page of the translation. -/
  tag : Nat × Nat × Nat
  deriving DecidableEq, Repr

/-- The 64-byte line of a place. -/
def Phys.line (p : Phys) : Nat := p.addr / 64

/-- An issued matrix command (R155, R352). -/
structure MCmd where
  i : Instr
  w0 : Word32
  w1 : Word32
  /-- The format word popped at issue. -/
  fmt : Word32
  /-- The scalar operand read at issue. -/
  g : Word
  /-- The shapes of tA and tB in force at issue (R140). -/
  shA : Word
  shB : Word
  /-- Where its lines lie, as the issue translated them; none for a typed buffer (06 R161). -/
  places : List Phys
  /-- Dot-product groups already completed before a group stop (R177). -/
  groups : Nat
  /-- Issue number in the core. -/
  order : Nat
  /-- The issue number below which the cluster's forms act first (05 R144). -/
  after : Nat
  deriving DecidableEq, Repr

/-- Where a started matrix command stands (06 R156 to R159, 14 R322 to R326). -/
inductive MPhase where
  /-- All effects made; the finish is still to be signalled. -/
  | done
  /-- Arithmetic done, hallmarks not yet compared. -/
  | uncompared
  /-- The hallmarks, or a drain's conversions, differ; the assay has not started. -/
  | mismatch
  /-- The assay runs. -/
  | assay
  /-- Held in the locket. -/
  | held
  deriving DecidableEq, Repr

/-- A started matrix command with what is kept for it (01 R28, 14 R324). -/
structure MRun where
  cmd : MCmd
  phase : MPhase
  /-- The accumulator as it stood before the command, or the words a held drain took: 1,024 words. -/
  words : List Word32
  /-- The scale latch. -/
  scales : List Byte
  /-- The folds of the two engines, or of a drain's two conversions. -/
  foldP : Word
  foldS : Word
  /-- AFLAGS bits to set at the certified finish. -/
  flags : BitVec 8
  /-- SRKEY of the command's draws, and SRCTR before them. -/
  key : Word
  ctr : Word
  /-- Groups completed at a group stop, for a partial command (R328). -/
  part : Option Nat
  deriving DecidableEq, Repr

/-- One level of the loop-nest sequencer (08 R211). -/
structure SeqLevel where
  e : BitVec 32
  b : Word
  c : Vector (BitVec 16) 4
  deriving DecidableEq, Repr

/-- An issued, unfinished channel command (08 R196, R352). -/
structure ChCmd where
  i : Instr
  w0 : Word32
  w1 : Word32
  ga : Word
  gb : Word
  gc : Word
  /-- Completion slot taken at issue. -/
  slot : Fin 16
  started : Bool
  /-- Pieces, elements or emissions done. -/
  prog : Nat
  /-- The payload written so far: destination addresses and bytes, in the order written (R221). -/
  payload : List (Nat × List Byte)
  /-- The shape record and levels copied at issue (R212). -/
  shape : List Byte
  levels : Vector SeqLevel 6
  depth : BitVec 8
  /-- The stage a stage wait has named (R216). -/
  stage : Nat
  /-- First clasp of a counting multicast, resolved at issue (R210). -/
  clasp : Option (BitVec 8)
  /-- Start numbers of the tasks that a multicast's receivers run at its issue, by QPOS (R209). -/
  recv : Vector (Option Nat) 4
  /-- Chunks of source buffers read and still of use to the command: their addresses and bytes, as they stood when each was read
  (R199, 12 R301). -/
  early : List (Nat × List Byte)
  /-- QCA entries popped for the rows of the emission in hand (08 R212). -/
  rows : List Word
  /-- The sequencer run has QCA entries still to pop (R213). -/
  pops : Nat
  /-- Context slot of the issuing cluster's translation (R342). -/
  ctxSlot : Nat
  /-- PGDST of the channel at issue (05 R139, R220). -/
  pgdst : Word
  /-- Watermark range in a typed buffer of the core: buffer, first byte, length (R215). -/
  range : Option (Fin 4 × Nat × Nat)
  /-- Bytes of the range filled, from its start. -/
  filled : Nat
  /-- Issue number in the core. -/
  order : Nat
  /-- The commands unfinished at its issue whose watermarks hold back its accesses: their agents and ranges (R215, R263). -/
  behind : List (Nat × Fin 4 × Nat × Nat)
  deriving DecidableEq, Repr

/-- A piece that crosses die-to-die links, with its source fold (08 R221): the part of a unit within one aligned 4 KiB block of its
destination (R219). -/
structure Piece where
  data : List Byte
  fold : Word
  route : List (Fin 14 × Fin 2)
  deriving DecidableEq, Repr

/-- A unit of a command parts of which cross die-to-die links (08 R221). -/
structure Flight where
  /-- Destination addresses and bytes of the whole unit. -/
  writes : List (Word × List Byte)
  /-- Pieces still to arrive; the first is on its way. -/
  pieces : List Piece
  /-- Mismatches met so far by the first of them. -/
  tries : Nat
  deriving DecidableEq, Repr

/-- One copy channel (08 R196, R215, R220, R221). -/
structure Channel where
  /-- Issued, unfinished commands, oldest first. -/
  cmds : List ChCmd
  /-- Slots that hold a completion element, oldest first, and whether the command was a staged run. -/
  elems : List (Fin 16 × Option ChCmd)
  next : Fin 16
  wm : Word
  pgnow : Word
  pgnxt : Word
  /-- The context slots whose translations PGNOW and PGNXT hold (15 R363). -/
  pgnowSlot : Nat
  pgnxtSlot : Nat
  pgdst : Word
  ahm : Word
  flight : Option Flight
  /-- The channel stopped before a faulting piece (R219). -/
  faulted : Bool
  deriving DecidableEq, Repr

/-- A level at task start (R211). -/
def SeqLevel.reset : SeqLevel := { e := 1, b := 0, c := Vector.replicate 4 0 }

/-- An idle channel (R33, R215, R220, R221). -/
def Channel.reset : Channel :=
  { cmds := [], elems := [], next := 0, wm := 0, pgnow := 0, pgnxt := 0, pgnowSlot := 0, pgnxtSlot := 0, pgdst := 0x1000,
    ahm := 0xFFFF_FFFF_FFFF_FFFF#64, flight := none, faulted := false }

/-- The four counts of a strand (09 R226). -/
structure Strand where
  claimed : BitVec 32
  filled : BitVec 32
  taken : BitVec 32
  freed : BitVec 32
  deriving DecidableEq, Repr

/-- A multicast write on its way to a receiver of the quad (08 R209, R210). -/
structure McWrite where
  receiver : Fin 768
  /-- Start number of the receiver's task at the command's issue (R209). -/
  start : Nat
  off : Nat
  data : List Byte
  clasp : Option (BitVec 8)
  /-- The agent of the command's writes to the receiver, for the overlap checker. -/
  agent : Option Nat
  /-- Bytes of the command that landed there before these. -/
  done : Nat
  /-- The issue number of the command. -/
  order : Nat
  deriving DecidableEq, Repr

/-- A line of the L1 (11 R271 to R273), with the bytes of it that may serve a load: a line of a non-coherent page is filled with
the bytes its die cache vouches for (R283). -/
structure L1Line where
  /-- Physical line. -/
  line : Nat
  /-- Context slot, tensor and page through which it was filled. -/
  slot : Nat
  tid : Nat
  page : Nat
  ro : Bool
  valid : Word
  data : Line
  deriving DecidableEq, Repr

/-- What the overlap checker holds of a granule access (10 R263). -/
structure Access where
  /-- Buffer 0 W, 1 A, 2 C, 3 scale. -/
  buf : Nat
  granule : Nat
  write : Bool
  /-- The agent: 2^32 times the task's start number, plus the cluster code, or plus 4 and the issue number of a channel
  command; a multicast's writes to the receiver at QPOS q add 2^30 times q + 1. -/
  agent : Nat
  time : Nat
  /-- The channel commands whose watermarks the access still waits for (R215). -/
  behind : List Nat
  /-- The mark of the matrix command that makes the access: what that command's tokens carry (12 R293, R297). -/
  cmd : Option Nat
  deriving DecidableEq, Repr

/-- A vector clock: the times of other agents that are ordered before (10 R263). -/
abbrev Clock := List (Nat × Nat)

/-- The overlap checker of a core: the clock of each of its agents, the clocks carried by what orders them, oldest
first, the accesses made to the core's buffers, and the commands whose watermarks a cluster's bundle stalled on, by the
cluster's agent (10 R263, 08 R215). -/
structure Checker where
  clocks : List (Nat × Clock)
  carried : List (Nat × List Clock)
  accesses : List Access
  stalls : List (Nat × Nat)
  deriving DecidableEq, Repr

/-- The task resident on a core: what the launch record fixes for it (10 R245, 01 R13, R21, R36). -/
structure Task where
  lid : BitVec 16
  ordinal : Nat
  ctx : BitVec 12
  /-- Context slot (15 R358). -/
  slot : Nat
  queue : Fin 32
  /-- DET, GANG, CORES, GSTOP in bits 0 to 3 (R36). -/
  flags : BitVec 4
  footW : Nat
  footA : Nat
  footC : Nat
  footS : Nat
  strands : Vector Word 16
  /-- Order of the task's first start (R257). -/
  start : Nat
  deriving DecidableEq, Repr

/-- An exit sequence in progress (09 R241). -/
structure ExitSeq where
  live : BitVec 3
  canc : Nat
  impl : Bool
  deriving DecidableEq, Repr

/-- A termination in progress (15 R350). -/
structure TermRec where
  cause : Word
  /-- Cause 0x20: the locket writes nothing (R327). -/
  corrupt : Bool
  /-- LCTL kill: the launch is KILLED, not FAILED. -/
  killed : Bool
  deriving DecidableEq, Repr

/-- A save requested or in progress (15 R351). -/
structure SaveReq where
  reason : Nat
  tick : Nat
  deriving DecidableEq, Repr

/-- The last events of a counted source (14 R331). -/
structure History where
  ticks : List Nat
  total : Nat
  inwin : Nat
  lasting : Bool
  deriving DecidableEq, Repr

/-- The vector, matrix and buffer storage of a core (01 R14 to R24). -/
structure Storage where
  v : Vector Line 32
  m : Vector Word 8
  tiles : Vector Memory 16
  tsh : Vector Word 16
  bufW : Memory
  bufA : Memory
  bufC : Memory
  bufS : Memory
  /-- Poisoned words of the typed buffers: buffer and word number (11 R270). -/
  bad : List (Nat × Nat)
  qav : List Line
  qam : List Line
  qva : List Line
  qac : List Word
  qca : List Word
  /-- Token counts: queue from cluster i to cluster j at 4i + j (R25). -/
  tok : Vector Nat 16
  /-- Room reserved by issued forms (R25). -/
  room : Vector Nat 16
  fq : List Word32
  /-- Hallmark pairs, primary then shadow (R27). -/
  hall : Vector (Word × Word) 48
  stampb : Word
  /-- STAMPC: LATE and LCOUNT (R31). -/
  stampc : Word
  strands : Vector Strand 16
  deriving DecidableEq, Repr

/-- The engines of a core and what they hold in flight. -/
structure Engines where
  forms : List Form
  mq : List MCmd
  mrun : List MRun
  /-- The command a group stop has stopped (R177). -/
  mstop : Option MRun
  /-- The command held for emulation (15 R349). -/
  emul : Option MCmd
  /-- The held command has been finished by an EMUDONE write, and its bundle has not issued yet. -/
  emulDone : Bool
  /-- The tile locks that a store through the window has set while the matrix engine is stopped (01 R28, 15 R342, R354). -/
  lockPut : Option (BitVec 16)
  /-- Issue numbers of the commands and drains whose results differ, in the order of their mismatches (14 R325). -/
  assays : List Nat
  chans : Vector Channel 8
  recs : Vector (List Byte) 16
  levels : Vector SeqLevel 6
  depth : BitVec 8
  seqstat : Word
  /-- Issue number of the run that `seqstat` reports. -/
  seqOrder : Nat
  mc : List McWrite
  l1 : List L1Line
  check : Checker
  /-- Long forms issued so far. -/
  issued : Nat
  deriving DecidableEq, Repr

/-- The registers of a core. -/
structure CoreRegs where
  aflags : Word
  dpstat : Word
  ecpri : History
  ecshd : History
  ecxfr : History
  ewpri : Word
  ewshd : Word
  ewxfr : Word
  pmsel : Vector Word 8
  pmc : Vector Word 8
  pwrlvl : BitVec 8
  /-- Clusters whose PWRACQ has been granted and has not issued yet, and whether in a handler (17 R395). -/
  pwrGot : List (Clu × Bool)
  /-- Charges of the last 256 ticks: (tick, charge) (17 R396). -/
  charges : List (Nat × Nat)
  deriving DecidableEq, Repr

/-- One core (01 R9). -/
structure Core where
  task : Option Task
  cl : Vector Cluster 4
  st : Storage
  en : Engines
  rg : CoreRegs
  exit : Option ExitSeq
  term : Option TermRec
  save : Option SaveReq
  /-- Boundary and delivered-to-C traps waiting for a bundle boundary, with the cluster each goes to. -/
  pend : List (Clu × Trap)
  /-- A restore has placed the task and it has not begun issue (15 R355). -/
  restoring : Bool
  deriving DecidableEq, Repr

/-- EWPRI, EWSHD, EWXFR and EWMEM at reset: THR 3, WIN 2^20 (R333). -/
def windowReset : Word := 0x0000_0003_0010_0000#64

def History.reset : History := { ticks := [], total := 0, inwin := 0, lasting := false }

def Storage.reset : Storage :=
  { v := Vector.replicate 32 0, m := Vector.replicate 8 0, tiles := Vector.replicate 16 Memory.empty,
    tsh := Vector.replicate 16 0, bufW := Memory.empty, bufA := Memory.empty, bufC := Memory.empty, bufS := Memory.empty, bad := [],
    qav := [], qam := [], qva := [], qac := [], qca := [], tok := Vector.replicate 16 0, room := Vector.replicate 16 0,
    fq := [], hall := Vector.replicate 48 (0xFFFF_FFFF_FFFF_FFFF#64, 0xFFFF_FFFF_FFFF_FFFF#64), stampb := 0, stampc := 0,
    strands := Vector.replicate 16 { claimed := 0, filled := 0, taken := 0, freed := 0 } }

def Checker.reset : Checker := { clocks := [], carried := [], accesses := [], stalls := [] }

def Engines.reset : Engines :=
  { forms := [], mq := [], mrun := [], mstop := none, emul := none, emulDone := false, lockPut := none, assays := [], chans := Vector.replicate 8 Channel.reset,
    recs := Vector.replicate 16 [], levels := Vector.replicate 6 SeqLevel.reset, depth := 0, seqstat := 0, seqOrder := 0, mc := [],
    l1 := [], check := Checker.reset, issued := 0 }

def CoreRegs.reset : CoreRegs :=
  { aflags := 0, dpstat := 0, ecpri := History.reset, ecshd := History.reset, ecxfr := History.reset,
    ewpri := windowReset, ewshd := windowReset, ewxfr := windowReset,
    pmsel := Vector.replicate 8 0, pmc := Vector.replicate 8 0, pwrlvl := 0, pwrGot := [], charges := [] }

/-- A core without a task. -/
def Core.reset : Core :=
  { task := none, cl := Vector.replicate 4 Cluster.reset, st := Storage.reset, en := Engines.reset,
    rg := CoreRegs.reset, exit := none, term := none, save := none, pend := [], restoring := false }

/-! The device. -/

/-- One clasp (09 R228). -/
structure Clasp where
  count : BitVec 32
  expect : BitVec 32
  deriving DecidableEq, Repr

/-- A quad: its 256 clasps (09 R228) and the launch that holds it (R37, R255). -/
structure Quad where
  clasps : Vector Clasp 256
  /-- Clocks of the arrivals at each clasp, for the overlap checker. -/
  carried : List (Nat × List (Nat × Nat))
  lid : Option (BitVec 16)
  /-- QPOS positions that stay empty until the gang's last task retires (R254). -/
  gang : Bool
  deriving DecidableEq, Repr

/-- The states of a coherent line in a die cache (11 R279); I is no line. -/
inductive Mesi where
  | s | e | m
  deriving DecidableEq, Repr

/-- A line of a die cache (11 R277, R279, R283). -/
structure DieLine where
  die : Fin 8
  line : Nat
  /-- The state of a coherent line; none for a line of a non-coherent page. -/
  coh : Option Mesi
  /-- Key slot of the page, for the write home. -/
  key : Nat
  home : Fin 8
  /-- Context slot, tensor and page through which it was filled. -/
  tag : Nat × Nat × Nat
  /-- Physical address of the page's entry. -/
  pte : Nat
  valid : Word
  dirty : Word
  data : Line
  /-- The content came from a line whose content is lost (R284). -/
  bad : Bool
  deriving DecidableEq, Repr

/-- What the home directory records of a line; I is no entry (11 R278). -/
inductive DirState where
  | shared (mask : BitVec 8)
  | owned (die : Fin 8)
  deriving DecidableEq, Repr

/-- A directory entry (11 R278), with the die that holds the directory. -/
structure DirEntry where
  line : Nat
  home : Fin 8
  st : DirState
  deriving DecidableEq, Repr

/-- The requests a die sends to a home (11 R279). -/
inductive DirReq where
  | rds | rdx | upg
  deriving DecidableEq, Repr

/-- A directory transaction in progress on a line (11 R280): who asked, and whose acknowledgements are to come. -/
structure DirTrans where
  place : Phys
  req : DirReq
  die : Fin 8
  /-- The traffic class of the request, and of what it causes (R287). -/
  cls : BitVec 2
  /-- Dies an Inv or a Recall has still to reach. -/
  toSend : BitVec 8
  /-- Dies whose acknowledgement the home has still to receive, with the line an owner returns. -/
  toAck : BitVec 8
  back : Option DieLine
  deriving DecidableEq, Repr

/-- The line of a transaction. -/
def DirTrans.line (t : DirTrans) : Nat := t.place.line

/-- A used entry of a region table (13 R308). -/
structure Region where
  base : Word
  size : Nat
  roff : Nat
  type : Nat
  sched : Fin 8
  deriving DecidableEq, Repr

/-- The loaded region table of a context (13 R308). -/
structure RegionTable where
  ctx : BitVec 12
  dbase : Vector Nat 8
  key : Nat
  lmsize : Nat
  regions : List Region
  deriving DecidableEq, Repr

/-- A message that crosses die-to-die links: a copy piece on its way to a channel, or an exchanged unit. -/
inductive Msg where
  | piece (core : Fin 768) (ch : Fin 8)
  /-- A unit of exchange, with the clocks of the joins its cells have absorbed, by storage offset (09 R233). -/
  | exchange (ctx : BitVec 12) (die : Fin 8) (off : Nat) (data : List Byte) (clocks : List (Nat × Clock))
  deriving DecidableEq, Repr

/-- A flit with its sequence number, class and the links it has still to cross after this one (16 R374, R369). -/
structure Flit where
  seq : Nat
  msg : Msg
  cls : BitVec 2
  route : List (Fin 14 × Fin 2)
  deriving DecidableEq, Repr

/-- One direction of a link (16 R374). -/
structure LinkDir where
  /-- Flits not yet sent. -/
  waiting : List (Msg × BitVec 2 × List (Fin 14 × Fin 2))
  nextSeq : Nat
  /-- The replay buffer: sent flits not yet acknowledged, oldest first. -/
  replay : List Flit
  /-- Flits on the wire, oldest first. -/
  wire : List Flit
  /-- The sequence number the receiver accepts next. -/
  expect : Nat
  /-- The receiver has asked for a resend from `expect`, which has not yet been sent. -/
  bad : Bool
  /-- Accepted sequence numbers not yet acknowledged to the transmitter. -/
  acks : Nat
  retired : BitVec 32
  /-- The class among 1 to 3 served last (R375); none yet at reset, which puts class 1 first (DESIGN CHOICE, notes/assumptions/112.md). -/
  turn : BitVec 2
  deriving DecidableEq, Repr

/-- A link (16 R370 to R377); its LKCTL and LKWIN stand in the device registers. -/
structure Link where
  rate : Nat
  stop : Bool
  /-- The stop is one for a rate change. -/
  rateStop : Bool
  /-- Writes made during a stop, oldest first. -/
  pending : List Word
  crcerr : Nat
  replays : Nat
  hist : History
  dirs : Vector LinkDir 2
  deriving DecidableEq, Repr

/-- The state of a launch (10 R247 to R256). -/
inductive LaunchState where
  | queued
  | running
  /-- Every ordinal has settled or is cancelled with this outcome code. -/
  | ending (code : Nat)
  deriving DecidableEq, Repr

/-- An accepted launch (10 R245). -/
structure Launch where
  lid : BitVec 16
  ctx : BitVec 12
  queue : Fin 32
  entries : Vector Word 4
  status : Word
  seed : Word
  lgtmo : Word
  cltmo : Word
  footW : Nat
  footA : Nat
  footC : Nat
  footS : Nat
  /-- DET, GANG, CORES, GSTOP, STMODE in bits 0 to 4. -/
  flags : BitVec 5
  preds : List (BitVec 16)
  strands : Vector Word 16
  /-- Levels outermost first: kind and extent. -/
  levels : List (Nat × Nat)
  state : LaunchState
  /-- Lowest ordinal not yet placed. -/
  next : Nat
  retired : Nat
  terminated : Nat
  orstat : Word
  first : Option Nat
  fcause : Word
  dropped : Nat
  /-- Times the head has been passed (R251). -/
  passed : Nat
  deriving DecidableEq, Repr

/-- A saved task (15 R351 to R357): its save slot and the device's record of it. -/
structure Saved where
  slotN : Nat
  core : Core
  lid : BitVec 16
  queue : Fin 32
  reason : Nat
  /-- The task awaits a core; false under the save disposition until TRESUME. -/
  ready : Bool
  /-- The task was saved under the save disposition (R357). -/
  byDisposition : Bool
  /-- A core has been given to it, and its state is being written back. -/
  placed : Bool
  /-- Core of the save. -/
  from_ : Fin 768
  /-- The clasps of a saved gang, in the record of QPOS 0. -/
  clasps : Option (Vector Clasp 256)
  /-- The clocks of the arrivals at those clasps, for the overlap checker. -/
  carried : List (Nat × Clock)
  passed : Nat
  deriving DecidableEq, Repr

/-- A slot of the key store (16 R391): 0 empty, 1 valid, 2 invalidated. -/
structure KeySlot where
  state : BitVec 2
  key : BitVec 512
  /-- The free value that says which translations were cached when the slot stopped being valid, and the scopes of the shootdowns
  since: context slot, scope, tensor, page, pages (R365). -/
  mark : Option Nat := none
  shot : List (Nat × Nat × Nat × Nat × Nat) := []
  deriving DecidableEq, Repr

/-- An island (17 R392, 16 R380 to R382). -/
structure Island where
  state : BitVec 3
  thr : BitVec 5
  stop : Bool
  margin : BitVec 3
  warn : Bool
  stretch : Nat
  deriving DecidableEq, Repr

/-- A request for a power level (R395): of a `PWRACQ` of a cluster, in its handler or not, or of a restore. -/
structure PowerReq where
  core : Fin 768
  by_ : Option (Clu × Bool)
  level : BitVec 8
  deriving DecidableEq, Repr

/-- A die's governor, location table and memory-error window (17 R394 to R398, 14 R335). -/
structure Die where
  /-- Requests that wait for a grant, in order of arrival. -/
  waiting : List PowerReq
  power : BitVec 16
  /-- The tick at which the ballast that runs began (R398). -/
  ballast : Option Nat
  /-- Valid CELOC entries by number: unit, location, history. -/
  celoc : List (Nat × (BitVec 2 × BitVec 56 × History))
  ewmem : Word
  deriving DecidableEq, Repr

/-- A CXL port (16 R390). -/
structure CxlPort where
  up : Bool
  err : Bool
  lost : Bool
  frames : BitVec 40
  deriving DecidableEq, Repr

/-- The memories and what caches and protects them. -/
structure MemSys where
  /-- HBM and the second tier: byte at tier * 2^50 + frame * 65536 + offset. -/
  main : Memory
  host : Memory
  /-- Memory of the peer chips: identifier * 2^48 + offset. -/
  peer : Memory
  /-- The key each written line was encrypted under; unlisted lines read as written under any key. -/
  lineKeys : List (Nat × BitVec 512)
  dieLines : List DieLine
  /-- Directory entries, most recent transaction first. -/
  dir : List DirEntry
  trans : List DirTrans
  /-- Requests that a home holds, in order of arrival (11 R280). -/
  reqs : List DirTrans
  /-- Lines whose content is lost (11 R284, 16 R391). -/
  poison : List Nat
  keys : List (Nat × KeySlot)
  /-- Ways disabled after a lasting error: die, slice or 63 for the die cache, set, way (14 R336). -/
  waysOff : List (Nat × Nat × Nat × Nat)
  /-- Pages a write-back has revived, by tag, whose shootdown the step makes as it ends (15 R362). -/
  shots : List (Nat × Nat × Nat)
  /-- Physical addresses of the OUTCOME words written (10 R265). -/
  outcomes : List Nat
  deriving DecidableEq, Repr

/-- The lattice side: tables, dirty units, exchange positions, units that have reached their die (13). -/
structure Lattice where
  tables : List RegionTable
  /-- Dirty units: context, die, storage offset. -/
  dirty : List (Nat × Nat × Nat)
  /-- The last unit sent, by schedule and die: context and offset. -/
  pos : List (Nat × Nat × Nat × Nat)
  arrived : List Msg
  /-- The last exchange instant that each schedule has served (13 R316). -/
  served : Vector (Option Nat) 8
  /-- The schedules in force: a change of an enabled one waits for its next instant (13 R315). -/
  inForce : Vector Word 8
  /-- The releases of the joins a cell has absorbed, for the overlap checker: context, die, storage offset (09 R233). -/
  clocks : List ((Nat × Nat × Nat) × Clock)
  statDetail : BitVec 4
  statEntry : BitVec 8
  deriving DecidableEq, Repr

/-- The launch unit, the walker and the save pool (10, 15). -/
structure Sched where
  launches : List Launch
  /-- Completed launches with their contexts and outcome words, newest first, at most 1,024. -/
  history : List (BitVec 16 × BitVec 12 × Word)
  saved : List Saved
  /-- The next queue to serve in each class (R251). -/
  pointer : Vector Nat 4
  /-- Tasks started so far. -/
  starts : Nat
  deriving DecidableEq, Repr

/-- What the outside was answered: a completion with the bytes read, or an error completion (R387). -/
structure Completion where
  ok : Bool
  data : List Byte
  deriving DecidableEq, Repr

/-- The outside attachments and bring-up (16, 17). -/
structure Platform where
  links : Vector Link 14
  islands : Vector Island 76
  dies : Vector Die 8
  cxl : Vector CxlPort 8
  /-- UALink ports that are lost. -/
  ualLost : BitVec 16
  /-- Fenced cores with the tick of the fence (14 R337). -/
  fenced : List (Nat × Nat)
  /-- Fenced cores whose task has not left them yet: the host is notified when it has (14 R337). -/
  fenceDue : List Nat
  iftBusy : Bool
  iftPass : Bool
  iftCore : BitVec 10
  /-- Start tick of the last test. -/
  iftTick : Nat
  /-- Notices written (EVQH) and dropped (EVCTL.LOST). -/
  evHead : Word
  evLost : BitVec 16
  /-- Interrupt messages sent to the host. -/
  interrupts : Nat
  /-- RESULT 0 to 31. -/
  results : Vector Word 32
  /-- HQLID, KSSLOT and KSDATA of the launch page (R388). -/
  hqlid : BitVec 16
  ksslot : BitVec 10
  ksdata : BitVec 512
  /-- The last completions sent to the host and to a peer (R386, R387, R389). -/
  hostDone : Option Completion
  peerDone : Option Completion
  /-- Microjoules charged to each context slot's context, and to the platform account (17 R399). -/
  enCtx : Vector Word 64
  enPlat : Word
  /-- BOOTADDR and BOOTLEN (17 R400). -/
  bootAddr : Word
  bootLen : Word
  bootPhase : BitVec 3
  bootErr : BitVec 4
  bootLid : Option (BitVec 16)
  deriving DecidableEq, Repr

/-! The model's own control state; notes/assumptions/1.md and 9.md. -/

/-- One turn of the device: whose step comes next, and the cadence ticks that pass before it. -/
inductive Turn where
  /-- A cluster issues its next bundle. -/
  | bundle (core : Fin 768) (clu : Clu) (dt : Nat)
  /-- An event row of the opcode table happens. -/
  | event (i : Instr) (dt : Nat)
  /-- The host writes a byte of its own memory. -/
  | hostByte (addr : Nat) (b : Byte) (dt : Nat)
  /-- A peer chip's memory changes. -/
  | peerByte (addr : Nat) (b : Byte) (dt : Nat)
  /-- A parity error is detected on a register file of a cluster (14 R340). -/
  | parity (core : Fin 768) (clu : Clu) (dt : Nat)
  deriving DecidableEq, Repr

/-- What the last step came to. -/
inductive Report where
  | issued | branched | stalled | trapped | idle
  deriving DecidableEq, Repr

/-- The cluster whose instruction executes. -/
structure Cur where
  core : Fin 768
  clu : Clu
  deriving DecidableEq, Repr

/-- The bundle being issued: its address, the position after it, and the words of the instruction in hand. -/
structure Ir where
  bpc : Word
  npc : Word
  w0 : Word32
  w1 : Word32
  /-- What falls on the two engines where the instruction starts a command at once (14 R322). -/
  upsetP : Upset
  upsetS : Upset
  deriving DecidableEq, Repr

/-- The device. -/
structure State where
  /-- The cadence counter (R30). -/
  cadence : Word
  cores : Vector Core 768
  quads : Vector Quad 192
  ms : MemSys
  lat : Lattice
  sch : Sched
  plat : Platform
  /-- Device registers by number that differ from their reset value. -/
  regs : List (Nat × Word)
  agenda : List Turn
  cur : Cur
  /-- The core of `cur` as it stood before the bundle being issued (R12). -/
  latch : Option Core
  ir : Ir
  report : Report
  /-- Free values drawn so far. -/
  free : Nat
  deriving DecidableEq, Repr

/-- Why the device stops: it never does. No instruction and no event ends in a fault of the model, so that the type has no
constructor. -/
inductive Fault where
  deriving DecidableEq, Repr

/-- Why an instruction has no meaning in the model. -/
inductive Refusal where
  /-- Raised by a dispatch arm whose instruction has no meaning yet. Safe: no next state is claimed. -/
  | notModelled (mnemonic : String)
  deriving DecidableEq, Repr

/-- The outcome of a step. -/
abbrev Out := Host.Outcome State Fault Refusal

/-- The reset value of a device register (R344, R348, R358, R364, R370, R377, R382, R394). -/
def devReset (n : Nat) : Word :=
  if n = 0x818 then 0x0200_0000
  else if n = 0x821 then 0x0100_0000
  else if 0x900 ≤ n ∧ n ≤ 0x97F then (if n % 4 = 0 then 0 else 0xFFFF_FFFF_FFFF_FFFF)
  else if n = 0xC00 then 0x8000_0000_0000_0000
  else if n = 0xC41 then 1
  else if 0xD00 ≤ n ∧ n ≤ 0xD6F ∧ n % 8 = 4 then 0x04BA_0252
  else if 0xD00 ≤ n ∧ n ≤ 0xD6F ∧ n % 8 = 5 then windowReset
  else if n = 0xECF then 2
  else if 0xF50 ≤ n ∧ n ≤ 0xF57 then 0x01E0_5FA0_4000_00C8
  else 0

def LinkDir.reset : LinkDir :=
  { waiting := [], nextSeq := 0, replay := [], wire := [], expect := 0, bad := false, acks := 0, retired := 0, turn := 0 }

def Link.reset : Link :=
  { rate := 0, stop := false, rateStop := false, pending := [], crcerr := 0, replays := 0, hist := History.reset,
    dirs := Vector.replicate 2 LinkDir.reset }

def Island.reset : Island := { state := 0, thr := 0, stop := false, margin := 7, warn := false, stretch := 0 }

def Die.reset : Die := { waiting := [], power := 0, ballast := none, celoc := [], ewmem := windowReset }

def MemSys.reset : MemSys :=
  { main := Memory.empty, host := Memory.empty, peer := Memory.empty, lineKeys := [], dieLines := [], dir := [],
    trans := [], reqs := [], poison := [], keys := [], waysOff := [], shots := [], outcomes := [] }

def Lattice.reset : Lattice := { tables := [], dirty := [], pos := [], arrived := [], served := Vector.replicate 8 none, inForce := Vector.replicate 8 0, clocks := [], statDetail := 0, statEntry := 0 }

/-- The launch unit at reset: each class serves its lowest queue first, for R251 says nothing of where its pointer starts (DESIGN CHOICE,
notes/assumptions/112.md). -/
def Sched.reset : Sched := { launches := [], history := [], saved := [], pointer := Vector.replicate 4 0, starts := 0 }

def Platform.reset : Platform :=
  { links := Vector.replicate 14 Link.reset, islands := Vector.replicate 76 Island.reset,
    dies := Vector.replicate 8 Die.reset,
    cxl := Vector.replicate 8 { up := false, err := false, lost := false, frames := 0 }, ualLost := 0, fenced := [], fenceDue := [],
    iftBusy := false, iftPass := false, iftCore := 0, iftTick := 0, evHead := 0, evLost := 0, interrupts := 0,
    results := Vector.replicate 32 0, hqlid := 0, ksslot := 0, ksdata := 0, hostDone := none, peerDone := none,
    enCtx := Vector.replicate 64 0, enPlat := 0, bootAddr := 0, bootLen := 0, bootPhase := 0, bootErr := 0, bootLid := none }

def Quad.reset : Quad := { clasps := Vector.replicate 256 { count := 0, expect := 0 }, carried := [], lid := none, gang := false }

/-- The device right after reset (17 R400): every register at its reset value, no launch, no task. -/
def State.reset : State :=
  { cadence := 0, cores := Vector.replicate 768 Core.reset, quads := Vector.replicate 192 Quad.reset,
    ms := MemSys.reset, lat := Lattice.reset, sch := Sched.reset, plat := Platform.reset, regs := [], agenda := [],
    cur := { core := 0, clu := .c }, latch := none, ir := { bpc := 0, npc := 0, w0 := 0, w1 := 0, upsetP := [], upsetS := [] }, report := .idle,
    free := 0 }

end Sys2Proof.Machine
end

