-- ==== Sys2Proof/Machine/Ops.lean ====
section
/-! DEFINITION. Named operations over registers, and taking a trap. An instruction reads registers as they stood before
its bundle (R12) and writes them in the core as it stands. -/

namespace Sys2Proof.Machine

/-- The cluster code of R35. -/
def cluCode : Clu → Fin 4
  | .c => 0 | .a => 1 | .v => 2 | .m => 3

/-- The cluster of a code. -/
def cluOf (n : Nat) : Clu :=
  if n % 4 = 0 then .c else if n % 4 = 1 then .a else if n % 4 = 2 then .v else .m

/-- Bits lo up to lo + n - 1 of a word, as a natural number. -/
def bits {w : Nat} (x : BitVec w) (lo n : Nat) : Nat := x.toNat / 2 ^ lo % 2 ^ n

/-- Bit i of a word. -/
def bit {w : Nat} (x : BitVec w) (i : Nat) : Bool := x.getLsbD i

/-- The low w bits of x, sign-extended to 64 (05). -/
def sext {w : Nat} (x : BitVec w) : Word := x.signExtend 64

/-- The low w bits of x, zero-extended to 64 (05). -/
def zext {w : Nat} (x : BitVec w) : Word := x.setWidth 64

/-- A register file with every entry changed. -/
def vmap {α β : Type} {n : Nat} (f : α → β) (v : Vector α n) : Vector β n :=
  ⟨(v.toList.map f).toArray, by simp⟩

/-! Cores and clusters. -/

/-- A core. -/
def State.core (s : State) (k : Fin 768) : Core := vget s.cores k

/-- The state with one core replaced. -/
def State.setCore (s : State) (k : Fin 768) (c : Core) : State := { s with cores := vset s.cores k c }

/-- The state with one core changed. -/
def State.onCore (s : State) (k : Fin 768) (f : Core → Core) : State := s.setCore k (f (s.core k))

/-- The executing core as it stands. -/
def State.me (s : State) : Core := s.core s.cur.core

/-- The state with the executing core changed. -/
def State.onMe (s : State) (f : Core → Core) : State := s.onCore s.cur.core f

/-- A cluster of a core. -/
def Core.clu (k : Core) (c : Clu) : Cluster := vget k.cl (cluCode c)

/-- The core with one cluster changed. -/
def Core.onClu (k : Core) (c : Clu) (f : Cluster → Cluster) : Core :=
  { k with cl := vset k.cl (cluCode c) (f (k.clu c)) }

/-- The executing cluster as it stands. -/
def State.cl (s : State) : Cluster := s.me.clu s.cur.clu

/-- The state with the executing cluster changed. -/
def State.onCl (s : State) (f : Cluster → Cluster) : State := s.onMe fun k => k.onClu s.cur.clu f

/-- The executing core as it stood before the bundle (R12). -/
def State.old (s : State) : Core :=
  match s.latch with
  | some k => k
  | none => s.me

/-- The state with the storage of the executing core changed. -/
def State.onSt (s : State) (f : Storage → Storage) : State := s.onMe fun k => { k with st := f k.st }

/-- The state with the engines of the executing core changed. -/
def State.onEn (s : State) (f : Engines → Engines) : State := s.onMe fun k => { k with en := f k.en }

/-- The state with the registers of the executing core changed. -/
def State.onRg (s : State) (f : CoreRegs → CoreRegs) : State := s.onMe fun k => { k with rg := f k.rg }

/-! Registers (R10, R11, R14, R15). -/

/-- General register r of the executing cluster; g0 reads zero (R10). -/
def State.g (s : State) (r : Reg) : Word := if r = 0 then 0 else vget (s.old.clu s.cur.clu).g r

/-- A write to a general register; g0 discards it (R10). -/
def State.setG (s : State) (r : Reg) (x : Word) : State :=
  if r = 0 then s else s.onCl fun c => { c with g := vset c.g r x }

/-- Predicate p of the executing cluster; p0 reads true (R11). -/
def State.p (s : State) (p : Pred) : Bool := if p = 0 then true else vget (s.old.clu s.cur.clu).p p

/-- A write to a predicate; p0 discards it (R11). -/
def State.setP (s : State) (p : Pred) (x : Bool) : State :=
  if p = 0 then s else s.onCl fun c => { c with p := vset c.p p x }

/-- Mask m; m0 reads all ones (R15). -/
def State.mask (s : State) (m : MReg) : Word := if m = 0 then 0xFFFF_FFFF_FFFF_FFFF else vget s.old.st.m m

/-- A write to a mask; m0 discards it (R15). -/
def State.setMask (s : State) (m : MReg) (x : Word) : State :=
  if m = 0 then s else s.onSt fun t => { t with m := vset t.m m x }

/-- Vector register v. -/
def State.v (s : State) (v : VReg) : Line := vget s.old.st.v v

/-- A write to a vector register. -/
def State.setV (s : State) (v : VReg) (x : Line) : State := s.onSt fun t => { t with v := vset t.v v x }

/-- Sets bits of AFLAGS (R113). -/
def State.orAflags (s : State) (f : BitVec 8) : State :=
  s.onRg fun r => { r with aflags := r.aflags ||| zext f }

/-- The next free value, and the state that has drawn it. -/
def State.draw (s : State) : Word × State := (Config.freeWord s.free, { s with free := s.free + 1 })

/-! Device registers (R367). -/

/-- The stored value of a device register. -/
def State.dev (s : State) (n : Nat) : Word := lookup devReset s.regs n

/-- A device register written. -/
def State.setDev (s : State) (n : Nat) (x : Word) : State := { s with regs := insert devReset s.regs n x }

/-! Performance counts (10 R267). -/

/-- Every counter of the core that counts the event for the cluster advances by n, while a task runs (R267). -/
def Core.count (k : Core) (event : Nat) (x : Clu) (n : Nat) : Core :=
  match k.task with
  | none => k
  | some _ =>
    let hit (sel : Word) : Bool := decide (bits sel 0 8 = event) && (decide (bits sel 8 4 = 0) || bit sel (8 + (cluCode x).val))
    if k.rg.pmsel.toList.any hit then
      { k with rg := { k.rg with pmc := Vector.zipWith (fun sel c => if hit sel then c + BitVec.ofNat 64 n else c) k.rg.pmsel k.rg.pmc } }
    else k

/-! Stalling and taking traps. -/

/-- The executing core as the bundle found it, whatever the bundle has done to it. -/
def State.undo (s : State) : State :=
  match s.latch with
  | some k => s.setCore s.cur.core k
  | none => s

/-- The bundle waits: it has not issued and has no effect (R25, R45). -/
def State.stall (s : State) : Out := .next { s.undo with report := .stalled }

/-- The cause word of R346. -/
def causeWord (t : Trap) : Word :=
  BitVec.ofNat 64 ((cluCode t.clu).val * 2 ^ 28 + t.detail % 16 * 2 ^ 24 + (if t.async then 2 ^ 15 else 0) + t.cause % 256)

/-- The dispositions of R343 and R344. -/
inductive Disposition where
  | terminate | handler | save
  deriving DecidableEq, Repr

/-- The disposition of a cause: fixed by R343, else its field of TDISP0 or TDISP1 (R344). -/
def State.disposition (s : State) (cause : Nat) : Disposition :=
  if cause = 0x18 ∨ cause = 0x1D ∨ cause = 0x20 ∨ cause = 0x21 ∨ cause = 0x22 then .terminate
  else if cause = 0x1C then .handler
  else
    match bits (s.dev (if cause < 32 then 0x818 else 0x819)) (2 * (cause % 32)) 2 with
    | 1 => .handler
    | 2 => .save
    | _ => .terminate

/-- The passed `CLWAIT` that a trap at a bundle leaves behind it: the cluster's present one, else one kept before (R230). -/
def Cluster.keptWait (c : Cluster) (pc : Word) : Option (Word × Fin 256) :=
  match c.claspWait with
  | some (i, true) => some (pc, i)
  | _ => c.claspKept

/-- The trap registers of a cluster as a trap leaves them (R346). -/
def Cluster.record (c : Cluster) (t : Trap) (tpc : Word) : Cluster :=
  { c with tcause := causeWord t, taddr := t.addr, tinfo := t.info, tpc := tpc, tpcReg := c.pcReg, waitSince := none, claspWait := none,
           claspKept := c.keptWait tpc, atSync := false, pcBad := false }

/-- Entry into the handler (R345): saved registers written, privileged level, INH set, pc at the vector line. -/
def Cluster.enter (c : Cluster) (t : Trap) (tpc : Word) (slot : Nat) : Cluster :=
  { c.record t tpc with
    tstat := BitVec.ofNat 64 (slot % 64 * 2 ^ 8 + c.ended.toNat * 2 + c.priv.toNat)
    priv := true, inh := true, ended := false, halted := false, idle := false
    pc := (c.tvec &&& ~~~63) + BitVec.ofNat 64 (64 * t.cause + 4), pcReg := false, lineRoom := maxLines }

/-- Starts the termination of a core's task (R350); the first cause stands. -/
def Core.terminate (k : Core) (cause : Word) (corrupt killed : Bool) : Core :=
  match k.term with
  | some _ => k
  | none => { k with term := some { cause := cause, corrupt := corrupt, killed := killed } }

/-- Requests a save of a core's task (R351); a second request joins the first (R356). -/
def Core.requestSave (k : Core) (reason tick : Nat) : Core :=
  match k.save, k.task with
  | none, some _ => { k with save := some { reason := reason, tick := tick } }
  | _, _ => k

/-- A save requested of a core's task for a reason, and with it, for reason 5, of every other task that runs of its gang or of its
CORES launch (R351). -/
def State.requestSave (s : State) (k : Fin 768) (reason : Nat) : State :=
  let u := s.onCore k fun c => c.requestSave reason s.cadence.toNat
  match (s.core k).task with
  | none => u
  | some t =>
    let member (i : Fin 768) (c : Core) : Bool :=
      (bit t.flags 2 || (bit t.flags 1 && decide (i.val / 4 = k.val / 4))) && c.term.isNone &&
        match c.task with
        | some x => x.lid == t.lid
        | none => false
    if bit t.flags 1 || bit t.flags 2 then
      { u with cores := Vector.ofFn fun i : Fin 768 => if member i (u.core i) then (u.core i).requestSave 5 s.cadence.toNat else u.core i }
    else u

/-- The context slot of a core's task. -/
def Core.slot (k : Core) : Nat := match k.task with | some t => t.slot | none => 0

/-- Takes a trap on cluster x of a core, resuming at tpc (R344 to R348, R350, R366). A machine check terminates inside a handler
too, under its own cause (R327, R348). -/
def State.deliver (s : State) (k : Fin 768) (x : Clu) (t : Trap) (tpc : Word) : State :=
  let c := (s.core k).clu x
  if c.inh && c.priv && decide (t.cause < 0x20) then
    let h : Trap := { t with cause := 0x1D, detail := 0, addr := 0, info := BitVec.ofNat 64 (t.cause % 256) }
    s.onCore k fun c => (c.onClu x fun c => c.record h tpc).terminate (causeWord h) false false
  else
    match s.disposition t.cause with
    | .handler => s.onCore k fun c => c.onClu x fun d => d.enter t tpc c.slot
    | .save => (s.onCore k fun c => c.onClu x fun d => { d.record t tpc with halted := true }).requestSave k 4
    | .terminate =>
      s.onCore k fun c => (c.onClu x fun d => { d.record t tpc with halted := true }).terminate (causeWord t) (t.cause == 0x20) false

/-- A machine check on a cluster of a core: imprecise, and the task is terminated (R343). -/
def State.machineCheck (s : State) (k : Fin 768) (x : Clu) (cause : Nat) (info : Word) : State :=
  s.deliver k x { clu := x, cause := cause, detail := 0, async := true, addr := 0, info := info } ((s.core k).clu x).pc

/-- The words of the instruction in hand, as TINFO reports them (R346). -/
def State.irInfo (s : State) : Word := s.ir.w0 ++ s.ir.w1

/-- TADDR of a cause: the address for causes 0x08 to 0x0C and for fetch faults, else 0 (R346). -/
def trapAddr (cause : Nat) (addr : Word) : Word :=
  if (8 ≤ cause ∧ cause ≤ 0xC) ∨ cause = 5 then addr else 0

/-- A fault of the instruction in hand: the bundle has no effect, and the trap is taken on its cluster with TPC at the
bundle (R56, R126, R345). A machine check is imprecise and carries no instruction word (R343, R346). An overlap check that fails is counted
as one that passes (R267). -/
def State.raise (s : State) (cause detail : Nat) (addr info : Word) : Out :=
  let u := if cause = 0x11 then s.undo.onMe fun k => k.count 0x10 s.cur.clu 1 else s.undo
  let t : Trap := { clu := s.cur.clu, cause := cause, detail := detail, async := decide (0x20 ≤ cause),
                    addr := trapAddr cause addr, info := if 0x20 ≤ cause then 0 else info }
  .next { u.deliver s.cur.core s.cur.clu t u.cl.pc with report := .trapped }

/-- A precise fault without an address. -/
def State.fault (s : State) (cause detail : Nat) : Out := s.raise cause detail 0 s.irInfo

/-- A precise fault at an address (R346). -/
def State.faultAt (s : State) (cause detail : Nat) (addr : Word) : Out := s.raise cause detail addr s.irInfo

/-- The return from a handler (R347): pc, level and ENDED from the saved registers, INH and PCTX.USE cleared. -/
def Cluster.leave (c : Cluster) : Cluster :=
  { c with pc := c.tpc, pcReg := c.tpcReg, lineRoom := maxLines, priv := bit c.tstat 0, ended := bit c.tstat 1, inh := false,
           pctx := c.pctx &&& ~~~64 }

/-- The outcome of an operation inside an instruction: a result and a state, a wait, or a precise fault. -/
inductive Res (α : Type) where
  | ok (a : α) (s : State)
  | wait
  | trap (cause detail : Nat) (addr : Word)

/-- The instruction's outcome, given what it does with the result. -/
def Res.out {α : Type} (r : Res α) (s : State) (f : α → State → Out) : Out :=
  match r with
  | .ok a t => f a t
  | .wait => s.stall
  | .trap c d a => s.faultAt c d a

/-- One operation after another. -/
def Res.bind {α β : Type} (r : Res α) (f : α → State → Res β) : Res β :=
  match r with
  | .ok a t => f a t
  | .wait => .wait
  | .trap c d a => .trap c d a

end Sys2Proof.Machine
end

