-- ==== Sys2Proof/Machine/Mem.lean ====
section
/-! DEFINITION. Bytes, lines, homes, die caches, the directory and translation (11 R274 to R286, 15 R358 to R365). -/

namespace Sys2Proof.Machine

/-! Bytes, least significant first. -/

/-- n bytes of a memory from an address upward. -/
def Memory.readList (m : Memory) (a : Nat) : Nat → List Byte
  | 0 => []
  | n + 1 => m.read a :: m.readList (a + 1) n

/-- Bytes written from an address upward. -/
def Memory.writeList (m : Memory) (a : Nat) : List Byte → Memory
  | [] => m
  | b :: bs => (m.write a b).writeList (a + 1) bs

/-- Every byte of a range removed, so that it reads as unlisted. -/
def Memory.clearRange (m : Memory) (lo hi : Nat) : Memory :=
  ⟨m.cells.filter fun c => decide (c.1 < lo) || decide (hi ≤ c.1)⟩

/-- The number of a list of bytes. -/
def leNat : List Byte → Nat
  | [] => 0
  | b :: bs => b.toNat + 256 * leNat bs

/-- The low n bytes of a number. -/
def leBytes (x : Nat) : Nat → List Byte
  | 0 => []
  | n + 1 => BitVec.ofNat 8 x :: leBytes (x / 256) n

/-- A number of n bytes at an address. -/
def Memory.readLe (m : Memory) (a n : Nat) : Nat := leNat (m.readList a n)

/-- A number written as n bytes. -/
def Memory.writeLe (m : Memory) (a n x : Nat) : Memory := m.writeList a (leBytes x n)

/-- The bytes of a 64-byte line. -/
def lineBytes (l : Line) : List Byte := leBytes l.toNat 64

/-- The line of 64 bytes. -/
def bytesLine (bs : List Byte) : Line := BitVec.ofNat 512 (leNat bs)

/-- The byte mask of a 64-bit mask, over n bytes (R15). -/
def expandMask (m : Word) : Nat → Nat
  | 0 => 0
  | n + 1 => expandMask m n + (bit m n).toNat * 255 * 256 ^ n

/-- The bytes of `new` where the mask is set, of `old` elsewhere. -/
def mergeLine (old new : Line) (mask : Word) : Line :=
  let k := BitVec.ofNat 512 (expandMask mask 64)
  (old &&& ~~~k) ||| (new &&& k)

/-- The mask of n bytes from byte off of a line. -/
def rangeMask (off n : Nat) : Word := BitVec.ofNat 64 ((2 ^ n - 1) * 2 ^ off)

/-- Bytes off to off + n - 1 of a line. -/
def linePart (l : Line) (off n : Nat) : Nat := l.toNat / 256 ^ off % 256 ^ n

/-- A number placed at byte off of a line. -/
def placeInLine (x off : Nat) : Line := BitVec.ofNat 512 (x * 256 ^ off)

/-! Association lists. -/

/-- The value of a key. -/
def alGet {α : Type} (l : List (Nat × α)) (k : Nat) : Option α := (l.find? fun e => e.1 == k).map (·.2)

/-- The list with the value of a key replaced. -/
def alSet {α : Type} (l : List (Nat × α)) (k : Nat) (v : α) : List (Nat × α) := (k, v) :: l.filter fun e => e.1 != k

/-- The list without a key. -/
def alDel {α : Type} (l : List (Nat × α)) (k : Nat) : List (Nat × α) := l.filter fun e => e.1 != k

/-! Physical places. -/

/-- The byte of its line. -/
def Phys.off (p : Phys) : Nat := p.addr % 64

/-- The frame with its tier: 64 KiB blocks. -/
def Phys.frame (p : Phys) : Nat := p.addr / 65536

/-- Home accesses of the second tier, by frame. -/
def tier2 : Nat := 2 ^ 50

/-- The line's LLC slice within its home die (R274); no architectural result depends on it (R3). -/
def Phys.slice (p : Phys) : Nat := p.addr % tier2 / 64 % 48

/-- The HBM stack of the home die on which the line lies (R274). -/
def Phys.stack (p : Phys) : Nat := p.line / 64 % 2

/-- The page is coherent (R360). -/
def Phys.coherent (p : Phys) : Bool := decide (p.mode ≠ 1)

/-! Keys and the home slice (R275, R286, R365, R391). -/

/-- A slot of the key store. -/
def MemSys.keySlot (m : MemSys) (k : Nat) : KeySlot := (alGet m.keys k).getD { state := 0, key := 0 }

/-- The plaintext of a line at its home, read under a key slot (R286, R365). -/
def MemSys.homeLine (m : MemSys) (line slot : Nat) : Line :=
  let raw := bytesLine (m.main.readList (line * 64) 64)
  match alGet m.lineKeys line with
  | none => raw
  | some k => if k = (m.keySlot slot).key then raw else Config.misread line raw k (m.keySlot slot).key

/-- Bytes of a line written at its home under a key slot; a line under an erased slot is dropped (R391). -/
def MemSys.homeWrite (m : MemSys) (line slot : Nat) (mask : Word) (data : Line) : MemSys :=
  if (m.keySlot slot).state = 0 then { m with poison := line :: m.poison.filter (· != line) }
  else
    { m with
      main := m.main.writeList (line * 64) (lineBytes (mergeLine (m.homeLine line slot) data mask))
      lineKeys := alSet m.lineKeys line (m.keySlot slot).key
      poison := if mask = 0xFFFF_FFFF_FFFF_FFFF then m.poison.filter (· != line) else m.poison }

/-! The home directory's entries (R278, R280, R282). -/

/-- The directory state of a line; none is I. -/
def MemSys.dirState (m : MemSys) (line : Nat) : Option DirState := (m.dir.find? fun e => e.line == line).map (·.st)

/-- The line's entry removed. -/
def MemSys.dirFree (m : MemSys) (line : Nat) : MemSys := { m with dir := m.dir.filter fun e => e.line != line }

/-- The directory no longer names an owner that has put its line back (R280). -/
def MemSys.ownerGone (m : MemSys) (line : Nat) (die : Fin 8) : MemSys :=
  if m.dirState line = some (.owned die) then m.dirFree line else m

/-- A transaction on the line is open, and every other request to it is held (R280). -/
def MemSys.busy (m : MemSys) (line : Nat) : Bool := m.trans.any fun t => t.line == line

/-- A request to the line has arrived and is held (R280). -/
def MemSys.queued (m : MemSys) (line : Nat) : Bool := m.reqs.any fun t => t.line == line

/-! The latest content of a line (R280, R284). -/

/-- The copy of a line that is newer than its home: the one an owner has returned to an open transaction, else a modified one. -/
def MemSys.newest (m : MemSys) (line : Nat) : Option DieLine :=
  match (m.trans.find? fun t => t.line == line).bind DirTrans.back with
  | some d => some d
  | none => m.dieLines.find? fun d => d.line == line && d.coh == some Mesi.m

/-- The latest value of a coherent line, with no effect on any cache. -/
def MemSys.peek (m : MemSys) (line slot : Nat) : Line :=
  match m.newest line with
  | some d => d.data
  | none => m.homeLine line slot

/-- The latest content of a coherent line is lost (R284). -/
def MemSys.lineBad (m : MemSys) (line : Nat) : Bool :=
  match m.newest line with
  | some d => d.bad
  | none => m.poison.contains line

/-! Dead pages (R362). -/

/-- A copy's masked bytes written home; a lost content stays lost (R284). -/
def MemSys.homeBack (m : MemSys) (d : DieLine) (mask : Word) : MemSys :=
  let u := m.homeWrite d.line d.key mask d.data
  if d.bad then { u with poison := d.line :: u.poison.filter (· != d.line) } else u

/-- The line of a page entry brought home and dropped from every die cache, before the device writes it. -/
def MemSys.entryHome (m : MemSys) (line : Nat) : MemSys :=
  let u := match m.newest line with
    | some d => m.homeBack d 0xFFFF_FFFF_FFFF_FFFF
    | none => m
  ({ u with dieLines := u.dieLines.filter fun d => d.line != line }).dirFree line

/-- Bit 2 of a page entry written at its home. -/
def MemSys.setDead (m : MemSys) (pte : Nat) (dead : Bool) : MemSys :=
  let m := m.entryHome (pte / 64)
  let e := linePart (m.homeLine (pte / 64) 0) (pte % 64) 8
  let e' := e / 8 * 8 + (if dead then 4 else 0) + e % 4
  m.homeWrite (pte / 64) 0 (rangeMask (pte % 64) 8) (placeInLine e' (pte % 64))

/-- Every copy of a frame's lines dropped without write-back, and its directory entries freed (R152). -/
def MemSys.dropFrame (m : MemSys) (frame : Nat) : MemSys :=
  { m with dieLines := m.dieLines.filter fun d => d.line / 1024 != frame
           dir := m.dir.filter fun e => e.line / 1024 != frame
           trans := m.trans.filter fun t => t.line / 1024 != frame
           reqs := m.reqs.filter fun t => t.line / 1024 != frame }

/-- The frame zero-filled at its home slices (R362). -/
def MemSys.zeroFrame (m : MemSys) (frame : Nat) : MemSys :=
  { m with main := m.main.clearRange (frame * 65536) (frame * 65536 + 65536)
           lineKeys := m.lineKeys.filter fun e => e.1 / 1024 != frame
           poison := m.poison.filter fun l => l / 1024 != frame }

/-- The revival of a dead page, by its frame and its entry (R362). -/
def MemSys.reviveFrame (m : MemSys) (frame pte : Nat) : MemSys := ((m.dropFrame frame).zeroFrame frame).setDead pte false

/-- The revival of the dead page of a place (R362). -/
def MemSys.revive (m : MemSys) (p : Phys) : MemSys := m.reviveFrame p.frame p.pte

/-- A page is dead by its entry (R360). -/
def MemSys.pageDead (m : MemSys) (pte : Nat) : Bool := decide (linePart (m.peek (pte / 64) 0) (pte % 64) 8 / 4 % 2 = 1)

/-- The page of a copy is live before the copy is written back: a dead one is revived, and its shootdown is owed (R362). -/
def MemSys.liveFor (m : MemSys) (d : DieLine) : MemSys :=
  if m.pageDead d.pte then { m.reviveFrame (d.line / 1024) d.pte with shots := d.tag :: m.shots } else m

/-! Die caches (R277, R279, R283). -/

/-- The die's copy of a line. -/
def MemSys.dieLine (m : MemSys) (die : Fin 8) (line : Nat) : Option DieLine :=
  m.dieLines.find? fun d => d.die == die && d.line == line

/-- A die's copy dropped. -/
def MemSys.dropLine (m : MemSys) (die : Fin 8) (line : Nat) : MemSys :=
  { m with dieLines := m.dieLines.filter fun d => !(d.die == die && d.line == line) }

/-- A coherent copy written home where it is modified (R279). -/
def MemSys.returnLine (m : MemSys) (d : DieLine) : MemSys :=
  if d.coh = some Mesi.m then (m.liveFor d).homeBack d 0xFFFF_FFFF_FFFF_FFFF else m

/-- The dirty bytes of a non-coherent copy written home (R150, R283). -/
def MemSys.writeBack (m : MemSys) (d : DieLine) : MemSys :=
  if d.coh = none ∧ d.dirty ≠ 0 then (m.liveFor d).homeWrite d.line d.key d.dirty d.data else m

/-- The replacement of a copy: what it alone holds goes home, and an owner's directory entry is freed (R279, R280, R283). -/
def MemSys.replace (m : MemSys) (d : DieLine) : MemSys :=
  (((m.returnLine d).writeBack d).dropLine d.die d.line).ownerGone d.line d.die

/-- The copies in the set of a line in a die's cache, the most recently used first (R277). The set is the line number modulo 16,384
(notes/assumptions/10.md). -/
def MemSys.cacheSet (m : MemSys) (die : Fin 8) (line : Nat) : List DieLine :=
  m.dieLines.filter fun d => d.die == die && d.line % 16384 == line % 16384

/-- The ways of the set of a line that are in use: 16, less those disabled (R277, R336). -/
def MemSys.cacheWays (m : MemSys) (die : Fin 8) (line : Nat) : Nat :=
  16 - (m.waysOff.filter fun w => w.1 == die.val && w.2.1 == 63 && w.2.2.1 == line % 16384).length

/-- The copy that leaves the set of a line next: the least recently used one whose line no transaction holds. -/
def MemSys.cacheVictim (m : MemSys) (die : Fin 8) (line : Nat) : Option DieLine :=
  ((m.cacheSet die line).filter fun d => !m.busy d.line).getLast?

/-- A set that holds more lines than it has ways gives up its least recently used one (R277). -/
def MemSys.trim (m : MemSys) (die : Fin 8) (line : Nat) : MemSys :=
  if m.cacheWays die line < (m.cacheSet die line).length then
    match m.cacheVictim die line with
    | some d => m.replace d
    | none => m
  else m

/-- A die's copy installed or replaced, and now the most recently used of its set (R277). -/
def MemSys.putLine (m : MemSys) (d : DieLine) : MemSys :=
  let u := m.dropLine d.die d.line
  { u with dieLines := d :: u.dieLines }.trim d.die d.line

/-- Recall-S at a die: a modified line goes home, the copy stays S (R279). -/
def MemSys.recallS (m : MemSys) (die : Fin 8) (line : Nat) : MemSys :=
  match m.dieLine die line with
  | none => m
  | some d =>
    let u := m.returnLine d
    { u with dieLines := u.dieLines.map fun e => if e.die = die ∧ e.line = line then { e with coh := some .s } else e }

/-- Recall-I at a die: a modified line goes home, the copy goes (R279). -/
def MemSys.recallI (m : MemSys) (die : Fin 8) (line : Nat) : MemSys :=
  match m.dieLine die line with
  | none => m
  | some d => (m.returnLine d).dropLine die line

/-- Inv at every die of a mask (R279). -/
def MemSys.invMask (m : MemSys) (mask : BitVec 8) (line : Nat) : MemSys :=
  { m with dieLines := m.dieLines.filter fun d => !(bit mask d.die.val && d.line == line) }

/-! The home directory (R278, R280, R282). -/

/-- The copies an entry records are recalled, and the entry is freed (R282). -/
def MemSys.recallEntry (m : MemSys) (e : DirEntry) : MemSys :=
  let m := match e.st with
    | .shared mask => m.invMask mask e.line
    | .owned o => m.recallI o e.line
  m.dirFree e.line

/-- The entries of the home's set of a line, most recent first; the set is the line number modulo 65,536
(notes/assumptions/10.md). -/
def MemSys.dirSet (m : MemSys) (home : Fin 8) (line : Nat) : List DirEntry :=
  m.dir.filter fun e => e.home == home && e.line % 65536 == line % 65536

/-- The entry of a set whose last transaction is oldest, among those of lines no transaction holds (R280, R282). -/
def MemSys.dirVictim (m : MemSys) (home : Fin 8) (line : Nat) : Option DirEntry :=
  ((m.dirSet home line).filter fun e => !m.busy e.line).getLast?

/-- The line's entry written, after the victim of a full set is recalled (R282). -/
def MemSys.dirPut (m : MemSys) (home : Fin 8) (line : Nat) (st : DirState) : MemSys :=
  let m := m.dirFree line
  let m := if 16 ≤ (m.dirSet home line).length then (match m.dirVictim home line with | some e => m.recallEntry e | none => m) else m
  { m with dir := { line := line, home := home, st := st } :: m.dir }

/-- The line of a place needs an entry in a set all of whose lines have a transaction open (R280, R282). -/
def MemSys.noEntry (m : MemSys) (p : Phys) : Bool :=
  (m.dirState p.line).isNone && decide (16 ≤ (m.dirSet p.home p.line).length) && (m.dirVictim p.home p.line).isNone

/-- A request to a line is held: a transaction of the line is open, an earlier request to it is held, or it finds no entry (R280, R282). -/
def MemSys.held (m : MemSys) (p : Phys) : Bool := m.busy p.line || m.queued p.line || m.noEntry p

/-- One die of an 8-bit mask. -/
def dieBit (d : Fin 8) : BitVec 8 := BitVec.ofNat 8 (2 ^ d.val)

/-- A copy of the line of a place as it stands at its home, in a state (R279). -/
def MemSys.homeCopy (m : MemSys) (die : Fin 8) (p : Phys) (coh : Option Mesi) : DieLine :=
  { die := die, line := p.line, coh := coh, key := p.key, home := p.home, tag := p.tag, pte := p.pte, valid := 0xFFFF_FFFF_FFFF_FFFF,
    dirty := 0, data := m.homeLine p.line p.key, bad := m.poison.contains p.line }

/-- The home serves RdS from a die (R280): the line as the die then holds it, E or S, and the memories with the grant recorded. -/
def MemSys.rdS (m : MemSys) (die : Fin 8) (p : Phys) : DieLine × MemSys :=
  let grant (m : MemSys) (c : Mesi) (st : DirState) : DieLine × MemSys :=
    let d := m.homeCopy die p (some c)
    (d, (m.dirPut p.home p.line st).putLine d)
  match m.dirState p.line with
  | none => grant m .e (.owned die)
  | some (.shared mask) => grant m .s (.shared (mask ||| dieBit die))
  | some (.owned o) => grant (m.recallS o p.line) .s (.shared (dieBit o ||| dieBit die))

/-- The home serves RdX or Upg from a die (R280): the line the die then holds M, and no other die holds it. -/
def MemSys.rdX (m : MemSys) (die : Fin 8) (p : Phys) : DieLine × MemSys :=
  let m := match m.dirState p.line with
    | none => m
    | some (.shared mask) => m.invMask mask p.line
    | some (.owned o) => m.recallI o p.line
  let d := m.homeCopy die p (some .m)
  (d, m.dirPut p.home p.line (.owned die))

/-- A home-slice read (R280): the owner's line comes home first. -/
def MemSys.homeRead (m : MemSys) (p : Phys) : Line × MemSys :=
  let m := match m.dirState p.line with
    | some (.owned o) => (m.recallS o p.line).dirPut p.home p.line (.shared (dieBit o))
    | some st => m.dirPut p.home p.line st
    | none => m
  (m.homeLine p.line p.key, m)

/-- Every copy of a line is gone from the die caches, before a home-slice write or atomic (R280). -/
def MemSys.homeOwn (m : MemSys) (line : Nat) : MemSys :=
  match m.dirState line with
  | none => m
  | some (.shared mask) => (m.invMask mask line).dirFree line
  | some (.owned o) => (m.recallI o line).dirFree line

/-- A home-slice write of the masked bytes (R280). -/
def MemSys.homeStore (m : MemSys) (line slot : Nat) (mask : Word) (data : Line) : MemSys :=
  (m.homeOwn line).homeWrite line slot mask data

/-! Accesses of a core or a copy engine of a die (R277, R279, R281, R283). -/

/-- A load of bytes of one line by a party of a die: the line with those bytes valid. -/
def MemSys.load (m : MemSys) (die : Fin 8) (p : Phys) (mask : Word) : Line × MemSys :=
  if die = p.home then (if p.coherent then m.homeRead p else (m.homeLine p.line p.key, m))
  else if p.coherent then
    match m.dieLine die p.line with
    | some d => (d.data, m.putLine d)
    | none =>
      let r := m.rdS die p
      (r.1.data, r.2)
  else
    match m.dieLine die p.line with
    | none =>
      let d := m.homeCopy die p none
      (d.data, m.putLine d)
    | some d =>
      if mask &&& ~~~d.valid = 0 then (d.data, m.putLine d)
      else
        let l := mergeLine (m.homeLine p.line p.key) d.data d.dirty
        (l, m.putLine { d with valid := 0xFFFF_FFFF_FFFF_FFFF, data := l })

/-- A store of the masked bytes of one line by a core of a die. -/
def MemSys.store (m : MemSys) (die : Fin 8) (p : Phys) (mask : Word) (data : Line) : MemSys :=
  if die = p.home then
    (if p.coherent then m.homeStore p.line p.key mask data else m.homeWrite p.line p.key mask data)
  else if p.coherent then
    let r := match m.dieLine die p.line with
      | some d => if d.coh = some Mesi.s then m.rdX die p else (d, m)
      | none => m.rdX die p
    r.2.putLine { r.1 with coh := some .m, data := mergeLine r.1.data data mask,
                           bad := r.1.bad && decide (mask ≠ 0xFFFF_FFFF_FFFF_FFFF) }
  else
    match m.dieLine die p.line with
    | none => m.putLine { m.homeCopy die p none with valid := mask, dirty := mask, data := mergeLine 0 data mask, bad := false }
    | some d => m.putLine { d with valid := d.valid ||| mask, dirty := d.dirty ||| mask, data := mergeLine d.data data mask }

/-- A copy-engine read of one line (R281, R283). -/
def MemSys.copyLoad (m : MemSys) (die : Fin 8) (p : Phys) (mask : Word) : Line × MemSys :=
  if p.coherent && decide (die ≠ p.home) then
    match m.dieLine die p.line with
    | some d => (d.data, m.putLine d)
    | none => m.homeRead p
  else m.load die p mask

/-- A copy-engine write of one line (R281, R283). -/
def MemSys.copyStore (m : MemSys) (die : Fin 8) (p : Phys) (mask : Word) (data : Line) : MemSys :=
  if p.coherent then m.homeStore p.line p.key mask data else m.store die p mask data

/-- An atomic or UC access finds the line at its home: coherent copies are recalled, and the issuing die's non-coherent
copy is written back and dropped (R283). -/
def MemSys.toHome (m : MemSys) (die : Fin 8) (p : Phys) : MemSys :=
  if p.coherent then m.homeOwn p.line
  else
    match m.dieLine die p.line with
    | some d => (m.writeBack d).dropLine die p.line
    | none => m

/-- A load of the masked bytes by a party of a die would consume a lost content (R284). -/
def MemSys.lost (m : MemSys) (die : Fin 8) (p : Phys) (mask : Word) : Bool :=
  !p.dead &&
    if p.coherent then
      match (if die = p.home then none else m.dieLine die p.line) with
      | some d => d.bad
      | none => m.lineBad p.line
    else
      m.poison.contains p.line &&
        match (if die = p.home then none else m.dieLine die p.line) with
        | some d => decide (mask &&& ~~~d.valid ≠ 0)
        | none => true

/-- An access of a party of a die that reads the line at its home slice, a UC load or an atomic, would consume a lost content (R283,
R284). -/
def MemSys.lostHome (m : MemSys) (die : Fin 8) (p : Phys) : Bool :=
  !p.dead &&
    if p.coherent then m.lineBad p.line
    else
      m.poison.contains p.line &&
        match m.dieLine die p.line with
        | some d => decide (d.dirty ≠ 0xFFFF_FFFF_FFFF_FFFF)
        | none => true

/-- A line as a party of a die would load it, with no effect on any cache. -/
def MemSys.view (m : MemSys) (die : Fin 8) (p : Phys) : Line :=
  if p.dead then 0
  else if p.coherent then m.peek p.line p.key
  else
    match (if die = p.home then none else m.dieLine die p.line) with
    | none => m.homeLine p.line p.key
    | some d => if d.valid = 0xFFFF_FFFF_FFFF_FFFF then d.data else mergeLine (m.homeLine p.line p.key) d.data d.dirty

/-- A line as a UC load of a party of a die finds it at its home slice, with no effect on any cache (R268, R283). -/
def MemSys.ucView (m : MemSys) (die : Fin 8) (p : Phys) : Line :=
  if p.dead then 0 else if p.coherent then m.peek p.line p.key else (m.toHome die p).homeLine p.line p.key

/-- The bytes of the line that a die has at hand after a load: those of its own copy of a line of a non-coherent page, else all
(R283). -/
def MemSys.atHand (m : MemSys) (die : Fin 8) (p : Phys) : Word :=
  if p.coherent || decide (die = p.home) then 0xFFFF_FFFF_FFFF_FFFF
  else match m.dieLine die p.line with
    | some d => d.valid
    | none => 0xFFFF_FFFF_FFFF_FFFF

/-! Translation (R358 to R361). -/

/-- The eight bytes of a table at a physical address, read under key slot 0 as a coherent load; none where the line's content is lost
(R361). -/
def MemSys.tableWord (m : MemSys) (a : Nat) : Option Nat :=
  if m.lineBad (a / 64) then none
  else some (linePart (m.peek (a / 64) 0) (a % 64) 8)

/-- Frames of HBM (R360). -/
def hbmFrames : Nat := 12582912

/-- A frame number lies within its tier's installed frames (R360, R390). -/
def State.frameInstalled (s : State) (tier f : Nat) : Bool :=
  if tier = 0 then decide (f < hbmFrames)
  else decide (f / 8 < (vget s.plat.cxl (Fin.ofNat 8 f)).frames.toNat)

/-- A page entry is malformed (R360). -/
def State.pageMalformed (s : State) (e : Nat) : Bool :=
  let f := e / 2 ^ 24 % 2 ^ 32
  let local_ := e / 2 ^ 10 % 2
  let die := e / 2 ^ 7 % 8
  let tier := e / 2 ^ 3 % 4
  decide (e / 2 ^ 56 ≠ 0) || decide (e / 2 ^ 21 % 8 ≠ 0) || decide (e / 2 ^ 5 % 4 = 3) || decide (2 ≤ tier) ||
    !s.frameInstalled tier f || (decide (local_ = 0) && decide (die ≠ 0)) ||
    (decide (tier = 0) && decide (local_ = 1) && decide (die ≠ f % 8))

/-- Why a translation fails: a page fault's detail, or a poisoned table line. -/
inductive WalkError where
  | page (detail : Nat)
  | poison
  deriving DecidableEq, Repr

/-- The place of a page's entry: the walk of R361 down to the leaf. -/
def State.pageEntryAt (s : State) (slot tid p : Nat) : Except WalkError Nat := do
  let tt := bits (s.dev (0xC00 + slot)) 12 32 * 65536 + tid * 16
  let te ← (s.ms.tableWord tt).elim (.error .poison) .ok
  let lim ← (s.ms.tableWord (tt + 8)).elim (.error .poison) .ok
  let limit := lim % 2 ^ 25
  let form := te / 2 ^ 62 % 2
  if tid = 0 ∨ te / 2 ^ 63 % 2 = 0 ∨ (form = 0 ∧ 4096 < limit) then .error (.page 1)
  else if limit ≤ p then .error (.page 2)
  else
    let root := te % 2 ^ 32 * 65536 + te / 2 ^ 32 % 2 * 32768
    if form = 0 then .ok (root + p * 8)
    else
      let l1 ← (s.ms.tableWord (root + p / 4096 * 8)).elim (.error .poison) .ok
      if l1 / 2 ^ 63 % 2 = 0 then .error (.page 3)
      else .ok (l1 % 2 ^ 32 * 65536 + l1 / 2 ^ 32 % 2 * 32768 + p % 4096 * 8)

/-- A translation (slot, tensor, page) is named by a shootdown: scope 0 pages, 1 tensor, 2 context. -/
def shotTag (slot scope tid first count : Nat) (t : Nat × Nat × Nat) : Bool :=
  decide (t.1 = slot) && (decide (scope = 2) || (decide (t.2.1 = tid) &&
    (decide (scope = 1) || (decide (first ≤ t.2.2) && decide (t.2.2 < first + count)))))

/-- A translation that names a key slot no longer valid is still cached: up to a free tick, and no longer than to a shootdown of it (R365, R391;
notes/assumptions/43.md). -/
def KeySlot.kept (k : KeySlot) (tag : Nat × Nat × Nat) (tick : Nat) : Bool :=
  match k.mark with
  | none => false
  | some n => decide (tick < Config.cachedUntil n tag.1 tag.2.1 tag.2.2) && !k.shot.any fun x => shotTag x.1 x.2.1 x.2.2.1 x.2.2.2.1 x.2.2.2.2 tag

/-- The shootdown noted at the key slots that are no longer valid. -/
def MemSys.shootKeys (m : MemSys) (slot scope tid first count : Nat) : MemSys :=
  { m with keys := m.keys.map fun e =>
      if e.2.mark.isSome then (e.1, { e.2 with shot := (slot, scope, tid, first, count) :: e.2.shot }) else e }

/-- `translate` of R361. -/
def State.translate (s : State) (slot tid off : Nat) (write : Bool) : Except WalkError Phys := do
  let pte ← s.pageEntryAt slot tid (off / 65536)
  let e ← (s.ms.tableWord pte).elim (.error .poison) .ok
  if e % 2 = 0 then .error (.page 4)
  else if s.pageMalformed e then .error (.page 6)
  else if write ∧ e / 2 % 2 = 0 then .error (.page 5)
  else
    let key := e / 2 ^ 11 % 2 ^ 10
    let ks := s.ms.keySlot key
    if ks.state ≠ 1 ∧ !ks.kept (slot, tid, off / 65536) s.cadence.toNat then .error (.page 7)
    else
      let f := e / 2 ^ 24 % 2 ^ 32
      let local_ := e / 2 ^ 10 % 2
      .ok { addr := e / 2 ^ 3 % 4 * tier2 + f * 65536 + off % 65536, key := key, mode := e / 2 ^ 5 % 4,
            home := Fin.ofNat 8 (if local_ = 1 then e / 2 ^ 7 % 8 else f), local_ := decide (local_ = 1),
            dead := decide (e / 4 % 2 = 1), pte := pte, tag := (slot, tid, off / 65536) }

/-! Lattice memory frames (13 R308). -/

/-- Eight-frame stride: the frame belongs to some context's lattice memory. -/
def State.latticeFrame (s : State) (p : Phys) : Bool :=
  decide (p.frame < 2 ^ 34) && s.lat.tables.any fun t =>
    let d : Fin 8 := Fin.ofNat 8 p.frame
    let b := vget t.dbase d
    decide (b ≤ p.frame) && decide ((p.frame - b) / 8 < t.lmsize)

end Sys2Proof.Machine
end

