-- ==== Sys2Proof/Machine/Buffers.lean ====
section
/-! DEFINITION. The typed buffers: footprints, watermarks, reads of compared values, and the overlap checker of
deterministic mode (01 R20 to R23, 06 R158, 08 R215, 10 R263). -/

namespace Sys2Proof.Machine

/-- A typed buffer of a core: 0 W, 1 A, 2 C, 3 scale. -/
def Storage.buf (t : Storage) (b : Fin 4) : Memory :=
  if b = 0 then t.bufW else if b = 1 then t.bufA else if b = 2 then t.bufC else t.bufS

/-- The storage with a typed buffer replaced. -/
def Storage.setBuf (t : Storage) (b : Fin 4) (m : Memory) : Storage :=
  if b = 0 then { t with bufW := m } else if b = 1 then { t with bufA := m }
  else if b = 2 then { t with bufC := m } else { t with bufS := m }

/-- Bytes of a buffer meet a poisoned word (R270). -/
def Storage.poisoned (t : Storage) (b : Fin 4) (off n : Nat) : Bool :=
  t.bad.any fun e => decide (e.1 = b.val) && decide (off < 8 * e.2 + 8) && decide (8 * e.2 < off + n)

/-- Bytes of a buffer written: the words they cover whole are no longer poisoned (notes/assumptions/27.md). -/
def Storage.putBuf (t : Storage) (b : Fin 4) (off : Nat) (bs : List Byte) : Storage :=
  { t.setBuf b ((t.buf b).writeList off bs) with
    bad := t.bad.filter fun e => !(decide (e.1 = b.val) && decide (off ≤ 8 * e.2) && decide (8 * e.2 + 8 ≤ off + bs.length)) }

/-- The footprint of a buffer, in bytes (R21). -/
def Task.foot (t : Task) (b : Fin 4) : Nat :=
  if b = 0 then t.footW else if b = 1 then t.footA else if b = 2 then t.footC else t.footS

/-- Bytes off to off + n - 1 lie within the footprint of a core's buffer (R21). -/
def Core.inFoot (k : Core) (b : Fin 4) (off n : Nat) : Bool :=
  match k.task with
  | some t => decide (off + n ≤ t.foot b)
  | none => false

/-! The mesh: cores, quads, dies (16 R368). -/

/-- The quad of a core. -/
def quadOf (k : Fin 768) : Fin 192 := ⟨k.val / 4, by omega⟩

/-- The position of a core in its quad (R35). -/
def qposOf (k : Fin 768) : Nat := k.val % 4

/-- The core at a position of a core's quad. -/
def quadCore (k : Fin 768) (q : Nat) : Fin 768 := ⟨k.val / 4 * 4 + q % 4, by omega⟩

/-- The die of a core (R368). -/
def dieOf (k : Fin 768) : Fin 8 := ⟨k.val / 96, by omega⟩

/-- Both cores run tasks of one launch (R37). -/
def State.sameLaunch (s : State) (a b : Fin 768) : Bool :=
  match (s.core a).task, (s.core b).task with
  | some x, some y => x.lid == y.lid
  | _, _ => false

/-! Watermarks (R215). -/

/-- A byte range touches the part of a command's watermark range that is not yet filled. -/
def ChCmd.blocks (c : ChCmd) (b : Fin 4) (lo n : Nat) : Bool :=
  match c.range with
  | some (rb, rlo, rn) => rb == b && decide (rlo + c.filled < lo + n) && decide (lo < rlo + rn) && decide (0 < n)
  | none => false

/-- An access to a byte range, issued with number `order`, stalls on a watermark of the core (R215). -/
def Core.wmBlocked (k : Core) (b : Fin 4) (lo n order : Nat) : Bool :=
  k.en.chans.toList.any fun ch => ch.cmds.any fun c => decide (c.order < order) && c.blocks b lo n

/-! Shape records and dense runs (R200, R215). -/

/-- n bytes of a shape record from an offset. -/
def recField (bs : List Byte) (o n : Nat) : Nat := leNat ((bs.drop o).take n)

/-- Number of dimensions, element size, extent, stride and tile extent of a shape record; absent extents count as 1. -/
def recDims (bs : List Byte) : Nat := recField bs 3 1
def recElem (bs : List Byte) : Nat := match recField bs 2 1 with | 5 | 6 => 2 | 7 | 8 => 4 | _ => 1
def recExtent (bs : List Byte) (i : Nat) : Nat := if i < recDims bs then recField bs (8 + 4 * i) 4 else 1
def recStride (bs : List Byte) (i : Nat) : Nat := recField bs (24 + 5 * i) 5
def recTile (bs : List Byte) (i : Nat) : Nat := if i < recDims bs then recField bs (44 + 4 * i) 4 else 1

/-- The tile size T in bytes. -/
def recTileBytes (bs : List Byte) : Nat := recTile bs 0 * recTile bs 1 * recTile bs 2 * recTile bs 3 * recElem bs

/-- Extents of the levels from 0 to n - 1, multiplied. -/
def extents (ls : Vector SeqLevel 6) : Nat → Nat
  | 0 => 1
  | n + 1 => extents ls n * (vget ls (Fin.ofNat 6 n)).e.toNat

/-- The run's buffer addresses are dense in emission order (R215; a level of one iteration has no step to make); a command that
is no run counts as dense. -/
def ChCmd.dense (c : ChCmd) : Bool :=
  decide (c.shape = []) || (List.range 6).all fun l =>
    decide ((vget c.levels (Fin.ofNat 6 l)).e.toNat ≤ 1) || decide ((vget c.levels (Fin.ofNat 6 l)).b.toInt = (extents c.levels l * recTileBytes c.shape : Nat))

/-! Compared values (R158). -/

/-- The accumulator a started command has written and not had compared, if it is one. -/
def MRun.openAcc (r : MRun) : Option (BitVec 6) :=
  match r.phase with
  | .uncompared | .mismatch | .assay =>
    match r.cmd.i with
    | .tmma _ acc _ _ => some acc
    | .tmmas _ acc _ _ _ => some acc
    | _ => none
  | _ => none

/-- An accumulator that bytes off to off + n - 1 of the C buffer touch awaits comparison or assay (R158). -/
def Core.uncompared (k : Core) (off n : Nat) : Bool :=
  k.en.mrun.any fun r =>
    match r.openAcc with
    | some a => decide (a.toNat * 4096 < off + n) && decide (off < a.toNat * 4096 + 4096)
    | none => false

/-! The overlap checker (R263). -/

/-- The task runs in deterministic mode. -/
def Core.det (k : Core) : Bool := match k.task with | some t => bit t.flags 0 | none => false

/-- The later of two clocks in every component. -/
def Clock.join (a b : Clock) : Clock :=
  b.foldl (fun c e => if ((alGet c e.1).getD 0) < e.2 then alSet c e.1 e.2 else c) a

/-- The first agent of the task of a core; no two tasks share a start number. -/
def Core.agents (k : Core) : Nat := (match k.task with | some t => t.start | none => 0) * 2 ^ 32

/-- The agent of a cluster. -/
def Core.cluAgent (k : Core) (c : Clu) : Nat := k.agents + (cluCode c).val

/-- The agent of a channel command. -/
def Core.cmdAgent (k : Core) (order : Nat) : Nat := k.agents + 4 + order

/-- The agent of a multicast's writes to the receiver at QPOS q. -/
def Core.mcAgent (k : Core) (order q : Nat) : Nat := k.cmdAgent order + 2 ^ 30 * (q + 1)

/-- A core runs the task with a start number (R209). -/
def Core.runsStart (k : Core) (start : Nat) : Bool :=
  match k.task with
  | some t => t.start == start
  | none => false

/-- The clock of an agent; its own component starts at 1. -/
def Checker.clock (c : Checker) (agent : Nat) : Clock := (alGet c.clocks agent).getD [(agent, 1)]

/-- An agent's own component of its clock: what it has done, and nothing that came before it. -/
def Checker.own (c : Checker) (agent : Nat) : Clock := [(agent, (alGet (c.clock agent) agent).getD 1)]

/-- An agent acquires a clock. -/
def Checker.acquire (c : Checker) (agent : Nat) (k : Clock) : Checker :=
  { c with clocks := alSet c.clocks agent ((c.clock agent).join k) }

/-- An agent's own component moves on after a release. -/
def Checker.tick (c : Checker) (agent : Nat) : Checker :=
  let k := c.clock agent
  { c with clocks := alSet c.clocks agent (alSet k agent ((alGet k agent).getD 1 + 1)) }

/-- A clock joins the queue of clocks that an object carries. -/
def Checker.carry (c : Checker) (obj : Nat) (k : Clock) : Checker :=
  { c with carried := alSet c.carried obj ((alGet c.carried obj).getD [] ++ [k]) }

/-- An agent releases into an object: its clock joins the queue of clocks the object carries. -/
def Checker.release (c : Checker) (agent obj : Nat) : Checker := (c.carry obj (c.clock agent)).tick agent

/-- An agent takes the oldest clock an object carries. -/
def Checker.take (c : Checker) (agent obj : Nat) : Checker :=
  match (alGet c.carried obj).getD [] with
  | [] => c
  | k :: rest =>
    let u := { c with carried := alSet c.carried obj rest }
    u.acquire agent k

/-- An agent acquires every clock an object carries. -/
def Checker.takeAll (c : Checker) (agent obj : Nat) : Checker :=
  ((alGet c.carried obj).getD []).foldl (fun c k => c.acquire agent k) c

/-- Objects that carry clocks: token queues, data queues, strand fills and frees, completion elements of channels. -/
def objTok (i : Fin 16) : Nat := i.val
def objQueue (q : Nat) : Nat := 100 + q
def objFill (s : Nat) : Nat := 200 + s
def objFree (s : Nat) : Nat := 300 + s
def objElem (ch : Nat) : Nat := 400 + ch

/-- A change of the core's checker, under deterministic mode only. -/
def Core.onCheck (k : Core) (f : Checker → Checker) : Core :=
  if k.det then { k with en := { k.en with check := f k.en.check } } else k

/-- The state with a change of the executing core's checker. -/
def State.onCheck (s : State) (f : Checker → Checker) : State := s.onMe fun k => k.onCheck f

/-- Whether an access conflicts with one the order does not relate to it (R263); an access that still waits for a command's
watermark comes after what the command does, and one of a matrix command before what has acquired the command. -/
def Checker.conflicts (c : Checker) (k : Clock) (agent : Nat) (b : Fin 4) (g : Nat) (write : Bool) : Bool :=
  c.accesses.any fun x => x.buf == b.val && x.granule == g && x.agent != agent && (write || x.write) &&
    !x.behind.contains agent && decide ((alGet k x.agent).getD 0 < x.time) && !(x.cmd.any fun m => (alGet k m).isSome)

/-- The granules of a byte range: n granules from g. -/
def granules (g : Nat) : Nat → List Nat
  | 0 => []
  | n + 1 => g :: granules (g + 1) n

/-- The granules that bytes off to off + n - 1 touch. -/
def granulesOf (off n : Nat) : List Nat := if n = 0 then [] else granules (off / 64) ((off + n - 1) / 64 - off / 64 + 1)

/-- An access of an agent with a clock to bytes of a core's buffer is a race (R263). -/
def Core.races (k : Core) (clk : Clock) (agent : Nat) (b : Fin 4) (off n : Nat) (write : Bool) : Bool :=
  k.det && (granulesOf off n).any fun g => k.en.check.conflicts clk agent b g write

/-- The access recorded, with the commands it still waits for and the matrix command that makes it. A write stands for what was accessed in its granules before it: what comes
after the write comes after that too. -/
def Core.noteAccess (k : Core) (clk : Clock) (agent : Nat) (b : Fin 4) (off n : Nat) (write : Bool) (behind : List Nat)
    (cmd : Option Nat) : Core :=
  k.onCheck fun c =>
    let t := (alGet clk agent).getD 1
    let add (l : List Access) (g : Nat) : List Access :=
      let a : Access := { buf := b.val, granule := g, write := write, agent := agent, time := t, behind := behind, cmd := cmd }
      let l := if write then l.filter fun x => !(x.buf == b.val && x.granule == g && x.behind.isEmpty) else l
      if l.contains a then l else a :: l
    { c with accesses := (granulesOf off n).foldl add c.accesses }

/-- The unfinished commands issued before number `order` whose ranges, dense and picked by a test, give an order by their
watermarks (R215, R298). -/
def Core.marks (k : Core) (order : Nat) (f : ChCmd → Fin 4 × Nat × Nat → Bool) : List (Nat × Fin 4 × Nat × Nat) :=
  (k.en.chans.toList.flatMap fun ch => ch.cmds).filterMap fun c =>
    match c.range with
    | some r => if c.order < order ∧ c.dense ∧ f c r then some (k.cmdAgent c.order, r) else none
    | none => none

/-- A range meets bytes of a buffer. -/
def marksMeet (b : Fin 4) (lo n : Nat) (r : Fin 4 × Nat × Nat) : Bool :=
  r.1 == b && decide (r.2.1 < lo + n) && decide (lo < r.2.1 + r.2.2)

/-- The commands whose watermarks hold back an access issued with number `order`. -/
def Core.heldBy (k : Core) (b : Fin 4) (lo n order : Nat) : List Nat :=
  (k.marks order fun c _ => c.blocks b lo n).map (·.1)

/-- What agents have done, joined: the bytes below a watermark, but not what came before the command (R297, R298). -/
def Checker.clocksOf (c : Checker) (l : List Nat) : Clock := l.foldl (fun j a => j.join (c.own a)) []

/-- What an access issued with number `order` acquires of the unfinished commands whose watermarks it passes or waits for
(R263, R298). -/
def Core.wmClock (k : Core) (b : Fin 4) (lo n order : Nat) : Clock :=
  k.en.check.clocksOf ((k.marks order fun _ r => marksMeet b lo n r).map (·.1))

/-- What a cluster's access acquires of the commands whose watermarks its bundle stalled on. -/
def Checker.stallClock (c : Checker) (agent : Nat) : Clock :=
  c.clocksOf ((c.stalls.filter fun p => p.1 == agent).map (·.2))

/-- A cluster's stall on watermarks is over. -/
def Checker.unstall (c : Checker) (agent : Nat) : Checker := { c with stalls := c.stalls.filter fun p => p.1 != agent }

/-- A cluster's bundle stalls on the watermarks of commands. -/
def Checker.stall (c : Checker) (agent : Nat) (l : List Nat) : Checker :=
  { c with stalls := c.stalls ++ (l.map fun a => (agent, a)).filter fun p => !c.stalls.contains p }

/-- A held access of an agent is performed: it comes after what the commands it waited for have done. -/
def Checker.passed (c : Checker) (agent : Nat) (b : Fin 4) (off n : Nat) : Checker :=
  let mine (x : Access) : Bool := x.agent == agent && x.buf == b.val && (granulesOf off n).contains x.granule
  let u := c.acquire agent (c.clocksOf ((c.accesses.filter mine).flatMap fun x => x.behind))
  { u with accesses := c.accesses.map fun x => if mine x then { x with behind := [] } else x }

/-- The clock a cluster of a core accesses with. -/
def State.cluClock (s : State) (k : Fin 768) (c : Clu) : Clock := (s.core k).en.check.clock ((s.core k).cluAgent c)

/-! Accesses of a cluster to a typed buffer of its own core or of a quad peer. -/

/-- Under deterministic mode an access of the executing cluster that no order relates to another party's raises the overlap
fault (cause 0x11); otherwise it is recorded (R263). -/
def State.orderAccess (s : State) (k : Fin 768) (b : Fin 4) (off n : Nat) (write : Bool) (addr : Word) : Res Unit :=
  let t := s.core k
  let own := decide (k = s.cur.core)
  let ag := s.me.cluAgent s.cur.clu
  let ck := (s.me.en.check.clock ag).join (s.me.en.check.stallClock ag)
  let ck := ck.join (if own then t.wmClock b off n t.en.issued else [])
  if t.races ck ag b off n write then .trap 0x11 0 addr
  else
    let s := s.onCheck fun c => (c.acquire ag ck).unstall ag
    let s := if t.det then s.onMe fun c => c.count 0x10 s.cur.clu 1 else s
    .ok () (s.onCore k fun c => c.noteAccess ck ag b off n write (if own then t.heldBy b off n t.en.issued else []) none)

/-- An access issued with number `order` waits: for a watermark of its own core, or for an uncompared accumulator. -/
def State.bufWaits (s : State) (k : Fin 768) (b : Fin 4) (off n order : Nat) : Bool :=
  (decide (k = s.cur.core) && (s.core k).wmBlocked b off n order) || (b == 2 && (s.core k).uncompared off n)

/-- What stands in the way of a cluster's access to buffer bytes: what it waits for, or a race. -/
def State.bufGate (s : State) (k : Fin 768) (b : Fin 4) (off n : Nat) (write : Bool) (addr : Word) : Res Unit :=
  if s.bufWaits k b off n (s.core k).en.issued then .wait else s.orderAccess k b off n write addr

/-- A cluster's read of n bytes of a buffer. -/
def State.bufRead (s : State) (k : Fin 768) (b : Fin 4) (off n : Nat) (addr : Word) : Res Nat :=
  (s.bufGate k b off n false addr).bind fun _ t =>
    if (t.core k).st.poisoned b off n then .trap 0x21 0 addr else .ok (((t.core k).st.buf b).readLe off n) t

/-- A cluster's write of n bytes of a buffer. -/
def State.bufWrite (s : State) (k : Fin 768) (b : Fin 4) (off n x : Nat) (addr : Word) : Res Unit :=
  (s.bufGate k b off n true addr).bind fun _ t =>
    .ok () (t.onCore k fun c => { c with st := c.st.putBuf b off (leBytes x n) })

end Sys2Proof.Machine
end

