-- ==== Sys2Proof/Machine/Operands.lean ====
section
/-! DEFINITION. Operand forms: immediates, addresses, peer sets, tokens and the guard of long forms (02 R50 to R53). -/

namespace Sys2Proof.Machine

/-- The code address a word index and a line delta name, relative to the line of a base address, and whether the
addition stays inside offset bits 39:0 (R43). -/
def codeTarget (base : Word) (delta : Int) (word : Nat) : Option Word :=
  let line : Int := (bits base 6 34 : Nat)
  let n := line + delta
  if 0 ≤ n ∧ n < 2 ^ 34 then
    some (BitVec.ofNat 64 (bits base 40 24 * 2 ^ 40 + n.toNat * 64 + word * 4))
  else none

/-- A code address taken from a register passes R42: GEN or RO path, word-aligned, word index not 0 (R44, detail 6). -/
def codeAddrOk (a : Word) : Bool :=
  decide (bits a 60 4 ≤ 1) && decide (bits a 0 2 = 0) && decide (bits a 2 4 ≠ 0)

/-- The address of LD: gA plus the offset in units of the access size (R141). -/
def ldAddress (a : Word) (off : BitVec 11) (size : Nat) : Word := a + sext off * BitVec.ofNat 64 size

/-- The address of ST (R141). -/
def stAddress (a : Word) (off : BitVec 12) (size : Nat) : Word := a + sext off * BitVec.ofNat 64 size

/-- The n-th other cluster in increasing cluster code (R52). -/
def peerOf (own : Clu) (n : Nat) : Clu :=
  cluOf (if n < (cluCode own).val then n else n + 1)

/-- The clusters a peer set names (R52). -/
def peerSet (own : Clu) (set : BitVec 3) : List Clu :=
  (if bit set 0 then [peerOf own 0] else []) ++ (if bit set 1 then [peerOf own 1] else []) ++
  (if bit set 2 then [peerOf own 2] else [])

/-- The place of the token queue from one cluster to another. -/
def tokIdx (from_ to_ : Clu) : Fin 16 := Fin.ofNat 16 (4 * (cluCode from_).val + (cluCode to_).val)

/-- Every queue from a peer of the set to the cluster holds a token (R25). -/
def Storage.hasTokens (t : Storage) (own : Clu) (set : BitVec 3) : Bool :=
  (peerSet own set).all fun p => decide (0 < vget t.tok (tokIdx p own))

/-- Every queue from the cluster to a peer of the set has room (R25). -/
def Storage.hasRoom (t : Storage) (own : Clu) (set : BitVec 3) : Bool :=
  (peerSet own set).all fun p => decide (vget t.tok (tokIdx own p) + vget t.room (tokIdx own p) < 15)

/-- One token popped from each queue of the set (R25). -/
def Storage.popTokens (t : Storage) (own : Clu) (set : BitVec 3) : Storage :=
  (peerSet own set).foldl (fun t p => { t with tok := vset t.tok (tokIdx p own) (vget t.tok (tokIdx p own) - 1) }) t

/-- Room reserved in each queue of the set (R25). -/
def Storage.reserve (t : Storage) (own : Clu) (set : BitVec 3) : Storage :=
  (peerSet own set).foldl (fun t p => { t with room := vset t.room (tokIdx own p) (vget t.room (tokIdx own p) + 1) }) t

/-- One token pushed into each queue of the set. -/
def Storage.pushTokens (t : Storage) (own : Clu) (set : BitVec 3) : Storage :=
  (peerSet own set).foldl (fun t p => { t with tok := vset t.tok (tokIdx own p) (vget t.tok (tokIdx own p) + 1) }) t

/-- The post tokens of a form that finishes, pushed into the room it reserved (R25). -/
def Storage.post (t : Storage) (own : Clu) (set : BitVec 3) : Storage :=
  (peerSet own set).foldl
    (fun t p => { t with tok := vset t.tok (tokIdx own p) (vget t.tok (tokIdx own p) + 1),
                         room := vset t.room (tokIdx own p) (vget t.room (tokIdx own p) - 1) }) t

/-- Room given back by a form that is cancelled. -/
def Storage.unreserve (t : Storage) (own : Clu) (set : BitVec 3) : Storage :=
  (peerSet own set).foldl (fun t p => { t with room := vset t.room (tokIdx own p) (vget t.room (tokIdx own p) - 1) }) t

/-- The wait and post sets of a long form can be served (R25). -/
def State.setsReady (s : State) (l : Long) : Bool :=
  s.me.st.hasTokens s.cur.clu l.wait && s.me.st.hasRoom s.cur.clu l.post

end Sys2Proof.Machine
end

