-- ==== Sys2Proof/Machine/Fetch.lean ====
section
/-! DEFINITION. Fetching code: lines, link words, bundles and the checks of decoding (02 R40 to R56, R182). A pc whose word
index is 0 stands past the end of the line below it; notes/assumptions/8.md. -/

namespace Sys2Proof.Machine

/-- A fault met by fetch or decoding: cause, detail, address, and the words of the instruction it names, 0 for a fetch fault
(notes/assumptions/92.md). -/
structure FetchError where
  cause : Nat
  detail : Nat
  addr : Word
  w0 : Nat
  w1 : Nat
  deriving DecidableEq, Repr

/-- Who fetches: the die, the context slot it translates through, and the cluster. -/
structure Fetcher where
  die : Fin 8
  slot : Nat
  clu : Clu
  deriving DecidableEq, Repr

/-- The context slot through which a cluster translates (R342). -/
def Core.slotFor (k : Core) (c : Clu) : Nat :=
  let x := k.clu c
  if x.priv then (if bit x.pctx 6 then bits x.pctx 0 6 else 0) else k.slot

/-- A cluster of a core as it fetches. -/
def Core.fetcher (c : Core) (k : Fin 768) (x : Clu) : Fetcher := { die := dieOf k, slot := c.slotFor x, clu := x }

/-- A code line read as the RO path reads data, past the L1, which fetch does not fill (R42, R271, R303). -/
def State.codeLine (s : State) (w : Fetcher) (pc : Word) : Except FetchError Line :=
  let a := pc &&& ~~~63
  if 1 < bits pc 60 4 then .error ⟨5, 6, pc, 0, 0⟩
  else if bits pc 56 4 ≠ 0 ∨ bits pc 40 16 = 0 then .error ⟨8, 0, pc, 0, 0⟩
  else
    match s.translate w.slot (bits pc 40 16) (bits a 0 40) false with
    | .error (.page d) => .error ⟨0xC, d, pc, 0, 0⟩
    | .error .poison => .error ⟨0x21, 0, pc, 0, 0⟩
    | .ok p =>
      if s.latticeFrame p then .error ⟨8, 0, pc, 0, 0⟩
      else if p.dead then .ok 0
      else if s.ms.lost w.die p 0xFFFF_FFFF_FFFF_FFFF then .error ⟨0x21, 0, pc, 0, 0⟩
      else .ok (s.ms.view w.die p)

/-- Word i of a line. -/
def lineWord (l : Line) (i : Nat) : Nat := linePart l (4 * i) 4

/-- The checks of a link word on entering its line (R41, R44). -/
def linkError (link : Nat) (c : Clu) : Option Nat :=
  if fld link 24 5 ≠ 0 then some 1
  else if fld link 30 2 ≠ (cluCode c).val then some 2
  else if fld link 29 1 = 0 ∧ fld link 0 24 = 0 then some 4
  else none

/-- The `next` field as a signed number of lines (R41). -/
def linkNext (link : Nat) : Int := (BitVec.ofNat 24 link).toInt

/-- The address at word 1 of the line that follows a line in its chain (R43, R44). -/
def nextLine (pc : Word) (link : Nat) : Except FetchError Word :=
  if fld link 29 1 = 1 then .error ⟨5, 3, pc, 0, 0⟩
  else
    match codeTarget pc (linkNext link) 1 with
    | some a => .ok a
    | none => .error ⟨5, 7, pc, 0, 0⟩

/-- The first index from i on, over n words, that does not hold PAD. -/
def firstWord (l : Line) (i : Nat) : Nat → Option Nat
  | 0 => none
  | n + 1 => if lineWord l i ≠ 0 then some i else firstWord l (i + 1) n

/-- A code address with its word index replaced. -/
def withIndex (pc : Word) (i : Nat) : Word := (pc &&& ~~~63) + BitVec.ofNat 64 (4 * i)

/-- The next bundle's address and its line, entering at most n lines, and how many more may be entered (R44). -/
def State.walk (s : State) (w : Fetcher) (pc : Word) : Nat → Except FetchError (Word × Line × Nat)
  | 0 => .error ⟨5, 8, pc, 0, 0⟩
  | n + 1 => do
    let l ← s.codeLine w pc
    let link := lineWord l 0
    match linkError link w.clu with
    | some d => .error ⟨5, d, pc, 0, 0⟩
    | none =>
      match firstWord l (bits pc 2 4) (16 - bits pc 2 4) with
      | some i => .ok (withIndex pc i, l, n)
      | none => s.walk w (← nextLine pc link) n

/-- The bundle at or after a position, on at most n lines, the line of the position among them. -/
def State.seek (s : State) (w : Fetcher) (pc : Word) (n : Nat) : Except FetchError (Word × Line × Nat) := do
  if bits pc 2 4 = 0 then
    let p := pc - 64
    let l ← s.codeLine w p
    s.walk w (← nextLine p (lineWord l 0)) (n - 1)
  else s.walk w pc n

/-- The bundle at or after a pc, on at most n lines: its address, its line, and the lines left (R44, R61). A pc taken from a register
is checked first. -/
def State.normalise (s : State) (w : Fetcher) (pc : Word) (reg : Bool) (n : Nat) : Except FetchError (Word × Line × Nat) :=
  if reg ∧ !codeAddrOk pc then .error ⟨5, 6, pc, 0, 0⟩ else s.seek w pc n

/-- The address of the first bundle a cluster has not issued, its position where fetch reaches none (R345, R354). -/
def State.pcOf (s : State) (k : Fin 768) (x : Clu) : Word :=
  let c := (s.core k).clu x
  match s.normalise ((s.core k).fetcher k x) c.pc c.pcReg c.lineRoom with
  | .ok r => r.1
  | .error _ => c.pc

/-- A core's clusters with each pc at its first bundle not issued, as a save records it (R354). -/
def State.settlePcs (s : State) (k : Fin 768) : State :=
  s.onCore k fun c => { c with cl := Vector.ofFn fun i : Fin 4 => { vget c.cl i with pc := s.pcOf k (cluOf i.val) } }

/-- A fetched bundle (R45): its address, its S bit, the words of its one or two instructions, the position after it. -/
structure Fetched where
  addr : Word
  sync : Bool
  first : Nat × Nat
  second : Option (Nat × Nat)
  npc : Word
  deriving DecidableEq, Repr

/-- The words of an instruction at an index, and how many they are. A word of an unassigned major counts as one word, which R49 does
not say (DESIGN CHOICE, notes/assumptions/90.md). -/
def wordsAt (l : Line) (i : Nat) : (Nat × Nat) × Nat :=
  let w := lineWord l i
  if isLongMajor (majorOf w) then ((w, lineWord l (i + 1)), 2) else ((w, 0), 1)

/-- The bundle at an index of a line, under the structural conditions of R46 and detail 5 of R44. -/
def parseBundle (pc : Word) (l : Line) : Except FetchError Fetched :=
  let i := bits pc 2 4
  let ((w0, w1), n) := wordsAt l i
  let sync := decide (fld w0 25 1 = 1)
  if i + n = 17 then .error ⟨5, 5, pc, 0, 0⟩
  else if fld w0 24 1 = 1 then .ok ⟨pc, sync, (w0, w1), none, withIndex pc (i + n)⟩
  else if i + n = 16 ∨ lineWord l (i + n) = 0 then .error ⟨4, 0, 0, w0, w1⟩
  else
    let ((x0, x1), m) := wordsAt l (i + n)
    if i + n + m = 17 then .error ⟨5, 5, pc, 0, 0⟩
    else if fld x0 25 1 = 1 ∨ fld x0 24 1 = 0 then .error ⟨4, 0, 0, w0, w1⟩
    else .ok ⟨pc, sync, (w0, w1), some (x0, x1), withIndex pc (i + n + m)⟩

/-! The checks of decoding (R55). -/

/-- The pairing classes (R47). -/
inductive PairClass where
  | s | m | l | b | x
  deriving DecidableEq, Repr

/-- The class of an assigned major (R47). -/
def classOf (maj : Nat) : PairClass :=
  if (0x10 ≤ maj ∧ maj ≤ 0x13) then .b
  else if 0x18 ≤ maj ∧ maj ≤ 0x1D then .m
  else if isLongMajor maj then .l
  else if (0x14 ≤ maj ∧ maj ≤ 0x17) ∨ (0x20 ≤ maj ∧ maj ≤ 0x25) then .x
  else .s

/-- The pairs that R47 permits. -/
def pairOk (a b : PairClass) : Bool :=
  match a, b with
  | .s, .s | .s, .m | .m, .s | .s, .l | .l, .s | .s, .b => true
  | _, _ => false

/-- A major of the vector cluster's units (R182). -/
def vectorMajor (maj : Nat) : Bool := decide (0x30 ≤ maj) && decide (maj ≤ 0x36)

/-- R182: what may share a bundle with an instruction of the vector cluster's units. -/
def besideVector (maj : Nat) : Bool := classOf maj == .b || (classOf maj == .s && !vectorMajor maj)

/-- The class conditions of a pair of majors (R47, R55, R182). -/
def pairMajorsOk (a b : Nat) : Bool :=
  pairOk (classOf a) (classOf b) && (!vectorMajor a || besideVector b) && (!vectorMajor b || besideVector a)

/-- The clusters that may execute an instruction, by its first word (R54, R68, R71, R74). Major 0x20 names the queue QAC or QCA in its
low bits, which the access and the control cluster push and pop (R24). -/
def clusterOk (c : Clu) (w : Nat) : Bool :=
  let m := majorOf w
  let ca := c == .c || c == .a
  if m = 0x16 ∨ (0x39 ≤ m ∧ m ≤ 0x3E) then c == .m
  else if m = 0x38 then c == .c
  else if 0x28 ≤ m ∧ m ≤ 0x2F then c == .a
  else if 0x30 ≤ m ∧ m ≤ 0x36 then c == .v
  else if m = 0x18 ∨ m = 0x19 ∨ m = 0x1A ∨ m = 0x1C ∨ m = 0x1D then ca
  else if m = 0x1B then (if 4 ≤ fld w 4 5 ∧ fld w 4 5 ≤ 7 then ca else true)
  else if m = 0x20 then
    (if (fld w 6 3 = 2 ∧ fld w 0 3 = 3) ∨ (fld w 6 3 = 3 ∧ fld w 0 3 = 4) then c == .a
     else if (fld w 6 3 = 2 ∧ fld w 0 3 = 4) ∨ (fld w 6 3 = 3 ∧ fld w 0 3 = 3) then c == .c
     else true)
  else if m = 0x23 then (if fld w 0 9 = 0 ∨ fld w 0 9 = 2 then ca else if fld w 0 9 = 3 then c == .c else true)
  else if m = 0x25 then (if fld w 0 9 = 0 then c == .c else true)
  else true

/-- Checks 1 to 3 of R55: the instruction, or its fault's cause. -/
def decodeChecked (c : Clu) (w : Nat × Nat) : Except Nat Instr :=
  if !majorAssigned (majorOf w.1) then .error 1
  else if !clusterOk c w.1 then .error 2
  else
    match decode w.1 w.2 with
    | .error _ => .error 1
    | .ok i => .ok i

end Sys2Proof.Machine
end

