-- ==== Sys2Proof/Machine/Regs.lean ====
section
/-! DEFINITION. The registers, predicates, masks and vector registers an instruction names as destinations and as sources
(02 R47, 07 R182, R191, 06 R172). -/

namespace Sys2Proof.Machine

/-- A register of a cluster. -/
inductive RegRef where
  | g (r : Reg)
  | p (p : Pred)
  | m (m : MReg)
  | v (v : VReg)
  deriving DecidableEq, Repr

/-- The destinations of an instruction (R47). -/
def writesOf : Instr → List RegRef
  | .add d _ _ => [.g d]
  | .sub d _ _ => [.g d]
  | .addt d _ _ => [.g d]
  | .subt d _ _ => [.g d]
  | .mul d _ _ => [.g d]
  | .mulh d _ _ => [.g d]
  | .mulhn d _ _ => [.g d]
  | .mult d _ _ => [.g d]
  | .div d _ _ => [.g d]
  | .divn d _ _ => [.g d]
  | .rem d _ _ => [.g d]
  | .remn d _ _ => [.g d]
  | .min d _ _ => [.g d]
  | .max d _ _ => [.g d]
  | .minn d _ _ => [.g d]
  | .maxn d _ _ => [.g d]
  | .and d _ _ => [.g d]
  | .or d _ _ => [.g d]
  | .xor d _ _ => [.g d]
  | .andn d _ _ => [.g d]
  | .orn d _ _ => [.g d]
  | .shl d _ _ => [.g d]
  | .shr d _ _ => [.g d]
  | .sra d _ _ => [.g d]
  | .rol d _ _ => [.g d]
  | .ror d _ _ => [.g d]
  | .clz d _ => [.g d]
  | .ctz d _ => [.g d]
  | .popc d _ => [.g d]
  | .brev d _ => [.g d]
  | .bswap d _ => [.g d]
  | .sextI8 d _ => [.g d]
  | .sextI16 d _ => [.g d]
  | .sextI32 d _ => [.g d]
  | .zextN8 d _ => [.g d]
  | .zextN16 d _ => [.g d]
  | .zextN32 d _ => [.g d]
  | .cmpeq d _ _ => [.p d]
  | .cmpne d _ _ => [.p d]
  | .cmplt d _ _ => [.p d]
  | .cmple d _ _ => [.p d]
  | .cmpltn d _ _ => [.p d]
  | .cmplen d _ _ => [.p d]
  | .tstnz d _ _ => [.p d]
  | .pand d _ _ => [.p d]
  | .por d _ _ => [.p d]
  | .pxor d _ _ => [.p d]
  | .pandn d _ _ => [.p d]
  | .pnot d _ => [.p d]
  | .pset d _ => [.p d]
  | .pget d _ => [.g d]
  | .sel d _ _ _ => [.g d]
  | .lea d _ _ _ => [.g d]
  | .gaddr d _ _ => [.g d]
  | .addi d _ _ => [.g d]
  | .andi d _ _ => [.g d]
  | .ori d _ _ => [.g d]
  | .xori d _ _ => [.g d]
  | .shli d _ _ => [.g d]
  | .shri d _ _ => [.g d]
  | .srai d _ _ => [.g d]
  | .rori d _ _ => [.g d]
  | .cmpeqi d _ _ => [.p d]
  | .cmpnei d _ _ => [.p d]
  | .cmplti d _ _ => [.p d]
  | .cmplei d _ _ => [.p d]
  | .cmpgti d _ _ => [.p d]
  | .cmpgei d _ _ => [.p d]
  | .cmpltni d _ _ => [.p d]
  | .cmpgtni d _ _ => [.p d]
  | .li d _ => [.g d]
  | .lix d _ => [.g d]
  | .b _ _ _ _ => []
  | .call _ _ _ _ => [.g 24]
  | .jmpr _ => []
  | .callr d _ => [.g d]
  | .loop _ _ _ _ => []
  | .mfs d _ => [.g d]
  | .mts _ _ => []
  | .tshape _ _ _ _ => []
  | .trap _ => []
  | .sret => []
  | .idle => []
  | .nop => []
  | .ld d _ _ _ => [.g d]
  | .st _ _ _ _ => []
  | .lda d _ _ _ _ => [.g d]
  | .str _ _ _ _ => []
  | .fence _ => []
  | .fencea _ => []
  | .fencer _ => []
  | .wbr _ _ => []
  | .invr _ _ => []
  | .discard _ _ => []
  | .pref _ _ => []
  | .aadd d _ _ _ _ _ => [.g d]
  | .aand d _ _ _ _ _ => [.g d]
  | .aor d _ _ _ _ _ => [.g d]
  | .axor d _ _ _ _ _ => [.g d]
  | .amin d _ _ _ _ _ => [.g d]
  | .amax d _ _ _ _ _ => [.g d]
  | .aminn d _ _ _ _ _ => [.g d]
  | .amaxn d _ _ _ _ _ => [.g d]
  | .aswp d _ _ _ _ _ => [.g d]
  | .afadd d _ _ _ _ => [.g d]
  | .acas d _ _ _ _ _ => [.g d]
  | .join _ _ => []
  | .joina _ _ => []
  | .ldlat d _ => [.g d]
  | .ldge d _ _ => [.g d]
  | .tkwait _ => []
  | .tkpost _ => []
  | .qpush _ _ => []
  | .qpop d _ => [.g d]
  | .sclaim _ d => [.g d]
  | .sfill _ _ => []
  | .swfill _ d => [.g d]
  | .srel _ _ => []
  | .swfree _ _ => []
  | .clinit _ _ => []
  | .clexpect _ _ _ => []
  | .clarrive _ _ _ => []
  | .clwait _ _ => []
  | .clbase _ => []
  | .publ => []
  | .rdcad d => [.g d]
  | .locq d _ => [.g d]
  | .launch d _ => [.g d]
  | .pwracq _ => []
  | .pwrrel => []
  | .exit => []
  | .end_ => []
  | .tdesc _ _ _ _ => []
  | .seqcfg _ _ _ _ _ => []
  | .seqrunCopy _ _ _ _ _ => []
  | .seqrunGather _ _ _ _ _ => []
  | .seqrunScatter _ _ _ _ _ => []
  | .seqrunCpyscl _ _ _ _ _ => []
  | .copy _ _ _ _ _ => []
  | .copyj _ _ _ _ _ => []
  | .gather _ _ _ _ _ _ _ => []
  | .scatter _ _ _ _ _ _ _ => []
  | .copymc _ _ _ _ _ _ => []
  | .cpyscl _ _ _ _ _ => []
  | .qsend _ _ _ _ => []
  | .qrecv _ _ _ => []
  | .chwait _ _ => []
  | .chwaitStage _ _ _ => []
  | .vaddI vd _ _ _ _ => [.v vd]
  | .vsubI vd _ _ _ _ => [.v vd]
  | .vmulI vd _ _ _ _ => [.v vd]
  | .vaddsI vd _ _ _ _ => [.v vd]
  | .vsubsI vd _ _ _ _ => [.v vd]
  | .vminI vd _ _ _ _ => [.v vd]
  | .vmaxI vd _ _ _ _ => [.v vd]
  | .vshlI vd _ _ _ _ => [.v vd]
  | .vshrI vd _ _ _ _ => [.v vd]
  | .vcmpeqI md _ _ _ _ => [.m md]
  | .vcmpltI md _ _ _ _ => [.m md]
  | .vcmpleI md _ _ _ _ => [.m md]
  | .vaddN vd _ _ _ _ => [.v vd]
  | .vsubN vd _ _ _ _ => [.v vd]
  | .vmulN vd _ _ _ _ => [.v vd]
  | .vaddsN vd _ _ _ _ => [.v vd]
  | .vsubsN vd _ _ _ _ => [.v vd]
  | .vminN vd _ _ _ _ => [.v vd]
  | .vmaxN vd _ _ _ _ => [.v vd]
  | .vshlN vd _ _ _ _ => [.v vd]
  | .vshrN vd _ _ _ _ => [.v vd]
  | .vcmpeqN md _ _ _ _ => [.m md]
  | .vcmpltN md _ _ _ _ => [.m md]
  | .vcmpleN md _ _ _ _ => [.m md]
  | .vand vd _ _ _ => [.v vd]
  | .vor vd _ _ _ => [.v vd]
  | .vxor vd _ _ _ => [.v vd]
  | .vandn vd _ _ _ => [.v vd]
  | .vsel vd _ _ _ => [.v vd]
  | .vbcst vd _ _ _ => [.v vd]
  | .vshuf vd _ _ _ => [.v vd]
  | .vmov vd _ _ => [.v vd]
  | .mand md _ _ => [.m md]
  | .mor md _ _ => [.m md]
  | .mxor md _ _ => [.m md]
  | .mandn md _ _ => [.m md]
  | .mnot md _ => [.m md]
  | .vlane d _ _ => [.g d]
  | .vaddF vd _ _ _ _ => [.v vd]
  | .vsubF vd _ _ _ _ => [.v vd]
  | .vmulF vd _ _ _ _ => [.v vd]
  | .vfma vd _ _ _ _ => [.v vd]
  | .vminF vd _ _ _ _ => [.v vd]
  | .vmaxF vd _ _ _ _ => [.v vd]
  | .vcmpeqF md _ _ _ _ => [.m md]
  | .vcmpltF md _ _ _ _ => [.m md]
  | .vcmpleF md _ _ _ _ => [.m md]
  | .vabs vd _ _ _ => [.v vd]
  | .vneg vd _ _ _ => [.v vd]
  | .vexp2 vd _ _ => [.v vd]
  | .vlog2 vd _ _ => [.v vd]
  | .vrcp vd _ _ => [.v vd]
  | .vrsq vd _ _ => [.v vd]
  | .vtanh vd _ _ => [.v vd]
  | .vrsum vd _ _ => [.v vd]
  | .vrmax vd _ _ => [.v vd]
  | .vrmin vd _ _ => [.v vd]
  | .vtopk vd _ _ _ => [.v vd, .v (vd + 1)]
  | .vcvt vd _ _ _ _ _ _ => [.v vd]
  | .vld _ v _ _ _ => [.v v]
  | .vst _ _ _ _ _ => []
  | .vqpop _ v _ => [.v v]
  | .vqpush _ _ _ => []
  | .fmtw _ _ => []
  | .tld _ _ _ => []
  | .tst _ _ _ => []
  | .tqld _ _ => []
  | .tzero _ _ => []
  | .ttrans _ _ _ => []
  | .tcvt _ _ _ _ => []
  | .tmma _ _ _ _ => []
  | .tmmas _ _ _ _ _ => []
  | .tdrain _ _ _ => []
  | .tdrainadd _ _ _ _ => []
  | .hmrd _ g _ => [.g g, .g (g + 1)]
  | .hmclr _ _ => []
  | .vectorFormFinish _ _ => []
  | .syncRendezvous _ => []
  | .stalledBundleIssue _ _ => []
  | .stampedIssue _ => []
  | .scheduleMiss _ => []
  | .matrixCommandStart _ _ _ => []
  | .matrixCommandFinish _ => []
  | .hallmarkCompare _ _ => []
  | .assayStart _ => []
  | .assayVerdict _ _ => []
  | .locketRelease _ _ _ _ => []
  | .channelCommandStart _ _ => []
  | .copyPiece _ _ => []
  | .pieceArrival _ _ _ => []
  | .sequencerEmission _ _ => []
  | .multicastArrival _ => []
  | .watermarkRelease _ _ => []
  | .channelCommandFinish _ _ => []
  | .chwaitFinish _ => []
  | .strandWaitEnd _ _ => []
  | .claspWaitPass _ _ => []
  | .claspTimeout _ _ => []
  | .latticeWaitPass _ _ => []
  | .latticeTimeout _ _ => []
  | .powerGrant _ _ _ => []
  | .trapDelivery _ _ => []
  | .handlerTimeout _ _ => []
  | .taskRetire _ => []
  | .walkerPlace _ => []
  | .saveComplete _ => []
  | .restoreIssueStart _ => []
  | .launchComplete _ => []
  | .homeSliceAccess _ _ => []
  | .rds _ _ => []
  | .rdx _ _ => []
  | .upg _ _ => []
  | .putc _ _ => []
  | .putm _ _ => []
  | .directoryAck _ _ => []
  | .inv _ _ => []
  | .recallS _ _ => []
  | .recallI _ _ => []
  | .grant _ _ => []
  | .exchangeInstant _ => []
  | .exchangeLineDelivery => []
  | .flitReceive _ _ _ => []
  | .flitReplay _ _ => []
  | .flitAck _ _ => []
  | .linkStopEnd _ => []
  | .laneRetirement _ _ _ => []
  | .lkctlRateChange _ _ => []
  | .lkctlRetire _ _ => []
  | .lkctlRetire1 _ _ => []
  | .clockStretch _ _ => []
  | .istateWrite _ _ => []
  | .islandStopEnd _ => []
  | .capStretch _ _ => []
  | .ballastStart _ _ => []
  | .ballastEnd _ => []
  | .hostWindowAccess _ _ => []
  | .submit _ _ => []
  | .hqlid _ => []
  | .ksLoad _ _ => []
  | .ksInvalidate _ => []
  | .ksErase _ => []
  | .peerAccess _ _ => []
  | .reductionWrite _ _ _ _ => []
  | .ualinkPortLoss _ => []
  | .cxlPortError _ _ => []
  | .deviceReset _ => []
  | .bootLoad _ _ _ _ => []
  | .lrtLoad _ => []
  | .lrtUnload => []
  | .xschWrite _ _ => []
  | .shootdownPages _ => []
  | .shootdownTensor _ => []
  | .shootdownContext _ => []
  | .tresumePlace _ => []
  | .tresumeKill _ => []
  | .lctlSave _ => []
  | .lctlKill _ => []
  | .iftStart _ => []
  | .iftComplete _ => []
  | .cfenceClear _ _ => []
  | .emudoneFinish _ => []
  | .emudoneFault _ => []
  | .wake _ _ => []
  | .registerWrite _ _ _ => []
  | .patrolScrub _ _ _ _ => []

/-- The sources of an instruction. -/
def readsOf : Instr → List RegRef
  | .add _ a b => [.g a, .g b]
  | .sub _ a b => [.g a, .g b]
  | .addt _ a b => [.g a, .g b]
  | .subt _ a b => [.g a, .g b]
  | .mul _ a b => [.g a, .g b]
  | .mulh _ a b => [.g a, .g b]
  | .mulhn _ a b => [.g a, .g b]
  | .mult _ a b => [.g a, .g b]
  | .div _ a b => [.g a, .g b]
  | .divn _ a b => [.g a, .g b]
  | .rem _ a b => [.g a, .g b]
  | .remn _ a b => [.g a, .g b]
  | .min _ a b => [.g a, .g b]
  | .max _ a b => [.g a, .g b]
  | .minn _ a b => [.g a, .g b]
  | .maxn _ a b => [.g a, .g b]
  | .and _ a b => [.g a, .g b]
  | .or _ a b => [.g a, .g b]
  | .xor _ a b => [.g a, .g b]
  | .andn _ a b => [.g a, .g b]
  | .orn _ a b => [.g a, .g b]
  | .shl _ a b => [.g a, .g b]
  | .shr _ a b => [.g a, .g b]
  | .sra _ a b => [.g a, .g b]
  | .rol _ a b => [.g a, .g b]
  | .ror _ a b => [.g a, .g b]
  | .clz _ a => [.g a]
  | .ctz _ a => [.g a]
  | .popc _ a => [.g a]
  | .brev _ a => [.g a]
  | .bswap _ a => [.g a]
  | .sextI8 _ a => [.g a]
  | .sextI16 _ a => [.g a]
  | .sextI32 _ a => [.g a]
  | .zextN8 _ a => [.g a]
  | .zextN16 _ a => [.g a]
  | .zextN32 _ a => [.g a]
  | .cmpeq _ a b => [.g a, .g b]
  | .cmpne _ a b => [.g a, .g b]
  | .cmplt _ a b => [.g a, .g b]
  | .cmple _ a b => [.g a, .g b]
  | .cmpltn _ a b => [.g a, .g b]
  | .cmplen _ a b => [.g a, .g b]
  | .tstnz _ a b => [.g a, .g b]
  | .pand _ a b => [.p a, .p b]
  | .por _ a b => [.p a, .p b]
  | .pxor _ a b => [.p a, .p b]
  | .pandn _ a b => [.p a, .p b]
  | .pnot _ a => [.p a]
  | .pset _ a => [.g a]
  | .pget _ a => [.p a]
  | .sel _ a b p => [.g a, .g b, .p p]
  | .lea _ a b _ => [.g a, .g b]
  | .gaddr _ a b => [.g a, .g b]
  | .addi _ a _ => [.g a]
  | .andi _ a _ => [.g a]
  | .ori _ a _ => [.g a]
  | .xori _ a _ => [.g a]
  | .shli _ a _ => [.g a]
  | .shri _ a _ => [.g a]
  | .srai _ a _ => [.g a]
  | .rori _ a _ => [.g a]
  | .cmpeqi _ a _ => [.g a]
  | .cmpnei _ a _ => [.g a]
  | .cmplti _ a _ => [.g a]
  | .cmplei _ a _ => [.g a]
  | .cmpgti _ a _ => [.g a]
  | .cmpgei _ a _ => [.g a]
  | .cmpltni _ a _ => [.g a]
  | .cmpgtni _ a _ => [.g a]
  | .li _ _ => []
  | .lix d _ => [.g d]
  | .b p _ _ _ => [.p p]
  | .call p _ _ _ => [.p p]
  | .jmpr a => [.g a]
  | .callr _ a => [.g a]
  | .loop _ c _ _ => [.g c]
  | .mfs _ _ => []
  | .mts _ s => [.g s]
  | .tshape _ _ _ _ => []
  | .trap _ => []
  | .sret => []
  | .idle => []
  | .nop => []
  | .ld _ a _ _ => [.g a]
  | .st a s _ _ => [.g a, .g s]
  | .lda _ a _ _ _ => [.g a]
  | .str a b _ _ => [.g a, .g b]
  | .fence _ => []
  | .fencea _ => []
  | .fencer _ => []
  | .wbr a b => [.g a, .g b]
  | .invr a b => [.g a, .g b]
  | .discard a b => [.g a, .g b]
  | .pref a b => [.g a, .g b]
  | .aadd _ a b _ _ _ => [.g a, .g b]
  | .aand _ a b _ _ _ => [.g a, .g b]
  | .aor _ a b _ _ _ => [.g a, .g b]
  | .axor _ a b _ _ _ => [.g a, .g b]
  | .amin _ a b _ _ _ => [.g a, .g b]
  | .amax _ a b _ _ _ => [.g a, .g b]
  | .aminn _ a b _ _ _ => [.g a, .g b]
  | .amaxn _ a b _ _ _ => [.g a, .g b]
  | .aswp _ a b _ _ _ => [.g a, .g b]
  | .afadd _ a b _ _ => [.g a, .g b]
  | .acas d a b _ _ _ => [.g a, .g b, .g d]
  | .join a b => [.g a, .g b]
  | .joina a b => [.g a, .g b]
  | .ldlat _ a => [.g a]
  | .ldge _ a b => [.g a, .g b]
  | .tkwait _ => []
  | .tkpost _ => []
  | .qpush _ a => [.g a]
  | .qpop _ _ => []
  | .sclaim _ _ => []
  | .sfill _ a => [.g a]
  | .swfill _ _ => []
  | .srel _ a => [.g a]
  | .swfree _ a => [.g a]
  | .clinit a _ => [.g a]
  | .clexpect a b _ => [.g a, .g b]
  | .clarrive a b _ => [.g a, .g b]
  | .clwait a _ => [.g a]
  | .clbase a => [.g a]
  | .publ => []
  | .rdcad _ => []
  | .locq _ a => [.g a]
  | .launch _ a => [.g a]
  | .pwracq _ => []
  | .pwrrel => []
  | .exit => []
  | .end_ => []
  | .tdesc l _ ga gb => [.g ga, .g gb, .p l.guard]
  | .seqcfg l _ ga gb gc => [.g ga, .g gb, .g gc, .p l.guard]
  | .seqrunCopy l _ _ ga gb => [.g ga, .g gb, .p l.guard]
  | .seqrunGather l _ _ ga gb => [.g ga, .g gb, .p l.guard]
  | .seqrunScatter l _ _ ga gb => [.g ga, .g gb, .p l.guard]
  | .seqrunCpyscl l _ _ ga gb => [.g ga, .g gb, .p l.guard]
  | .copy l _ ga gb gc => [.g ga, .g gb, .g gc, .p l.guard]
  | .copyj l _ ga gb gc => [.g ga, .g gb, .g gc, .p l.guard]
  | .gather l _ ga gb gc _ _ => [.g ga, .g gb, .g gc, .p l.guard]
  | .scatter l _ ga gb gc _ _ => [.g ga, .g gb, .g gc, .p l.guard]
  | .copymc l _ ga gb gc _ => [.g ga, .g gb, .g gc, .p l.guard]
  | .cpyscl l _ ga gb gc => [.g ga, .g gb, .g gc, .p l.guard]
  | .qsend l _ ga _ => [.g ga, .p l.guard]
  | .qrecv l _ ga => [.g ga, .p l.guard]
  | .chwait l _ => [.p l.guard]
  | .chwaitStage l _ ga => [.g ga, .p l.guard]
  | .vaddI _ va vb mk _ => [.v va, .v vb, .m mk]
  | .vsubI _ va vb mk _ => [.v va, .v vb, .m mk]
  | .vmulI _ va vb mk _ => [.v va, .v vb, .m mk]
  | .vaddsI _ va vb mk _ => [.v va, .v vb, .m mk]
  | .vsubsI _ va vb mk _ => [.v va, .v vb, .m mk]
  | .vminI _ va vb mk _ => [.v va, .v vb, .m mk]
  | .vmaxI _ va vb mk _ => [.v va, .v vb, .m mk]
  | .vshlI _ va vb mk _ => [.v va, .v vb, .m mk]
  | .vshrI _ va vb mk _ => [.v va, .v vb, .m mk]
  | .vcmpeqI _ va vb mk _ => [.v va, .v vb, .m mk]
  | .vcmpltI _ va vb mk _ => [.v va, .v vb, .m mk]
  | .vcmpleI _ va vb mk _ => [.v va, .v vb, .m mk]
  | .vaddN _ va vb mk _ => [.v va, .v vb, .m mk]
  | .vsubN _ va vb mk _ => [.v va, .v vb, .m mk]
  | .vmulN _ va vb mk _ => [.v va, .v vb, .m mk]
  | .vaddsN _ va vb mk _ => [.v va, .v vb, .m mk]
  | .vsubsN _ va vb mk _ => [.v va, .v vb, .m mk]
  | .vminN _ va vb mk _ => [.v va, .v vb, .m mk]
  | .vmaxN _ va vb mk _ => [.v va, .v vb, .m mk]
  | .vshlN _ va vb mk _ => [.v va, .v vb, .m mk]
  | .vshrN _ va vb mk _ => [.v va, .v vb, .m mk]
  | .vcmpeqN _ va vb mk _ => [.v va, .v vb, .m mk]
  | .vcmpltN _ va vb mk _ => [.v va, .v vb, .m mk]
  | .vcmpleN _ va vb mk _ => [.v va, .v vb, .m mk]
  | .vand _ va vb mk => [.v va, .v vb, .m mk]
  | .vor _ va vb mk => [.v va, .v vb, .m mk]
  | .vxor _ va vb mk => [.v va, .v vb, .m mk]
  | .vandn _ va vb mk => [.v va, .v vb, .m mk]
  | .vsel _ va vb mk => [.v va, .v vb, .m mk]
  | .vbcst _ a _ mk => [.g a, .m mk]
  | .vshuf _ va vb mk => [.v va, .v vb, .m mk]
  | .vmov _ va mk => [.v va, .m mk]
  | .mand _ ma mb => [.m ma, .m mb]
  | .mor _ ma mb => [.m ma, .m mb]
  | .mxor _ ma mb => [.m ma, .m mb]
  | .mandn _ ma mb => [.m ma, .m mb]
  | .mnot _ ma => [.m ma]
  | .vlane _ va _ => [.v va]
  | .vaddF _ va vb mk _ => [.v va, .v vb, .m mk]
  | .vsubF _ va vb mk _ => [.v va, .v vb, .m mk]
  | .vmulF _ va vb mk _ => [.v va, .v vb, .m mk]
  | .vfma vd va vb mk _ => [.v va, .v vb, .m mk, .v vd]
  | .vminF _ va vb mk _ => [.v va, .v vb, .m mk]
  | .vmaxF _ va vb mk _ => [.v va, .v vb, .m mk]
  | .vcmpeqF _ va vb mk _ => [.v va, .v vb, .m mk]
  | .vcmpltF _ va vb mk _ => [.v va, .v vb, .m mk]
  | .vcmpleF _ va vb mk _ => [.v va, .v vb, .m mk]
  | .vabs _ va mk _ => [.v va, .m mk]
  | .vneg _ va mk _ => [.v va, .m mk]
  | .vexp2 _ va mk => [.v va, .m mk]
  | .vlog2 _ va mk => [.v va, .m mk]
  | .vrcp _ va mk => [.v va, .m mk]
  | .vrsq _ va mk => [.v va, .m mk]
  | .vtanh _ va mk => [.v va, .m mk]
  | .vrsum _ va mk => [.v va, .m mk]
  | .vrmax _ va mk => [.v va, .m mk]
  | .vrmin _ va mk => [.v va, .m mk]
  | .vtopk _ va vb mk => [.v va, .v vb, .m mk, .v (va + 1), .v (vb + 1)]
  | .vcvt _ va _ _ _ _ mk => [.v va, .m mk]
  | .vld l _ a _ mk => [.g a, .m mk, .p l.guard]
  | .vst l v a _ mk => [.v v, .g a, .m mk, .p l.guard]
  | .vqpop l _ mk => [.m mk, .p l.guard]
  | .vqpush l v mk => [.v v, .m mk, .p l.guard]
  | .fmtw l g => [.g g, .p l.guard]
  | .tld l _ g => [.g g, .p l.guard]
  | .tst l _ g => [.g g, .p l.guard]
  | .tqld l _ => [.p l.guard]
  | .tzero l _ => [.p l.guard]
  | .ttrans l _ _ => [.p l.guard]
  | .tcvt l _ _ _ => [.p l.guard]
  | .tmma l _ _ _ => [.p l.guard]
  | .tmmas l _ _ _ g => [.g g, .p l.guard]
  | .tdrain l g _ => [.g g, .p l.guard]
  | .tdrainadd l g _ _ => [.g g, .p l.guard]
  | .hmrd l _ _ => [.p l.guard]
  | .hmclr l _ => [.p l.guard]
  | .vectorFormFinish _ _ => []
  | .syncRendezvous _ => []
  | .stalledBundleIssue _ _ => []
  | .stampedIssue _ => []
  | .scheduleMiss _ => []
  | .matrixCommandStart _ _ _ => []
  | .matrixCommandFinish _ => []
  | .hallmarkCompare _ _ => []
  | .assayStart _ => []
  | .assayVerdict _ _ => []
  | .locketRelease _ _ _ _ => []
  | .channelCommandStart _ _ => []
  | .copyPiece _ _ => []
  | .pieceArrival _ _ _ => []
  | .sequencerEmission _ _ => []
  | .multicastArrival _ => []
  | .watermarkRelease _ _ => []
  | .channelCommandFinish _ _ => []
  | .chwaitFinish _ => []
  | .strandWaitEnd _ _ => []
  | .claspWaitPass _ _ => []
  | .claspTimeout _ _ => []
  | .latticeWaitPass _ _ => []
  | .latticeTimeout _ _ => []
  | .powerGrant _ _ _ => []
  | .trapDelivery _ _ => []
  | .handlerTimeout _ _ => []
  | .taskRetire _ => []
  | .walkerPlace _ => []
  | .saveComplete _ => []
  | .restoreIssueStart _ => []
  | .launchComplete _ => []
  | .homeSliceAccess _ _ => []
  | .rds _ _ => []
  | .rdx _ _ => []
  | .upg _ _ => []
  | .putc _ _ => []
  | .putm _ _ => []
  | .directoryAck _ _ => []
  | .inv _ _ => []
  | .recallS _ _ => []
  | .recallI _ _ => []
  | .grant _ _ => []
  | .exchangeInstant _ => []
  | .exchangeLineDelivery => []
  | .flitReceive _ _ _ => []
  | .flitReplay _ _ => []
  | .flitAck _ _ => []
  | .linkStopEnd _ => []
  | .laneRetirement _ _ _ => []
  | .lkctlRateChange _ _ => []
  | .lkctlRetire _ _ => []
  | .lkctlRetire1 _ _ => []
  | .clockStretch _ _ => []
  | .istateWrite _ _ => []
  | .islandStopEnd _ => []
  | .capStretch _ _ => []
  | .ballastStart _ _ => []
  | .ballastEnd _ => []
  | .hostWindowAccess _ _ => []
  | .submit _ _ => []
  | .hqlid _ => []
  | .ksLoad _ _ => []
  | .ksInvalidate _ => []
  | .ksErase _ => []
  | .peerAccess _ _ => []
  | .reductionWrite _ _ _ _ => []
  | .ualinkPortLoss _ => []
  | .cxlPortError _ _ => []
  | .deviceReset _ => []
  | .bootLoad _ _ _ _ => []
  | .lrtLoad _ => []
  | .lrtUnload => []
  | .xschWrite _ _ => []
  | .shootdownPages _ => []
  | .shootdownTensor _ => []
  | .shootdownContext _ => []
  | .tresumePlace _ => []
  | .tresumeKill _ => []
  | .lctlSave _ => []
  | .lctlKill _ => []
  | .iftStart _ => []
  | .iftComplete _ => []
  | .cfenceClear _ _ => []
  | .emudoneFinish _ => []
  | .emudoneFault _ => []
  | .wake _ _ => []
  | .registerWrite _ _ _ => []
  | .patrolScrub _ _ _ _ => []

/-- The two instructions of a bundle write a register, predicate or mask in common (R47). -/
def sameDest (i j : Instr) : Bool := (writesOf i).any fun r => (writesOf j).contains r

end Sys2Proof.Machine
end

