-- ==== Sys2Proof/Machine/Bundle.lean ====
section
/-! DEFINITION. Issuing a bundle (02 R45 to R48, R55, R56), the rendezvous, hardware-loop ends (05 R137), performance counts
(10 R267) and the overdraw check (17 R396). -/

namespace Sys2Proof.Machine

/-! Counters and charges. -/

/-- The port width of a typed buffer in bytes a cycle (R269); none for another path. -/
def portWidth (path : Nat) : Option Nat :=
  match path with
  | 8 => some 256 | 9 => some 128 | 10 => some 512 | _ => none

/-- Local matrix cycles of a tile move at an address (R167). -/
def moveCycles (a tsh : Word) : Nat :=
  match portWidth (bits a 60 4) with
  | some w => (64 * bits tsh 0 6 + w - 1) / w
  | none => Config.pathCycles a.toNat

/-- The local cycles of a command on the format word at the head of the queue (R167). -/
def State.mmaCycles (s : State) : Nat :=
  match s.old.st.fq with
  | [] => 0
  | w :: _ => if bits w 28 4 = 4 then 8 else if 9 ≤ bits w 28 4 ∨ 9 ≤ bits w 24 4 then Config.pathCycles w.toNat else 16

/-- The charge of one instruction, 0 for one that R396 does not list, for a long form its guard nullifies (R51), and for a command that
has been emulated, which its request has charged (R349), in level-ticks. -/
def State.chargeOf (s : State) (i : Instr) : Nat :=
  if s.cur.clu = .m ∧ s.old.en.emulDone then 0
  else
  match i with
  | .tmma l _ _ _ => if s.p l.guard then 240 * s.mmaCycles else 0
  | .tmmas l _ _ _ _ => if s.p l.guard then 240 * s.mmaCycles else 0
  | .tdrain l _ _ => if s.p l.guard then 60 * 8 else 0
  | .tdrainadd l _ _ _ => if s.p l.guard then 60 * 8 else 0
  | .tcvt l _ _ _ => if s.p l.guard then 60 * 8 else 0
  | .ttrans l _ _ => if s.p l.guard then 60 * 8 else 0
  | .tld l t g => if s.p l.guard then 60 * moveCycles (s.g g) (vget s.old.st.tsh t) else 0
  | .tst l t g => if s.p l.guard then 60 * moveCycles (s.g g) (vget s.old.st.tsh t) else 0
  | .tqld l t => if s.p l.guard then 60 * Config.pathCycles t.val else 0
  | .vexp2 .. => 16
  | .vlog2 .. => 16
  | .vrcp .. => 16
  | .vrsq .. => 16
  | .vtanh .. => 16
  | .vtopk .. => 16
  | .vld l _ _ _ _ => if s.p l.guard then 8 else 0
  | .vst l _ _ _ _ => if s.p l.guard then 8 else 0
  | .vqpop l _ _ => if s.p l.guard then 8 else 0
  | .vqpush l _ _ => if s.p l.guard then 8 else 0
  | _ => if vectorMajor (majorOfInstr i) then 8 else 0

/-- The charges of the last 256 ticks (R396). -/
def CoreRegs.draw (r : CoreRegs) (now : Nat) : Nat :=
  r.charges.foldl (fun n c => if now < c.1 + 256 then n + c.2 else n) 0

/-- The default allowance of a core's die (R394). -/
def State.defLevel (s : State) (k : Fin 768) : Nat := bits (s.dev (0xF50 + (dieOf k).val)) 24 8

/-- The allowance of a core (R396). -/
def State.allowance (s : State) (k : Fin 768) : Nat :=
  let l := (s.core k).rg.pwrlvl.toNat
  if l = 0 then s.defLevel k else l

/-- A charge would raise the estimate above the allowance (R396). -/
def State.overdraws (s : State) (k : Fin 768) (charge : Nat) : Bool :=
  decide (256 * s.allowance k < (s.core k).rg.draw s.cadence.toNat + charge)

/-- The charge is issued. -/
def State.charge (s : State) (k : Fin 768) (charge : Nat) : State :=
  s.onCore k fun c =>
    { c with rg := { c.rg with charges := (s.cadence.toNat, charge) :: c.rg.charges.filter fun e => decide (s.cadence.toNat < e.1 + 256) } }

/-! When a cluster may issue. -/

/-- The island of a core (R380). -/
def islandOf (k : Fin 768) : Fin 76 := ⟨k.val / 96 * 9 + k.val % 96 / 12, by omega⟩

/-- The island of a core runs: P0 to P3 and not stopped (R381, R392, R393). -/
def State.running (s : State) (k : Fin 768) : Bool :=
  let i := vget s.plat.islands (islandOf k)
  decide (i.state.toNat ≤ 3) && !i.stop

/-- A save of the core's task is requested (R351). -/
def State.saveWanted (s : State) (k : Fin 768) : Bool := (s.core k).save.isSome

/-- A save stops the core's clusters and channels: each has had its next boundary, at the latest one tick after the request (R351, R337,
19 R414; notes/assumptions/106.md). -/
def State.saveStops (s : State) (k : Fin 768) : Bool :=
  match (s.core k).save with
  | some r => decide (r.tick + 1 < s.cadence.toNat)
  | none => false

/-- The cluster may attempt its next bundle (R240, R241, R347, R349, R350, R351, R355, R366, R381). -/
def State.canIssue (s : State) (k : Fin 768) (x : Clu) : Bool :=
  let c := s.core k
  let u := c.clu x
  c.task.isSome && c.term.isNone && !c.restoring && !u.ended && !u.halted && !u.idle &&
    (u.inh || (!u.stopped && !s.saveStops k)) && !(!u.inh && c.pend.any fun e => e.1 == x) && !(x == .m && c.en.emul.isSome && !c.en.emulDone) && s.running k

/-- What ends `IDLE`: the wake latch, or inside a handler a pending save (R347). -/
def State.endIdle (s : State) (k : Fin 768) (x : Clu) : State :=
  let u := (s.core k).clu x
  if u.idle && u.wake then s.onCore k fun c => c.onClu x fun u => { u with idle := false, wake := false }
  else if u.idle && u.inh && s.saveWanted k then s.onCore k fun c => c.onClu x fun u => { u with idle := false }
  else s

/-! Interlocks of issued forms (R191, R352). -/

/-- Two lists of registers share one; g0, p0 and m0 hold nothing. -/
def sharesReg (a b : List RegRef) : Bool :=
  a.any fun r => r != .g 0 && r != .p 0 && r != .m 0 && b.contains r

/-- A `CHWAIT` in either form. -/
def isChwait (i : Instr) : Bool :=
  match i with
  | .chwait .. => true
  | .chwaitStage .. => true
  | _ => false

/-- The vector register of a form of major 0x36: bundles that read or write it wait for the form (R191). -/
def formReg (i : Instr) : List RegRef :=
  match i with
  | .vld _ v _ _ _ => [.v v]
  | .vst _ v _ _ _ => [.v v]
  | .vqpop _ v _ => [.v v]
  | .vqpush _ v _ => [.v v]
  | _ => []

/-- The instruction must wait for an issued, unfinished form of its cluster (R172, R191), or for the `CHWAIT` before it (R197); one that
waits outside a handler does not hold the handler that a trap enters (notes/assumptions/22.md). -/
def Core.interlocked (k : Core) (x : Clu) (i : Instr) : Bool :=
  let w := writesOf i
  let r := readsOf i
  (k.en.forms.any fun f => f.clu == x && isChwait f.i && f.handler == (k.clu x).inh) ||
  (k.en.forms.any fun f => f.clu == x && (sharesReg (formReg f.i) w || sharesReg (formReg f.i) r)) ||
    (x == .m && (k.en.mq.any fun q => sharesReg (writesOf q.i) w || sharesReg (writesOf q.i) r) ||
      x == .m && (k.en.mrun.any fun q => sharesReg (writesOf q.cmd.i) w || sharesReg (writesOf q.cmd.i) r))

/-! Holds of the matrix cluster by its own earlier commands (06 R175). -/

/-- The matrix cluster is held by its own earlier commands, and has been without a break. -/
def Cluster.holdOn (c : Cluster) (now : Nat) : Cluster :=
  { c with hold := match c.hold with
      | some (a, none) => some (a, none)
      | some (a, some b) => some (if b = now then a else now, none)
      | none => some (now, none) }

/-- The hold of the matrix cluster by its own earlier commands is over. -/
def Cluster.holdOff (c : Cluster) (now : Nat) : Cluster :=
  { c with hold := match c.hold with
      | some (a, none) => some (a, some now)
      | h => h }

/-- The hold by its own earlier commands covered a tick. -/
def Cluster.holdCovers (c : Cluster) (tick : Nat) : Bool :=
  match c.hold with
  | some (a, none) => decide (a ≤ tick)
  | some (a, some b) => decide (a ≤ tick) && decide (tick ≤ b)
  | none => false

/-! Loop ends (R137, R138, R229). -/

/-- The clasp base after a repeat of level j: ROT advances when ADVLV names the level (R229). -/
def advanceRot (clb : Word) (j : Nat) : Word :=
  let d := bits clb 8 8
  if d ≠ 0 ∧ bits clb 32 3 = j then (clb &&& ~~~0xFF00_0000#64) ||| BitVec.ofNat 64 ((bits clb 24 8 + 1) % d * 2 ^ 24) else clb

/-- The level whose LPC an instruction writes by `MTS`. -/
def writesLpc (i : Instr) : Option Nat :=
  match i with
  | .mts n _ => if 0xC8 ≤ n.toNat ∧ n.toNat ≤ 0xCB then some (n.toNat - 0xC8) else none
  | _ => none

/-- The levels n - 1 down to 0 act at the end bundle, with the registers `o` as they stood before it; `wrote` is the level
whose count the bundle writes (R137, R138). A clasp base that the end bundle itself sets is the one its repeat advances (DESIGN CHOICE,
notes/assumptions/103.md). -/
def loopEnd (o : Cluster) (bpc : Word) (wrote : Option Nat) (c : Cluster) : Nat → Cluster
  | 0 => c
  | j + 1 =>
    let l : Fin 4 := Fin.ofNat 4 j
    let n := vget o.lpc l
    let put (x : Word) : Cluster := if wrote = some j then c else { c with lpc := vset c.lpc l x }
    if n ≠ 0 ∧ vget o.lpe l = bpc then
      if n = 1 then loopEnd o bpc wrote (put 0) j
      else { put (n - 1) with pc := vget o.lps l, pcReg := true, lineRoom := maxLines, clb := advanceRot c.clb j }
    else loopEnd o bpc wrote c j

/-! One bundle. -/

/-- An instruction of a bundle with its words. -/
structure Part where
  i : Instr
  w0 : Nat
  w1 : Nat

/-- A precise fault met before any instruction acts (R56). -/
def State.refuseBundle (s : State) (cause detail : Nat) (addr : Word) (w0 w1 : Nat) : Out :=
  let t : Trap := { clu := s.cur.clu, cause := cause, detail := detail, async := decide (cause = 0x21), addr := trapAddr cause addr,
                    info := if cause = 0x21 then 0 else BitVec.ofNat 32 w0 ++ BitVec.ofNat 32 w1 }
  .next { s.deliver s.cur.core s.cur.clu t s.cl.pc with report := .trapped }

/-- The instructions of a fetched bundle, or the cause and the words of the fault (R47, R55, R182). -/
def decodeBundle (x : Clu) (f : Fetched) : Except (Nat × Nat × Nat) (List Part) :=
  let one (w : Nat × Nat) : Except (Nat × Nat × Nat) Part :=
    match decodeChecked x w with
    | .ok i => .ok ⟨i, w.1, w.2⟩
    | .error c => .error (c, w.1, w.2)
  match f.second with
  | none => do .ok [← one f.first]
  | some w =>
    let a := majorOf f.first.1
    let b := majorOf w.1
    if majorAssigned a && majorAssigned b && !pairMajorsOk a b then .error (4, f.first.1, f.first.2)
    else do
      let p ← one f.first
      let q ← one w
      if sameDest p.i q.i then .error (4, f.first.1, f.first.2) else .ok [p, q]

/-- One instruction of the bundle executes. -/
def State.runPart (ex : Instr → State → Out) (s : State) (p : Part) : Out :=
  ex p.i { s with ir := { s.ir with w0 := BitVec.ofNat 32 p.w0, w1 := BitVec.ofNat 32 p.w1 }, report := .issued }

/-- The instructions execute one after another; the first that stalls or traps decides. -/
def State.runParts (ex : Instr → State → Out) (s : State) : List Part → Out
  | [] => .next s
  | p :: ps =>
    match s.runPart ex p with
    | .next t =>
      (match t.report with
      | .issued => State.runParts ex t ps
      | .branched => (match State.runParts ex t ps with
        | .next u => .next { u with report := if u.report = .issued then .branched else u.report }
        | o => o)
      | _ => .next t)
    | o => o

/-- The parts in the order they act: a simple instruction before a memory or long one, which acts outside the core and so
must not act before the other has shown that it faults (R126). -/
def orderParts : List Part → List Part
  | [p, q] => if classOf (majorOf p.w0) = .s then [p, q] else [q, p]
  | ps => ps

/-- A second pass is due when the first word is not the first to act. -/
def firstRefuses (ex : Instr → State → Out) (s : State) : List Part → Option Out
  | p :: _ :: _ =>
    match s.runPart ex p with
    | .next t => if t.report = .trapped then some (.next t) else none
    | o => some o
  | _ => none

/-- The bundle has issued: counts, charge, and the loop ends of R137. -/
def State.endBundle (s : State) (o : Core) (ps : List Part) (sync : Bool) (charge : Nat) : State :=
  let x := s.cur.clu
  let bpc := s.ir.bpc
  let oc := o.clu x
  let wrote := ps.findSome? fun p => writesLpc p.i
  let s := if s.report = .branched then s else s.onCl fun c => loopEnd oc bpc wrote c 4
  let s := s.onCl fun c =>
    { c.holdOff s.cadence.toNat with stampSeen := none, syncs := if sync then c.syncs + 1 else c.syncs, atSync := false, claspKept := if oc.inh then c.claspKept else none }
  let s := s.onMe fun k => k.count 3 x 1
  { (s.charge s.cur.core charge) with latch := none }

/-- The bundle executes, with every register read as it stood before (R12), and takes effect as a whole or not at all. -/
def State.execBundle (ex : Instr → State → Out) (s : State) (f : Fetched) (ps : List Part) (sync : Bool) : Out :=
  let o := s.me
  let x := s.cur.clu
  if ps.any fun p => o.interlocked x p.i then
    .next { (if x = .m then s.onCl fun c => c.holdOn s.cadence.toNat else s) with report := .stalled }
  else
    let t := { s with latch := some o, ir := { s.ir with bpc := f.addr, npc := f.npc, w0 := 0, w1 := 0 } }
    let t := t.onCl fun c => { c with pc := f.npc, pcReg := false, lineRoom := maxLines + 1 }
    match firstRefuses ex t ps with
    | some (.next u) => .next { u with latch := none }
    | some out => out
    | none =>
      match t.runParts ex (orderParts ps) with
      | .next u =>
        if u.report = .stalled ∨ u.report = .trapped ∨ u.report = .idle then .next { u with latch := none }
        else
          let charge := max 1 (ps.foldl (fun n p => n + t.chargeOf p.i) 0)
          if s.overdraws s.cur.core charge then
            (match ps with
            | p :: _ => s.refuseBundle 0x1B 0 0 p.w0 p.w1
            | [] => .next s)
          else .next (u.endBundle o ps sync charge)
      | out => out

/-- The end address of an active level, the highest first, that fails R42: fetch uses it when it compares the next bundle's address with
it (R44, R138). In a handler it is not used (DESIGN CHOICE, notes/assumptions/91.md). -/
def Cluster.badEnd (c : Cluster) : Option Word :=
  if c.inh then none
  else ([3, 2, 1, 0] : List (Fin 4)).findSome? fun l =>
    if vget c.lpc l ≠ 0 ∧ !codeAddrOk (vget c.lpe l) then some (vget c.lpe l) else none

/-- The next bundle of a cluster, fetched and decoded: the core with its pc at the bundle, or the fault it meets. -/
def State.nextBundle (s : State) : Except FetchError (State × Fetched) := do
  let c := s.cl
  if c.pcBad then .error ⟨5, 7, c.pc, 0, 0⟩
  else
  let (a, l, n) ← s.normalise (s.me.fetcher s.cur.core s.cur.clu) c.pc c.pcReg c.lineRoom
  match c.badEnd with
  | some e => .error ⟨5, 6, e, 0, 0⟩
  | none => do
  let f ← parseBundle a l
  .ok (s.onCl fun c => { c with pc := a, pcReg := false, lineRoom := n + 1 }, f)

/-- The cluster with its pc at the bundle that fetch reaches from it, where it reaches one and no branch target is at fault (R345). -/
def State.settledPc (s : State) (k : Fin 768) (x : Clu) : State :=
  let c := (s.core k).clu x
  if c.pcBad then s
  else match s.normalise ((s.core k).fetcher k x) c.pc c.pcReg c.lineRoom with
    | .ok (a, _, n) => s.onCore k fun d => d.onClu x fun u => { u with pc := a, pcReg := false, lineRoom := n + 1 }
    | .error _ => s

/-- A cluster's attempt at its next bundle; `meet` when its rendezvous may complete. A sync bundle waits otherwise (R48);
inside a handler the S bit is disregarded (R345). -/
def State.tryBundle (ex : Instr → State → Out) (s : State) (k : Fin 768) (x : Clu) (meet : Bool) : Out :=
  let s := { (s.endIdle k x) with cur := { core := k, clu := x }, latch := none }
  if !s.canIssue k x then .next { s with report := .idle }
  else
    match s.nextBundle with
    | .error e => (s.settledPc k x).refuseBundle e.cause e.detail e.addr e.w0 e.w1
    | .ok (t, f) =>
      match decodeBundle x f with
      | .error (c, w0, w1) => t.refuseBundle c 0 0 w0 w1
      | .ok ps =>
        let sync := f.sync && !t.cl.inh
        if sync && !meet then .next { (t.onCl fun c => { c with atSync := true }) with report := .stalled }
        else t.execBundle ex f ps sync

/-! The rendezvous (R48). -/

/-- The four clusters in the order of their codes. -/
def allClusters : List Clu := [.c, .a, .v, .m]

/-- Under DET a rendezvous orders what each live cluster did before it before what each does after it (R263). -/
def Core.meetClocks (c : Core) : Core :=
  c.onCheck fun ck =>
    let j := allClusters.foldl (fun j x => Clock.join j (ck.clock (c.cluAgent x))) []
    allClusters.foldl (fun ck x => (ck.acquire (c.cluAgent x) j).tick (c.cluAgent x)) ck

/-- The next bundle of the cluster is a sync bundle, outside a handler. -/
def State.syncNext (s : State) (k : Fin 768) (x : Clu) : Bool :=
  let s := { s with cur := { core := k, clu := x }, latch := none }
  s.canIssue k x && !s.cl.inh &&
    match s.nextBundle with
    | .ok (_, f) => f.sync
    | .error _ => false

/-- The state with nothing but a trap of a cluster taken from another: what a trap changes of the cluster and of its core, and the saves
it has requested of other cores (R345, R350, R351). -/
def State.trapOf (s u : State) (k : Fin 768) (x : Clu) : State :=
  let c := u.core k
  let t := s.onCore k fun d => { (d.onClu x fun _ => c.clu x) with term := c.term, pend := c.pend }
  { t with cores := Vector.ofFn fun i : Fin 768 => { t.core i with save := (u.core i).save }, report := .trapped }

/-- Every cluster's sync bundle is tried on its own, against the state before the rendezvous: the trap that one of them raises, as it
takes it when it is tried alone, or whether all can issue, with the waits that those which cannot have begun (R48, R176, R230, R234,
R239, R349, R351). The rendezvous is tried, and so a fault of a sync bundle is raised and a wait of one begins, once every live cluster
stands at its sync bundle (DESIGN CHOICE, notes/assumptions/93.md). -/
def State.tryMeet (ex : Instr → State → Out) (k : Fin 768) : List Clu → State → Bool → Except State (State × Bool)
  | [], s, ok => .ok (s, ok)
  | x :: xs, s, ok =>
    match (s.onCore k Core.meetClocks).tryBundle ex k x true with
    | .next u =>
      (match u.report with
      | .issued | .branched => State.tryMeet ex k xs s ok
      | .trapped => .error (match s.tryBundle ex k x true with
        | .next v => if v.report = .trapped then v else s.trapOf u k x
        | _ => s.trapOf u k x)
      | _ => State.tryMeet ex k xs (match s.tryBundle ex k x true with
        | .next v => if v.report = .stalled then v else s
        | _ => s) false)
    | _ => State.tryMeet ex k xs s false

/-- A cluster's sync bundle, as it stood fetched before the rendezvous, issues in the state its peers' bundles have left. -/
def State.meetOne (ex : Instr → State → Out) (s t : State) (k : Fin 768) (x : Clu) : Out :=
  match ({ s with cur := { core := k, clu := x }, latch := none } : State).nextBundle with
  | .error _ => .next { t with report := .idle }
  | .ok (_, f) =>
    match decodeBundle x f with
    | .error _ => .next { t with report := .idle }
    | .ok ps =>
      let u : State := { t with cur := { core := k, clu := x }, latch := none }
      (u.onCl fun c => { c with pc := f.addr, pcReg := false }).execBundle ex f ps true

/-- The bundles of a rendezvous issue together, on each other's results in the order of a list; none does unless all do. One that faults
beside the others leaves them waiting. -/
def State.meetAll (ex : Instr → State → Out) (s : State) (k : Fin 768) : List Clu → State → Out
  | [], t => .next { t with report := .issued }
  | x :: xs, t =>
    match s.meetOne ex t k x with
    | .next u =>
      (match u.report with
      | .issued | .branched => s.meetAll ex k xs u
      | .trapped => .next (s.trapOf u k x)
      | _ => .next { s with report := .stalled })
    | o => o

/-- A list with an item put in at every place, the front first. -/
def insertions {α : Type} (x : α) : List α → List (List α)
  | [] => [[x]]
  | y :: ys => (x :: y :: ys) :: (insertions x ys).map (y :: ·)

/-- The orders of a list, its own first. -/
def orders {α : Type} : List α → List (List α)
  | [] => [[]]
  | x :: xs => (orders xs).flatMap (insertions x)

/-- The bundles have all issued. -/
def hasMet (o : Out) : Bool :=
  match o with
  | .next t => t.report == .issued
  | _ => false

/-- The bundles of a rendezvous in the first order in which every one issues; in their own where there is none. What one of them takes
from another's wait is so no reason for the rendezvous to fail (R48; notes/assumptions/93.md). -/
def State.meetAny (ex : Instr → State → Out) (s : State) (k : Fin 768) (live : List Clu) : Out :=
  let t := s.onCore k Core.meetClocks
  s.meetAll ex k (((orders live).find? fun l => hasMet (s.meetAll ex k l t)).getD live) t

/-- The rendezvous of a core's live clusters (R48): tried, and a fault of a sync bundle raised, only once every one of them stands at its
sync bundle (DESIGN CHOICE, notes/assumptions/93.md). The control cluster's bundle acts last where it can, so that an `EXIT` finds ended
a cluster whose `END` issues with it (notes/assumptions/93.md). -/
def State.rendezvous (ex : Instr → State → Out) (s : State) (k : Fin 768) : Out :=
  let live := [Clu.a, .v, .m, .c].filter fun x => !((s.core k).clu x).ended
  if live.isEmpty || !(live.all fun x => s.syncNext k x) then .next { s with report := .stalled }
  else
    match State.tryMeet ex k live s true with
    | .error u => .next u
    | .ok (t, false) => .next { t with report := .stalled }
    | .ok (_, true) => s.meetAny ex k live

/-- A cluster's turn: its bundle, or the rendezvous its sync bundle waits for. -/
def State.runBundle (ex : Instr → State → Out) (s : State) (k : Fin 768) (x : Clu) : Out :=
  match s.tryBundle ex k x false with
  | .next t =>
    if ((t.core k).clu x).atSync && t.syncNext k x then
      (match t.rendezvous ex k with
      | .next u => .next { u with latch := none }
      | o => o)
    else .next t
  | o => o

end Sys2Proof.Machine
end

