-- ==== Sys2Proof/Machine/Flags.lean ====
section
/-! DEFINITION. The flags: the sticky bits of AFLAGS (04 R113) and the signed ranges of the scalar faults (05 R127). -/

namespace Sys2Proof.Machine

/-- AFLAGS.INV. -/
def INV : BitVec 8 := 1
/-- AFLAGS.OVF. -/
def OVF : BitVec 8 := 2
/-- AFLAGS.ISAT. -/
def ISAT : BitVec 8 := 4
/-- AFLAGS.FMTV. -/
def FMTV : BitVec 8 := 8

/-- An exact result lies in the signed 64-bit range (R127). -/
def fitsS64 (x : Int) : Bool := decide (-2 ^ 63 ≤ x) && decide (x < 2 ^ 63)

/-- A flag where a condition holds. -/
def flagIf (c : Bool) (f : BitVec 8) : BitVec 8 := if c then f else 0

end Sys2Proof.Machine
end

