-- ==== Sys2Proof/Machine/Numbers.lean ====
section
/-! DEFINITION. Number formats and exact arithmetic (04): elements as exact values, one rounding, conversions, group sums
and accumulation. A value is (-1)^neg * m * 2^x. -/

namespace Sys2Proof.Machine

/-- An element read exactly (R103 to R108). -/
inductive Val where
  | nan
  | inf (neg : Bool)
  | fin (neg : Bool) (m : Nat) (x : Int)
  deriving DecidableEq, Repr

/-- How a floating format spends its top exponent (R103). -/
inductive Top where
  /-- Infinity at fraction 0, NaN elsewhere. -/
  | ieee
  /-- NaN at the all-ones fraction only. -/
  | e4m3
  /-- Finite values only. -/
  | none
  deriving DecidableEq, Repr

/-- A floating format: fraction bits, exponent bits, bias (R102, R103). -/
structure FloatFmt where
  p : Nat
  eb : Nat
  bias : Nat
  top : Top
  deriving DecidableEq, Repr

def f32 : FloatFmt := { p := 23, eb := 8, bias := 127, top := .ieee }
def f16 : FloatFmt := { p := 10, eb := 5, bias := 15, top := .ieee }
def bf16 : FloatFmt := { p := 7, eb := 8, bias := 127, top := .ieee }
def e4m3 : FloatFmt := { p := 3, eb := 4, bias := 7, top := .e4m3 }
def e5m2 : FloatFmt := { p := 2, eb := 5, bias := 15, top := .ieee }
def e2m1 : FloatFmt := { p := 1, eb := 2, bias := 1, top := .none }
def e2m3 : FloatFmt := { p := 3, eb := 2, bias := 1, top := .none }
def e3m2 : FloatFmt := { p := 2, eb := 3, bias := 3, top := .none }

/-- A source or destination of a conversion. -/
inductive Fmt where
  | float (f : FloatFmt)
  | log6
  | int (w : Nat) (signed : Bool)
  deriving DecidableEq, Repr

/-- The format of an R18 code, 0x9 to 0xB the formats the hardware lacks (R102); other codes read as I8. -/
def fmtOfR18 (c : Nat) : Fmt :=
  match c with
  | 1 => .float e4m3 | 2 => .float e5m2 | 4 => .log6 | 5 => .float bf16 | 6 => .float f16 | 7 => .float f32
  | 8 => .int 32 true | 9 => .float e2m1 | 10 => .float e2m3 | 11 => .float e3m2 | _ => .int 8 true

/-- The format of a vector type code (R80). -/
def fmtOfVec (c : Nat) : Fmt :=
  match c with
  | 9 => .int 8 false | 10 => .int 16 true | 11 => .int 16 false | 12 => .int 32 false | _ => fmtOfR18 c

/-- The element size of an R18 code in bytes; a reserved code counts as one byte (R18, R161). -/
def sizeOfR18 (c : Nat) : Nat := match c with | 5 | 6 => 2 | 7 | 8 => 4 | _ => 1

/-- The element size of a vector type code in bytes (R190). -/
def sizeOfVec (c : Nat) : Nat := match c with | 5 | 6 | 10 | 11 => 2 | 7 | 8 | 12 => 4 | _ => 1

/-! Reading elements. -/

/-- The largest exponent field. -/
def FloatFmt.emax (f : FloatFmt) : Nat := 2 ^ f.eb - 1

/-- Bits of a format's value field. -/
def FloatFmt.width (f : FloatFmt) : Nat := f.p + f.eb + 1

/-- A floating element read (R103, R104). -/
def FloatFmt.read (f : FloatFmt) (b : Nat) : Val :=
  let s := decide (b / 2 ^ (f.p + f.eb) % 2 = 1)
  let e := b / 2 ^ f.p % 2 ^ f.eb
  let m := b % 2 ^ f.p
  if e = f.emax ∧ f.top = .ieee then (if m = 0 then .inf s else .nan)
  else if e = f.emax ∧ f.top = .e4m3 ∧ m = 2 ^ f.p - 1 then .nan
  else if e = 0 then .fin s m (1 - (f.bias : Int) - f.p)
  else .fin s (2 ^ f.p + m) ((e : Int) - f.bias - f.p)

/-- The table of LOG6 (R107). -/
def log6Table (f : Nat) : Nat := match f % 4 with | 0 => 256 | 1 => 304 | 2 => 362 | _ => 431

/-- A LOG6 byte read at its table value; a byte with bit 7 or 6 set is NaR (R106 to R108). -/
def log6Read (b : Nat) : Val :=
  if 64 ≤ b ∨ b = 32 then .nan
  else if b = 0 then .fin false 0 0
  else .fin (decide (32 ≤ b)) (log6Table (b % 32)) ((b % 32 / 4 : Nat) - 12)

/-- A two's complement or unsigned integer read. -/
def intOf (w : Nat) (signed : Bool) (b : Nat) : Int :=
  let b := b % 2 ^ w
  if signed ∧ 2 ^ (w - 1) ≤ b then (b : Int) - 2 ^ w else b

/-- An integer as a value. -/
def valOfInt (x : Int) : Val := .fin (decide (x < 0)) x.natAbs 0

/-- An element read, with the FMTV flag of R108. -/
def Fmt.read (f : Fmt) (b : Nat) : Val × BitVec 8 :=
  match f with
  | .float g =>
    if g.top = .none ∧ 2 ^ g.width ≤ b then (.nan, FMTV) else (g.read b, 0)
  | .log6 => (log6Read b, flagIf (decide (64 ≤ b)) FMTV)
  | .int w s => (valOfInt (intOf w s b), 0)

/-! Rounding (R119). Modes: 0 RNE, 1 RTZ, 2 SR with the draw u. -/

/-- The quotient of m by 2^k, with the rest decided by the rounding mode (R119). -/
def roundShift (m k mode u : Nat) : Nat :=
  let n := m / 2 ^ k
  let r := m % 2 ^ k
  if r = 0 then n
  else if mode = 0 then
    (if 2 ^ k < 2 * r then n + 1 else if 2 * r = 2 ^ k then n + n % 2 else n)
  else if mode = 1 then n
  else if 2 ^ 32 ≤ r * 2 ^ 32 / 2 ^ k + u then n + 1 else n

/-- The bits of a sign. -/
def FloatFmt.signBit (f : FloatFmt) (neg : Bool) : Nat := neg.toNat * 2 ^ (f.p + f.eb)

/-- The canonical NaN (R103, R105). -/
def FloatFmt.nan (f : FloatFmt) : Nat :=
  match f.top with
  | .ieee => f.emax * 2 ^ f.p + 2 ^ (f.p - 1)
  | .e4m3 => f.emax * 2 ^ f.p + 2 ^ f.p - 1
  | .none => 0

/-- Infinity of an IEEE-style format. -/
def FloatFmt.inf (f : FloatFmt) (neg : Bool) : Nat := f.signBit neg + f.emax * 2 ^ f.p

/-- The largest finite value of a sign (R103). -/
def FloatFmt.maxFin (f : FloatFmt) (neg : Bool) : Nat :=
  f.signBit neg + match f.top with
    | .ieee => f.emax * 2 ^ f.p - 1
    | .e4m3 => f.emax * 2 ^ f.p + 2 ^ f.p - 2
    | .none => f.emax * 2 ^ f.p + 2 ^ f.p - 1

/-- The result of an overflow (R119). -/
def FloatFmt.overflow (f : FloatFmt) (neg : Bool) (mode : Nat) (sa : Bool) : Nat :=
  if sa ∨ mode = 1 then f.maxFin neg
  else match f.top with
    | .ieee => f.inf neg
    | .e4m3 => f.signBit neg + f.nan
    | .none => f.maxFin neg

/-- The flags of an overflow: OVF, and INV where its result is a NaN (R113). -/
def FloatFmt.overflowFlags (f : FloatFmt) (neg : Bool) (mode : Nat) (sa : Bool) : BitVec 8 :=
  OVF ||| flagIf (decide (f.read (f.overflow neg mode sa) = .nan)) INV

/-- `round_to` of R119 on the exact value (-1)^neg * m * 2^x, with its flags. -/
def FloatFmt.round (f : FloatFmt) (neg : Bool) (m : Nat) (x : Int) (mode : Nat) (sa : Bool) (u : Nat) : Nat × BitVec 8 :=
  if m = 0 then (f.signBit neg, 0)
  else
    let xmin : Int := 1 - (f.bias : Int) - f.p
    let q : Int := max ((Nat.log2 m : Int) + x - f.p) xmin
    let n := if q ≤ x then m * 2 ^ (x - q).toNat else roundShift m (q - x).toNat mode u
    -- n * 2^q, with n at most 2^(p+1)
    let e : Int := if n < 2 ^ f.p then 0 else if n = 2 ^ (f.p + 1) then q - xmin + 2 else q - xmin + 1
    let frac := if n = 2 ^ (f.p + 1) then 0 else n % 2 ^ f.p
    let code := e.toNat * 2 ^ f.p + frac
    if f.maxFin false < code then (f.overflow neg mode sa, f.overflowFlags neg mode sa) else (f.signBit neg + code, 0)

/-- Rounds an exact value: infinities and NaN as R105 and R120 give them for an IEEE-style format. -/
def FloatFmt.ofVal (f : FloatFmt) (v : Val) (mode : Nat) (sa : Bool) (u : Nat) : Nat × BitVec 8 :=
  match v with
  | .nan => (f.nan, 0)
  | .inf n => (f.inf n, 0)
  | .fin n m x => f.round n m x mode sa u

/-! Exact sums and products. -/

/-- The exact sum of two finite values, as an integer over a power of two. -/
def addExact (n₁ : Bool) (m₁ : Nat) (x₁ : Int) (n₂ : Bool) (m₂ : Nat) (x₂ : Int) : Int × Int :=
  let x := min x₁ x₂
  let a : Int := (m₁ * 2 ^ (x₁ - x).toNat : Nat)
  let b : Int := (m₂ * 2 ^ (x₂ - x).toNat : Nat)
  ((if n₁ then -a else a) + (if n₂ then -b else b), x)

/-- The IEEE sum of two values before rounding, with INV (R185, R169): zero sums as R185 gives them. -/
def Val.add (a b : Val) : Val × BitVec 8 :=
  match a, b with
  | .nan, _ => (.nan, 0)
  | _, .nan => (.nan, 0)
  | .inf s, .inf t => if s = t then (.inf s, 0) else (.nan, INV)
  | .inf s, _ => (.inf s, 0)
  | _, .inf t => (.inf t, 0)
  | .fin s m x, .fin t k y =>
    if m = 0 ∧ k = 0 then (.fin (s && t) 0 0, 0)
    else
      let r := addExact s m x t k y
      (.fin (decide (r.1 < 0)) r.1.natAbs r.2, 0)

/-- The value with its sign inverted. -/
def Val.negate : Val → Val
  | .nan => .nan
  | .inf s => .inf !s
  | .fin s m x => .fin (!s) m x

/-- The IEEE product before rounding, with INV (R185). -/
def Val.mul (a b : Val) : Val × BitVec 8 :=
  match a, b with
  | .nan, _ => (.nan, 0)
  | _, .nan => (.nan, 0)
  | .inf s, .inf t => (.inf (s ^^ t), 0)
  | .inf s, .fin t k _ => if k = 0 then (.nan, INV) else (.inf (s ^^ t), 0)
  | .fin s m _, .inf t => if m = 0 then (.nan, INV) else (.inf (s ^^ t), 0)
  | .fin s m x, .fin t k y => (.fin (s ^^ t) (m * k) (x + y), 0)

/-- `fadd_rm` of R169 and, with RNE and sa = 0, `fadd32` of R146: bits and flags. -/
def addF32 (a b mode : Nat) (sa : Bool) (u : Nat) : Nat × BitVec 8 :=
  let r := (f32.read a).add (f32.read b)
  let o := f32.ofVal r.1 mode sa u
  (o.1, o.2 ||| r.2)

/-! Stochastic rounding (R121). -/

/-- `mix64`. -/
def mix64 (key ctr : Word) : Word :=
  let z := ctr ^^^ key
  let z := (z ^^^ (z >>> 31)) * 0x9A6F_3C21_5E8B_47D5#64
  let z := z + key.rotateLeft 23
  let z := (z ^^^ (z >>> 29)) * 0xC4E1_7B93_0D2F_A86B#64
  z ^^^ (z >>> 32)

/-- The bits a draw at a counter gives. -/
def drawBits (key ctr : Word) : Nat := (mix64 key ctr).toNat % 2 ^ 32

/-! Conversions (R120, R122). -/

/-- The comparison m * 2^x ≤ n * 2^y. -/
def leScaled (m : Nat) (x : Int) (n : Nat) (y : Int) : Bool :=
  let z := min x y
  decide (m * 2 ^ (x - z).toNat ≤ n * 2 ^ (y - z).toNat)

/-- The table value of an L, unbounded, in units of 2^-12; L = 0 is zero (R107, R122). -/
def log6Value (l : Nat) : Nat := if l = 0 then 0 else log6Table l * 2 ^ (l / 4)

/-- The largest L at most n whose table value does not exceed m * 2^x. -/
def log6Floor (m : Nat) (x : Int) : Nat → Nat
  | 0 => 0
  | n + 1 => if leScaled (log6Value (n + 1)) (-12) m x then n + 1 else log6Floor m x n

/-- Conversion of a finite value into LOG6 (R122); an overflow to NaR sets INV too (R113). -/
def toLog6 (neg : Bool) (m : Nat) (x : Int) (mode : Nat) (sa : Bool) : Nat × BitVec 8 :=
  if m = 0 then (0, 0)
  else
    let lo := log6Floor m x 32
    let mid := log6Value lo + log6Value (lo + 1)
    let l :=
      if lo = 32 then 32
      else if mode = 1 then lo
      else if leScaled mid (-13) m x then (if leScaled m x mid (-13) then lo + lo % 2 else lo + 1)
      else lo
    let s := if neg then 32 else 0
    if 32 ≤ l then (if sa ∨ mode = 1 then (s + 31, OVF) else (32, OVF ||| INV))
    else if l = 0 then (0, 0)
    else (s + l, 0)

/-- The least and the greatest integer of a width. -/
def intMin (w : Nat) (signed : Bool) : Int := if signed then -2 ^ (w - 1) else 0
def intMax (w : Nat) (signed : Bool) : Int := if signed then 2 ^ (w - 1) - 1 else 2 ^ w - 1

/-- The low bits of an integer. -/
def intBits (w : Nat) (x : Int) : Nat := (x % 2 ^ w).toNat

/-- An integer clamped to a range, with ISAT (R113, R120). -/
def clampInt (w : Nat) (signed : Bool) (x : Int) : Nat × BitVec 8 :=
  let y := max (intMin w signed) (min (intMax w signed) x)
  (intBits w y, flagIf (decide (y ≠ x)) ISAT)

/-- A finite value rounded to an integer (R120). -/
def roundInt (neg : Bool) (m : Nat) (x : Int) (mode u : Nat) : Int :=
  let n := if 0 ≤ x then m * 2 ^ x.toNat else roundShift m (-x).toNat mode u
  if neg then -(n : Int) else n

/-- One conversion (R120): destination bits and flags. -/
def convert (src dst : Fmt) (b mode : Nat) (sa : Bool) (u : Nat) : Nat × BitVec 8 :=
  let (v, fl) := src.read b
  let srcInt : Bool := match src with
    | .int _ _ => true
    | _ => false
  let (r, g) : Nat × BitVec 8 :=
    match dst with
    | .float f =>
      (match v with
      | .nan => if f.top = .none then (0, INV) else (f.nan, 0)
      | .inf n =>
        if f.top = .ieee then (f.inf n, 0)
        else if sa ∨ f.top = .none then (f.maxFin n, INV) else (f.nan, INV)
      | .fin n m x => f.round n m x mode sa u)
    | .log6 =>
      (match v with
      | .nan => (32, 0)
      | .inf n => if sa then ((if n then 63 else 31), INV) else (32, INV)
      | .fin n m x => toLog6 n m x mode sa)
    | .int w s =>
      (match v with
      | .nan => (0, INV)
      | .inf n => (intBits w (if n then intMin w s else intMax w s), INV)
      | .fin n m x =>
        let k := roundInt n m x mode u
        if srcInt && !sa then (intBits w k, 0) else clampInt w s k)
  (r, fl ||| g)

/-! Dot-product groups (R114 to R118). -/

/-- The result of a group. -/
inductive GroupSum where
  /-- NAN, and whether an operand was NaN or NaR. -/
  | nan (input : Bool)
  | inf (neg : Bool)
  /-- G * 2^u. -/
  | fin (g : Int) (u : Int)
  deriving DecidableEq, Repr

/-- The exponent of an element for the window: that of its binade, subnormals in the lowest (R114). -/
def elemExp (f : FloatFmt) (b : Nat) : Int := max ((b / 2 ^ f.p % 2 ^ f.eb : Nat) : Int) 1 - f.bias

/-- What the special values of a group have shown so far (R115). -/
structure Specials where
  nan : Bool
  inv : Bool
  pinf : Bool
  ninf : Bool

/-- The special values of one pair (R115). -/
def Specials.pair (s : Specials) (a b : Val) : Specials :=
  match a, b with
  | .nan, _ => { s with nan := true }
  | _, .nan => { s with nan := true }
  | .fin _ 0 _, .inf _ => { s with inv := true }
  | .inf _, .fin _ 0 _ => { s with inv := true }
  | .inf x, .inf y => if x ^^ y then { s with ninf := true } else { s with pinf := true }
  | .inf x, .fin y _ _ => if x ^^ y then { s with ninf := true } else { s with pinf := true }
  | .fin x _ _, .inf y => if x ^^ y then { s with ninf := true } else { s with pinf := true }
  | .fin _ _ _, .fin _ _ _ => s

/-- The special values of a group. -/
def specials (ps : List (Val × Val)) : Specials :=
  ps.foldl (fun s p => s.pair p.1 p.2) { nan := false, inv := false, pinf := false, ninf := false }

/-- The magnitude and sign of a value, zero for a special. -/
def Val.mag : Val → Bool × Nat × Int
  | .fin s m x => (s, m, x)
  | _ => (false, 0, 0)

/-- The largest product exponent of the nonzero products (R115). -/
def windowExp (fa fb : FloatFmt) (ps : List (Nat × Nat)) : Option Int :=
  ps.foldl (fun e p =>
    if (fa.read p.1).mag.2.1 * (fb.read p.2).mag.2.1 = 0 then e
    else
      let k := elemExp fa p.1 + elemExp fb p.2
      match e with
      | none => some k
      | some j => some (max j k)) none

/-- One term truncated into the window (R115). -/
def windowTerm (a b : Val) (unit : Int) : Int :=
  let x := a.mag; let y := b.mag
  let m := x.2.1 * y.2.1
  let k := x.2.2 + y.2.2 - unit
  let t := if 0 ≤ k then m * 2 ^ k.toNat else m / 2 ^ (-k).toNat
  if x.1 ^^ y.1 then -(t : Int) else t

/-- `group_sum` of R115, with the window's fraction width F. -/
def groupSum (fa fb : FloatFmt) (ps : List (Nat × Nat)) (F : Nat) : GroupSum :=
  let vs := ps.map fun p => (fa.read p.1, fb.read p.2)
  let s := specials vs
  if s.nan ∨ s.inv ∨ (s.pinf ∧ s.ninf) then .nan s.nan
  else if s.pinf then .inf false
  else if s.ninf then .inf true
  else
    match windowExp fa fb ps with
    | none => .fin 0 0
    | some e => .fin (vs.foldl (fun g v => g + windowTerm v.1 v.2 (e - F)) 0) (e - F)

/-- A LOG6 row (R118), with FMTV where a byte has bit 7 or 6 set. -/
def log6Sum (ps : List (Nat × Nat)) : GroupSum :=
  if ps.any fun p => decide (log6Read p.1 = .nan) || decide (log6Read p.2 = .nan) then .nan true
  else
    let term (p : Nat × Nat) : Int :=
      if p.1 = 0 ∨ p.2 = 0 then 0
      else
        let k := p.1 % 32 + p.2 % 32
        let t : Int := (log6Table k * 2 ^ (k / 4) : Nat)
        if (decide (32 ≤ p.1)) ^^ (decide (32 ≤ p.2)) then -t else t
    .fin (ps.foldl (fun g p => g + term p) 0) (-16)

/-- An I8 row (R118). -/
def int8Sum (ps : List (Nat × Nat)) : Int :=
  ps.foldl (fun g p => g + intOf 8 true p.1 * intOf 8 true p.2) 0

/-- `acc_fp32` of R116 on accumulator bits c, with the block-scale exponent S: new bits and flags. -/
def accF32 (c : Nat) (r : GroupSum) (S : Int) : Nat × BitVec 8 :=
  match f32.read c, r with
  | .nan, _ => (f32.nan, 0)
  | _, .nan input => (f32.nan, flagIf (!input) INV)
  | .inf s, .inf t => if s = t then (f32.inf t, 0) else (f32.nan, INV)
  | .fin _ _ _, .inf t => (f32.inf t, 0)
  | .inf _, .fin _ _ => (c, 0)
  | .fin n m x, .fin g u =>
    if g = 0 then (c, 0)
    else
      let e := addExact n m x (decide (g < 0)) g.natAbs (u + S)
      f32.round (decide (e.1 < 0)) e.1.natAbs e.2 0 false 0

/-- A saturating or wrapping INT32 accumulation (R118). -/
def accInt (c : Nat) (g : Int) (sat : Bool) : Nat × BitVec 8 :=
  let x := intOf 32 true c + g
  if sat then clampInt 32 true x else (intBits 32 x, 0)

/-! The total order (R123, R124). -/

/-- The orderable key of a floating element of width w. -/
def okeyFloat (w b : Nat) : Nat := if b / 2 ^ (w - 1) % 2 = 0 then b + 2 ^ (w - 1) else 2 ^ w - 1 - b

/-- A pair (key rank, index) ranks strictly before another (R124). -/
def ranksBefore (k₁ i₁ k₂ i₂ : Nat) : Bool := decide (k₂ < k₁) || (decide (k₁ = k₂) && decide (i₁ < i₂))

/-- A pair placed into a list kept best first; an equal pair stands after those before it. -/
def rankInsert (p : Nat × Nat) : List (Nat × Nat) → List (Nat × Nat)
  | [] => [p]
  | q :: rest => if ranksBefore p.1 p.2 q.1 q.2 then p :: q :: rest else q :: rankInsert p rest

/-! The fold (14 R321). -/

/-- One shift of the CRC register. -/
def crcShift (h : Word) : Word := if bit h 63 then (h <<< 1) ^^^ 0x1B else h <<< 1

/-- n shifts. -/
def crcShifts (h : Word) : Nat → Word
  | 0 => h
  | n + 1 => crcShifts (crcShift h) n

/-- The fold carried on over one byte. -/
def foldByte (h : Word) (b : Byte) : Word := crcShifts (h ^^^ (zext b <<< 56)) 8

/-- The start value of a fold: the fold of no words. -/
def foldStart : Word := 0xFFFF_FFFF_FFFF_FFFF

/-- `fold64` carried on over bytes, those of each word least significant first. -/
def foldBytes (h : Word) (bs : List Byte) : Word := bs.foldl foldByte h

end Sys2Proof.Machine
end

