-- ==== Sys2Proof/Machine/LatticeOps.lean ====
section
/-! DEFINITION. Reads and joins of lattice cells (13 R308 to R314, 09 R231, R232). -/

namespace Sys2Proof.Machine

/-- Pieces of a byte range within 64-byte lines: line, offset in the line, length; at most n pieces. -/
def linePieces (a len : Nat) : Nat → List (Nat × Nat × Nat)
  | 0 => []
  | n + 1 =>
    if len = 0 then []
    else
      let k := min len (64 - a % 64)
      (a / 64, a % 64, k) :: linePieces (a + k) (len - k) n

/-- The pieces of a range. -/
def piecesOf (a len : Nat) : List (Nat × Nat × Nat) := linePieces a len (len / 64 + 2)

/-- Bytes read at their home under a key slot. -/
def MemSys.homeBytes (m : MemSys) (a len slot : Nat) : List Byte :=
  (piecesOf a len).flatMap fun p => leBytes (linePart (m.homeLine p.1 slot) p.2.1 p.2.2) p.2.2

/-- Bytes written at their home under a key slot, piece by piece. -/
def homePut (slot : Nat) (m : MemSys) (bs : List Byte) : List (Nat × Nat × Nat) → MemSys
  | [] => m
  | p :: ps =>
    let m := m.homeWrite p.1 slot (rangeMask p.2.1 p.2.2) (placeInLine (leNat (bs.take p.2.2)) p.2.1)
    homePut slot m (bs.drop p.2.2) ps

/-- Bytes written at their home under a key slot. -/
def MemSys.homeBytesPut (m : MemSys) (a slot : Nat) (bs : List Byte) : MemSys := homePut slot m bs (piecesOf a bs.length)

/-! Regions. -/

/-- The cell size of a type in LAT space (R309). -/
def cellSize (type : Nat) : Nat := if type = 8 then 128 else if type = 9 ∨ type = 10 then 4 else 8

/-- The storage of a cell (R309). -/
def cellStorage (type : Nat) : Nat := if type = 6 then 64 else cellSize type

/-- The unit of exchange of a type (R316). -/
def unitSize (type : Nat) : Nat := if type = 8 then 128 else 64

/-- A region covers a LAT address. -/
def Region.covers (r : Region) (a : Word) : Bool := decide (r.base.toNat ≤ a.toNat) && decide (a.toNat < r.base.toNat + r.size)

/-- The loaded table of a context. -/
def State.tableOf (s : State) (ctx : BitVec 12) : Option RegionTable := s.lat.tables.find? fun t => t.ctx == ctx

/-- The region of a context that covers an address. -/
def State.regionAt (s : State) (ctx : BitVec 12) (a : Word) : Option (RegionTable × Region) :=
  match s.tableOf ctx with
  | some t => (t.regions.find? fun r => r.covers a).map fun r => (t, r)
  | none => none

/-- The storage offset of an address in its region (R308). -/
def Region.storage (r : Region) (a : Word) : Nat :=
  let x := a.toNat - r.base.toNat
  r.roff + (if r.type = 6 then 8 * x else x)

/-- The physical address of an offset in a die's lattice memory (R308). -/
def RegionTable.place (t : RegionTable) (d : Fin 8) (o : Nat) : Nat :=
  (vget t.dbase d + 8 * (o / 65536)) * 65536 + o % 65536

/-- Bytes of a die's replica, read line by line. -/
def State.latBytes (s : State) (t : RegionTable) (d : Fin 8) (o n : Nat) : List Byte :=
  (piecesOf o n).flatMap fun p => s.ms.homeBytes (t.place d (p.1 * 64 + p.2.1)) p.2.2 t.key

/-- Bytes of a die's replica written, line by line. -/
def latWrite (t : RegionTable) (d : Fin 8) (m : MemSys) (bs : List Byte) : List (Nat × Nat × Nat) → MemSys
  | [] => m
  | p :: ps => latWrite t d (m.homeBytesPut (t.place d (p.1 * 64 + p.2.1)) t.key (bs.take p.2.2)) (bs.drop p.2.2) ps

/-- Bytes of a replica written, and the unit of exchange they lie in marked dirty (R316). -/
def State.latPut (s : State) (t : RegionTable) (r : Region) (d : Fin 8) (o : Nat) (bs : List Byte) : State :=
  let u := r.roff + (o - r.roff) / unitSize r.type * unitSize r.type
  let e := (t.ctx.toNat, d.val, u)
  { s with ms := latWrite t d s.ms bs (piecesOf o bs.length)
           lat := { s.lat with dirty := if s.lat.dirty.contains e then s.lat.dirty else e :: s.lat.dirty } }

/-! Joins (R313). -/

/-- The eight 64-bit components or sixteen pairs of a cell's bytes. -/
def words64 (bs : List Byte) : Nat → List Nat
  | 0 => []
  | n + 1 => leNat (bs.take 8) :: words64 (bs.drop 8) n

/-- The filler pair of TOPK16. -/
def fillerPair : Nat := 0x0000_0000_FFFF_FFFF

/-- A pair of a TOPK16 cell by rank. -/
def pairRank (x : Nat) : Nat × Nat := (x / 2 ^ 32, x % 2 ^ 32)

/-- Pairs placed best first, identical ones once (R313). -/
def topkInsert (l : List (Nat × Nat)) (x : Nat) : List (Nat × Nat) :=
  if x = fillerPair ∨ l.contains (pairRank x) then l else rankInsert (pairRank x) l

/-- The join of two TOPK16 cells as lists of pairs (R313). -/
def topkJoin (x y : List Nat) : List Nat :=
  let u := (x ++ y).foldl topkInsert []
  let z := (u.take 16).map fun p => p.1 * 2 ^ 32 + p.2
  z ++ List.replicate (16 - z.length) fillerPair

/-- Signed order on 64-bit words. -/
def slt64 (x y : Nat) : Bool := (BitVec.ofNat 64 x).slt (BitVec.ofNat 64 y)

/-- The join of two one-word cells (R313). -/
def joinWord (type x y : Nat) : Nat :=
  match type with
  | 1 | 9 => max x y
  | 2 | 10 => min x y
  | 3 => if slt64 x y then y else x
  | 4 => if slt64 x y then x else y
  | 5 => x ||| y
  | 7 => if x / 2 ^ 32 ≠ y / 2 ^ 32 then max x y else min x y
  | _ => x

/-- The join of two cells of a type, as bytes (R313). -/
def joinCell (type : Nat) (x y : List Byte) : List Byte :=
  if type = 6 then ((words64 x 8).zip (words64 y 8)).flatMap fun p => leBytes (max p.1 p.2) 8
  else if type = 8 then (topkJoin (words64 x 16) (words64 y 16)).flatMap fun p => leBytes p 8
  else leBytes (joinWord type (leNat x) (leNat y)) (cellSize type)

/-- The cell after a local join with an operand on die d: an increment for GCOUNT, one pair for TOPK16 (R313). -/
def localJoin (type : Nat) (d : Fin 8) (x : List Byte) (op : Nat) : List Byte :=
  if type = 6 then
    ((words64 x 8).zip (List.range 8)).flatMap fun p =>
      leBytes (if p.2 = d.val then min (p.1 + op) (2 ^ 64 - 1) else p.1) 8
  else if type = 8 then (topkJoin (words64 x 16) [op]).flatMap fun p => leBytes p 8
  else leBytes (joinWord type (leNat x) op) (cellSize type)

/-- The value a read of a cell returns: the saturating sum for GCOUNT (R313). -/
def cellValue (type : Nat) (x : List Byte) : Nat :=
  if type = 6 then min ((words64 x 8).foldl (· + ·) 0) (2 ^ 64 - 1) else leNat x

/-- v is at or above t (R231, R313). -/
def atOrAbove (type v t : Nat) : Bool :=
  if type = 6 then decide (t ≤ v)
  else if type = 8 then !ranksBefore (t / 2 ^ 32) (t % 2 ^ 32) (v / 2 ^ 32) (v % 2 ^ 32)
  else joinWord type v t == v

/-- `assert_ok` of R232. -/
def assertOk (type : Nat) (x : List Byte) (op : Nat) : Bool :=
  if type = 6 then true
  else if type = 8 then
    let last := (words64 x 16).getD 15 fillerPair
    !ranksBefore (last / 2 ^ 32) (last % 2 ^ 32) (op / 2 ^ 32) (op % 2 ^ 32)
  else joinWord type op (leNat x) == op

/-- The first address of the cell at an address; cells are aligned to their size in LAT space (R309, R311). -/
def Region.cellBase (r : Region) (a : Word) : Word := BitVec.ofNat 64 (a.toNat / cellSize r.type * cellSize r.type)

/-- Stored bytes read as a cell of a type: TOPK16 as the set of its pairs, whatever their order (R312). -/
def cellForm (type : Nat) (x : List Byte) : List Byte :=
  if type = 8 then (topkJoin (words64 x 16) []).flatMap fun p => leBytes p 8 else x

/-- The cell at an address of a replica, as the bytes of its canonical form. -/
def State.latCell (s : State) (t : RegionTable) (r : Region) (d : Fin 8) (a : Word) : List Byte :=
  cellForm r.type (s.latBytes t d (r.storage (r.cellBase a)) (cellStorage r.type))

/-- The content of the cell at an address of a replica is lost in part (11 R284). -/
def State.latLost (s : State) (t : RegionTable) (r : Region) (d : Fin 8) (a : Word) : Bool :=
  (piecesOf (r.storage (r.cellBase a)) (cellStorage r.type)).any fun p => s.ms.poison.contains (t.place d (p.1 * 64 + p.2.1) / 64)

/-- The key slot of a context's lattice memory is valid (R286). -/
def State.latKeyed (s : State) (t : RegionTable) : Bool := (s.ms.keySlot t.key).state == 1

/-- A local join at an address of a die's replica (R232, R313); an unchanged cell stays clean (R316). -/
def State.latJoin (s : State) (t : RegionTable) (r : Region) (d : Fin 8) (a : Word) (op : Nat) : State :=
  let x := s.latCell t r d a
  let y := localJoin r.type d x op
  if y = x then s else s.latPut t r d (r.storage a) y

/-! The releases that joins carry, for the overlap checker (R223, R233, R263). -/

/-- The storage offset of the cell that holds an offset of a region. -/
def Region.cellAt (r : Region) (o : Nat) : Nat := r.roff + (o - r.roff) / cellStorage r.type * cellStorage r.type

/-- The joins absorbed into the cell at a storage offset of a die's replica. -/
def Lattice.clockAt (l : Lattice) (key : Nat × Nat × Nat) : Clock := ((l.clocks.find? fun e => e.1 == key).map (·.2)).getD []

/-- A cell absorbs a clock. -/
def Lattice.absorb (l : Lattice) (key : Nat × Nat × Nat) (c : Clock) : Lattice :=
  if c = [] then l else { l with clocks := (key, (l.clockAt key).join c) :: l.clocks.filter fun e => e.1 != key }

/-- Under DET a join of the executing cluster releases what came before it to those who read the cell (R233). -/
def State.joinReleases (s : State) (t : RegionTable) (r : Region) (a : Word) : State :=
  if s.me.det then
    let key := (t.ctx.toNat, (dieOf s.cur.core).val, r.cellAt (r.storage a))
    let u := { s with lat := s.lat.absorb key (s.cluClock s.cur.core s.cur.clu) }
    u.onCheck fun c => c.tick (s.me.cluAgent s.cur.clu)
  else s

/-- A read of size bytes at an address acquires the joins its cells have absorbed (R223, R233). -/
def State.latSeen (s : State) (t : RegionTable) (r : Region) (a : Word) (size : Nat) : State :=
  let lo := r.cellAt (r.storage a)
  let hi := r.storage (a + BitVec.ofNat 64 (size - 1))
  let mine := s.lat.clocks.filter fun e =>
    e.1.1 == t.ctx.toNat && e.1.2.1 == (dieOf s.cur.core).val && decide (lo ≤ e.1.2.2) && decide (e.1.2.2 ≤ hi)
  s.onCheck fun c => mine.foldl (fun c e => c.acquire (s.me.cluAgent s.cur.clu) e.2) c

/-- The clocks that travel with a unit of exchange, by storage offset. -/
def Lattice.unitClocks (l : Lattice) (ctx die o n : Nat) : List (Nat × Clock) :=
  l.clocks.filterMap fun e =>
    if e.1.1 = ctx ∧ e.1.2.1 = die ∧ o ≤ e.1.2.2 ∧ e.1.2.2 < o + n then some (e.1.2.2, e.2) else none

end Sys2Proof.Machine
end

