-- ==== Sys2Proof/Machine/Access.lean ====
section
/-! DEFINITION. Where an address leads and what an access there does (05 R141 to R148, 11 R268 to R273, 15 R342 R361 R362,
16 R385 R389 R390). -/

namespace Sys2Proof.Machine

/-! Targets. -/

/-- Where an access goes. -/
inductive Target where
  | buf (core : Fin 768) (b : Fin 4) (off : Nat)
  | mem (p : Phys) (path : Nat)
  | lat (t : RegionTable) (r : Region)
  | host (a : Nat)
  /-- Chip identifier * 2^48 + offset. -/
  | peer (a : Nat)
  | window (off : Nat)

/-- The kinds of scalar access of R141. -/
inductive AccessKind where
  | load | store | atomic
  deriving DecidableEq, Repr

/-- The form of a GEN, RO, UC or LAT address (R141). -/
def genForm (a : Word) : Bool := decide (bits a 56 4 = 0) && decide (bits a 40 16 ≠ 0)

/-- The frame of a place lies behind a lost CXL port (R390). -/
def State.frameLost (s : State) (p : Phys) : Bool :=
  decide (tier2 ≤ p.addr) && (vget s.plat.cxl (Fin.ofNat 8 p.frame)).lost

/-- The port that serves a peer chip is lost (R389). -/
def State.peerLost (s : State) (chip : Nat) : Bool := bit s.plat.ualLost (chip % 16)

/-- A translated place, or the fault: page, memory error on a table line, or lattice memory (R308, R361). -/
def State.reach (s : State) (slot : Nat) (a : Word) (write : Bool) : Except (Nat × Nat) Phys :=
  match s.translate slot (bits a 40 16) (bits a 0 40) write with
  | .error (.page d) => .error (0xC, d)
  | .error .poison => .error (0x21, 0)
  | .ok p =>
    if s.latticeFrame p then .error (if write then 0xB else 8, 0)
    else if s.frameLost p then .error (0x21, 0)
    else .ok p

/-- The place of a GEN, RO or UC access of the executing cluster. -/
def State.memTarget (s : State) (a : Word) (path : Nat) (write : Bool) : Res Target :=
  match s.reach (s.old.slotFor s.cur.clu) a write with
  | .ok p => .ok (.mem p path) s
  | .error (c, d) => .trap c d a

/-- A typed buffer of the executing core (R20, R21). -/
def State.ownBuf (s : State) (a : Word) (size : Nat) : Res Target :=
  let b : Fin 4 := Fin.ofNat 4 (bits a 60 4)
  if bits a 40 20 = 0 ∧ s.me.inFoot b (bits a 0 40) size then .ok (.buf s.cur.core b (bits a 0 40)) s else .trap 8 0 a

/-- The A buffer of a core of the quad (R37, R268). -/
def State.quadBuf (s : State) (a : Word) (size : Nat) : Res Target :=
  let k := quadCore s.cur.core (bits a 40 2)
  if bits a 42 18 = 0 ∧ (k = s.cur.core ∨ s.sameLaunch s.cur.core k) ∧ (s.core k).inFoot 1 (bits a 0 40) size
  then .ok (.buf k 1 (bits a 0 40)) s else .trap 8 0 a

/-- The region a LAT address lies in, for the context of the task (R231, R308). -/
def State.latTarget (s : State) (a : Word) : Res Target :=
  match s.me.task with
  | none => .trap 8 0 a
  | some t =>
    match (if genForm a then s.regionAt t.ctx a else none) with
    | some (rt, r) => .ok (.lat rt r) s
    | none => .trap 8 0 a

/-- A lattice cell translates while the key slot of its memory is valid (11 R286, 09 R244; detail 7 as for a page, notes/assumptions/98.md). -/
def State.latPage (s : State) (t : Target) (a : Word) : Res Target :=
  match t with
  | .lat rt _ => if s.latKeyed rt then .ok t s else .trap 0xC 7 a
  | _ => .ok t s

/-- The first check of R141 where a table sends every path that it does not list to the address fault (06 R161, 07 R192): the path is
not assigned, or not allowed at the level of the cluster. -/
def State.pathShut (s : State) (path : Nat) : Bool :=
  decide (path = 6 ∨ path = 7 ∨ path = 0xD) || (decide (path = 0xF) && !(s.old.clu s.cur.clu).priv)

/-- The target of a scalar access, by the checks of R141 in their order. -/
def State.target (s : State) (a : Word) (size : Nat) (kind : AccessKind) : Res Target :=
  let path := bits a 60 4
  let no (c : Nat) : Res Target := .trap c 0 a
  if path = 6 ∨ path = 7 ∨ path = 0xD then no 8
  else if path = 0xF ∧ !(s.old.clu s.cur.clu).priv then no 3
  else if a.toNat % size ≠ 0 then no 9
  else if path = 0 ∨ path = 3 then (if genForm a then s.memTarget a path (kind != .load) else no 8)
  else if path = 1 then (if genForm a && kind == .load then s.memTarget a path false else no 8)
  else if path = 2 then (s.latTarget a).bind fun t u => if kind = .load then u.latPage t a else no 0xB
  else if path = 4 then
    (if bits a 52 8 = 0 ∧ bits a 0 52 < (s.dev 0xE00).toNat then .ok (.host (bits a 0 52)) s else no 8)
  else if path = 5 then
    (if bits a 58 2 ≠ 0 then no 8
     else if s.peerLost (bits a 48 10) then no 0x21
     else .ok (.peer (bits a 0 58)) s)
  else if path = 8 ∨ path = 9 ∨ path = 0xA ∨ path = 0xB then
    (s.ownBuf a size).bind fun t u =>
      if kind = .load ∨ (kind = .store ∧ path = 9) then .ok t u
      else no (if kind = .store then 0xA else 8)
  else if path = 0xC then (s.quadBuf a size).bind fun t u => if kind = .atomic then no 8 else .ok t u
  else if path = 0xF then (if bits a 40 20 = 0 ∧ kind ≠ .atomic then .ok (.window (bits a 0 40)) s else no 8)
  else no 8

/-! The L1 (R271 to R273). -/

/-- The L1 without the lines a test picks. -/
def Core.l1Drop (k : Core) (f : L1Line → Bool) : Core := { k with en := { k.en with l1 := k.en.l1.filter fun l => !f l } }

/-- The line of the L1 that may serve a load of the masked bytes: a GEN load is not served by a line tagged RO (R273). -/
def Core.l1Hit (k : Core) (line : Nat) (ro : Bool) (mask : Word) : Option L1Line :=
  k.en.l1.find? fun l => l.line == line && (ro || !l.ro) && decide (mask &&& ~~~l.valid = 0)

/-- A line filled: newest first, at most four to a set, the least recently filled goes (R271; the set index is
notes/assumptions/10.md). -/
def Core.l1Fill (k : Core) (l : L1Line) : Core :=
  let k := k.l1Drop fun m => m.line == l.line
  let set := k.en.l1.filter fun m => m.line % 256 == l.line % 256
  let k := match (if 4 ≤ set.length then set.getLast? else none) with
    | some v => k.l1Drop fun m => m.line == v.line
    | none => k
  { k with en := { k.en with l1 := l :: k.en.l1 } }

/-- A store updates the bytes of its own core's line (R272); so does what a UC load or an atomic has read, so that a later GEN load of
the core returns nothing older (R291, R296; notes/assumptions/97.md). -/
def Core.l1Update (k : Core) (line : Nat) (mask : Word) (data : Line) : Core :=
  { k with en := { k.en with l1 := k.en.l1.map fun l =>
      if l.line = line then { l with data := mergeLine l.data data mask, valid := l.valid ||| mask } else l } }

/-- An acquire or fence at a scope drops the lines filled by GEN loads, at quad scope or wider (R143, R272). -/
def State.acquire (s : State) (scope : Nat) : State := if scope = 0 then s else s.onMe fun k => k.l1Drop fun l => !l.ro

/-- L1 lines dropped in every core. -/
def State.l1DropAll (s : State) (f : L1Line → Bool) : State := { s with cores := vmap (fun k => k.l1Drop f) s.cores }

/-! Shootdowns (R364). -/

/-- A page register without its VALID bit. -/
def invalidReg (r : Word) : Word := r &&& 0x7FFF_FFFF_FFFF_FFFF

/-- A page register, filled through a slot, after a shootdown, which clears VALID (R220, R363). -/
def shotReg (slot scope tid first count : Nat) (through : Nat) (r : Word) : Word :=
  if bit r 63 && shotTag slot scope tid first count (through, bits r 42 16, bits r 18 24) then invalidReg r else r

/-- A core after a shootdown: L1 lines and page registers of the range gone. -/
def Core.shot (k : Core) (slot scope tid first count : Nat) : Core :=
  let k := k.l1Drop fun l => shotTag slot scope tid first count (l.slot, l.tid, l.page)
  { k with en := { k.en with chans := vmap (fun c =>
      { c with pgnow := shotReg slot scope tid first count c.pgnowSlot c.pgnow
               pgnxt := shotReg slot scope tid first count c.pgnxtSlot c.pgnxt }) k.en.chans } }

/-- A non-coherent copy written home and dropped; a coherent line recalled from every die. -/
def MemSys.flushLine (m : MemSys) (d : DieLine) : MemSys :=
  if d.coh = none then (m.writeBack d).dropLine d.die d.line
  else
    match m.dir.find? fun e => e.line == d.line with
    | some e => m.recallEntry e
    | none => (m.returnLine d).dropLine d.die d.line

/-- A shootdown of a range of a slot's translations. -/
def State.shootdown (s : State) (slot scope tid first count : Nat) : State :=
  { s with cores := vmap (fun k => k.shot slot scope tid first count) s.cores
           ms := ((s.ms.dieLines.filter fun d => shotTag slot scope tid first count d.tag).foldl MemSys.flushLine s.ms).shootKeys
             slot scope tid first count }

/-- The shootdowns owed for the pages that write-backs have revived are made (R362). -/
def State.shootOwed (s : State) : State :=
  s.ms.shots.foldl (fun t p => t.shootdown p.1 0 p.2.1 p.2.2 1) { s with ms := { s.ms with shots := [] } }

/-! Dead pages (R362). -/

/-- The page of a place revived where it is dead: frame zeroed, DEAD cleared, page shot down. -/
def State.revived (s : State) (p : Phys) : State :=
  if p.dead then ({ s with ms := s.ms.revive p } : State).shootdown p.tag.1 0 p.tag.2.1 p.tag.2.2 1 else s

/-! Island stops (16 R381). -/

/-- The uncore of a die is stopped: its slices, directory and die cache hold, and traffic to it waits. -/
def State.uncoreStops (s : State) (d : Fin 8) : Bool := (vget s.plat.islands (Fin.ofNat 76 (9 * d.val + 8))).stop

/-- An island of an I/O die, the west or the east one, is stopped: what passes through the die waits (notes/assumptions/118.md). -/
def State.ioStops (s : State) (west : Bool) : Bool :=
  let n := if west then 72 else 74
  (vget s.plat.islands (Fin.ofNat 76 n)).stop || (vget s.plat.islands (Fin.ofNat 76 (n + 1))).stop

/-- A node of the package is stopped: a compute die's uncore, or the I/O die 8 or 9. -/
def State.nodeStops (s : State) (n : Nat) : Bool := if n < 8 then s.uncoreStops (Fin.ofNat 8 n) else s.ioStops (n == 8)

/-- The I/O die of a chip's port is stopped (R369, R389). -/
def State.peerStops (s : State) (chip : Nat) : Bool :=
  s.ioStops true && decide (chip % 16 < 8) || s.ioStops false && decide (8 ≤ chip % 16)

/-- An access of a party of a die to a place waits: a request to its line is held at the home, or an uncore that it passes is stopped
(R280, R381). -/
def State.held (s : State) (die : Fin 8) (p : Phys) : Bool := s.ms.held p || s.uncoreStops p.home || s.uncoreStops die

/-! Accesses to device memory. -/

/-- The die cache of a die serves the masked bytes of a line (R277, R283); a store it has the line for is served whatever it holds. -/
def MemSys.serves (m : MemSys) (die : Fin 8) (line : Nat) (mask : Word) : Bool :=
  match m.dieLine die line with
  | some d => d.coh.isSome || decide (mask &&& ~~~d.valid = 0)
  | none => false

/-- Where an access was homed, and whether the die cache serves its bytes, counted for the cluster (R267, R277). -/
def State.countHome (s : State) (p : Phys) (cached : Bool) (mask : Word) : State :=
  let d := dieOf s.cur.core
  s.onMe fun k =>
    let k := k.count (if d = p.home then 0xB else 0xC) s.cur.clu 1
    if cached && decide (d ≠ p.home) && s.ms.serves d p.line mask then k.count 0xA s.cur.clu 1 else k

/-- The line of a place as a load of the executing core finds it behind the L1; UC at the home slice (R268, R283). -/
def State.lineLoad (s : State) (p : Phys) (path : Nat) (mask : Word) : Res Line :=
  if p.dead then .ok 0 s
  else if s.held (dieOf s.cur.core) p then .wait
  else if (if path = 3 then s.ms.lostHome (dieOf s.cur.core) p else s.ms.lost (dieOf s.cur.core) p mask) then .trap 0x21 0 0
  else
    let s := s.countHome p (decide (path ≠ 3)) mask
    if path = 3 then
      let ms := if p.coherent then (s.ms.homeRead p).2 else s.ms.toHome (dieOf s.cur.core) p
      .ok (ms.homeLine p.line p.key) { s with ms := ms }
    else
      let r := s.ms.load (dieOf s.cur.core) p mask
      .ok r.1 { s with ms := r.2 }

/-- A load has returned x from a place: one that returns a nonzero OUTCOME acquires what the launch released (R265, R293). -/
def State.sawOutcome (s : State) (p : Phys) (x : Nat) : State :=
  if x ≠ 0 ∧ s.ms.outcomes.contains (p.addr / 8 * 8) then s.acquire 2 else s

/-- A scalar load of size bytes behind the check of what it returns (R142, R271 to R273). -/
def State.memRead (s : State) (a : Word) (p : Phys) (path size : Nat) : Res Nat :=
  let mask := rangeMask p.off size
  let part (l : Line) : Nat := linePart l p.off size
  if path = 3 then (s.lineLoad p path mask).bind fun l t => .ok (part l) (t.onMe fun k => k.l1Update p.line mask l)
  else if p.dead then .ok 0 s
  else
    match s.me.l1Hit p.line (decide (path = 1)) mask with
    | some l => .ok (part l.data) s
    | none =>
      (s.lineLoad p path mask).bind fun l t =>
        .ok (part l) (t.onMe fun k =>
          (k.count 9 s.cur.clu 1).l1Fill
            { line := p.line, slot := s.old.slotFor s.cur.clu, tid := bits a 40 16, page := bits a 16 24,
              ro := decide (path = 1), valid := t.ms.atHand (dieOf s.cur.core) p, data := l })

/-- A scalar load of size bytes. -/
def State.memLoad (s : State) (a : Word) (p : Phys) (path size : Nat) : Res Nat :=
  (s.memRead a p path size).bind fun x t => .ok x (t.sawOutcome p x)

/-- Masked bytes of one line stored by the executing core; UC at the home slice. -/
def State.lineStore (s : State) (p : Phys) (path : Nat) (mask : Word) (data : Line) : Res Unit :=
  if s.held (dieOf s.cur.core) p then .wait
  else
    let s := (s.revived p).countHome p (decide (path ≠ 3)) 0
    let s := s.onMe fun k => k.l1Update p.line mask data
    let ms :=
      if path = 3 then (s.ms.toHome (dieOf s.cur.core) p).homeWrite p.line p.key mask data
      else s.ms.store (dieOf s.cur.core) p mask data
    .ok () { s with ms := ms }

/-- A scalar store of size bytes (R142, R272). -/
def State.memStore (s : State) (p : Phys) (path size x : Nat) : Res Unit :=
  s.lineStore p path (rangeMask p.off size) (placeInLine (x % 256 ^ size) p.off)

/-! Lattice reads (R141, R231, R232). -/

/-- The eight bytes a LAT address names: the cell's value, two narrow cells, or one pair of TOPK16. -/
def State.latWord (s : State) (t : RegionTable) (r : Region) (a : Word) : Nat :=
  let d := dieOf s.cur.core
  if r.type = 6 then cellValue 6 (s.latCell t r d a)
  else if r.type = 8 then leNat (((s.latCell t r d a).drop (a.toNat % 128 / 8 * 8)).take 8)
  else leNat (s.latBytes t d (r.storage (a &&& ~~~7)) 8)

/-- Bytes of the value a LAT address names. -/
def State.latLoad (s : State) (t : RegionTable) (r : Region) (a : Word) (size : Nat) : Nat :=
  s.latWord t r a / 256 ^ (a.toNat % 8) % 256 ^ size

/-! Loads and stores at a target. -/

/-- A load of size bytes; the window of R342 is read by the instructions themselves. -/
def State.loadAt (s : State) (a : Word) (t : Target) (size : Nat) : Res Nat :=
  match t with
  | .buf k b off => s.bufRead k b off size a
  | .mem p path => s.memLoad a p path size
  | .lat rt r =>
    if s.uncoreStops (dieOf s.cur.core) then .wait
    else if s.latLost rt r (dieOf s.cur.core) a then .trap 0x21 0 a
    else .ok (s.latLoad rt r a size) ((s.latSeen rt r a size).acquire 2)
  | .host x => if s.ioStops true then .wait else .ok (s.ms.host.readLe x size) s
  | .peer x => if s.peerStops (x / 2 ^ 48) then .wait else .ok (s.ms.peer.readLe x size) s
  | .window _ => .trap 8 0 a

/-- A store of size bytes. -/
def State.storeAt (s : State) (a : Word) (t : Target) (size x : Nat) : Res Unit :=
  match t with
  | .buf k b off => s.bufWrite k b off size x a
  | .mem p path => s.memStore p path size x
  | .lat _ _ => .trap 0xB 0 a
  | .host h => if s.ioStops true then .wait else .ok () { s with ms := { s.ms with host := s.ms.host.writeLe h size x } }
  | .peer h => if s.peerStops (h / 2 ^ 48) then .wait else .ok () { s with ms := { s.ms with peer := s.ms.peer.writeLe h size x } }
  | .window _ => .trap 8 0 a

/-- The bundle stalls on an access of size bytes; under DET the checker keeps the watermarks it stalled on (R215, R263). -/
def State.stallAt (s : State) (t : Target) (size : Nat) : Out :=
  match t with
  | .buf k b off =>
    if k = s.cur.core then
      .next { (s.undo.onCheck fun c => c.stall (s.me.cluAgent s.cur.clu) (s.me.heldBy b off size s.me.en.issued)) with report := .stalled }
    else s.stall
  | _ => s.stall

/-- The outcome of an access of size bytes at a target. -/
def Res.outAt {α : Type} (r : Res α) (s : State) (t : Target) (size : Nat) (f : α → State → Out) : Out :=
  match r with
  | .ok a u => f a u
  | .wait => s.stallAt t size
  | .trap c d a => s.faultAt c d a

/-! Atomics (R146 to R148). -/

/-- The atomic operations of R69. -/
inductive AOp where
  | add | and | or | xor | min | max | minn | maxn | swp | fadd | cas
  deriving DecidableEq, Repr

/-- What an atomic writes, none where it writes nothing: w bits, old value, operand, compare value. -/
def AOp.apply (op : AOp) (w old b cmp : Nat) : Option Nat :=
  match op with
  | .add => some ((old + b) % 2 ^ w)
  | .and => some (old &&& b)
  | .or => some (old ||| b)
  | .xor => some (old ^^^ b)
  | .min => some (if intOf w true old < intOf w true b then old else b)
  | .max => some (if intOf w true old < intOf w true b then b else old)
  | .minn => some (Nat.min old b)
  | .maxn => some (Nat.max old b)
  | .swp => some b
  | .fadd => some (addF32 old b 0 false 0).1
  | .cas => if old = cmp then some b else none

/-- An atomic at its home: the old value (R146, R280, R283, R362). -/
def State.memAtomic (s : State) (p : Phys) (op : AOp) (size b cmp : Nat) : Res Nat :=
  if s.held (dieOf s.cur.core) p then .wait
  else if p.dead then
    match op.apply (8 * size) 0 b cmp with
    | none => .ok 0 s
    | some x => (s.memStore p 3 size x).bind fun _ t => .ok 0 t
  else if s.ms.lostHome (dieOf s.cur.core) p then .trap 0x21 0 0
  else
    let s := s.countHome p false 0
    let ms := s.ms.toHome (dieOf s.cur.core) p
    let mask := rangeMask p.off size
    let old := linePart (ms.homeLine p.line p.key) p.off size
    match op.apply (8 * size) old b cmp with
    | none => .ok old ({ s with ms := ms }.onMe fun k => k.l1Update p.line mask (placeInLine old p.off))
    | some x =>
      let data := placeInLine x p.off
      .ok old ({ s with ms := ms.homeWrite p.line p.key mask data }.onMe fun k => k.l1Update p.line mask data)

/-- A PEER offset lies in the multi-chip reduction window (R389). -/
def State.inReduction (s : State) (a : Nat) : Bool :=
  let off := a % 2 ^ 48
  let base := (s.dev 0xE38).toNat
  decide (base ≤ off) && decide (off < base + (s.dev 0xE39).toNat)

/-- An atomic on a byte store outside the device's memory. -/
def atomicOn (m : Memory) (a : Nat) (op : AOp) (size b cmp : Nat) : Nat × Memory :=
  let old := m.readLe a size
  match op.apply (8 * size) old b cmp with
  | none => (old, m)
  | some x => (old, m.writeLe a size x)

/-- An atomic at a target; `noResult` when its destination is g0 (R148). -/
def State.atomicAt (s : State) (a : Word) (t : Target) (op : AOp) (size b cmp : Nat) (noResult : Bool) : Res Nat :=
  match t with
  | .mem p _ => s.memAtomic p op size b cmp
  | .host x =>
    if s.ioStops true then .wait
    else
      let r := atomicOn s.ms.host x op size b cmp
      .ok r.1 { s with ms := { s.ms with host := r.2 } }
  | .peer x =>
    if s.inReduction x ∧ !(noResult && op != .swp && op != .cas) then .trap 8 0 a
    else if s.peerStops (x / 2 ^ 48) then .wait
    else
      let r := atomicOn s.ms.peer x op size b cmp
      .ok r.1 { s with ms := { s.ms with peer := r.2 } }
  | _ => .trap 8 0 a

end Sys2Proof.Machine
end

