-- ==== Sys2Proof/Machine/Device.lean ====
section
/-! DEFINITION. What the device does by itself around a task: ranges of memory, event notices (16 R383, R384), error
histories and fencing (14 R331 to R338), capacity (10 R254, R255), throttle reasons (17 R392, R398), shootdowns (15 R364). -/

namespace Sys2Proof.Machine

/-! Ranges read and written by units of the device. -/

/-- Bytes of the pieces of a range of a tensor; the fault and its address where one is met. -/
def State.readPieces (s : State) (die : Fin 8) (slot : Nat) (base : Word) :
    List (Nat × Nat × Nat) → Except (Nat × Nat × Word) (List Byte)
  | [] => .ok []
  | (l, o, n) :: ps =>
    let a := (base &&& ~~~0xFF_FFFF_FFFF#64) + BitVec.ofNat 64 (l * 64 + o)
    let uc := decide (bits base 60 4 = 3)
    match s.reach slot a false with
    | .error (c, d) => .error (c, d, a)
    | .ok p =>
      if (if uc then s.ms.lostHome die p else s.ms.lost die p (rangeMask o n)) then .error (0x21, 0, a)
      else do
        let rest ← s.readPieces die slot base ps
        .ok (leBytes (linePart (if uc then s.ms.ucView die p else s.ms.view die p) o n) n ++ rest)

/-- n bytes from a GEN, RO or UC address; a UC path reads at the home slice. -/
def State.readRange (s : State) (die : Fin 8) (slot : Nat) (a : Word) (n : Nat) : Except (Nat × Nat × Word) (List Byte) :=
  if 2 ^ 40 < bits a 0 40 + n then .error (8, 0, a) else s.readPieces die slot a (piecesOf (bits a 0 40) n)

/-- Masked bytes of a line written at its home. -/
def State.homePutLine (s : State) (p : Phys) (mask : Word) (data : Line) : State :=
  let s := s.revived p
  { s with ms := if p.coherent then s.ms.homeStore p.line p.key mask data else s.ms.homeWrite p.line p.key mask data }

/-- Bytes written at their homes; none where a piece does not translate to a writable page. -/
def State.writePieces (slot : Nat) (base : Word) (s : State) (bs : List Byte) : List (Nat × Nat × Nat) → Option State
  | [] => some s
  | (l, o, n) :: ps =>
    let a := (base &&& ~~~0xFF_FFFF_FFFF#64) + BitVec.ofNat 64 (l * 64 + o)
    match s.reach slot a true with
    | .error _ => none
    | .ok p => State.writePieces slot base (s.homePutLine p (rangeMask o n) (placeInLine (leNat (bs.take n)) o)) (bs.drop n) ps

/-- Bytes written from a GEN or UC address. -/
def State.writeRange (s : State) (slot : Nat) (a : Word) (bs : List Byte) : Option State :=
  if 2 ^ 40 < bits a 0 40 + bs.length then none else State.writePieces slot a s bs (piecesOf (bits a 0 40) bs.length)

/-! Event notices (R383, R384). -/

/-- The wake latch of a cluster set (R347). -/
def State.wakeClu (s : State) (k : Nat) (x : Clu) : State :=
  if h : k < 768 then s.onCore ⟨k, h⟩ fun c => c.onClu x fun u => { u with wake := true } else s

/-- A notice is dropped and counted (R384). -/
def State.noticeLost (s : State) : State :=
  { s with plat := { s.plat with evLost := if s.plat.evLost = 0xFFFF then 0xFFFF else s.plat.evLost + 1 } }

/-- A notice is written, and then the wake and the interrupt follow; or it is dropped (R384). -/
def State.notice (s : State) (code kind src detail loc : Nat) : State :=
  let base := s.dev 0xE70
  let n := bits (s.dev 0xE71) 0 16
  let head := s.plat.evHead.toNat
  let ctl := s.dev 0xE74
  let word := code + kind * 2 ^ 8 + src * 2 ^ 16 + detail * 2 ^ 28 + loc * 2 ^ 32
  if base = 0 ∨ n = 0 ∨ n ≤ head - (s.dev 0xE73).toNat ∨ bits base 60 4 ≠ 0 then s.noticeLost
  else
    match s.writeRange 0 (base + BitVec.ofNat 64 (16 * (head % n))) (leBytes word 8 ++ leBytes s.cadence.toNat 8) with
    | none => s.noticeLost
    | some t =>
      let t := { t with plat := { t.plat with evHead := t.plat.evHead + 1
                                              interrupts := t.plat.interrupts + (bit ctl 47).toNat } }
      if bit ctl 1 then t.wakeClu (bits ctl 4 10) (cluOf (bits ctl 2 2)) else t

/-! Throttle reasons (R392, R398). -/

/-- An island changed. -/
def State.onIsland (s : State) (i : Fin 76) (f : Island → Island) : State :=
  { s with plat := { s.plat with islands := vset s.plat.islands i (f (vget s.plat.islands i)) } }

/-- The notice code of a THR bit (R398). -/
def thrCode (b : Nat) : Nat := match b with | 0 => 0x3D | 1 | 3 => 0x3E | _ => 0x3F

/-- A THR bit of an island set; a change from 0 to 1 posts a notice. -/
def State.setThr (s : State) (i : Fin 76) (b : Nat) : State :=
  if bit (vget s.plat.islands i).thr b then s
  else
    (s.onIsland i fun d => { d with thr := d.thr ||| BitVec.ofNat 5 (2 ^ b) }).notice (thrCode b) 2 i.val 0 0

/-! Error histories (R331 to R333). -/

/-- THR and WIN of a window register. -/
def thrOf (w : Word) : Nat := bits w 32 4
def winOf (w : Word) : Nat := bits w 0 32

/-- An event at a tick, under a window register; whether it is lasting (R331). -/
def History.event (h : History) (tick : Nat) (w : Word) : History × Bool :=
  let ticks := (tick :: h.ticks).take 15
  let n := (ticks.filter fun t => decide (tick ≤ t + winOf w)).length
  let lasting := decide (thrOf w ≠ 0) && decide (thrOf w ≤ n)
  ({ ticks := ticks, total := min (h.total + 1) 0xFFFF_FFFF, inwin := n, lasting := h.lasting || lasting }, lasting)

/-- ECPRI, ECSHD, ECXFR and LKEVT share their upper half (R332): LASTING, INWIN, TOTAL. -/
def History.word (h : History) : Word :=
  BitVec.ofNat 64 (h.lasting.toNat * 2 ^ 63 + h.inwin * 2 ^ 56 + h.total)

/-! Fencing and capacity (R254, R255, R337). -/

/-- The core's CFENCE bit. -/
def State.cfence (s : State) (k : Fin 768) : Bool := bit (s.dev (0xA60 + k.val / 64)) (k.val % 64)

/-- The core is fenced, or its island is GATED or OFF, which counts the same (R393). -/
def State.fenced (s : State) (k : Fin 768) : Bool :=
  s.cfence k || decide (4 ≤ (vget s.plat.islands (islandOf k)).state.toNat)

/-- The quad is in a queue's mask (R248). -/
def State.quadAllowed (s : State) (q : Fin 32) (u : Fin 192) : Bool :=
  bit (s.dev (0x901 + 4 * q.val + u.val / 64)) (u.val % 64)

/-- Every core of a quad is unfenced. -/
def State.quadWhole (s : State) (u : Fin 192) : Bool :=
  (List.range 4).all fun q => !s.fenced (Fin.ofNat 768 (4 * u.val + q))

/-- The capacity of a queue (R254). -/
def State.capacity (s : State) (q : Fin 32) (gang : Bool) : Nat :=
  let us := (List.finRange 192).filter fun u => s.quadAllowed q u
  if gang then 4 * (us.filter fun u => s.quadWhole u).length
  else us.foldl (fun n u => n + ((List.range 4).filter fun i => !s.fenced (Fin.ofNat 768 (4 * u.val + i))).length) 0

/-- Iterations of a launch: the product of its C and D extents (R252). -/
def Launch.count (l : Launch) : Nat := l.levels.foldl (fun n e => if e.1 = 1 then n else n * e.2) 1

/-- What a launch flag says: 0 DET, 1 GANG, 2 CORES, 3 GSTOP, 4 STMODE. -/
def Launch.gang (l : Launch) : Bool := bit l.flags 1
def Launch.coRes (l : Launch) : Bool := bit l.flags 2

/-- Iterations rounded to gangs. -/
def Launch.need (l : Launch) : Nat := if l.gang then (l.count + 3) / 4 * 4 else l.count

/-- A launch changed. -/
def State.onLaunch (s : State) (lid : BitVec 16) (f : Launch → Launch) : State :=
  { s with sch := { s.sch with launches := s.sch.launches.map fun l => if l.lid = lid then f l else l } }

/-- A launch that is queued, running or ending. -/
def State.launch? (s : State) (lid : BitVec 16) : Option Launch := s.sch.launches.find? fun l => l.lid == lid

/-- The core runs a task of a launch. -/
def Core.runs (k : Core) (lid : BitVec 16) : Bool := match k.task with | some t => t.lid == lid | none => false

/-- A task of a launch is terminated (R264, R265, R350): the launch fails, and its unplaced ordinals are not placed. -/
def Launch.taskDied (l : Launch) (ord : Nat) (cause : Word) : Launch :=
  let lowest := match l.first with
    | some f => decide (ord < f)
    | none => true
  let st := match l.state with
    | .ending c => .ending c
    | _ => .ending 2
  { l with terminated := l.terminated + 1, next := l.count, state := st,
           fcause := if lowest then cause else l.fcause, first := if lowest then some ord else l.first }

/-- The word of a task in the status area; a word that cannot be written is counted (R264). -/
def State.writeTaskWord (s : State) (l : Launch) (slot ord : Nat) (w : Word) : State :=
  if bit l.flags 4 ∧ l.status ≠ 0 then
    match s.writeRange slot (l.status + BitVec.ofNat 64 (64 + 8 * ord)) (leBytes w.toNat 8) with
    | some t => t
    | none => s.onLaunch l.lid fun x => { x with dropped := x.dropped + 1 }
  else s

/-- A saved task is terminated: its slot is freed (R353, R357). One already placed on a core is terminated there. -/
def State.dropSaved (s : State) (cause : Word) (v : Saved) : State :=
  let s := { s with sch := { s.sch with saved := s.sch.saved.filter fun u => u.slotN != v.slotN } }
  match v.core.task, s.launch? v.lid with
  | some t, some l =>
    if v.placed then s
    else (s.writeTaskWord l t.slot t.ordinal 0xFFFF_FFFF_FFFF_FFFF).onLaunch v.lid fun l => l.taskDied t.ordinal cause
  | _, _ => s

/-- Every running task of a launch is terminated with a cause word, and so are its saved tasks (R255, R357). -/
def State.stopTasks (s : State) (lid : BitVec 16) (cause : Word) : State :=
  let s := { s with cores := vmap (fun (k : Core) => if k.runs lid then k.terminate cause false true else k) s.cores }
  (s.sch.saved.filter fun v => v.lid == lid).foldl (fun s v => s.dropSaved cause v) s

/-- A launch ends with an outcome code: its tasks are terminated and its unplaced ordinals dropped. A launch that has failed and still
has tasks may yet end so. -/
def State.endLaunch (s : State) (lid : BitVec 16) (code : Nat) : State :=
  match s.launch? lid with
  | some l =>
    if (match l.state with | .ending c => decide (c ≠ 2) | _ => false) then s
    else
      let d := s.draw
      (d.2.stopTasks lid d.1).onLaunch lid fun l => { l with state := .ending code, next := l.count }
  | none => s

/-- The launch has lost the capacity it needs (R255). -/
def State.capLost (s : State) (l : Launch) : Bool :=
  let waits := s.sch.saved.any fun v => v.lid == l.lid && v.ready && !v.placed
  let short := decide (s.capacity l.queue l.gang < if l.coRes then l.need else 1)
  match l.state with
  | .ending c => decide (c = 2) && short && waits
  | .queued => l.coRes && short
  | .running => short && (waits || decide (l.next < l.count))

/-- Every launch that has lost its capacity ends with CAPLOST (R255). -/
def State.capCheck (s : State) : State :=
  s.sch.launches.foldl (fun t l => if t.capLost l then t.endLaunch l.lid 5 else t) s

/-- A core is fenced (R337): its CFENCE bit is set, its task is saved with reason 2 unless it is being terminated; the host is notified
once the task has left. -/
def State.fenceCore (s : State) (k : Fin 768) : State :=
  if s.cfence k then s
  else
    let n := 0xA60 + k.val / 64
    let s := s.setDev n (s.dev n ||| BitVec.ofNat 64 (2 ^ (k.val % 64)))
    let s := { s with plat := { s.plat with fenced := alSet s.plat.fenced k.val s.cadence.toNat } }
    let s := if (s.core k).term.isSome then s else s.requestSave k 2
    let s := if (s.core k).task.isSome then { s with plat := { s.plat with fenceDue := k.val :: s.plat.fenceDue } } else s.notice 0x35 1 k.val 0 0
    s.capCheck

/-- The host is notified of the fence of a core that its task has left (R337 step 5). -/
def State.fenceNotice (s : State) (k : Fin 768) : State :=
  if s.plat.fenceDue.contains k.val then
    ({ s with plat := { s.plat with fenceDue := s.plat.fenceDue.filter (· != k.val) } } : State).notice 0x35 1 k.val 0 0
  else s

/-! Events of a core's sources (R332, R336). -/

/-- An event of the core's primary engine; a lasting one fences the core. -/
def State.primaryEvent (s : State) (k : Fin 768) : State :=
  let e := (s.core k).rg.ecpri.event s.cadence.toNat (s.core k).rg.ewpri
  let s := s.onCore k fun c => { c with rg := { c.rg with ecpri := e.1 } }
  if e.2 then s.fenceCore k else s

/-- An event of the core's shadow engine; a lasting one fences the core. -/
def State.shadowEvent (s : State) (k : Fin 768) : State :=
  let e := (s.core k).rg.ecshd.event s.cadence.toNat (s.core k).rg.ewshd
  let s := s.onCore k fun c => { c with rg := { c.rg with ecshd := e.1 } }
  if e.2 then s.fenceCore k else s

/-- A transfer retry of a core's channels; a lasting one notifies the host. -/
def State.transferEvent (s : State) (k : Fin 768) : State :=
  let e := (s.core k).rg.ecxfr.event s.cadence.toNat (s.core k).rg.ewxfr
  let s := s.onCore k fun c => { c with rg := { c.rg with ecxfr := e.1 } }
  if e.2 then s.notice 0x36 1 k.val 0 0 else s

/-! Shootdown requests (R364). -/

/-- The pages of a shootdown by SHOOTRNG (R364). -/
def State.shootCount (s : State) : Nat := max 1 (bits (s.dev 0xC41) 0 25)

/-- A matrix command has a place in the range of a SHOOTREQ value. -/
def MCmd.within (c : MCmd) (x : Word) (count : Nat) : Bool :=
  c.places.any fun p => shotTag (bits x 58 6) (bits x 56 2) (bits x 40 16) (bits x 16 24) count p.tag

/-- n bytes from an address on a path through page tables touch a page in the range of a SHOOTREQ value, through a context slot. -/
def touches (slot : Nat) (a : Word) (n : Nat) (x : Word) (count : Nat) : Bool :=
  (decide (bits a 60 4 = 0) || decide (bits a 60 4 = 3)) && (List.range ((bits a 0 16 + n + 65535) / 65536)).any fun i =>
    shotTag (bits x 58 6) (bits x 56 2) (bits x 40 16) (bits x 16 24) count (slot, bits a 40 16, bits a 16 24 + i)

/-- A unit of a channel's command that is on its way has a destination in the range of a SHOOTREQ value. -/
def Channel.flightWithin (ch : Channel) (x : Word) (count : Nat) : Bool :=
  match ch.cmds, ch.flight with
  | c :: _, some f => f.writes.any fun w => touches c.ctxSlot w.1 w.2.length x count
  | _, _ => false

/-- A shootdown waits for the accesses that use an old entry (R364): those of matrix commands that have been translated and not yet
performed, and the writes of copy pieces that are on their way (notes/assumptions/99.md). -/
def State.shootWaits (s : State) (x : Word) : Bool :=
  decide (bits x 56 2 ≠ 3) && s.cores.toList.any fun k =>
    (k.en.mq.any fun c => c.within x s.shootCount) || (k.en.mrun.any fun r => r.phase != .done && r.cmd.within x s.shootCount) ||
      k.en.chans.toList.any fun ch => ch.flightWithin x s.shootCount

/-- SHOOTREQ written (R364): every other access is performed before it, so it runs at once. -/
def State.shootRequest (s : State) (x : Word) : State :=
  if bits x 56 2 = 3 then s
  else s.shootdown (bits x 58 6) (bits x 56 2) (bits x 40 16) (bits x 16 24) s.shootCount

end Sys2Proof.Machine
end

