-- ==== Sys2Proof/Machine/Tiles.lean ====
section
/-! DEFINITION. What the matrix cluster computes: tiles and their shapes, the format word, products, drains and tile
conversions (01 R16 to R19, 04 R110 to R118, 06 R162 to R169). -/

namespace Sys2Proof.Machine

/-! Shapes. -/

/-- ETYPE, ROWS and COLS of a shape (R17). -/
def shType (sh : Word) : Nat := bits sh 16 4
def shRows (sh : Word) : Nat := bits sh 0 6
def shCols (sh : Word) : Nat := bits sh 7 7

/-- Bytes of a row inside the shape. -/
def shBytes (sh : Word) : Nat := shCols sh * sizeOfR18 (shType sh)

/-- An element of a tile (R16). -/
def tileElem (t : Memory) (es i j : Nat) : Nat := t.readLe (64 * i + es * j) es

/-- A row of 64 bytes as elements. -/
def tileRow (t : Memory) (es i : Nat) : List Nat := (List.range (64 / es)).map fun j => tileElem t es i j

/-- The bytes inside a shape, those outside it zero (R19). -/
def clipTile (t : Memory) (sh : Word) : Memory :=
  ⟨t.cells.filter fun c => decide (c.1 / 64 < shRows sh) && decide (c.1 % 64 < shBytes sh)⟩

/-! The format word (R110, R111). -/

def wA (w : Word32) : Nat := bits w 28 4
def wB (w : Word32) : Nat := bits w 24 4
def wAcc (w : Word32) : Nat := bits w 22 2
def wRm (w : Word32) : Nat := bits w 20 2
def wD (w : Word32) : Nat := bits w 16 4
def wSat (w : Word32) : Bool := bit w 15

/-- How a format word stands to a command: run by the hardware, emulated, or invalid (R112). -/
inductive WordClass where
  | hard | emulated | invalid
  deriving DecidableEq, Repr

/-- A type of eight bits that a 16-term group takes; 0x9 to 0xB are emulated. -/
def groupType (t : Nat) : Bool := decide (t = 1) || decide (t = 2) || (decide (9 ≤ t) && decide (t ≤ 11))

/-- The combinations of R111 for `TMMA` and `TMMAS`. -/
def mmaWord (w : Word32) (scaled : Bool) : WordClass :=
  let a := wA w; let b := wB w; let acc := wAcc w
  if bits w 0 15 ≠ 0 then .invalid
  else if a = 3 ∧ b = 3 then (if acc = 3 ∨ scaled then .invalid else .hard)
  else if a = 4 ∧ b = 4 then (if acc ≠ 0 ∨ scaled then .invalid else .hard)
  else if acc ≠ 0 then .invalid
  else if (a = 5 ∨ a = 6) ∧ (b = 5 ∨ b = 6) then .hard
  else if groupType a && groupType b then (if 9 ≤ a ∨ 9 ≤ b then .emulated else .hard)
  else .invalid

/-- The combinations of R111 for drains. -/
def drainWord (w : Word32) : WordClass :=
  if bits w 0 15 ≠ 0 ∨ wAcc w = 3 ∨ wRm w = 3 ∨ wD w = 0 ∨ 12 ≤ wD w ∨ (wRm w = 2 ∧ wD w = 4) then .invalid
  else if 9 ≤ wD w then .emulated
  else .hard

/-! Products (R115 to R118, R165, R166). -/

/-- Group size and window of a pair of types; the whole row for I8 and LOG6. -/
def groupOf (w : Word32) : Nat × Nat :=
  if wA w = 3 ∨ wA w = 4 then (64, 0) else if wA w = 5 ∨ wA w = 6 then (8, 32) else (16, 18)

/-- Groups of a row. -/
def groupCount (w : Word32) : Nat := 64 / sizeOfR18 (wA w) / (groupOf w).1

/-- The floating format of a type code. -/
def floatOf (t : Nat) : FloatFmt :=
  match fmtOfR18 t with
  | .float f => f
  | _ => f32

/-- The scale exponent of R117 for group g of element (i, j); none where a scale is NaN. -/
def scaleExp (scales : List Byte) (w : Word32) (shA shB : Word) (i j g : Nat) : Option Int :=
  if scales = [] ∨ shRows shA ≤ i ∨ shRows shB ≤ j then some 0
  else
    let b := g * (groupOf w).1 / 32
    let ea := (scales.getD (32 * (2 * b) + i) 0).toNat
    let eb := (scales.getD (32 * (2 * b + 1) + j) 0).toNat
    if ea = 255 ∨ eb = 255 then none else some ((ea : Int) + eb - 254)

/-- One group entered into an accumulator word (R165). -/
def groupStep (w : Word32) (ps : List (Nat × Nat)) (sc : Option Int) (c : Nat) : Nat × BitVec 8 :=
  if wA w = 3 then
    (if wAcc w = 0 then accF32 c (.fin (int8Sum ps) 0) 0 else accInt c (int8Sum ps) (wAcc w == 2))
  else if wA w = 4 then accF32 c (log6Sum ps) 0
  else
    match sc with
    | none => accF32 c (.nan true) 0
    | some k => accF32 c (groupSum (floatOf (wA w)) (floatOf (wB w)) ps (groupOf w).2) k

/-- n groups from group g on. -/
def groupSteps (w : Word32) (ra rb : List Nat) (sc : Nat → Option Int) (c : Nat × BitVec 8) (g : Nat) : Nat → Nat × BitVec 8
  | 0 => c
  | n + 1 =>
    let k := (groupOf w).1
    let r := groupStep w (((ra.drop (g * k)).take k).zip ((rb.drop (g * k)).take k)) (sc g) c.1
    groupSteps w ra rb sc (r.1, c.2 ||| r.2) (g + 1) n

/-- n groups from g on of a command over all 1,024 words, with its flags (R165). -/
def mmaWords (w : Word32) (ta tb : Memory) (shA shB : Word) (scales : List Byte) (base : List Word32) (g n : Nat) :
    List Word32 × BitVec 8 :=
  let es := sizeOfR18 (wA w)
  let ra := (List.range 32).map fun i => tileRow ta es i
  let rb := (List.range 32).map fun j => tileRow tb es j
  let viol := decide (wA w = 4) && (ra ++ rb).any fun r => r.any fun b => decide (64 ≤ b)
  let rs := (List.range 1024).map fun x =>
    groupSteps w (ra.getD (x / 32) []) (rb.getD (x % 32) []) (fun g => scaleExp scales w shA shB (x / 32) (x % 32) g)
      ((base.getD x 0).toNat, 0) g n
  (rs.map fun r => BitVec.ofNat 32 r.1, rs.foldl (fun f r => f ||| r.2) (flagIf viol FMTV))

/-! Drains (R168, R169). -/

/-- One element of a drain: its bits and flags. -/
def drainElem (w : Word32) (u : Nat) (x : Word32) : Nat × BitVec 8 :=
  let src : Fmt := if wAcc w = 0 then .float f32 else .int 32 true
  if (wAcc w = 0 ∧ wD w = 7) ∨ (wAcc w ≠ 0 ∧ wD w = 8) then (x.toNat, 0)
  else convert src (fmtOfR18 (wD w)) x.toNat (wRm w) (wSat w) u

/-- The draw of element n under SR; 0 under the other modes, which draw nothing. -/
def drainDraw (w : Word32) (key ctr : Word) (n : Nat) : Nat := if wRm w = 2 then drawBits key (ctr + BitVec.ofNat 64 n) else 0

/-- The bytes and flags of a drain of 1,024 words. -/
def drainBytes (w : Word32) (key ctr : Word) (words : List Word32) : List Byte × BitVec 8 :=
  let e := sizeOfR18 (wD w)
  let rs := words.mapIdx fun n x => drainElem w (drainDraw w key ctr n) x
  (rs.flatMap fun r => leBytes r.1 e, rs.foldl (fun f r => f ||| r.2) 0)

/-- Draws that a drain or conversion of n elements makes. -/
def drawsOf (rm n : Nat) : Nat := if rm = 2 then n else 0

/-- One word of `TDRAINADD` (R169). -/
def drainAddElem (w : Word32) (k : Bool) (u : Nat) (old x : Nat) : Nat × BitVec 8 :=
  let r := addF32 old x (wRm w) (wSat w) u
  if k ∧ okeyFloat 32 r.1 < okeyFloat 32 0 then (0, r.2) else r

/-- One row of `TDRAINADD`: 32 old words, the words of the row, and the number of its first element. -/
def drainAddRow (w : Word32) (k : Bool) (key ctr : Word) (old new : List Nat) (n : Nat) : List Byte × BitVec 8 :=
  let rs := (old.zip new).mapIdx fun i p => drainAddElem w k (drainDraw w key ctr (n + i)) p.1 p.2
  (rs.flatMap fun r => leBytes r.1 4, rs.foldl (fun f r => f ||| r.2) 0)

/-! Tile conversion and transposition (R163, R164). -/

/-- The source and destination elements of a shape, row by row. -/
def shapeElems (sh : Word) : List (Nat × Nat) :=
  (List.range (shRows sh)).flatMap fun i => (List.range (shCols sh)).map fun j => (i, j)

/-- `TCVT`: the destination tile and the flags. -/
def convertTile (src : Memory) (shS shD : Word) (rm : Nat) (key ctr : Word) : Memory × BitVec 8 :=
  let es := sizeOfR18 (shType shS)
  let ed := sizeOfR18 (shType shD)
  ((shapeElems shS).mapIdx fun n p => (n, p)).foldl
    (fun (r : Memory × BitVec 8) e =>
      let c := convert (fmtOfR18 (shType shS)) (fmtOfR18 (shType shD)) (tileElem src es e.2.1 e.2.2) rm true
        (if rm = 2 then drawBits key (ctr + BitVec.ofNat 64 e.1) else 0)
      (r.1.writeLe (64 * e.2.1 + ed * e.2.2) ed c.1, r.2 ||| c.2)) (Memory.empty, 0)

/-- `TTRANS`. -/
def transposeTile (src : Memory) (sh : Word) : Memory :=
  let es := sizeOfR18 (shType sh)
  (shapeElems sh).foldl (fun m p => m.writeLe (64 * p.2 + es * p.1) es (tileElem src es p.1 p.2)) Memory.empty

/-! Words with upsets (R320, R330). -/

/-- Words as an engine delivers them, with the bits its upsets flip. -/
def upsetWords (ws : List Word32) (u : Upset) : List Word32 :=
  u.foldl (fun l e => l.set e.1 ((l.getD e.1 0) ^^^ e.2)) ws

/-- The fold of words (R321). -/
def foldWords (ws : List Word32) : Word := foldBytes foldStart (ws.flatMap fun w => leBytes w.toNat 4)

/-- Bytes as 32-bit words; a short last word is filled with zeros. -/
def bytesWords : List Byte → List Word32
  | a :: b :: c :: d :: rest => BitVec.ofNat 32 (leNat [a, b, c, d]) :: bytesWords rest
  | [] => []
  | bs => [BitVec.ofNat 32 (leNat bs)]

/-- The bytes of words. -/
def wordsBytes (ws : List Word32) : List Byte := ws.flatMap fun w => leBytes w.toNat 4

end Sys2Proof.Machine
end

