-- ==== Sys2Proof/Machine/Tokens.lean ====
section
/-! DEFINITION. Tokens and the order they carry (01 R25, 02 R51, 10 R263): a push releases and a pop acquires. -/

namespace Sys2Proof.Machine

/-- One token popped from each queue of a set, by an agent of the core. -/
def Core.popTokens (k : Core) (agent : Nat) (own : Clu) (set : BitVec 3) : Core :=
  ({ k with st := k.st.popTokens own set }).onCheck fun c =>
    (peerSet own set).foldl (fun c p => c.take agent (objTok (tokIdx p own))) c

/-- The post tokens of a command of an engine, pushed into the room it reserved: they release what the command's agents have done, and
nothing that came before it (08 R198, 12 R297). -/
def Core.postOwn (k : Core) (agents : List Nat) (own : Clu) (set : BitVec 3) : Core :=
  ({ k with st := k.st.post own set }).onCheck fun c =>
    (peerSet own set).foldl (fun c p => c.carry (objTok (tokIdx own p)) (c.clocksOf agents)) c

/-- What a push into each queue of a set releases. -/
def Core.noteTokens (k : Core) (agent : Nat) (own : Clu) (set : BitVec 3) : Core :=
  k.onCheck fun c => (peerSet own set).foldl (fun c p => c.release agent (objTok (tokIdx own p))) c

/-- One token pushed into each queue of a set. -/
def Core.pushTokens (k : Core) (agent : Nat) (own : Clu) (set : BitVec 3) : Core :=
  ({ k with st := k.st.pushTokens own set }).noteTokens agent own set

/-- The post tokens of a form that finishes, pushed into the room it reserved. -/
def Core.postTokens (k : Core) (agent : Nat) (own : Clu) (set : BitVec 3) : Core :=
  ({ k with st := k.st.post own set }).noteTokens agent own set

/-- The agent of the executing cluster. -/
def State.agent (s : State) : Nat := s.me.cluAgent s.cur.clu

/-- A long form takes its wait tokens, and so acquires what they release, before its checks (R25, R155 step 3). -/
def State.popWait (s : State) (l : Long) : State := s.onMe fun k => k.popTokens s.agent s.cur.clu l.wait

/-- A long form that finishes later reserves room for its post set (R25). -/
def State.reserveSets (s : State) (l : Long) : State := s.onMe fun k => { k with st := k.st.reserve s.cur.clu l.post }

/-- A long form takes its wait tokens and reserves room for its post set. -/
def State.takeSets (s : State) (l : Long) : State := (s.popWait l).reserveSets l

/-- A long form that finishes at issue pushes its post tokens at once. -/
def State.finishSets (s : State) (l : Long) : State := s.onMe fun k => k.pushTokens s.agent s.cur.clu l.post

/-- A long form under its guard (R51): nullified where the guard is false; else it waits for its sets, takes its wait tokens, and acts. -/
def State.guarded (s : State) (l : Long) (act : State → Out) : Out :=
  if s.p l.guard then (if s.setsReady l then act (s.popWait l) else s.stall) else .next s

end Sys2Proof.Machine
end

