-- ==== Sys2Proof/Machine/Matrix.lean ====
section
/-! DEFINITION. Matrix commands: checks and issue, start, certification, the locket (06 R155 to R178, 14 R320 to R334). -/

namespace Sys2Proof.Machine

/-! Addresses of moves and drains (R161, R162). -/

/-- The four kinds of access of R161. -/
inductive MoveKind where
  | load | store | drain | add
  deriving DecidableEq, Repr

/-- The addresses of n lines from an address. -/
def lineAddrs (a : Word) (n : Nat) : List Word := (List.range n).map fun i => a + BitVec.ofNat 64 (64 * i)

/-- Where the path of a move leads: the outcome of R161's table, none where the access is permitted. -/
def movePath (kind : MoveKind) (path : Nat) : Option Nat :=
  if path = 0 ∨ path = 3 ∨ path = 9 ∨ path = 10 then none
  else if kind = .load then (if path = 8 ∨ path = 1 then none else if path = 11 then some 0xA else some 8)
  else if path = 8 ∨ path = 11 then some 0xA
  else if path = 2 then some 0xB
  else some 8

/-- The form of one line of a move: n bytes inside a buffer's footprint, or a memory address. -/
def State.moveForm (s : State) (a : Word) (n : Nat) : Bool :=
  let path := bits a 60 4
  if 8 ≤ path ∧ path ≤ 11 then decide (bits a 40 20 = 0) && s.me.inFoot (Fin.ofNat 4 path) (bits a 0 40) n
  else genForm a

/-- Translation of every line of a move; `TDRAINADD` needs coherent pages. -/
def State.moveReach (s : State) (kind : MoveKind) : List Word → Res Unit
  | [] => .ok () s
  | a :: rest =>
    if 8 ≤ bits a 60 4 then s.moveReach kind rest
    else
      match s.reach (s.old.slotFor s.cur.clu) a (kind != .load) with
      | .error (c, d) => .trap c d a
      | .ok p => if kind = .add ∧ !p.coherent then .trap 8 0 a else s.moveReach kind rest

/-- Under DET, an access of a matrix command to buffer bytes checked and recorded at issue, as its cluster's and under the command's own
mark (R263, 12 R297). -/
def State.raceCheck (s : State) (b : Fin 4) (off n : Nat) (write : Bool) (addr : Word) : Res Unit :=
  let k := s.me
  let ag := k.cluAgent s.cur.clu
  let ck := ((k.en.check.clock ag).join (k.en.check.stallClock ag)).join (k.wmClock b off n k.en.issued)
  if k.races ck ag b off n write then .trap 0x11 0 addr
  else .ok () (s.onMe fun c =>
    if c.det then ((c.count 0x10 s.cur.clu 1).onCheck fun x => (x.acquire ag ck).unstall ag).noteAccess ck ag b off n write
      (k.heldBy b off n k.en.issued)
      (some (k.cmdAgent k.en.issued)) else c)

/-- The race checks of a list of lines, n bytes of each. -/
def State.raceLines (s : State) (write : Bool) (n : Nat) : List Word → Res Unit
  | [] => .ok () s
  | a :: rest =>
    if 8 ≤ bits a 60 4 ∧ bits a 60 4 ≤ 11 then
      (s.raceCheck (Fin.ofNat 4 (bits a 60 4)) (bits a 0 40) n write a).bind fun _ t => t.raceLines write n rest
    else s.raceLines write n rest

/-- The checks of R161 in the order of R141, over lines of which n bytes each are accessed. -/
def State.moveCheck (s : State) (kind : MoveKind) (a : Word) (align n : Nat) (lines : List Word) : Res Unit :=
  let path := bits a 60 4
  if s.pathShut path then .trap 8 0 a
  else if a.toNat % align ≠ 0 then .trap 9 0 a
  else if 4 ≤ path ∧ path ≤ 5 ∨ 12 ≤ path then .trap 8 0 a
  else
    match lines.find? fun x => !s.moveForm x n with
    | some x => .trap 8 0 x
    | none =>
      match movePath kind path with
      | some 0xB => (match s.latTarget a with
        | .trap c d x => .trap c d x
        | _ => .trap 0xB 0 a)
      | some c => .trap c 0 a
      | none => (s.moveReach kind lines).bind fun _ t => t.raceLines (kind != .load) n lines

/-! Issue (R155). -/

/-- The shape register of a tile as the bundle finds it. -/
def State.tsh (s : State) (t : TReg) : Word := vget s.old.st.tsh t

/-- The format word a command pops. -/
def State.nextFmt (s : State) : Word32 := s.old.st.fq.headD 0

/-- The command of the instruction in hand. -/
def State.mkCmd (s : State) (i : Instr) (fmt : Word32) (g shA shB : Word) : MCmd :=
  { i := i, w0 := s.ir.w0, w1 := s.ir.w1, fmt := fmt, g := g, shA := shA, shB := shB, places := [], groups := 0,
    order := s.me.en.issued, after := s.cl.fence }

/-- A fault of a matrix command: TINFO carries the popped word for causes 0x0D and 0x0E (R346). -/
def State.matrixFault (s : State) (c d : Nat) (a : Word) (fmt : Word32) : Out :=
  s.raise c d a (if c = 0xE then s.ir.w0 ++ fmt else if c = 0xD then s.ir.w0 ++ (0 : Word32) else s.irInfo)

/-- The format word of a command popped, where it pops one. -/
def State.popFmt (s : State) (pop : Bool) : State := if pop then s.onSt fun t => { t with fq := t.fq.tail } else s

/-- A late issue counts (R31, R176, R267). -/
def Core.late (k : Core) : Core :=
  let n := min (bits k.st.stampc 32 32 + 1) 0xFFFF_FFFF
  { k with st := { k.st with stampc := BitVec.ofNat 64 (n * 2 ^ 32 + bits k.st.stampc 0 32) } }.count 0xF .m 1

/-- A format-emulation request (R112, R349): the matrix cluster is held at the command and the control cluster is to take
cause 0x1C. The format word is consumed, and room reserved for the post set; the wait tokens stay until the command finishes, for a
format-word fault leaves them in their queues (R126, R155). The bundle is charged here, under the overdraw check (17 R396). -/
def State.emulate (s : State) (l : Long) (pop late : Bool) (cmd : MCmd) : Out :=
  let charge := max 1 (s.chargeOf cmd.i)
  if s.overdraws s.cur.core charge then s.fault 0x1B 0
  else
  let t : Trap := { clu := .m, cause := 0x1C, detail := 0, async := true, addr := 0, info := cmd.w0 ++ cmd.fmt }
  let u := (s.undo.onSt fun t => t.reserve s.cur.clu l.post).popFmt pop
  .next { (((if late then u.onMe Core.late else u).onMe fun k =>
    { k with en := { k.en with emul := some cmd }, pend := k.pend ++ [(.c, t)] }).charge s.cur.core charge) with report := .trapped }

/-- A command enters the matrix command queue. -/
def State.enqueue (s : State) (pop : Bool) (cmd : MCmd) : State :=
  (s.popFmt pop).onEn fun e => { e with mq := e.mq ++ [cmd], issued := e.issued + 1 }

/-! Pending work (R156 to R158, R28). -/

/-- A run whose accumulator awaits comparison, assay included: it holds an undo slot and locks its tiles. -/
def MRun.isOpen (r : MRun) : Bool := r.openAcc.isSome

/-- Undo slots taken. -/
def Core.undoCount (k : Core) : Nat := k.en.mrun.countP MRun.isOpen

/-- The tiles of a command on an accumulator. -/
def MCmd.tiles (c : MCmd) : List TReg :=
  match c.i with
  | .tmma _ _ ta tb => [ta, tb]
  | .tmmas _ _ ta tb _ => [ta, tb]
  | _ => []

/-- A tile is write-locked (R28); a stopped command keeps its locks (R177), and those written through the window while the engine is
stopped stand (R342, R349). -/
def Core.tileLocked (k : Core) (t : TReg) : Bool :=
  match k.en.lockPut with
  | some m => bit m t.val
  | none =>
  (k.en.mrun.any fun r => r.isOpen && r.cmd.tiles.contains t) ||
    (match k.en.mstop with
    | some r => r.cmd.tiles.contains t
    | none => false)

/-- The accumulator a command names. -/
def MCmd.acc (c : MCmd) : BitVec 6 :=
  match c.i with
  | .tmma _ acc _ _ => acc
  | .tmmas _ acc _ _ _ => acc
  | .tdrain _ _ acc => acc
  | .tdrainadd _ _ acc _ => acc
  | .hmrd _ _ acc => acc
  | .hmclr _ acc => acc
  | _ => 0

/-- The command is a drain. -/
def MCmd.isDrain (c : MCmd) : Bool :=
  match c.i with
  | .tdrain .. | .tdrainadd .. => true
  | _ => false

/-- A held drain, one whose conversions differ among them (R171, R323). -/
def MRun.isHeld (r : MRun) : Bool := r.cmd.isDrain && r.phase != .done

/-- An accumulator has an open command. -/
def Core.accOpen (k : Core) (acc : BitVec 6) : Bool := k.en.mrun.any fun r => r.openAcc == some acc

/-- Bytes a drain writes. -/
def MCmd.drainSize (c : MCmd) : Nat := 1024 * sizeOfR18 (wD c.fmt)

/-- The lines a command accesses in buffers and memory. -/
def MCmd.lines (c : MCmd) : List Word :=
  match c.i with
  | .tld _ _ _ => lineAddrs c.g (shRows c.shA)
  | .tst _ _ _ => lineAddrs c.g (shRows c.shA)
  | .tdrain _ _ _ => lineAddrs c.g (c.drainSize / 64)
  | .tdrainadd _ _ _ _ => lineAddrs c.g 64
  | _ => []

/-- A line that a command accesses: its address, and for memory its place as the issue translated it (R161). -/
structure Spot where
  addr : Word
  place : Option Phys

/-- The lines of a command with their places. -/
def MCmd.spots (c : MCmd) : List Spot := c.lines.mapIdx fun i a => { addr := a, place := c.places[i]? }

/-- The command as it issues: its lines of memory translated. -/
def State.placed (s : State) (c : MCmd) (write : Bool) : MCmd :=
  { c with places := c.lines.filterMap fun a =>
      if 8 ≤ bits a 60 4 then none else (s.reach (s.old.slotFor s.cur.clu) a write).toOption }

/-- One identity for each line of buffers and memory. -/
def Spot.key (p : Spot) : Nat :=
  match p.place with
  | some q => q.line
  | none => 2 ^ 80 + bits p.addr 60 4 * 2 ^ 40 + bits p.addr 6 34

/-- A place with what its page entry now says of a dead page (15 R362). -/
def State.fresh (s : State) (p : Phys) : Phys := { p with dead := s.ms.pageDead p.pte }

/-- The C-buffer lines of an accumulator. -/
def accKeys (acc : BitVec 6) : List Nat := (List.range 64).map fun i => 2 ^ 80 + 10 * 2 ^ 40 + acc.toNat * 64 + i

/-- The lines of held drains: their destinations and the accumulators they read. -/
def State.heldDest (s : State) (k : Fin 768) : List Nat :=
  ((s.core k).en.mrun.filter MRun.isHeld).flatMap fun r => r.cmd.spots.map Spot.key

def State.heldReads (s : State) (k : Fin 768) : List Nat :=
  ((s.core k).en.mrun.filter MRun.isHeld).flatMap fun r => accKeys r.cmd.acc

/-- Two lists share an element. -/
def meets (a b : List Nat) : Bool := a.any fun x => b.contains x

/-- A line of a typed buffer stands in the way of an access of a command: a watermark, or an uncompared accumulator. -/
def Core.lineBlocked (k : Core) (order : Nat) (n : Nat) (a : Word) : Bool :=
  let b : Fin 4 := Fin.ofNat 4 (bits a 60 4)
  decide (8 ≤ bits a 60 4) && (k.wmBlocked b (bits a 0 40) n order || (b == 2 && k.uncompared (bits a 0 40) n))

/-- A line is ready for an access: its home does not hold requests to it. -/
def State.lineReady (s : State) (p : Spot) : Bool := (p.place.map fun q => !s.held (dieOf s.cur.core) q).getD true

/-- The command accesses UC memory. -/
def MCmd.uncached (c : MCmd) : Bool := decide (c.lines ≠ []) && decide (bits c.g 60 4 = 3)

/-- The command writes the lines it accesses. -/
def MCmd.writes (c : MCmd) : Bool :=
  match c.i with
  | .tld .. => false
  | _ => true

/-- The tile a command writes. -/
def MCmd.writesTile (c : MCmd) : Option TReg :=
  match c.i with
  | .tld _ t _ => some t
  | .tqld _ t => some t
  | .tzero _ t => some t
  | .ttrans _ t _ => some t
  | .tcvt _ t _ _ => some t
  | _ => none

/-- A command may start, the older ones having started (R28, R156 to R158, R162, R215). Accesses to UC memory keep the order of the cluster
(05 R145), so that one waits for a held drain to UC memory. -/
def State.canStart (s : State) (k : Fin 768) (c : MCmd) : Bool :=
  let q := s.core k
  let n := match c.i with
    | .tld .. => shBytes c.shA
    | .tst .. => shBytes c.shA
    | _ => 64
  let keys := c.spots.map Spot.key
  let fenced := q.en.mrun.any fun r => r.isHeld && decide (r.cmd.order < c.after)
  let inTurn := !(c.uncached && q.en.mrun.any fun r => r.isHeld && r.cmd.uncached)
  let free := !fenced && inTurn && (c.spots.all fun p => s.lineReady p && !q.lineBlocked c.order n p.addr) &&
    !meets keys (s.heldDest k) && !(c.writes && meets keys (s.heldReads k))
  let tileFree := match c.writesTile with
    | some t => !q.tileLocked t
    | none => true
  tileFree &&
    match c.i with
    | .tld .. => free
    | .tst .. => free
    | .tqld .. => decide (shRows c.shA ≤ q.st.qam.length)
    | .tmma _ acc _ _ => !fenced && decide (q.undoCount < 2) && !q.accOpen acc && !meets (accKeys acc) (s.heldDest k ++ s.heldReads k)
    | .tmmas _ acc _ _ _ =>
      !fenced && decide (q.undoCount < 2) && !q.accOpen acc && !meets (accKeys acc) (s.heldDest k ++ s.heldReads k) &&
        !q.wmBlocked 3 (32 * c.g.toNat) (64 * (64 / sizeOfR18 (wA c.fmt) / 32)) c.order
    | .tdrain .. | .tdrainadd .. =>
      let held := q.en.mrun.filter MRun.isHeld
      free && decide (held.length < 8) && decide (held.foldl (fun n r => n + r.cmd.drainSize) 0 + c.drainSize ≤ 32768) &&
        !meets (accKeys c.acc) (s.heldDest k)
    | .hmrd .. | .hmclr .. =>
      !q.accOpen c.acc && !meets (accKeys c.acc) (s.heldDest k) &&
        !(q.en.mrun.any fun r => r.isHeld && r.cmd.acc == c.acc && r.phase != .held)
    | _ => true

/-! Effects. -/

/-- The words of an accumulator. -/
def Storage.accWords (t : Storage) (acc : BitVec 6) : List Word32 :=
  (List.range 1024).map fun n => BitVec.ofNat 32 (t.bufC.readLe (acc.toNat * 4096 + 4 * n) 4)

/-- Words written into an accumulator. -/
def Storage.putAcc (t : Storage) (acc : BitVec 6) (ws : List Word32) : Storage :=
  t.putBuf 2 (acc.toNat * 4096) (wordsBytes ws)

/-- A hallmark pair. -/
def Storage.setHall (t : Storage) (acc : BitVec 6) (p q : Word) : Storage := { t with hall := vset t.hall (Fin.ofNat 48 acc.toNat) (p, q) }

/-- The hallmark pairs of the accumulators that C-buffer bytes touch are reset (R170). -/
def Storage.resetHall (t : Storage) (off n : Nat) : Storage :=
  (List.range 48).foldl (fun t a =>
    if a * 4096 < off + n ∧ off < a * 4096 + 4096 then t.setHall (BitVec.ofNat 6 a) foldStart foldStart else t) t

/-- n bytes of a line written for the executing core: into its buffer, or at memory as its store (R159). A line that has become lattice
memory since the issue takes nothing (13 R319). -/
def State.putLineBytes (s : State) (at_ : Spot) (n x : Nat) : State :=
  let a := at_.addr
  match at_.place with
  | none =>
    let b : Fin 4 := Fin.ofNat 4 (bits a 60 4)
    s.onMe fun k =>
      let t := k.st.putBuf b (bits a 0 40) (leBytes x n)
      { k with st := if b = 2 then t.resetHall (bits a 0 40) n else t }
  | some p =>
    if s.frameLost p ∨ s.latticeFrame p then s
    else
      match s.lineStore (s.fresh p) (bits a 60 4) (rangeMask p.off n) (placeInLine (x % 256 ^ n) p.off) with
      | .ok _ t => t
      | _ => s

/-- n bytes of a line as the matrix cluster reads them; none where the line's content is lost. -/
def State.getLineBytes (s : State) (at_ : Spot) (n : Nat) : Option (Nat × State) :=
  let a := at_.addr
  match at_.place with
  | none =>
    let b : Fin 4 := Fin.ofNat 4 (bits a 60 4)
    if s.me.st.poisoned b (bits a 0 40) n then none else some ((s.me.st.buf b).readLe (bits a 0 40) n, s)
  | some p =>
    if s.frameLost p then none
    else
      match s.lineLoad (s.fresh p) (bits a 60 4) (rangeMask p.off n) with
      | .ok l t => some (linePart l p.off n, t)
      | _ => none

/-- Rows read into a tile. -/
def State.loadRows (s : State) (n : Nat) (m : Memory) (i : Nat) : List Spot → Option (Memory × State)
  | [] => some (m, s)
  | p :: rest =>
    match s.getLineBytes p n with
    | none => none
    | some (x, t) => t.loadRows n (m.writeLe (64 * i) n x) (i + 1) rest

/-- Rows written from a tile. -/
def State.storeRows (s : State) (n : Nat) (m : Memory) (i : Nat) : List Spot → State
  | [] => s
  | p :: rest => (s.putLineBytes p n (m.readLe (64 * i) n)).storeRows n m (i + 1) rest

/-- Bytes written over whole lines. -/
def State.storeBytes (s : State) (bs : List Byte) : List Spot → State
  | [] => s
  | p :: rest => (s.putLineBytes p 64 (leNat (bs.take 64))).storeBytes (bs.drop 64) rest

/-- The run of a command whose effects are made. -/
def MCmd.done (c : MCmd) : MRun :=
  { cmd := c, phase := .done, words := [], scales := [], foldP := 0, foldS := 0, flags := 0, key := 0, ctr := 0, part := none }

/-- The scales of a command, captured at its start (R166, R324). -/
def Storage.scaleLatch (t : Storage) (c : MCmd) : List Byte :=
  match c.i with
  | .tmmas .. => t.bufS.readList (32 * c.g.toNat) (64 * (64 / sizeOfR18 (wA c.fmt) / 32))
  | _ => []

/-- The clean result of a command on an accumulator, from group g on over n groups. -/
def Storage.mmaResult (t : Storage) (c : MCmd) (scales : List Byte) (base : List Word32) (g n : Nat) : List Word32 × BitVec 8 :=
  match c.tiles with
  | [ta, tb] => mmaWords c.fmt (vget t.tiles ta) (vget t.tiles tb) c.shA c.shB scales base g n
  | _ => (base, 0)

/-- A tile register written. -/
def Storage.setTile (t : Storage) (r : TReg) (m : Memory) : Storage := { t with tiles := vset t.tiles r m }

/-- A command on an accumulator starts at its next group: both engines compute it, the primary writes (R165, R320). -/
def Core.startMma (k : Core) (c : MCmd) (scales : List Byte) (upsetP upsetS : Upset) : Core :=
  let base := k.st.accWords c.acc
  let r := k.st.mmaResult c scales base c.groups (groupCount c.fmt - c.groups)
  let p := upsetWords r.1 upsetP
  let run : MRun := { c.done with phase := .uncompared, words := base, scales := scales, foldP := foldWords p,
                                  foldS := foldWords (upsetWords r.1 upsetS), flags := r.2 }
  { k with st := k.st.putAcc c.acc p, en := { k.en with mrun := k.en.mrun ++ [run] } }

/-- The run of a command recorded. -/
def Core.addRun (k : Core) (r : MRun) : Core := { k with en := { k.en with mrun := k.en.mrun ++ [r] } }

/-- The draws of a command taken from the matrix cluster's counter (R121). -/
def Core.takeDraws (k : Core) (n : Nat) : Core := k.onClu .m fun c => { c with srctr := c.srctr + BitVec.ofNat 64 n }

/-- The buffer words a command on an accumulator reads are poisoned (R270): of the scales, those of the rows in shape (R166). -/
def Storage.cmdPoisoned (t : Storage) (c : MCmd) : Bool :=
  match c.i with
  | .tmma .. | .tdrain .. | .tdrainadd .. => t.poisoned 2 (c.acc.toNat * 4096) 4096
  | .tmmas .. => t.poisoned 2 (c.acc.toNat * 4096) 4096 || (List.range (64 / sizeOfR18 (wA c.fmt) / 32)).any fun b =>
      t.poisoned 3 (32 * (c.g.toNat + 2 * b)) (shRows c.shA) || t.poisoned 3 (32 * (c.g.toNat + 2 * b + 1)) (shRows c.shB)
  | _ => false

/-- The watermarks that a starting command waited for are passed (R215, R263). -/
def Core.passMarks (k : Core) (c : MCmd) : Core :=
  let ag := k.cluAgent .m
  let n := match c.i with
    | .tld .. => shBytes c.shA
    | .tst .. => shBytes c.shA
    | _ => 64
  k.onCheck fun ck =>
    let ck := c.lines.foldl (fun ck a => if 8 ≤ bits a 60 4 then ck.passed ag (Fin.ofNat 4 (bits a 60 4)) (bits a 0 40) n else ck) ck
    match c.i with
    | .tmmas .. => ck.passed ag 3 (32 * c.g.toNat) (64 * (64 / sizeOfR18 (wA c.fmt) / 32))
    | _ => ck

/-- A command acts (R155 to R173); the executing cluster is M of its core. Upsets fall on the two engines. -/
def State.startCmd (s : State) (c : MCmd) (upsetP upsetS : Upset) : State :=
  let k := s.me
  let t := k.st
  let m := k.clu .m
  let s := s.onMe fun k => (k.count 7 .m 1).passMarks c
  if t.cmdPoisoned c then (s.machineCheck s.cur.core .m 0x21 0).onMe fun k => k.addRun c.done
  else
  match c.i with
  | .tld _ ta _ =>
    (match s.loadRows (shBytes c.shA) Memory.empty 0 c.spots with
    | some (x, u) => u.onMe fun k => ({ k with st := k.st.setTile ta x }).addRun c.done
    | none => (s.machineCheck s.cur.core .m 0x21 0).onMe fun k => k.addRun c.done)
  | .tst _ ta _ => (s.storeRows (shBytes c.shA) (vget t.tiles ta) 0 c.spots).onMe fun k => k.addRun c.done
  | .tqld _ ta =>
    let rows := t.qam.take (shRows c.shA)
    let x := (rows.mapIdx fun i l => (i, l)).foldl (fun m e => m.writeLe (64 * e.1) (shBytes c.shA) e.2.toNat) Memory.empty
    s.onMe fun k => (({ k with st := { k.st.setTile ta x with qam := k.st.qam.drop (shRows c.shA) } }).onCheck fun ck =>
      rows.foldl (fun ck _ => ck.take (s.me.cluAgent .m) (objQueue 1)) ck).addRun c.done
  | .tzero _ ta => s.onMe fun k => ({ k with st := k.st.setTile ta Memory.empty }).addRun c.done
  | .ttrans _ ta tb => s.onMe fun k => ({ k with st := k.st.setTile ta (transposeTile (vget k.st.tiles tb) c.shB) }).addRun c.done
  | .tcvt _ ta tb rm =>
    let r := convertTile (vget t.tiles tb) c.shB c.shA rm.toNat m.srkey m.srctr
    s.onMe fun k => (({ k with st := k.st.setTile ta r.1 }).takeDraws (drawsOf rm.toNat (shRows c.shA * shCols c.shA))).addRun
      { c.done with flags := r.2 }
  | .tmma .. => s.onMe fun k => k.startMma c [] upsetP upsetS
  | .tmmas .. => s.onMe fun k => k.startMma c (k.st.scaleLatch c) upsetP upsetS
  | .tdrain _ _ acc | .tdrainadd _ _ acc _ =>
    s.onMe fun k => (k.takeDraws (drawsOf (wRm c.fmt) 1024)).addRun
      { c.done with phase := .held, words := k.st.accWords acc, key := m.srkey, ctr := m.srctr }
  | .hmrd _ g acc =>
    let h := vget t.hall (Fin.ofNat 48 acc.toNat)
    s.onMe fun k => (k.onClu .m fun x => { x with g := vset (vset x.g g h.1) (g + 1) h.2 }).addRun c.done
  | .hmclr _ acc => s.onMe fun k => ({ k with st := k.st.setHall acc foldStart foldStart }).addRun c.done
  | _ => s

/-- The oldest queued command starts where it may. -/
def State.startHead (s : State) (upsetP upsetS : Upset) : Option State :=
  match s.me.en.mq with
  | [] => none
  | c :: rest =>
    if s.canStart s.cur.core c then
      some ((s.onEn fun e => { e with mq := rest }).startCmd c upsetP upsetS)
    else none

/-! Issue of a matrix long form (R155, R174). -/

/-- The target tick of a stamp. -/
def State.stampTick (s : State) (l : Long) : Word := s.old.st.stampb + l.stamp.setWidth 64

/-- A `TQLD` finds too few entries in QAM (R162, R175). -/
def MCmd.shortOf (c : MCmd) (t : Storage) : Bool :=
  match c.i with
  | .tqld .. => decide (t.qam.length < shRows c.shA)
  | _ => false

/-- A matrix form waits for earlier commands of its own cluster, which is no miss (R175). -/
def State.stallHeld (s : State) : Out := .next { (s.undo.onCl fun c => c.holdOn s.cadence.toNat) with report := .stalled }

/-- A matrix form waits for something else. -/
def State.stallOpen (s : State) : Out := .next { (s.undo.onCl fun c => c.holdOff s.cadence.toNat) with report := .stalled }

/-- A stamped form at or past its target tick has missed its schedule (R175): what held it at the tick is recorded as the tick passes
where the cluster stood at it; a cluster that came later is late unless its own earlier commands held it at the tick. -/
def State.missedStamp (s : State) (l : Long) : Bool :=
  let c := s.old.clu s.cur.clu
  decide (s.cadence ≠ s.stampTick l) && c.stampSeen.getD !(c.holdCovers (s.stampTick l).toNat)

/-- A stamped form is held by what makes it miss its schedule (R175): under LATE it waits and will issue late, else the fault is
raised (R176). -/
def State.missStamp (s : State) : Out :=
  if bit s.old.st.stampc 0 then .next { (s.undo.onCl fun c => { c with stampSeen := some true }) with report := .stalled }
  else s.matrixFault 0x10 0 0 0

/-- A matrix long form that has passed its checks, in t, enters the queue; a stamped one starts at once, not before every earlier command
has started. -/
def State.issueCmd (s : State) (l : Long) (pop late : Bool) (cmd : MCmd) (t : State) : Out :=
  if l.stamp = 0 then (if 8 ≤ s.me.en.mq.length then s.stallHeld else .next (t.enqueue pop cmd))
  else if s.me.en.mq ≠ [] then s.stallHeld
  else
    match (t.enqueue pop cmd).startHead s.ir.upsetP s.ir.upsetS with
    | some t => .next (if late then t.onMe Core.late else t)
    | none => s.stallHeld

/-- The issue steps of R155 of a matrix long form, given its checks. -/
def State.issueMatrix (s : State) (l : Long) (pop : Bool) (cmd : MCmd) (check : State → Res WordClass) : Out :=
  if !s.p l.guard then .next s
  else if s.me.en.emulDone ∧ s.me.en.emul.isSome then .next (s.onEn fun e => { e with emul := none, emulDone := false })
  else if l.stamp ≠ 0 ∧ s.cadence < s.stampTick l then s.stall
  else
    let late := decide (l.stamp ≠ 0) && s.missedStamp l
    if late && !bit s.old.st.stampc 0 then s.matrixFault 0x10 0 0 0
    else if !s.setsReady l || (decide (l.stamp ≠ 0) && cmd.shortOf s.me.st) then (if l.stamp = 0 then s.stallOpen else s.missStamp)
    else if pop ∧ s.old.st.fq = [] then s.matrixFault 0xD 0 0 0
    else
      match check (s.takeSets l) with
      | .wait => s.stall
      | .trap c d a => s.matrixFault c d a cmd.fmt
      | .ok .hard t => s.issueCmd l pop late (t.placed cmd cmd.writes) t
      | .ok _ _ => s.emulate l pop late cmd

/-! The instructions. -/

/-- `FMTW` (R160). -/
def execFmtw (l : Long) (g : Reg) (s : State) : Out :=
  s.guarded l fun u => (if 16 ≤ s.me.st.fq.length then s.stall
    else .next ((u.onSt fun t => { t with fq := t.fq ++ [(s.g g).setWidth 32] }).finishSets l))

/-- A check that ends in a hardware command. -/
def Res.hard (r : Res Unit) : Res WordClass := r.bind fun _ t => .ok .hard t

/-- `TLD` (R161, R162). -/
def execTld (l : Long) (ta : TReg) (g : Reg) (s : State) : Out :=
  let sh := s.tsh ta
  s.issueMatrix l false (s.mkCmd (.tld l ta g) 0 (s.g g) sh 0) fun s =>
    if shType sh = 0 then .trap 0xF 0 0
    else (s.moveCheck .load (s.g g) 64 (shBytes sh) (lineAddrs (s.g g) (shRows sh))).hard

/-- `TST` (R161, R162, R170). -/
def execTst (l : Long) (ta : TReg) (g : Reg) (s : State) : Out :=
  let sh := s.tsh ta
  s.issueMatrix l false (s.mkCmd (.tst l ta g) 0 (s.g g) sh 0) fun s =>
    if shType sh = 0 then .trap 0xF 0 0
    else (s.moveCheck .store (s.g g) 64 (shBytes sh) (lineAddrs (s.g g) (shRows sh))).hard

/-- `TQLD` (R162). -/
def execTqld (l : Long) (ta : TReg) (s : State) : Out :=
  let sh := s.tsh ta
  s.issueMatrix l false (s.mkCmd (.tqld l ta) 0 0 sh 0) fun s => if shType sh = 0 then .trap 0xF 0 0 else .ok .hard s

/-- `TZERO` (R163). -/
def execTzero (l : Long) (ta : TReg) (s : State) : Out :=
  s.issueMatrix l false (s.mkCmd (.tzero l ta) 0 0 (s.tsh ta) 0) fun s => .ok .hard s

/-- `TTRANS` (R163). -/
def execTtrans (l : Long) (ta tb : TReg) (s : State) : Out :=
  let a := s.tsh ta
  let b := s.tsh tb
  s.issueMatrix l false (s.mkCmd (.ttrans l ta tb) 0 0 a b) fun s =>
    if shType a = shType b ∧ shRows a = shCols b ∧ shCols a = shRows b then .ok .hard s else .trap 0xF 0 0

/-- A reserved element code that the firmware does not emulate (R18). -/
def deadType (t : Nat) : Bool := decide (12 ≤ t)

/-- A command that ends in the shape fault when the firmware refuses it: a `TCVT` of a tile with such a code (R18, R164). -/
def MCmd.refusedShape (c : MCmd) : Bool :=
  match c.i with
  | .tcvt .. => deadType (shType c.shA) || deadType (shType c.shB)
  | _ => false

/-- `TCVT` (R164, R112). -/
def execTcvt (l : Long) (ta tb : TReg) (rm : BitVec 2) (s : State) : Out :=
  let a := s.tsh ta
  let b := s.tsh tb
  s.issueMatrix l false (s.mkCmd (.tcvt l ta tb rm) 0 0 a b) fun s =>
    if rm = 2 ∧ shType a = 4 then .trap 1 0 0
    else if shType a = 0 ∨ shType b = 0 ∨ shRows a ≠ shRows b ∨ shCols a ≠ shCols b then .trap 0xF 0 0
    else .ok (if deadType (shType a) || deadType (shType b) then .invalid else if 9 ≤ shType a ∨ 9 ≤ shType b then .emulated else .hard) s

/-- The accumulator lies inside the C footprint (R21). -/
def State.accInFoot (s : State) (acc : BitVec 6) : Bool := s.me.inFoot 2 (acc.toNat * 4096) 4096

/-- The address an accumulator stands at on the C path (R22). -/
def accAddr (acc : BitVec 6) : Word := 0xA000_0000_0000_0000#64 + BitVec.ofNat 64 (acc.toNat * 4096)

/-- The checks of a command on an accumulator: format word, operand types, accumulator, and its race checks. -/
def State.mmaCheck (s : State) (w : Word32) (scaled : Bool) (a b : Word) (acc : BitVec 6) (rest : State → Res Unit) : Res WordClass :=
  if mmaWord w scaled = .invalid then .ok .invalid s
  else if wA w ≠ shType a ∨ wB w ≠ shType b then .trap 0xF 0 0
  else if !s.accInFoot acc then .trap 8 0 (accAddr acc)
  else (rest s).bind fun _ t => (t.raceCheck 2 (acc.toNat * 4096) 4096 true (accAddr acc)).bind fun _ u => .ok (mmaWord w scaled) u

/-- `TMMA` (R165). -/
def execTmma (l : Long) (acc : BitVec 6) (ta tb : TReg) (s : State) : Out :=
  let a := s.tsh ta
  let b := s.tsh tb
  s.issueMatrix l true (s.mkCmd (.tmma l acc ta tb) s.nextFmt 0 a b) fun s =>
    s.mmaCheck s.nextFmt false a b acc fun t => .ok () t

/-- The scale columns of `TMMAS` (R166). The address of their fault is gA, a column number, as the instruction gives it (DESIGN CHOICE,
notes/assumptions/104.md). -/
def State.scaleCheck (s : State) (w : Word32) (c0 : Word) : Res Unit :=
  let nb := 64 / sizeOfR18 (wA w) / 32
  if bits c0 9 55 ≠ 0 ∨ 511 < c0.toNat + 2 * nb - 1 ∨ !s.me.inFoot 3 (32 * c0.toNat) (64 * nb) then .trap 8 0 c0
  else s.raceCheck 3 (32 * c0.toNat) (64 * nb) false c0

/-- `TMMAS` (R166). -/
def execTmmas (l : Long) (acc : BitVec 6) (ta tb : TReg) (g : Reg) (s : State) : Out :=
  let a := s.tsh ta
  let b := s.tsh tb
  s.issueMatrix l true (s.mkCmd (.tmmas l acc ta tb g) s.nextFmt (s.g g) a b) fun s =>
    s.mmaCheck s.nextFmt true a b acc fun t => t.scaleCheck t.nextFmt (t.g g)

/-- The checks of a drain on its accumulator and its destination; the accumulator's footprint comes first (DESIGN CHOICE,
notes/assumptions/105.md). -/
def State.drainCheck (s : State) (w : Word32) (kind : MoveKind) (acc : BitVec 6) (a : Word) (align n : Nat) : Res WordClass :=
  if !s.accInFoot acc then .trap 8 0 (accAddr acc)
  else
    (s.moveCheck kind a align 64 (lineAddrs a n)).bind fun _ t =>
      (t.raceCheck 2 (acc.toNat * 4096) 4096 false (accAddr acc)).bind fun _ u => .ok (drainWord w) u

/-- `TDRAIN` (R168). -/
def execTdrain (l : Long) (g : Reg) (acc : BitVec 6) (s : State) : Out :=
  s.issueMatrix l true (s.mkCmd (.tdrain l g acc) s.nextFmt (s.g g) 0 0) fun s =>
    let w := s.nextFmt
    if drainWord w = .invalid then .ok .invalid s
    else s.drainCheck w .drain acc (s.g g) 64 (16 * sizeOfR18 (wD w))

/-- `TDRAINADD` (R169). -/
def execTdrainadd (l : Long) (g : Reg) (acc : BitVec 6) (k : BitVec 1) (s : State) : Out :=
  s.issueMatrix l true (s.mkCmd (.tdrainadd l g acc k) s.nextFmt (s.g g) 0 0) fun s =>
    let w := s.nextFmt
    if drainWord w = .invalid then .ok .invalid s
    else if wAcc w ≠ 0 ∨ wD w ≠ 7 then .trap 0xE 0 0
    else s.drainCheck w .add acc (s.g g) 128 64

/-- `HMRD` (R172). -/
def execHmrd (l : Long) (g : Reg) (acc : BitVec 6) (s : State) : Out :=
  s.issueMatrix l false (s.mkCmd (.hmrd l g acc) 0 0 0 0) fun s => .ok .hard s

/-- `HMCLR` (R173). -/
def execHmclr (l : Long) (acc : BitVec 6) (s : State) : Out :=
  s.issueMatrix l false (s.mkCmd (.hmclr l acc) 0 0 0 0) fun s => .ok .hard s

end Sys2Proof.Machine
end

