-- ==== Sys2Proof/Machine/Locket.lean ====
section
/-! DEFINITION. Steps of the matrix engines after a command has started: comparison, assay, locket, finish, group stop
(06 R159, R171, R177, 14 R322 to R329). -/

namespace Sys2Proof.Machine

/-- A step of a core's engines: the executing cluster is set, and nothing happens while the island holds its engines. -/
def State.engine (s : State) (k : Fin 768) (x : Clu) (f : State → Option State) : Out :=
  let t := { s with cur := { core := k, clu := x }, latch := none }
  match (if s.running k then f t else none) with
  | some u => .next { u with report := .issued }
  | none => .next { s with report := .idle }

/-- The first run that meets a condition, with those before and after it. -/
def splitRun (f : MRun → Bool) : List MRun → Option (List MRun × MRun × List MRun)
  | [] => none
  | r :: rest => if f r then some ([], r, rest) else (splitRun f rest).map fun p => (r :: p.1, p.2.1, p.2.2)

/-- The runs of the executing core replaced. -/
def State.setRuns (s : State) (l : List MRun) : State := s.onEn fun e => { e with mrun := l }

/-- AFLAGS bits set. -/
def Core.orFlags (k : Core) (f : BitVec 8) : Core := { k with rg := { k.rg with aflags := k.rg.aflags ||| zext f } }

/-! Comparison and assay (R322, R325, R326). -/

/-- A certified command: flags set, undo slot and tiles free; it is to finish. -/
def MRun.certify (r : MRun) : MRun := { r with phase := .done, flags := 0 }

/-- A mismatch of a run takes its place among those the assay is to judge, in the order of the mismatches (R325). -/
def Core.askAssay (k : Core) (r : MRun) : Core := { k with en := { k.en with assays := k.en.assays ++ [r.cmd.order] } }

/-- The comparison of the command on an accumulator (R322); a mismatch takes its place among the assays (R325). -/
def State.compareHall (s : State) (acc : BitVec 6) : Option State :=
  match splitRun (fun r => r.phase == .uncompared && r.cmd.acc == acc) s.me.en.mrun with
  | none => none
  | some (pre, r, post) =>
    let s := s.onSt fun t => t.setHall acc r.foldP r.foldS
    if r.foldP = r.foldS then some ((s.setRuns (pre ++ r.certify :: post)).onMe fun k => k.orFlags r.flags)
    else some ((s.setRuns (pre ++ { r with phase := .mismatch } :: post)).onMe fun k => (k.askAssay r).count 8 .m 1)

/-- The assay takes the mismatch that came first, one at a time (R325). -/
def State.startAssay (s : State) : Option State :=
  match s.me.en.assays with
  | [] => none
  | n :: rest =>
    if s.me.en.mrun.any fun r => r.phase == .assay then none
    else (splitRun (fun r => r.phase == .mismatch && decide (r.cmd.order = n)) s.me.en.mrun).map fun p =>
      (s.setRuns (p.1 ++ { p.2.1 with phase := .assay } :: p.2.2)).onEn fun e => { e with assays := rest }

/-- DPSTAT of a verdict: 1 shadow wrong, 2 primary wrong, 3 operand corruption (R334). -/
def State.verdict (s : State) (verd kind : Nat) (acc : BitVec 6) : State :=
  s.onRg fun r => { r with dpstat := BitVec.ofNat 64 (2 ^ 63 + verd * 2 ^ 60 + kind * 2 ^ 58 + acc.toNat * 2 ^ 48 + s.cadence.toNat % 2 ^ 48) }

/-- An operand-corruption verdict (R327): held drains are discarded, the task is terminated, the core is fenced. -/
def State.corrupt (s : State) (kind : Nat) (acc : BitVec 6) : State :=
  let s := (s.verdict 3 kind acc).onEn fun e => { e with mrun := e.mrun.filter fun r => !r.isHeld }
  (s.machineCheck s.cur.core .m 0x20 (zext acc)).fenceCore s.cur.core

/-- The three verdicts of an assay (R326): its fold against those of the two engines. -/
inductive Verdict where
  | shadowWrong | primaryWrong | corruption
  deriving DecidableEq, Repr

/-- The verdict on an assay's fold. -/
def verdictOf (foldA foldP foldS : Word) : Verdict :=
  if foldA = foldP then .shadowWrong else if foldA = foldS then .primaryWrong else .corruption

/-- A verdict recorded and counted for its engine (R330, R334); operand corruption ends the task (R327). -/
def State.judge (s : State) (v : Verdict) (kind : Nat) (acc : BitVec 6) : State :=
  match v with
  | .shadowWrong => (s.verdict 1 kind acc).shadowEvent s.cur.core
  | .primaryWrong => (s.verdict 2 kind acc).primaryEvent s.cur.core
  | .corruption => s.corrupt kind acc

/-- The held drains of an accumulator that took their words from a wrong result take the corrected words (R171). -/
def correctDrains (acc : BitVec 6) (ws : List Word32) (l : List MRun) : List MRun :=
  l.map fun r => if r.isHeld && r.cmd.acc == acc then { r with words := ws } else r

/-- The verdict on a command whose assay comes to words `ws`, with those before and after it (R326). -/
def State.commandVerdict (s : State) (pre : List MRun) (r : MRun) (post : List MRun) (ws : List Word32) : State :=
  let acc := r.cmd.acc
  let v := verdictOf (foldWords ws) r.foldP r.foldS
  let t := match v with
    | .shadowWrong => (s.setRuns (pre ++ r.certify :: post)).onMe fun k => k.orFlags r.flags
    | .primaryWrong =>
      ((s.setRuns (pre ++ r.certify :: correctDrains acc ws post)).onMe fun k => k.orFlags r.flags).onSt fun t => t.putAcc acc ws
    | .corruption => (s.setRuns (pre ++ post)).onSt fun t => t.putAcc acc r.words
  t.judge v 0 acc

/-! The locket (R171, R323). -/

/-- A held drain that may be released: no command on its accumulator issued before it awaits comparison, and to UC memory no drain is held
that was issued before it (R171, 05 R145). -/
def releasable (l : List MRun) (r : MRun) : Bool :=
  r.phase == .held && !(l.any fun q => decide (q.cmd.order < r.cmd.order) &&
    (q.openAcc == some r.cmd.acc || (q.isHeld && q.cmd.uncached && r.cmd.uncached)))

/-- A line of a `TDRAINADD` row read where it is added to: a buffer line, or a line at its home slice as an atomic finds it (R169, 11
R280); none where the content is lost. -/
def State.ownLine (s : State) (p : Spot) : Option (Nat × State) :=
  match p.place with
  | none => s.getLineBytes p 64
  | some q =>
    let t := s.revived (s.fresh q)
    if s.frameLost q ∨ (!(s.fresh q).dead ∧ s.ms.lostHome (dieOf s.cur.core) (t.fresh q)) then none
    else
      let ms := t.ms.toHome (dieOf s.cur.core) q
      some ((ms.homeLine q.line q.key).toNat, { t with ms := ms }.countHome q false 0)

/-- A line of a `TDRAINADD` row written where it was read. -/
def State.putOwnLine (s : State) (p : Spot) (bs : List Byte) : State :=
  match p.place with
  | none => s.putLineBytes p 64 (leNat bs)
  | some q =>
    if s.latticeFrame q then s
    else
    { s.onMe (fun k => k.l1Update q.line 0xFFFF_FFFF_FFFF_FFFF (bytesLine bs)) with
      ms := s.ms.homeWrite q.line q.key 0xFFFF_FFFF_FFFF_FFFF (bytesLine bs) }

/-- The rows of a `TDRAINADD` written one by one, each as one indivisible read and write (R169). -/
def State.addRows (s : State) (r : MRun) (k : Bool) (ws : List Word32) (n : Nat) (fl : BitVec 8) : List Spot → Option (State × BitVec 8)
  | a :: b :: rest => do
    let (x, t) ← s.ownLine a
    let (y, u) ← t.ownLine b
    let old := (bytesWords (leBytes x 64 ++ leBytes y 64)).map BitVec.toNat
    let row := drainAddRow r.cmd.fmt k r.key r.ctr old ((ws.take 32).map BitVec.toNat) n
    ((u.putOwnLine a (row.1.take 64)).putOwnLine b (row.1.drop 64)).addRows r k (ws.drop 32) (n + 32) (fl ||| row.2) rest
  | _ => some (s, fl)

/-- The words a held drain writes, and its flags; `TDRAINADD` takes the accumulator's words themselves. -/
def MRun.drained (r : MRun) : List Word32 × BitVec 8 :=
  let d := drainBytes r.cmd.fmt r.key r.ctr r.words
  (bytesWords d.1, d.2)

/-- The drain written at its destination with given words, and finished. -/
def State.writeDrain (s : State) (r : MRun) (ws : List Word32) (flags : BitVec 8) : State :=
  match r.cmd.i with
  | .tdrainadd _ _ _ k =>
    (match s.addRows r (k == 1) ws 0 flags r.cmd.spots with
    | some (t, f) => t.onMe fun k => (k.orFlags f).addRun r.cmd.done
    | none => (s.machineCheck s.cur.core .m 0x21 0).onMe fun k => k.addRun r.cmd.done)
  | _ => (s.storeBytes (wordsBytes ws) r.cmd.spots).onMe fun k => (k.orFlags flags).addRun r.cmd.done

/-- The lines of a drain are ready to be written. -/
def State.drainReady (s : State) (r : MRun) : Bool := r.cmd.spots.all s.lineReady

/-- The oldest drain of an accumulator that may be released: both converters convert it; equal results are written, and a mismatch goes to the assay
(R171, R323). DESIGN CHOICE (notes/assumptions/101.md): no rule orders the releases of different accumulators. -/
def State.releaseDrain (s : State) (acc : BitVec 6) (upsetP upsetS : Upset) : Option State :=
  match splitRun (fun r => releasable s.me.en.mrun r && r.cmd.acc == acc) s.me.en.mrun with
  | none => none
  | some (pre, r, post) =>
    let p := upsetWords r.drained.1 upsetP
    let q := upsetWords r.drained.1 upsetS
    if foldWords p = foldWords q then (if s.drainReady r then some ((s.setRuns (pre ++ post)).writeDrain r p r.drained.2) else none)
    else
      some ((s.setRuns (pre ++ { r with phase := .mismatch, foldP := foldWords p, foldS := foldWords q } :: post)).onMe fun k => k.askAssay r)

/-- The verdict on a drain whose assay comes to words `ws`: the correct bytes are written, or nothing (R323). -/
def State.drainVerdict (s : State) (pre : List MRun) (r : MRun) (post : List MRun) (ws : List Word32) : Option State :=
  let v := verdictOf (foldWords ws) r.foldP r.foldS
  let t := s.setRuns (pre ++ post)
  match v with
  | .corruption => some (t.judge v 2 r.cmd.acc)
  | _ => if s.drainReady r then some ((t.writeDrain r ws r.drained.2).judge v 2 r.cmd.acc) else none

/-- The verdict of the assay that runs, on words that carry upsets of their own (R326). -/
def State.assayVerdict (s : State) (upset : Upset) : Option State :=
  match splitRun (fun r => r.phase == .assay) s.me.en.mrun with
  | none => none
  | some (pre, r, post) =>
    if r.cmd.isDrain then s.drainVerdict pre r post (upsetWords r.drained.1 upset)
    else
      let res := s.me.st.mmaResult r.cmd r.scales r.words r.cmd.groups (groupCount r.cmd.fmt - r.cmd.groups)
      some (s.commandVerdict pre r post (upsetWords res.1 upset))

/-! Finish (R159) and group stop (R177, R328). -/

/-- The oldest command whose effects are complete posts its tokens, which release what the command has done, and is gone (R159, 12
R297). -/
def State.finishCmd (s : State) : Option State :=
  (splitRun (fun r => r.phase == .done) s.me.en.mrun).map fun p =>
    let post := (longOf p.2.1.cmd.w1.toNat).post
    (s.setRuns (p.1 ++ p.2.2)).onMe fun k =>
      (k.postOwn [k.cmdAgent p.2.1.cmd.order] .m post).orFlags p.2.1.flags

/-- A command on an accumulator stops after n groups in all, as though it ended there (R177, R328): the partial result is folded and
compared, a mismatch is assayed over the completed groups, and what is certified is the base the command goes on from. -/
def State.stopGroups (s : State) (pre : List MRun) (r : MRun) (post : List MRun) (n : Nat) (upsetP upsetS upsetA : Upset) : State :=
  let res := s.me.st.mmaResult r.cmd r.scales r.words r.cmd.groups (n - r.cmd.groups)
  let p := upsetWords res.1 upsetP
  let q := upsetWords res.1 upsetS
  let a := upsetWords res.1 upsetA
  let stopped (ws : List Word32) : State :=
    let stop : MRun := { r with cmd := { r.cmd with groups := n }, words := ws, flags := 0, part := some n }
    s.onMe fun k =>
      let k := k.orFlags res.2
      { (if foldWords p = foldWords q then k else k.count 8 .m 1) with
               st := (k.st.putAcc r.cmd.acc ws).setHall r.cmd.acc (foldWords p) (foldWords q)
               en := { k.en with mrun := pre ++ post, mstop := some stop } }
  if foldWords p = foldWords q then stopped p
  else
    let v := verdictOf (foldWords a) (foldWords p) (foldWords q)
    match v with
    | .shadowWrong => (stopped p).judge v 1 r.cmd.acc
    | .primaryWrong => (stopped a).judge v 1 r.cmd.acc
    | .corruption => ((s.setRuns (pre ++ post)).onSt fun t => t.putAcc r.cmd.acc r.words).judge v 1 r.cmd.acc

/-- Under the group-stop mode a save stops the command that both engines compute at the boundary after n groups; every other command
finishes first. -/
def State.groupStop (s : State) (n : Nat) (upsetP upsetS upsetA : Upset) : State :=
  match s.me.task with
  | none => s
  | some t =>
    match splitRun (fun r => r.phase == .uncompared) s.me.en.mrun with
    | some (pre, r, post) =>
      if bit t.flags 3 && decide (r.cmd.groups < n) && decide (n < groupCount r.cmd.fmt) &&
          !(post.any fun q => q.phase == .uncompared || (q.isHeld && q.cmd.acc == r.cmd.acc)) then
        s.stopGroups pre r post n upsetP upsetS upsetA
      else s
    | none => s

/-- A command stopped at a group boundary goes on from the next group after a restore; upsets fall on its two engines. -/
def Core.resumeGroups (k : Core) (upsetP upsetS : Upset) : Core :=
  match k.en.mstop with
  | none => k
  | some r => ({ k with en := { k.en with mstop := none } }).startMma r.cmd r.scales upsetP upsetS

/-! The event rows. -/

/-- `MATRIX_COMMAND_START` (R156). An issued command may still start while a save waits for those that have (19 R413;
notes/assumptions/106.md). -/
def execMatrixCommandStart (core : Fin 768) (upsetP upsetS : Upset) (s : State) : Out :=
  s.engine core .m fun t =>
    if t.me.term.isSome || t.me.restoring then none else t.startHead upsetP upsetS

/-- `MATRIX_COMMAND_FINISH` (R159). -/
def execMatrixCommandFinish (core : Fin 768) (s : State) : Out := s.engine core .m State.finishCmd

/-- `HALLMARK_COMPARE` (R322). -/
def execHallmarkCompare (core : Fin 768) (acc : BitVec 6) (s : State) : Out := s.engine core .m fun t => t.compareHall acc

/-- `ASSAY_START` (R325). -/
def execAssayStart (core : Fin 768) (s : State) : Out := s.engine core .m State.startAssay

/-- `ASSAY_VERDICT` (R326). -/
def execAssayVerdict (core : Fin 768) (upset : Upset) (s : State) : Out := s.engine core .m fun t => t.assayVerdict upset

/-- `LOCKET_RELEASE` (R171, R323). -/
def execLocketRelease (core : Fin 768) (acc : BitVec 6) (upsetP upsetS : Upset) (s : State) : Out :=
  s.engine core .m fun t => t.releaseDrain acc upsetP upsetS

end Sys2Proof.Machine
end

