-- ==== Sys2Proof/Machine/Image.lean ====
section
/-! DEFINITION. The save-area image of a core (15 R354): what each 8-byte word of it holds, and what writing it does. A save
writes it, a restore reads it back, and the privileged window reaches the live core through it (R342). The order of the fields of
a record that R354 does not lay out, and what stays in the device's own record of a saved task, are notes/assumptions/18.md. -/

namespace Sys2Proof.Machine

/-! Counts (01 R38). -/

/-- TQCNT: four bits for each ordered pair of clusters. -/
def Storage.tqcnt (t : Storage) : Nat :=
  (List.range 12).foldl (fun n i => n + vget t.tok (tokIdx (cluOf (i / 3)) (peerOf (cluOf (i / 3)) (i % 3))) % 16 * 16 ^ i) 0

/-- Token counts set from a TQCNT value. -/
def Storage.setTqcnt (t : Storage) (x : Nat) : Storage :=
  (List.range 12).foldl (fun t i =>
    { t with tok := vset t.tok (tokIdx (cluOf (i / 3)) (peerOf (cluOf (i / 3)) (i % 3))) (x / 16 ^ i % 16) }) t

/-- DQCNT: six bits for each data queue. -/
def Storage.dqcnt (t : Storage) : Nat :=
  t.qav.length + t.qam.length * 2 ^ 6 + t.qva.length * 2 ^ 12 + t.qac.length * 2 ^ 18 + t.qca.length * 2 ^ 24

/-- A queue of n entries: the first n of it, filled up with zeros. -/
def resize {α : Type} (zero : α) (l : List α) (n : Nat) : List α := (l ++ List.replicate n zero).take n

/-- Queue lengths set from a DQCNT value, each at most 32. -/
def Storage.setDqcnt (t : Storage) (x : Nat) : Storage :=
  let n (i : Nat) : Nat := min 32 (x / 64 ^ i % 64)
  { t with qav := resize 0 t.qav (n 0), qam := resize 0 t.qam (n 1), qva := resize 0 t.qva (n 2), qac := resize 0 t.qac (n 3),
           qca := resize 0 t.qca (n 4) }

/-! Pieces of lists and words. -/

/-- Eight bytes of a line from byte o. -/
def lineWord64 (l : Line) (o : Nat) : Nat := linePart l o 8

/-- A line with eight bytes from byte o replaced. -/
def setLineWord (l : Line) (o x : Nat) : Line := mergeLine l (placeInLine x o) (rangeMask o 8)

/-- Bytes of a list from an offset, as a number; absent bytes count as zero. -/
def bytesAt (bs : List Byte) (o n : Nat) : Nat := leNat ((bs.drop o).take n)

/-- A list of n bytes with eight of them replaced. -/
def setBytes8 (bs : List Byte) (n o x : Nat) : List Byte :=
  let b := resize 0 bs n
  b.take o ++ leBytes x 8 ++ b.drop (o + 8)

/-- An entry of a list, a default where there is none. -/
def entryAt {α : Type} (l : List α) (i : Nat) (d : α) : α := l.getD i d

/-! Records of issued commands (R352, R354). -/

/-- The two words of a long form, the first lowest. -/
def wordsImg (w0 w1 : Word32) : Nat := w0.toNat + w1.toNat * 2 ^ 32

/-- The instruction that two words of a cluster's record decode to; the recorded one where they decode to none. -/
def redecode (x : Clu) (n : Nat) (i : Instr) : Instr :=
  match decodeChecked x (n % 2 ^ 32, n / 2 ^ 32 % 2 ^ 32) with
  | .ok j => j
  | .error _ => i

/-- A word of an issued-form record: its words, its address, its mask; valid, and the 8-byte words performed. -/
def Form.img (f : Form) (o : Nat) : Nat :=
  if o = 0 then wordsImg f.w0 f.w1 else if o = 8 then f.addr.toNat else if o = 16 then f.mask.toNat else 2 ^ 63 + f.parts.toNat

/-- A word of an issued-form record written. -/
def Form.imgPut (f : Form) (o x : Nat) : Form :=
  if o = 0 then { f with i := redecode f.clu x f.i, w0 := BitVec.ofNat 32 x, w1 := BitVec.ofNat 32 (x / 2 ^ 32) }
  else if o = 8 then { f with addr := BitVec.ofNat 64 x }
  else if o = 16 then { f with mask := BitVec.ofNat 64 x }
  else { f with parts := BitVec.ofNat 8 x }

/-- A word of the record of a queued matrix command: its words; valid, and its format word; its scalar operand; its shapes. -/
def MCmd.img (c : MCmd) (o : Nat) : Nat :=
  if o = 0 then wordsImg c.w0 c.w1
  else if o = 8 then 2 ^ 63 + c.fmt.toNat
  else if o = 16 then c.g.toNat
  else c.shA.toNat % 2 ^ 32 + c.shB.toNat % 2 ^ 32 * 2 ^ 32

/-- A word of the record of a queued matrix command written. -/
def MCmd.imgPut (c : MCmd) (o x : Nat) : MCmd :=
  if o = 0 then { c with i := redecode .m x c.i, w0 := BitVec.ofNat 32 x, w1 := BitVec.ofNat 32 (x / 2 ^ 32) }
  else if o = 8 then { c with fmt := BitVec.ofNat 32 x }
  else if o = 16 then { c with g := BitVec.ofNat 64 x }
  else { c with shA := BitVec.ofNat 64 (x % 2 ^ 32), shB := BitVec.ofNat 64 (x / 2 ^ 32 % 2 ^ 32) }

/-- Item i of a list changed. -/
def setAt {α : Type} (l : List α) (i : Nat) (f : α → α) : List α :=
  match l[i]? with
  | some a => l.set i (f a)
  | none => l

/-- Form i of a cluster. -/
def Core.formAt (k : Core) (x : Clu) (i : Nat) : Option Form := (k.en.forms.filter fun f => f.clu == x)[i]?

/-- The emitted kind of a sequencer run; none for another command. -/
def ChCmd.runKind (c : ChCmd) : Option Nat :=
  match c.i with
  | .seqrunCopy .. => some 0
  | .seqrunGather .. => some 1
  | .seqrunScatter .. => some 2
  | .seqrunCpyscl .. => some 3
  | _ => none

/-- A staged run (R216). -/
def ChCmd.staged (c : ChCmd) : Bool := c.runKind.isSome && decide (c.depth ≠ 0)

/-- The address of a byte of a typed buffer on the buffer's own path. -/
def bufAddr (b : Fin 4) (off : Nat) : Word := BitVec.ofNat 64 ((8 + b.val) * 2 ^ 60 + off % 2 ^ 60)

/-- WMn (R215, R216). -/
def Channel.watermark (c : Channel) : Word :=
  match c.cmds.find? fun d => d.range.isSome || d.staged with
  | some d =>
    (match d.range with
    | some (b, lo, _) => bufAddr b (lo + d.filled)
    | none => BitVec.ofNat 64 d.prog)
  | none => c.wm

/-! Cluster blocks. -/

/-- A word of a cluster block. -/
def Cluster.img (c : Cluster) (o : Nat) : Option Nat :=
  let at4 (v : Vector Word 4) (b : Nat) : Nat := (vget v (Fin.ofNat 4 ((o - b) / 8))).toNat
  if o = 0 then some c.pc.toNat
  else if o = 8 then some (c.syncs.toNat + c.ended.toNat * 2 ^ 32 + c.halted.toNat * 2 ^ 33)
  else if o = 0x10 then some (1 + (List.range 7).foldl (fun n i => n + (vget c.p (Fin.ofNat 8 (i + 1))).toNat * 2 ^ (i + 1)) 0)
  else if o = 0x18 then some c.clb.toNat
  else if o = 0x20 then some c.lgtmo.toNat
  else if o = 0x28 then some c.cltmo.toNat
  else if 0x40 ≤ o ∧ o < 0x60 then some (at4 c.lps 0x40)
  else if 0x60 ≤ o ∧ o < 0x80 then some (at4 c.lpe 0x60)
  else if 0x80 ≤ o ∧ o < 0xA0 then some (at4 c.lpc 0x80)
  else if o = 0x100 then some 0
  else if 0x100 < o ∧ o < 0x200 then some (vget c.g (Fin.ofNat 32 ((o - 0x100) / 8))).toNat
  else none

/-- A word of a cluster block written. -/
def Cluster.imgPut (c : Cluster) (o x : Nat) : Cluster :=
  let w : Word := BitVec.ofNat 64 x
  let set4 (v : Vector Word 4) (b : Nat) : Vector Word 4 := vset v (Fin.ofNat 4 ((o - b) / 8)) w
  if o = 0 then { c with pc := w, pcReg := decide (bits w 0 6 ≠ 0) }
  else if o = 8 then { c with syncs := BitVec.ofNat 32 x, ended := decide (x / 2 ^ 32 % 2 = 1), halted := decide (x / 2 ^ 33 % 2 = 1) }
  else if o = 0x10 then { c with p := Vector.ofFn fun i : Fin 8 => decide (x / 2 ^ i.val % 2 = 1) && decide (i ≠ 0) }
  else if o = 0x18 then { c with clb := w &&& 0x7_FFFF_FFFF }
  else if o = 0x20 then { c with lgtmo := w }
  else if o = 0x28 then { c with cltmo := w }
  else if 0x40 ≤ o ∧ o < 0x60 then { c with lps := set4 c.lps 0x40 }
  else if 0x60 ≤ o ∧ o < 0x80 then { c with lpe := set4 c.lpe 0x60 }
  else if 0x80 ≤ o ∧ o < 0xA0 then { c with lpc := set4 c.lpc 0x80 }
  else if 0x100 < o ∧ o < 0x200 then { c with g := vset c.g (Fin.ofNat 32 ((o - 0x100) / 8)) w }
  else c

/-! The stopped matrix command. -/

/-- A word of the stopped command's block. -/
def MRun.img (r : MRun) (o : Nat) : Option Nat :=
  if o = 0 then some (wordsImg r.cmd.w0 r.cmd.w1)
  else if o = 8 then some r.cmd.fmt.toNat
  else if o = 0x10 then some (2 ^ 63 + r.cmd.groups)
  else if 0x80 ≤ o ∧ o < 0x100 then some (bytesAt r.scales (o - 0x80) 8)
  else none

/-- A word of the same block for a command held for emulation, which has not started (R349). -/
def MCmd.heldImg (c : MCmd) (o : Nat) : Option Nat :=
  if o = 0 then some (wordsImg c.w0 c.w1) else if o = 8 then some c.fmt.toNat else if o = 0x10 then some 0 else none

/-- The tile locks, a bit for each tile (R28). -/
def Core.locks (k : Core) : Nat := (List.range 16).foldl (fun n i => n + (k.tileLocked (Fin.ofNat 16 i)).toNat * 2 ^ i) 0

/-- A word of the block of the stopped or held matrix command. -/
def Core.stopImg (k : Core) (o : Nat) : Option Nat :=
  if o = 0x18 then some k.locks
  else match k.en.mstop with
    | some r => r.img o
    | none => k.en.emul.bind fun c => c.heldImg o

/-- A word of the stopped command's block written, for a command held for emulation. -/
def MCmd.heldPut (c : MCmd) (o x : Nat) : MCmd := if o = 0 ∨ o = 8 then c.imgPut o x else c

/-- A word of the stopped command's block written. -/
def MRun.imgPut (r : MRun) (o x : Nat) : MRun :=
  if o = 0 ∨ o = 8 then { r with cmd := r.cmd.imgPut o x }
  else if o = 0x10 then { r with cmd := { r.cmd with groups := x % 16 } }
  else if 0x80 ≤ o ∧ o < 0x100 then { r with scales := setBytes8 r.scales 128 (o - 0x80) x }
  else r

/-- A word of the block of the stopped or held matrix command written; the tile locks are those written until the command goes on. -/
def Core.stopPut (k : Core) (o x : Nat) : Core :=
  if o = 0x18 then (if k.en.mstop.isSome || k.en.emul.isSome then { k with en := { k.en with lockPut := some (BitVec.ofNat 16 x) } } else k)
  else match k.en.mstop with
    | some r => { k with en := { k.en with mstop := some (r.imgPut o x) } }
    | none => { k with en := { k.en with emul := k.en.emul.map fun c => c.heldPut o x } }

/-! Core storage and engines. -/

/-- A word of a queue of lines at its base. -/
def linesImg (q : List Line) (o : Nat) : Option Nat := some (lineWord64 (entryAt q (o / 64) 0) (o % 64))

/-- A word of a queue of lines written; beyond the queue's length nothing changes. -/
def linesPut (q : List Line) (o x : Nat) : List Line :=
  match q[o / 64]? with
  | some l => q.set (o / 64) (setLineWord l (o % 64) x)
  | none => q

/-- A word of a sequencer level: E with D above it in level 0, B, C. -/
def levelImg (l : SeqLevel) (d : Nat) (o : Nat) : Option Nat :=
  if o = 0 then some (l.e.toNat + d * 2 ^ 32)
  else if o = 8 then some l.b.toNat
  else if o = 16 then some ((List.range 4).foldl (fun n i => n + (vget l.c (Fin.ofNat 4 i)).toNat * 2 ^ (16 * i)) 0)
  else none

/-- A word of a sequencer level written. -/
def levelPut (l : SeqLevel) (o x : Nat) : SeqLevel :=
  if o = 0 then { l with e := BitVec.ofNat 32 x }
  else if o = 8 then { l with b := BitVec.ofNat 64 x }
  else if o = 16 then { l with c := Vector.ofFn fun i : Fin 4 => BitVec.ofNat 16 (x / 2 ^ (16 * i.val)) }
  else l

/-- The fold of the payload a command has written so far, in the order written. -/
def ChCmd.fold (c : ChCmd) : Word := foldBytes foldStart (c.payload.flatMap (·.2))

/-- A word of the record of an issued channel command. -/
def ChCmd.img (c : ChCmd) (o : Nat) : Option Nat :=
  if o = 0 then some (wordsImg c.w0 c.w1)
  else if o = 8 then some c.ga.toNat
  else if o = 16 then some c.gb.toNat
  else if o = 24 then some c.gc.toNat
  else if o = 32 then some (c.started.toNat * 2 ^ 63 + c.prog % 2 ^ 48)
  else if o = 40 then some c.fold.toNat
  else if o = 48 then some (longOf c.w1.toNat).post.toNat
  else if 64 ≤ o ∧ o < 128 then some (bytesAt c.shape (o - 64) 8)
  else if 128 ≤ o ∧ o < 320 then
    levelImg (vget c.levels (Fin.ofNat 6 ((o - 128) / 32))) (if o < 160 then c.depth.toNat else 0) (o % 32)
  else none

/-- A word of the record of an issued channel command written. -/
def ChCmd.imgPut (c : ChCmd) (o x : Nat) : ChCmd :=
  let w : Word := BitVec.ofNat 64 x
  if o = 0 then { c with i := redecode .a x c.i, w0 := BitVec.ofNat 32 x, w1 := BitVec.ofNat 32 (x / 2 ^ 32) }
  else if o = 8 then { c with ga := w }
  else if o = 16 then { c with gb := w }
  else if o = 24 then { c with gc := w }
  else if o = 32 then { c with started := decide (x / 2 ^ 63 % 2 = 1), prog := x % 2 ^ 48 }
  else if 64 ≤ o ∧ o < 128 ∧ c.shape ≠ [] then { c with shape := setBytes8 c.shape 64 (o - 64) x }
  else if 128 ≤ o ∧ o < 320 then
    let i : Fin 6 := Fin.ofNat 6 ((o - 128) / 32)
    { c with levels := vset c.levels i (levelPut (vget c.levels i) (o % 32) x)
             depth := if o = 128 then BitVec.ofNat 8 (x / 2 ^ 32) else c.depth }
  else c

/-- A word of the record of slot s of a channel: its issued command, or its pending element with the run it came from. -/
def Channel.slotImg (c : Channel) (s : Fin 16) (o : Nat) : Option Nat :=
  match c.cmds.find? fun d => d.slot == s with
  | some d => d.img o
  | none =>
    match c.elems.find? fun e => e.1 == s with
    | some (_, some d) => (d.img o).map fun x => if o = 32 then x + 2 ^ 62 else x
    | some (_, none) => if o = 32 then some (2 ^ 62) else none
    | none => none

/-- A word of the record of slot s of a channel written. -/
def Channel.slotPut (c : Channel) (s : Fin 16) (o x : Nat) : Channel :=
  { c with cmds := c.cmds.map fun d => if d.slot = s then d.imgPut o x else d
           elems := c.elems.map fun e => if e.1 = s then (e.1, e.2.map fun d => d.imgPut o x) else e }

/-- A word of a channel's state: its watermark, its elements ready, its next slot. -/
def Channel.img (c : Channel) (o : Nat) : Option Nat :=
  if o = 0 then some c.watermark.toNat else if o = 8 then some c.elems.length else if o = 16 then some c.next.val else none

/-- The watermark of a command with a range set to an address: so much of its range is filled. -/
def ChCmd.fillTo (c : ChCmd) (x : Nat) : ChCmd :=
  match c.range with
  | some (_, lo, n) => { c with filled := min n (x % 2 ^ 60 - lo) }
  | none => c

/-- The watermark of a channel written, which is that of its oldest command with a range or staged run where it has one. -/
def Channel.putWatermark (c : Channel) (x : Nat) : Channel :=
  let live (d : ChCmd) : Bool := d.range.isSome || d.staged
  match c.cmds.findIdx? live with
  | some i => { c with wm := BitVec.ofNat 64 x, cmds := setAt c.cmds i fun d => d.fillTo x }
  | none => { c with wm := BitVec.ofNat 64 x }

/-- A word of a channel's state written; elements can only be taken away. -/
def Channel.imgPut (c : Channel) (o x : Nat) : Channel :=
  if o = 0 then c.putWatermark x
  else if o = 8 then { c with elems := c.elems.drop (c.elems.length - x % 32) }
  else { c with next := Fin.ofNat 16 x }

/-- Words of the typed buffers, of the storage and of the engines; o is a multiple of 8. -/
def Core.imgRest (k : Core) (o : Nat) : Option Nat :=
  let t := k.st
  let n (b w : Nat) : Nat := (o - b) / w
  if 0xA40 ≤ o ∧ o < 0xA80 then some (if o = 0xA40 then 2 ^ 64 - 1 else (vget t.m (Fin.ofNat 8 (n 0xA40 8))).toNat)
  else if 0xC00 ≤ o ∧ o < 0x1400 then some (lineWord64 (vget t.v (Fin.ofNat 32 (n 0xC00 64))) (o % 64))
  else if o = 0x1410 then some t.stampb.toNat
  else if o = 0x1418 then some t.stampc.toNat
  else if 0x1440 ≤ o ∧ o < 0x14C0 then some (vget t.tsh (Fin.ofNat 16 (n 0x1440 8))).toNat
  else if 0x1500 ≤ o ∧ o < 0x1600 then k.stopImg (o - 0x1500)
  else if 0x1600 ≤ o ∧ o < 0x1700 then (k.en.mq[n 0x1600 32]?).map fun c => c.img (o % 32)
  else if 0x2000 ≤ o ∧ o < 0xA000 then some ((vget t.tiles (Fin.ofNat 16 (n 0x2000 2048))).readLe ((o - 0x2000) % 2048) 8)
  else if o = 0xA000 then some k.rg.aflags.toNat
  else if o = 0xA008 then some k.rg.pwrlvl.toNat
  else if o = 0xA010 then some t.fq.length
  else if o = 0xA018 then some t.tqcnt
  else if o = 0xA020 then some t.dqcnt
  else if 0xA040 ≤ o ∧ o < 0xA080 then
    some ((entryAt t.fq (n 0xA040 4) 0).toNat + (entryAt t.fq (n 0xA040 4 + 1) 0).toNat * 2 ^ 32)
  else if 0xA080 ≤ o ∧ o < 0xA0C0 then some (vget k.rg.pmc (Fin.ofNat 8 (n 0xA080 8))).toNat
  else if 0xA0C0 ≤ o ∧ o < 0xA100 then some (vget k.en.chans (Fin.ofNat 8 (n 0xA0C0 8))).ahm.toNat
  else if 0xA100 ≤ o ∧ o < 0xA200 then
    let s := vget t.strands (Fin.ofNat 16 (n 0xA100 16))
    some (if o % 16 = 0 then s.claimed.toNat + s.filled.toNat * 2 ^ 32 else s.taken.toNat + s.freed.toNat * 2 ^ 32)
  else if 0xA200 ≤ o ∧ o < 0xA500 then
    let h := vget t.hall (Fin.ofNat 48 (n 0xA200 16))
    some (if o % 16 = 0 then h.1.toNat else h.2.toNat)
  else if 0xA500 ≤ o ∧ o < 0xA5C0 then
    levelImg (vget k.en.levels (Fin.ofNat 6 (n 0xA500 32))) (if n 0xA500 32 = 0 then k.en.depth.toNat else 0) ((o - 0xA500) % 32)
  else if 0xA5C0 ≤ o ∧ o < 0xA600 then some (vget k.en.chans (Fin.ofNat 8 (n 0xA5C0 8))).pgdst.toNat
  else if 0xA600 ≤ o ∧ o < 0xAA00 then
    let r := vget k.en.recs (Fin.ofNat 16 (n 0xA600 64))
    some (bytesAt (if r = [] then [] else r.take 63 ++ [1]) ((o - 0xA600) % 64) 8)
  else if 0xAA00 ≤ o ∧ o < 0xAB00 then some (entryAt t.qac (n 0xAA00 8) 0).toNat
  else if 0xAB00 ≤ o ∧ o < 0xAC00 then some (entryAt t.qca (n 0xAB00 8) 0).toNat
  else if 0xAC00 ≤ o ∧ o < 0xB400 then linesImg t.qav (o - 0xAC00)
  else if 0xB400 ≤ o ∧ o < 0xBC00 then linesImg t.qam (o - 0xB400)
  else if 0xBC00 ≤ o ∧ o < 0xC400 then linesImg t.qva (o - 0xBC00)
  else if 0xC400 ≤ o ∧ o < 0xC500 then (vget k.en.chans (Fin.ofNat 8 (n 0xC400 32))).img (o % 32)
  else if 0x10000 ≤ o ∧ o < 0x20000 then
    (vget k.en.chans (Fin.ofNat 8 (n 0x10000 0x2000))).slotImg (Fin.ofNat 16 (o % 0x2000 / 0x200)) (o % 0x200)
  else if 0x20000 ≤ o ∧ o < 0x80000 then some (t.bufW.readLe (o - 0x20000) 8)
  else if 0x80000 ≤ o ∧ o < 0xC0000 then some (t.bufA.readLe (o - 0x80000) 8)
  else if 0xC0000 ≤ o ∧ o < 0xF0000 then some (t.bufC.readLe (o - 0xC0000) 8)
  else if 0xF0000 ≤ o ∧ o < 0xF4000 then some (t.bufS.readLe (o - 0xF0000) 8)
  else none

/-- The cluster a part of the image belongs to: its block, or a private part of V or M. -/
def imgCluster (o : Nat) : Option Clu :=
  if 0x200 ≤ o ∧ o < 0xA00 then some (cluOf ((o - 0x200) / 0x200))
  else if o = 0xA00 ∨ o = 0xA08 ∨ (0xA40 ≤ o ∧ o < 0x1400) then some .v
  else if 0x1400 ≤ o ∧ o < 0x1500 then some .m
  else none

/-- A word of the image of a core at a multiple of 8 outside the header and the clasps; none where the spec gives no layout. -/
def Core.img (k : Core) (o : Nat) : Option Nat :=
  if 0x200 ≤ o ∧ o < 0xA00 then
    (let x := cluOf ((o - 0x200) / 0x200)
     let b := o % 0x200
     if 0xA0 ≤ b ∧ b < 0x100 then (k.formAt x ((b - 0xA0) / 32)).map fun f => f.img (b % 32) else (k.clu x).img b)
  else if o = 0xA00 then some (k.clu .v).srkey.toNat
  else if o = 0xA08 then some (k.clu .v).srctr.toNat
  else if o = 0x1400 then some (k.clu .m).srkey.toNat
  else if o = 0x1408 then some (k.clu .m).srctr.toNat
  else k.imgRest o

/-- A channel of a core changed. -/
def Core.onChan (k : Core) (c : Fin 8) (f : Channel → Channel) : Core :=
  { k with en := { k.en with chans := vset k.en.chans c (f (vget k.en.chans c)) } }

/-- The format queue with an aligned pair of its entries written. -/
def fqPut (q : List Word32) (i x : Nat) : List Word32 := (q.set i (BitVec.ofNat 32 x)).set (i + 1) (BitVec.ofNat 32 (x / 2 ^ 32))

/-- A word of the storage or the engines written. -/
def Core.imgPutRest (k : Core) (o x : Nat) : Core :=
  let t := k.st
  let w : Word := BitVec.ofNat 64 x
  let n (b w : Nat) : Nat := (o - b) / w
  let st (t : Storage) : Core := { k with st := t }
  if 0xA40 < o ∧ o < 0xA80 then st { t with m := vset t.m (Fin.ofNat 8 (n 0xA40 8)) w }
  else if 0xC00 ≤ o ∧ o < 0x1400 then
    let i : Fin 32 := Fin.ofNat 32 (n 0xC00 64)
    st { t with v := vset t.v i (setLineWord (vget t.v i) (o % 64) x) }
  else if o = 0x1410 then st { t with stampb := w }
  else if o = 0x1418 then st { t with stampc := w &&& 0xFFFF_FFFF_0000_0001 }
  else if 0x1440 ≤ o ∧ o < 0x14C0 then st { t with tsh := vset t.tsh (Fin.ofNat 16 (n 0x1440 8)) (w &&& 0xF_3FBF) }
  else if 0x1500 ≤ o ∧ o < 0x1600 then k.stopPut (o - 0x1500) x
  else if 0x1600 ≤ o ∧ o < 0x1700 then { k with en := { k.en with mq := setAt k.en.mq (n 0x1600 32) fun c => c.imgPut (o % 32) x } }
  else if 0x2000 ≤ o ∧ o < 0xA000 then
    let i : Fin 16 := Fin.ofNat 16 (n 0x2000 2048)
    st { t with tiles := vset t.tiles i ((vget t.tiles i).writeLe ((o - 0x2000) % 2048) 8 x) }
  else if o = 0xA000 then { k with rg := { k.rg with aflags := w &&& 15 } }
  else if o = 0xA008 then { k with rg := { k.rg with pwrlvl := BitVec.ofNat 8 x } }
  else if o = 0xA010 then st { t with fq := resize 0 t.fq (min 16 (x % 32)) }
  else if o = 0xA018 then st (t.setTqcnt x)
  else if o = 0xA020 then st (t.setDqcnt x)
  else if 0xA040 ≤ o ∧ o < 0xA080 then st { t with fq := fqPut t.fq (n 0xA040 4) x }
  else if 0xA080 ≤ o ∧ o < 0xA0C0 then { k with rg := { k.rg with pmc := vset k.rg.pmc (Fin.ofNat 8 (n 0xA080 8)) w } }
  else if 0xA0C0 ≤ o ∧ o < 0xA100 then k.onChan (Fin.ofNat 8 (n 0xA0C0 8)) fun c => { c with ahm := w }
  else if 0xA100 ≤ o ∧ o < 0xA200 then
    let i : Fin 16 := Fin.ofNat 16 (n 0xA100 16)
    let s := vget t.strands i
    let lo : BitVec 32 := BitVec.ofNat 32 x
    let hi : BitVec 32 := BitVec.ofNat 32 (x / 2 ^ 32)
    st { t with strands := vset t.strands i (if o % 16 = 0 then { s with claimed := lo, filled := hi } else { s with taken := lo, freed := hi }) }
  else if 0xA200 ≤ o ∧ o < 0xA500 then
    let i : Fin 48 := Fin.ofNat 48 (n 0xA200 16)
    let h := vget t.hall i
    st { t with hall := vset t.hall i (if o % 16 = 0 then (w, h.2) else (h.1, w)) }
  else if 0xA500 ≤ o ∧ o < 0xA5C0 then
    let i : Fin 6 := Fin.ofNat 6 (n 0xA500 32)
    { k with en := { k.en with levels := vset k.en.levels i (levelPut (vget k.en.levels i) ((o - 0xA500) % 32) x),
                               depth := if o = 0xA500 then BitVec.ofNat 8 (x / 2 ^ 32) else k.en.depth } }
  else if 0xA5C0 ≤ o ∧ o < 0xA600 then k.onChan (Fin.ofNat 8 (n 0xA5C0 8)) fun c => { c with pgdst := w &&& 0xFFC0 }
  else if 0xA600 ≤ o ∧ o < 0xAA00 then
    let i : Fin 16 := Fin.ofNat 16 (n 0xA600 64)
    let b := setBytes8 (vget k.en.recs i) 64 ((o - 0xA600) % 64) x
    let b := if o % 64 = 56 then (if x / 2 ^ 56 % 256 = 0 then [] else b.take 63 ++ [0]) else b
    { k with en := { k.en with recs := vset k.en.recs i b } }
  else if 0xAA00 ≤ o ∧ o < 0xAB00 then st { t with qac := t.qac.set (n 0xAA00 8) w }
  else if 0xAB00 ≤ o ∧ o < 0xAC00 then st { t with qca := t.qca.set (n 0xAB00 8) w }
  else if 0xAC00 ≤ o ∧ o < 0xB400 then st { t with qav := linesPut t.qav (o - 0xAC00) x }
  else if 0xB400 ≤ o ∧ o < 0xBC00 then st { t with qam := linesPut t.qam (o - 0xB400) x }
  else if 0xBC00 ≤ o ∧ o < 0xC400 then st { t with qva := linesPut t.qva (o - 0xBC00) x }
  else if 0xC400 ≤ o ∧ o < 0xC500 then k.onChan (Fin.ofNat 8 (n 0xC400 32)) fun c => c.imgPut (o % 32) x
  else if 0x10000 ≤ o ∧ o < 0x20000 then
    k.onChan (Fin.ofNat 8 (n 0x10000 0x2000)) fun c => c.slotPut (Fin.ofNat 16 (o % 0x2000 / 0x200)) (o % 0x200) x
  else if 0x20000 ≤ o ∧ o < 0x80000 then st { t with bufW := t.bufW.writeLe (o - 0x20000) 8 x }
  else if 0x80000 ≤ o ∧ o < 0xC0000 then st { t with bufA := t.bufA.writeLe (o - 0x80000) 8 x }
  else if 0xC0000 ≤ o ∧ o < 0xF0000 then st { t with bufC := t.bufC.writeLe (o - 0xC0000) 8 x }
  else if 0xF0000 ≤ o ∧ o < 0xF4000 then st { t with bufS := t.bufS.writeLe (o - 0xF0000) 8 x }
  else k

/-- A word of the image written into a core. -/
def Core.imgPut (k : Core) (o x : Nat) : Core :=
  let w : Word := BitVec.ofNat 64 x
  if 0x200 ≤ o ∧ o < 0xA00 then
    (let x' := cluOf ((o - 0x200) / 0x200)
     let b := o % 0x200
     if 0xA0 ≤ b ∧ b < 0x100 then
       (match k.formAt x' ((b - 0xA0) / 32) with
       | some f => { k with en := { k.en with forms := k.en.forms.map fun g => if g.order = f.order then g.imgPut (b % 32) x else g } }
       | none => k)
     else k.onClu x' fun c => c.imgPut b x)
  else if o = 0xA00 then k.onClu .v fun c => { c with srkey := w }
  else if o = 0xA08 then k.onClu .v fun c => { c with srctr := w }
  else if o = 0x1400 then k.onClu .m fun c => { c with srkey := w }
  else if o = 0x1408 then k.onClu .m fun c => { c with srctr := w }
  else k.imgPutRest o x

/-! The header and the clasps. -/

/-- The slot of the core holds the clasps of its gang (R258, R354). -/
def Core.keepsClasps (c : Core) (k : Fin 768) : Bool :=
  decide (qposOf k = 0) && match c.task with
    | some t => bit t.flags 1
    | none => false

/-- A word of the header: what a save records of its occasion. -/
def State.imgHead (s : State) (k : Fin 768) (reason o : Nat) : Nat :=
  let c := s.core k
  let t : Option (Clu × Trap) := c.pend.head?
  let trap (f : Clu × Trap → Nat) : Nat := match t with
    | some p => f p
    | none => 0
  if o = 0 then 1
  else if o = 8 then (match c.task with
    | some t => t.lid.toNat * 2 ^ 48 + t.ordinal
    | none => 0)
  else if o = 0x10 then (match c.task with
    | some t => t.ctx.toNat
    | none => 0)
  else if o = 0x18 then s.cadence.toNat
  else if o = 0x20 then k.val + qposOf k * 2 ^ 16
  else if o = 0x28 then reason + t.isSome.toNat * 2 ^ 8
  else if o = 0x30 then trap fun p => (causeWord p.2).toNat
  else if o = 0x38 then trap fun p => p.2.addr.toNat
  else if o = 0x40 then trap fun p => p.2.info.toNat
  else if o = 0x48 then trap fun p => (cluCode p.1).val
  else if o = 0x50 then c.en.mstop.isSome.toNat + (c.keepsClasps k).toNat * 2
  else 0

/-- A word of the clasps of a core's quad. -/
def State.imgClasp (s : State) (k : Fin 768) (o : Nat) : Nat :=
  let c := vget (vget s.quads (quadOf k)).clasps (Fin.ofNat 256 ((o - 0xF4000) / 8))
  c.count.toNat + c.expect.toNat * 2 ^ 32

/-- A word of the clasps written. -/
def State.imgPutClasp (s : State) (k : Fin 768) (o x : Nat) : State :=
  let q := vget s.quads (quadOf k)
  let c : Clasp := { count := BitVec.ofNat 32 x, expect := BitVec.ofNat 32 (x / 2 ^ 32) }
  { s with quads := vset s.quads (quadOf k) { q with clasps := vset q.clasps (Fin.ofNat 256 ((o - 0xF4000) / 8)) c } }

/-- A word of a core's image at a multiple of 8. Under DET the overlap checker's record is words that only the device reads: free values,
for the record itself stays with the task (R354; notes/assumptions/18.md). -/
def State.imgWord (s : State) (k : Fin 768) (reason o : Nat) : Option Nat :=
  if o < 0x58 then some (s.imgHead k reason o)
  else if 0xF4000 ≤ o ∧ o < 0xF4800 then (if (s.core k).keepsClasps k then some (s.imgClasp k o) else none)
  else if 0xD000 ≤ o ∧ o < 0x10000 then
    (if (s.core k).det then some (Config.checkerWord k.val o s.cadence.toNat).toNat else none)
  else (s.core k).img o

/-! The window on the live core (R342). -/

/-- A cluster is stopped, for the window: by a trap, in its handler or halted at it; by a save; or held for emulation. -/
def Core.stoppedClu (k : Core) (x : Clu) : Bool :=
  let c := k.clu x
  c.inh || c.halted || k.save.isSome || (x == .m && k.en.emul.isSome)

/-- The matrix engine is stopped: it runs nothing, and an emulation request, a save or a trap of its cluster stops it. -/
def Core.stoppedMatrix (k : Core) : Bool :=
  k.en.mrun.isEmpty && (k.en.emul.isSome || k.save.isSome || (k.en.mq.isEmpty && ((k.clu .m).inh || (k.clu .m).halted)))

/-- The copy engine is stopped: by a save, its pieces arrived, or by a trap of its cluster, no channel running. -/
def Core.stoppedCopy (k : Core) : Bool :=
  let a := k.clu .a
  (k.save.isSome && !a.inh && k.en.chans.toList.all fun c => c.flight.isNone) ||
    ((a.inh || a.halted) && k.en.chans.toList.all fun c => c.faulted || c.cmds.all fun d => !d.started)

/-- The part of the image an access touches may be reached: the cluster or engine it belongs to is stopped. -/
def Core.imgOpen (k : Core) (o : Nat) : Bool :=
  match imgCluster o with
  | some x => k.stoppedClu x
  | none =>
    if 0x1500 ≤ o ∧ o < 0xA000 then k.stoppedMatrix
    else if (0xA0C0 ≤ o ∧ o < 0xA100) ∨ (0xA500 ≤ o ∧ o < 0xAA00) ∨ (0xC400 ≤ o ∧ o < 0x20000) then k.stoppedCopy
    else true

/-- The typed buffer and the byte of it that an offset of the image names. -/
def bufOfImg (o : Nat) : Option (Fin 4 × Nat) :=
  if 0x20000 ≤ o ∧ o < 0x80000 then some (0, o - 0x20000)
  else if 0x80000 ≤ o ∧ o < 0xC0000 then some (1, o - 0x80000)
  else if 0xC0000 ≤ o ∧ o < 0xF0000 then some (2, o - 0xC0000)
  else if 0xF0000 ≤ o ∧ o < 0xF4000 then some (3, o - 0xF0000)
  else none

/-- A load of size bytes from the core range would consume a poisoned word of a typed buffer (11 R270). -/
def State.windowPoisoned (s : State) (o size : Nat) : Bool :=
  match bufOfImg o with
  | some (b, off) => s.me.st.poisoned b off size
  | none => false

/-- A word of a typed buffer that a store covers whole is no longer poisoned. -/
def Core.cleanWord (k : Core) (o size : Nat) : Core :=
  match bufOfImg o with
  | some (b, off) => if size = 8 then { k with st := { k.st with bad := k.st.bad.filter fun e => !(e.1 == b.val && e.2 == off / 8) } } else k
  | none => k

/-- A load of size bytes from the core range; a word without a layout reads as a free value. -/
def State.windowLoad (s : State) (o size : Nat) : Option (Nat × State) :=
  if !s.me.imgOpen (o / 8 * 8) then none
  else
    let r : Nat × State := match s.imgWord s.cur.core 0 (o / 8 * 8) with
      | some x => (x, s)
      | none => (s.draw.1.toNat, s.draw.2)
    some (r.1 / 256 ^ (o % 8) % 256 ^ size, r.2)

/-- A store of size bytes into the core range; a word without a layout takes nothing. -/
def State.windowStore (s : State) (o size x : Nat) : Option State :=
  let w := o / 8 * 8
  if !s.me.imgOpen w then none
  else
    match s.imgWord s.cur.core 0 w with
    | none => some s
    | some old =>
      let m := 256 ^ (o % 8)
      let y := old - old / m % 256 ^ size * m + x % 256 ^ size * m
      some (if w < 0x58 then s else if 0xF4000 ≤ w ∧ w < 0xF4800 then s.imgPutClasp s.cur.core w y else s.onMe fun k => (k.imgPut w y).cleanWord w size)

end Sys2Proof.Machine
end

