-- ==== Sys2Proof/Machine/Launch.lean ====
section
/-! DEFINITION. Accepting a launch (10 R245 to R249, 09 R225, R238) and the region table (13 R308 to R312). -/

namespace Sys2Proof.Machine

/-- n bytes of a record from an offset. -/
def field (bs : List Byte) (o n : Nat) : Nat := leNat ((bs.drop o).take n)

/-- Every byte of a part is zero. -/
def zeroPart (bs : List Byte) (o n : Nat) : Bool := decide (field bs o n = 0)

/-! The loop table (R246). -/

/-- Levels of a loop table from level L on, n more to read: kind and extent; none where one breaks R246. -/
def readLevels (bs : List Byte) (nlev L : Nat) : Nat → Option (List (Nat × Nat))
  | 0 => some []
  | n + 1 =>
    let e := field bs (8 + 8 * L) 8
    if L < nlev then
      (if e / 2 ^ 34 ≠ 0 ∨ e / 2 ^ 32 % 4 = 0 then none
       else (readLevels bs nlev (L + 1) n).map fun r => (e / 2 ^ 32 % 4, e % 2 ^ 32) :: r)
    else if e ≠ 0 then none
    else readLevels bs nlev (L + 1) n

/-- A loop table: its levels, outermost first (R246); kinds 1 T, 2 C, 3 D. -/
def readTable (bs : List Byte) : Option (List (Nat × Nat)) :=
  let n := field bs 0 1
  if n = 0 ∨ 6 < n ∨ !zeroPart bs 1 7 ∨ !zeroPart bs 56 8 then none else readLevels bs n 0 6

/-- The product of the C and D extents. -/
def spatial (ls : List (Nat × Nat)) : Nat := ls.foldl (fun n e => if e.1 = 1 then n else n * e.2) 1

/-! The strand table (R225). -/

/-- A strand-table entry within the limits of R225, for footprints of the W and A buffers. -/
def strandOk (e : Word) (footW footA : Nat) : Bool :=
  let role := bits e 46 2
  if role = 0 then decide (e = 0)
  else
    decide (role ≠ 3) && decide (bits e 48 16 = 0) && decide (bits e 19 13 = 0) && decide (bits e 40 4 ≤ 10) &&
      decide (1 ≤ bits e 33 7) && decide (bits e 33 7 ≤ 64) && decide (bits e 0 19 % 64 = 0) &&
      (if role = 2 then decide (bits e 44 2 ≠ 0) && !bit e 32 else decide (bits e 44 2 = 0)) &&
      decide (bits e 0 19 + bits e 33 7 * 64 * 2 ^ bits e 40 4 ≤ if bit e 32 then footW else footA)

/-! Acceptance (R247). -/

/-- The context identifier of a queue (R248). -/
def State.queueCtx (s : State) (q : Nat) : BitVec 12 := BitVec.ofNat 12 (bits (s.dev (0x900 + 4 * q)) 32 12)

/-- Launches held by a queue: COUNT of R248. -/
def State.queueCount (s : State) (q : Fin 32) : Nat :=
  (s.sch.launches.filter fun l => l.queue == q && (match l.state with
    | .ending _ => false
    | _ => decide (l.next < l.count) || decide (l.count = 0))).length

/-- The valid slot of a context (R358). -/
def State.slotOf (s : State) (ctx : BitVec 12) : Option Nat :=
  (List.range 64).find? fun i => bit (s.dev (0xC00 + i)) 63 && decide (bits (s.dev (0xC00 + i)) 0 12 = ctx.toNat)

/-- An identifier that no queued or running launch and no launch of the history has (R249). -/
def State.lidFree (s : State) (n : Nat) : Bool :=
  let l := BitVec.ofNat 16 n
  decide (l ≠ 0) && !(s.sch.launches.any fun x => x.lid == l) && !(s.sch.history.any fun h => h.1 == l)

/-- The identifier given to a launch: any that is free (notes/assumptions/16.md). -/
def State.newLid (s : State) : BitVec 16 × State :=
  let d := s.draw
  let n := d.1.toNat % 2 ^ 16
  (BitVec.ofNat 16 (if s.lidFree n then n else ((List.range 65536).find? fun i => s.lidFree i).getD 1), d.2)

/-- A used predecessor: whether it is known to the context, and its outcome where it has one (R250). -/
def State.predOutcome (s : State) (ctx : BitVec 12) (p : BitVec 16) : Option (Option Nat) :=
  if s.sch.launches.any fun l => l.lid == p && l.ctx == ctx then some none
  else (s.sch.history.find? fun h => h.1 == p && h.2.1 == ctx).map fun h => some (bits h.2.2 56 8)

/-- An address is a multiple of 64 on one of three paths. -/
def pathOk (a : Word) (uc ro : Bool) : Bool :=
  decide (a.toNat % 64 = 0) && (decide (bits a 60 4 = 0) || (ro && decide (bits a 60 4 = 1)) || (uc && decide (bits a 60 4 = 3))) &&
    genForm a

/-- The record's fields that R247 checks 5 and 6 look at. -/
def recordOk (bs : List Byte) : Bool :=
  let np := field bs 91 1
  decide (field bs 88 2 < 32) && decide (field bs 90 1 < 32) && decide (np ≤ 4) && zeroPart bs 100 28 &&
    (List.range 4).all fun i => decide (field bs (92 + 2 * i) 2 ≠ 0) == decide (i < np)

/-- Check 6: the entries are code addresses. -/
def entriesOk (bs : List Byte) : Bool := (List.range 4).all fun i => codeAddrOk (BitVec.ofNat 64 (field bs (8 * i) 8))

/-- Check 8: the footprints. -/
def footOk (bs : List Byte) : Bool :=
  decide (field bs 72 4 % 4096 = 0) && decide (field bs 72 4 ≤ 393216) && decide (field bs 76 4 % 4096 = 0) &&
    decide (field bs 76 4 ≤ 262144) && decide (field bs 80 4 % 4096 = 0) && decide (field bs 80 4 ≤ 196608) &&
    decide (field bs 84 4 % 1024 = 0) && decide (field bs 84 4 ≤ 16384)

/-- Strand-table entry i. -/
def strandEntry (bs : List Byte) (i : Nat) : Word := BitVec.ofNat 64 (field bs (128 + 8 * i) 8)

/-- Check 10: the status area translates to writable pages. -/
def State.statusOk (s : State) (slot : Nat) (a : Word) : Bool :=
  decide (a = 0) || (pathOk a true false &&
    match s.reach slot a true with
    | .ok _ => true
    | .error _ => false)

/-- A launch of its record and its loop table's levels. -/
def launchOf (bs : List Byte) (levels : List (Nat × Nat)) (lid : BitVec 16) (ctx : BitVec 12) (preds : List (BitVec 16))
    (st : LaunchState) : Launch :=
  let w (o : Nat) : Word := BitVec.ofNat 64 (field bs o 8)
  { lid := lid, ctx := ctx, queue := Fin.ofNat 32 (field bs 90 1)
    entries := Vector.ofFn fun i : Fin 4 => w (8 * i.val)
    status := w 40, seed := w 48, lgtmo := w 56, cltmo := w 64
    footW := field bs 72 4, footA := field bs 76 4, footC := field bs 80 4, footS := field bs 84 4
    flags := BitVec.ofNat 5 (field bs 88 2), preds := preds
    strands := Vector.ofFn fun i : Fin 16 => strandEntry bs i.val
    levels := levels, state := st, next := 0, retired := 0, terminated := 0, orstat := 0, first := none, fcause := 0,
    dropped := 0, passed := 0 }

/-- The launch unit's answer to a record: gD of R238. `asker` is the launch of the task that asks, none for the host;
checks 2 to 12 of R247 in their order. -/
def State.accept (s : State) (die : Fin 8) (ctx : BitVec 12) (slot : Nat) (bs : List Byte) (asker : Option (Fin 32)) : Word × State :=
  let q := field bs 90 1 % 32
  let cfg := s.dev (0x900 + 4 * q)
  let refuse (c : Nat) : Word × State := (BitVec.ofNat 64 c, s)
  let class0 : Bool := match asker with
    | some r => decide (q < 8) && decide (8 ≤ r.val)
    | none => false
  let table := BitVec.ofNat 64 (field bs 32 8)
  let status := BitVec.ofNat 64 (field bs 40 8)
  if !bit cfg 7 ∨ s.queueCtx q ≠ ctx then refuse 2
  else if 64 ≤ s.queueCount (Fin.ofNat 32 q) then refuse 1
  else if class0 then refuse 5
  else if !recordOk bs ∨ !entriesOk bs ∨ !pathOk table true true then refuse 2
  else
    match s.readRange die slot table 64 with
    | .error _ => refuse 2
    | .ok tb =>
      match readTable tb with
      | none => refuse 2
      | some levels =>
        let preds := (List.range (field bs 91 1)).map fun i => BitVec.ofNat 16 (field bs (92 + 2 * i) 2)
        let outs := preds.map fun p => (p, s.predOutcome ctx p)
        if 2 ^ 48 < spatial levels then refuse 2
        else if !footOk bs then refuse 2
        else if !((List.range 16).all fun i => strandOk (strandEntry bs i) (field bs 72 4) (field bs 76 4)) then refuse 2
        else if !s.statusOk slot status then refuse 2
        else if outs.any fun o => o.2.isNone then refuse 4
        else
          let waits := (outs.filter fun o => o.2 == some none).map (·.1)
          let failed := outs.any fun o => match o.2 with
            | some (some c) => c != 1
            | _ => false
          let d := s.newLid
          let l := launchOf bs levels d.1 ctx waits (if failed then .ending 3 else .queued)
          if l.coRes ∧ s.capacity l.queue l.gang < l.need then refuse 3
          else
            (BitVec.ofNat 64 (2 ^ 63 + d.1.toNat), { d.2 with sch := { d.2.sch with launches := d.2.sch.launches ++ [l] } })

/-! Loading a region table (R308 to R312). -/

/-- The bottom of a type, as the bytes of one cell's storage (R309). -/
def bottomCell (type : Nat) : List Byte :=
  match type with
  | 2 => leBytes (2 ^ 64 - 1) 8
  | 3 => leBytes (2 ^ 63) 8
  | 4 => leBytes (2 ^ 63 - 1) 8
  | 6 => leBytes 0 64
  | 7 => leBytes fillerPair 8
  | 8 => (List.replicate 16 fillerPair).flatMap fun p => leBytes p 8
  | 9 => leBytes 0 4
  | 10 => leBytes (2 ^ 32 - 1) 4
  | _ => leBytes 0 8

/-- An entry of a table by its bytes: used entries with their INIT bit. -/
def entryOf (bs : List Byte) (r : Nat) : List Byte := (bs.drop (128 + 32 * r)).take 32

/-- The region an entry declares. -/
def regionOf (e : List Byte) : Region :=
  { base := BitVec.ofNat 64 (field e 0 8), size := field e 8 8, roff := field e 16 4, type := field e 20 1 % 16,
    sched := Fin.ofNat 8 (field e 21 1) }

/-- Storage bytes of a region (R308). -/
def Region.bytes (r : Region) : Nat := if r.type = 6 then 8 * r.size else r.size

/-- The used entries, by number. -/
def usedEntries (bs : List Byte) : List (Nat × List Byte) :=
  ((List.range 64).map fun r => (r, entryOf bs r)).filter fun e => !zeroPart e.2 0 32

/-- The first entry that fails a check. -/
def failing (es : List (Nat × List Byte)) (f : List Byte → Bool) : Option Nat := (es.find? fun e => f e.2).map (·.1)

/-- Two ranges overlap. -/
def overlap (a n b m : Nat) : Bool := decide (a < b + m) && decide (b < a + n)

/-- The first entry that meets a relation with an earlier one. -/
def clash (rel : Region → Region → Bool) : List (Nat × Region) → List Region → Option Nat
  | [], _ => none
  | (n, r) :: rest, seen => if seen.any fun o => rel o r then some n else clash rel rest (r :: seen)

/-- Checks 2, 7, 3, 4, 5, 6 and 8 of R311 in their order: detail and entry of the first that fails; 0xFF is the header. -/
def State.tableFault (s : State) (bs : List Byte) : Option (Nat × Nat) :=
  let es := usedEntries bs
  let rs := es.map fun e => (e.1, regionOf e.2)
  let lm := field bs 72 8
  let db (d : Nat) : Nat := field bs (8 * d) 8
  let reserved (e : List Byte) : Bool :=
    decide (16 ≤ field e 20 1) || decide (8 ≤ field e 21 1) || decide (2 ≤ field e 22 1) || !zeroPart e 23 9
  let badType (e : List Byte) : Bool := decide (field e 20 1 % 16 = 0) || decide (11 ≤ field e 20 1 % 16)
  let badRange (e : List Byte) : Bool :=
    let r := regionOf e
    let g := if r.type = 8 then 128 else 64
    decide (bits r.base 60 4 ≠ 2) || !genForm r.base || decide (r.base.toNat % g ≠ 0) || decide (r.size % g ≠ 0) ||
      decide (r.size = 0) || decide (2 ^ 40 < bits r.base 0 40 + r.size)
  let badStore (e : List Byte) : Bool :=
    let r := regionOf e
    decide (r.roff % 64 ≠ 0) || decide (lm * 65536 < r.roff + r.bytes)
  let first (detail : Nat) (o : Option Nat) : Option (Nat × Nat) := o.map fun n => (detail, n)
  let headBad := decide (1024 ≤ field bs 64 2) || !zeroPart bs 66 6 || !zeroPart bs 80 48
  let homeBad := decide (lm = 0) || decide (65536 < lm) || ((List.range 8).any fun d =>
      decide (db d % 8 ≠ d) || decide (hbmFrames ≤ db d + 8 * (lm - 1))) ||
    decide ((s.ms.keySlot (field bs 64 2)).state ≠ 1)
  (if headBad then some (2, 0xFF) else none)
    <|> first 2 (failing es reserved)
    <|> (if homeBad then some (7, 0xFF) else none)
    <|> first 3 (failing es badType)
    <|> first 4 (failing es badRange)
    <|> first 5 (clash (fun a b => overlap a.base.toNat a.size b.base.toNat b.size) rs [])
    <|> first 6 (failing es badStore)
    <|> first 6 (clash (fun a b => overlap a.roff a.bytes b.roff b.bytes) rs [])
    <|> first 8 (failing es fun e => !bit (s.dev (0xA08 + field e 21 1 % 8)) 63)

/-- The record of a load in LRTSTAT (R310). -/
def State.tableStat (s : State) (detail entry : Nat) : State :=
  { s with lat := { s.lat with statDetail := BitVec.ofNat 4 detail, statEntry := BitVec.ofNat 8 entry } }

/-- A context has a resident task, or a queued or running launch (R311 detail 9). -/
def State.ctxBusy (s : State) (ctx : BitVec 12) : Bool :=
  (s.cores.toList.any fun k => match k.task with
    | some t => t.ctx == ctx
    | none => false) || s.sch.launches.any fun l => l.ctx == ctx

/-- A line lies in a die's lattice memory of a table. -/
def RegionTable.holds (t : RegionTable) (d : Fin 8) (line : Nat) : Bool :=
  let f := line / 1024
  let b := vget t.dbase d
  decide (f % 8 = d.val) && decide (b ≤ f) && decide ((f - b) / 8 < t.lmsize)

/-- What the die caches and the directory hold of the frames that become lattice memory goes home and is dropped, with the lines that owners
have returned to open transactions: no cache holds a replica's line (11 R276). -/
def State.uncache (s : State) (t : RegionTable) : State :=
  let mine (line : Nat) : Bool := (List.finRange 8).any fun d => t.holds d line
  let m := ((s.ms.trans.filterMap DirTrans.back).filter fun d => mine d.line).foldl MemSys.returnLine s.ms
  let m := (s.ms.dieLines.filter fun d => mine d.line).foldl MemSys.replace m
  { s with ms := { m with
      dir := m.dir.filter fun e => !mine e.line
      trans := m.trans.filter fun x => !mine x.line
      reqs := m.reqs.filter fun x => !mine x.line } }

/-- A region's storage set to its bottom on every die (R312). -/
def State.initRegion (s : State) (t : RegionTable) (r : Region) : State :=
  let cell := bottomCell r.type
  let bs := (List.replicate (r.bytes / cell.length) cell).flatten
  { s with ms := (List.finRange 8).foldl (fun m d => latWrite t d m bs (piecesOf r.roff bs.length)) s.ms }

/-- An exchanged unit of a context under way when its table goes carries nothing any more. -/
def Msg.stale (ctx : BitVec 12) (m : Msg) : Msg :=
  match m with
  | .exchange c d o bs cl => if c = ctx then .exchange c d o [] [] else .exchange c d o bs cl
  | m => m

/-- The messages of a link's direction changed. -/
def LinkDir.mapMsg (f : Msg → Msg) (l : LinkDir) : LinkDir :=
  { l with waiting := l.waiting.map fun w => (f w.1, w.2), replay := l.replay.map fun x => { x with msg := f x.msg }
           wire := l.wire.map fun x => { x with msg := f x.msg } }

/-- The table of a context replaced or removed, with what was pending of its replicas: dirty units, and units on their way. -/
def State.putTable (s : State) (ctx : BitVec 12) (t : Option RegionTable) : State :=
  let others := s.lat.tables.filter fun x => x.ctx != ctx
  let f := Msg.stale ctx
  { s with
    plat := { s.plat with links := vmap (fun l => { l with dirs := vmap (LinkDir.mapMsg f) l.dirs }) s.plat.links }
    lat := { s.lat with
      arrived := s.lat.arrived.map f
      tables := (match t with
        | some t => t :: others
        | none => others)
      dirty := s.lat.dirty.filter fun e => e.1 != ctx.toNat
      clocks := s.lat.clocks.filter fun e => e.1.1 != ctx.toNat } }

/-- The units of a region that keeps its storage whose replicas differ: the exchange joins them (R312). -/
def State.markDiffering (s : State) (t : RegionTable) (r : Region) : State :=
  let z := unitSize r.type
  let differ (o : Nat) : Bool := (List.finRange 8).any fun d => s.latBytes t d o z != s.latBytes t 0 o z
  let units := ((List.range (r.bytes / z)).map fun i => r.roff + i * z).filter differ
  { s with lat := { s.lat with dirty := (units.flatMap fun o => (List.range 8).map fun d => (t.ctx.toNat, d, o)) ++ s.lat.dirty } }

/-- A write to LRTLOAD (R310 to R312): the state, and the cause, detail and address of the fault where it fails: the region-table
validation fault, or a memory error where the table's content is lost (11 R284), which leaves LRTSTAT. LRTSTAT.ENTRY is 0xFF with detail 9
and 0 after a load that succeeds (DESIGN CHOICE, notes/assumptions/114.md). -/
def State.loadTable (s : State) (die : Fin 8) (a : Word) : State × Option (Nat × Nat × Word) :=
  let ctx := BitVec.ofNat 12 (bits (s.dev 0xA01) 0 12)
  let fail (d e : Nat) : State × Option (Nat × Nat × Word) := (s.tableStat d e, some (0x1A, d, 0))
  if a = 0 then
    (if s.ctxBusy ctx then fail 9 0xFF else ((s.putTable ctx none).tableStat 0 0, none))
  else if !pathOk a true false then fail 1 0xFF
  else
    match s.slotOf ctx with
    | none => fail 1 0xFF
    | some slot =>
      match s.readRange die slot a 2176 with
      | .error (c, d, x) => if c = 0x21 then (s, some (c, d, x)) else fail 1 0xFF
      | .ok bs =>
        if s.ctxBusy ctx then fail 9 0xFF
        else
          match s.tableFault bs with
          | some (d, e) => fail d e
          | none =>
            let rs := (usedEntries bs).map fun e => (regionOf e.2, decide (field e.2 22 1 = 1))
            let t : RegionTable :=
              { ctx := ctx, dbase := Vector.ofFn fun d : Fin 8 => field bs (8 * d.val) 8, key := field bs 64 2,
                lmsize := field bs 72 8, regions := rs.map (·.1) }
            let u := rs.foldl (fun u r => if r.2 then u.initRegion t r.1 else u) (s.uncache t)
            let v := rs.foldl (fun v r => if r.2 then v else v.markDiffering t r.1) (u.putTable ctx (some t))
            (v.tableStat 0 0, none)

/-- A write to XSCHk (R315): ignored where its conditions fail; a change of an enabled schedule comes into force at its next
instant. -/
def State.writeSchedule (s : State) (k : Fin 8) (x : Word) : State :=
  let named := s.lat.tables.any fun t => t.regions.any fun r => r.sched == k
  if bit x 63 ∧ (bits x 0 32 < 256 ∨ bits x 58 2 = 3) then s
  else if !bit x 63 ∧ named then s
  else
    let y := x &&& 0x8FFF_FFFF_FFFF_FFFF
    let u := s.setDev (0xA08 + k.val) y
    if bit x 63 && bit (vget s.lat.inForce k) 63 then u else { u with lat := { u.lat with inForce := vset u.lat.inForce k y } }

end Sys2Proof.Machine
end

