-- ==== Sys2Proof/Machine/Links.lean ====
section
/-! DEFINITION. The die-to-die links: routes, flits and replay, widths, rates and their stops (16 R369 to R377). -/

namespace Sys2Proof.Machine

/-! Routes (R368, R369). -/

/-- The link between columns c and c + 1 of a row. -/
def rowLink (row c : Nat) : Fin 14 := Fin.ofNat 14 (3 * row + c)

/-- n steps along a row from column c, eastward or westward. -/
def rowSteps (row c : Nat) (east : Bool) : Nat → List (Fin 14 × Fin 2)
  | 0 => []
  | n + 1 => if east then (rowLink row c, 0) :: rowSteps row (c + 1) east n
             else (rowLink row (c - 1), 1) :: rowSteps row (c - 1) east n

/-- The links from one compute die to another: along the row, then across rows. -/
def dieRoute (a b : Fin 8) : List (Fin 14 × Fin 2) :=
  let r := a.val / 4; let c := a.val % 4; let d := b.val % 4
  rowSteps r c (decide (c ≤ d)) (if c ≤ d then d - c else c - d) ++
    (if r = b.val / 4 then [] else [(Fin.ofNat 14 (6 + d), if r = 0 then 0 else 1)])

/-- The die at the receiving end of a direction of a link, IOW 8 and IOE 9 (R368, R370). -/
def linkEnd (l : Fin 14) (d : Fin 2) : Nat :=
  let n := l.val
  if n < 6 then n / 3 * 4 + n % 3 + (1 - d.val)
  else if n < 10 then n - 6 + (if d = 0 then 4 else 0)
  else if d = 0 then 8 + (n - 10) / 2
  else if n = 10 then 0 else if n = 11 then 4 else if n = 12 then 3 else 7

/-! One direction of a link. -/

/-- A link changed. -/
def State.onLink (s : State) (l : Fin 14) (f : Link → Link) : State :=
  { s with plat := { s.plat with links := vset s.plat.links l (f (vget s.plat.links l)) } }

/-- A direction of a link changed. -/
def Link.onDir (l : Link) (d : Fin 2) (f : LinkDir → LinkDir) : Link := { l with dirs := vset l.dirs d (f (vget l.dirs d)) }

/-- Classes 1 to 3 in the order in which they are served after one of them (R375). -/
def classTurn (last : BitVec 2) : List (BitVec 2) := if last = 1 then [2, 3, 1] else if last = 2 then [3, 1, 2] else [1, 2, 3]

/-- The waiting message served next: the oldest of class 0, else of the next class that has one (R375). -/
def nextWaiting (last : BitVec 2) (w : List (Msg × BitVec 2 × List (Fin 14 × Fin 2))) : Option (Msg × BitVec 2 × List (Fin 14 × Fin 2)) :=
  (0 :: classTurn last).findSome? fun c => w.find? fun m => m.2.1 == c

/-- Up to n waiting messages sent as flits, while the replay buffer has room for 64. -/
def LinkDir.transmit (d : LinkDir) : Nat → LinkDir
  | 0 => d
  | n + 1 =>
    match nextWaiting d.turn d.waiting with
    | none => d
    | some m =>
      if 64 ≤ d.replay.length then d
      else
        let f : Flit := { seq := d.nextSeq, msg := m.1, cls := m.2.1, route := m.2.2 }
        LinkDir.transmit { d with waiting := d.waiting.erase m, nextSeq := d.nextSeq + 1, replay := d.replay ++ [f], wire := d.wire ++ [f]
                                  turn := if m.2.1 = 0 then d.turn else m.2.1 } n

/-- A link that is not stopped sends what waits. -/
def Link.flow (l : Link) (d : Fin 2) : Link := if l.stop then l else l.onDir d fun x => x.transmit x.waiting.length

/-- A message sent along a route; at its end it has arrived. -/
def State.sendMsg (s : State) (m : Msg) (cls : BitVec 2) : List (Fin 14 × Fin 2) → State
  | [] => { s with lat := { s.lat with arrived := s.lat.arrived ++ [m] } }
  | (l, d) :: rest => s.onLink l fun x => (x.onDir d fun y => { y with waiting := y.waiting ++ [(m, cls, rest)] }).flow d

/-- A saturating 32-bit count. -/
def satInc (n : Nat) : Nat := min (n + 1) 0xFFFF_FFFF

/-- The oldest flit on the wire reaches its receiver (R374): accepted in sequence, else discarded. -/
def State.receiveFlit (s : State) (l : Fin 14) (d : Fin 2) (crcOk : Bool) : State :=
  let x := vget s.plat.links l
  let y := vget x.dirs d
  match (if x.stop then [] else y.wire) with
  | [] => s
  | f :: rest =>
    if !crcOk then s.onLink l fun x => { (x.onDir d fun y => { y with wire := rest, bad := true }) with crcerr := satInc x.crcerr }
    else if f.seq ≠ y.expect then s.onLink l fun x => x.onDir d fun y => { y with wire := rest }
    else
      (s.onLink l fun x => x.onDir d fun y => { y with wire := rest, expect := y.expect + 1, bad := false, acks := y.acks + 1 }).sendMsg
        f.msg f.cls f.route

/-- The resend the receiver asked for: one replay, counted under LKWIN; a lasting one posts event 0x30 (R374, R376). -/
def State.replayFlits (s : State) (l : Fin 14) (d : Fin 2) : State :=
  let x := vget s.plat.links l
  let y := vget x.dirs d
  if x.stop || !y.bad then s
  else
    let e := x.hist.event s.cadence.toNat (s.dev (0xD00 + 8 * l.val + 5))
    let s := s.onLink l fun x =>
      { (x.onDir d fun y => { y with bad := false, wire := y.wire ++ y.replay.filter fun f => decide (y.expect ≤ f.seq) }) with
        replays := satInc x.replays, hist := e.1 }
    if e.2 then s.notice 0x30 0 l.val 0 0 else s

/-- Acknowledged flits leave the replay buffer, and waiting ones follow. -/
def State.ackFlits (s : State) (l : Fin 14) (d : Fin 2) : State :=
  s.onLink l fun x => (x.onDir d fun y => { y with replay := y.replay.drop y.acks, acks := 0 }).flow d

/-! Widths, rates, stops (R370 to R373, R377). -/

/-- Groups of a direction that are active. -/
def LinkDir.width (d : LinkDir) : Nat := (List.range 32).countP fun g => !bit d.retired g

/-- LKPEN of a link at its rate and width: H and P in 1/16 tick, rounded up (R377). -/
def Link.pen (l : Link) : Word :=
  let w := 16 * min (vget l.dirs 0).width (vget l.dirs 1).width
  let r := 32 + 4 * l.rate
  let up (n : Nat) : Nat := (n + 10 * w * r - 1) / (10 * w * r)
  BitVec.ofNat 64 (up (8640 * w * r + 56623104) * 2 ^ 16 + up (5724 * w * r + 3538944))

/-- A group of a direction retires where it is active and not the last one: the link stops, and the host is notified
(R371, R373, R376). -/
def State.retireGroup (s : State) (l : Fin 14) (d : Fin 2) (g : Nat) : State :=
  let y := vget (vget s.plat.links l).dirs d
  if bit y.retired g || decide (y.width ≤ 1) then s
  else
    let floor := bits (s.dev (0xD00 + 8 * l.val)) 16 6
    (s.onLink l fun x => { (x.onDir d fun y => { y with retired := y.retired ||| BitVec.ofNat 32 (2 ^ g) }) with stop := true }).notice
      (if floor ≤ y.width - 1 then 0x31 else 0x32) 0 l.val d.val 0

/-- A write to LKCTL outside a stop (R371). -/
def State.applyLkctl (s : State) (l : Fin 14) (v : Word) : State :=
  let n := 0xD00 + 8 * l.val
  let changes := decide (bits v 24 4 ≠ bits (s.dev n) 24 4)
  let s := s.setDev n (v &&& 0x8F3F_0000)
  let s := if changes then s.onLink l fun x => { x with stop := true, rateStop := true } else s
  let s := if bits v 8 6 = 0 then s else s.retireGroup l 0 (bits v 8 6 - 1)
  if bits v 0 6 = 0 then s else s.retireGroup l 1 (bits v 0 6 - 1)

/-- A write to LKCTL: ignored where it breaks R371, kept until a stop ends. -/
def State.writeLkctl (s : State) (l : Fin 14) (v : Word) : State :=
  let rate := bits v 24 4
  if (rate ≠ 0 ∧ !bit v 31) ∨ 4 < rate ∨ 32 < bits v 16 6 ∨ 32 < bits v 8 6 ∨ 32 < bits v 0 6 then s
  else if (vget s.plat.links l).stop then s.onLink l fun x => { x with pending := x.pending ++ [v] }
  else s.applyLkctl l v

/-- Writes made during a stop take effect one after another, up to one that stops the link again. -/
def State.applyPending (s : State) (l : Fin 14) : Nat → State
  | 0 => s
  | n + 1 =>
    let x := vget s.plat.links l
    match (if x.stop then [] else x.pending) with
    | [] => s
    | v :: rest => ((s.onLink l fun x => { x with pending := rest }).applyLkctl l v).applyPending l n

/-- The end of a stop: the rate in force, LKPEN, event 0x33, and what waited (R371, R372, R377). -/
def State.endLinkStop (s : State) (l : Fin 14) : State :=
  let x := vget s.plat.links l
  if !x.stop then s
  else
    let n := 0xD00 + 8 * l.val
    let s := s.onLink l fun x => { x with stop := false, rateStop := false, rate := bits (s.dev n) 24 4 }
    let s := s.setDev (n + 4) (vget s.plat.links l).pen
    let s := if x.rateStop then s.notice 0x33 0 l.val 0 0 else s
    (s.applyPending l x.pending.length).onLink l fun x => (x.flow 0).flow 1

/-- LKSTAT. -/
def Link.status (l : Link) : Word :=
  BitVec.ofNat 64 (l.stop.toNat * 2 ^ 63 + l.rate * 2 ^ 24 + (vget l.dirs 1).width * 2 ^ 8 + (vget l.dirs 0).width)

end Sys2Proof.Machine
end

