-- ==== Sys2Proof/Machine/Power.lean ====
section
/-! DEFINITION. Islands, power levels, throttling and ballast (16 R380, R381, 17 R392 to R398). -/

namespace Sys2Proof.Machine

/-! Islands. -/

/-- The cores of an island: twelve for a core island, none for an uncore or I/O island (R380). -/
def islandCores (i : Fin 76) : List (Fin 768) :=
  if i.val < 72 ∧ i.val % 9 < 8 then (List.range 12).map fun n => Fin.ofNat 768 (i.val / 9 * 96 + i.val % 9 * 12 + n) else []

/-- The eight core islands of a die. -/
def dieIslands (d : Fin 8) : List (Fin 76) := (List.range 8).map fun k => Fin.ofNat 76 (9 * d.val + k)

/-- The frequency of an island state in MHz (R392); 0 where the clock is stopped. -/
def stateFreq (st : Nat) : Nat := match st with | 0 => 2700 | 1 => 2300 | 2 => 1800 | 3 => 1200 | _ => 0

/-- The value of ISTATEn (R392). -/
def Island.word (i : Island) : Word := BitVec.ofNat 64 (i.thr.toNat * 2 ^ 8 + i.state.toNat)

/-- The value of CLKSTATn (R382). -/
def Island.clk (i : Island) : Word :=
  BitVec.ofNat 64 (i.stop.toNat * 2 ^ 63 + stateFreq i.state.toNat * 2 ^ 48 + i.warn.toNat * 2 ^ 43 + i.margin.toNat * 2 ^ 40 + i.stretch)

/-- A core that holds a task. -/
def Core.busy (k : Core) : Bool := k.task.isSome

/-- A core's island has stopped: from here on its matrix cluster is held by the stop, and a stamp that falls due misses (R175, R381,
R393). -/
def State.endHold (s : State) (k : Fin 768) : State := s.onCore k fun c => c.onClu .m fun u => u.holdOff s.cadence.toNat

/-- A write to ISTATEn (R392, R393): ignored as a whole where the state may not be taken; a change within P0 to P3 stops the
island; an island in OFF loses its cores' state; lost capacity ends launches (R255). -/
def State.writeIstate (s : State) (i : Fin 76) (v : Word) : State :=
  let st := bits v 0 3
  let old := (vget s.plat.islands i).state.toNat
  let cores := islandCores i
  if 6 ≤ st ∨ (4 ≤ st ∧ cores = []) ∨ (st = 5 ∧ cores.any fun k => (s.core k).busy) then s
  else
    let s := s.onIsland i fun d =>
      { d with state := BitVec.ofNat 3 st, thr := d.thr &&& ~~~(BitVec.ofNat 5 (bits v 8 5)),
               stop := d.stop || (decide (st ≤ 3) && decide (old ≤ 3) && decide (st ≠ old)) }
    let s := if cores.all s.running then s else cores.foldl State.endHold s
    let s := if st = 5 ∧ old ≠ 5 then cores.foldl (fun s k => s.setCore k Core.reset) s else s
    s.capCheck

/-- The margin of an island falls; at CLKWTH.LEVEL or below it stretches a period, warns and posts event 0x34 (R380). -/
def State.stretchIsland (s : State) (i : Fin 76) (margin : BitVec 3) : State :=
  let level := bits (s.dev 0xECF) 0 3
  let old := (vget s.plat.islands i).margin
  if margin.toNat ≤ level then
    let s := s.onIsland i fun d => { d with margin := margin, stretch := min (d.stretch + 1) 0xFFFF_FFFF, warn := true }
    if margin < old then s.notice 0x34 2 i.val 0 0 else s
  else s.onIsland i fun d => { d with margin := margin }

/-! The governor (R394, R395). -/

/-- A die changed. -/
def State.onDie (s : State) (d : Fin 8) (f : Die → Die) : State :=
  { s with plat := { s.plat with dies := vset s.plat.dies d (f (vget s.plat.dies d)) } }

/-- The contribution of a core to its die's sum. -/
def State.contribution (s : State) (k : Fin 768) : Nat :=
  let c := s.core k
  if c.rg.pwrlvl ≠ 0 then c.rg.pwrlvl.toNat else if c.task.isSome then s.defLevel k else 0

/-- The sum S of a die. -/
def State.granted (s : State) (d : Fin 8) : Nat :=
  (List.range 96).foldl (fun n i => n + s.contribution (Fin.ofNat 768 (96 * d.val + i))) 0

/-- Two requests are of one `PWRACQ`, or of one core's restore, whatever their levels. -/
def PowerReq.same (a b : PowerReq) : Bool := a.core == b.core && a.by_ == b.by_

/-- A request withdrawn. -/
def State.withdraw (s : State) (r : PowerReq) : State :=
  s.onDie (dieOf r.core) fun d => { d with waiting := d.waiting.filter fun x => !x.same r }

/-- A request joins its die's queue behind those that came before it; one that is there already keeps its place, and one of another
level takes a new one (notes/assumptions/49.md). -/
def State.requestPower (s : State) (r : PowerReq) : State :=
  if (vget s.plat.dies (dieOf r.core)).waiting.contains r then s
  else (s.withdraw r).onDie (dieOf r.core) fun d => { d with waiting := d.waiting ++ [r] }

/-- The requests of a core, and the grants its clusters have not used, are gone. -/
def State.dropRequest (s : State) (k : Fin 768) : State :=
  let s := s.onCore k fun c => { c with rg := { c.rg with pwrGot := [] } }
  s.onDie (dieOf k) fun d => { d with waiting := d.waiting.filter fun r => r.core != k }

/-- A restore of a core's task waits for its power level (15 R355). -/
def State.restoreWaits (s : State) (k : Fin 768) : Bool :=
  (vget s.plat.dies (dieOf k)).waiting.any fun r => r.core == k && r.by_.isNone

/-- A grant of a request: the level is set, and a `PWRACQ` that waits for it may issue. -/
def State.grant (s : State) (r : PowerReq) : State :=
  (s.withdraw r).onCore r.core fun c =>
    { c with rg := { c.rg with pwrlvl := r.level, pwrGot := match r.by_ with
      | some x => x :: c.rg.pwrGot
      | none => c.rg.pwrGot } }

/-- The governor examines the head request of a die (R395): grants it, or sets the THR bit of the reason it refuses. -/
def State.examineHead (s : State) (d : Fin 8) (thermalOk currentOk : Bool) : State :=
  match (vget s.plat.dies d).waiting with
  | [] => s
  | r :: _ =>
    let i := islandOf r.core
    if bits (s.dev (0xF50 + d.val)) 32 16 + s.contribution r.core < s.granted d + r.level.toNat then s.setThr i 1
    else if bit (vget s.plat.islands i).thr 0 || !thermalOk then s.setThr i 0
    else if !currentOk then s.setThr i 4
    else s.grant r

/-- A write to DIEPWRd (R394). -/
def State.writeDiepwr (s : State) (n : Nat) (v : Word) : State :=
  if 1 ≤ bits v 0 16 ∧ bits v 0 16 ≤ 199 then s else s.setDev n (v &&& 0xFFFF_FFFF_FF00_FFFF)

/-! Throttling and ballast (R397, R398). -/

/-- Measured power above CAP: the die's core islands stretch, with THR cap. -/
def State.capStretch (s : State) (d : Fin 8) (power : BitVec 16) : State :=
  let s := s.onDie d fun x => { x with power := power }
  if bits (s.dev (0xF50 + d.val)) 48 16 < power.toNat then
    (dieIslands d).foldl (fun s i => (s.onIsland i fun x => { x with stretch := min (x.stretch + 1) 0xFFFF_FFFF }).setThr i 3) s
  else s

/-- A fall of the die's current faster than SLEW starts ballast; a further fall while it runs begins an interval of its own. -/
def State.ballastStart (s : State) (d : Fin 8) (fall : Nat) : State :=
  let r := s.dev (0xF50 + d.val)
  if bits r 0 16 = 0 ∨ fall ≤ bits r 0 16 then s
  else
    let above := decide (bits r 48 16 < (vget s.plat.dies d).power.toNat)
    let s := s.onDie d fun x => { x with ballast := some s.cadence.toNat }
    (dieIslands d).foldl (fun s i => let t := s.setThr i 2; if above then t.setThr i 3 else t) s

end Sys2Proof.Machine
end

