-- ==== Sys2Proof/Machine/Special.lean ====
section
/-! DEFINITION. The special registers: which exist, what a read returns and changes, what a write does (01 R34 to R38,
05 R139, 15 R367). -/

namespace Sys2Proof.Machine

/-! The lists of registers. -/

/-- How a number stands in the lists: not listed, read-only, or writable in some field. -/
inductive RegKind where
  | absent | ro | rw
  deriving DecidableEq, Repr

/-- A number lies in a range. -/
def within (n lo hi : Nat) : Bool := decide (lo ≤ n) && decide (n ≤ hi)

/-- The user-level registers (R35). -/
def userKind (n : Nat) : RegKind :=
  if within n 0x011 0x012 || within n 0x020 0x021 || within n 0x060 0x061 || within n 0x0A0 0x0A7 || within n 0x0C0 0x0CB then .rw
  else if within n 0 7 || n == 0x010 || within n 0x030 0x032 || n == 0x040 || within n 0x050 0x05F || n == 0x070 ||
      within n 0x080 0x087 || within n 0x090 0x09F || n == 0x0B0 || within n 0x100 0x107 || within n 0x110 0x111 then .ro
  else .absent

/-- The privileged registers (R367, and the chapters it names); read-only where every field is. -/
def privKind (n : Nat) : RegKind :=
  if n == 0x801 || n == 0x804 || within n 0x880 0x887 || n == 0xA02 || n == 0xA71 || n == 0xC42 || n == 0xC52 ||
      (within n 0xD00 0xD6F && (n % 8 == 1 || n % 8 == 2 || n % 8 == 4)) || n == 0xE61 || n == 0xE72 || within n 0xF58 0xF5F ||
      within n 0xF71 0xF72 then .ro
  else if within n 0x800 0x805 || within n 0x808 0x80B || within n 0x810 0x811 || within n 0x818 0x819 || within n 0x820 0x821 ||
      n == 0x840 || within n 0x850 0x856 || within n 0x8C0 0x8C7 || within n 0x900 0x97F || within n 0xA00 0xA01 ||
      within n 0xA08 0xA0F || within n 0xA60 0xA6B || n == 0xA70 || within n 0xB00 0xB3F || n == 0xB40 ||
      within n 0xC00 0xC3F || within n 0xC40 0xC41 || n == 0xC48 || within n 0xC50 0xC51 || n == 0xC58 ||
      (within n 0xD00 0xD6F && n % 8 != 7) || n == 0xE00 || within n 0xE10 0xE1F || within n 0xE30 0xE31 ||
      within n 0xE38 0xE3B || within n 0xE40 0xE47 || n == 0xE60 || within n 0xE70 0xE74 || within n 0xE80 0xECB || n == 0xECF ||
      within n 0xF00 0xF4B || within n 0xF50 0xF57 || n == 0xF70 then .rw
  else .absent

/-- The kind of a number. -/
def regKind (n : Nat) : RegKind := if n < 0x800 then userKind n else privKind n

/-- The clusters a register is listed for (R35, R349). -/
def regOnCluster (n : Nat) (x : Clu) : Bool :=
  if within n 0x011 0x012 || within n 0x050 0x05F then x == .m
  else if within n 0x020 0x021 then x == .v || x == .m
  else if within n 0x090 0x0A7 || n == 0x0B0 then x == .a
  else if n == 0x811 then x == .c
  else true

/-- The fault of an access to a register, if it is refused (R34). R34 gives the refusals no order; here privilege comes first, then an
unassigned number or an `MTS` to a read-only register, then the cluster (DESIGN CHOICE, notes/assumptions/73.md). -/
def regFault (n : Nat) (x : Clu) (priv write : Bool) : Option Nat :=
  if 0x800 ≤ n ∧ !priv then some 3
  else if regKind n = .absent ∨ (write ∧ regKind n = .ro) then some 1
  else if !regOnCluster n x then some 2
  else none

/-! Values composed of other state. -/

/-- The locket status (R29). -/
def Core.lkstat (k : Core) : Word :=
  let held := k.en.mrun.filter MRun.isHeld
  let used := held.foldl (fun n r => n + r.cmd.drainSize / 1024) 0
  let tlock := (List.range 16).foldl (fun n i => n + (k.tileLocked (Fin.ofNat 16 i)).toNat * 2 ^ i) 0
  let oldest := match held with
    | r :: _ => r.cmd.acc.toNat
    | [] => 0x3F
  BitVec.ofNat 64 (held.length * 2 ^ 48 + (32 - used) * 2 ^ 40 + k.undoCount * 2 ^ 32 + tlock * 2 ^ 16 + oldest * 2 ^ 8 +
    (k.en.mrun.any fun r => r.phase == .assay).toNat)

/-- The record slot of a sequencer run. -/
def ChCmd.recSlot (c : ChCmd) : Nat :=
  match c.i with
  | .seqrunCopy _ _ slot _ _ => slot.toNat
  | .seqrunGather _ _ slot _ _ => slot.toNat
  | .seqrunScatter _ _ slot _ _ => slot.toNat
  | .seqrunCpyscl _ _ slot _ _ => slot.toNat
  | _ => 0

/-- SEQSTAT of a run on a channel (R214). -/
def ChCmd.seqstat (c : ChCmd) (ch : Nat) (busy : Bool) : Word :=
  BitVec.ofNat 64 (busy.toNat * 2 ^ 63 + (c.runKind.getD 0) * 2 ^ 56 + c.recSlot * 2 ^ 52 + ch * 2 ^ 48 + c.prog % 2 ^ 48)

/-- The oldest of two numbered commands. -/
def olderCmd (a b : Option (Nat × ChCmd)) : Option (Nat × ChCmd) :=
  match a, b with
  | none, x => x
  | x, none => x
  | some x, some y => if x.2.order ≤ y.2.order then some x else some y

/-- The oldest issued, unfinished sequencer run of the core, with its channel. -/
def Core.oldestRun (k : Core) : Option (Nat × ChCmd) :=
  (List.range 8).foldl (fun o i =>
    olderCmd o (((vget k.en.chans (Fin.ofNat 8 i)).cmds.find? fun c => c.runKind.isSome).map fun c => (i, c))) none

/-- SEQSTAT (R214). -/
def Core.seqstat (k : Core) : Word :=
  match k.oldestRun with
  | some (i, c) => c.seqstat i true
  | none => k.en.seqstat

/-- Events whose count depends on timing this model does not have (R267). -/
def timingEvent (e : Nat) : Bool := e == 2 || e == 4 || e == 5 || e == 6 || e == 0xE

/-- The value of CELOC entry n of a die (R335). -/
def Die.celocWord (d : Die) (n : Nat) : Word :=
  match alGet d.celoc n with
  | none => 0
  | some (unit, loc, h) =>
    BitVec.ofNat 64 (2 ^ 63 + h.lasting.toNat * 2 ^ 62 + h.inwin * 2 ^ 58 + unit.toNat * 2 ^ 56 + loc.toNat)

/-- Slots of the save pool that hold a task. -/
def State.slotsUsed (s : State) : Nat := s.sch.saved.length

/-- The value of CXLSTp (R390). -/
def CxlPort.word (p : CxlPort) : Word := BitVec.ofNat 64 (p.up.toNat * 2 ^ 63 + p.err.toNat * 2 ^ 62 + p.frames.toNat)

/-- LKMAP of a link (R370). -/
def Link.map (l : Link) : Word := (vget l.dirs 1).retired ++ (vget l.dirs 0).retired

/-- LKEVT of a link (R370). -/
def Link.evt (l : Link) : Word := BitVec.ofNat 64 (l.hist.lasting.toNat * 2 ^ 63 + l.hist.inwin * 2 ^ 56)

/-- The value of LQCFG with COUNT (R248). -/
def State.lqcfg (s : State) (q : Nat) : Word := s.dev (0x900 + 4 * q) ||| BitVec.ofNat 64 (s.queueCount (Fin.ofNat 32 q) % 128)

/-- DIEGOV of a die (R394). -/
def State.diegov (s : State) (d : Fin 8) : Word :=
  let x := vget s.plat.dies d
  BitVec.ofNat 64 (s.granted d % 2 ^ 16 * 2 ^ 32 + x.waiting.length % 2 ^ 16 * 2 ^ 16 + x.power.toNat)

/-! Reads. -/

/-- Registers of one cluster, by number; none where the number is not one of them. -/
def Cluster.special (c : Cluster) (n : Nat) : Option Word :=
  let at4 (v : Vector Word 4) : Word := vget v (Fin.ofNat 4 n)
  if n = 0x020 then some c.srkey
  else if n = 0x021 then some c.srctr
  else if n = 0x060 then some c.lgtmo
  else if n = 0x061 then some c.cltmo
  else if n = 0x070 then some c.clb
  else if within n 0x0C0 0x0C3 then some (at4 c.lps)
  else if within n 0x0C4 0x0C7 then some (at4 c.lpe)
  else if within n 0x0C8 0x0CB then some (at4 c.lpc)
  else if n = 0x800 then some c.tvec
  else if n = 0x801 then some c.tcause
  else if n = 0x802 then some c.tpc
  else if n = 0x803 then some c.taddr
  else if n = 0x804 then some c.tinfo
  else if n = 0x805 then some c.tstat
  else if within n 0x808 0x80B then some (at4 c.hkeep)
  else if n = 0x810 then some c.pctx
  else none

/-- The task's part of a launch-time register. -/
def Core.taskWord (k : Core) (f : Task → Nat) : Word :=
  match k.task with
  | some t => BitVec.ofNat 64 (f t)
  | none => 0

/-- Registers of one core that a read leaves as they are. -/
def Core.special (k : Core) (n : Nat) : Option Word :=
  if n = 2 then some (k.taskWord fun t => t.lid.toNat * 2 ^ 48 + t.ordinal % 2 ^ 48)
  else if n = 3 then some (k.taskWord fun t => t.flags.toNat)
  else if within n 4 7 then some (k.taskWord fun t => t.foot (Fin.ofNat 4 (n - 4)))
  else if n = 0x011 then some k.st.stampb
  else if n = 0x030 then some (BitVec.ofNat 64 k.st.tqcnt)
  else if n = 0x031 then some (BitVec.ofNat 64 k.st.dqcnt)
  else if n = 0x032 then some (BitVec.ofNat 64 k.st.fq.length)
  else if n = 0x040 then some k.lkstat
  else if within n 0x050 0x05F then some (vget k.st.tsh (Fin.ofNat 16 n))
  else if within n 0x080 0x087 then some (vget k.en.chans (Fin.ofNat 8 n)).watermark
  else if within n 0x090 0x097 then some (vget k.en.chans (Fin.ofNat 8 n)).pgnow
  else if within n 0x098 0x09F then some (vget k.en.chans (Fin.ofNat 8 n)).pgnxt
  else if within n 0x0A0 0x0A7 then some (vget k.en.chans (Fin.ofNat 8 n)).pgdst
  else if n = 0x0B0 then some k.seqstat
  else if within n 0x100 0x107 then some (vget k.rg.pmc (Fin.ofNat 8 n))
  else if n = 0x110 then some (zext k.rg.pwrlvl)
  else if n = 0x840 then some k.rg.aflags
  else if n = 0x853 then some k.rg.ewpri
  else if n = 0x854 then some k.rg.ewshd
  else if n = 0x856 then some k.rg.ewxfr
  else if within n 0x880 0x887 then some (vget k.en.chans (Fin.ofNat 8 n)).ahm
  else if within n 0x8C0 0x8C7 then some (vget k.rg.pmsel (Fin.ofNat 8 n))
  else none

/-- Registers of the device and of the die of a core that a read leaves as they are; 0 for a field that is written only. -/
def State.devSpecial (s : State) (k : Fin 768) (n : Nat) : Word :=
  let die := vget s.plat.dies (dieOf k)
  let link := vget s.plat.links (Fin.ofNat 14 ((n - 0xD00) / 8))
  if n = 0x811 ∨ n = 0x820 ∨ n = 0xA00 ∨ n = 0xC40 ∨ n = 0xC42 ∨ n = 0xC48 ∨ n = 0xC58 then 0
  else if within n 0x900 0x97F && n % 4 == 0 then s.lqcfg ((n - 0x900) / 4)
  else if n = 0xA02 then
    s.lat.statEntry.setWidth 64 * 256 + s.lat.statDetail.setWidth 64 * 16 +
      BitVec.ofNat 64 (s.tableOf (BitVec.ofNat 12 (bits (s.dev 0xA01) 0 12))).isSome.toNat
  else if n = 0xA71 then
    BitVec.ofNat 64 (s.plat.iftBusy.toNat * 2 ^ 63 + s.plat.iftPass.toNat * 2 ^ 62 + s.plat.iftCore.toNat)
  else if within n 0xB00 0xB3F then die.celocWord (n - 0xB00)
  else if n = 0xB40 then die.ewmem
  else if n = 0xC52 then BitVec.ofNat 64 (s.slotsUsed * 2 ^ 16 + ((s.dev 0xC51).toNat - s.slotsUsed))
  else if within n 0xD00 0xD6F && n % 8 == 1 then link.status
  else if within n 0xD00 0xD6F && n % 8 == 2 then link.map
  else if within n 0xD00 0xD6F && n % 8 == 6 then link.evt
  else if within n 0xE40 0xE47 then (vget s.plat.cxl (Fin.ofNat 8 n)).word
  else if n = 0xE61 then (s.ms.keySlot (s.dev 0xE60).toNat).state.setWidth 64
  else if n = 0xE72 then s.plat.evHead
  else if within n 0xF00 0xF4B then (vget s.plat.islands (Fin.ofNat 76 (n - 0xF00))).word
  else if within n 0xF58 0xF5F then s.diegov (Fin.ofNat 8 n)
  else if n = 0xF71 then vget s.plat.enCtx (Fin.ofNat 64 (s.dev 0xF70).toNat)
  else if n = 0xF72 then s.plat.enPlat
  else s.dev n

/-- A history read: its word, and TOTAL cleared (R332). -/
def History.taken (h : History) : History := { h with total := 0 }

/-- A read of a register by the executing cluster, with the clears that come with it. -/
def State.readReg (s : State) (n : Nat) : Word × State :=
  let k := s.me
  let c := s.cl
  if n = 0 then (BitVec.ofNat 64 (cluCode s.cur.clu).val, s)
  else if n = 1 then (BitVec.ofNat 64 (qposOf s.cur.core), s)
  else if n = 0x010 then (s.cadence, s)
  else if n = 0x012 then (k.st.stampc, s.onSt fun t => { t with stampc := t.stampc &&& 1 })
  else if n = 0x111 then (zext (vget s.plat.islands (islandOf s.cur.core)).thr, s)
  else if n = 0x850 then (k.rg.dpstat, s.onRg fun r => { r with dpstat := r.dpstat &&& 0x7FFF_FFFF_FFFF_FFFF })
  else if n = 0x851 then (k.rg.ecpri.word, s.onRg fun r => { r with ecpri := r.ecpri.taken })
  else if n = 0x852 then (k.rg.ecshd.word, s.onRg fun r => { r with ecshd := r.ecshd.taken })
  else if n = 0x855 then (k.rg.ecxfr.word, s.onRg fun r => { r with ecxfr := r.ecxfr.taken })
  else if within n 0xD00 0xD6F && n % 8 == 3 then
    let l : Fin 14 := Fin.ofNat 14 ((n - 0xD00) / 8)
    let x := vget s.plat.links l
    (BitVec.ofNat 64 (x.crcerr * 2 ^ 32 + x.replays), s.onLink l fun x => { x with crcerr := 0, replays := 0 })
  else if n = 0xE74 then
    (s.dev n ||| BitVec.ofNat 64 (s.plat.evLost.toNat * 2 ^ 48), { s with plat := { s.plat with evLost := 0 } })
  else if within n 0xE80 0xECB then
    let i : Fin 76 := Fin.ofNat 76 (n - 0xE80)
    ((vget s.plat.islands i).clk, s.onIsland i fun d => { d with stretch := 0 })
  else
    match c.special n with
    | some x => (x, s)
    | none =>
      match k.special n with
      | some x => (x, s)
      | none => (s.devSpecial s.cur.core n, s)

/-! Writes. -/

/-- A register of one cluster written. -/
def Cluster.putSpecial (c : Cluster) (n : Nat) (x : Word) : Option Cluster :=
  let set4 (v : Vector Word 4) : Vector Word 4 := vset v (Fin.ofNat 4 n) x
  if n = 0x020 then some { c with srkey := x }
  else if n = 0x021 then some { c with srctr := x }
  else if n = 0x060 then some { c with lgtmo := x }
  else if n = 0x061 then some { c with cltmo := x }
  else if within n 0x0C0 0x0C3 then some { c with lps := set4 c.lps }
  else if within n 0x0C4 0x0C7 then some { c with lpe := set4 c.lpe }
  else if within n 0x0C8 0x0CB then some { c with lpc := set4 c.lpc }
  else if n = 0x800 then some { c with tvec := x &&& ~~~63 }
  else if n = 0x802 then some { c with tpc := x, tpcReg := true }
  else if n = 0x803 then some { c with taddr := x }
  else if n = 0x805 then some { c with tstat := (c.tstat &&& ~~~3) ||| (x &&& 3) }
  else if within n 0x808 0x80B then some { c with hkeep := set4 c.hkeep }
  else if n = 0x810 then some { c with pctx := x &&& 0x7F }
  else none

/-- A history whose LASTING bit is written with a 1. -/
def History.wipe (h : History) (x : Word) : History := if bit x 63 then { h with lasting := false } else h

/-- The writable bits of a window register (R333). -/
def windowBits (x : Word) : Word := x &&& 0xF_FFFF_FFFF

/-- A register of one core written. -/
def Core.putSpecial (k : Core) (n : Nat) (x : Word) : Option Core :=
  let rg (f : CoreRegs → CoreRegs) : Option Core := some { k with rg := f k.rg }
  if n = 0x011 then some { k with st := { k.st with stampb := x } }
  else if n = 0x012 then some { k with st := { k.st with stampc := (k.st.stampc &&& 0xFFFF_FFFF_0000_0000) ||| (x &&& 1) } }
  else if within n 0x0A0 0x0A7 then some (k.onChan (Fin.ofNat 8 n) fun c => { c with pgdst := x &&& 0xFFC0 })
  else if n = 0x820 then
    some { k with cl := Vector.ofFn fun i : Fin 4 => { vget k.cl i with wake := (vget k.cl i).wake || bit x i.val } }
  else if n = 0x840 then rg fun r => { r with aflags := r.aflags &&& ~~~x }
  else if n = 0x850 then some k
  else if n = 0x851 then rg fun r => { r with ecpri := r.ecpri.wipe x }
  else if n = 0x852 then rg fun r => { r with ecshd := r.ecshd.wipe x }
  else if n = 0x853 then rg fun r => { r with ewpri := windowBits x }
  else if n = 0x854 then rg fun r => { r with ewshd := windowBits x }
  else if n = 0x855 then rg fun r => { r with ecxfr := r.ecxfr.wipe x }
  else if n = 0x856 then rg fun r => { r with ewxfr := windowBits x }
  else if within n 0x8C0 0x8C7 then rg fun r => { r with pmsel := vset r.pmsel (Fin.ofNat 8 n) (x &&& 0xFFF) }
  else none

/-- A write to EMUDONE (R349, R112): the held command takes its wait tokens and finishes, or the format-word fault is raised on M, the shape
fault for a `TCVT` of a tile with a code that the firmware does not emulate (R18). -/
def State.emuDone (s : State) (k : Fin 768) (act : Nat) : State :=
  let c := s.core k
  match (if c.en.emulDone then none else c.en.emul) with
  | none => s
  | some cmd =>
    let post := (longOf cmd.w1.toNat).post
    if act = 1 then
      s.onCore k fun c =>
        let c := (c.popTokens (c.cluAgent .m) .m (longOf cmd.w1.toNat).wait).postOwn [c.cmdAgent cmd.order] .m post
        { c with en := { c.en with emulDone := true, lockPut := none } }
    else if act = 2 then
      let t : Trap := { clu := .m, cause := if cmd.refusedShape then 0xF else 0xE, detail := 0, async := false, addr := 0,
                        info := cmd.w0 ++ (if cmd.refusedShape then cmd.w1 else cmd.fmt) }
      (s.onCore k fun c => { c with en := { c.en with emul := none, lockPut := none }, st := c.st.unreserve .m post }).deliver k .m t (s.pcOf k .m)
    else s

/-- A write to LQCFGq (R248): CTX changes only while EN and COUNT are 0. -/
def State.writeLqcfg (s : State) (q : Nat) (x : Word) : State :=
  let n := 0x900 + 4 * q
  let old := s.dev n
  if bits old 32 12 ≠ bits x 32 12 ∧ (bit old 7 ∨ s.queueCount (Fin.ofNat 32 q) ≠ 0) then s
  else s.setDev n (x &&& 0xFFF_0000_0080)

/-- A context slot may not change: a task of it is resident, or a launch of its context is queued or running (R358). -/
def State.ctxsHeld (s : State) (i : Nat) : Bool :=
  (s.cores.toList.any fun k => match k.task with
    | some t => decide (t.slot = i)
    | none => false) ||
    (bit (s.dev (0xC00 + i)) 63 && s.sch.launches.any fun l => decide (l.ctx.toNat = bits (s.dev (0xC00 + i)) 0 12))

/-- A write to CTXSi (R358); CTX of slot 0 is fixed at 0. The energy of a slot's context counts from when the slot becomes valid (R399). -/
def State.writeCtxs (s : State) (i : Nat) (x : Word) : State :=
  let v := x &&& 0x8000_0FFF_FFFF_FFFF
  let v := if i = 0 then v &&& ~~~0xFFF else v
  let fresh := decide (i < 64) && bit v 63 && !bit (s.dev (0xC00 + i)) 63
  if v ≠ s.dev (0xC00 + i) ∧ s.ctxsHeld i then s
  else if fresh then { s.setDev (0xC00 + i) v with plat := { s.plat with enCtx := vset s.plat.enCtx (Fin.ofNat 64 i) 0 } }
  else s.setDev (0xC00 + i) v

/-- Histories and typed-buffer locations of a readmitted core cleared (R338). -/
def State.readmit (s : State) (k : Fin 768) : State :=
  let s := s.onCore k fun c => { c with rg := { c.rg with ecpri := History.reset, ecshd := History.reset, ecxfr := History.reset } }
  s.onDie (dieOf k) fun d => { d with celoc := d.celoc.filter fun e => !(e.2.1 == 0 && decide (bits e.2.2.1 46 10 = k.val)) }

/-- The bit of a core in CFENCE may be cleared: the last test passed, was of the core, and started after the fence (R338). -/
def State.mayReadmit (s : State) (k : Nat) : Bool :=
  !s.plat.iftBusy && s.plat.iftPass && decide (s.plat.iftCore.toNat = k) &&
    match alGet s.plat.fenced k with
    | some t => decide (t ≤ s.plat.iftTick)
    | none => false

/-- A write to CFENCEn (R338). -/
def State.writeCfence (s : State) (n : Nat) (x : Word) : State :=
  (List.range 64).foldl (fun s i =>
    if bit x i && bit (s.dev (0xA60 + n)) i && s.mayReadmit (64 * n + i) then
      (s.setDev (0xA60 + n) (s.dev (0xA60 + n) &&& ~~~(BitVec.ofNat 64 (2 ^ i)))).readmit (Fin.ofNat 768 (64 * n + i))
    else s) s

/-- A write to IFTCTL (R338). -/
def State.writeIftctl (s : State) (x : Word) : State :=
  let k := bits x 0 10
  let s := s.setDev 0xA70 (x &&& 0x3FF)
  if bit x 63 ∧ !s.plat.iftBusy ∧ k ≤ 767 ∧ s.cfence (Fin.ofNat 768 k) then
    { s with plat := { s.plat with iftBusy := true, iftCore := BitVec.ofNat 10 k, iftTick := s.cadence.toNat } }
  else s

/-- An open window of the host (R386): its range in host space. HBASE is a multiple of 64 KiB: its lower bits take no part
(notes/assumptions/38.md). -/
def State.hxwRange (s : State) (n : Nat) : Option (Nat × Nat) :=
  let a := s.dev (0xE10 + 2 * n)
  if bit a 63 then some (bits a 16 36 * 65536, bits (s.dev (0xE11 + 2 * n)) 0 24 * 65536) else none

/-- A write to HXWnA or HXWnB: one that leaves an open window overlapping another is ignored (R386). -/
def State.writeHxw (s : State) (n : Nat) (x : Word) : State :=
  let w := (n - 0xE10) / 2
  let t := s.setDev n (if n % 2 = 0 then x &&& 0xBF0F_FFFF_FFFF_FFFF else x)
  match t.hxwRange w with
  | none => t
  | some (lo, len) =>
    if (List.range 8).any fun i => i != w && (match t.hxwRange i with
      | some (a, m) => overlap a m lo len
      | none => false)
    then s else t

/-- A task that a restore has placed on a core and that has not begun issue is terminated there (R355, R357). -/
def State.killPlaced (s : State) (v : Saved) (cause : Word) : State :=
  { s with cores := vmap (fun (k : Core) =>
      if k.restoring && k.runs v.lid && (match k.task, v.core.task with
        | some t, some u => decide (t.ordinal = u.ordinal)
        | _, _ => false)
      then k.terminate cause false false else k) s.cores }

/-- A write to TRESUME (R357): a task under the save disposition becomes placeable, or is terminated. -/
def State.writeTresume (s : State) (x : Word) : State :=
  let n := bits x 0 16
  match s.sch.saved.find? fun v => decide (v.slotN = n) && (!v.ready || (v.byDisposition && bit x 63)) with
  | none => s
  | some v =>
    if bit x 63 then
      let d := s.draw
      if v.placed then d.2.killPlaced v d.1 else d.2.dropSaved d.1 v
    else
      { s with sch := { s.sch with saved := s.sch.saved.map fun u => if u.slotN = n then { u with ready := true } else u } }

/-- A launch killed by system software (R357, R265): its tasks terminated, its unplaced ordinals dropped. -/
def State.killLaunch (s : State) (lid : BitVec 16) : State :=
  s.endLaunch lid 4

/-- A write to LCTL (R357). -/
def State.writeLctl (s : State) (x : Word) : State :=
  let lid := BitVec.ofNat 16 (bits x 0 16)
  if !bit x 63 then s
  else if bits x 61 2 = 0 then
    { s with cores := vmap (fun (k : Core) => if k.runs lid && k.term.isNone then k.requestSave 3 s.cadence.toNat else k) s.cores }
  else if bits x 61 2 = 1 then s.killLaunch lid
  else s

/-- CELOC entry n of a die freed by a 1 in LASTING (R335). -/
def State.writeCeloc (s : State) (d : Fin 8) (n : Nat) (x : Word) : State :=
  if bit x 62 then s.onDie d fun e => { e with celoc := alDel e.celoc n } else s

/-- A register of the device or a die written; a number with nothing to write leaves the state. -/
def State.putDevice (s : State) (k : Fin 768) (n : Nat) (x : Word) : State :=
  if n = 0x811 then s.emuDone k (bits x 0 2)
  else if within n 0x818 0x819 then s.setDev n x
  else if n = 0x821 then s.setDev n (x &&& 0xFFFF_FFFF)
  else if within n 0x900 0x97F then (if n % 4 = 0 then s.writeLqcfg ((n - 0x900) / 4) x else s.setDev n x)
  else if n = 0xA01 then s.setDev n (x &&& 0xFFF)
  else if within n 0xA08 0xA0F then s.writeSchedule (Fin.ofNat 8 n) x
  else if within n 0xA60 0xA6B then s.writeCfence (n - 0xA60) x
  else if n = 0xA70 then s.writeIftctl x
  else if within n 0xB00 0xB3F then s.writeCeloc (dieOf k) (n - 0xB00) x
  else if n = 0xB40 then s.onDie (dieOf k) fun d => { d with ewmem := windowBits x }
  else if within n 0xC00 0xC3F then s.writeCtxs (n - 0xC00) x
  else if n = 0xC40 then s.shootRequest x
  else if n = 0xC41 then s.setDev n (x &&& 0x1FF_FFFF)
  else if n = 0xC48 then s.writeTresume x
  else if n = 0xC50 then (if s.slotsUsed = 0 then s.setDev n x else s)
  else if n = 0xC51 then (if s.slotsUsed = 0 then s.setDev n (x &&& 0xFFFF) else s)
  else if n = 0xC58 then s.writeLctl x
  else if within n 0xD00 0xD6F then
    let l : Fin 14 := Fin.ofNat 14 ((n - 0xD00) / 8)
    (if n % 8 = 0 then s.writeLkctl l x
     else if n % 8 = 5 then s.setDev n (windowBits x)
     else if n % 8 = 6 then s.onLink l fun d => { d with hist := d.hist.wipe x }
     else s)
  else if n = 0xE00 ∨ n = 0xE31 ∨ n = 0xE70 then s.setDev n x
  else if within n 0xE10 0xE1F then s.writeHxw n x
  else if n = 0xE30 then s.setDev n (x &&& ~~~7)
  else if within n 0xE38 0xE39 then s.setDev n (x &&& 0xFFFF_FFFF_FFFF)
  else if n = 0xE3A then s.setDev n (x &&& 0xBFFF_FF00_00FF_FFFF)
  else if n = 0xE3B ∨ n = 0xE60 then s.setDev n (x &&& 0x3FF)
  else if within n 0xE40 0xE47 then
    (if bit x 62 then
      { s with plat := { s.plat with cxl := vset s.plat.cxl (Fin.ofNat 8 n) { vget s.plat.cxl (Fin.ofNat 8 n) with err := false } } }
     else s)
  else if n = 0xE71 then
    (if (List.range 8).any fun i => decide (bits x 0 16 = 256 * 2 ^ i) then s.setDev n (x &&& 0xFFFF) else s)
  else if n = 0xE73 then (if s.plat.evHead < x then s else s.setDev n x)
  else if n = 0xE74 then s.setDev n (x &&& 0x8000_0000_3FFE)
  else if within n 0xE80 0xECB then
    (if bit x 43 then s.onIsland (Fin.ofNat 76 (n - 0xE80)) fun d => { d with warn := false } else s)
  else if n = 0xECF then s.setDev n (x &&& 7)
  else if within n 0xF00 0xF4B then s.writeIstate (Fin.ofNat 76 (n - 0xF00)) x
  else if within n 0xF50 0xF57 then s.writeDiepwr n x
  else if n = 0xF70 then s.setDev n (x &&& 0x3F)
  else s

/-- A write to a register by the executing cluster; LRTLOAD may fail its load (R311). -/
def State.writeReg (s : State) (n : Nat) (x : Word) : Res Unit :=
  match s.cl.putSpecial n x with
  | some c => .ok () (s.onCl fun _ => c)
  | none =>
    match s.me.putSpecial n x with
    | some k => .ok () (s.onMe fun _ => k)
    | none => .ok () (s.putDevice s.cur.core n x)

/-- An access to SRKEY or SRCTR of M waits while an earlier command has draws to make (R139). -/
def State.regWaits (s : State) (n : Nat) : Bool :=
  within n 0x020 0x021 && s.cur.clu == .m && s.me.en.mq.any fun c => match c.i with
    | .tdrain .. => true
    | .tdrainadd .. => true
    | .tcvt .. => true
    | _ => false

/-- A write of a register waits as an access to it does; one of SHOOTREQ waits for the accesses under the old entries (R364). -/
def State.writeWaits (s : State) (n : Nat) (x : Word) : Bool := s.regWaits n || (decide (n = 0xC40) && s.shootWaits x)

end Sys2Proof.Machine
end

