-- ==== Sys2Proof/Machine/Control.lean ====
section
/-! DEFINITION. Control flow, special registers, tile shapes and the system instructions of majors 0x10 to 0x17
(05 R128, R135 to R140, 09 R243, 15 R347). -/

namespace Sys2Proof.Machine

/-! Branches (R59, R60, R135). -/

/-- The bundle continues at a code address. The line of that address counts as a line entered (R44), the bundle's own line too (DESIGN
CHOICE, notes/assumptions/102.md). -/
def State.goTo (s : State) (a : Word) (reg : Bool) : State :=
  { (s.onCl fun c => { c with pc := a, pcReg := reg, lineRoom := maxLines }) with report := .branched }

/-- The target of a branch or loop label, relative to the line of the bundle. -/
def State.target? (s : State) (word : BitVec 4) (delta : Int) : Option Word := codeTarget s.ir.bpc delta word.toNat

/-- The return address: the bundle after this one in fetch order (R59). Whatever fault the look-ahead meets is raised at the
instruction; R59 names detail 3 alone (DESIGN CHOICE, notes/assumptions/94.md). -/
def State.returnAddress (s : State) : Except FetchError Word := do
  let (a, _) ← s.normalise (s.old.fetcher s.cur.core s.cur.clu) s.ir.npc false (maxLines + 1)
  .ok a

/-- A fetch fault raised at the instruction. -/
def State.fetchFault (s : State) (e : FetchError) : Out := s.faultAt e.cause e.detail e.addr

/-- The jump of a taken branch to a label; a target outside offset bits 39:0 faults at the target's bundle (R43). That bundle has no
address, so the pc stays at the branch, which issues again after a handler's return (DESIGN CHOICE, notes/assumptions/95.md). -/
def State.branch (s : State) (word : BitVec 4) (delta : Int) : State :=
  match s.target? word delta with
  | some a => s.goTo a false
  | none => { (s.onCl fun c => { c with pc := s.ir.bpc, pcReg := false, pcBad := true }) with report := .branched }

/-- `B` (R59, R135). -/
def execB (p : Pred) (sense : BitVec 1) (word : BitVec 4) (delta : BitVec 16) (s : State) : Out :=
  .next (if s.p p = (sense == 1) then s.branch word delta.toInt else s)

/-- `CALL` (R59, R135). -/
def execCall (p : Pred) (sense : BitVec 1) (word : BitVec 4) (delta : BitVec 16) (s : State) : Out :=
  if s.p p ≠ (sense == 1) then .next s
  else
    match s.returnAddress with
    | .error e => s.fetchFault e
    | .ok r => .next ((s.setG 24 r).branch word delta.toInt)

/-- `JMPR` (R60): the target is checked at the jump. -/
def execJmpr (a : Reg) (s : State) : Out :=
  if codeAddrOk (s.g a) then .next (s.goTo (s.g a) false) else s.faultAt 5 6 (s.g a)

/-- `CALLR` (R60, R135): gA is read before gD is written. -/
def execCallr (d a : Reg) (s : State) : Out :=
  if !codeAddrOk (s.g a) then s.faultAt 5 6 (s.g a)
  else
    match s.returnAddress with
    | .error e => s.fetchFault e
    | .ok r => .next ((s.setG d r).goTo (s.g a) false)

/-! Loops (R136). -/

/-- The position after the end bundle, found along the chain bundle by bundle from a position, and the lines fetch may still visit
from it, of m from the start and at most n bundles passed (R44, R136). A malformed bundle on the way is a bundle fault, and an end
address at which no bundle ahead starts is never reached (DESIGN CHOICE, notes/assumptions/12.md). -/
def State.afterEnd (s : State) (w : Fetcher) (pc ends : Word) (m : Nat) : Nat → Except FetchError (Word × Nat)
  | 0 => .error ⟨5, 8, pc, 0, 0⟩
  | n + 1 => do
    let (a, l, k) ← s.seek w pc m
    let f ← parseBundle a l
    if a = ends then .ok (f.npc, k + 1) else s.afterEnd w f.npc ends (k + 1) n

/-- A level at or above L is active. -/
def Cluster.nested (c : Cluster) (lv : Nat) : Bool :=
  (List.range 4).any fun j => decide (lv ≤ j) && decide (vget c.lpc (Fin.ofNat 4 j) ≠ 0)

/-- `LOOP` (R136). With a nonzero count too, a `LOOP` that no bundle follows raises the fetch fault (DESIGN CHOICE,
notes/assumptions/94.md). -/
def execLoop (lv : BitVec 2) (c : Reg) (word : BitVec 4) (delta : BitVec 13) (s : State) : Out :=
  let l : Fin 4 := Fin.ofNat 4 lv.toNat
  let n := s.g c
  if (s.old.clu s.cur.clu).nested lv.toNat then s.fault 7 0
  else
    match s.target? word delta.toInt with
    | none => s.faultAt 5 7 s.ir.bpc
    | some ends =>
      if n = 0 then
        (match s.afterEnd (s.old.fetcher s.cur.core s.cur.clu) s.ir.npc ends (maxLines + 1) (16 * maxLines) with
        | .error e => s.fetchFault e
        | .ok (a, n) => .next (s.onCl fun c => { c with pc := a, pcReg := false, lineRoom := n }))
      else
        match s.returnAddress with
        | .error e => s.fetchFault e
        | .ok a => .next (s.onCl fun c => { c with lps := vset c.lps l a, lpe := vset c.lpe l ends, lpc := vset c.lpc l n })

/-! Special registers (R34, R139) and shapes (R140). -/

/-- The value of a register written into gD, or the wait for it. -/
def State.regTo (s : State) (d : Reg) (n : Nat) : Out :=
  if s.regWaits n then s.stall
  else
    let r := s.readReg n
    .next (r.2.setG d r.1)

/-- A register written, or the wait for it; a failed load by LRTLOAD raises cause 0x1A with the detail of R311. -/
def State.regFrom (s : State) (n : Nat) (x : Word) : Out :=
  if s.writeWaits n x then s.stall
  else if n = 0xA00 then
    (match s.loadTable (dieOf s.cur.core) x with
    | (t, none) => .next t
    | (t, some (c, d, y)) => t.faultAt c d y)
  else (s.writeReg n x).out s fun _ t => .next t

/-- `MFS` (R34, R139). -/
def execMfs (d : Reg) (n : BitVec 12) (s : State) : Out :=
  match regFault n.toNat s.cur.clu (s.old.clu s.cur.clu).priv false with
  | some c => s.fault c 0
  | none => s.regTo d n.toNat

/-- `MTS` (R34, R139). -/
def execMts (n : BitVec 12) (gs : Reg) (s : State) : Out :=
  match regFault n.toNat s.cur.clu (s.old.clu s.cur.clu).priv true with
  | some c => s.fault c 0
  | none => s.regFrom n.toNat (s.g gs)

/-- A matrix command names a tile. -/
def MCmd.names (c : MCmd) (t : TReg) : Bool :=
  c.tiles.contains t || match c.i with
    | .tld _ a _ => a == t
    | .tst _ a _ => a == t
    | .tqld _ a => a == t
    | .tzero _ a => a == t
    | .ttrans _ a b => a == t || b == t
    | .tcvt _ a b _ => a == t || b == t
    | _ => false

/-- `TSHAPE` (R140, R19): waits for write locks and for earlier commands on the tile; bytes outside the shape are cleared. -/
def execTshape (t : TReg) (ty : BitVec 4) (cols : BitVec 7) (rows : BitVec 6) (s : State) : Out :=
  if s.me.tileLocked t || s.me.en.mq.any fun c => c.names t then s.stallHeld
  else
    let sh : Word := BitVec.ofNat 64 (ty.toNat * 2 ^ 16 + cols.toNat * 2 ^ 7 + rows.toNat)
    .next (s.onSt fun x => { x with tsh := vset x.tsh t sh, tiles := vset x.tiles t (clipTile (vget x.tiles t) sh) })

/-! The end of a task begins (R240, R241). -/

/-- The cluster has ended; one in a handler that it entered after its end counts (R345). -/
def Cluster.over (c : Cluster) : Bool := c.ended || (c.inh && bit c.tstat 1)

/-- LIVE of the exit status: the clusters A, V, M that have not ended. -/
def Core.live (k : Core) : BitVec 3 :=
  BitVec.ofNat 3 ((!(k.clu .a).over).toNat + (!(k.clu .v).over).toNat * 2 + (!(k.clu .m).over).toNat * 4)

/-- A cluster's issue stops. -/
def Core.stopClu (k : Core) (x : Clu) : Core := k.onClu x fun c => { c with stopped := true }

/-- The exit sequence begins: clusters that have not ended stop at their bundle boundaries. -/
def Core.beginExit (k : Core) (impl : Bool) : Core :=
  match k.exit with
  | some _ => k
  | none => { (((k.stopClu .c).stopClu .a).stopClu .v).stopClu .m with exit := some { live := k.live, canc := 0, impl := impl } }

/-- Every cluster has ended. -/
def Core.allEnded (k : Core) : Bool := allClusters.all fun x => (k.clu x).ended

/-! System instructions (R128, R243, R347). -/

/-- `TRAP` (R243): the user trap; the handler's return resumes at the following bundle, after the loop ends of this one. -/
def execTrap (code : BitVec 10) (s : State) : Out :=
  let x := s.cur.clu
  let s := s.onCl fun c => loopEnd (s.old.clu x) s.ir.bpc none c 4
  let t : Trap := { clu := x, cause := 0x19, detail := 0, async := false, addr := 0, info := s.ir.w0 ++ (code.setWidth 32 : Word32) }
  .next { s.deliver s.cur.core x t (s.pcOf s.cur.core x) with report := .branched }

/-- A channel whose fault has been delivered may go on with the faulting piece (R219). -/
def Core.resumeChans (k : Core) : Core :=
  { k with en := { k.en with chans := Vector.ofFn fun i : Fin 8 =>
      let c := vget k.en.chans i
      { c with faulted := c.faulted && k.pend.any fun e => e.1 == .a && decide (bits e.2.info 0 3 = i.val) } } }

/-- `SRET` (R65, R347); on the access cluster, channels stopped by a delivered fault resume (R219). A return to the ended state of the
last cluster begins the exit that `END` would have begun (R240, R345). -/
def execSret (s : State) : Out :=
  let c := s.old.clu s.cur.clu
  if !c.priv then s.fault 3 0
  else if !c.inh then s.fault 1 0
  else
    let t := s.onCl fun u => u.leave
    let t := if t.me.allEnded then t.onMe fun k => k.beginExit true else t
    .next { (if s.cur.clu = .a then t.onMe Core.resumeChans else t) with report := .branched }

/-- `IDLE` (R65, R347): a set wake latch is cleared and ends it at once. -/
def execIdle (s : State) : Out :=
  let c := s.old.clu s.cur.clu
  if !c.priv then s.fault 3 0
  else if c.wake then .next (s.onCl fun u => { u with wake := false })
  else .next (s.onCl fun u => { u with idle := true })

/-- `NOP` (R128). -/
def execNop (s : State) : Out := .next s

end Sys2Proof.Machine
end

