-- ==== Sys2Proof/Machine/GenericMem.lean ====
section
/-! DEFINITION. Generic memory, fences, atomics, range maintenance and lattice instructions: majors 0x18 to 0x1D
(05 R141 to R153, 09 R231 to R234, 15 R342). -/

namespace Sys2Proof.Machine

/-! Loads and stores. -/

/-- The access size of a size code: 1, 2, 4 or 8 bytes. -/
def sizeOf (sz : BitVec 2) : Nat := 2 ^ sz.toNat

/-- The size of an `LD` type code (R66). -/
def ldSize (ty : BitVec 3) : Nat := if ty.toNat < 4 then 2 ^ ty.toNat else 2 ^ (ty.toNat - 4)

/-- An `LD` type code that sign-extends: I8, I16, I32; I64 fills the register (R142). -/
def ldSigned (ty : BitVec 3) : Bool := decide (4 ≤ ty.toNat)

/-- size bytes extended to 64 bits. -/
def extendLoad (size : Nat) (signed : Bool) (x : Nat) : Word := BitVec.ofInt 64 (intOf (8 * size) signed x)

/-- The register an offset of the privileged window names (R342). -/
def windowReg (off size : Nat) : Option Nat :=
  let n := (off - 0x100_0000) / 8
  if 0x100_0000 ≤ off ∧ size = 8 ∧ 0x800 ≤ n ∧ n ≤ 0xFFF then some n else none

/-- A load through the privileged window into gD, with what an acquire at a scope does (R143, R342). -/
def State.windowTo (s : State) (d : Reg) (a : Word) (off size : Nat) (signed : Bool) (scope : Nat) : Out :=
  match windowReg off size with
  | some n => if (regFault n s.cur.clu true false).isSome then s.faultAt 8 0 a else (s.acquire scope).regTo d n
  | none =>
    if 0x10_0000 ≤ off then s.faultAt 8 0 a
    else if s.me.imgOpen (off / 8 * 8) ∧ s.windowPoisoned off size then s.faultAt 0x21 0 a
    else
      match s.windowLoad off size with
      | some (x, t) => .next ((t.acquire scope).setG d (extendLoad size signed x))
      | none => s.faultAt 8 0 a

/-- A store through the privileged window (R342). -/
def State.windowFrom (s : State) (a : Word) (off size : Nat) (x : Word) : Out :=
  match windowReg off size with
  | some n => if (regFault n s.cur.clu true true).isSome then s.faultAt 8 0 a else s.regFrom n x
  | none =>
    if 0x10_0000 ≤ off then s.faultAt 8 0 a
    else
      match s.windowStore off size x.toNat with
      | some t => .next t
      | none => s.faultAt 8 0 a

/-- A load of size bytes at an address into gD, with what an acquire at a scope does after it (R141 to R143). -/
def State.loadTo (s : State) (d : Reg) (a : Word) (size : Nat) (signed : Bool) (scope : Nat) : Out :=
  (s.target a size .load).out s fun t u =>
    match t with
    | .window off => u.windowTo d a off size signed scope
    | _ => (u.loadAt a t size).outAt u t size fun x v => .next ((v.acquire scope).setG d (extendLoad size signed x))

/-- A store of the low size bytes of a word at an address (R141 to R143). -/
def State.storeFrom (s : State) (a : Word) (size : Nat) (x : Word) : Out :=
  (s.target a size .store).out s fun t u =>
    match t with
    | .window off => u.windowFrom a off size x
    | _ => (u.storeAt a t size x.toNat).outAt u t size fun _ v => .next v

/-- `LD` (R66, R142). -/
def execLd (d a : Reg) (ty : BitVec 3) (off : BitVec 11) (s : State) : Out :=
  s.loadTo d (ldAddress (s.g a) off (ldSize ty)) (ldSize ty) (ldSigned ty) 0

/-- `ST` (R66, R142). -/
def execSt (a gs : Reg) (sz : BitVec 2) (off : BitVec 12) (s : State) : Out :=
  s.storeFrom (stAddress (s.g a) off (sizeOf sz)) (sizeOf sz) (s.g gs)

/-- `LDA` (R67, R143). -/
def execLda (d a : Reg) (scope sz : BitVec 2) (sg : BitVec 1) (s : State) : Out :=
  s.loadTo d (s.g a) (sizeOf sz) (sg == 1) scope.toNat

/-- `STR` (R67, R143): accesses act one at a time, so every earlier access has completed. -/
def execStr (a b : Reg) (_scope sz : BitVec 2) (s : State) : Out := s.storeFrom (s.g a) (sizeOf sz) (s.g b)

/-! Fences (R144). -/

/-- The long forms and matrix commands that the cluster has issued are performed before those it issues from here on (R144). Other
accesses of a cluster act as they issue. -/
def State.fenceForms (s : State) : State := s.onCl fun c => { c with fence := s.me.en.issued }

/-- `FENCE` (R144). -/
def execFence (scope : BitVec 2) (s : State) : Out := .next (s.acquire scope.toNat).fenceForms

/-- `FENCEA` (R144). -/
def execFencea (scope : BitVec 2) (s : State) : Out := .next (s.acquire scope.toNat).fenceForms

/-- `FENCER` (R144). -/
def execFencer (_scope : BitVec 2) (s : State) : Out := .next s.fenceForms

/-! Range maintenance (R149 to R153). -/

/-- A present page of a range: its place, and the lines of it that the range overlaps, first and last. -/
structure RangePage where
  phys : Phys
  first : Nat
  last : Nat

/-- The present pages among n pages from page p, over bytes lo to hi - 1 of a tensor (R149). -/
def State.rangePages (s : State) (slot : Nat) (base : Word) (write : Bool) (lo hi p : Nat) : Nat → Except (Nat × Nat × Word) (List RangePage)
  | 0 => .ok []
  | n + 1 =>
    let a := (base &&& ~~~0xFF_FFFF_FFFF#64) + BitVec.ofNat 64 (p * 65536)
    match s.reach slot a write with
    | .error (0xC, 3) => s.rangePages slot base write lo hi (p + 1) n
    | .error (0xC, 4) => s.rangePages slot base write lo hi (p + 1) n
    | .error (c, d) => .error (c, d, a)
    | .ok f => do
      let rest ← s.rangePages slot base write lo hi (p + 1) n
      let b := max lo (p * 65536) - p * 65536
      let e := min hi (p * 65536 + 65536) - p * 65536
      .ok ({ phys := f, first := f.line + b / 64, last := f.line + (e - 1) / 64 } :: rest)

/-- The checks of a range instruction, and its present pages. R152 gives `DISCARD`'s checks no order; here a path other than GEN comes
first, then misalignment, then the pointer's form and the end of the range (DESIGN CHOICE, notes/assumptions/55.md). -/
def State.range (s : State) (a len : Word) (align : Nat) (write : Bool) : Except (Nat × Nat × Word) (List RangePage) :=
  let lo := bits a 0 40
  let hi := lo + len.toNat
  if bits a 60 4 ≠ 0 then .error (8, 0, a)
  else if a.toNat % align ≠ 0 ∨ len.toNat % align ≠ 0 then .error (9, 0, a)
  else if !genForm a ∨ 2 ^ 40 < hi then .error (8, 0, a)
  else s.rangePages (s.old.slotFor s.cur.clu) a write lo hi (lo / 65536) ((hi - 1) / 65536 - lo / 65536 + 1)

/-- The uncore of the core's die, or that of a home of the range's pages, is stopped, and what the range asks of them waits (R381). -/
def State.rangeStops (s : State) (ps : List RangePage) : Bool :=
  s.uncoreStops (dieOf s.cur.core) || ps.any fun p => s.uncoreStops p.phys.home

/-- A range instruction: nothing for a length of 0, else its effect on the present pages. -/
def State.overRange (s : State) (a len : Word) (align : Nat) (write : Bool) (f : List RangePage → State) : Out :=
  if len = 0 then .next s
  else
    match s.range a len align write with
    | .error (c, d, x) => s.faultAt c d x
    | .ok ps => if s.rangeStops ps then s.stall else .next (f ps)

/-- A line lies in the pages. -/
def inPages (ps : List RangePage) (line : Nat) : Bool := ps.any fun p => decide (p.first ≤ line) && decide (line ≤ p.last)

/-- The non-coherent lines of a die in the pages. -/
def MemSys.ncLines (m : MemSys) (die : Fin 8) (ps : List RangePage) : List DieLine :=
  m.dieLines.filter fun d => d.die == die && decide (d.coh = none) && inPages ps d.line

/-- A copy's dirty bytes written home; the copy stays, clean. -/
def MemSys.clean (m : MemSys) (d : DieLine) : MemSys :=
  let u := m.writeBack d
  { u with dieLines := u.dieLines.map fun e => if e.die = d.die ∧ e.line = d.line then { e with dirty := 0 } else e }

/-- `WBR` (R150). -/
def execWbr (a b : Reg) (s : State) : Out :=
  s.overRange (s.g a) (s.g b) 1 false fun ps =>
    { s with ms := (s.ms.ncLines (dieOf s.cur.core) ps).foldl MemSys.clean s.ms }

/-- `INVR` (R151): L1 lines tagged RO stay (R273). -/
def execInvr (a b : Reg) (s : State) : Out :=
  s.overRange (s.g a) (s.g b) 1 false fun ps =>
    let ms := (s.ms.ncLines (dieOf s.cur.core) ps).foldl (fun m d => (m.writeBack d).dropLine d.die d.line) s.ms
    { (s.onMe fun k => k.l1Drop fun l => inPages ps l.line && !l.ro) with ms := ms }

/-- `DISCARD` (R152): the pages become dead, and every copy of their lines is dropped on every die. -/
def execDiscard (a b : Reg) (s : State) : Out :=
  s.overRange (s.g a) (s.g b) 65536 true fun ps =>
    { (s.l1DropAll fun l => inPages ps l.line) with
      ms := ps.foldl (fun m p => (m.dropFrame p.phys.frame).setDead p.phys.pte true) s.ms }

/-- `PREF` (R153): changes nothing a program can read, and may do nothing. -/
def execPref (_a _b : Reg) (s : State) : Out := .next s

/-! Atomics (R146 to R148). -/

/-- An atomic at gA; bit 0 of the order field asks for an acquire at the scope. -/
def State.atomic (s : State) (op : AOp) (d a b : Reg) (size : Nat) (order scope : BitVec 2) : Out :=
  (s.target (s.g a) size .atomic).out s fun t u =>
    (u.atomicAt (s.g a) t op size ((s.g b).toNat % 256 ^ size) ((s.g d).toNat % 256 ^ size) (d == 0)).out u fun x v =>
      .next ((if bit order 0 then v.acquire scope.toNat else v).setG d (BitVec.ofNat 64 x))

/-- The width of an atomic in bytes. -/
def atomicSize (sz : BitVec 1) : Nat := if sz = 1 then 8 else 4

/-- `AADD` (R146). -/
def execAadd (d a b : Reg) (sz : BitVec 1) (order scope : BitVec 2) (s : State) : Out := s.atomic .add d a b (atomicSize sz) order scope

/-- `AAND` (R146). -/
def execAand (d a b : Reg) (sz : BitVec 1) (order scope : BitVec 2) (s : State) : Out := s.atomic .and d a b (atomicSize sz) order scope

/-- `AOR` (R146). -/
def execAor (d a b : Reg) (sz : BitVec 1) (order scope : BitVec 2) (s : State) : Out := s.atomic .or d a b (atomicSize sz) order scope

/-- `AXOR` (R146). -/
def execAxor (d a b : Reg) (sz : BitVec 1) (order scope : BitVec 2) (s : State) : Out := s.atomic .xor d a b (atomicSize sz) order scope

/-- `AMIN` (R146). -/
def execAmin (d a b : Reg) (sz : BitVec 1) (order scope : BitVec 2) (s : State) : Out := s.atomic .min d a b (atomicSize sz) order scope

/-- `AMAX` (R146). -/
def execAmax (d a b : Reg) (sz : BitVec 1) (order scope : BitVec 2) (s : State) : Out := s.atomic .max d a b (atomicSize sz) order scope

/-- `AMINN` (R146). -/
def execAminn (d a b : Reg) (sz : BitVec 1) (order scope : BitVec 2) (s : State) : Out := s.atomic .minn d a b (atomicSize sz) order scope

/-- `AMAXN` (R146). -/
def execAmaxn (d a b : Reg) (sz : BitVec 1) (order scope : BitVec 2) (s : State) : Out := s.atomic .maxn d a b (atomicSize sz) order scope

/-- `ASWP` (R146). -/
def execAswp (d a b : Reg) (sz : BitVec 1) (order scope : BitVec 2) (s : State) : Out := s.atomic .swp d a b (atomicSize sz) order scope

/-- `AFADD` (R146): FP32 only. -/
def execAfadd (d a b : Reg) (order scope : BitVec 2) (s : State) : Out := s.atomic .fadd d a b 4 order scope

/-- `ACAS` (R146): gD supplies the value compared. -/
def execAcas (d a b : Reg) (sz : BitVec 1) (order scope : BitVec 2) (s : State) : Out := s.atomic .cas d a b (atomicSize sz) order scope

/-! Lattice instructions (R231 to R234). -/

/-- The region and operand of a lattice instruction (R231): alignment is the cell's, one pair for reads of TOPK16. The replica is held
while the uncore of its die is stopped (R381). -/
def State.lattice (s : State) (a : Word) (join : Bool) (f : RegionTable → Region → State → Out) : Out :=
  if bits a 60 4 ≠ 2 then s.faultAt 8 0 a
  else
    (s.latTarget a).out s fun t u =>
      match t with
      | .lat rt r =>
        let align := if r.type = 8 ∧ !join then 8 else cellSize r.type
        if a.toNat % align ≠ 0 then u.faultAt 9 0 a
        else if !u.latKeyed rt then u.faultAt 0xC 7 a
        else if u.uncoreStops (dieOf u.cur.core) then u.stall
        else if u.latLost rt r (dieOf u.cur.core) a then u.faultAt 0x21 0 a
        else f rt r u
      | _ => u.faultAt 8 0 a

/-- The register operand of a region's type (R231). -/
def latOperand (r : Region) (x : Word) : Nat := if r.type = 9 ∨ r.type = 10 then x.toNat % 2 ^ 32 else x.toNat

/-- The bytes a lattice read returns. -/
def latReadSize (r : Region) : Nat := if r.type = 9 ∨ r.type = 10 then 4 else 8

/-- `JOIN` (R232). -/
def execJoin (a b : Reg) (s : State) : Out :=
  s.lattice (s.g a) true fun t r u => .next ((u.latJoin t r (dieOf u.cur.core) (s.g a) (latOperand r (s.g b))).joinReleases t r (s.g a))

/-- `JOINA` (R232). -/
def execJoina (a b : Reg) (s : State) : Out :=
  s.lattice (s.g a) true fun t r u =>
    let op := latOperand r (s.g b)
    let d := dieOf u.cur.core
    if assertOk r.type (u.latCell t r d (s.g a)) op then .next ((u.latJoin t r d (s.g a) op).joinReleases t r (s.g a)) else u.fault 0x17 0

/-- `LDLAT` (R232): an acquire at device scope. -/
def execLdlat (d a : Reg) (s : State) : Out :=
  s.lattice (s.g a) false fun t r u =>
    .next (((u.latSeen t r (s.g a) (latReadSize r)).acquire 2).setG d (BitVec.ofNat 64 (u.latLoad t r (s.g a) (latReadSize r))))

/-- The bundle waits with a timeout: the wait's start and the timeout in force at it stand in the cluster (R139). -/
def State.stallTimed (s : State) (timeout : Word) : Out :=
  .next { (s.undo.onCl fun c => { c with waitSince := some (c.waitSince.getD (s.cadence.toNat, timeout)) }) with report := .stalled }

/-- A wait that has passed. -/
def State.endWait (s : State) : State := s.onCl fun c => { c with waitSince := none, claspWait := none }

/-- `LDGE` (R232, R234): waits until the value is at or above gB. -/
def execLdge (d a b : Reg) (s : State) : Out :=
  s.lattice (s.g a) false fun t r u =>
    let v := u.latLoad t r (s.g a) (latReadSize r)
    if atOrAbove r.type v (latOperand r (s.g b)) then .next ((((u.latSeen t r (s.g a) (latReadSize r)).acquire 2).endWait).setG d (BitVec.ofNat 64 v))
    else u.stallTimed (u.old.clu u.cur.clu).lgtmo

end Sys2Proof.Machine
end

