-- ==== Sys2Proof/Machine/Sync.lean ====
section
/-! DEFINITION. Tokens, short queue forms, strands, clasps and the system instructions: majors 0x20 to 0x25
(08 R217, 09 R223 to R242). -/

namespace Sys2Proof.Machine

/-! Tokens (R224). Accesses complete as they are made, so `TKPOST` has nothing of its own cluster to wait for. -/

/-- `TKWAIT` (R224). -/
def execTkwait (set : BitVec 3) (s : State) : Out :=
  if s.me.st.hasTokens s.cur.clu set then .next (s.onMe fun k => k.popTokens s.agent s.cur.clu set) else s.stall

/-- `TKPOST` (R224). -/
def execTkpost (set : BitVec 3) (s : State) : Out :=
  if s.me.st.hasRoom s.cur.clu set then .next (s.onMe fun k => k.pushTokens s.agent s.cur.clu set) else s.stall

/-! Short queue forms (R24, R217). -/

/-- Entries of the queue a short form names: 3 QAC, 4 QCA. -/
def Storage.shortQueue (t : Storage) (q : BitVec 3) : List Word := if q = 3 then t.qac else t.qca

/-- That queue replaced. -/
def Storage.setShortQueue (t : Storage) (q : BitVec 3) (l : List Word) : Storage :=
  if q = 3 then { t with qac := l } else { t with qca := l }

/-- A sequencer run of the core has QCA entries still to pop, which come before a `QPOP` issued after it (R213). -/
def Core.runPops (k : Core) : Bool := k.en.chans.toList.any fun c => c.cmds.any fun d => decide (0 < d.pops)

/-- `QPUSH` (R217). -/
def execQpush (q : BitVec 3) (a : Reg) (s : State) : Out :=
  let l := s.me.st.shortQueue q
  if 32 ≤ l.length then s.stall
  else .next ((s.onSt fun t => t.setShortQueue q (l ++ [s.g a])).onCheck fun c => c.release s.agent (objQueue q.toNat))

/-- `QPOP` (R217). -/
def execQpop (d : Reg) (q : BitVec 3) (s : State) : Out :=
  match s.me.st.shortQueue q with
  | [] => s.stall
  | x :: rest =>
    if q ≠ 3 ∧ s.me.runPops then s.stall
    else .next (((s.onSt fun t => t.setShortQueue q rest).onCheck fun c => c.take s.agent (objQueue q.toNat)).setG d x)

/-! Strands (R225 to R227). -/

/-- The role, depth and step of a strand entry. -/
def strandRole (e : Word) : Nat := bits e 46 2
def strandDepth (e : Word) : Nat := bits e 33 7

/-- The address of a bead, on the path of its buffer, or on the quad-peer path that names a position (R226). -/
def beadAddr (e : Word) (peer : Option Nat) (n : Nat) : Word :=
  let off := bits e 0 19 + n % strandDepth e * (64 * 2 ^ bits e 40 4)
  match peer with
  | some q => BitVec.ofNat 64 (0xC * 2 ^ 60 + q * 2 ^ 40 + off)
  | none => BitVec.ofNat 64 ((if bit e 32 then 8 else 9) * 2 ^ 60 + off)

/-- A strand of a core. -/
def State.strand (s : State) (k : Fin 768) (st : BitVec 4) : Strand := vget (s.core k).st.strands (Fin.ofNat 16 st.toNat)

/-- The state with a strand of a core replaced. -/
def State.setStrand (s : State) (k : Fin 768) (st : BitVec 4) (x : Strand) : State :=
  s.onCore k fun c => { c with st := { c.st with strands := vset c.st.strands (Fin.ofNat 16 st.toNat) x } }

/-- A strand instruction at its target core, which for a producer of a quad ring is the core DELTA positions on (R226):
the entry, the core, and its position where it is another core. -/
def State.atStrand (s : State) (st : BitVec 4) (producer : Bool) (f : Word → Fin 768 → Option Nat → Out) : Out :=
  let e := match s.me.task with
    | some t => vget t.strands (Fin.ofNat 16 st.toNat)
    | none => 0
  if strandRole e = 0 then s.fault 0x14 1
  else if strandRole e = 2 ∧ producer then
    let q := (qposOf s.cur.core + bits e 44 2) % 4
    let k := quadCore s.cur.core q
    if s.sameLaunch s.cur.core k then f e k (some q) else s.faultAt 8 0 (beadAddr e (some q) 0)
  else f e s.cur.core none

/-- The clock of each freed bead's release joins what `SWFREE` acquires. -/
def objFreed (s : Nat) : Nat := 500 + s

/-- Clocks an object of a core carries, oldest first. -/
def State.carried (s : State) (k : Fin 768) (obj : Nat) : List Clock := (alGet (s.core k).en.check.carried obj).getD []

/-- Clocks of an object of a core replaced, under deterministic mode. -/
def State.setCarried (s : State) (k : Fin 768) (obj : Nat) (l : List Clock) : State :=
  s.onCore k fun c => c.onCheck fun ck => { ck with carried := alSet ck.carried obj l }

/-- The clock of the executing cluster. -/
def State.myClock (s : State) : Clock := s.cluClock s.cur.core s.cur.clu

/-- The executing cluster acquires a clock (R263). -/
def State.acquireClock (s : State) (c : Clock) : State := s.onCheck fun ck => ck.acquire s.agent c

/-- The executing cluster has released. -/
def State.released (s : State) : State := s.onCheck fun ck => ck.tick s.agent

/-- The executing cluster takes the oldest clock an object of a core carries. -/
def State.takeClock (s : State) (k : Fin 768) (obj : Nat) : State :=
  match s.carried k obj with
  | [] => s
  | c :: rest => (s.setCarried k obj rest).acquireClock c

/-- `SCLAIM` (R227): it acquires, at quad scope, the release of the bead it reuses (R223). -/
def execSclaim (st : BitVec 4) (d : Reg) (s : State) : Out :=
  s.atStrand st true fun e k q =>
    let x := s.strand k st
    let used := (x.claimed - x.freed).toNat
    if strandDepth e ≤ used then s.stall
    else
      let t := if (s.carried k (objFree st.toNat)).length = strandDepth e - used then s.takeClock k (objFree st.toNat) else s
      .next (((t.acquire 1).setStrand k st { x with claimed := x.claimed + 1 }).setG d (beadAddr e q x.claimed.toNat))

/-- `SFILL` (R227). -/
def execSfill (st : BitVec 4) (a : Reg) (s : State) : Out :=
  s.atStrand st true fun _ k _ =>
    let x := s.strand k st
    let n := (s.g a).toNat
    if (x.claimed - x.filled).toNat < n then s.fault 0x14 2
    else
      let t := s.setCarried k (objFill st.toNat) (s.carried k (objFill st.toNat) ++ List.replicate n s.myClock)
      .next ((t.setStrand k st { x with filled := x.filled + BitVec.ofNat 32 n }).released)

/-- `SWFILL` (R227): it acquires at quad scope (R223). -/
def execSwfill (st : BitVec 4) (d : Reg) (s : State) : Out :=
  s.atStrand st false fun e k _ =>
    let x := s.strand k st
    if x.filled = x.taken then s.stall
    else
      .next ((((s.takeClock k (objFill st.toNat)).acquire 1).setStrand k st { x with taken := x.taken + 1 }).setG d (beadAddr e none x.taken.toNat))

/-- `SREL` (R227). -/
def execSrel (st : BitVec 4) (a : Reg) (s : State) : Out :=
  s.atStrand st false fun _ k _ =>
    let x := s.strand k st
    let n := (s.g a).toNat
    if (x.taken - x.freed).toNat < n then s.fault 0x14 3
    else
      let c := s.myClock
      let t := s.setCarried k (objFree st.toNat) (s.carried k (objFree st.toNat) ++ List.replicate n c)
      let t := t.setCarried k (objFreed st.toNat) [(t.carried k (objFreed st.toNat)).foldl Clock.join c]
      .next ((t.setStrand k st { x with freed := x.freed + BitVec.ofNat 32 n }).released)

/-- `SWFREE` (R227): it acquires at quad scope (R223). -/
def execSwfree (st : BitVec 4) (a : Reg) (s : State) : Out :=
  s.atStrand st true fun e k _ =>
    let x := s.strand k st
    let n := (s.g a).toNat
    if strandDepth e < n then s.fault 0x14 4
    else if strandDepth e < n + (x.claimed - x.freed).toNat then s.stall
    else .next (((s.carried k (objFreed st.toNat)).foldl State.acquireClock s).acquire 1)

/-! Clasps (R228 to R230). -/

/-- The clasp an operand names, relative to a clasp base where rel is 1; the detail of the fault otherwise (R228). -/
def claspIndex (clb a : Word) (rel : Bool) : Except Nat (Fin 256) :=
  if a.toNat / 256 ≠ 0 then .error 5
  else if rel then
    (if bits clb 8 8 = 0 then .error 6
     else .ok (Fin.ofNat 256 (bits clb 0 8 + bits clb 24 8 * bits clb 16 8 + a.toNat)))
  else .ok (Fin.ofNat 256 a.toNat)

/-- A quad changed. -/
def State.onQuad (s : State) (u : Fin 192) (f : Quad → Quad) : State := { s with quads := vset s.quads u (f (vget s.quads u)) }

/-- A clasp of the executing core's quad. -/
def State.clasp (s : State) (i : Fin 256) : Clasp := vget (vget s.quads (quadOf s.cur.core)).clasps i

/-- The `CLWAIT`s of a core at a clasp have passed. -/
def Core.passWaits (k : Core) (i : Fin 256) : Core :=
  { k with cl := vmap (fun (c : Cluster) => { c with claspWait := c.claspWait.map fun w => (w.1, w.2 || w.1 == i) }) k.cl }

/-- That clasp replaced; a wait whose condition holds passes, and stays passed (R230). -/
def State.setClasp (s : State) (i : Fin 256) (c : Clasp) : State :=
  let s := s.onQuad (quadOf s.cur.core) fun q => { q with clasps := vset q.clasps i c }
  if c.expect.toNat ≤ c.count.toNat then
    (List.range 4).foldl (fun s q => s.onCore (quadCore s.cur.core q) fun k => k.passWaits i) s
  else s

/-- A saturating addition to a clasp's COUNT. -/
def Clasp.arrive (c : Clasp) (n : Nat) : Clasp := { c with count := BitVec.ofNat 32 (min (c.count.toNat + n) 0xFFFF_FFFF) }

/-- The clocks a clasp of a quad carries. -/
def Quad.claspClock (q : Quad) (i : Fin 256) : Clock := (alGet q.carried i.val).getD []

/-- A clasp instruction at the clasp its operand names. -/
def State.atClasp (s : State) (a : Reg) (rel : BitVec 1) (f : Fin 256 → Out) : Out :=
  match claspIndex (s.old.clu s.cur.clu).clb (s.g a) (rel == 1) with
  | .error d => s.fault 0x14 d
  | .ok i => f i

/-- `CLINIT` (R230): arrivals performed before it are lost. -/
def execClinit (a : Reg) (rel : BitVec 1) (s : State) : Out :=
  s.atClasp a rel fun i =>
    .next ((s.setClasp i { s.clasp i with count := 0 }).onQuad (quadOf s.cur.core) fun q => { q with carried := alDel q.carried i.val })

/-- `CLEXPECT` (R230). -/
def execClexpect (a b : Reg) (rel : BitVec 1) (s : State) : Out :=
  s.atClasp a rel fun i => .next (s.setClasp i { s.clasp i with expect := (s.g b).setWidth 32 })

/-- `CLARRIVE` (R230). -/
def execClarrive (a b : Reg) (rel : BitVec 1) (s : State) : Out :=
  s.atClasp a rel fun i =>
    let c := s.myClock
    let t := (s.setClasp i ((s.clasp i).arrive (bits (s.g b) 0 32))).released
    .next (if s.me.det then t.onQuad (quadOf s.cur.core) fun q => { q with carried := alSet q.carried i.val ((q.claspClock i).join c) } else t)

/-- The cluster's `CLWAIT` waits at a clasp. -/
def State.waitClasp (s : State) (i : Fin 256) : State := s.onCl fun c => { c with claspWait := some (i, false) }

/-- The `CLWAIT` at a clasp has passed: in its present wait, or before a trap that came between its pass and its issue (R230). -/
def State.passedWait (s : State) (i : Fin 256) : Bool :=
  let c := s.old.clu s.cur.clu
  c.claspWait == some (i, true) || (!c.inh && c.claspKept == some (s.ir.bpc, i))

/-- `CLWAIT` (R230): it acquires at quad scope (R223). -/
def execClwait (a : Reg) (rel : BitVec 1) (s : State) : Out :=
  s.atClasp a rel fun i =>
    let c := s.clasp i
    if c.expect.toNat ≤ c.count.toNat ∨ s.passedWait i then
      .next (((s.endWait).acquireClock ((vget s.quads (quadOf s.cur.core)).claspClock i)).acquire 1)
    else
      match s.stallTimed (s.old.clu s.cur.clu).cltmo with
      | .next t => .next (t.waitClasp i)
      | o => o

/-- A value that `CLBASE` may set (R229, detail 7). -/
def claspBaseOk (x : Word) : Bool :=
  let adv := bits x 32 3
  let rot := bits x 24 8
  let w := bits x 16 8
  let d := bits x 8 8
  decide (bits x 35 28 = 0) && !(decide (4 ≤ adv) && decide (adv ≤ 6)) &&
    (if d = 0 then decide (w = 0) && decide (rot = 0) && decide (adv = 0)
     else decide (w ≠ 0) && decide (d * w ≤ 256) && decide (rot < d))

/-- `CLBASE` (R229). -/
def execClbase (a : Reg) (s : State) : Out :=
  let x := s.g a
  let old := (s.old.clu s.cur.clu).clb
  let d := bits old 8 8
  if bit x 63 then
    (if d = 0 then s.fault 0x14 6
     else .next (s.onCl fun c => { c with clb := (old &&& ~~~0xFF00_0000#64) ||| BitVec.ofNat 64 ((bits old 24 8 + 1) % d * 2 ^ 24) }))
  else if claspBaseOk x then .next (s.onCl fun c => { c with clb := x })
  else s.fault 0x14 7

/-! Publication, cadence, locality, launches (R235 to R238). -/

/-- `PUBL` (R235): every write that a release covers is performed and visible to the host before it. Without a version word
it is `FENCE system`. -/
def execPubl (s : State) : Out :=
  let a := s.dev 0xE30
  if a = 0 then .next (s.acquire 3).fenceForms
  else if s.ioStops true then s.stall
  else
    let v := s.dev 0xE31 + 1
    .next { s.setDev 0xE31 v with ms := { s.ms with host := s.ms.host.writeLe a.toNat 8 v.toNat } }

/-- `RDCAD` (R236). -/
def execRdcad (d : Reg) (s : State) : Out := .next (s.setG d s.cadence)

/-- Mesh hops between two compute dies (R368, R369). -/
def dieHops (a b : Fin 8) : Nat := (dieRoute a b).length

/-- Mesh hops from a compute die to the I/O die at the west or the east end. -/
def ioHops (a : Fin 8) (west : Bool) : Nat := if west then a.val % 4 + 1 else 4 - a.val % 4

/-- The word of `LOCQ`: VALID with COH, PLACE, TIER and HOPS. -/
def locqWord (coh place tier hops : Nat) : Word := BitVec.ofNat 64 (2 ^ 63 + coh * 2 ^ 10 + place * 2 ^ 8 + tier * 2 ^ 4 + hops)

/-- Where a translated place lives (R237). -/
def placeWord (die : Fin 8) (p : Phys) : Word :=
  if tier2 ≤ p.addr then locqWord p.mode 0 2 (ioHops die (decide (p.frame % 8 < 4)))
  else locqWord p.mode p.local_.toNat 1 (dieHops die p.home)

/-- What `LOCQ` reports of an address (R237); 0 where a check of R141 fails or translation does not resolve. -/
def State.locate (s : State) (a : Word) : Word :=
  let path := bits a 60 4
  let die := dieOf s.cur.core
  if path = 0 ∨ path = 1 ∨ path = 3 then
    if !genForm a then 0
    else
      match s.translate (s.old.slotFor s.cur.clu) (bits a 40 16) (bits a 0 40) false with
      | .ok p => if s.latticeFrame p then 0 else placeWord die p
      | .error _ => 0
  else if path = 2 then (match (s.latTarget a).bind fun t u => u.latPage t a with
    | .ok _ _ => locqWord 0 0 5 0
    | _ => 0)
  else if path = 4 then (if bits a 52 8 = 0 ∧ bits a 0 52 < (s.dev 0xE00).toNat then locqWord 0 0 3 (ioHops die true) else 0)
  else if path = 5 then (if bits a 58 2 = 0 then locqWord 0 0 4 (ioHops die (decide (bits a 48 10 % 16 < 8))) else 0)
  else if 8 ≤ path ∧ path ≤ 11 then (match s.ownBuf a 1 with
    | .ok _ _ => locqWord 0 0 0 0
    | _ => 0)
  else if path = 12 then (match s.quadBuf a 1 with
    | .ok _ _ => locqWord 0 0 0 0
    | _ => 0)
  else 0

/-- `LOCQ` (R237). -/
def execLocq (d a : Reg) (s : State) : Out := .next (s.setG d (s.locate (s.g a)))

/-- `LAUNCH` (R238, R247). R238 gives its checks of gA no order: a refused path comes first, then misalignment, then a malformed address
(DESIGN CHOICE, notes/assumptions/111.md). -/
def execLaunch (d a : Reg) (s : State) : Out :=
  let x := s.g a
  let path := bits x 60 4
  if path ≠ 0 ∧ path ≠ 1 ∧ path ≠ 3 then s.faultAt 8 0 x
  else if x.toNat % 64 ≠ 0 then s.faultAt 9 0 x
  else if !genForm x then s.faultAt 8 0 x
  else
    match s.me.task, s.readRange (dieOf s.cur.core) (s.old.slotFor s.cur.clu) x 256 with
    | _, .error (c, e, y) => s.faultAt c e y
    | none, _ => s.faultAt 8 0 x
    | some t, .ok bs =>
      let r := s.accept (dieOf s.cur.core) t.ctx t.slot bs (some t.queue)
      .next (r.2.setG d r.1)

/-! Power regions (R239, R395). -/

/-- The request of the `PWRACQ` that the executing cluster stands at, in its handler or not. -/
def State.powerReq (s : State) (lv : BitVec 8) : PowerReq :=
  { core := s.cur.core, by_ := some (s.cur.clu, (s.old.clu s.cur.clu).inh), level := lv }

/-- `PWRACQ` (R239, R395): one whose request has been granted issues; a level at or below the one held takes effect at issue; else the
request waits for its grant. -/
def execPwracq (lv : BitVec 8) (s : State) : Out :=
  let r := s.powerReq lv
  let me : Clu × Bool := (s.cur.clu, (s.old.clu s.cur.clu).inh)
  if s.me.rg.pwrGot.contains me then .next (s.onRg fun g => { g with pwrGot := g.pwrGot.filter (· != me) })
  else if s.me.rg.pwrlvl ≠ 0 ∧ lv ≤ s.me.rg.pwrlvl then .next ((s.withdraw r).onRg fun g => { g with pwrlvl := lv })
  else .next { s.undo.requestPower r with report := .stalled }

/-- `PWRREL` (R239). -/
def execPwrrel (s : State) : Out := .next (s.onRg fun r => { r with pwrlvl := 0 })

/-! Ending a task (R240, R241). -/

/-- `EXIT` (R241): the control cluster stays at its bundle while the sequence runs. -/
def execExit (s : State) : Out :=
  .next { (s.onMe fun k => (k.onClu .c fun c => { c with pc := s.ir.bpc, pcReg := false }).beginExit false) with report := .branched }

/-- `END` (R240): when the control cluster and the others have ended, the task exits. -/
def execEnd (s : State) : Out :=
  let t := s.onCl fun c => { c with ended := true }
  .next (if t.me.allEnded then t.onMe fun k => k.beginExit true else t)

end Sys2Proof.Machine
end

