-- ==== Sys2Proof/Machine/CopyEngine.lean ====
section
/-! DEFINITION. The access cluster's long forms: shape records, the loop-nest sequencer, the issue of channel commands and
`CHWAIT` (08 R196 to R218). What the copy engine does with an issued command stands in Machine/Channels.lean. -/

namespace Sys2Proof.Machine

/-! Path tables (R204, R206, R207, R209, R212, R218): the fault of a path, none where it is allowed. -/

/-- Sources of a `COPY`. -/
def copySource (p : Nat) : Option Nat :=
  if p ≤ 5 ∨ p = 9 ∨ p = 12 then none else if p = 8 ∨ p = 10 ∨ p = 11 then some 0xA else some 8

/-- Destinations of a `COPY`. -/
def copyDest (p : Nat) : Option Nat :=
  if p = 0 ∨ p = 3 ∨ p = 4 ∨ p = 5 ∨ p = 8 ∨ p = 9 ∨ p = 12 then none
  else if p = 2 then some 0xB else if p = 10 ∨ p = 11 then some 0xA else some 8

/-- The one path allowed. -/
def onlyPath (q p : Nat) : Option Nat := if p = q then none else some 8

/-- Destinations of a `QRECV` (R218, 13 R319); a buffer it may not write refuses it as a `COPY`'s destination does. -/
def recvDest (p : Nat) : Option Nat := if p = 2 ∨ p = 4 ∨ p = 5 then some 8 else copyDest p

/-- Buffer paths of a sequencer run by its kind: 0 `COPY`, 1 `GATHER`, 2 `SCATTER`, 3 `CPYSCL`; every other path is refused. -/
def runPath (kind p : Nat) : Option Nat :=
  if (if kind = 3 then p = 11 else if kind = 2 then p = 9 ∨ p = 12 else p = 8 ∨ p = 9 ∨ p = 12) then none
  else some 0xA

/-! The issue checks (R203, R204). -/

/-- One side of a channel command: its first byte, its length, the granules of address and length, its path table, whether its whole
range is known at issue, and what else its range must meet (R206, R209). -/
structure Side where
  a : Word
  n : Nat
  gran : Nat
  lenGran : Nat
  table : Nat → Option Nat
  whole : Bool
  ends : Bool := true

/-- Stage 1: the path is assigned, and allowed at the cluster's level. -/
def State.sidePath (s : State) (d : Side) : Option (Nat × Nat) :=
  let p := bits d.a 60 4
  if p = 6 ∨ p = 7 ∨ p = 13 then some (8, 0)
  else if p = 15 ∧ !(s.old.clu s.cur.clu).priv then some (3, 0)
  else none

/-- Stage 2: the granules. -/
def Side.granules (d : Side) : Option (Nat × Nat) :=
  if d.a.toNat % d.gran ≠ 0 ∨ d.n % d.lenGran ≠ 0 then some (9, 6) else none

/-- Stage 3: the form check of R141. -/
def State.sideForm (s : State) (d : Side) : Option (Nat × Nat) :=
  let p := bits d.a 60 4
  let ok : Bool :=
    if p = 0 ∨ p = 1 ∨ p = 3 then genForm d.a
    else if p = 2 then (match s.latTarget d.a with
      | .ok _ _ => true
      | _ => false)
    else if p = 4 then decide (bits d.a 52 8 = 0) && decide (bits d.a 0 52 < (s.dev 0xE00).toNat)
    else if p = 5 then decide (bits d.a 58 2 = 0)
    else if 8 ≤ p ∧ p ≤ 11 then decide (bits d.a 40 20 = 0)
    else if p = 12 then decide (bits d.a 42 18 = 0)
    else true
  if d.whole && !ok then some (8, 0) else none

/-- Stage 4: the path table. -/
def Side.path (d : Side) : Option (Nat × Nat) := (d.table (bits d.a 60 4)).map fun c => (c, 0)

/-- Regions of a context cover n bytes from an address. -/
def State.latCovered (s : State) (ctx : BitVec 12) (a : Word) (n : Nat) : Nat → Bool
  | 0 => decide (n = 0)
  | f + 1 =>
    if n = 0 then true
    else
      match s.regionAt ctx a with
      | none => false
      | some (_, r) =>
        let m := r.base.toNat + r.size - a.toNat
        s.latCovered ctx (a + BitVec.ofNat 64 m) (n - m) f

/-- Stage 5: the end of the range and the footprints. -/
def State.sideEnd (s : State) (d : Side) : Option (Nat × Nat) :=
  let p := bits d.a 60 4
  let ok : Bool :=
    if p = 0 ∨ p = 1 ∨ p = 3 then decide (bits d.a 0 40 + d.n ≤ 2 ^ 40)
    else if p = 2 then
      decide (bits d.a 0 40 + d.n ≤ 2 ^ 40) && (match s.me.task with
        | some t => s.latCovered t.ctx d.a d.n 65
        | none => false)
    else if p = 4 then decide (bits d.a 0 52 + d.n ≤ (s.dev 0xE00).toNat)
    else if p = 5 then decide (bits d.a 0 48 + d.n ≤ 2 ^ 48)
    else if p = 12 then
      let k := quadCore s.cur.core (bits d.a 40 2)
      (k == s.cur.core || s.sameLaunch s.cur.core k) && (s.core k).inFoot 1 (bits d.a 0 40) d.n
    else s.me.inFoot (Fin.ofNat 4 p) (bits d.a 0 40) d.n
  if d.whole && !(ok && d.ends) then some (8, 0) else none

/-- The first fault of a stage over the sides in their order. -/
def firstFault (f : Side → Option (Nat × Nat)) : List Side → Option (Nat × Nat × Word)
  | [] => none
  | d :: ds => match f d with
    | some (c, e) => some (c, e, d.a)
    | none => firstFault f ds

/-- The checks of a channel command's sides, stage by stage (R204). -/
def State.sideCheck (s : State) (ds : List Side) : Res Unit :=
  match (firstFault s.sidePath ds <|> firstFault Side.granules ds <|> firstFault s.sideForm ds <|> firstFault Side.path ds <|>
      firstFault s.sideEnd ds) with
  | some (c, e, a) => .trap c e a
  | none => .ok () s

/-! Issue (R196, R198). -/

/-- The channel a field names. -/
def chanOf (ch : BitVec 3) : Fin 8 := Fin.ofNat 8 ch.toNat

/-- The command of the instruction in hand, before it is completed by its kind. -/
def State.mkChan (s : State) (i : Instr) (ch : Fin 8) (ga gb gc : Word) : ChCmd :=
  { i := i, w0 := s.ir.w0, w1 := s.ir.w1, ga := ga, gb := gb, gc := gc, slot := (vget s.me.en.chans ch).next, started := false,
    prog := 0, payload := [], shape := [], levels := Vector.replicate 6 SeqLevel.reset, depth := 0, stage := 0, clasp := none,
    recv := Vector.replicate 4 none, early := [], rows := [], pops := 0, pgdst := (vget s.me.en.chans ch).pgdst, ctxSlot := s.old.slotFor s.cur.clu, range := none, filled := 0, order := s.me.en.issued,
    behind := if s.me.det then s.me.marks s.me.en.issued fun _ _ => true else [] }

/-- The command enters its channel: room reserved, slot taken; it acquires what the access cluster releases to it. -/
def State.enterChan (s : State) (l : Long) (ch : Fin 8) (c : ChCmd) : State :=
  let s := s.reserveSets l
  let ag := s.me.cmdAgent c.order
  let s := s.onCheck fun k => (k.acquire ag (k.clock s.agent)).tick s.agent
  s.onMe fun k =>
    let k := k.onChan ch fun x => { x with cmds := x.cmds ++ [c], next := x.next + 1 }
    { k with en := { k.en with issued := k.en.issued + 1 } }

/-- The issue of a channel command under its guard: a free completion slot, its checks, entry. -/
def State.issueChan (s : State) (l : Long) (ch : BitVec 3) (check : Res Unit) (c : ChCmd) : Out :=
  s.guarded l fun u =>
    let x := vget s.me.en.chans (chanOf ch)
    if 16 ≤ x.cmds.length + x.elems.length then s.stall
    else check.out s fun _ _ => .next (u.enterChan l (chanOf ch) c)

/-- The watermark range of a destination range in a typed buffer of this core (R215). -/
def State.wmRange (s : State) (a : Word) (n : Nat) : Option (Fin 4 × Nat × Nat) :=
  let p := bits a 60 4
  if n = 0 then none
  else if 8 ≤ p ∧ p ≤ 11 then some (Fin.ofNat 4 p, bits a 0 40, n)
  else if p = 12 ∧ quadCore s.cur.core (bits a 40 2) = s.cur.core then some (1, bits a 0 40, n)
  else none

/-- L of a flat copy. -/
def copyLen (gc : Word) : Nat := bits gc 0 32

/-- A flat copy: its checks and its command; a length of zero makes no check (R205). -/
def State.flatCopy (s : State) (l : Long) (ch : BitVec 3) (i : Instr) (a b c : Reg) (gran : Nat) (table : Nat → Option Nat)
    (ends : Bool) : Out :=
  let n := copyLen (s.g c)
  let cmd := { s.mkChan i (chanOf ch) (s.g a) (s.g b) (s.g c) with range := s.wmRange (s.g a) n }
  s.issueChan l ch
    (if n = 0 then .ok () s
     else s.sideCheck [⟨s.g a, n, gran, gran, table, true, ends⟩, ⟨s.g b, n, gran, 1, copySource, true, true⟩]) cmd

/-- `COPY` (R204). -/
def execCopy (l : Long) (ch : BitVec 3) (ga gb gc : Reg) (s : State) : Out :=
  s.flatCopy l ch (.copy l ch ga gb gc) ga gb gc 4 copyDest true

/-- `CPYSCL` (R207). -/
def execCpyscl (l : Long) (ch : BitVec 3) (ga gb gc : Reg) (s : State) : Out :=
  s.flatCopy l ch (.cpyscl l ch ga gb gc) ga gb gc 4 (onlyPath 11) true

/-- The region of a LAT address in the task's context. -/
def State.taskRegion (s : State) (a : Word) : Option (RegionTable × Region) :=
  match s.me.task with
  | some t => if genForm a && decide (bits a 60 4 = 2) then s.regionAt t.ctx a else none
  | none => none

/-- `COPYJ` (R206): the granule is the cell size of the destination's region. -/
def execCopyj (l : Long) (ch : BitVec 3) (ga gb gc : Reg) (s : State) : Out :=
  let a := s.g ga
  let r := s.taskRegion a
  let gran := match r with
    | some (_, r) => cellSize r.type
    | none => 1
  let inside := match r with
    | some (_, r) => decide (a.toNat + copyLen (s.g gc) ≤ r.base.toNat + r.size)
    | none => false
  s.flatCopy l ch (.copyj l ch ga gb gc) ga gb gc gran (onlyPath 2) inside

/-- Elements and element size of a `GATHER` or `SCATTER`. -/
def elemCount (cnt : BitVec 5) : Nat := cnt.toNat + 1
def elemSize (esz : BitVec 2) : Nat := 2 ^ esz.toNat

/-- `GATHER` (R208). -/
def execGather (l : Long) (ch : BitVec 3) (ga gb gc : Reg) (cnt : BitVec 5) (esz : BitVec 2) (s : State) : Out :=
  let z := elemSize esz
  let n := elemCount cnt
  s.issueChan l ch
    (s.sideCheck [⟨s.g ga, n * z, z, 1, copyDest, true, true⟩, ⟨s.g gb, 0, 1, 1, copySource, false, true⟩, ⟨s.g gc, 4 * n, 4, 1, copySource, true, true⟩])
    { s.mkChan (.gather l ch ga gb gc cnt esz) (chanOf ch) (s.g ga) (s.g gb) (s.g gc) with range := s.wmRange (s.g ga) (n * z) }

/-- `SCATTER` (R208). -/
def execScatter (l : Long) (ch : BitVec 3) (ga gb gc : Reg) (cnt : BitVec 5) (esz : BitVec 2) (s : State) : Out :=
  let z := elemSize esz
  let n := elemCount cnt
  s.issueChan l ch
    (s.sideCheck [⟨s.g ga, 0, 1, 1, copyDest, false, true⟩, ⟨s.g gb, n * z, z, 1, copySource, true, true⟩, ⟨s.g gc, 4 * n, 4, 1, copySource, true, true⟩])
    (s.mkChan (.scatter l ch ga gb gc cnt esz) (chanOf ch) (s.g ga) (s.g gb) (s.g gc))

/-- Every named core but the issuer runs a task of its launch (R209). -/
def State.receiversOk (s : State) (mask : BitVec 4) : Bool :=
  (List.range 4).all fun q => !bit mask q || quadCore s.cur.core q == s.cur.core || s.sameLaunch s.cur.core (quadCore s.cur.core q)

/-- The start numbers of the tasks that the named receivers run (R209). -/
def State.receivers (s : State) (mask : BitVec 4) : Vector (Option Nat) 4 :=
  Vector.ofFn fun q : Fin 4 =>
    if bit mask q.val then ((s.core (quadCore s.cur.core q.val)).task.map Task.start) else none

/-- The first clasp of a counting multicast (R210). -/
def State.mcClasp (s : State) (c : Word) : Except Nat (Option (BitVec 8)) :=
  if !bit c 49 then .ok none
  else
    match claspIndex (s.old.clu .a).clb (BitVec.ofNat 64 (bits c 40 8)) (bit c 48) with
    | .error d => .error d
    | .ok i => .ok (some (BitVec.ofNat 8 i.val))

/-- `COPYMC` (R209, R210). -/
def execCopymc (l : Long) (ch : BitVec 3) (ga gb gc : Reg) (mask : BitVec 4) (s : State) : Out :=
  let n := copyLen (s.g gc)
  let own := bit mask (qposOf s.cur.core)
  let base := { s.mkChan (.copymc l ch ga gb gc mask) (chanOf ch) (s.g ga) (s.g gb) (s.g gc) with recv := s.receivers mask }
  let sides : List Side :=
    [⟨s.g ga, n, 4, 4, onlyPath 9, true, s.receiversOk mask⟩, ⟨s.g gb, n, 4, 1, copySource, true, true⟩]
  let check (r : Res Unit) : Res Unit := if n = 0 then .ok () s else (s.sideCheck sides).bind fun _ _ => r
  match s.mcClasp (s.g gc) with
  | .error d => s.issueChan l ch (check (.trap 0x14 d 0)) base
  | .ok i => s.issueChan l ch (check (.ok () s)) { base with clasp := i, range := if own then s.wmRange (s.g ga) n else none }

/-- `QSEND` (R218). -/
def execQsend (l : Long) (ch : BitVec 3) (ga : Reg) (q : BitVec 1) (s : State) : Out :=
  s.issueChan l ch (s.sideCheck [⟨s.g ga, 64, 64, 1, copySource, true, true⟩]) (s.mkChan (.qsend l ch ga q) (chanOf ch) (s.g ga) 0 0)

/-- `QRECV` (R218). -/
def execQrecv (l : Long) (ch : BitVec 3) (ga : Reg) (s : State) : Out :=
  s.issueChan l ch (s.sideCheck [⟨s.g ga, 64, 64, 1, recvDest, true, true⟩])
    { s.mkChan (.qrecv l ch ga) (chanOf ch) (s.g ga) 0 0 with range := s.wmRange (s.g ga) 64 }

/-! Shape records and levels (R200, R201, R211). -/

/-- Check 3 of R201. -/
def recShapeBad (bs : List Byte) : Bool :=
  let ty := recField bs 2 1
  let nd := recField bs 3 1
  let above (i : Nat) : Bool := decide (recField bs (8 + 4 * i) 4 ≠ 0) || decide (recField bs (24 + 5 * i) 5 ≠ 0) || decide (recField bs (44 + 4 * i) 4 ≠ 0)
  let within (i : Nat) : Bool :=
    decide (recExtent bs i = 0) || decide (recTile bs i = 0) || decide (recExtent bs i < recTile bs i)
  decide (recField bs 0 2 = 0) || decide (ty = 0) || decide (9 ≤ ty) || decide (nd = 0) || decide (4 < nd) ||
    !zeroPart bs 4 4 || !zeroPart bs 60 4 || ((List.range 4).any fun i => if i < nd then within i else above i) ||
    decide (65536 < recTileBytes bs)

/-- Checks 3 to 7 of R201: cause and detail of the first that fails. -/
def recFault (bs : List Byte) : Option (Nat × Nat) :=
  let e := recElem bs
  let dims := List.range (recDims bs)
  if recShapeBad bs then some (0xF, 0)
  else if dims.any fun i => decide (recStride bs i % e ≠ 0) then some (9, 2)
  else if recStride bs 0 ≠ e then some (9, 3)
  else if dims.any fun i => decide (i ≠ 0) && decide (recStride bs i % 4 ≠ 0) then some (9, 4)
  else if recTile bs 0 * e % 4 ≠ 0 then some (9, 5)
  else none

/-- The bytes of a record at an address: path, footprint and translation, then alignment (R201); on the UC path at the home slice
(R268). -/
def State.recBytes (s : State) (a : Word) : Res (List Byte) :=
  let p := bits a 60 4
  if p = 9 then
    (if bits a 40 20 = 0 ∧ s.me.inFoot 1 (bits a 0 40) 64 then
      (if a.toNat % 64 ≠ 0 then .trap 9 1 a
       else (s.bufRead s.cur.core 1 (bits a 0 40) 64 a).bind fun x t => .ok (leBytes x 64) t)
     else .trap 8 0 a)
  else if p = 0 ∨ p = 1 ∨ p = 3 then
    (if !genForm a then .trap 8 0 a
     else
      match s.readRange (dieOf s.cur.core) (s.old.slotFor s.cur.clu) a 64, s.reach (s.old.slotFor s.cur.clu) a false with
      | .error (c, d, x), _ => .trap c d x
      | .ok bs, .ok q =>
        if a.toNat % 64 ≠ 0 then .trap 9 1 a
        else if p = 3 then (s.lineLoad q 3 0xFFFF_FFFF_FFFF_FFFF).bind fun l t => .ok (lineBytes l) t
        else .ok bs s
      | .ok _, .error (c, d) => .trap c d a)
  else .trap 8 0 a

/-- The record with its TID replaced where gB asks for it. -/
def recWithTid (bs : List Byte) (b : Word) : List Byte := if bits b 0 16 = 0 then bs else leBytes (bits b 0 16) 2 ++ bs.drop 2

/-- `TDESC` (R201). -/
def execTdesc (l : Long) (slot : BitVec 4) (ga gb : Reg) (s : State) : Out :=
  s.guarded l fun u => ((u.recBytes (s.g ga)).outAt s (.buf s.cur.core 1 (bits (s.g ga) 0 40)) 64 fun bs t =>
    let r := recWithTid bs (s.g gb)
    match recFault r with
    | some (c, d) => s.faultAt c d (s.g ga)
    | none => .next ((t.onEn fun e => { e with recs := vset e.recs (Fin.ofNat 16 slot.toNat) r }).finishSets l))

/-- `SEQCFG` (R211). -/
def execSeqcfg (l : Long) (lv : BitVec 3) (ga gb gc : Reg) (s : State) : Out :=
  let a := s.g ga
  let c := s.g gc
  let x : SeqLevel := { e := a.setWidth 32, b := s.g gb, c := Vector.ofFn fun i : Fin 4 => BitVec.ofNat 16 (bits c (16 * i.val) 16) }
  s.guarded l fun u => (.next ((u.onEn fun e =>
    { e with levels := vset e.levels (Fin.ofNat 6 lv.toNat) x, depth := if lv = 0 then BitVec.ofNat 8 (bits a 32 8) else e.depth }).finishSets l))

/-! Sequencer runs (R212, R213). -/

/-- Emissions of a run. -/
def ChCmd.emissions (c : ChCmd) : Nat := extents c.levels 6

/-- The lowest and the highest offset from gA of the tiles' first bytes, for D = 0. -/
def runLow (ls : Vector SeqLevel 6) : Nat → Int
  | 0 => 0
  | n + 1 => runLow ls n + min 0 (((vget ls (Fin.ofNat 6 n)).e.toNat - 1 : Int) * (vget ls (Fin.ofNat 6 n)).b.toInt)

def runHigh (ls : Vector SeqLevel 6) : Nat → Int
  | 0 => 0
  | n + 1 => runHigh ls n + max 0 (((vget ls (Fin.ofNat 6 n)).e.toNat - 1 : Int) * (vget ls (Fin.ofNat 6 n)).b.toInt)

/-- First byte and length of the buffer span of a run, relative to gA (R213 check 3). -/
def ChCmd.span (c : ChCmd) : Int × Nat :=
  let t := recTileBytes c.shape
  if c.depth = 0 then (runLow c.levels 6, (runHigh c.levels 6 - runLow c.levels 6).toNat + t) else (0, c.depth.toNat * t)

/-- Checks 1 to 3 of R213. -/
def State.runCheck (s : State) (c : ChCmd) (kind : Nat) : Res Unit :=
  let n := c.emissions
  let a := c.ga
  if c.shape = [] ∨ (kind = 1 ∧ 2 < recDims c.shape) ∨ (kind = 3 ∧ recElem c.shape ≠ 1) ∨ 2 ^ 48 < n then .trap 0xF 0 0
  else if a.toNat % 4 ≠ 0 ∨ (List.range 6).any fun l => decide ((vget c.levels (Fin.ofNat 6 l)).b.toNat % 4 ≠ 0) then .trap 9 6 a
  else if n = 0 then .ok () s
  else
    let sp := c.span
    let lo : Int := a.toNat + sp.1
    let first : Word := BitVec.ofInt 64 lo
    if lo < 0 ∨ 2 ^ 64 < lo + sp.2 then .trap 8 0 a
    else if lo.toNat / 2 ^ 60 ≠ (lo.toNat + sp.2 - 1) / 2 ^ 60 then .trap 8 0 a
    else
      match runPath kind (bits first 60 4) with
      | some f => .trap f 0 a
      | none =>
        match s.sideForm ⟨first, sp.2, 1, 1, runPath kind, true, true⟩ <|> s.sideEnd ⟨first, sp.2, 1, 1, runPath kind, true, true⟩ with
        | some (f, d) => .trap f d a
        | none => .ok () s

/-- A sequencer run: it takes a copy of its record slot and of the levels (R212). -/
def State.seqrun (s : State) (l : Long) (ch : BitVec 3) (slot : BitVec 4) (ga gb : Reg) (i : Instr) (kind : Nat) : Out :=
  let e := s.me.en
  let c := { s.mkChan i (chanOf ch) (s.g ga) (s.g gb) 0 with
    shape := vget e.recs (Fin.ofNat 16 slot.toNat), levels := e.levels, depth := e.depth }
  let n := c.emissions
  let c := { c with
    pops := if kind = 1 then n * recTile c.shape 1 else 0
    range := if c.depth = 0 ∧ kind ≠ 2 then s.wmRange c.ga (n * recTileBytes c.shape) else none }
  s.issueChan l ch (s.runCheck c kind) c

/-- `SEQRUN.COPY` (R212). -/
def execSeqrunCopy (l : Long) (ch : BitVec 3) (slot : BitVec 4) (ga gb : Reg) (s : State) : Out :=
  s.seqrun l ch slot ga gb (.seqrunCopy l ch slot ga gb) 0

/-- `SEQRUN.GATHER` (R212). -/
def execSeqrunGather (l : Long) (ch : BitVec 3) (slot : BitVec 4) (ga gb : Reg) (s : State) : Out :=
  s.seqrun l ch slot ga gb (.seqrunGather l ch slot ga gb) 1

/-- `SEQRUN.SCATTER` (R212). -/
def execSeqrunScatter (l : Long) (ch : BitVec 3) (slot : BitVec 4) (ga gb : Reg) (s : State) : Out :=
  s.seqrun l ch slot ga gb (.seqrunScatter l ch slot ga gb) 2

/-- `SEQRUN.CPYSCL` (R212). -/
def execSeqrunCpyscl (l : Long) (ch : BitVec 3) (slot : BitVec 4) (ga gb : Reg) (s : State) : Out :=
  s.seqrun l ch slot ga gb (.seqrunCpyscl l ch slot ga gb) 3

/-! Waits on a channel (R197, R216). -/

/-- The oldest element of a channel popped by the access cluster, which acquires what its command released. -/
def State.popElem (s : State) (ch : Fin 8) : State :=
  let s := s.onMe fun k => k.onChan ch fun x => { x with elems := x.elems.tail }
  s.onCheck fun c => c.take s.agent (objElem ch.val)

/-- A waiting form enters the cluster's list. -/
def State.addForm (s : State) (l : Long) (i : Instr) (a mask : Word) (data : Line) : State :=
  (s.reserveSets l).onEn fun e =>
    { e with forms := e.forms ++ [{ i := i, w0 := s.ir.w0, w1 := s.ir.w1, clu := s.cur.clu, addr := a, mask := mask, data := data, parts := 0,
                                    order := e.issued, after := s.cl.fence, handler := s.cl.inh }]
             issued := e.issued + 1 }

/-- Three forms of the cluster are unfinished (R352). -/
def Core.formsFull (k : Core) (x : Clu) : Bool := decide (3 ≤ k.en.forms.countP fun f => f.clu == x)

/-- `CHWAIT` (R197): it pops the oldest element, or waits for the channel's oldest command. -/
def execChwait (l : Long) (ch : BitVec 3) (s : State) : Out :=
  s.guarded l fun u =>
    let x := vget s.me.en.chans (chanOf ch)
    if x.elems ≠ [] then .next ((u.popElem (chanOf ch)).finishSets l)
    else if x.cmds = [] then s.fault 0x12 0
    else if s.me.formsFull s.cur.clu then s.stall
    else .next (u.addForm l (.chwait l ch) 0 0 0)

/-- The oldest staged run of a channel whose element is still unpopped: finished runs stand in the elements. -/
def Channel.stagedRun (c : Channel) : Option (ChCmd × Bool) :=
  (c.elems.findSome? fun e => e.2.map fun d => (d, true)) <|> ((c.cmds.find? ChCmd.staged).map fun d => (d, false))

/-- A stage wait has named stage q on a run: every earlier stage is consumed, and the run's later emissions come after what
the access cluster has acquired (R216). -/
def State.nameStage (s : State) (ch : Fin 8) (order q : Nat) : State :=
  let f (d : ChCmd) : ChCmd := if d.order = order then { d with stage := max d.stage q } else d
  let s := s.onMe fun k => k.onChan ch fun x => { x with cmds := x.cmds.map f, elems := x.elems.map fun e => (e.1, e.2.map f) }
  s.onCheck fun c => (c.acquire (s.me.cmdAgent order) (c.clock s.agent)).tick s.agent

/-- The access cluster acquires the bytes of a run's stages up to stage q, and nothing else (R216, 12 R298). -/
def State.acquireRun (s : State) (order q : Nat) : State := s.onCheck fun c => c.acquire s.agent [(s.me.cmdAgent order, q + 1)]

/-- `CHWAIT` in its stage form (R216). -/
def execChwaitStage (l : Long) (ch : BitVec 3) (ga : Reg) (s : State) : Out :=
  s.guarded l fun u =>
    let q := (s.g ga).toNat
    match (vget s.me.en.chans (chanOf ch)).stagedRun with
    | none => s.fault 0x12 0
    | some (d, _) =>
      if d.emissions ≤ q then s.fault 0x12 0
      else
        let t := u.nameStage (chanOf ch) d.order q
        if q < d.prog then .next ((t.acquireRun d.order q).finishSets l)
        else if s.me.formsFull s.cur.clu then s.stall
        else .next (t.addForm l (.chwaitStage l ch ga) (s.g ga) 0 0)

end Sys2Proof.Machine
end

