-- ==== Sys2Proof/Machine/Channels.lean ====
section
/-! DEFINITION. The copy engine: start, pieces, elements and emissions, arrival over links, finish, and the waits of the
access cluster (08 R196 to R221). A step moves one piece of a flat copy, one element of a gather or scatter, or one emission of
a run, as a whole or not at all. -/

namespace Sys2Proof.Machine

/-! Accesses of a command. -/

/-- The agents of a command: its own, and those of a multicast's writes to its receivers. -/
def State.cmdAgents (s : State) (c : ChCmd) : List Nat :=
  s.me.cmdAgent c.order :: (match c.i with
    | .copymc .. => (List.range 4).map (s.me.mcAgent c.order)
    | _ => [])

/-- What stands in the way of a command's access to bytes of a core's buffer, made as one of its agents at a time of it: a watermark, or
a race (R215, R263). -/
def State.gateAs (s : State) (c : ChCmd) (ag time : Nat) (k : Fin 768) (b : Fin 4) (off n : Nat) (write : Bool) (addr : Word) : Res Unit :=
  let t := s.core k
  let own := decide (k = s.cur.core)
  if own ∧ t.wmBlocked b off n c.order then .wait
  else
    let passed := c.behind.filter fun p => marksMeet b off n p.2
    let all := alSet ((s.me.en.check.clock (s.me.cmdAgent c.order)).join (s.me.en.check.clocksOf (s.cmdAgents c))) ag time
    let ck := Clock.join all (if own then s.me.en.check.clocksOf (passed.map (·.1)) else [])
    if t.races ck ag b off n write then .trap 0x11 0 addr
    else
      let s := s.onCheck fun x => x.acquire ag ck
      let s := if t.det then s.onMe fun q => q.count 0x10 .a 1 else s
      .ok () (s.onCore k fun q => q.noteAccess ck ag b off n write [] none)

/-- An access of a command's own agent: unit i of the command is its time i + 1. -/
def State.chanGate (s : State) (c : ChCmd) (k : Fin 768) (b : Fin 4) (off n : Nat) (write : Bool) (addr : Word) : Res Unit :=
  s.gateAs c (s.me.cmdAgent c.order) (c.prog + 1) k b off n write addr

/-- The buffer and its core that an address of a buffer path names, with n bytes inside the footprint. -/
def State.chanBuf (s : State) (a : Word) (n : Nat) : Option (Fin 768 × Fin 4 × Nat) :=
  let off := bits a 0 40
  if bits a 60 4 = 12 then
    let k := quadCore s.cur.core (bits a 40 2)
    if bits a 42 18 = 0 ∧ (k = s.cur.core ∨ s.sameLaunch s.cur.core k) ∧ (s.core k).inFoot 1 off n then some (k, 1, off) else none
  else
    let b : Fin 4 := Fin.ofNat 4 (bits a 60 4)
    if bits a 40 20 = 0 ∧ s.me.inFoot b off n then some (s.cur.core, b, off) else none

/-- A line as the copy engine reads it (R281, R283); on the UC path at its home slice. -/
def State.copyLine (s : State) (p : Phys) (path : Nat) (mask : Word) : Res Line :=
  if path = 3 then s.lineLoad p 3 mask
  else if p.dead then .ok 0 s
  else if s.held (dieOf s.cur.core) p then .wait
  else if s.ms.lost (dieOf s.cur.core) p mask then .trap 0x21 0 0
  else
    let s := s.countHome p true mask
    let r := s.ms.copyLoad (dieOf s.cur.core) p mask
    .ok r.1 { s with ms := r.2 }

/-- The address of byte o of the tensor an address names. -/
def tensorAddr (a : Word) (o : Nat) : Word := (a &&& ~~~0xFF_FFFF_FFFF#64) + BitVec.ofNat 64 o

/-- Bytes read line by line through a command's translation. -/
def State.copyLines (s : State) (slot : Nat) (base : Word) : List (Nat × Nat × Nat) → Res (List Byte)
  | [] => .ok [] s
  | (l, o, n) :: ps =>
    let a := tensorAddr base (l * 64 + o)
    match s.reach slot a false with
    | .error (c, d) => .trap c d a
    | .ok p =>
      (s.copyLine p (bits base 60 4) (rangeMask o n)).bind fun x t =>
        (t.copyLines slot base ps).bind fun bs u => .ok (leBytes (linePart x o n) n ++ bs) u

/-- Bytes of the local replica as a read of lattice cells gives them (R204, R206), in parts of at most eight bytes. -/
def State.copyLattice (s : State) (a : Word) (n : Nat) : Nat → Res (List Byte)
  | 0 => .ok [] s
  | f + 1 =>
    if n = 0 then .ok [] s
    else
      match s.taskRegion a with
      | none => .trap 8 0 a
      | some (t, r) =>
        if !s.latKeyed t then .trap 0xC 7 a
        else if s.uncoreStops (dieOf s.cur.core) then .wait
        else if s.latLost t r (dieOf s.cur.core) a then .trap 0x21 0 a
        else
          let m := min n (8 - a.toNat % 8)
          (s.copyLattice (a + BitVec.ofNat 64 m) (n - m) f).bind fun bs u => .ok (leBytes (s.latLoad t r a m) m ++ bs) u

/-- Bytes of a buffer read from an address upward, those of chunks read earlier in the unit as they were then (R301). -/
def overlay (early : List (Nat × List Byte)) (a : Nat) : List Byte → List Byte
  | [] => []
  | b :: bs =>
    (match early.find? fun e => decide (e.1 ≤ a) && decide (a < e.1 + 32) with
    | some e => e.2.getD (a - e.1) b
    | none => b) :: overlay early (a + 1) bs

/-- n bytes read by a command at an address (R204). -/
def State.chanRead (s : State) (c : ChCmd) (a : Word) (n : Nat) : Res (List Byte) :=
  let p := bits a 60 4
  if p = 0 ∨ p = 1 ∨ p = 3 then
    (if !genForm a ∨ 2 ^ 40 < bits a 0 40 + n then .trap 8 0 a else s.copyLines c.ctxSlot a (piecesOf (bits a 0 40) n))
  else if p = 2 then s.copyLattice a n (n + 1)
  else if p = 4 then
    (if bits a 52 8 ≠ 0 ∨ (s.dev 0xE00).toNat < bits a 0 52 + n then .trap 8 0 a
     else if s.ioStops true then .wait
     else .ok (s.ms.host.readList (bits a 0 52) n) s)
  else if p = 5 then
    (if s.peerLost (bits a 48 10) then .trap 0x21 0 a
     else if s.peerStops (bits a 48 10) then .wait
     else .ok (s.ms.peer.readList (bits a 0 58) n) s)
  else
    match s.chanBuf a n with
    | none => .trap 8 0 a
    | some (k, b, off) =>
      (s.chanGate c k b off n false a).bind fun _ t =>
        if (t.core k).st.poisoned b off n then .trap 0x21 0 a
        else .ok (overlay c.early a.toNat (((t.core k).st.buf b).readList off n)) t

/-- Bytes written line by line through a command's translation; the core's own L1 lines go, but for those tagged RO (R198, R273). -/
def State.putLines (slot : Nat) (base : Word) (s : State) (bs : List Byte) : List (Nat × Nat × Nat) → Res Unit
  | [] => .ok () s
  | (l, o, n) :: ps =>
    let a := tensorAddr base (l * 64 + o)
    match s.reach slot a true with
    | .error (c, d) => .trap c d a
    | .ok p =>
      if s.held (dieOf s.cur.core) p then .wait
      else
        let s := (s.revived p).countHome p (decide (bits base 60 4 ≠ 3) && !p.coherent) 0
        let mask := rangeMask o n
        let data := placeInLine (leNat (bs.take n)) o
        let ms := if bits base 60 4 = 3 then (s.ms.toHome (dieOf s.cur.core) p).homeWrite p.line p.key mask data
          else s.ms.copyStore (dieOf s.cur.core) p mask data
        State.putLines slot base ({ s with ms := ms }.onMe fun k => k.l1Drop fun x => x.line == p.line && !x.ro) (bs.drop n) ps

/-- Source cells joined into the local replica one by one (R206). -/
def State.joinCells (s : State) (a : Word) (bs : List Byte) : Nat → Res Unit
  | 0 => .ok () s
  | f + 1 =>
    if bs = [] then .ok () s
    else
      match s.taskRegion a with
      | none => .trap 8 0 a
      | some (t, r) =>
        let w := cellSize r.type
        let d := dieOf s.cur.core
        let src := bs.take w
        if !s.latKeyed t then .trap 0xC 7 a
        else if s.uncoreStops d then .wait
        else if s.latLost t r d a then .trap 0x21 0 a
        else
          let u : State :=
            if r.type = 8 then
              let x := s.latCell t r d a
              let y := joinCell 8 x src
              if y = x then s else s.latPut t r d (r.storage a) y
            else s.latJoin t r d a (leNat src)
          u.joinCells (a + BitVec.ofNat 64 w) (bs.drop w) f

/-- Bytes written by a command at an address. -/
def State.chanWrite (s : State) (c : ChCmd) (a : Word) (bs : List Byte) : Res Unit :=
  let p := bits a 60 4
  let n := bs.length
  if p = 0 ∨ p = 3 then
    (if !genForm a ∨ 2 ^ 40 < bits a 0 40 + n then .trap 8 0 a else State.putLines c.ctxSlot a s bs (piecesOf (bits a 0 40) n))
  else if p = 2 then s.joinCells a bs (n + 1)
  else if p = 4 then
    (if bits a 52 8 ≠ 0 ∨ (s.dev 0xE00).toNat < bits a 0 52 + n then .trap 8 0 a
     else if s.ioStops true then .wait
     else .ok () { s with ms := { s.ms with host := s.ms.host.writeList (bits a 0 52) bs } })
  else if p = 5 then
    (if s.peerLost (bits a 48 10) then .trap 0x21 0 a
     else if s.peerStops (bits a 48 10) then .wait
     else .ok () { s with ms := { s.ms with peer := s.ms.peer.writeList (bits a 0 58) bs } })
  else
    match s.chanBuf a n with
    | none => .trap 8 0 a
    | some (k, b, off) =>
      (s.chanGate c k b off n true a).bind fun _ t =>
        .ok () (t.onCore k fun q => { q with st := q.st.putBuf b off bs })

/-! Units of work: a piece, an element or an emission. -/

/-- What a unit moves: the ranges it reads, each with the place of its first byte in what the unit carries, and the bytes for each
place it writes. -/
structure Moved where
  reads : List (Nat × Word × Nat)
  writes : List (Word × List Byte)

/-- First byte and length of piece i of a copy of n bytes to a destination (R219). -/
def pieceAt (dst : Word) (n i : Nat) : Nat × Nat :=
  let first := min n (4096 - dst.toNat % 4096)
  if i = 0 then (0, first) else (first + (i - 1) * 4096, min 4096 (n - first - (i - 1) * 4096))

/-- Pieces of a copy of n bytes. -/
def pieceCount (dst : Word) (n : Nat) : Nat :=
  if n = 0 then 0 else 1 + (n - min n (4096 - dst.toNat % 4096) + 4095) / 4096

/-- Units of a command. -/
def ChCmd.units (c : ChCmd) : Nat :=
  match c.i with
  | .gather _ _ _ _ _ cnt _ => elemCount cnt
  | .scatter _ _ _ _ _ cnt _ => elemCount cnt
  | .qsend .. => 1
  | .qrecv .. => 1
  | _ => if c.runKind.isSome then c.emissions else pieceCount c.ga (copyLen c.gc)

/-- Iteration of level l of emission s (R212). -/
def ChCmd.digit (c : ChCmd) (s l : Nat) : Nat := s / extents c.levels l % (vget c.levels (Fin.ofNat 6 l)).e.toNat

/-- Tile coordinate j of emission s. -/
def ChCmd.coord (c : ChCmd) (s j : Nat) : Int :=
  (List.range 6).foldl (fun t l => t + (c.digit s l : Int) * (vget (vget c.levels (Fin.ofNat 6 l)).c (Fin.ofNat 4 j)).toInt)
    ((bits c.gb (16 * j) 16 : Nat) : Int)

/-- Buffer address of emission s. -/
def ChCmd.tileAddr (c : ChCmd) (s : Nat) : Word :=
  if c.depth = 0 then
    (List.range 6).foldl (fun a l => a + BitVec.ofNat 64 (c.digit s l) * (vget c.levels (Fin.ofNat 6 l)).b) c.ga
  else c.ga + BitVec.ofNat 64 (s % c.depth.toNat * recTileBytes c.shape)

/-- Row r of a tile (R202): offset in the tensor of its first inside element, that element's byte in the row, and the bytes
inside; none where no element of the row is inside. `x1` is the row's coordinate in dimension 1. -/
def tileRowAt (shape : List Byte) (t : Nat → Int) (x1 : Int) (r : Nat) : Option (Nat × Nat × Nat) :=
  let k := recTile shape
  let e := recElem shape
  let x2 : Int := t 2 * k 2 + (r / k 1 % k 2 : Nat)
  let x3 : Int := t 3 * k 3 + (r / (k 1 * k 2) : Nat)
  let inside (x : Int) (i : Nat) : Bool := decide (0 ≤ x) && decide (x < recExtent shape i)
  let x0 : Int := t 0 * k 0
  let lo := max 0 x0
  let hi : Int := min (recExtent shape 0 : Int) (x0 + k 0)
  if inside x1 1 && inside x2 2 && inside x3 3 && decide (lo < hi) then
    some (x1.toNat * recStride shape 1 + x2.toNat * recStride shape 2 + x3.toNat * recStride shape 3 + lo.toNat * e,
      (lo - x0).toNat * e, (hi - lo).toNat * e)
  else none

/-- The GEN address of an offset in a record's tensor; an offset beyond the tensor's offsets, which a fault alone reports, is taken modulo
2^40 (DESIGN CHOICE, notes/assumptions/107.md). -/
def recAddr (shape : List Byte) (off : Nat) : Word := BitVec.ofNat 64 (recField shape 0 2 * 2 ^ 40 + off % 2 ^ 40)

/-- Rows r to r + n - 1 of a tile loaded: elements outside the tensor are zero; the first past the end of the tensor's offsets faults
(R213). -/
def State.loadTile (s : State) (c : ChCmd) (t : Nat → Int) (x1 : Nat → Int) (r : Nat) : Nat → Res (List Byte)
  | 0 => .ok [] s
  | n + 1 =>
    let q := recTile c.shape 0 * recElem c.shape
    match tileRowAt c.shape t (x1 r) r with
    | none => (s.loadTile c t x1 (r + 1) n).bind fun bs u => .ok (List.replicate q 0 ++ bs) u
    | some (off, at_, m) =>
      if 2 ^ 40 < off + m then
        (s.chanRead c (recAddr c.shape off) (2 ^ 40 - off)).bind fun _ _ => .trap 8 0 (recAddr c.shape (max off (2 ^ 40)))
      else
        (s.chanRead c (recAddr c.shape off) m).bind fun x u =>
          (u.loadTile c t x1 (r + 1) n).bind fun bs v =>
            .ok (List.replicate at_ 0 ++ x ++ List.replicate (q - at_ - m) 0 ++ bs) v

/-- Rows of a tile stored: the writes of its elements inside the tensor, read from the buffer at b. -/
def State.storeTile (s : State) (c : ChCmd) (t : Nat → Int) (x1 : Nat → Int) (b : Word) (r : Nat) : Nat → Res (List (Word × List Byte))
  | 0 => .ok [] s
  | n + 1 =>
    let q := recTile c.shape 0 * recElem c.shape
    match tileRowAt c.shape t (x1 r) r with
    | none => s.storeTile c t x1 b (r + 1) n
    | some (off, at_, m) =>
      if 2 ^ 40 < off + m then .trap 8 0 (recAddr c.shape (max off (2 ^ 40)))
      else
        (s.chanRead c (b + BitVec.ofNat 64 (r * q + at_)) m).bind fun x u =>
          (u.storeTile c t x1 b (r + 1) n).bind fun ws v => .ok ((recAddr c.shape off, x) :: ws) v

/-- A run issued before a command of the core has QCA entries still to pop. -/
def Core.olderPops (k : Core) (order : Nat) : Bool :=
  k.en.chans.toList.any fun ch => ch.cmds.any fun d => decide (d.order < order) && decide (0 < d.pops)

/-- The next emission of a staged run may start (R216). -/
def ChCmd.stageOpen (c : ChCmd) : Bool := decide (c.depth = 0) || decide (c.prog < c.stage + c.depth.toNat)

/-- The next emission of a run need not wait for its stage: the stage is open, or the task is in its exit sequence, in which no stage can be
named any more and every run finishes (R216, 09 R241 step 2; DESIGN CHOICE, notes/assumptions/116.md). -/
def Core.stagesOpen (k : Core) (c : ChCmd) : Bool := c.stageOpen || k.exit.isSome

/-- The next emission of a run, read (R212); a staged run waits for its stage (R216), a gather for the QCA entries of its rows. -/
def State.readEmission (s : State) (c : ChCmd) (kind : Nat) : Res Moved :=
  let t := c.coord c.prog
  let k := recTile c.shape
  let rows := k 1 * k 2 * k 3
  let b := c.tileAddr c.prog
  if !s.me.stagesOpen c || (decide (kind = 1) && decide (c.rows.length < k 1)) then .wait
  else
    let x1 (r : Nat) : Int := if kind = 1 then ((bits (c.rows.getD r 0) 0 32 : Nat) : Int) else t 1 * k 1 + (r % k 1 : Nat)
    let q := k 0 * recElem c.shape
    let inside := (List.range rows).filterMap fun r =>
      (tileRowAt c.shape t (x1 r) r).map fun x => (r * q + x.2.1, recAddr c.shape x.1, x.2.2)
    if kind = 2 then
      (s.storeTile c t x1 b 0 rows).bind fun ws u => .ok ⟨inside.map fun x => (x.1, b + BitVec.ofNat 64 x.1, x.2.2), ws⟩ u
    else (s.loadTile c t x1 0 rows).bind fun bs u => .ok ⟨inside, [(b, bs)]⟩ u

/-- An index reaches past the end of what its base's path addresses (R208). -/
def pastEnd (base : Word) (idx z : Nat) : Bool :=
  let p := bits base 60 4
  if p = 4 then false
  else if p = 5 then decide (bits base 58 2 ≠ 0) || decide (2 ^ 48 < bits base 0 48 + idx + z)
  else decide (2 ^ 40 < bits base 0 40 + idx + z)

/-- The address of an indexed element, or its fault (R208). -/
def elemAddr (base : Word) (idx z : Nat) : Except (Nat × Nat × Word) Word :=
  let a := base + BitVec.ofNat 64 idx
  if a.toNat % z ≠ 0 then .error (9, 7, a) else if pastEnd base idx z then .error (8, 0, a) else .ok a

/-- Element i of a gather or a scatter, read: its source, its destination and its bytes (R208). -/
def State.readElem (s : State) (c : ChCmd) (z : Nat) (sc : Bool) (i : Nat) : Res (Word × Word × List Byte) :=
  let flat := (if sc then c.gb else c.ga) + BitVec.ofNat 64 (i * z)
  (s.chanRead c (c.gc + BitVec.ofNat 64 (4 * i)) 4).bind fun x t =>
    match elemAddr (if sc then c.ga else c.gb) (leNat x) z with
    | .error (f, d, a) => .trap f d a
    | .ok a =>
      let e : Word × Word := if sc then (flat, a) else (a, flat)
      if 8 ≤ bits e.2 60 4 ∧ (t.chanBuf e.2 z).isNone then .trap 8 0 e.2
      else (t.chanRead c e.1 z).bind fun bs u => .ok (e.1, e.2, bs) u

/-- What ends a run of elements. -/
inductive ElemStop where
  | done
  | wait
  | fault (cause detail : Nat) (addr : Word)

/-- Elements from number i on, at most n, up to the first that waits or faults. -/
def State.readElems (s : State) (c : ChCmd) (z : Nat) (sc : Bool) (i : Nat) : Nat → List (Word × Word × List Byte) × State × ElemStop
  | 0 => ([], s, .done)
  | n + 1 =>
    match s.readElem c z sc i with
    | .wait => ([], s, .wait)
    | .trap f d a => ([], s, .fault f d a)
    | .ok e t => let r := t.readElems c z sc (i + 1) n; (e :: r.1, r.2)

/-- Elements numbered from k on, each z bytes, as what a unit moves. -/
def movedElems (z : Nat) (k : Nat) : List (Word × Word × List Byte) → Moved
  | [] => ⟨[], []⟩
  | e :: es => let m := movedElems z (k + 1) es; ⟨(k * z, e.1, z) :: m.reads, (e.2.1, e.2.2) :: m.writes⟩

/-- The next elements of a gather or a scatter, read. Those that go to a typed buffer move together, so that each aligned 8-byte word of
it is written once with every byte that the command writes there (R199): all up to the first that faults, or in a gather that waits,
without the elements of a gather that lie in one word with it. -/
def State.readGroup (s : State) (c : ChCmd) (z : Nat) (sc : Bool) : Res Moved :=
  let r := s.readElems c z sc c.prog (if 8 ≤ bits c.ga 60 4 then c.units - c.prog else 1)
  let word (a : Word) : Nat := a.toNat / 8
  let es := match r.2.2 with
    | .done => r.1
    | _ => if sc then r.1 else r.1.filter fun e => word e.2.1 != word (c.ga + BitVec.ofNat 64 ((c.prog + r.1.length) * z))
  match r.2.2, es with
  | .wait, [] => .wait
  | .wait, _ => if sc then .wait else .ok (movedElems z 0 es) r.2.1
  | .fault f d a, [] => .trap f d a
  | _, _ => .ok (movedElems z 0 es) r.2.1

/-- The next unit of a command, read. -/
def State.readUnit (s : State) (c : ChCmd) : Res Moved :=
  let i := c.prog
  match c.i with
  | .gather _ _ _ _ _ _ esz => s.readGroup c (elemSize esz) false
  | .scatter _ _ _ _ _ _ esz => s.readGroup c (elemSize esz) true
  | .qsend .. => (s.chanRead c c.ga 64).bind fun bs u => .ok ⟨[(0, c.ga, 64)], [(bufAddr 1 0, bs)]⟩ u
  | .qrecv .. =>
    (match s.me.st.qva with
    | [] => .wait
    | x :: _ => .ok ⟨[], [(c.ga, lineBytes x)]⟩ s)
  | _ =>
    match c.runKind with
    | some k => s.readEmission c k
    | none =>
      let p := pieceAt c.ga (copyLen c.gc) i
      let a := c.gb + BitVec.ofNat 64 p.1
      (s.chanRead c a p.2).bind fun bs u => .ok ⟨[(0, a, p.2)], [(c.ga + BitVec.ofNat 64 p.1, bs)]⟩ u

/-! Chunks of a buffer source read ahead (R199, R301). -/

/-- The aligned 32-byte chunks of a buffer that a read of n bytes touches. -/
def chunksOf (a : Word) (n : Nat) : List Word :=
  if bits a 60 4 < 8 ∨ n = 0 then []
  else (List.range ((a.toNat % 32 + n + 31) / 32)).map fun j => BitVec.ofNat 64 (a.toNat / 32 * 32 + 32 * j)

/-- The chunks of buffers that the next unit of a command reads, its index first. -/
def ChCmd.chunks (c : ChCmd) (m : Moved) : List Word :=
  (match c.i with
  | .gather .. => chunksOf (c.gc + BitVec.ofNat 64 (4 * c.prog)) (4 * m.writes.length)
  | .scatter .. => chunksOf (c.gc + BitVec.ofNat 64 (4 * c.prog)) (4 * m.writes.length)
  | _ => []) ++ m.reads.flatMap fun r => chunksOf r.2.1 r.2.2

/-- Bytes of a chunk that a unit reads. -/
def Moved.covers (m : Moved) (a : Nat) : Nat :=
  (List.range 32).countP fun i => m.reads.any fun r => decide (r.2.1.toNat ≤ a + i) && decide (a + i < r.2.1.toNat + r.2.2)

/-- Of the chunks read, those that later units of the command use as they were read, each at one instant (R199): all that a gather or a
scatter has read; of another command, those the unit used in part; none of a staged run, whose slots are filled anew. -/
def ChCmd.keepChunks (c : ChCmd) (m : Moved) (l : List (Nat × List Byte)) : List (Nat × List Byte) :=
  match c.i with
  | .gather .. => l
  | .scatter .. => l
  | _ => if c.staged then [] else l.filter fun e => decide (0 < m.covers e.1) && decide (m.covers e.1 < 32)

/-! Multicast (R209, R210). -/

/-- n bytes counted on a clasp of the executing core's quad, which carries a clock (R210, R300). -/
def State.countArrival (s : State) (i : BitVec 8) (n : Nat) (clk : Clock) : State :=
  let i : Fin 256 := Fin.ofNat 256 i.toNat
  let t := s.setClasp i ((s.clasp i).arrive n)
  if clk = [] then t else t.onQuad (quadOf s.cur.core) fun q => { q with carried := alSet q.carried i.val ((q.claspClock i).join clk) }

/-- The time of a multicast's agent when n bytes of the command have landed: its 4-byte words (R210). -/
def mcTime (n : Nat) : Nat := (n + 3) / 4

/-- n bytes from off in parts that each lie in one 64-byte granule; at most f parts. -/
def granuleParts (off n : Nat) : Nat → List (Nat × Nat)
  | 0 => []
  | f + 1 =>
    if n = 0 then []
    else
      let m := min n (64 - off % 64)
      (off, m) :: granuleParts (off + m) (n - m) f

/-- The parts of a piece checked and recorded at the A buffer of a receiver, each at the time when its last word has landed; `done` is how
many bytes of the command come before the piece. -/
def State.gateParts (s : State) (c : ChCmd) (ag done : Nat) (k : Fin 768) (a : Word) : List (Nat × Nat) → Res Unit
  | [] => .ok () s
  | (o, n) :: ps =>
    (s.gateAs c ag (mcTime (done + (o - bits a 0 40) + n)) k 1 o n true a).bind fun _ t => t.gateParts c ag done k a ps

/-- A piece of a multicast: the issuer's own bytes are written at once, the others are on their way. -/
def State.multicast (s : State) (c : ChCmd) (mask : BitVec 4) (a : Word) (bs : List Byte) : Res Unit :=
  let off := bits a 0 40
  let done := off - bits c.ga 0 40
  let clasp (q : Nat) : Option (BitVec 8) := c.clasp.map fun i => i + BitVec.ofNat 8 q
  (List.range 4).foldl (fun r q =>
    r.bind fun _ t =>
      let k := quadCore t.cur.core q
      let start := (vget c.recv (Fin.ofNat 4 q)).getD 0
      if !bit mask q then .ok () t
      else if k ≠ t.cur.core ∧ !(t.core k).runsStart start then .ok () t
      else
        let ag := t.me.mcAgent c.order q
        (t.gateParts c ag done k a (if t.me.det then granuleParts off bs.length (bs.length / 64 + 2) else [(off, bs.length)])).bind fun _ u =>
          if k = t.cur.core then
            let u := u.onMe fun m => { m with st := m.st.putBuf 1 off bs }
            .ok () (match clasp q with
              | some i => u.countArrival i bs.length (if u.me.det then [(ag, mcTime (done + bs.length))] else [])
              | none => u)
          else
            let w : McWrite := { receiver := k, start := start, off := off, data := bs, clasp := clasp q,
                                 agent := if u.me.det then some ag else none, done := done, order := c.order }
            .ok () (u.onEn fun e => { e with mc := e.mc ++ [w] })) (.ok () s)

/-- The next aligned 8-byte word of a core's oldest multicast write lands (R199): written and then counted, or discarded where its
receiver's task is gone. -/
def State.landWord (s : State) : Option State :=
  match s.me.en.mc with
  | [] => none
  | w :: rest =>
    if !(s.core w.receiver).runsStart w.start then some (s.onEn fun e => { e with mc := rest })
    else
      let now := w.data.take (8 - w.off % 8)
      let left := w.data.drop now.length
      let next : McWrite := { w with off := w.off + now.length, data := left, done := w.done + now.length }
      let s := s.onEn fun e => { e with mc := if left = [] then rest else next :: rest }
      let s := s.onCore w.receiver fun k => { k with st := k.st.putBuf 1 w.off now }
      some (match w.clasp with
        | some i => s.countArrival i now.length (w.agent.elim [] fun ag => [(ag, mcTime next.done)])
        | none => s)

/-! A unit completes. -/

/-- The bytes of a unit put in place. -/
def State.placeUnit (s : State) (c : ChCmd) (ws : List (Word × List Byte)) : Res Unit :=
  let each (r : Res Unit) : Res Unit := ws.foldl (fun r w => r.bind fun _ t => t.chanWrite c w.1 w.2) r
  let ag := s.me.cmdAgent c.order
  match c.i with
  | .copymc _ _ _ _ _ mask => (match ws with
    | (a, bs) :: _ => s.multicast c mask a bs
    | [] => .ok () s)
  | .qsend _ _ _ q =>
    let x := bytesLine (ws.flatMap (·.2))
    let room := if q = 0 then s.me.st.qav.length else s.me.st.qam.length
    if 32 ≤ room then .wait
    else
      .ok () ((s.onSt fun t => if q = 0 then { t with qav := t.qav ++ [x] } else { t with qam := t.qam ++ [x] }).onCheck fun k =>
        k.release ag (objQueue q.toNat))
  | .qrecv .. =>
    each (.ok () ((s.onSt fun x => { x with qva := x.qva.tail }).onCheck fun k => k.take ag (objQueue 2)))
  | _ => each (.ok () s)

/-- Bytes of the range filled after unit i. -/
def ChCmd.filledAfter (c : ChCmd) (i : Nat) : Nat :=
  match c.i with
  | .gather _ _ _ _ _ _ esz => (i + 1) * elemSize esz
  | .qrecv .. => 64
  | _ =>
    if c.runKind.isSome then (i + 1) * recTileBytes c.shape
    else
      let p := pieceAt c.ga (copyLen c.gc) i
      p.1 + p.2

/-- Elements that a unit with these writes completes: those of a gather or a scatter, else the unit itself. -/
def ChCmd.steps (c : ChCmd) (ws : List (Word × List Byte)) : Nat :=
  match c.i with
  | .gather .. => ws.length
  | .scatter .. => ws.length
  | _ => 1

/-- The command after a unit. -/
def ChCmd.advance (c : ChCmd) (ws : List (Word × List Byte)) : ChCmd :=
  { c with prog := c.prog + c.steps ws, filled := c.filledAfter (c.prog + c.steps ws - 1),
           payload := c.payload ++ ws.map fun w => (w.1.toNat, w.2), rows := [] }

/-- The oldest command of a channel. -/
def State.head (s : State) (ch : Fin 8) : Option ChCmd := (vget s.me.en.chans ch).cmds.head?

/-- The oldest command of a channel changed. -/
def State.onHead (s : State) (ch : Fin 8) (f : ChCmd → ChCmd) : State :=
  s.onMe fun k => k.onChan ch fun x =>
    { x with cmds := match x.cmds with
        | [] => []
        | c :: rest => f c :: rest }

/-- A `GATHER` run pops the QCA entries of the rows of its next emission as they come, in issue order (R212, R213). -/
def State.takeRows (s : State) (ch : Fin 8) (c : ChCmd) : State :=
  match c.i with
  | .seqrunGather .. =>
    if !s.me.stagesOpen c || s.me.olderPops c.order then s
    else
      let got := s.me.st.qca.take (recTile c.shape 1 - c.rows.length)
      let t := (s.onSt fun x => { x with qca := x.qca.drop got.length }).onHead ch fun d =>
        { d with rows := d.rows ++ got, pops := d.pops - got.length }
      t.onCheck fun k => got.foldl (fun k _ => k.take (s.me.cmdAgent c.order) (objQueue 4)) k
  | _ => s

/-- A chunk of a buffer that the next unit of a command reads is read ahead of the rest of the unit (R301). -/
def State.readAhead (s : State) (ch : Fin 8) (a : Word) : Option State :=
  (s.chanBuf a 0).map fun x => s.onHead ch fun d =>
    { d with early := d.early ++ [(a.toNat, ((s.core x.1).st.buf x.2.1).readList x.2.2 32)] }

/-- The chunks of buffers that a unit has just read, kept for as long as the command uses them. -/
def State.keepChunks (s : State) (ch : Fin 8) (c : ChCmd) (m : Moved) : State :=
  let fresh := (c.chunks m).eraseDups.filter fun a => !c.early.any fun e => e.1 == a.toNat
  let t := fresh.foldl (fun t a => (t.readAhead ch a).getD t) s
  t.onHead ch fun d => { d with early := c.keepChunks m d.early }

/-- A piece's charge (R396). -/
def pieceCharge : Nat := 32

/-! Page registers (R220): they change no result. -/

/-- A page register's word. -/
def pageReg (tid page : Nat) : Word := BitVec.ofNat 64 (2 ^ 63 + tid % 65536 * 2 ^ 42 + page % 2 ^ 24 * 2 ^ 18)

/-- The channel's page registers after the stream has passed bytes of one page, the last of them at an address; the distance is the one
at the command's issue (05 R139). The page after the last of a tensor's offsets is its page 0, and PGNXT keeps its fields where VALID
becomes 0 (DESIGN CHOICE, notes/assumptions/109.md and 110.md). -/
def State.notePage (s : State) (ch : Fin 8) (c : ChCmd) (write : Bool) (a : Word) : State :=
  let x := vget s.me.en.chans ch
  let tid := bits a 40 16
  let next := bits a 0 40 + 1
  let page := (next - 1) / 65536
  let now := pageReg tid page
  let nxt := if x.pgnxt = now then invalidReg now else x.pgnxt
  let near := decide (c.pgdst ≠ 0) && decide ((page + 1) * 65536 ≤ next + c.pgdst.toNat)
  let nxt := if near then
      (match s.translate c.ctxSlot tid ((page + 1) * 65536 % 2 ^ 40) write with
      | .ok _ => pageReg tid (page + 1)
      | .error _ => invalidReg nxt)
    else nxt
  s.onMe fun k => k.onChan ch fun y =>
    { y with pgnow := now, pgnxt := nxt, pgnowSlot := c.ctxSlot, pgnxtSlot := if near then c.ctxSlot else y.pgnxtSlot }

/-- A path of device memory. -/
def memPath (a : Word) : Bool := bits a 60 4 == 0 || bits a 60 4 == 1 || bits a 60 4 == 3

/-- The last address in each page of n bytes from an address; at most f pages. -/
def pageEnds (a : Word) (n : Nat) : Nat → List Word
  | 0 => []
  | f + 1 =>
    if n = 0 then []
    else
      let m := min n (65536 - a.toNat % 65536)
      (a + BitVec.ofNat 64 (m - 1)) :: pageEnds (a + BitVec.ofNat 64 m) (n - m) f

/-- The ranges of the memory side of a unit, and whether it writes them: the source where it is memory. -/
def Moved.side (m : Moved) : Bool × List (Word × Nat) :=
  let from_ := m.reads.filter fun r => memPath r.2.1
  if from_ = [] then (true, (m.writes.filter fun w => memPath w.1).map fun w => (w.1, w.2.length)) else (false, from_.map fun r => r.2)

/-- The page registers after a unit. -/
def State.notePages (s : State) (ch : Fin 8) (c : ChCmd) (m : Moved) : State :=
  let side := m.side
  (side.2.flatMap fun r => pageEnds r.1 r.2 (r.2 / 65536 + 2)).foldl (fun t a => t.notePage ch c side.1 a) s

/-- The unit is complete: its bytes are placed and the command moves on. -/
def State.completeUnit (s : State) (ch : Fin 8) (c : ChCmd) (ws : List (Word × List Byte)) : Res Unit :=
  (s.placeUnit c ws).bind fun _ t =>
    let t := t.onHead ch fun d => d.advance ws
    .ok () (t.onMe fun k => k.onChan ch fun x => { x with flight := none })

/-! Faults after issue (R219, R346). -/

/-- The channel stops before the faulting unit, and the fault waits for the access cluster's next boundary; while A is in its handler it
becomes the handler fault at once (R341, R348). An overlap check that fails is counted as one that passes (R267). The piece index of
TINFO is the number of the piece, element or emission (DESIGN CHOICE, notes/assumptions/108.md). -/
def State.chanFault (s : State) (ch : Fin 8) (c : ChCmd) (cause detail : Nat) (a : Word) : State :=
  let info : Word := c.w0 ++ BitVec.ofNat 32 (c.prog % 65536 * 2 ^ 8 + c.slot.val * 2 ^ 4 + ch.val)
  let t : Trap := { clu := .a, cause := cause, detail := detail, async := true, addr := trapAddr cause a,
                    info := if 0x20 ≤ cause then 0 else info }
  let s := if cause = 0x11 then s.onMe fun k => k.count 0x10 .a 1 else s
  let s := s.onMe fun k => k.onChan ch fun x => { x with faulted := true, flight := none }
  if (s.me.clu .a).inh then s.deliver s.cur.core .a t (s.me.clu .a).pc
  else s.onMe fun k => { k with pend := k.pend ++ [(.a, t)] }

/-- The outcome of an engine step: a wait leaves it undone, a fault stops the channel. -/
def Res.engine (r : Res Unit) (s : State) (ch : Fin 8) (c : ChCmd) : Option State :=
  match r with
  | .ok _ t => some t
  | .wait => none
  | .trap cause d a => some (s.chanFault ch c cause d a)

/-! Links (R221, R369). -/

/-- The link of an I/O die (8 IOW, 9 IOE) to the end die of a row. -/
def endLink (io row : Nat) : Fin 14 := Fin.ofNat 14 (10 + (if io = 8 then 0 else 2) + row)

/-- The links from one die to another, I/O dies numbered 8 and 9; between the two of them along row 0. -/
def nodeRoute (a b : Nat) : List (Fin 14 × Fin 2) :=
  if a < 8 ∧ b < 8 then dieRoute (Fin.ofNat 8 a) (Fin.ofNat 8 b)
  else if a < 8 then
    let east := decide (b = 9)
    rowSteps (a / 4) (a % 4) east (if east then 3 - a % 4 else a % 4) ++ [(endLink b (a / 4), 0)]
  else if b < 8 then
    let west := decide (a = 8)
    (endLink a (b / 4), 1) :: rowSteps (b / 4) (if west then 0 else 3) west (if west then b % 4 else 3 - b % 4)
  else if a = b then []
  else
    let west := decide (a = 8)
    (endLink a 0, 1) :: rowSteps 0 (if west then 0 else 3) west 3 ++ [(endLink b 0, 0)]

/-- A read of a byte through the die's cache, or a write of one kept there, crosses no link: a read that hits the cache, and a write to a
non-coherent page (R281, R283). -/
def State.atOwnDie (s : State) (q : Phys) (path : Nat) (write : Bool) : Bool :=
  let d := dieOf s.cur.core
  path ≠ 3 && d ≠ q.home && if write then !q.coherent else s.ms.serves d q.line (rangeMask q.off 1)

/-- The die where a byte at an address of a command is read or written, none for a buffer or the local replica. -/
def State.nodeOf (s : State) (c : ChCmd) (a : Word) (write : Bool) : Option Nat :=
  let p := bits a 60 4
  if memPath a then (match s.reach c.ctxSlot a false with
    | .ok q => some (if s.atOwnDie q p write then (dieOf s.cur.core).val else q.home.val)
    | .error _ => none)
  else if p = 4 then some 8
  else if p = 5 then some (if bits a 48 10 % 16 < 8 then 8 else 9)
  else none

/-- The links from where a command reads an address to the core's die. -/
def State.legIn (s : State) (c : ChCmd) (a : Word) : List (Fin 14 × Fin 2) :=
  let d := (dieOf s.cur.core).val
  match s.nodeOf c a false with
  | some n => if n = d then [] else nodeRoute n d
  | none => []

/-- The links from the core's die to where a command writes an address. -/
def State.legOut (s : State) (c : ChCmd) (a : Word) : List (Fin 14 × Fin 2) :=
  let d := (dieOf s.cur.core).val
  match s.nodeOf c a true with
  | some n => if n = d then [] else nodeRoute d n
  | none => []

/-- A write split at the aligned 4 KiB blocks of its destination, with the place of each part in what the unit carries. -/
def writeParts (o : Nat) (a : Word) (bs : List Byte) : Nat → List (Nat × Word × List Byte)
  | 0 => []
  | f + 1 =>
    if bs = [] then []
    else
      let part := bs.take (4096 - a.toNat % 4096)
      (o, a, part) :: writeParts (o + part.length) (a + BitVec.ofNat 64 part.length) (bs.drop part.length) f

/-- The parts of a unit's writes. -/
def unitParts (o : Nat) : List (Word × List Byte) → List (Nat × Word × List Byte)
  | [] => []
  | w :: ws => writeParts o w.1 w.2 (w.2.length / 4096 + 2) ++ unitParts (o + w.2.length) ws

/-- An address in each 64-byte line of n bytes from an address; at most f lines. -/
def lineStarts (a : Word) (n : Nat) : Nat → List Word
  | 0 => []
  | f + 1 =>
    if n = 0 then []
    else
      let m := min n (64 - a.toNat % 64)
      a :: lineStarts (a + BitVec.ofNat 64 m) (n - m) f

/-- An address in each line of a read that goes into bytes o to o + n - 1 of what a unit carries. -/
def readLines (r : Nat × Word × Nat) (o n : Nat) : List Word :=
  let lo := max o r.1
  let hi := min (o + n) (r.1 + r.2.2)
  if lo < hi then lineStarts (r.2.1 + BitVec.ofNat 64 (lo - r.1)) (hi - lo) ((hi - lo) / 64 + 2) else []

/-- The links that the parts of one piece cross: from a source byte that lives on another die, and on to the destination. -/
def State.pieceRoute (s : State) (c : ChCmd) (m : Moved) (ps : List (Nat × Word × List Byte)) : List (Fin 14 × Fin 2) :=
  let from_ := ps.flatMap fun p => m.reads.flatMap fun r => readLines r p.1 p.2.2.length
  (((from_.map (s.legIn c)).find? (· ≠ [])).getD []) ++ (((ps.map fun p => s.legOut c p.2.1).find? (· ≠ [])).getD [])

/-- The traffic class of a core's task (R287). -/
def Core.traffic (k : Core) : BitVec 2 :=
  match k.task with
  | some t => BitVec.ofNat 2 (t.queue.val / 8)
  | none => 0

/-- Writes placed by ascending address, those of one address in their order. -/
def placeByAddr (w : Nat × List Byte) : List (Nat × List Byte) → List (Nat × List Byte)
  | [] => [w]
  | v :: vs => if w.1 < v.1 then w :: v :: vs else v :: placeByAddr w vs

/-- The piece that the parts of one block make: its bytes in ascending destination address and their fold (R221). -/
def State.pieceOf (s : State) (c : ChCmd) (m : Moved) (ps : List (Nat × Word × List Byte)) : Piece :=
  let data := (ps.foldl (fun l p => placeByAddr (p.2.1.toNat, p.2.2) l) []).flatMap (·.2)
  { data := data, fold := foldBytes foldStart data, route := s.pieceRoute c m ps }

/-- The pieces of a unit that cross links, one for each aligned 4 KiB block of its destination (R219, R221). -/
def State.unitPieces (s : State) (c : ChCmd) (m : Moved) : List Piece :=
  let parts := unitParts 0 m.writes
  let block (p : Nat × Word × List Byte) : Nat := p.2.1.toNat / 4096
  ((parts.map block).eraseDups.map fun b => s.pieceOf c m (parts.filter fun p => block p == b)).filter fun p => p.route ≠ []

/-- The first piece of a flight sets out. -/
def State.sendPiece (s : State) (ch : Fin 8) (f : Flight) : State :=
  let s := s.onMe fun k => k.onChan ch fun x => { x with flight := some f }
  s.sendMsg (.piece s.cur.core ch) s.me.traffic ((f.pieces.head?.map Piece.route).getD [])

/-- A unit with pieces over links leaves; its faults at the destination are met before. -/
def State.sendUnit (s : State) (ch : Fin 8) (c : ChCmd) (ws : List (Word × List Byte)) (ps : List Piece) : Res Unit :=
  (s.completeUnit ch c ws).bind fun _ _ =>
    let n := ps.foldl (fun n p => n + p.data.length) 0
    .ok () ((s.onMe fun k => k.count 0xD .a n).sendPiece ch { writes := ws, pieces := ps, tries := 0 })

/-- The channels of a core may move on: no termination, no restore, no save that stops them but for what a handler of A awaits. -/
def State.channelsRun (s : State) : Bool :=
  s.me.term.isNone && !s.me.restoring && (!s.saveStops s.cur.core || (s.me.clu .a).inh)

/-- The charge of a unit: that of each of its pieces (R219, R396), at most what the core's allowance holds. -/
def State.unitCharge (s : State) (k : Fin 768) (m : Moved) : Nat :=
  let blocks := ((unitParts 0 m.writes).map fun p => p.2.1.toNat / 4096).eraseDups
  min (pieceCharge * max 1 blocks.length) (256 * s.allowance k)

/-- One unit of a started command (R212, R260), or one chunk of its source read ahead. -/
def State.moveUnit (s : State) (ch : Fin 8) (early : Option Nat) (run : Bool) : Option State :=
  let x := vget s.me.en.chans ch
  match x.cmds with
  | [] => none
  | c :: _ =>
    if !c.started || x.faulted || x.flight.isSome || !s.channelsRun || c.runKind.isSome != run || decide (c.units ≤ c.prog) ||
        s.overdraws s.cur.core pieceCharge then none
    else
      match early with
      | some j =>
        (match s.readUnit c with
        | .ok m _ => ((c.chunks m)[j]?).bind fun a => s.readAhead ch a
        | _ => none)
      | none =>
        let u := s.takeRows ch c
        let d := (u.head ch).getD c
        match u.readUnit d with
        | .wait => if d.rows.length = c.rows.length then none else some u
        | .trap cause detail a => some (u.chanFault ch d cause detail a)
        | .ok m t =>
          let charge := u.unitCharge s.cur.core m
          if s.overdraws s.cur.core charge then none
          else
          let t := ((t.charge s.cur.core charge).keepChunks ch d m).notePages ch d m
          let ps := u.unitPieces d m
          (if ps = [] then t.completeUnit ch d m.writes else t.sendUnit ch d m.writes ps).engine u ch d

/-- The bytes of a piece as they arrive: the upset is XORed into its first word. -/
def Piece.received (p : Piece) (upset : BitVec 32) : List Byte :=
  let n := min 4 p.data.length
  leBytes (leNat (p.data.take 4) ^^^ upset.toNat % 256 ^ n) n ++ p.data.drop 4

/-- A piece that crossed links arrives (R221): its fold is checked; the next one sets out, or the unit is placed; or it is sent again
from the transmit buffer, or faults. -/
def State.arriveUnit (s : State) (ch : Fin 8) (upset : BitVec 32) : Option State :=
  let x := vget s.me.en.chans ch
  let msg : Msg := .piece s.cur.core ch
  match x.cmds, x.flight with
  | c :: _, some f =>
    if !s.lat.arrived.contains msg then none
    else
      let t := { s with lat := { s.lat with arrived := s.lat.arrived.erase msg } }
      match f.pieces with
      | [] => none
      | p :: rest =>
        if foldBytes foldStart (p.received upset) = p.fold then
          (if rest = [] then (t.completeUnit ch c f.writes).engine t ch c
           else some (t.sendPiece ch { f with pieces := rest, tries := 0 }))
        else if f.tries = 0 then some ((t.transferEvent s.cur.core).sendPiece ch { f with tries := 1 })
        else some (t.chanFault ch c 0x13 0 0)
  | _, _ => none

/-! Start and finish (R196, R218). -/

/-- An unfinished command of the core issued before one, of the same kind of queue access. -/
def Core.olderQueue (k : Core) (c : ChCmd) : Bool :=
  let same (d : ChCmd) : Bool :=
    match c.i, d.i with
    | .qsend _ _ _ q, .qsend _ _ _ r => q == r
    | .qrecv .., .qrecv .. => true
    | _, _ => false
  k.en.chans.toList.any fun ch => ch.cmds.any fun d => decide (d.order < c.order) && same d

/-- A queue command may start: room or an entry, in issue order. -/
def Core.queueReady (k : Core) (c : ChCmd) : Bool :=
  match c.i with
  | .qsend _ _ _ q => !k.olderQueue c && decide ((if q = 0 then k.st.qav.length else k.st.qam.length) < 32)
  | .qrecv .. => !k.olderQueue c && k.st.qva != []
  | _ => true

/-- The oldest command of a channel starts. -/
def State.startChan (s : State) (ch : Fin 8) : Option State :=
  let x := vget s.me.en.chans ch
  match x.cmds with
  | [] => none
  | c :: _ =>
    if c.started || x.faulted || !s.channelsRun || !s.me.queueReady c then none
    else some (s.onHead ch fun d => { d with started := true })

/-- Consecutive writes overlap. -/
def overlapping : List (Nat × List Byte) → Bool
  | v :: w :: rest => decide (w.1 < v.1 + v.2.length) || overlapping (w :: rest)
  | _ => false

/-- AHMn at a finish: the fold of the payload in ascending destination address (R221); a free value where bytes were carried
to one address twice, or the payload does not fill its last word (notes/assumptions/23.md). -/
def State.arrivalHall (s : State) (payload : List (Nat × List Byte)) : Word × State :=
  let l := payload.foldl (fun l w => placeByAddr w l) []
  let bs := l.flatMap (·.2)
  if overlapping l ∨ bs.length % 4 ≠ 0 then s.draw else (foldBytes foldStart bs, s)

/-- WMn after a command with a range, or after a staged run, finishes (R215, R216). -/
def ChCmd.endMark (c : ChCmd) (old : Word) : Word :=
  match c.range with
  | some (b, lo, n) => bufAddr b (lo + n)
  | none => if c.staged then BitVec.ofNat 64 c.prog else old

/-- The oldest command of a channel finishes: its element enters its slot, its tokens are posted. -/
def State.finishChan (s : State) (ch : Fin 8) : Option State :=
  let x := vget s.me.en.chans ch
  match x.cmds with
  | [] => none
  | c :: rest =>
    if !c.started || x.faulted || x.flight.isSome || decide (c.prog < c.units) || (s.me.en.mc.any fun w => w.order == c.order) then none
    else
      let ags := s.cmdAgents c
      let h := s.arrivalHall c.payload
      let elem : Fin 16 × Option ChCmd := (c.slot, if c.staged then some c else none)
      let s := h.2.onMe fun k =>
        let k := k.onChan ch fun y => { y with cmds := rest, elems := y.elems ++ [elem], wm := c.endMark y.wm, ahm := h.1 }
        let last := c.runKind.isSome && decide (k.en.seqOrder ≤ c.order)
        let k := if last then { k with en := { k.en with seqstat := c.seqstat ch.val false, seqOrder := c.order } } else k
        k.postOwn ags .a (longOf c.w1.toNat).post
      some (s.onCheck fun k => k.carry (objElem ch.val) (k.clocksOf ags))

/-! Waiting `CHWAIT`s (R197, R216). -/

/-- A finished form of the cluster leaves the list and posts its tokens. -/
def State.endForm (s : State) (f : Form) : State :=
  (s.onEn fun e => { e with forms := e.forms.filter fun g => g.order != f.order }).onMe fun k =>
    k.postTokens (k.cluAgent f.clu) f.clu (longOf f.w1.toNat).post

/-- The channel a waiting `CHWAIT` names. -/
def Form.channel (f : Form) : Option (Fin 8) :=
  match f.i with
  | .chwait _ ch => some (chanOf ch)
  | .chwaitStage _ ch _ => some (chanOf ch)
  | _ => none

/-- A waiting `CHWAIT` passes, where its element or its stage is there. -/
def State.passForm (s : State) (f : Form) : Option State :=
  match f.i with
  | .chwait _ ch =>
    if (vget s.me.en.chans (chanOf ch)).elems = [] then none else some ((s.popElem (chanOf ch)).endForm f)
  | .chwaitStage _ ch _ =>
    (match (vget s.me.en.chans (chanOf ch)).stagedRun with
    | none => none
    | some (d, _) => if f.addr.toNat < d.prog then some ((s.acquireRun d.order f.addr.toNat).endForm f) else none)
  | _ => none

/-- The first waiting `CHWAIT` that may passes: the waits of one channel in their order. -/
def State.passChwait (s : State) : Option State :=
  s.me.en.forms.findSome? fun f =>
    if f.channel.isSome && !s.me.en.forms.any fun g => g.channel == f.channel && decide (g.order < f.order) then s.passForm f else none

/-! The event rows. -/

/-- `CHANNEL_COMMAND_START` (R196). -/
def execChannelCommandStart (core : Fin 768) (ch : Fin 8) (s : State) : Out := s.engine core .a fun t => t.startChan ch

/-- `COPY_PIECE` (R260). -/
def execCopyPiece (core : Fin 768) (turn : ChanTurn) (s : State) : Out :=
  s.engine core .a fun t => t.moveUnit turn.ch turn.early false

/-- `SEQUENCER_EMISSION` (R212). -/
def execSequencerEmission (core : Fin 768) (turn : ChanTurn) (s : State) : Out :=
  s.engine core .a fun t => t.moveUnit turn.ch turn.early true

/-- `PIECE_ARRIVAL` (R221). -/
def execPieceArrival (core : Fin 768) (ch : Fin 8) (upset : BitVec 32) (s : State) : Out :=
  s.engine core .a fun t => t.arriveUnit ch upset

/-- `MULTICAST_ARRIVAL` (R209, R210). -/
def execMulticastArrival (core : Fin 768) (s : State) : Out := s.engine core .a State.landWord

/-- `CHANNEL_COMMAND_FINISH` (R196). -/
def execChannelCommandFinish (core : Fin 768) (ch : Fin 8) (s : State) : Out := s.engine core .a fun t => t.finishChan ch

/-- `CHWAIT_FINISH` (R197, R216). -/
def execChwaitFinish (core : Fin 768) (s : State) : Out := s.engine core .a State.passChwait

end Sys2Proof.Machine
end

