-- ==== Sys2Proof/Machine/VecMath.lean ====
section
/-! DEFINITION. The special functions of the vector cluster (07 R187): bounds on the exact value, and one rounding. -/

namespace Sys2Proof.Machine

/-- Division rounded up. -/
def ceilDiv (a b : Nat) : Nat := (a + b - 1) / b

/-- Bounds on a nonnegative value, in units of 2^-P. -/
structure Bounds where
  lo : Nat
  hi : Nat

/-- The product of two values. -/
def Bounds.mul (P : Nat) (a b : Bounds) : Bounds := ⟨a.lo * b.lo / 2 ^ P, ceilDiv (a.hi * b.hi) (2 ^ P)⟩

/-- m * 2^x in units of 2^-P. -/
def boundsOf (P m : Nat) (x : Int) : Bounds :=
  let k := x + P
  if 0 ≤ k then ⟨m * 2 ^ k.toNat, m * 2 ^ k.toNat⟩ else ⟨m / 2 ^ (-k).toNat, ceilDiv m (2 ^ (-k).toNat)⟩

/-- The terms y^k / k! of the exponential from k on, n of them, after the term `t`; the rest is at most the last term where
y is at most 1. -/
def expTerms (P : Nat) (y : Bounds) (sum t : Bounds) (k : Nat) : Nat → Bounds
  | 0 => ⟨sum.lo, sum.hi + t.hi⟩
  | n + 1 =>
    let u := y.mul P t
    let v : Bounds := ⟨u.lo / k, ceilDiv u.hi k⟩
    expTerms P y ⟨sum.lo + v.lo, sum.hi + v.hi⟩ v (k + 1) n

/-- e^y, for y at most 1. -/
def expBounds (P : Nat) (y : Bounds) : Bounds := expTerms P y ⟨2 ^ P, 2 ^ P⟩ ⟨2 ^ P, 2 ^ P⟩ 1 (P / 3)

/-- The terms z^(2k+1) / (2k+1) of the inverse hyperbolic tangent, n of them; the rest is at most the last power where z is at most 1/3. -/
def atanhTerms (P : Nat) (zz : Bounds) (sum p : Bounds) (k : Nat) : Nat → Bounds
  | 0 => ⟨sum.lo, sum.hi + p.hi⟩
  | n + 1 => atanhTerms P zz ⟨sum.lo + p.lo / k, sum.hi + ceilDiv p.hi k⟩ (zz.mul P p) (k + 2) n

/-- ln of (1 + z) / (1 - z), for z at most 1/3. -/
def logBounds (P : Nat) (z : Bounds) : Bounds :=
  let r := atanhTerms P (z.mul P z) ⟨0, 0⟩ z 1 (P / 3)
  ⟨2 * r.lo, 2 * r.hi⟩

/-- A quotient of naturals. -/
def ratio (P a b : Nat) : Bounds := ⟨a * 2 ^ P / b, ceilDiv (a * 2 ^ P) b⟩

/-- ln 2. -/
def ln2Bounds (P : Nat) : Bounds := logBounds P (ratio P 1 3)

/-- The rounding of a value between two bounds, where it does not depend on which. -/
def decideRound (neg : Bool) (b : Bounds) (x : Int) : Option (Nat × BitVec 8) :=
  let l := f32.round neg b.lo x 0 false 0
  if l = f32.round neg b.hi x 0 false 0 then some l else none

/-- The result at the first precision that decides it; notes/assumptions/14.md. -/
def settle (fn b : Nat) (f : Nat → Option (Nat × BitVec 8)) : Nat × BitVec 8 :=
  match f 128 <|> f 256 <|> f 512 with
  | some r => r
  | none => ((Config.special fn b).toNat, 0)

/-- An exact quotient a / b times 2^x, rounded once; the last bit stands for what is left over. -/
def roundQuot (neg : Bool) (a b : Nat) (x : Int) : Nat × BitVec 8 :=
  let q := a * 2 ^ 64 / b
  f32.round neg (2 * q + (if q * b = a * 2 ^ 64 then 0 else 1)) (x - 65) 0 false 0

/-- +1.0. -/
def oneF32 : Nat := 0x3F80_0000

/-- The canonical NaN with INV. -/
def nanInv : Nat × BitVec 8 := (f32.nan, INV)

/-- 2^a of a finite nonzero a: from 128 on it overflows, from -151 down it rounds to zero; an integer gives an exact power of
two; else the integer part is taken out exactly. -/
def exp2Fin (b : Nat) (neg : Bool) (m : Nat) (x : Int) : Nat × BitVec 8 :=
  if !neg && leScaled 128 0 m x then (f32.inf false, OVF)
  else if neg && leScaled 151 0 m x then (0, 0)
  else
    let d := 2 ^ (-x).toNat
    let n := if 0 ≤ x then m * 2 ^ x.toNat else m / d
    let r := if 0 ≤ x then 0 else m % d
    if r = 0 then f32.round false 1 (if neg then -(n : Int) else n) 0 false 0
    else
      let i : Int := if neg then -(n : Int) - 1 else n
      let f := if neg then d - r else r
      settle 0 b fun P => decideRound false (expBounds P ((ratio P f d).mul P (ln2Bounds P))) (i - P)

/-- `VEXP2`. -/
def exp2F32 (b : Nat) : Nat × BitVec 8 :=
  match f32.read b with
  | .nan => (f32.nan, 0)
  | .inf neg => (if neg then 0 else f32.inf false, 0)
  | .fin neg m x => if m = 0 then (oneF32, 0) else exp2Fin b neg m x

/-- log2 of a positive finite m * 2^x. -/
def log2Fin (b m : Nat) (x : Int) : Nat × BitVec 8 :=
  let k := Nat.log2 m
  let e : Int := k + x
  if m = 2 ^ k then f32.round (decide (e < 0)) e.natAbs 0 0 false 0
  else
    settle 1 b fun P =>
      let l := logBounds P (ratio P (m - 2 ^ k) (m + 2 ^ k))
      let n := ln2Bounds P
      let q : Bounds := ⟨l.lo * 2 ^ P / n.hi, ceilDiv (l.hi * 2 ^ P) n.lo⟩
      if 0 ≤ e then decideRound false ⟨e.toNat * 2 ^ P + q.lo, e.toNat * 2 ^ P + q.hi⟩ (-(P : Int))
      else decideRound true ⟨(-e).toNat * 2 ^ P - q.hi, (-e).toNat * 2 ^ P - q.lo⟩ (-(P : Int))

/-- `VLOG2`. -/
def log2F32 (b : Nat) : Nat × BitVec 8 :=
  match f32.read b with
  | .nan => (f32.nan, 0)
  | .inf neg => if neg then nanInv else (f32.inf false, 0)
  | .fin neg m x => if m = 0 then (f32.inf true, 0) else if neg then nanInv else log2Fin b m x

/-- `VRCP`. -/
def rcpF32 (b : Nat) : Nat × BitVec 8 :=
  match f32.read b with
  | .nan => (f32.nan, 0)
  | .inf neg => (f32.signBit neg, 0)
  | .fin neg m x => if m = 0 then (f32.inf neg, 0) else roundQuot neg 1 m (-x)

/-- 1/√(m * 2^x): the square root of 2^k / m to 2^-64, the last bit standing for what is left over. -/
def rsqFin (m : Nat) (x : Int) : Nat × BitVec 8 :=
  let (m, x) := if x % 2 = 0 then (m, x) else (2 * m, x - 1)
  let v := 2 ^ 160 / m
  let q := Nat.sqrt v
  f32.round false (2 * q + (if q * q * m = 2 ^ 160 then 0 else 1)) (-81 - x / 2) 0 false 0

/-- `VRSQ`. -/
def rsqF32 (b : Nat) : Nat × BitVec 8 :=
  match f32.read b with
  | .nan => (f32.nan, 0)
  | .inf neg => if neg then nanInv else (0, 0)
  | .fin neg m x => if m = 0 then (f32.inf neg, 0) else if neg then nanInv else rsqFin m x

/-- n squarings. -/
def Bounds.squares (P : Nat) (b : Bounds) : Nat → Bounds
  | 0 => b
  | n + 1 => (b.mul P b).squares P n

/-- tanh of a finite nonzero a. Below 2^-13 the cubic term is less than half the spacing, and from 10 on tanh differs from 1 by
less than half the spacing below 1. -/
def tanhFin (b : Nat) (neg : Bool) (m : Nat) (x : Int) : Nat × BitVec 8 :=
  if leScaled m x 1 (-13) then (b, 0)
  else if leScaled 10 0 m x then (f32.signBit neg + oneF32, 0)
  else
    settle 4 b fun P =>
      let e := (expBounds P (boundsOf P m (x - 4))).squares P 5
      let d := 2 ^ P
      decideRound neg ⟨(e.lo - d) * 2 ^ P / (e.lo + d), ceilDiv ((e.hi - d) * 2 ^ P) (e.hi + d)⟩ (-(P : Int))

/-- `VTANH`. -/
def tanhF32 (b : Nat) : Nat × BitVec 8 :=
  match f32.read b with
  | .nan => (f32.nan, 0)
  | .inf neg => (f32.signBit neg + oneF32, 0)
  | .fin neg m x => if m = 0 then (b, 0) else tanhFin b neg m x

end Sys2Proof.Machine
end

