-- ==== Sys2Proof/Machine/Vector.lean ====
section
/-! DEFINITION. The vector cluster (07 R179 to R195). -/

namespace Sys2Proof.Machine

/-! Lanes (R179, R180). -/

/-- Lane i of size w of a register. -/
def lane (l : Line) (w i : Nat) : Nat := linePart l (w * i) w

/-- Lane i of size w is active under a mask. -/
def laneOn (mk : Word) (w i : Nat) : Bool := bit mk (w * i)

/-- Lanes of size w put side by side, the first lowest. -/
def ofLanes (w : Nat) (xs : List Nat) : Nat := xs.foldr (fun x n => x % 256 ^ w + 256 ^ w * n) 0

/-- The lanes of a register: active ones as given, with their flags, the others as they stand. -/
def mapLanes (w : Nat) (mk : Word) (d : Line) (f : Nat → Nat × BitVec 8) : Line × BitVec 8 :=
  let r := (List.range (64 / w)).map fun i => if laneOn mk w i then f i else (lane d w i, 0)
  (BitVec.ofNat 512 (ofLanes w (r.map (·.1))), r.foldl (fun fl x => fl ||| x.2) 0)

/-- The mask a compare writes: w bits for each active lane that holds. -/
def cmpLanes (w : Nat) (mk : Word) (f : Nat → Bool) : Word :=
  BitVec.ofNat 64 ((List.range (64 / w)).foldl (fun n i => if laneOn mk w i && f i then n + (2 ^ w - 1) * 2 ^ (w * i) else n) 0)

/-- A vector register and AFLAGS bits written. -/
def State.setVF (s : State) (vd : VReg) (r : Line × BitVec 8) : State := (s.setV vd r.1).orAflags r.2

/-- An instruction that computes lane i from those of va, vb and the old vd. -/
def State.lanes (s : State) (w : Nat) (vd va vb : VReg) (mk : MReg) (f : Nat → Nat → Nat → Nat × BitVec 8) : Out :=
  .next (s.setVF vd (mapLanes w (s.mask mk) (s.v vd) fun i => f (lane (s.v va) w i) (lane (s.v vb) w i) (lane (s.v vd) w i)))

/-- A compare of the lanes of va and vb. -/
def State.compare (s : State) (w : Nat) (md : MReg) (va vb : VReg) (mk : MReg) (f : Nat → Nat → Bool) : Out :=
  .next (s.setMask md (cmpLanes w (s.mask mk) fun i => f (lane (s.v va) w i) (lane (s.v vb) w i)))

/-! Integer lanes (R183). -/

/-- The lane size of an integer form. -/
def intSize (sz : BitVec 2) : Nat := 2 ^ sz.toNat

/-- An integer form over exact lane values; the result is cut to the lane, or clamped with ISAT. -/
def State.intLanes (s : State) (sg : Bool) (sz : BitVec 2) (vd va vb : VReg) (mk : MReg) (clamp : Bool) (f : Int → Int → Int) : Out :=
  let b := 8 * intSize sz
  s.lanes (intSize sz) vd va vb mk fun x y _ =>
    let r := f (intOf b sg x) (intOf b sg y)
    if clamp then clampInt b sg r else (intBits b r, 0)

/-- A shift form; the count is lane b read unsigned. -/
def State.shiftLanes (s : State) (sg left : Bool) (sz : BitVec 2) (vd va vb : VReg) (mk : MReg) : Out :=
  let b := 8 * intSize sz
  s.lanes (intSize sz) vd va vb mk fun x n _ =>
    let n := min n b
    (intBits b (if left then intOf b sg x * 2 ^ n else intOf b sg x / 2 ^ n), 0)

/-- An integer compare. -/
def State.intCompare (s : State) (sg : Bool) (sz : BitVec 2) (md : MReg) (va vb : VReg) (mk : MReg) (f : Int → Int → Bool) : Out :=
  let b := 8 * intSize sz
  s.compare (intSize sz) md va vb mk fun x y => f (intOf b sg x) (intOf b sg y)

/-- `VADD` of major 0x30 (R183). -/
def execVaddI (vd va vb : VReg) (mk : MReg) (sz : BitVec 2) (s : State) : Out :=
  s.intLanes true sz vd va vb mk false fun x y => x + y

/-- `VSUB` of major 0x30 (R183). -/
def execVsubI (vd va vb : VReg) (mk : MReg) (sz : BitVec 2) (s : State) : Out :=
  s.intLanes true sz vd va vb mk false fun x y => x - y

/-- `VMUL` of major 0x30 (R183). -/
def execVmulI (vd va vb : VReg) (mk : MReg) (sz : BitVec 2) (s : State) : Out :=
  s.intLanes true sz vd va vb mk false fun x y => x * y

/-- `VADDS` of major 0x30 (R183). -/
def execVaddsI (vd va vb : VReg) (mk : MReg) (sz : BitVec 2) (s : State) : Out :=
  s.intLanes true sz vd va vb mk true fun x y => x + y

/-- `VSUBS` of major 0x30 (R183). -/
def execVsubsI (vd va vb : VReg) (mk : MReg) (sz : BitVec 2) (s : State) : Out :=
  s.intLanes true sz vd va vb mk true fun x y => x - y

/-- `VMIN` of major 0x30 (R183). -/
def execVminI (vd va vb : VReg) (mk : MReg) (sz : BitVec 2) (s : State) : Out :=
  s.intLanes true sz vd va vb mk false fun x y => min x y

/-- `VMAX` of major 0x30 (R183). -/
def execVmaxI (vd va vb : VReg) (mk : MReg) (sz : BitVec 2) (s : State) : Out :=
  s.intLanes true sz vd va vb mk false fun x y => max x y

/-- `VSHL` of major 0x30 (R183). -/
def execVshlI (vd va vb : VReg) (mk : MReg) (sz : BitVec 2) (s : State) : Out := s.shiftLanes true true sz vd va vb mk

/-- `VSHR` of major 0x30 (R183). -/
def execVshrI (vd va vb : VReg) (mk : MReg) (sz : BitVec 2) (s : State) : Out := s.shiftLanes true false sz vd va vb mk

/-- `VCMPEQ` of major 0x30 (R183). -/
def execVcmpeqI (md : MReg) (va vb : VReg) (mk : MReg) (sz : BitVec 2) (s : State) : Out :=
  s.intCompare true sz md va vb mk fun x y => decide (x = y)

/-- `VCMPLT` of major 0x30 (R183). -/
def execVcmpltI (md : MReg) (va vb : VReg) (mk : MReg) (sz : BitVec 2) (s : State) : Out :=
  s.intCompare true sz md va vb mk fun x y => decide (x < y)

/-- `VCMPLE` of major 0x30 (R183). -/
def execVcmpleI (md : MReg) (va vb : VReg) (mk : MReg) (sz : BitVec 2) (s : State) : Out :=
  s.intCompare true sz md va vb mk fun x y => decide (x ≤ y)

/-- `VADD` of major 0x31 (R183). -/
def execVaddN (vd va vb : VReg) (mk : MReg) (sz : BitVec 2) (s : State) : Out :=
  s.intLanes false sz vd va vb mk false fun x y => x + y

/-- `VSUB` of major 0x31 (R183). -/
def execVsubN (vd va vb : VReg) (mk : MReg) (sz : BitVec 2) (s : State) : Out :=
  s.intLanes false sz vd va vb mk false fun x y => x - y

/-- `VMUL` of major 0x31 (R183). -/
def execVmulN (vd va vb : VReg) (mk : MReg) (sz : BitVec 2) (s : State) : Out :=
  s.intLanes false sz vd va vb mk false fun x y => x * y

/-- `VADDS` of major 0x31 (R183). -/
def execVaddsN (vd va vb : VReg) (mk : MReg) (sz : BitVec 2) (s : State) : Out :=
  s.intLanes false sz vd va vb mk true fun x y => x + y

/-- `VSUBS` of major 0x31 (R183). -/
def execVsubsN (vd va vb : VReg) (mk : MReg) (sz : BitVec 2) (s : State) : Out :=
  s.intLanes false sz vd va vb mk true fun x y => x - y

/-- `VMIN` of major 0x31 (R183). -/
def execVminN (vd va vb : VReg) (mk : MReg) (sz : BitVec 2) (s : State) : Out :=
  s.intLanes false sz vd va vb mk false fun x y => min x y

/-- `VMAX` of major 0x31 (R183). -/
def execVmaxN (vd va vb : VReg) (mk : MReg) (sz : BitVec 2) (s : State) : Out :=
  s.intLanes false sz vd va vb mk false fun x y => max x y

/-- `VSHL` of major 0x31 (R183). -/
def execVshlN (vd va vb : VReg) (mk : MReg) (sz : BitVec 2) (s : State) : Out := s.shiftLanes false true sz vd va vb mk

/-- `VSHR` of major 0x31 (R183). -/
def execVshrN (vd va vb : VReg) (mk : MReg) (sz : BitVec 2) (s : State) : Out := s.shiftLanes false false sz vd va vb mk

/-- `VCMPEQ` of major 0x31 (R183). -/
def execVcmpeqN (md : MReg) (va vb : VReg) (mk : MReg) (sz : BitVec 2) (s : State) : Out :=
  s.intCompare false sz md va vb mk fun x y => decide (x = y)

/-- `VCMPLT` of major 0x31 (R183). -/
def execVcmpltN (md : MReg) (va vb : VReg) (mk : MReg) (sz : BitVec 2) (s : State) : Out :=
  s.intCompare false sz md va vb mk fun x y => decide (x < y)

/-- `VCMPLE` of major 0x31 (R183). -/
def execVcmpleN (md : MReg) (va vb : VReg) (mk : MReg) (sz : BitVec 2) (s : State) : Out :=
  s.intCompare false sz md va vb mk fun x y => decide (x ≤ y)

/-! Logic, moves, selection, masks (R184). -/

/-- A bytewise form: active bytes of vd from a register computed whole. -/
def State.bytes (s : State) (vd : VReg) (mk : MReg) (x : Line) : Out := .next (s.setV vd (mergeLine (s.v vd) x (s.mask mk)))

/-- `VAND` (R184). -/
def execVand (vd va vb : VReg) (mk : MReg) (s : State) : Out := s.bytes vd mk (s.v va &&& s.v vb)

/-- `VOR` (R184). -/
def execVor (vd va vb : VReg) (mk : MReg) (s : State) : Out := s.bytes vd mk (s.v va ||| s.v vb)

/-- `VXOR` (R184). -/
def execVxor (vd va vb : VReg) (mk : MReg) (s : State) : Out := s.bytes vd mk (s.v va ^^^ s.v vb)

/-- `VANDN` (R184). -/
def execVandn (vd va vb : VReg) (mk : MReg) (s : State) : Out := s.bytes vd mk (s.v va &&& ~~~s.v vb)

/-- `VSEL` (R184). -/
def execVsel (vd va vb : VReg) (mk : MReg) (s : State) : Out := .next (s.setV vd (mergeLine (s.v vb) (s.v va) (s.mask mk)))

/-- `VBCST` (R184). -/
def execVbcst (vd : VReg) (a : Reg) (sz : BitVec 2) (mk : MReg) (s : State) : Out :=
  s.lanes (2 ^ sz.toNat) vd vd vd mk fun _ _ _ => ((s.g a).toNat % 256 ^ 2 ^ sz.toNat, 0)

/-- `VSHUF` (R184). -/
def execVshuf (vd va vb : VReg) (mk : MReg) (s : State) : Out :=
  s.lanes 1 vd va vb mk fun _ c _ => (if 128 ≤ c then 0 else lane (s.v va) 1 (c % 64), 0)

/-- `VMOV` (R184). -/
def execVmov (vd va : VReg) (mk : MReg) (s : State) : Out := s.bytes vd mk (s.v va)

/-- `MAND` (R184). -/
def execMand (md ma mb : MReg) (s : State) : Out := .next (s.setMask md (s.mask ma &&& s.mask mb))

/-- `MOR` (R184). -/
def execMor (md ma mb : MReg) (s : State) : Out := .next (s.setMask md (s.mask ma ||| s.mask mb))

/-- `MXOR` (R184). -/
def execMxor (md ma mb : MReg) (s : State) : Out := .next (s.setMask md (s.mask ma ^^^ s.mask mb))

/-- `MANDN` (R184). -/
def execMandn (md ma mb : MReg) (s : State) : Out := .next (s.setMask md (s.mask ma &&& ~~~s.mask mb))

/-- `MNOT` (R184). -/
def execMnot (md ma : MReg) (s : State) : Out := .next (s.setMask md (~~~s.mask ma))

/-- `VLANE` (R184). -/
def execVlane (d : Reg) (va : VReg) (ln : BitVec 4) (s : State) : Out := .next (s.setG d (BitVec.ofNat 64 (lane (s.v va) 4 ln.toNat)))

/-! Floating lanes (R185, R186). -/

/-- The format of a lane type. -/
def laneFmt (ty : BitVec 2) : FloatFmt := if ty = 0 then f32 else if ty = 1 then f16 else bf16

/-- Its size in bytes. -/
def laneSize (ty : BitVec 2) : Nat := if ty = 0 then 4 else 2

/-- A floating form whose exact lane value is rounded once, by RNE without saturation. -/
def State.floatLanes (s : State) (ty : BitVec 2) (vd va vb : VReg) (mk : MReg) (f : Val → Val → Val → Val × BitVec 8) : Out :=
  let t := laneFmt ty
  s.lanes (laneSize ty) vd va vb mk fun x y d =>
    let r := f (t.read x) (t.read y) (t.read d)
    let o := t.ofVal r.1 0 false 0
    (o.1, o.2 ||| r.2)

/-- The exact value of `VFMA`: a NaN operand is a NaN without a flag; else product and sum. -/
def Val.fma (a b d : Val) : Val × BitVec 8 :=
  if d = .nan then (.nan, 0)
  else
    let p := a.mul b
    let r := p.1.add d
    (r.1, r.2 ||| p.2)

/-- The comparison of two values as IEEE 754 quiet comparisons make it. -/
def Val.le (a b : Val) : Bool :=
  match a, b with
  | .nan, _ => false
  | _, .nan => false
  | .inf true, _ => true
  | _, .inf false => true
  | .inf false, _ => false
  | _, .inf true => false
  | .fin s m x, .fin t n y => decide ((addExact s m x (!t) n y).1 ≤ 0)

/-- A floating compare. -/
def State.floatCompare (s : State) (ty : BitVec 2) (md : MReg) (va vb : VReg) (mk : MReg) (f : Val → Val → Bool) : Out :=
  s.compare (laneSize ty) md va vb mk fun x y => f ((laneFmt ty).read x) ((laneFmt ty).read y)

/-- A form that leaves the value bits alone. -/
def State.bitLanes (s : State) (ty : BitVec 2) (vd va vb : VReg) (mk : MReg) (f : Nat → Nat → Nat → Nat) : Out :=
  s.lanes (laneSize ty) vd va vb mk fun x y _ => (f (8 * laneSize ty) x y, 0)

/-- `VADD` of major 0x33 (R185). -/
def execVaddF (vd va vb : VReg) (mk : MReg) (ty : BitVec 2) (s : State) : Out :=
  s.floatLanes ty vd va vb mk fun a b _ => a.add b

/-- `VSUB` of major 0x33 (R185). -/
def execVsubF (vd va vb : VReg) (mk : MReg) (ty : BitVec 2) (s : State) : Out :=
  s.floatLanes ty vd va vb mk fun a b _ => a.add b.negate

/-- `VMUL` of major 0x33 (R185). -/
def execVmulF (vd va vb : VReg) (mk : MReg) (ty : BitVec 2) (s : State) : Out :=
  s.floatLanes ty vd va vb mk fun a b _ => a.mul b

/-- `VFMA` of major 0x33 (R185). -/
def execVfma (vd va vb : VReg) (mk : MReg) (ty : BitVec 2) (s : State) : Out :=
  s.floatLanes ty vd va vb mk fun a b d => a.fma b d

/-- `VMIN` of major 0x33 (R125, R185). -/
def execVminF (vd va vb : VReg) (mk : MReg) (ty : BitVec 2) (s : State) : Out :=
  s.bitLanes ty vd va vb mk fun w x y => if okeyFloat w y < okeyFloat w x then y else x

/-- `VMAX` of major 0x33 (R125, R185). -/
def execVmaxF (vd va vb : VReg) (mk : MReg) (ty : BitVec 2) (s : State) : Out :=
  s.bitLanes ty vd va vb mk fun w x y => if okeyFloat w x < okeyFloat w y then y else x

/-- `VCMPEQ` of major 0x33 (R186). -/
def execVcmpeqF (md : MReg) (va vb : VReg) (mk : MReg) (ty : BitVec 2) (s : State) : Out :=
  s.floatCompare ty md va vb mk fun a b => a.le b && b.le a

/-- `VCMPLT` of major 0x33 (R186). -/
def execVcmpltF (md : MReg) (va vb : VReg) (mk : MReg) (ty : BitVec 2) (s : State) : Out :=
  s.floatCompare ty md va vb mk fun a b => a.le b && !b.le a

/-- `VCMPLE` of major 0x33 (R186). -/
def execVcmpleF (md : MReg) (va vb : VReg) (mk : MReg) (ty : BitVec 2) (s : State) : Out :=
  s.floatCompare ty md va vb mk fun a b => a.le b

/-- `VABS` (R185). -/
def execVabs (vd va : VReg) (mk : MReg) (ty : BitVec 2) (s : State) : Out :=
  s.bitLanes ty vd va va mk fun w x _ => x % 2 ^ (w - 1)

/-- `VNEG` (R185). -/
def execVneg (vd va : VReg) (mk : MReg) (ty : BitVec 2) (s : State) : Out :=
  s.bitLanes ty vd va va mk fun w x _ => (x + 2 ^ (w - 1)) % 2 ^ w

/-! Special functions (R187). -/

/-- A special function of each active F32 lane. -/
def State.special (s : State) (vd va : VReg) (mk : MReg) (f : Nat → Nat × BitVec 8) : Out := s.lanes 4 vd va va mk fun x _ _ => f x

/-- `VEXP2` (R187). -/
def execVexp2 (vd va : VReg) (mk : MReg) (s : State) : Out := s.special vd va mk exp2F32

/-- `VLOG2` (R187). -/
def execVlog2 (vd va : VReg) (mk : MReg) (s : State) : Out := s.special vd va mk log2F32

/-- `VRCP` (R187). -/
def execVrcp (vd va : VReg) (mk : MReg) (s : State) : Out := s.special vd va mk rcpF32

/-- `VRSQ` (R187). -/
def execVrsq (vd va : VReg) (mk : MReg) (s : State) : Out := s.special vd va mk rsqF32

/-- `VTANH` (R187). -/
def execVtanh (vd va : VReg) (mk : MReg) (s : State) : Out := s.special vd va mk tanhF32

/-! Reductions (R188). -/

/-- The active F32 lanes. -/
def activeLanes (l : Line) (mk : Word) : List Nat := ((List.range 16).filter fun i => laneOn mk 4 i).map fun i => lane l 4 i

/-- `VRSUM` of a set of lanes. -/
def sumLanes (xs : List Nat) : Nat × BitVec 8 :=
  let vs := xs.map f32.read
  let pinf := vs.contains (.inf false)
  let ninf := vs.contains (.inf true)
  if vs.contains .nan then (f32.nan, 0)
  else if pinf && ninf then (f32.nan, INV)
  else if pinf then (f32.inf false, 0)
  else if ninf then (f32.inf true, 0)
  else if vs.all fun v => decide (v.mag.2.1 = 0) then
    (if vs ≠ [] && vs.all fun v => v.mag.1 then f32.signBit true else 0, 0)
  else
    let r := vs.foldl (fun a v => addExact (decide (a.1 < 0)) a.1.natAbs a.2 v.mag.1 v.mag.2.1 v.mag.2.2) (0, 0)
    if r.1 = 0 then (0, 0) else f32.round (decide (r.1 < 0)) r.1.natAbs r.2 0 false 0

/-- The member a selection keeps. -/
def pickLane (better : Nat → Nat → Bool) (dflt : Nat) : List Nat → Nat
  | [] => dflt
  | x :: xs => xs.foldl (fun b y => if better (okeyFloat 32 y) (okeyFloat 32 b) then y else b) x

/-- A reduction: the result in lane 0, +0 in the others. -/
def State.reduce (s : State) (vd va : VReg) (mk : MReg) (f : List Nat → Nat × BitVec 8) : Out :=
  let r := f (activeLanes (s.v va) (s.mask mk))
  .next (s.setVF vd (BitVec.ofNat 512 r.1, r.2))

/-- `VRSUM` (R188). -/
def execVrsum (vd va : VReg) (mk : MReg) (s : State) : Out := s.reduce vd va mk sumLanes

/-- `VRMAX` (R125, R188). -/
def execVrmax (vd va : VReg) (mk : MReg) (s : State) : Out :=
  s.reduce vd va mk fun xs => (pickLane (fun x y => decide (y < x)) 0xFFFF_FFFF xs, 0)

/-- `VRMIN` (R125, R188). -/
def execVrmin (vd va : VReg) (mk : MReg) (s : State) : Out :=
  s.reduce vd va mk fun xs => (pickLane (fun x y => decide (x < y)) 0x7FFF_FFFF xs, 0)

/-! Top-k (R189). -/

/-- The bits of an orderable F32 key. -/
def unkeyF32 (k : Nat) : Nat := if 2 ^ 31 ≤ k then k - 2 ^ 31 else 2 ^ 32 - 1 - k

/-- The pairs of a register pair in the lanes that hold, keys in their orderable form. -/
def lanePairs (k x : Line) (on : Nat → Bool) : List (Nat × Nat) :=
  ((List.range 16).filter on).map fun i => (okeyFloat 32 (lane k 4 i), lane x 4 i)

/-- The register after a register: the second of a pair. -/
def VReg.next (v : VReg) : VReg := v + 1

/-- `VTOPK` (R124, R189). -/
def execVtopk (vd va vb : VReg) (mk : MReg) (s : State) : Out :=
  let on := laneOn (s.mask mk) 4
  let ps := lanePairs (s.v va) (s.v (VReg.next va)) (fun _ => true) ++ lanePairs (s.v vb) (s.v (VReg.next vb)) on
  let best := (ps.foldl (fun l p => rankInsert p l) []).take 16
  .next ((s.setV vd (BitVec.ofNat 512 (ofLanes 4 (best.map fun p => unkeyF32 p.1)))).setV (VReg.next vd)
    (BitVec.ofNat 512 (ofLanes 4 (best.map (·.2)))))

/-! Conversion (R190). -/

/-- The lanes of a conversion, in order; under SR each active lane takes a draw. -/
def cvtLanes (src dst : Fmt) (es ed rm : Nat) (sa : Bool) (a d : Line) (mk key : Word) :
    List Nat → Word → List Nat → BitVec 8 → List Nat × Word × BitVec 8
  | [], ctr, out, fl => (out.reverse, ctr, fl)
  | i :: is, ctr, out, fl =>
    if laneOn mk ed i then
      let r := convert src dst (lane a es i) rm sa (if rm = 2 then drawBits key ctr else 0)
      cvtLanes src dst es ed rm sa a d mk key is (if rm = 2 then ctr + 1 else ctr) (r.1 :: out) (fl ||| r.2)
    else cvtLanes src dst es ed rm sa a d mk key is ctr (lane d ed i :: out) fl

/-- `VCVT` (R190). -/
def execVcvt (vd va : VReg) (dt st : BitVec 4) (rm : BitVec 2) (sa : BitVec 1) (mk : MReg) (s : State) : Out :=
  let es := sizeOfVec st.toNat
  let ed := sizeOfVec dt.toNat
  let n := 64 / max es ed
  let c := s.old.clu s.cur.clu
  let r := cvtLanes (fmtOfVec st.toNat) (fmtOfVec dt.toNat) es ed rm.toNat (sa == 1) (s.v va) (s.v vd) (s.mask mk) c.srkey
    (List.range n) c.srctr [] 0
  let low := ofLanes ed r.1
  let x := BitVec.ofNat 512 ((s.v vd).toNat / 256 ^ (n * ed) * 256 ^ (n * ed) + low)
  .next ((s.setVF vd (x, r.2.2)).onCl fun c => { c with srctr := r.2.1 })

/-! Loads, stores and queues (R191 to R193). -/

/-- The core, buffer and offset of a vector access to an address that has passed its checks. -/
def State.vecPlace (s : State) (a : Word) : Fin 768 × Fin 4 × Nat :=
  if bits a 60 4 = 0xC then (quadCore s.cur.core (bits a 40 2), 1, bits a 0 40) else (s.cur.core, Fin.ofNat 4 (bits a 60 4), bits a 0 40)

/-- The checks of R192 in the order of R141. -/
def State.vecCheck (s : State) (a : Word) (write : Bool) : Res Unit :=
  let path := bits a 60 4
  if s.pathShut path then .trap 8 0 a
  else if a.toNat % 64 ≠ 0 then .trap 9 0 a
  else if path < 8 ∨ 0xC < path then .trap 8 0 a
  else ((if path = 0xC then s.quadBuf a 64 else s.ownBuf a 64).bind fun _ t =>
    if path = 0xB ∨ (write ∧ (path = 8 ∨ path = 0xA)) then .trap 0xA 0 a
    else
      let p := s.vecPlace a
      t.orderAccess p.1 p.2.1 p.2.2 64 write a)

/-- An unfinished form of the cluster touches the same bytes (R145). -/
def State.vecOverlap (s : State) (a : Word) : Bool :=
  s.me.en.forms.any fun f => f.clu == s.cur.clu && f.addr != 0 && decide (s.vecPlace f.addr = s.vecPlace a)

/-- The address of a vector access. -/
def vecAddress (a : Word) (off : BitVec 7) : Word := a + BitVec.ofNat 64 (64 * off.toNat)

/-- A vector long form issues: no more than three stand unfinished (R352), and an earlier one on the same bytes is waited for. -/
def State.vecIssue (s : State) (l : Long) (i : Instr) (a mask : Word) (data : Line) (check : State → Res Unit) : Out :=
  s.guarded l fun u =>
    match check u with
    | .trap c d x => s.faultAt c d x
    | .wait => s.stall
    | .ok _ t => if s.me.formsFull s.cur.clu || (a != 0 && s.vecOverlap a) then s.stall else .next (t.addForm l i a mask data)

/-- `VLD` (R191, R192). -/
def execVld (l : Long) (v : VReg) (a : Reg) (off : BitVec 7) (mk : MReg) (s : State) : Out :=
  let x := vecAddress (s.g a) off
  s.vecIssue l (.vld l v a off mk) x (s.mask mk) 0 fun u => u.vecCheck x false

/-- `VST` (R191, R192). -/
def execVst (l : Long) (v : VReg) (a : Reg) (off : BitVec 7) (mk : MReg) (s : State) : Out :=
  let x := vecAddress (s.g a) off
  s.vecIssue l (.vst l v a off mk) x (s.mask mk) (s.v v) fun u => u.vecCheck x true

/-- `VQPOP` (R191, R193). -/
def execVqpop (l : Long) (v : VReg) (mk : MReg) (s : State) : Out :=
  s.vecIssue l (.vqpop l v mk) 0 (s.mask mk) 0 fun u => .ok () u

/-- `VQPUSH` (R191, R193). -/
def execVqpush (l : Long) (v : VReg) (mk : MReg) (s : State) : Out :=
  s.vecIssue l (.vqpush l v mk) 0 (s.mask mk) (s.v v) fun u => .ok () u

/-- A vector register of the core written under a mask. -/
def Storage.mergeV (t : Storage) (v : VReg) (x : Line) (mask : Word) : Storage :=
  { t with v := vset t.v v (mergeLine (vget t.v v) x mask) }

/-- A form accesses a typed buffer. -/
def isVecAccess (i : Instr) : Bool :=
  match i with
  | .vld .. => true
  | .vst .. => true
  | _ => false

/-- A form pops QAV. -/
def isVqpop (i : Instr) : Bool :=
  match i with
  | .vqpop .. => true
  | _ => false

/-- A form pushes QVA. -/
def isVqpush (i : Instr) : Bool :=
  match i with
  | .vqpush .. => true
  | _ => false

/-- An unfinished form of the cluster holds back one issued after it: the one issued before the other's last fence (R144), a pop before
an access, an access before a push, and one queue's forms in their order (12 R299). -/
def Form.holds (g f : Form) : Bool :=
  g.clu == f.clu && decide (g.order < f.order) &&
    (decide (g.order < f.after) || (isVqpop g.i && (isVecAccess f.i || isVqpop f.i)) || (isVqpush f.i && (isVecAccess g.i || isVqpush g.i)))

/-- The bytes of a line in the 8-byte words of a set. -/
def wordsMask (w : BitVec 8) : Word := BitVec.ofNat 64 (expandMask (zext w) 8)

/-- One aligned 8-byte word of a buffer stored under a mask of its bytes; a word stored whole is no longer poisoned. -/
def Storage.putWord (t : Storage) (b : Fin 4) (off : Nat) (x : Nat) (mask : BitVec 8) : Storage :=
  if mask = 0xFF then t.putBuf b off (leBytes x 8)
  else
    let m := t.buf b
    t.setBuf b ((List.range 8).foldl (fun m i => if bit mask i then m.write (off + i) (BitVec.ofNat 8 (x / 256 ^ i)) else m) m)

/-- The 8-byte words of a set stored in a buffer under the mask of a line. -/
def Storage.putWords (t : Storage) (b : Fin 4) (off : Nat) (x : Line) (mask : Word) (words : BitVec 8) : Storage :=
  (List.range 8).foldl (fun t i => if bit words i then t.putWord b (off + 8 * i) (linePart x (8 * i) 8) (BitVec.ofNat 8 (bits mask (8 * i) 8)) else t) t

/-- A vector form makes its effect on the aligned 8-byte words of a set, where nothing holds it back; a queue form acts whole. -/
def State.performForm (s : State) (f : Form) (words : BitVec 8) : Option State :=
  let (k, b, off) := s.vecPlace f.addr
  match f.i with
  | .vld _ v _ _ _ =>
    if s.bufWaits k b off 64 f.order then none
    else if (s.core k).st.poisoned b off 64 then some (s.machineCheck s.cur.core f.clu 0x21 0)
    else some ((s.onSt fun t => t.mergeV v (BitVec.ofNat 512 (((s.core k).st.buf b).readLe off 64)) (f.mask &&& wordsMask words)).onCheck fun c =>
      c.passed s.agent b off 64)
  | .vst _ _ _ _ _ =>
    if s.bufWaits k b off 64 f.order then none
    else some ((s.onCore k fun c => { c with st := c.st.putWords b off f.data f.mask words }).onCheck fun c => c.passed s.agent b off 64)
  | .vqpop _ v _ =>
    (match s.me.st.qav with
    | [] => none
    | x :: rest => some ((s.onSt fun t => { t.mergeV v x f.mask with qav := rest }).onCheck fun c => c.take s.agent (objQueue 0)))
  | .vqpush _ _ _ =>
    if 32 ≤ s.me.st.qva.length then none
    else some ((s.onSt fun t => { t with qva := t.qva ++ [mergeLine 0 f.data f.mask] }).onCheck fun c => c.release s.agent (objQueue 2))
  | _ => none

/-- A form's turn: the words named of those left to it, all of them where none is named; a form that has no more left finishes and posts
its tokens (R191, R192). -/
def State.formTurn (s : State) (f : Form) (words : BitVec 8) : Option State :=
  let todo := (if words = 0 ∨ !isVecAccess f.i then 0xFF else words) &&& ~~~f.parts
  if todo = 0 then none
  else
    (s.performForm f todo).map fun t =>
      if !isVecAccess f.i ∨ f.parts ||| todo = 0xFF then t.endForm f
      else t.onEn fun e => { e with forms := e.forms.map fun g => if g.order = f.order then { g with parts := g.parts ||| todo } else g }

/-- The oldest form of the cluster that may act does so. -/
def State.finishForm (s : State) (words : BitVec 8) : Option State :=
  s.me.en.forms.findSome? fun f =>
    if f.clu == s.cur.clu && !s.me.en.forms.any fun g => g.holds f then s.formTurn f words else none

/-- `VECTOR_FORM_FINISH` (R191, R192). -/
def execVectorFormFinish (core : Fin 768) (turn : FormTurn) (s : State) : Out :=
  s.engine core turn.clu fun t => t.finishForm turn.words

end Sys2Proof.Machine
end

