-- ==== Sys2Proof/Machine/Walker.lean ====
section
/-! DEFINITION. The walker: eligibility, task start, placement and restore of saved tasks, service order, pre-emption by class 0
(10 R250 to R259, 15 R355). -/

namespace Sys2Proof.Machine

/-! Indices and task start (R13, R33, R252, R259). -/

/-- The indices of the levels, innermost first, of an ordinal; a T level has index 0. -/
def indicesRev : List (Nat × Nat) → Nat → List Nat
  | [], _ => []
  | (k, n) :: rest, o => if k = 1 then 0 :: indicesRev rest o else o % n :: indicesRev rest (o / n)

/-- The indices of the levels of an ordinal, outermost first. -/
def Launch.indices (l : Launch) (ord : Nat) : List Nat := (indicesRev l.levels.reverse ord).reverse

/-- The D index of an ordinal, where the launch has D levels (R253). -/
def Launch.dieIndex (l : Launch) (ord : Nat) : Option Nat :=
  if l.levels.any fun e => e.1 == 3 then
    some ((l.levels.zip (l.indices ord)).foldl (fun d e => if e.1.1 = 3 then d * e.1.2 + e.2 else d) 0)
  else none

/-- The task of an ordinal. -/
def Launch.task (l : Launch) (ord slot start : Nat) : Task :=
  { lid := l.lid, ordinal := ord, ctx := l.ctx, slot := slot, queue := l.queue, flags := l.flags.setWidth 4,
    footW := l.footW, footA := l.footA, footC := l.footC, footS := l.footS, strands := l.strands, start := start }

/-- The registers g0 to g31 a task starts with. -/
def Launch.regs (l : Launch) (ord : Nat) : Vector Word 32 :=
  Vector.ofFn fun i : Fin 32 =>
    if i.val = 25 then BitVec.ofNat 64 (l.lid.toNat * 2 ^ 48 + ord)
    else if 26 ≤ i.val then BitVec.ofNat 64 ((l.indices ord).getD (i.val - 26) 0)
    else 0

/-- What a core keeps of a cluster from one task to the next: the trap registers and the wake latch. -/
def Cluster.keep (c d : Cluster) : Cluster :=
  { d with tvec := c.tvec, tcause := c.tcause, tpc := c.tpc, tpcReg := c.tpcReg, taddr := c.taddr, tinfo := c.tinfo, tstat := c.tstat,
           hkeep := c.hkeep, pctx := c.pctx, wake := c.wake }

/-- What a core keeps of its registers: error sources, verdict, counter selection, and what it has drawn. -/
def CoreRegs.keep (c d : CoreRegs) : CoreRegs :=
  { d with dpstat := c.dpstat, ecpri := c.ecpri, ecshd := c.ecshd, ecxfr := c.ecxfr, ewpri := c.ewpri, ewshd := c.ewshd,
           ewxfr := c.ewxfr, pmsel := c.pmsel, charges := c.charges }

/-- A core without a task. -/
def Core.vacate (k : Core) : Core := { Core.reset with cl := vmap (fun c => c.keep Cluster.reset) k.cl, rg := k.rg.keep CoreRegs.reset }

/-- A cluster as a task starts on it (R32, R33). -/
def Launch.cluster (l : Launch) (ord : Nat) (old : Cluster) (x : Fin 4) : Cluster :=
  old.keep { Cluster.reset with
    pc := vget l.entries x, g := l.regs ord, priv := decide (l.ctx = 0), lgtmo := l.lgtmo, cltmo := l.cltmo
    srkey := if x = 2 ∨ x = 3 then l.seed else 0
    srctr := if x = 2 then BitVec.ofNat 64 (ord * 2 ^ 32 + 2 ^ 31) else if x = 3 then BitVec.ofNat 64 (ord * 2 ^ 32) else 0 }

/-- A core as a task starts on it. -/
def Core.start (k : Core) (l : Launch) (ord slot n : Nat) : Core :=
  { k.vacate with task := some (l.task ord slot n), cl := Vector.ofFn fun i : Fin 4 => l.cluster ord (vget k.cl i) i }

/-- A quad that a launch enters: clasps zero where no task of it was there (R37, R258). -/
def Quad.enter (q : Quad) (lid : BitVec 16) (gang : Bool) : Quad :=
  if q.lid = some lid then q else { Quad.reset with lid := some lid, gang := gang }

/-- A task starts. -/
def State.startTask (s : State) (k : Fin 768) (l : Launch) (ord slot : Nat) : State :=
  let n := s.sch.starts
  let s := (s.setCore k ((s.core k).start l ord slot n)).onQuad (quadOf k) fun q => q.enter l.lid l.gang
  { s with sch := { s.sch with starts := n + 1 } }

/-- A quad that its last task has left holds no clasps and no launch (R258). -/
def State.leaveQuad (s : State) (u : Fin 192) : State :=
  if (List.range 4).all fun i => !(s.core (Fin.ofNat 768 (4 * u.val + i))).busy then s.onQuad u fun _ => Quad.reset else s

/-- A task leaves its core; a fence of the core is then notified. -/
def State.leaveCore (s : State) (k : Fin 768) : State :=
  (((s.dropRequest k).onCore k Core.vacate).leaveQuad (quadOf k)).fenceNotice k

/-! Free and eligible cores (R253 to R255). -/

/-- The cores of a quad. -/
def quadCores (u : Fin 192) : List (Fin 768) := (List.range 4).map fun i => Fin.ofNat 768 (4 * u.val + i)

/-- The core holds no task, and no multicast write is on its way into it (R209). -/
def State.coreFree (s : State) (k : Fin 768) : Bool :=
  !(s.core k).busy && !((quadCores (quadOf k)).any fun q => (s.core q).en.mc.any fun w => w.receiver == k)

/-- The core may take tasks of a queue at all. -/
def State.usable (s : State) (q : Fin 32) (k : Fin 768) : Bool := !s.fenced k && s.quadAllowed q (quadOf k)

/-- The core is free and eligible for a launch (R255); a gang's quad stays closed until its last task retires (R254). -/
def State.openCore (s : State) (q : Fin 32) (lid : BitVec 16) (k : Fin 768) : Bool :=
  let u := vget s.quads (quadOf k)
  s.usable q k && s.coreFree k && !(u.gang && u.lid.isSome) &&
    (quadCores (quadOf k)).all fun c => match (s.core c).task with
      | some t => t.lid == lid
      | none => true

/-- The quad may take a gang: its four cores are free and eligible. -/
def State.openQuad (s : State) (q : Fin 32) (lid : BitVec 16) (u : Fin 192) : Bool :=
  (vget s.quads u).lid.isNone && (quadCores u).all fun k => s.openCore q lid k && !(s.core k).busy

/-- A die holds a core, or under GANG a quad, that the queue may use at all. -/
def State.dieUsable (s : State) (q : Fin 32) (gang : Bool) (d : Fin 8) : Bool :=
  if gang then (List.range 24).any fun i => let u : Fin 192 := Fin.ofNat 192 (24 * d.val + i); s.quadAllowed q u && s.quadWhole u
  else (List.range 96).any fun i => s.usable q (Fin.ofNat 768 (96 * d.val + i))

/-- A die on which an ordinal may be placed (R253). -/
def State.dieOk (s : State) (l : Launch) (ord : Nat) (d : Fin 8) : Bool :=
  match l.dieIndex ord with
  | none => true
  | some i =>
    match (List.range 8).find? fun j => s.dieUsable l.queue l.gang (Fin.ofNat 8 (i + j)) with
    | some j => Fin.ofNat 8 (i + j) == d
    | none => false

/-- One of a list by the next digit of a choice, with what is left of it. -/
def pick {α : Type} (l : List α) (choice : Nat) : Option (α × Nat) :=
  match l[choice % l.length]? with
  | some x => some (x, choice / l.length)
  | none => none

/-! Placing new iterations. -/

/-- One iteration placed. -/
def State.placeOne (s : State) (l : Launch) (slot ord choice : Nat) : Option (State × Nat) :=
  (pick ((List.finRange 768).filter fun k => s.openCore l.queue l.lid k && s.dieOk l ord (dieOf k)) choice).map fun p =>
    (s.startTask p.1 l ord slot, p.2)

/-- The tasks of a gang started on a quad. -/
def State.startGang (s : State) (l : Launch) (slot ord : Nat) (u : Fin 192) : State :=
  (List.range 4).foldl (fun s i => if ord + i < l.count then s.startTask (Fin.ofNat 768 (4 * u.val + i)) l (ord + i) slot else s) s

/-- One gang placed. -/
def State.placeGang (s : State) (l : Launch) (slot ord choice : Nat) : Option (State × Nat) :=
  (pick ((List.finRange 192).filter fun u => s.openQuad l.queue l.lid u && s.dieOk l ord (dieOf (Fin.ofNat 768 (4 * u.val)))) choice).map
    fun p => (s.startGang l slot ord p.1, p.2)

/-- n units from an ordinal on, all or none. -/
def State.placeUnits (s : State) (l : Launch) (slot ord choice : Nat) : Nat → Option (State × Nat)
  | 0 => some (s, choice)
  | n + 1 =>
    match (if l.gang then s.placeGang l slot ord choice else s.placeOne l slot ord choice) with
    | some (t, c) => t.placeUnits l slot (ord + if l.gang then 4 else 1) c n
    | none => none

/-- The next unit of a launch placed: an iteration, a gang, or under CORES all of it. -/
def State.placeNext (s : State) (l : Launch) (choice : Nat) : Option State :=
  match s.slotOf l.ctx with
  | none => none
  | some slot =>
    let size := if l.gang then 4 else 1
    let n := if l.coRes then (l.count + size - 1) / size else 1
    (s.placeUnits l slot l.next choice n).map fun p =>
      p.1.onLaunch l.lid fun x => { x with next := min x.count (x.next + n * size), passed := 0 }

/-! Restoring (R355). -/

/-- A saved task's cluster on its new core; its timeouts and what was seen of its stamps start afresh. -/
def Cluster.adopt (saved there : Cluster) : Cluster :=
  { there.keep saved with waitSince := none, stampSeen := none, hold := none, lineRoom := maxLines }

/-- The first n bytes of a memory; those beyond read as nothing has written them. -/
def Memory.upTo (m : Memory) (n : Nat) : Memory := ⟨m.cells.filter fun c => decide (c.1 < n)⟩

/-- The typed buffers within a task's footprints (R355 step 3). -/
def Storage.within (t : Storage) (k : Option Task) : Storage :=
  match k with
  | some x => { t with bufW := t.bufW.upTo x.footW, bufA := t.bufA.upTo x.footA, bufC := t.bufC.upTo x.footC, bufS := t.bufS.upTo x.footS }
  | none => t

/-- The saved task on its new core: its registers, but the power level until it is granted; an empty L1; buffers zero outside the
footprints. -/
def Core.adopt (saved there : Core) : Core :=
  { saved with
    cl := Vector.ofFn fun i : Fin 4 => (vget saved.cl i).adopt (vget there.cl i)
    st := saved.st.within saved.task
    rg := there.rg.keep { saved.rg with pwrlvl := 0, pwrGot := [] }
    en := { saved.en with l1 := [] }
    save := none
    restoring := true }

/-- A saved task placed on a core; it asks for its saved power level. -/
def State.placeSaved (s : State) (v : Saved) (k : Fin 768) : State :=
  let gang := match v.core.task with
    | some t => bit t.flags 1
    | none => false
  let s := (s.setCore k (v.core.adopt (s.core k))).onQuad (quadOf k) fun q =>
    let q := q.enter v.lid gang
    match v.clasps with
    | some c => { q with clasps := c, carried := v.carried }
    | none => q
  let s := if v.core.rg.pwrlvl = 0 then s else s.requestPower { core := k, by_ := none, level := v.core.rg.pwrlvl }
  { s with sch := { s.sch with saved := s.sch.saved.map fun u => if u.slotN = v.slotN then { u with placed := true, passed := 0 } else u } }

/-- The ordinal of a saved task. -/
def Saved.ordinal (v : Saved) : Nat := match v.core.task with | some t => t.ordinal | none => 0

/-- The saved task belongs to a gang. -/
def Saved.gang (v : Saved) : Bool := match v.core.task with | some t => bit t.flags 1 | none => false

/-- Saved tasks placed as a unit. -/
def State.placeSavedUnit (s : State) (q : Fin 32) (vs : List Saved) (choice : Nat) : Option State :=
  match vs with
  | [] => none
  | v :: _ =>
    if v.gang then
      (pick ((List.finRange 192).filter fun u => s.openQuad q v.lid u) choice).map fun p =>
        vs.foldl (fun s v => s.placeSaved v (Fin.ofNat 768 (4 * p.1.val + qposOf v.from_))) s
    else (pick ((List.finRange 768).filter fun k => s.openCore q v.lid k) choice).map fun p => s.placeSaved v p.1

/-! What waits for a core (R250, R251). -/

/-- A unit that is placeable but perhaps for want of a core: a saved unit, or a queue's head. -/
inductive Item where
  | saved (q : Fin 32) (vs : List Saved)
  | head (l : Launch)

def Item.queue : Item → Fin 32
  | .saved q _ => q
  | .head l => l.queue

/-- How often it has been passed. -/
def Item.passed : Item → Nat
  | .saved _ vs => vs.foldl (fun n v => max n v.passed) 0
  | .head l => l.passed

/-- The priority class of a queue (R248). -/
def classOfQueue (q : Fin 32) : Nat := q.val / 8

/-- It has been passed 16 times. -/
def Item.urgent (i : Item) : Bool := decide (16 ≤ i.passed)

/-- The head of a queue: its oldest launch with iterations to place or, with none at all, to complete. -/
def State.headOf (s : State) (q : Fin 32) : Option Launch :=
  s.sch.launches.find? fun l => l.queue == q && (match l.state with
    | .ending _ => false
    | _ => decide (l.next < l.count) || decide (l.count = 0))

/-- Heads whose predecessors have completed begin placing. -/
def State.promote (s : State) : State :=
  (List.finRange 32).foldl (fun s q =>
    match s.headOf q with
    | some l => if l.preds = [] ∧ l.state = .queued ∧ l.count ≠ 0 then s.onLaunch l.lid fun x => { x with state := .running } else s
    | none => s) s

/-- A saved task that awaits a core. -/
def State.awaits (s : State) (v : Saved) : Bool :=
  v.ready && !v.placed && !(v.gang && (s.cores.toList.any fun k => match k.task with
    | some t => t.lid == v.lid && decide (t.ordinal / 4 = v.ordinal / 4) && !k.restoring
    | none => false))

/-- The members of a saved task's unit. -/
def State.unitOf (s : State) (v : Saved) : List Saved :=
  if v.gang then s.sch.saved.filter fun u => u.lid == v.lid && decide (u.ordinal / 4 = v.ordinal / 4) && !u.placed else [v]

/-- The saved tasks of a launch that are placeable but perhaps for want of a core: no member of the unit is held. -/
def State.waiting (s : State) (lid : BitVec 16) : List Saved :=
  s.sch.saved.filter fun v => v.lid == lid && s.awaits v && (s.unitOf v).all fun u => u.ready

/-- The saved units of a queue that are served next, oldest launch first: of each launch the one of the lowest ordinal. -/
def State.savedItems (s : State) (q : Fin 32) : List Item :=
  s.sch.launches.filterMap fun l =>
    if l.queue ≠ q then none
    else
      let vs := s.waiting l.lid
      match vs with
      | [] => none
      | v :: rest =>
        let w := rest.foldl (fun a b => if b.ordinal < a.ordinal then b else a) v
        if (s.slotOf l.ctx).isSome then some (.saved q (s.unitOf w)) else none

/-- The head of a queue, where it is placeable but perhaps for want of a core. -/
def State.headItem (s : State) (q : Fin 32) : Option Item :=
  match s.headOf q with
  | none => none
  | some l =>
    if l.state = .running ∧ l.preds = [] ∧ l.next < l.count ∧ (s.slotOf l.ctx).isSome ∧
        s.waiting l.lid = [] then some (.head l) else none

/-- An item placed. -/
def State.placeItem (s : State) (choice : Nat) : Item → Option State
  | .saved q vs => s.placeSavedUnit q vs choice
  | .head l => s.placeNext l choice

/-- The queues of a class, from its pointer on. -/
def State.turnOrder (s : State) (c : Nat) : List (Fin 32) :=
  (List.range 8).map fun i => Fin.ofNat 32 (8 * c + ((vget s.sch.pointer (Fin.ofNat 4 c)) + i) % 8)

/-- An item has been passed once more. -/
def State.pass (s : State) : Item → State
  | .saved _ vs =>
    { s with sch := { s.sch with saved := s.sch.saved.map fun v => if vs.any fun u => u.slotN = v.slotN then { v with passed := v.passed + 1 } else v } }
  | .head l => s.onLaunch l.lid fun x => { x with passed := x.passed + 1 }

/-- Everything that waits. -/
def State.items (s : State) : List Item := (List.finRange 32).flatMap s.savedItems ++ (List.finRange 32).filterMap s.headItem

/-- The state after an item of queue q was placed: its class's pointer moves past q, and the items that found no core are passed. -/
def State.placedFor (s t : State) (q : Fin 32) : State :=
  let c := classOfQueue q
  let left := s.items.filter fun i => decide (classOfQueue i.queue ≤ c) && decide (i.queue ≠ q) && (s.placeItem 0 i).isNone
  let t := left.foldl State.pass t
  { t with sch := { t.sch with pointer := vset t.sch.pointer (Fin.ofNat 4 c) ((q.val + 1) % 8) } }

/-- The first item of a list that can be placed is. -/
def State.serve (s : State) (choice : Nat) : List Item → Option State
  | [] => none
  | i :: rest =>
    match s.placeItem choice i with
    | some t => some (s.placedFor t i.queue)
    | none => s.serve choice rest

/-- What serving a class comes to. -/
inductive Served where
  | placed (s : State)
  /-- An urgent item holds back this class and every lower one. -/
  | blocked
  | nothing

/-- One class served (R251). -/
def State.serveClass (s : State) (c choice : Nat) : Served :=
  let order := s.turnOrder c
  let saved := order.flatMap s.savedItems
  let heads := order.filterMap s.headItem
  let urgent := (saved ++ heads).filter Item.urgent
  if urgent.isEmpty then
    (match s.serve choice (saved ++ heads) with
    | some t => .placed t
    | none => .nothing)
  else
    match s.serve choice urgent with
    | some t => .placed t
    | none => .blocked

/-! Pre-emption by class 0 (R257). -/

/-- The task of a core may be pre-empted by the walker. -/
def Core.weak (k : Core) : Bool := match k.task with | some t => decide (1 ≤ classOfQueue t.queue) | none => false

/-- What a task brings with it when it is pre-empted: its gang, or its CORES launch. -/
def State.brings (s : State) (k : Fin 768) : List (Fin 768) :=
  match (s.core k).task with
  | none => []
  | some t =>
    if bit t.flags 2 then (List.finRange 768).filter fun c => (s.core c).runs t.lid
    else if bit t.flags 1 then (quadCores (quadOf k)).filter fun c => (s.core c).runs t.lid
    else [k]

/-- The ranking of a task among those that may be pre-empted: the larger, the earlier. -/
def Core.rank (k : Core) : Nat := match k.task with | some t => classOfQueue t.queue * 2 ^ 64 + t.start | none => 0

/-- Numbers in falling order. -/
def insertDown (n : Nat) : List Nat → List Nat
  | [] => [n]
  | m :: ms => if m < n then n :: m :: ms else m :: insertDown n ms

/-- The first list is the larger at the first place where they differ. -/
def lexAbove : List Nat → List Nat → Bool
  | a :: as, b :: bs => decide (b < a) || (decide (a = b) && lexAbove as bs)
  | _ :: _, [] => true
  | [], _ => false

/-- The tasks of a set that do not leave yet. -/
def State.staying (s : State) (ks : List (Fin 768)) : List (Fin 768) := ks.filter fun k => !s.saveWanted k && (s.core k).term.isNone

/-- The better of two sets: fewer tasks still to leave; then the one whose tasks rank earliest. -/
def State.betterSet (s : State) (a b : List (Fin 768)) : Bool :=
  let x := s.staying a; let y := s.staying b
  let r (l : List (Fin 768)) : List Nat := l.foldl (fun m k => insertDown (s.core k).rank m) []
  decide (x.length < y.length) || (decide (x.length = y.length) && lexAbove (r x) (r y))

/-- The best of a list of sets. -/
def State.bestSet (s : State) : List (List (Fin 768)) → Option (List (Fin 768))
  | [] => none
  | a :: rest => some (rest.foldl (fun a b => if s.betterSet b a then b else a) a)

/-- The tasks that must leave a quad for a launch, with what they bring; none where one of them may not be pre-empted. -/
def State.quadSet (s : State) (l : Launch) (u : Fin 192) : Option (List (Fin 768)) :=
  let ks := (quadCores u).filter fun k => (s.core k).busy && !(s.core k).runs l.lid
  let all := (ks.flatMap s.brings).eraseDups
  if all.all fun k => (s.core k).weak then some all else none

/-- The quad could serve the next unit of a launch if other launches left it. -/
def State.quadServes (s : State) (l : Launch) (u : Fin 192) : Bool :=
  s.dieOk l l.next (dieOf (Fin.ofNat 768 (4 * u.val))) && s.quadAllowed l.queue u &&
    (if l.gang then s.quadWhole u && (quadCores u).all fun k => !(s.core k).runs l.lid
     else (quadCores u).any fun k => !s.fenced k && !(s.core k).runs l.lid)

/-- Sets of tasks, by their groups, whose leaving makes a CORES launch placeable. -/
def State.coresSets (s : State) (l : Launch) : List (List (Fin 768)) :=
  let groups := ((((List.finRange 768).filter fun k => (s.core k).weak).map s.brings).filter fun g => g.all fun k => (s.core k).weak).eraseDups
  let without (ks : List (Fin 768)) : State := ks.foldl (fun t k => (t.onCore k fun _ => Core.reset).leaveQuad (quadOf k)) s
  (groups.sublists.map fun g => g.flatten.eraseDups).filter fun ks => ((without ks).placeNext l 0).isSome

/-- Saves requested so that a class-0 head becomes placeable; none where nothing is to be asked. -/
def State.preemptFor (s : State) (l : Launch) : Option State :=
  let sets := if l.coRes then s.coresSets l
    else ((List.finRange 192).filter fun u => s.quadServes l u).filterMap fun u => s.quadSet l u
  match s.bestSet sets with
  | none => none
  | some ks =>
    let go := s.staying ks
    if go = [] then none else some (go.foldl (fun s k => s.requestSave k 1) s)

/-- Pre-emption for the first class-0 head that finds no core. -/
def State.preempt (s : State) : Option State :=
  ((s.turnOrder 0).filterMap s.headItem).findSome? fun i =>
    match i with
    | .head l => if (s.placeNext l 0).isSome then none else s.preemptFor l
    | .saved _ _ => none

/-- The classes served in order. -/
def State.serveClasses (s : State) (choice : Nat) : List Nat → Option State
  | [] => none
  | c :: cs =>
    match s.serveClass c choice with
    | .placed t => some t
    | .blocked => if c = 0 then s.preempt else none
    | .nothing =>
      match (if c = 0 then s.preempt else none) with
      | some t => some t
      | none => s.serveClasses choice cs

/-- `WALKER_PLACE` (R251): heads begin placing, lost capacity ends launches (R255), and one unit is placed or pre-emption asked
for. -/
def execWalkerPlace (choice : Nat) (s : State) : Out :=
  let s := s.promote.capCheck
  match s.serveClasses choice [0, 1, 2, 3] with
  | some t => .next { t with report := .issued }
  | none => .next { s with report := .idle }

end Sys2Proof.Machine
end

