-- ==== Sys2Proof/Machine/Sched.lean ====
section
/-! DEFINITION. The end of tasks and launches, saves and restores (09 R240 to R242, 10 R264, R265, 13 R318, 15 R350 to R356). -/

namespace Sys2Proof.Machine

/-- An event that is not enabled changes nothing. -/
def State.idleOut (s : State) : Out := .next { s with report := .idle }

/-- An event whose effect is given where it is enabled. -/
def State.event (s : State) (r : Option State) : Out :=
  match r with
  | some t => .next { t with report := .issued }
  | none => s.idleOut

/-! The exit status word (R241). -/

/-- The exit status word of a core that retires (R241). -/
def Core.exitWord (k : Core) (e : ExitSeq) : Word :=
  let t := k.st
  BitVec.ofNat 64 (min e.canc 255 * 2 ^ 48 + bits k.rg.aflags 0 4 * 2 ^ 44 + e.impl.toNat * 2 ^ 43 + e.live.toNat * 2 ^ 40 +
    t.fq.length * 2 ^ 35 + t.qca.length * 2 ^ 24 + t.qac.length * 2 ^ 18 + t.qva.length * 2 ^ 12 + t.qam.length * 2 ^ 6 + t.qav.length)

/-- The task of a core retires with its status word (R241 steps 4 to 6). -/
def State.retireTask (s : State) (k : Fin 768) (t : Task) (e : ExitSeq) : State :=
  let w := (s.core k).exitWord e
  let s := match s.launch? t.lid with
    | some l => s.writeTaskWord l t.slot t.ordinal w
    | none => s
  (s.onLaunch t.lid fun l => { l with retired := l.retired + 1, orstat := l.orstat ||| w }).leaveCore k

/-! The exit sequence (R241, R242). -/

/-- A consumer of a data queue that may still make room in it. -/
def Core.drains (k : Core) (q : BitVec 1) : Bool :=
  if q = 0 then k.en.forms.any fun f => match f.i with
    | .vqpop .. => true
    | _ => false
  else k.en.mq.any fun c => match c.i with
    | .tqld .. => true
    | _ => false

/-- A `VQPUSH` of the core has not entered its queue yet. -/
def Core.pushes (k : Core) : Bool :=
  k.en.forms.any fun f => match f.i with
    | .vqpush .. => true
    | _ => false

/-- A channel's oldest command waits for queue room or for entries that nothing can bring any more (R241 step 2). -/
def Core.stuckChan (k : Core) (c : ChCmd) : Bool :=
  match c.i with
  | .qsend _ _ _ q => !c.started && decide (32 ≤ (if q = 0 then k.st.qav.length else k.st.qam.length)) && !k.drains q
  | .qrecv .. => !c.started && k.st.qva.isEmpty && !k.pushes
  | .seqrunGather .. => decide (0 < c.pops) && decide (c.rows.length < recTile c.shape 1) && k.st.qca.isEmpty
  | _ => false

/-- A `QSEND` to QAM is unfinished. -/
def Core.feedsQam (k : Core) : Bool :=
  k.en.chans.toList.any fun ch => ch.cmds.any fun d => match d.i with
    | .qsend _ _ _ q => q == 1
    | _ => false

/-- The oldest matrix command waits for QAM entries that nothing can bring any more. -/
def Core.stuckMatrix (k : Core) : Bool :=
  match k.en.mq with
  | c :: _ => (match c.i with
    | .tqld .. => decide (k.st.qam.length < shRows c.shA) && !k.feedsQam
    | _ => false)
  | [] => false

/-- A channel without its stuck oldest command. -/
def Core.cancelChan (k : Core) (ch : Fin 8) : Core :=
  match (vget k.en.chans ch).cmds with
  | c :: rest =>
    if k.stuckChan c then
      { (k.onChan ch fun x => { x with cmds := rest }) with
        st := k.st.unreserve .a (longOf c.w1.toNat).post
        exit := k.exit.map fun e => { e with canc := e.canc + 1 } }
    else k
  | [] => k

/-- The stuck oldest matrix command cancelled. -/
def Core.cancelMatrix (k : Core) : Core :=
  match k.en.mq with
  | c :: rest =>
    if k.stuckMatrix then
      { k with en := { k.en with mq := rest }, st := k.st.unreserve .m (longOf c.w1.toNat).post
               exit := k.exit.map fun e => { e with canc := e.canc + 1 } }
    else k
  | [] => k

/-- Something is stuck. -/
def Core.stuck (k : Core) : Bool :=
  k.stuckMatrix || k.en.chans.toList.any fun ch => match ch.cmds with
    | c :: _ => k.stuckChan c
    | [] => false

/-- Every stuck oldest command cancelled. -/
def Core.cancelStuck (k : Core) : Core := (List.finRange 8).foldl Core.cancelChan k.cancelMatrix

/-- Every issued command of the engines has finished, but for those that are stuck. -/
def Core.settled (k : Core) : Bool :=
  k.en.mrun.isEmpty && k.en.mc.isEmpty && (k.en.mq.isEmpty || k.stuckMatrix) &&
    k.en.chans.toList.all fun ch => ch.flight.isNone && match ch.cmds with
      | c :: _ => k.stuckChan c
      | [] => true

/-- Data-queue entries and format words left. -/
def Core.residue (k : Core) : Bool :=
  let t := k.st
  !(t.qav.isEmpty && t.qam.isEmpty && t.qva.isEmpty && t.qac.isEmpty && t.qca.isEmpty && t.fq.isEmpty)

/-- The words of the `EXIT` in the bundle the control cluster stands at; zero for an implicit exit. -/
def State.exitInfo (s : State) (k : Fin 768) : Word :=
  match ({ s with cur := { core := k, clu := .c }, latch := none } : State).nextBundle with
  | .ok (_, f) =>
    (match decodeBundle .c f with
    | .ok ps => (match ps.find? fun p => p.i == .exit with
      | some p => BitVec.ofNat 64 (p.w0 * 2 ^ 32)
      | none => 0)
    | .error _ => 0)
  | .error _ => 0

/-- An issued vector long form of the core can still finish (R240, R241 step 3). -/
def State.formsReady (s : State) (k : Fin 768) : Bool :=
  allClusters.any fun x => (({ s with cur := { core := k, clu := x }, latch := none } : State).finishForm 0).isSome

/-- A cluster of a core is in a handler that has not ended: the exit sequence waits for its return. -/
def Core.handling (k : Core) (x : Clu) : Bool := (k.clu x).inh && !(k.clu x).ended

/-- One step of an exit sequence: stuck commands are cancelled, a residue under DET faults, or the task retires. -/
def State.exitStep (s : State) (k : Fin 768) (t : Task) (e : ExitSeq) : Option State :=
  let c := s.core k
  if !c.pend.isEmpty || c.restoring || c.en.emul.isSome || c.handling .a || c.handling .v || c.handling .m then none
  else if bit t.flags 0 then
    if !c.settled || s.formsReady k then none
    else if e.live ≠ 0 || c.stuck || c.residue then
      some (s.deliver k .c { clu := .c, cause := 0x18, detail := 0, async := false, addr := 0, info := s.exitInfo k } (s.pcOf k .c))
    else some (s.retireTask k t e)
  else if c.stuck then some (s.onCore k Core.cancelStuck)
  else if c.settled && !s.formsReady k then some (s.retireTask k t e)
  else none

/-! Termination (R350). -/

/-- The task of a core is gone: its word, its launch's record of it. -/
def State.terminateTask (s : State) (k : Fin 768) (t : Task) (r : TermRec) : State :=
  let s := match s.launch? t.lid with
    | some l => s.writeTaskWord l t.slot t.ordinal 0xFFFF_FFFF_FFFF_FFFF
    | none => s
  let s := { s with sch := { s.sch with saved := s.sch.saved.filter fun v => !(v.placed && v.lid == t.lid && v.ordinal == t.ordinal) } }
  (s.onLaunch t.lid fun l => l.taskDied t.ordinal r.cause).leaveCore k

/-- A termination completes once started matrix commands have their verdicts and pieces on their way have arrived; after
cause 0x20 the locket writes nothing. -/
def State.endTerm (s : State) (k : Fin 768) (t : Task) (r : TermRec) : Option State :=
  let c := s.core k
  if (c.en.mrun.isEmpty || r.corrupt) && c.en.mc.isEmpty && c.en.chans.toList.all fun ch => ch.flight.isNone then
    some (s.terminateTask k t r)
  else none

/-- `TASK_RETIRE` (R241, R350): not while the core's island is stopped or gated (R381, R393). -/
def execTaskRetire (core : Fin 768) (s : State) : Out :=
  let c := s.core core
  let r := match (if s.running core then c.task else none), c.term, c.exit with
    | some t, some r, _ => s.endTerm core t r
    | some t, none, some e => s.exitStep core t e
    | _, _, _ => none
  match r with
  | some t => .next { t with report := .issued }
  | none => .next { s with report := .idle }

/-! Saves (R351 to R354). -/

/-- Offsets from o on, n words of 8 bytes. -/
def offsetsFrom (o : Nat) : Nat → List Nat
  | 0 => []
  | n + 1 => o :: offsetsFrom (o + 8) n

/-- The offsets of the image that a save of a task writes: the parts before the buffers, and the footprints. -/
def imageOffsets (t : Task) : List Nat :=
  offsetsFrom 0 (0x20000 / 8) ++ offsetsFrom 0x20000 (t.footW / 8) ++ offsetsFrom 0x80000 (t.footA / 8) ++
    offsetsFrom 0xC0000 (t.footC / 8) ++ offsetsFrom 0xF0000 (t.footS / 8) ++ offsetsFrom 0xF4000 0x100

/-- The address of a word of a save slot (R353). -/
def State.slotAddr (s : State) (n o : Nat) : Word := s.dev 0xC50 + BitVec.ofNat 64 (n * 2 ^ 20 + o)

/-- A word of a core's image written into its save slot, where it has one; a word that does not translate to a writable page of context 0
goes nowhere (notes/assumptions/86.md). A poisoned word of a typed buffer is written as it stands, and stays poisoned in the saved
core (DESIGN CHOICE, notes/assumptions/113.md). -/
def State.putImageWord (s : State) (k : Fin 768) (n reason : Nat) (t : State) (o : Nat) : State :=
  match s.imgWord k reason o with
  | none => t
  | some x => (t.writeRange 0 (s.slotAddr n o) (leBytes x 8)).getD t

/-- The image of a core written into a save slot. -/
def State.writeImage (s : State) (k : Fin 768) (n reason : Nat) (t : State) (os : List Nat) : State :=
  os.foldl (s.putImageWord k n reason) t

/-- The first free save slot. -/
def State.freeSlot (s : State) : Option Nat :=
  (List.range (s.dev 0xC51).toNat).find? fun n => !(s.sch.saved.any fun v => v.slotN == n)

/-- Boundary traps whose disposition is save stand for the save itself (R356). -/
def State.savePend (s : State) (k : Fin 768) : List (Clu × Trap) :=
  (s.core k).pend.filter fun e => decide (s.disposition e.2.cause = .save)

/-- Matrix commands of a core settle for a save: under the group-stop mode the one that both engines compute stops at a boundary that
the draw d picks. -/
def State.settleMatrix (s : State) (k : Fin 768) (d : Nat) (upsetP upsetS upsetA : Upset) : State :=
  match splitRun (fun r => r.phase == .uncompared) (s.core k).en.mrun with
  | some (_, r, _) =>
    let span := groupCount r.cmd.fmt - r.cmd.groups - 1
    if span = 0 then s
    else ({ s with cur := { core := k, clu := .m }, latch := none } : State).groupStop (r.cmd.groups + 1 + d % span) upsetP upsetS upsetA
  | none => s

/-- A task may be saved: no cluster is in its handler, started work is done, nothing is on its way. -/
def State.saveReady (s : State) (k : Fin 768) : Bool :=
  let c := s.core k
  c.task.isSome && c.term.isNone && !c.restoring && s.saveWanted k && s.running k &&
    (allClusters.all fun x => !(c.clu x).inh) && c.en.mrun.isEmpty && c.en.mc.isEmpty &&
    (c.en.chans.toList.all fun ch => ch.flight.isNone) &&
    !((quadCores (quadOf k)).any fun q => (s.core q).en.mc.any fun w => w.receiver == k)

/-- The cores that are saved together with a core: its gang, or itself. -/
def State.savedWith (s : State) (k : Fin 768) : List (Fin 768) :=
  match (s.core k).task with
  | some t => if bit t.flags 1 then (quadCores (quadOf k)).filter fun c => (s.core c).runs t.lid else [k]
  | none => []

/-- One task saved into a free slot; the clasps are those of its gang's quad. -/
def State.saveOne (s : State) (k : Fin 768) : Option State :=
  match (s.core k).task, s.freeSlot with
  | some t, some n =>
    let held := !(s.savePend k).isEmpty
    let s := (s.onCore k fun c => { c with pend := c.pend.filter fun e => decide (s.disposition e.2.cause ≠ .save) }).settlePcs k
    let c := s.core k
    let reason := match c.save with
      | some r => r.reason
      | none => 5
    let u := s.writeImage k n reason s (imageOffsets t)
    let v : Saved :=
      { slotN := n, core := { c with save := none }, lid := t.lid, queue := t.queue, reason := reason,
        ready := decide (reason ≠ 4) && !held, byDisposition := decide (reason = 4) || held, placed := false, from_ := k,
        clasps := if bit t.flags 1 then some (vget s.quads (quadOf k)).clasps else none,
        carried := if bit t.flags 1 then (vget s.quads (quadOf k)).carried else [], passed := 0 }
    some { u with sch := { u.sch with saved := u.sch.saved ++ [v] } }
  | _, _ => none

/-- The tasks of a list of cores saved, all or none. -/
def State.saveAll (s : State) : List (Fin 768) → Option State
  | [] => some s
  | k :: ks => (s.saveOne k).bind fun t => t.saveAll ks

/-- `SAVE_COMPLETE` (R351): a gang is saved as a whole. The upsets fall on the group stop of the named core; operand corruption there
terminates the task instead (R329, R356). -/
def execSaveComplete (on : Stopping) (s : State) : Out :=
  let d := s.draw
  let ks := s.savedWith on.core
  let t := ks.foldl (fun t k =>
    if !t.saveWanted k then t
    else if k = on.core then t.settleMatrix k d.1.toNat on.upsetP on.upsetS on.upsetA
    else t.settleMatrix k d.1.toNat [] [] []) d.2
  if ks.any fun k => (s.core k).term.isNone && (t.core k).term.isSome then .next { t with report := .trapped }
  else if ks = [] ∨ !(ks.all t.saveReady) then .next { s with report := .idle }
  else
    match t.saveAll ks with
    | none => .next { s with report := .idle }
    | some u => .next { ks.foldl State.leaveCore u with report := .issued }

/-! Restores (R355, R318). -/

/-- Bytes of a die's replica are lost in part (11 R284). -/
def State.replicaLost (s : State) (t : RegionTable) (d : Fin 8) (o n : Nat) : Bool :=
  (piecesOf o n).any fun p => s.ms.poison.contains (t.place d (p.1 * 64 + p.2.1) / 64)

/-- Bytes of storage joined into a die's replica, cell by cell (R313, R316); a cell whose content is lost there stays lost
(notes/assumptions/115.md). -/
def State.absorbCells (s : State) (t : RegionTable) (r : Region) (d : Fin 8) (o : Nat) (bs : List Byte) : Nat → State
  | 0 => s
  | n + 1 =>
    let z := cellStorage r.type
    let old := s.latBytes t d o z
    let new := joinCell r.type old (bs.take z)
    let s := if new = old ∨ s.replicaLost t d o z then s else s.latPut t r d o new
    s.absorbCells t r d (o + z) (bs.drop z) n

/-- The catch-up of a context's replicas on a die with those of another. -/
def State.catchUp (s : State) (ctx : BitVec 12) (a b : Fin 8) : State :=
  match (if a = b then none else s.tableOf ctx) with
  | none => s
  | some t =>
    let s := t.regions.foldl (fun s r => s.absorbCells t r b r.roff (s.latBytes t a r.roff r.bytes) (r.bytes / cellStorage r.type)) s
    let mine := s.lat.clocks.filter fun e => e.1.1 == ctx.toNat && e.1.2.1 == a.val
    { s with lat := mine.foldl (fun l e => l.absorb (ctx.toNat, b.val, e.1.2.2) e.2) s.lat }

/-- The catch-up of a context's replicas on a die with those of another reads a content that is lost (11 R284). -/
def State.catchUpLost (s : State) (ctx : BitVec 12) (a b : Fin 8) : Bool :=
  match (if a = b then none else s.tableOf ctx) with
  | none => false
  | some t => t.regions.any fun r => s.replicaLost t a r.roff r.bytes || s.replicaLost t b r.roff r.bytes

/-- A word of a save slot; a free value where it cannot be read (notes/assumptions/86.md). -/
def State.slotWord (s : State) (n o : Nat) : Nat :=
  match s.readRange 0 0 (s.slotAddr n o) 8 with
  | .ok bs => leNat bs
  | .error _ => (Config.slotWord n o s.cadence.toNat).toNat

/-- The content of a word of a save slot is lost (11 R284). -/
def State.slotLost (s : State) (n o : Nat) : Bool :=
  match s.readRange 0 0 (s.slotAddr n o) 8 with
  | .ok _ => false
  | .error (c, _, _) => c == 0x21

/-- A word of a save slot read back into a core, where the core has one. -/
def State.getImageWord (s : State) (n : Nat) (c : Core) (o : Nat) : Core := if (c.img o).isNone then c else c.imgPut o (s.slotWord n o)

/-- The image of a save slot read back into a core. -/
def State.readImage (s : State) (n : Nat) (c : Core) (os : List Nat) : Core := os.foldl (s.getImageWord n) c

/-- The clasps read back from the slot of QPOS 0. -/
def State.readClasps (s : State) (n : Nat) (k : Fin 768) (os : List Nat) : State := os.foldl (fun t o => t.imgPutClasp k o (s.slotWord n o)) s

/-- The trap that four words of a pending trap record stand for, with the cluster it goes to (R346, R354). -/
def trapOfRecord (cause addr info clu : Nat) : Clu × Trap :=
  (cluOf clu, { clu := cluOf (cause / 2 ^ 28), cause := cause % 256, detail := cause / 2 ^ 24 % 16, async := decide (cause / 2 ^ 15 % 2 = 1)
                addr := BitVec.ofNat 64 addr, info := BitVec.ofNat 64 info })

/-- The pending traps of a saved task as its slot records the first of them (R354 to R356). -/
def State.slotPend (s : State) (n : Nat) (l : List (Clu × Trap)) : List (Clu × Trap) :=
  if s.slotWord n 0x28 / 256 % 2 = 1 then
    trapOfRecord (s.slotWord n 0x30) (s.slotWord n 0x38) (s.slotWord n 0x40) (s.slotWord n 0x48) :: l.drop 1
  else l.drop 1

/-- The saved record of the task a core restores. -/
def State.recordOf (s : State) (k : Fin 768) : Option (Task × Saved) :=
  match (s.core k).task with
  | none => none
  | some t => (s.sch.saved.find? fun v => v.placed && v.lid == t.lid && v.ordinal == t.ordinal).map fun v => (t, v)

/-- The core as issue begins: the granted level stands, no cluster is halted, the stopped matrix command goes on, channels resume
but for one whose trap is still to be delivered. -/
def Core.begin (c : Core) (level : BitVec 8) (upsetP upsetS : Upset) : Core :=
  let c := { c with rg := { c.rg with pwrlvl := level }, cl := vmap (fun (u : Cluster) => { u with halted := false }) c.cl, restoring := false }
  let c := (c.resumeGroups upsetP upsetS).resumeChans
  { c with en := { c.en with lockPut := if c.en.emul.isSome then c.en.lockPut else none } }

/-- The pending traps of a core delivered in order (R355 step 5); those of a cluster that the first of them has put into its handler wait
for the return. -/
def State.deliverPend (s : State) (k : Fin 768) : State :=
  let l := (s.core k).pend
  let s := s.onCore k fun c => { c with pend := [] }
  l.foldl (fun s e =>
    if ((s.core k).clu e.1).inh then s.onCore k fun c => { c with pend := c.pend ++ [e] } else s.deliver k e.1 e.2 (s.pcOf k e.1)) s

/-- The lines of a recorded matrix command translated again, where they still translate (R355, R361). -/
def State.replaced (s : State) (slot : Nat) (c : MCmd) : MCmd :=
  { c with places := c.places.map fun p =>
      match s.translate slot p.tag.2.1 (p.tag.2.2 * 65536 + p.addr % 65536) false with
      | .ok q => q
      | .error _ => p }

/-- The tasks that begin issue together with a core's: its gang, or itself (R258, R355). -/
def State.restoredWith (s : State) (k : Fin 768) : List (Fin 768) :=
  match (s.core k).task with
  | some t => if bit t.flags 1 then (quadCores (quadOf k)).filter fun c => (s.core c).runs t.lid && (s.core c).restoring else [k]
  | none => []

/-- The offsets of a save slot that a restore reads back into a core. -/
def restoreOffsets (t : Task) : List Nat := (imageOffsets t).filter fun o => decide (0x200 ≤ o) && decide (o < 0xF4000)

/-- A restore reads a content that is lost: a word of its slot, or a replica in its catch-up (11 R284). -/
def State.restoreLost (s : State) (core : Fin 768) (t : Task) (v : Saved) : Bool :=
  s.catchUpLost t.ctx (dieOf v.from_) (dieOf core) ||
    (offsetsFrom 0x28 5 ++ (restoreOffsets t).filter (fun o => ((s.core core).img o).isSome) ++
      if (s.core core).keepsClasps core then offsetsFrom 0xF4000 0x100 else []).any (s.slotLost v.slotN)

/-- One task's state read back, its die's replicas brought up to date, its slot freed. One that reads a lost content meets the memory-error
machine check on the restoring core (11 R284; notes/assumptions/115.md). -/
def State.restoreOne (s : State) (core : Fin 768) (upsetP upsetS : Upset) (t : Task) (v : Saved) : State :=
  let c := s.core core
  let d := s.readImage v.slotN c (restoreOffsets t)
  let d := { d with en := { d.en with mq := d.en.mq.map (s.replaced t.slot), emul := d.en.emul.map (s.replaced t.slot) }
                    pend := s.slotPend v.slotN d.pend }
  let u := s.setCore core (d.begin c.rg.pwrlvl upsetP upsetS)
  let u := if d.keepsClasps core then u.readClasps v.slotN core (offsetsFrom 0xF4000 0x100) else u
  let u := u.catchUp t.ctx (dieOf v.from_) (dieOf core)
  let u := { u with sch := { u.sch with saved := u.sch.saved.filter fun x => x.slotN != v.slotN } }
  if s.restoreLost core t v then u.machineCheck core .c 0x21 0 else u.deliverPend core

/-- The tasks of a list of cores restored, all or none; the upsets fall on the named core's resumed command. -/
def State.restoreAll (s : State) (named : Fin 768) (upsetP upsetS : Upset) : List (Fin 768) → Option State
  | [] => some s
  | k :: ks =>
    match s.recordOf k with
    | none => none
    | some (t, v) =>
      let up (u : Upset) : Upset := if k = named then u else []
      (s.restoreOne k (up upsetP) (up upsetS) t v).restoreAll named upsetP upsetS ks

/-- `RESTORE_ISSUE_START` (R355), while the core's island runs: the state is read back, the die's replicas catch up, the slot is freed; no task of a gang issues
before all of it is restored (R258). -/
def execRestoreIssueStart (on : Struck) (s : State) : Out :=
  let ks := s.restoredWith on.core
  let due (k : Fin 768) : Bool := (s.core k).restoring && !s.restoreWaits k && (s.core k).term.isNone && s.running k
  match (if ks ≠ [] ∧ ks.all due then s.restoreAll on.core on.upsetP on.upsetS ks else none) with
  | none => .next { s with report := .idle }
  | some t => .next { t with report := .issued }

/-! Launch completion (R265). -/

/-- The outcome code of a launch all of whose ordinals have settled. -/
def Launch.outcome (l : Launch) : Nat := match l.state with | .ending c => c | _ => 1

/-- Every ordinal of a launch has settled: retired, terminated, or left unplaced. -/
def State.launchSettled (s : State) (l : Launch) : Bool :=
  !(s.cores.toList.any fun k => k.runs l.lid) && !(s.sch.saved.any fun v => v.lid == l.lid) &&
    match l.state with
    | .ending _ => true
    | .running => decide (l.next = l.count)
    | .queued => decide (l.count = 0) && decide (l.preds = []) && decide ((s.headOf l.queue).map (·.lid) = some l.lid)

/-- Bytes 8 to 63 of the status area, then bytes 0 to 7. -/
def Launch.statusBytes (l : Launch) : List Byte :=
  leBytes l.orstat.toNat 8 ++ leBytes (match l.first with
    | some o => 2 ^ 63 + o
    | none => 0) 8 ++ leBytes l.fcause.toNat 8 ++ leBytes l.dropped 8 ++ leBytes 0 24

/-- The status area written, OUTCOME last, and the place of OUTCOME kept for those who load it (12 R293); none where the area does not
translate. -/
def State.writeStatus (s : State) (l : Launch) (w : Word) : Option State :=
  match s.slotOf l.ctx with
  | none => none
  | some slot =>
    ((s.writeRange slot (l.status + 8) l.statusBytes).bind fun t => t.writeRange slot l.status (leBytes w.toNat 8)).map fun t =>
      match s.reach slot l.status true with
      | .ok p => { t with ms := { t.ms with outcomes := p.addr :: t.ms.outcomes.filter (· != p.addr) } }
      | .error _ => t

/-- What a completed predecessor means to a launch (R250). -/
def Launch.predDone (l : Launch) (p : BitVec 16) (ok : Bool) : Launch :=
  if !l.preds.contains p then l
  else
    let l := { l with preds := l.preds.filter (· != p) }
    if ok then l
    else match l.state with
      | .queued => { l with state := .ending 3, next := l.count }
      | _ => l

/-- A launch completes: status, outcome, history, successors, bring-up. -/
def State.complete (s : State) (l : Launch) : State :=
  let code := l.outcome
  let w : Word := BitVec.ofNat 64 (code * 2 ^ 56 + l.retired % 2 ^ 48)
  let r : State × Word :=
    if l.status = 0 then (s, w)
    else match s.writeStatus l w with
      | some t => (t, w)
      | none => (s, w ||| BitVec.ofNat 64 (2 ^ 48))
  let s := r.1
  let boot := decide (s.plat.bootLid = some l.lid)
  { s with
    sch := { s.sch with
      launches := ((s.sch.launches.filter fun x => x.lid != l.lid).map fun x => x.predDone l.lid (code == 1))
      history := ((l.lid, l.ctx, r.2) :: s.sch.history).take 1024 }
    plat := if boot then { s.plat with bootLid := none, bootPhase := if code = 1 then 4 else 5 } else s.plat }

/-- `LAUNCH_COMPLETE` (R265). -/
def execLaunchComplete (lid : BitVec 16) (s : State) : Out :=
  match s.launch? lid with
  | none => .next { s with report := .idle }
  | some l => if s.launchSettled l then .next { s.complete l with report := .issued } else .next { s with report := .idle }

end Sys2Proof.Machine
end

