-- ==== Sys2Proof/Machine/HostEvents.lean ====
section
/-! DEFINITION. What the host, peer chips and the outside attachments do (11 R286, 16 R385 to R391, 17 R400, R401). -/

namespace Sys2Proof.Machine

/-! Accesses from outside, performed at the home slice (R386, R387, R389). -/

/-- The outcome of an outside access: performed with what it returns, or answered with an error completion. -/
inductive Outside where
  | performed (s : State) (data : List Byte)
  /-- A write to a frame of lattice memory. -/
  | lattice
  | error
  /-- The access waits: the line is held by the directory, or the home's uncore is stopped. -/
  | held

/-- A place that an outside access reaches through a context slot. -/
def State.outsidePlace (s : State) (slot : Nat) (a : Word) (write : Bool) : Except Outside Phys :=
  if !bit (s.dev (0xC00 + slot)) 63 then .error .error
  else
    match s.reach slot a write with
    | .error (c, _) => .error (if c = 0xB then .lattice else .error)
    | .ok p => if s.held p.home p then .error .held else .ok p

/-- n bytes of a line read from outside. -/
def State.outsideRead (s : State) (slot : Nat) (a : Word) (n : Nat) : Outside :=
  match s.outsidePlace slot a false with
  | .error e => e
  | .ok p =>
    if p.dead then .performed s (List.replicate n 0)
    else if s.ms.lost p.home p (rangeMask p.off n) then .error
    else
      let ms := if p.coherent then (s.ms.homeRead p).2 else s.ms
      .performed { s with ms := ms } (leBytes (linePart (ms.homeLine p.line p.key) p.off n) n)

/-- Bytes of a line written from outside. -/
def State.outsideWrite (s : State) (slot : Nat) (a : Word) (bs : List Byte) : Outside :=
  match s.outsidePlace slot a true with
  | .error e => e
  | .ok p => .performed (s.homePutLine p (rangeMask p.off bs.length) (placeInLine (leNat bs) p.off)) []

/-- An atomic of an outside party at its home slice, which returns the value it found (R146, R280, R306). -/
def State.outsideAtomic (s : State) (slot : Nat) (a : Word) (op : AOp) (size b cmp : Nat) : Outside :=
  match s.outsidePlace slot a true with
  | .error e => e
  | .ok p =>
    let mask := rangeMask p.off size
    if p.dead then
      match op.apply (8 * size) 0 b cmp with
      | none => .performed s (List.replicate size 0)
      | some x => .performed (s.homePutLine p mask (placeInLine x p.off)) (List.replicate size 0)
    else if s.ms.lost p.home p mask then .error
    else
      let ms := if p.coherent then s.ms.homeOwn p.line else s.ms
      let old := linePart (ms.homeLine p.line p.key) p.off size
      match op.apply (8 * size) old b cmp with
      | none => .performed { s with ms := ms } (leBytes old size)
      | some x => .performed { s with ms := ms.homeWrite p.line p.key mask (placeInLine x p.off) } (leBytes old size)

/-- The operations of an outside atomic (R146, R306): add, and, or, xor, signed and unsigned minimum and maximum, swap, compare and swap. -/
def hostOp (op : Fin 10) : AOp :=
  match op.val with
  | 0 => .add | 1 => .and | 2 => .or | 3 => .xor | 4 => .min | 5 => .max | 6 => .minn | 7 => .maxn | 8 => .swp | _ => .cas

/-- A request fits an offset: its bytes lie in one aligned 64-byte line, those of an atomic aligned to their size
(notes/assumptions/38.md). -/
def reqFits (r : HostReq) (off : Nat) : Bool :=
  match r with
  | .read n => decide (0 < n) && decide (off % 64 + n ≤ 64)
  | .write bs => decide (bs ≠ []) && decide (off % 64 + bs.length ≤ 64)
  | .atomic _ sz _ _ => decide (off % atomicSize sz = 0)

/-- A request of an outside party. Its atomic is performed at the home slice, indivisibly, where the page or the party allows it. A host
atomic on a page that is not system-atomic is a read and a write of their own (R306): the read is performed here, and the write is another
event. -/
def State.outsideReq (s : State) (slot : Nat) (a : Word) (req : HostReq) (host : Bool) : Outside :=
  match req with
  | .read n => s.outsideRead slot a n
  | .write bs => s.outsideWrite slot a bs
  | .atomic o sz x cmp =>
    let z := atomicSize sz
    match s.outsidePlace slot a true with
    | .error e => e
    | .ok p =>
      if host && decide (p.mode ≠ 2) then s.outsideRead slot a z
      else s.outsideAtomic slot a (hostOp o) z (x.toNat % 256 ^ z) (cmp.toNat % 256 ^ z)

/-- The event of an outside access, answered with a completion: an error performs nothing; a write refused at lattice memory posts event
0x3A (R383, R387). -/
def State.outsideEvent (s : State) (o : Outside) (kind src : Nat) (answer : Completion → State → State) : Out :=
  match o with
  | .performed t bs => s.event (some (answer ⟨true, bs⟩ t))
  | .lattice => s.event (some (answer ⟨false, []⟩ (s.notice 0x3A kind src 0 0)))
  | .error => s.event (some (answer ⟨false, []⟩ s))
  | .held => s.idleOut

/-- The host is answered. -/
def answerHost (c : Completion) (s : State) : State := { s with plat := { s.plat with hostDone := some c } }

/-- A peer is answered. -/
def answerPeer (c : Completion) (s : State) : State := { s with plat := { s.plat with peerDone := some c } }

/-- A byte offset in a tensor of GEN. -/
def genAddr (tid off : Nat) : Word := BitVec.ofNat 64 (tid * 2 ^ 40 + off)

/-- The open window that a host address lies in, and the offset in it (R386). -/
def State.windowAt (s : State) (a : Nat) : Option (Nat × Nat) :=
  ((List.range 8).map fun n => (n, s.hxwRange n)).findSome? fun e =>
    match e.2 with
    | some (lo, len) => if lo ≤ a ∧ a < lo + len then some (e.1, a - lo) else none
    | none => none

/-- `HOST_WINDOW_ACCESS` (R306, R386, R387): an access of the host to an address of its space, through IOW. -/
def execHostWindowAccess (addr : BitVec 64) (req : HostReq) (s : State) : Out :=
  if !reqFits req addr.toNat || s.ioStops true then s.idleOut
  else
    match s.windowAt addr.toNat with
    | none => s.outsideEvent .error 6 0 answerHost
    | some (n, x) =>
      let b := s.dev (0xE11 + 2 * n)
      if 2 ^ 40 ≤ bits b 24 24 * 65536 + x then s.outsideEvent .error 6 n answerHost
      else
        s.outsideEvent (s.outsideReq (bits (s.dev (0xE10 + 2 * n)) 56 6) (genAddr (bits b 48 16) (bits b 24 24 * 65536 + x)) req true) 6 n answerHost

/-- A peer's access to an offset of the exported window (R387, R389); the port of the request is a free value. -/
def State.peerEvent (s : State) (off : BitVec 48) (f : State → Nat → Word → Outside) : Out :=
  let e := s.dev 0xE3A
  let d := s.draw
  let port := d.1.toNat % 16
  let o : Outside :=
    if s.peerStops port then .held
    else if !bit e 63 ∨ bits e 0 24 * 65536 ≤ off.toNat ∨ 2 ^ 40 ≤ off.toNat then .error
    else f d.2 (bits e 56 6) (genAddr (bits e 40 16) off.toNat)
  match o with
  | .held => s.idleOut
  | o => d.2.outsideEvent o 5 port answerPeer

/-- `PEER_ACCESS` (R387, R389): a read, a write or an atomic of a peer. -/
def execPeerAccess (off : BitVec 48) (req : HostReq) (s : State) : Out :=
  if !reqFits req off.toNat then s.idleOut else s.peerEvent off fun t slot a => t.outsideReq slot a req false

/-- The operations of a reduction write: add, and, or, xor, signed and unsigned minimum and maximum, FP32 add (R148, R389). -/
def reductionOp (op : Fin 9) : AOp :=
  match op.val with
  | 0 => .add | 1 => .and | 2 => .or | 3 => .xor | 4 => .min | 5 => .max | 6 => .minn | 7 => .maxn | _ => .fadd

/-- What a reduction write is answered with: it returns no value. -/
def Outside.mute (o : Outside) : Outside :=
  match o with
  | .performed s _ => .performed s []
  | o => o

/-- `REDUCTION_WRITE` (R389): a relaxed atomic at device scope at the home slice. -/
def execReductionWrite (off : BitVec 48) (op : Fin 9) (sz : BitVec 1) (data : BitVec 64) (s : State) : Out :=
  let size := atomicSize sz
  if off.toNat % size ≠ 0 ∨ (op = 8 ∧ sz = 1) then s.idleOut
  else s.peerEvent off fun t slot a => (t.outsideAtomic slot a (reductionOp op) size (data.toNat % 256 ^ size) 0).mute

/-! The launch page (R388). -/

/-- A write of the host to the launch page, which IOW serves (R369, R388). -/
def State.pageEvent (s t : State) : Out := if s.ioStops true then s.idleOut else s.event (some t)

/-- The launch unit's answer to a host submission: check 1 of R247, then the others. -/
def State.submitAt (s : State) (q : Nat) (addr : Word) : Word × State :=
  let ctx := s.queueCtx q
  match s.slotOf ctx with
  | none => (2, s)
  | some slot =>
    if !pathOk addr true true then (2, s)
    else
      match s.readRange 0 slot addr 256 with
      | .error _ => (2, s)
      | .ok bs => s.accept 0 ctx slot bs none

/-- `SUBMIT` (R247, R388, R401): refused with code 2 until the device is ready. -/
def execSubmit (q : Fin 32) (addr : BitVec 64) (s : State) : Out :=
  let r : Word × State := if s.plat.bootPhase = 4 then s.submitAt q.val addr else (2, s)
  s.pageEvent { r.2 with plat := { r.2.plat with results := vset r.2.plat.results q r.1 } }

/-- HQOUT (R388): the OUTCOME word of the launch that HQLID names, from the history; 0 where it is not there. -/
def State.hqout (s : State) : Word := ((s.sch.history.find? fun h => h.1 == s.plat.hqlid).map fun h => h.2.2).getD 0

/-- `HQLID` (R388): the identifier that HQOUT looks up from now on. -/
def execHqlid (lid : BitVec 16) (s : State) : Out := s.pageEvent { s with plat := { s.plat with hqlid := lid } }

/-! The key store (R391). -/

/-- A slot of the key store written. -/
def MemSys.putKey (m : MemSys) (n : Nat) (k : KeySlot) : MemSys := { m with keys := alSet m.keys n k }

/-- A key operation on the slot that KSSLOT names (R388, R391). -/
def State.keyEvent (s : State) (slot : BitVec 10) (f : State → State) : Out := s.pageEvent (f { s with plat := { s.plat with ksslot := slot } })

/-- A valid slot that stops being valid: which translations were cached is a free value of its own (R391; notes/assumptions/43.md). -/
def State.endKey (s : State) (n : Nat) (k : KeySlot) : State :=
  { s with ms := s.ms.putKey n { k with mark := some s.free, shot := [] }, free := s.free + 1 }

/-- `KS_LOAD` (R391): KSDATA become the slot's keys. -/
def execKsLoad (slot : BitVec 10) (keys : BitVec 512) (s : State) : Out :=
  s.keyEvent slot fun s => { s with ms := s.ms.putKey slot.toNat { state := 1, key := keys }, plat := { s.plat with ksdata := keys } }

/-- `KS_INVALIDATE` (R391): no effect on a slot that is empty or invalidated. -/
def execKsInvalidate (slot : BitVec 10) (s : State) : Out :=
  let k := s.ms.keySlot slot.toNat
  s.keyEvent slot fun s => if k.state = 1 then s.endKey slot.toNat { k with state := 2 } else s

/-- `KS_ERASE` (R391). -/
def execKsErase (slot : BitVec 10) (s : State) : Out :=
  let k := s.ms.keySlot slot.toNat
  s.keyEvent slot fun s =>
    if k.state = 1 then s.endKey slot.toNat { state := 0, key := 0 }
    else { s with ms := s.ms.putKey slot.toNat { k with state := 0, key := 0 } }

/-! Ports (R389, R390). -/

/-- `UALINK_PORT_LOSS` (R389). -/
def execUalinkPortLoss (port : Fin 16) (s : State) : Out :=
  if bit s.plat.ualLost port.val then s.idleOut
  else
    s.event (some (({ s with plat := { s.plat with ualLost := s.plat.ualLost ||| BitVec.ofNat 16 (2 ^ port.val) } }).notice 0x3C 5 port.val 0 0))

/-- `CXL_PORT_ERROR` (R390): an error, or the loss of the port. -/
def execCxlPortError (port : Fin 8) (lost : Bool) (s : State) : Out :=
  let c := vget s.plat.cxl port
  let c := { c with err := true, lost := c.lost || lost, up := c.up && !lost }
  s.event (some (({ s with plat := { s.plat with cxl := vset s.plat.cxl port c } }).notice 0x3B 4 port.val 0 0))

/-! Reset and bring-up (R400, R401). -/

/-- The frames a device brings where the ones before it bring n: the second tier ends at 8 TiB, 2^27 frames (R4). -/
def framesLeft (n : Nat) (x : BitVec 40) : BitVec 40 := if n + x.toNat ≤ 2 ^ 27 then x else BitVec.ofNat 40 (2 ^ 27 - n)

/-- The frames of the ports before port n. -/
def framesBefore (frames : List (BitVec 40)) : Nat → Nat
  | 0 => 0
  | n + 1 => framesBefore frames n + (framesLeft (framesBefore frames n) (frames.getD n 0)).toNat

/-- The ports after training: the devices that answered, with their frames. -/
def trained (frames : List (BitVec 40)) : Vector CxlPort 8 :=
  Vector.ofFn fun p : Fin 8 =>
    match frames[p.val]? with
    | some n => { up := true, err := false, lost := false, frames := framesLeft (framesBefore frames p.val) n }
    | none => { up := false, err := false, lost := false, frames := 0 }

/-- The device after reset (R400): every register at its reset value, in phase 0. What the memories hold, and what lies outside the device,
stays (notes/assumptions/28.md). -/
def State.deviceReset (s : State) : State :=
  let m := s.ms
  { State.reset with
    ms := { MemSys.reset with main := m.main, host := m.host, peer := m.peer, lineKeys := m.lineKeys, poison := m.poison }
    agenda := s.agenda
    free := s.free }

/-- `DEVICE_RESET` (R400): the device is reset, and PHASE is 0 while it trains. In phase 0 the event is the end of the training: the links,
HBM and the CXL ports, which bring the frames given, are trained, and PHASE reaches 1 (notes/assumptions/28.md). -/
def execDeviceReset (cxlFrames : List (BitVec 40)) (s : State) : Out :=
  s.event (some (if s.plat.bootPhase = 0 then { s with plat := { s.plat with cxl := trained cxlFrames, bootPhase := 1 } } else s.deviceReset))

/-- The image and context 0's tables in HBM (R401): tensor 1 maps the image, coherent and writable, through a leaf table in the frame
after it (notes/assumptions/29.md). -/
def MemSys.installImage (m : MemSys) (bs : List Byte) : MemSys :=
  let n := (bs.length + 65535) / 65536
  let m := (List.range (17 + n)).foldl (fun m f => m.zeroFrame f) m
  let m := m.homeBytesPut (16 * 65536) 0 bs
  let m := m.homeBytesPut 16 0 (leBytes (2 ^ 63 + (16 + n)) 8 ++ leBytes n 8)
  m.homeBytesPut ((16 + n) * 65536) 0 ((List.range n).flatMap fun i => leBytes ((16 + i) * 2 ^ 24 + 3) 8)

/-- A boot that fails a check (R401). -/
def State.bootFailed (s : State) (err : Nat) : State := { s with plat := { s.plat with bootPhase := 5, bootErr := BitVec.ofNat 4 err } }

/-- The boot launch submitted (R401): its identifier is kept, or the boot has failed. -/
def State.bootLaunch (s : State) : State :=
  let r := s.submitAt 0 (genAddr 1 0)
  if bit r.1 63 then
    { r.2 with plat := { r.2.plat with bootPhase := 3, bootErr := 0, bootLid := some (BitVec.ofNat 16 (bits r.1 0 16)) } }
  else s.bootFailed 0

/-- The load that a write to BOOTADDR has started ends (R401): a failed check, or the image installed and its launch submitted. The order
of the checks is notes/assumptions/29.md. -/
def State.endBootLoad (s : State) (signatureOk readOk : Bool) : State :=
  let addr := s.plat.bootAddr.toNat
  let len := s.plat.bootLen.toNat
  if len < 0x1_0000 ∨ 0x1000_0000 < len then s.bootFailed 2
  else if !readOk ∨ addr % 65536 ≠ 0 ∨ 2 ^ 52 < addr + len then s.bootFailed 3
  else if !signatureOk then s.bootFailed 1
  else if (s.ms.keySlot 0).state ≠ 1 then s.bootFailed 4
  else
    let s := { s with ms := s.ms.installImage (s.ms.host.readList addr len) }
    (s.setDev 0x900 0x80).bootLaunch

/-- `BOOT_LOAD` (R400, R401): in phase 1 BOOTLEN and BOOTADDR are written, which starts the load, and PHASE is 2. In phase 2 the event is the
end of the load; whether the host has answered its reads and whether the signature is good are inputs (notes/assumptions/29.md). -/
def execBootLoad (addr len : BitVec 64) (signatureOk readOk : Bool) (s : State) : Out :=
  if s.plat.bootPhase = 1 then s.pageEvent { s with plat := { s.plat with bootAddr := addr, bootLen := len, bootPhase := 2 } }
  else if s.plat.bootPhase = 2 then s.pageEvent (s.endBootLoad signatureOk readOk)
  else s.idleOut

end Sys2Proof.Machine
end

