-- ==== Sys2Proof/Machine/LinkEvents.lean ====
section
/-! DEFINITION. Events of lattice exchange, links, islands and dies (13 R315, R316, 16 R371 to R382, 17 R392 to R398). -/

namespace Sys2Proof.Machine

/-! The exchange (R316). -/

/-- The next die along the ring 0, 1, 2, 3, 7, 6, 5, 4 (R368). -/
def ringNext (d : Fin 8) : Fin 8 := match d.val with | 0 => 1 | 1 => 2 | 2 => 3 | 3 => 7 | 7 => 6 | 6 => 5 | 5 => 4 | _ => 0

/-- The die before it. -/
def ringPrev (d : Fin 8) : Fin 8 := match d.val with | 1 => 0 | 2 => 1 | 3 => 2 | 7 => 3 | 6 => 7 | 5 => 6 | 4 => 5 | _ => 4

/-- The partners of a die under a pattern, in their order: ring, pairwise dimension order, all-pairs (R316). -/
def partners (pattern : Nat) (d : Fin 8) : List (Fin 8) :=
  match pattern with
  | 0 => [ringNext d, ringPrev d]
  | 1 => [d + 4] ++ (if d.val % 4 < 3 then [d + 1] else []) ++ (if 0 < d.val % 4 then [d - 1] else [])
  | 2 => (List.finRange 8).filter (· ≠ d)
  | _ => []

/-- The order of units across the regions of a schedule: by context, then by storage offset. -/
def unitBefore (a b : Nat × Nat) : Bool := decide (a.1 < b.1) || (decide (a.1 = b.1) && decide (a.2 < b.2))

/-- A unit placed in that order. -/
def insertUnit (u : Nat × Nat) : List (Nat × Nat) → List (Nat × Nat)
  | [] => [u]
  | v :: rest => if unitBefore u v then u :: v :: rest else v :: insertUnit u rest

/-- The region of a context's table in whose storage an offset lies. -/
def RegionTable.regionOfUnit (t : RegionTable) (o : Nat) : Option Region :=
  t.regions.find? fun r => decide (r.roff ≤ o) && decide (o < r.roff + r.bytes)

/-- The dirty units of a die on a schedule, in order: context and storage offset. -/
def State.dirtyUnits (s : State) (k d : Fin 8) : List (Nat × Nat) :=
  (s.lat.dirty.filter fun e => e.2.1 == d.val && (match s.tableOf (BitVec.ofNat 12 e.1) with
    | none => false
    | some t => match t.regionOfUnit e.2.2 with
      | none => false
      | some r => r.sched == k)).foldl (fun l e => insertUnit (e.1, e.2.2) l) []

/-- The units a die sends at an instant: from after the last one it sent, around, at most CAP of them where CAP is not 0. -/
def State.unitsToSend (s : State) (k d : Fin 8) : List (Nat × Nat) :=
  let all := s.dirtyUnits k d
  let cap := bits (s.dev (0xA08 + k.val)) 32 24
  let last := (s.lat.pos.find? fun p => p.1 == k.val && p.2.1 == d.val).map fun p => (p.2.2.1, p.2.2.2)
  let turned := match last with
    | none => all
    | some u => all.filter (unitBefore u ·) ++ all.filter (!unitBefore u ·)
  if cap = 0 then turned else turned.take cap

/-- A unit of a die's replica sent to every partner; its dirty bit is cleared. One whose content is lost is not sent and stays dirty (11
R284; notes/assumptions/115.md). -/
def State.sendReplica (s : State) (k d : Fin 8) (u : Nat × Nat) : State :=
  let x := s.dev (0xA08 + k.val)
  match s.tableOf (BitVec.ofNat 12 u.1) with
  | none => s
  | some t =>
    match t.regionOfUnit u.2 with
    | none => s
    | some r =>
      if s.replicaLost t d u.2 (unitSize r.type) then s
      else
      let bs := s.latBytes t d u.2 (unitSize r.type)
      let cs := s.lat.unitClocks u.1 d.val u.2 (unitSize r.type)
      let s := (partners (bits x 58 2) d).foldl (fun s p =>
        s.sendMsg (.exchange t.ctx p u.2 bs cs) (BitVec.ofNat 2 (bits x 56 2)) (dieRoute d p)) s
      { s with lat := { s.lat with
          dirty := s.lat.dirty.filter (· != (u.1, d.val, u.2))
          pos := (k.val, d.val, u.1, u.2) :: s.lat.pos.filter fun p => !(p.1 == k.val && p.2.1 == d.val) } }

/-- The exchange instant of a schedule at a tick (R315, R316): a change of the schedule comes into force, and each die sends the dirty
units; one whose uncore is stopped sends none (R381). -/
def State.exchange (s : State) (k : Fin 8) (tick : Nat) : State :=
  let s := { s with lat := { s.lat with inForce := vset s.lat.inForce k (s.dev (0xA08 + k.val)), served := vset s.lat.served k (some tick) } }
  (List.finRange 8).foldl (fun t d => if t.uncoreStops d then t else (t.unitsToSend k d).foldl (fun t u => t.sendReplica k d u) t) s

/-- The first instant of a schedule at or after a tick that it has not served. -/
def State.nextInstant (s : State) (k : Fin 8) (tick : Nat) : Nat :=
  let period := max 1 (bits (vget s.lat.inForce k) 0 32)
  let from_ := match vget s.lat.served k with
    | some t => if t = tick then tick + 1 else tick
    | none => tick
  (from_ + period - 1) / period * period

/-- The instants of a schedule from a tick up to before another, at most n of them: every one that may send a unit. -/
def State.exchanges (s : State) (k : Fin 8) (lo hi : Nat) : Nat → State
  | 0 => s
  | n + 1 =>
    let t := s.nextInstant k lo
    if t < hi then (s.exchange k t).exchanges k (t + 1) hi n else s

/-- The instants of every enabled schedule that dt ticks pass over (R316). Once an instant has found no dirty unit those after it
change nothing, so that one more than the dirty units covers them all. -/
def State.exchangesOver (s : State) (dt : Nat) : State :=
  (List.finRange 8).foldl (fun t k =>
    if bit (vget t.lat.inForce k) 63 then t.exchanges k t.cadence.toNat (t.cadence.toNat + dt) (t.lat.dirty.length + 1) else t) s

/-- `EXCHANGE_INSTANT` (R315, R316): at a tick that is a multiple of the PERIOD in force, once. -/
def execExchangeInstant (sched : Fin 8) (s : State) : Out :=
  let now := s.cadence.toNat
  if !bit (vget s.lat.inForce sched) 63 ∨ s.nextInstant sched now ≠ now then s.idleOut else s.event (some (s.exchange sched now))

/-- The first exchanged unit that has reached a die which takes it, and the messages without it. -/
def takeExchange (ok : Fin 8 → Bool) : List Msg → Option (Msg × List Msg)
  | [] => none
  | .exchange c d o bs cs :: rest =>
    if ok d then some (.exchange c d o bs cs, rest) else (takeExchange ok rest).map fun r => (r.1, .exchange c d o bs cs :: r.2)
  | m :: rest => (takeExchange ok rest).map fun r => (r.1, m :: r.2)

/-- `EXCHANGE_LINE_DELIVERY` (R313, R316): the die joins a delivered unit into its replica, cell by cell; not while its uncore is stopped. -/
def execExchangeLineDelivery (s : State) : Out :=
  match takeExchange (fun d => !s.uncoreStops d) s.lat.arrived with
  | some (.exchange ctx die off data cs, rest) =>
    let lat := cs.foldl (fun l e => l.absorb (ctx.toNat, die.val, e.1) e.2) { s.lat with arrived := rest }
    let s := { s with lat := lat }
    s.event (some (match s.tableOf ctx with
      | none => s
      | some t => match t.regionOfUnit off with
        | none => s
        | some r => s.absorbCells t r die off data (data.length / cellStorage r.type)))
  | _ => s.idleOut

/-! Flits (R374). -/

/-- `FLIT_RECEIVE` (R374): a flit to a stopped die waits in its crossing (R381). -/
def execFlitReceive (link : Fin 14) (dir : Fin 2) (crcOk : Bool) (s : State) : Out :=
  let x := vget s.plat.links link
  if x.stop ∨ (vget x.dirs dir).wire = [] ∨ s.nodeStops (linkEnd link dir) then s.idleOut else s.event (some (s.receiveFlit link dir crcOk))

/-- `FLIT_REPLAY` (R374, R376). -/
def execFlitReplay (link : Fin 14) (dir : Fin 2) (s : State) : Out :=
  let x := vget s.plat.links link
  if x.stop ∨ !(vget x.dirs dir).bad then s.idleOut else s.event (some (s.replayFlits link dir))

/-- `FLIT_ACK` (R374). -/
def execFlitAck (link : Fin 14) (dir : Fin 2) (s : State) : Out :=
  if (vget (vget s.plat.links link).dirs dir).acks = 0 then s.idleOut else s.event (some (s.ackFlits link dir))

/-! Link stops and widths (R371 to R373). -/

/-- `LINK_STOP_END` (R371, R372, R377). -/
def execLinkStopEnd (link : Fin 14) (s : State) : Out :=
  if (vget s.plat.links link).stop then s.event (some (s.endLinkStop link)) else s.idleOut

/-- `LANE_RETIREMENT` (R373). -/
def execLaneRetirement (link : Fin 14) (dir : Fin 2) (group : Fin 32) (s : State) : Out := s.event (some (s.retireGroup link dir group.val))

/-- `LKCTL_RATE_CHANGE` (R371): a write to LKCTL whose RATE differs. -/
def execLkctlRateChange (link : Fin 14) (value : BitVec 64) (s : State) : Out :=
  if bits value 24 4 = bits (s.dev (0xD00 + 8 * link.val)) 24 4 then s.idleOut else s.event (some (s.writeLkctl link value))

/-- `LKCTL_RETIRE` (R371): a write to LKCTL that names a group of direction 0. -/
def execLkctlRetire (link : Fin 14) (value : BitVec 64) (s : State) : Out :=
  if bits value 8 6 = 0 then s.idleOut else s.event (some (s.writeLkctl link value))

/-- `LKCTL_RETIRE1` (R371): a write to LKCTL that names a group of direction 1. -/
def execLkctlRetire1 (link : Fin 14) (value : BitVec 64) (s : State) : Out :=
  if bits value 0 6 = 0 then s.idleOut else s.event (some (s.writeLkctl link value))

/-! Islands and dies. -/

/-- `CLOCK_STRETCH` (R380, R382). -/
def execClockStretch (island : Fin 76) (margin : BitVec 3) (s : State) : Out := s.event (some (s.stretchIsland island margin))

/-- `ISTATE_WRITE` (R392, R393). -/
def execIstateWrite (island : Fin 76) (value : BitVec 64) (s : State) : Out := s.event (some (s.writeIstate island value))

/-- `ISLAND_STOP_END` (R381). -/
def execIslandStopEnd (island : Fin 76) (s : State) : Out :=
  if (vget s.plat.islands island).stop then s.event (some (s.onIsland island fun d => { d with stop := false })) else s.idleOut

/-- `CAP_STRETCH` (R397): the die's measured power; above CAP its core islands stretch. -/
def execCapStretch (die : Fin 8) (power : BitVec 16) (s : State) : Out := s.event (some (s.capStretch die power))

/-- `BALLAST_START` (R398). -/
def execBallastStart (die : Fin 8) (fall : Nat) (s : State) : Out := s.event (some (s.ballastStart die fall))

/-- `BALLAST_END` (R398). -/
def execBallastEnd (die : Fin 8) (s : State) : Out :=
  if (vget s.plat.dies die).ballast.isSome then s.event (some (s.onDie die fun d => { d with ballast := none })) else s.idleOut

end Sys2Proof.Machine
end

