-- ==== Sys2Proof/Machine/MemEvents.lean ====
section
/-! DEFINITION. Events of the memory system: home-slice accesses, the directory's transactions in their parts, replacement in
die caches, the patrol scrub and what it finds (11 R270, R275 to R284, 14 R335, R336). -/

namespace Sys2Proof.Machine

/-- The memories changed by an event, where it is enabled. -/
def State.memEvent (s : State) (r : Option MemSys) : Out := s.event (r.map fun m => { s with ms := m })

/-- The transaction of a line. -/
def MemSys.transOf (m : MemSys) (line : Nat) : Option DirTrans := m.trans.find? fun t => t.line == line

/-- An event at a die's caches and directory does not happen while the die's uncore is stopped (16 R381). -/
def State.atDie (s : State) (die : Fin 8) (r : Option MemSys) : Out := s.memEvent (if s.uncoreStops die then none else r)

/-- An event at the home of a line that has a transaction open. -/
def State.atHome (s : State) (line : Nat) (r : Option MemSys) : Out :=
  match s.ms.transOf line with
  | some t => s.atDie t.place.home r
  | none => s.memEvent none

/-- An address names device memory by way of a translation: a GEN or UC address. -/
def memAddr (a : Word) : Bool := (decide (bits a 60 4 = 0) || decide (bits a 60 4 = 3)) && genForm a

/-- `HOME_SLICE_ACCESS` (R275, R280): a read or a write of an aligned 8-byte word at its home slice, of an address of a context slot. -/
def execHomeSliceAccess (place : MemRef) (data : Option (BitVec 64)) (s : State) : Out :=
  if place.addr.toNat % 8 ≠ 0 ∨ !memAddr place.addr then s.idleOut
  else
    match (match data with
      | some x => s.outsideWrite place.slot.val place.addr (leBytes x.toNat 8)
      | none => s.outsideRead place.slot.val place.addr 8) with
    | .performed t _ => s.event (some t)
    | _ => s.idleOut

/-! A directory transaction in its parts (R279, R280): a request is taken up and names the dies to reach, each of them answers,
the home receives each answer, and the grant ends it. -/

/-- The dies an Inv or a recall must reach for a request of a die (R280). -/
def reachFor (st : Option DirState) (req : DirReq) (die : Fin 8) : BitVec 8 :=
  match st, req with
  | none, _ => 0
  | some (.shared _), .rds => 0
  | some (.shared mask), _ => mask &&& ~~~dieBit die
  | some (.owned o), _ => dieBit o

/-- A die's cache is in the state that sends a request (R279). -/
def sendsReq (copy : Option DieLine) (req : DirReq) : Bool :=
  match copy, req with
  | none, .upg => false
  | none, _ => true
  | some d, .upg => decide (d.coh = some .s)
  | some _, _ => false

/-- The place of the line that a request of a die names: a coherent page homed on another die, which the access may reach (R277,
R283, R308). -/
def State.requestPlace (s : State) (req : DirReq) (slot : Nat) (a : Word) (die : Fin 8) : Option Phys :=
  if !bit (s.dev (0xC00 + slot)) 63 ∨ !memAddr a then none
  else
    match s.reach slot a (req != .rds) with
    | .error _ => none
    | .ok p => if p.coherent && !p.dead && p.home != die then some p else none

/-- A request of a die at the home of a place: a transaction of it, with the dies to reach as its line stands. -/
def MemSys.request (m : MemSys) (p : Phys) (req : DirReq) (die : Fin 8) (cls : BitVec 2) : DirTrans :=
  { place := p, req := req, die := die, cls := cls, toSend := reachFor (m.dirState p.line) req die, toAck := 0, back := none }

/-- A die has a request to a line at its home, open or held. -/
def MemSys.asked (m : MemSys) (die : Fin 8) (line : Nat) : Bool := (m.trans ++ m.reqs).any fun t => t.die == die && t.line == line

/-- A request arrives at the home, which serves one transaction of a line at a time: it is taken up, or joins the requests that are held,
in order of arrival (R280). -/
def State.takeUp (s : State) (req : DirReq) (place : MemRef) (die : Fin 8) : Option MemSys :=
  match s.requestPlace req place.slot.val place.addr die with
  | none => none
  | some p =>
    if s.ms.asked die p.line ∨ !sendsReq (s.ms.dieLine die p.line) req ∨ s.uncoreStops die ∨ s.uncoreStops p.home then none
    else
      let t := s.ms.request p req die place.cls
      some (if s.ms.held p then { s.ms with reqs := s.ms.reqs ++ [t] } else { s.ms with trans := t :: s.ms.trans })

/-- A held request looked at again: it is taken up where nothing holds it any more, as the request that its die's copy then sends, and
waits on behind those before it otherwise. -/
def MemSys.takeIn (m : MemSys) (t : DirTrans) : MemSys :=
  if m.held t.place then { m with reqs := m.reqs ++ [t] }
  else
    let req : DirReq := if t.req = .upg ∧ !sendsReq (m.dieLine t.die t.line) .upg then .rdx else t.req
    { m with trans := m.request t.place req t.die t.cls :: m.trans }

/-- The requests that nothing holds any more are taken up, in order of arrival (R280). -/
def MemSys.takeQueued (m : MemSys) : MemSys := m.reqs.foldl MemSys.takeIn { m with reqs := [] }

/-- A transaction's step gives way: at its home a class-0 transaction of another line is ready for a step of the kind (R287). -/
def MemSys.givesWay (m : MemSys) (t : DirTrans) (ready : DirTrans → Bool) : Bool :=
  t.cls != 0 && m.trans.any fun u => u.cls == 0 && u.place.home == t.place.home && ready u

/-- The transaction of a line replaced. -/
def MemSys.putTrans (m : MemSys) (t : DirTrans) : MemSys :=
  { m with trans := m.trans.map fun u => if u.line = t.line then t else u }

/-- `RDS` (R280). -/
def execRds (place : MemRef) (die : Fin 8) (s : State) : Out := s.memEvent (s.takeUp .rds place die)

/-- `RDX` (R280). -/
def execRdx (place : MemRef) (die : Fin 8) (s : State) : Out := s.memEvent (s.takeUp .rdx place die)

/-- `UPG` (R280). -/
def execUpg (place : MemRef) (die : Fin 8) (s : State) : Out := s.memEvent (s.takeUp .upg place die)

/-- What reaches a die for a transaction: Inv, Recall-S or Recall-I. -/
inductive Probe where
  | inv | recallS | recallI
  deriving DecidableEq, Repr

/-- The message a transaction sends (R280). -/
def probeFor (st : Option DirState) (req : DirReq) : Probe :=
  match st, req with
  | some (.owned _), .rds => .recallS
  | some (.owned _), _ => .recallI
  | _, _ => .inv

/-- A die receives the message of a transaction and answers it, with the line where it is modified (R279). -/
def MemSys.probe (m : MemSys) (x : Probe) (line : Nat) (die : Fin 8) : Option MemSys :=
  match m.transOf line with
  | none => none
  | some t =>
    if !bit t.toSend die.val ∨ probeFor (m.dirState line) t.req ≠ x ∨ m.givesWay t (fun u => u.toSend != 0) then none
    else
      let copy := m.dieLine die line
      let back := match copy with
        | some d => if d.coh = some Mesi.m then some d else t.back
        | none => t.back
      let m := match copy, x with
        | some d, .recallS =>
          { m with dieLines := m.dieLines.map fun (e : DieLine) => if e.die = d.die ∧ e.line = d.line then { e with coh := some .s } else e }
        | some _, _ => m.dropLine die line
        | none, _ => m
      some (m.putTrans { t with toSend := t.toSend &&& ~~~dieBit die, toAck := t.toAck ||| dieBit die, back := back })

/-- `INV` (R279). -/
def execInv (line : Nat) (die : Fin 8) (s : State) : Out := s.atDie die (s.ms.probe .inv line die)

/-- `RECALL_S` (R279). -/
def execRecallS (line : Nat) (die : Fin 8) (s : State) : Out := s.atDie die (s.ms.probe .recallS line die)

/-- `RECALL_I` (R279). -/
def execRecallI (line : Nat) (die : Fin 8) (s : State) : Out := s.atDie die (s.ms.probe .recallI line die)

/-- The home receives a die's answer: a returned line is written into the home slice (R280). -/
def MemSys.acked (m : MemSys) (line : Nat) (die : Fin 8) : Option MemSys :=
  match m.transOf line with
  | none => none
  | some t =>
    if !bit t.toAck die.val ∨ m.givesWay t (fun u => u.toAck != 0) then none
    else
      let m := match t.back with
        | some d => m.returnLine d
        | none => m
      some (m.putTrans { t with toAck := t.toAck &&& ~~~dieBit die, back := none })

/-- `DIRECTORY_ACK` (R280). -/
def execDirectoryAck (line : Nat) (die : Fin 8) (s : State) : Out := s.atHome line (s.ms.acked line die)

/-- The grant of a transaction whose answers have all come (R279, R280): the die fills, the directory names it, and the next request
of the line is served. It waits where the line's entry has no room yet (R282). -/
def MemSys.granted (m : MemSys) (line : Nat) (die : Fin 8) : Option MemSys :=
  match m.transOf line with
  | none => none
  | some t =>
    let done (u : DirTrans) : Bool := u.toSend == 0 && u.toAck == 0
    let o := { m with trans := m.trans.filter fun u => u.line != line }
    if t.die ≠ die ∨ !done t ∨ o.noEntry t.place ∨ m.givesWay t (fun u => done u && !m.noEntry u.place) then none
    else
      let g := match t.req with
        | .rds => (o.rdS die t.place).2
        | _ =>
          let r := o.rdX die t.place
          r.2.putLine r.1
      some g.takeQueued

/-- `GRANT` (R279). -/
def execGrant (line : Nat) (die : Fin 8) (s : State) : Out := s.atHome line (s.ms.granted line die)

/-! Replacement in a die cache (R277, R279, R283). -/

/-- The copy that a full set of a die's cache gives up next is the die's copy of the line. -/
def MemSys.leaving (m : MemSys) (line : Nat) (die : Fin 8) : Option DieLine :=
  if m.cacheWays die line ≤ (m.cacheSet die line).length then (m.cacheVictim die line).filter fun d => d.line == line else none

/-- `PUTC` (R279, R280): a clean copy is replaced, a shared one silently. -/
def execPutc (line : Nat) (die : Fin 8) (s : State) : Out :=
  s.atDie die (((s.ms.leaving line die).filter fun d => d.coh == some Mesi.e || d.coh == some Mesi.s).map s.ms.replace)

/-- `PUTM` (R280, R283): a modified line, or the dirty bytes of a line of a non-coherent page, go home. -/
def execPutm (line : Nat) (die : Fin 8) (s : State) : Out :=
  s.atDie die (((s.ms.leaving line die).filter fun d => d.coh == some Mesi.m || d.coh == none).map s.ms.replace)

/-! Corrections and errors (R270, R284, R335, R336). -/

/-- The entry of a location, else a free one, else the one whose latest event is oldest: of entries of one tick the one written first
(R335). -/
def Die.locEntry (d : Die) (unit : BitVec 2) (loc : BitVec 56) : Nat :=
  match d.celoc.find? fun e => e.2.1 == unit && e.2.2.1 == loc with
  | some e => e.1
  | none =>
    match (List.range 64).find? fun n => (alGet d.celoc n).isNone with
    | some n => n
    | none => (d.celoc.foldl (fun (best : Nat × Nat) e =>
        let t := (e.2.2.2.ticks.head?).getD 0
        if t ≤ best.2 then (e.1, t) else best) (0, 2 ^ 64)).1

/-- The way of an LLC slice or of a die cache that holds a location is disabled, and its line is lost to the cache (R336). -/
def MemSys.disableWay (m : MemSys) (die : Fin 8) (loc : BitVec 56) : MemSys :=
  let w := (die.val, bits loc 50 6, bits loc 34 16, bits loc 30 4)
  if m.waysOff.contains w then m
  else
    let u := { m with waysOff := w :: m.waysOff }
    if bits loc 50 6 = 63 then u.trim die (bits loc 34 16) else u

/-- A correction at a location counts under EWMEM; a lasting one fences the core of a typed buffer, or notifies the host, and takes
a way from a cache (R335, R336). -/
def State.corrected (s : State) (die : Fin 8) (unit : BitVec 2) (loc : BitVec 56) : State :=
  let d := vget s.plat.dies die
  let n := d.locEntry unit loc
  let h := match alGet d.celoc n with
    | some (u, l, h) => if u = unit ∧ l = loc then h else History.reset
    | none => History.reset
  let e := h.event s.cadence.toNat d.ewmem
  let s := s.onDie die fun d => { d with celoc := alSet d.celoc n (unit, loc, e.1) }
  if !e.2 then s
  else if unit = 0 then s.fenceCore (Fin.ofNat 768 (bits loc 46 10))
  else if unit = 1 then ({ s with ms := s.ms.disableWay die loc } : State).notice 0x37 3 die.val 0 n
  else s.notice 0x38 3 die.val 0 n

/-- An error that cannot be corrected poisons the word of a typed buffer or the line of a memory. -/
def State.poisoned (s : State) (unit : BitVec 2) (loc : BitVec 56) : Option State :=
  if unit = 0 then
    some (s.onCore (Fin.ofNat 768 (bits loc 46 10)) fun k =>
      { k with st := { k.st with bad := (bits loc 44 2, bits loc 0 40 / 8) :: k.st.bad } })
  else if unit = 1 then none
  else
    let line := bits loc 10 46 * 1024 + bits loc 0 10 + (if unit = 3 then tier2 / 64 else 0)
    some { s with ms := { s.ms with poison := line :: s.ms.poison.filter (· != line) } }

/-- One of n numbers from i on passes a test. -/
def anyFrom (f : Nat → Bool) (i : Nat) : Nat → Bool
  | 0 => false
  | n + 1 => f i || anyFrom f (i + 1) n

/-- The page limit of a tensor of a context slot (R361). -/
def State.pageLimit (s : State) (slot tid : Nat) : Nat :=
  ((s.ms.tableWord (bits (s.dev (0xC00 + slot)) 12 32 * 65536 + tid * 16 + 8)).getD 0) % 2 ^ 25

/-- A page of a valid context slot that lies in a frame passes a test. -/
def State.pageOf (s : State) (frame : Nat) (f : Phys → Bool) : Bool :=
  anyFrom (fun slot => bit (s.dev (0xC00 + slot)) 63 && anyFrom (fun tid => anyFrom (fun p =>
    match s.translate slot tid (p * 65536) false with
    | .ok q => q.frame == frame && f q
    | .error _ => false) 0 (s.pageLimit slot tid)) 1 65535) 0 64

/-- A frame is homed on a die: by the placement of a page that lies in it (R274); one that no page lies in is taken as interleaved
(DEDUCED, notes/assumptions/117.md). -/
def State.homedOn (s : State) (die : Fin 8) (frame : Nat) : Bool :=
  s.pageOf frame (fun q => q.home == die) || (decide (frame % 8 = die.val) && !s.pageOf frame fun _ => true)

/-- A location exists on a die (R335): a typed buffer of its cores, its slices and die cache, or a memory line homed there. A frame
of HBM is homed on the die of its stack (R360); one of the second tier is homed on the die that its page is local to, else on the die
F mod 8 (R274). -/
def State.locOk (s : State) (die : Fin 8) (unit : BitVec 2) (loc : BitVec 56) : Bool :=
  let f := bits loc 10 46
  if unit = 0 then
    decide (bits loc 46 10 < 768) && decide (bits loc 46 10 / 96 = die.val) && decide (bits loc 40 4 = 0) && decide (bits loc 0 3 = 0) &&
      decide (bits loc 0 40 < (match bits loc 44 2 with | 0 => 393216 | 1 => 262144 | 2 => 196608 | _ => 16384))
  else if unit = 1 then
    decide (bits loc 0 30 = 0) && (decide (bits loc 50 6 < 48) || (decide (bits loc 50 6 = 63) && decide (bits loc 34 16 < 16384)))
  else if unit = 2 then decide (f < hbmFrames) && decide (f % 8 = die.val)
  else s.frameInstalled 1 f && s.homedOn die (tier2 / 65536 + f)

/-- `PATROL_SCRUB` (R287): a location is read. A clean read changes nothing; what a read finds wrong is an input of the model, and
this event also stands for a correction that any other access meets (notes/assumptions/27.md). -/
def execPatrolScrub (die : Fin 8) (unit : BitVec 2) (loc : BitVec 56) (found : Fin 3) (s : State) : Out :=
  if !s.locOk die unit loc || (unit != 0 && s.uncoreStops die) then s.idleOut
  else if found = 0 then s.event (some s)
  else if found = 1 then s.event (some (s.corrected die unit loc))
  else s.event (s.poisoned unit loc)

end Sys2Proof.Machine
end

