-- ==== Sys2Proof/Machine/Scalar.lean ====
section
/-! DEFINITION. The integer instructions of majors 0x01 to 0x0F (05 R129 to R134). -/

namespace Sys2Proof.Machine

/-! Values the instructions compute. -/

/-- Bits 127:64 of the signed product (R129). -/
def mulHigh (a b : Word) : Word := BitVec.ofInt 64 (a.toInt * b.toInt / 2 ^ 64)

/-- Bits 127:64 of the unsigned product (R129). -/
def mulHighN (a b : Word) : Word := BitVec.ofNat 64 (a.toNat * b.toNat / 2 ^ 64)

/-- The signed quotient truncated toward zero, with the borderline results of R130. -/
def divS (a b : Word) : Word := if b = 0 then 0xFFFF_FFFF_FFFF_FFFF else BitVec.ofInt 64 (a.toInt.tdiv b.toInt)

/-- The unsigned quotient (R130). -/
def divU (a b : Word) : Word := if b = 0 then 0xFFFF_FFFF_FFFF_FFFF else BitVec.ofNat 64 (a.toNat / b.toNat)

/-- The signed remainder, with the sign of a (R130). -/
def remS (a b : Word) : Word := if b = 0 then a else BitVec.ofInt 64 (a.toInt.tmod b.toInt)

/-- The unsigned remainder (R130). -/
def remU (a b : Word) : Word := if b = 0 then a else BitVec.ofNat 64 (a.toNat % b.toNat)

/-- The number of a shift: bits 5:0 of gB (R131). -/
def shiftN (b : Word) : Nat := bits b 0 6

/-- Set bits among the low n bits. -/
def countBits (x : Word) : Nat → Nat
  | 0 => 0
  | n + 1 => countBits x n + (bit x n).toNat

/-- Zero bits above the highest set bit among the low n bits. -/
def leadZeros (x : Word) : Nat → Nat
  | 0 => 0
  | n + 1 => if bit x n then 0 else leadZeros x n + 1

/-- Zero bits from bit i upward, over n bits. -/
def trailZeros (x : Word) (i : Nat) : Nat → Nat
  | 0 => 0
  | n + 1 => if bit x i then 0 else trailZeros x (i + 1) n + 1

/-- The low n bits in the opposite order (R131). -/
def reverseBits (x : Word) : Nat → Nat
  | 0 => 0
  | n + 1 => reverseBits x n + (bit x n).toNat * 2 ^ (63 - n)

/-- The low n bytes of a 64-bit word in the opposite order (R131). -/
def reverseBytes (x : Word) : Nat → Nat
  | 0 => 0
  | n + 1 => reverseBytes x n + bits x (8 * n) 8 * 2 ^ (8 * (7 - n))

/-! Instructions that write a general register. -/

/-- `ADD` (R129). -/
def execAdd (d a b : Reg) (s : State) : Out := .next (s.setG d (s.g a + s.g b))

/-- `SUB` (R129). -/
def execSub (d a b : Reg) (s : State) : Out := .next (s.setG d (s.g a - s.g b))

/-- `ADDT`: the integer-overflow fault where the exact result leaves the signed range (R127, R129). -/
def execAddt (d a b : Reg) (s : State) : Out :=
  if fitsS64 ((s.g a).toInt + (s.g b).toInt) then .next (s.setG d (s.g a + s.g b)) else s.fault 0x06 0

/-- `SUBT`: the integer-overflow fault where the exact result leaves the signed range (R127, R129). -/
def execSubt (d a b : Reg) (s : State) : Out :=
  if fitsS64 ((s.g a).toInt - (s.g b).toInt) then .next (s.setG d (s.g a - s.g b)) else s.fault 0x06 0

/-- `MULT`: the integer-overflow fault where the exact result leaves the signed range (R127, R129). -/
def execMult (d a b : Reg) (s : State) : Out :=
  if fitsS64 ((s.g a).toInt * (s.g b).toInt) then .next (s.setG d (s.g a * s.g b)) else s.fault 0x06 0

/-- `MUL` (R129). -/
def execMul (d a b : Reg) (s : State) : Out := .next (s.setG d (s.g a * s.g b))

/-- `MULH` (R129). -/
def execMulh (d a b : Reg) (s : State) : Out := .next (s.setG d (mulHigh (s.g a) (s.g b)))

/-- `MULHN` (R129). -/
def execMulhn (d a b : Reg) (s : State) : Out := .next (s.setG d (mulHighN (s.g a) (s.g b)))

/-- `DIV` (R130). -/
def execDiv (d a b : Reg) (s : State) : Out := .next (s.setG d (divS (s.g a) (s.g b)))

/-- `DIVN` (R130). -/
def execDivn (d a b : Reg) (s : State) : Out := .next (s.setG d (divU (s.g a) (s.g b)))

/-- `REM` (R130). -/
def execRem (d a b : Reg) (s : State) : Out := .next (s.setG d (remS (s.g a) (s.g b)))

/-- `REMN` (R130). -/
def execRemn (d a b : Reg) (s : State) : Out := .next (s.setG d (remU (s.g a) (s.g b)))

/-- `MIN` (R129). -/
def execMin (d a b : Reg) (s : State) : Out := .next (s.setG d (if (s.g a).slt (s.g b) then s.g a else s.g b))

/-- `MAX` (R129). -/
def execMax (d a b : Reg) (s : State) : Out := .next (s.setG d (if (s.g a).slt (s.g b) then s.g b else s.g a))

/-- `MINN` (R129). -/
def execMinn (d a b : Reg) (s : State) : Out := .next (s.setG d (if (s.g a).ult (s.g b) then s.g a else s.g b))

/-- `MAXN` (R129). -/
def execMaxn (d a b : Reg) (s : State) : Out := .next (s.setG d (if (s.g a).ult (s.g b) then s.g b else s.g a))

/-- `AND` (R131). -/
def execAnd (d a b : Reg) (s : State) : Out := .next (s.setG d (s.g a &&& s.g b))

/-- `OR` (R131). -/
def execOr (d a b : Reg) (s : State) : Out := .next (s.setG d (s.g a ||| s.g b))

/-- `XOR` (R131). -/
def execXor (d a b : Reg) (s : State) : Out := .next (s.setG d (s.g a ^^^ s.g b))

/-- `ANDN` (R131). -/
def execAndn (d a b : Reg) (s : State) : Out := .next (s.setG d (s.g a &&& ~~~(s.g b)))

/-- `ORN` (R131). -/
def execOrn (d a b : Reg) (s : State) : Out := .next (s.setG d (s.g a ||| ~~~(s.g b)))

/-- `SHL` (R131). -/
def execShl (d a b : Reg) (s : State) : Out := .next (s.setG d (s.g a <<< shiftN (s.g b)))

/-- `SHR` (R131). -/
def execShr (d a b : Reg) (s : State) : Out := .next (s.setG d (s.g a >>> shiftN (s.g b)))

/-- `SRA` (R131). -/
def execSra (d a b : Reg) (s : State) : Out := .next (s.setG d ((s.g a).sshiftRight (shiftN (s.g b))))

/-- `ROL` (R131). -/
def execRol (d a b : Reg) (s : State) : Out := .next (s.setG d ((s.g a).rotateLeft (shiftN (s.g b))))

/-- `ROR` (R131). -/
def execRor (d a b : Reg) (s : State) : Out := .next (s.setG d ((s.g a).rotateRight (shiftN (s.g b))))

/-- `CLZ` (R131). -/
def execClz (d a : Reg) (s : State) : Out := .next (s.setG d (BitVec.ofNat 64 (leadZeros (s.g a) 64)))

/-- `CTZ` (R131). -/
def execCtz (d a : Reg) (s : State) : Out := .next (s.setG d (BitVec.ofNat 64 (trailZeros (s.g a) 0 64)))

/-- `POPC` (R131). -/
def execPopc (d a : Reg) (s : State) : Out := .next (s.setG d (BitVec.ofNat 64 (countBits (s.g a) 64)))

/-- `BREV` (R131). -/
def execBrev (d a : Reg) (s : State) : Out := .next (s.setG d (BitVec.ofNat 64 (reverseBits (s.g a) 64)))

/-- `BSWAP` (R131). -/
def execBswap (d a : Reg) (s : State) : Out := .next (s.setG d (BitVec.ofNat 64 (reverseBytes (s.g a) 8)))

/-- `SEXT.I8` (R131). -/
def execSextI8 (d a : Reg) (s : State) : Out := .next (s.setG d (sext ((s.g a).setWidth 8)))

/-- `SEXT.I16` (R131). -/
def execSextI16 (d a : Reg) (s : State) : Out := .next (s.setG d (sext ((s.g a).setWidth 16)))

/-- `SEXT.I32` (R131). -/
def execSextI32 (d a : Reg) (s : State) : Out := .next (s.setG d (sext ((s.g a).setWidth 32)))

/-- `ZEXT.N8` (R131). -/
def execZextN8 (d a : Reg) (s : State) : Out := .next (s.setG d (zext ((s.g a).setWidth 8)))

/-- `ZEXT.N16` (R131). -/
def execZextN16 (d a : Reg) (s : State) : Out := .next (s.setG d (zext ((s.g a).setWidth 16)))

/-- `ZEXT.N32` (R131). -/
def execZextN32 (d a : Reg) (s : State) : Out := .next (s.setG d (zext ((s.g a).setWidth 32)))

/-! Compares, predicates and select (R132, R133). -/

/-- `CMPEQ` (R132). -/
def execCmpeq (d : Pred) (a b : Reg) (s : State) : Out := .next (s.setP d (decide (s.g a = s.g b)))

/-- `CMPNE` (R132). -/
def execCmpne (d : Pred) (a b : Reg) (s : State) : Out := .next (s.setP d (decide (s.g a ≠ s.g b)))

/-- `CMPLT` (R132). -/
def execCmplt (d : Pred) (a b : Reg) (s : State) : Out := .next (s.setP d ((s.g a).slt (s.g b)))

/-- `CMPLE` (R132). -/
def execCmple (d : Pred) (a b : Reg) (s : State) : Out := .next (s.setP d ((s.g a).sle (s.g b)))

/-- `CMPLTN` (R132). -/
def execCmpltn (d : Pred) (a b : Reg) (s : State) : Out := .next (s.setP d ((s.g a).ult (s.g b)))

/-- `CMPLEN` (R132). -/
def execCmplen (d : Pred) (a b : Reg) (s : State) : Out := .next (s.setP d ((s.g a).ule (s.g b)))

/-- `TSTNZ` (R132). -/
def execTstnz (d : Pred) (a b : Reg) (s : State) : Out := .next (s.setP d (decide (s.g a &&& s.g b ≠ 0)))

/-- `PAND` (R133). -/
def execPand (d a b : Pred) (s : State) : Out := .next (s.setP d (s.p a && s.p b))

/-- `POR` (R133). -/
def execPor (d a b : Pred) (s : State) : Out := .next (s.setP d (s.p a || s.p b))

/-- `PXOR` (R133). -/
def execPxor (d a b : Pred) (s : State) : Out := .next (s.setP d (s.p a ^^ s.p b))

/-- `PANDN` (R133). -/
def execPandn (d a b : Pred) (s : State) : Out := .next (s.setP d (s.p a && !s.p b))

/-- `PNOT` (R133). -/
def execPnot (d a : Pred) (s : State) : Out := .next (s.setP d (!s.p a))

/-- `PSET` (R133). -/
def execPset (d : Pred) (a : Reg) (s : State) : Out := .next (s.setP d (decide (s.g a ≠ 0)))

/-- `PGET` (R133). -/
def execPget (d : Reg) (a : Pred) (s : State) : Out := .next (s.setG d (if s.p a then 1 else 0))

/-- `SEL` (R133). -/
def execSel (d a b : Reg) (p : Pred) (s : State) : Out := .next (s.setG d (if s.p p then s.g a else s.g b))

/-! Addresses, immediates and constants (R131, R132, R134). -/

/-- `LEA` (R134). -/
def execLea (d a b : Reg) (sh : BitVec 2) (s : State) : Out := .next (s.setG d (s.g a + s.g b <<< sh.toNat))

/-- `GADDR` (R134). -/
def execGaddr (d a b : Reg) (s : State) : Out :=
  .next (s.setG d (zext ((s.g a).setWidth 16) <<< 40 ||| zext ((s.g b).setWidth 40)))

/-- `ADDI` (R129). -/
def execAddi (d a : Reg) (imm : BitVec 14) (s : State) : Out := .next (s.setG d (s.g a + sext imm))

/-- `ANDI` (R131). -/
def execAndi (d a : Reg) (imm : BitVec 14) (s : State) : Out := .next (s.setG d (s.g a &&& sext imm))

/-- `ORI` (R131). -/
def execOri (d a : Reg) (imm : BitVec 14) (s : State) : Out := .next (s.setG d (s.g a ||| sext imm))

/-- `XORI` (R131). -/
def execXori (d a : Reg) (imm : BitVec 14) (s : State) : Out := .next (s.setG d (s.g a ^^^ sext imm))

/-- `SHLI` (R131). -/
def execShli (d a : Reg) (n : BitVec 6) (s : State) : Out := .next (s.setG d (s.g a <<< n.toNat))

/-- `SHRI` (R131). -/
def execShri (d a : Reg) (n : BitVec 6) (s : State) : Out := .next (s.setG d (s.g a >>> n.toNat))

/-- `SRAI` (R131). -/
def execSrai (d a : Reg) (n : BitVec 6) (s : State) : Out := .next (s.setG d ((s.g a).sshiftRight n.toNat))

/-- `RORI` (R131). -/
def execRori (d a : Reg) (n : BitVec 6) (s : State) : Out := .next (s.setG d ((s.g a).rotateRight n.toNat))

/-- `CMPEQI` (R132). -/
def execCmpeqi (d : Pred) (a : Reg) (imm : BitVec 11) (s : State) : Out := .next (s.setP d (decide (s.g a = sext imm)))

/-- `CMPNEI` (R132). -/
def execCmpnei (d : Pred) (a : Reg) (imm : BitVec 11) (s : State) : Out := .next (s.setP d (decide (s.g a ≠ sext imm)))

/-- `CMPLTI` (R132). -/
def execCmplti (d : Pred) (a : Reg) (imm : BitVec 11) (s : State) : Out := .next (s.setP d ((s.g a).slt (sext imm)))

/-- `CMPLEI` (R132). -/
def execCmplei (d : Pred) (a : Reg) (imm : BitVec 11) (s : State) : Out := .next (s.setP d ((s.g a).sle (sext imm)))

/-- `CMPGTI` (R132). -/
def execCmpgti (d : Pred) (a : Reg) (imm : BitVec 11) (s : State) : Out := .next (s.setP d ((sext imm).slt (s.g a)))

/-- `CMPGEI` (R132). -/
def execCmpgei (d : Pred) (a : Reg) (imm : BitVec 11) (s : State) : Out := .next (s.setP d ((sext imm).sle (s.g a)))

/-- `CMPLTNI` (R132). -/
def execCmpltni (d : Pred) (a : Reg) (imm : BitVec 11) (s : State) : Out := .next (s.setP d ((s.g a).ult (sext imm)))

/-- `CMPGTNI` (R132). -/
def execCmpgtni (d : Pred) (a : Reg) (imm : BitVec 11) (s : State) : Out := .next (s.setP d ((sext imm).ult (s.g a)))

/-- `LI` (R134). -/
def execLi (d : Reg) (imm : BitVec 19) (s : State) : Out := .next (s.setG d (sext imm))

/-- `LIX` (R134): reads and writes gD. -/
def execLix (d : Reg) (imm : BitVec 16) (s : State) : Out := .next (s.setG d (s.g d <<< 16 ||| zext imm))

end Sys2Proof.Machine
end

