-- ==== Sys2Proof/Machine/Issue.lean ====
section
/-! DEFINITION. The meanings of the instructions a bundle may hold, for the device steps that issue a bundle themselves
(SYNC_RENDEZVOUS, STALLED_BUNDLE_ISSUE and their like), which the dispatch of Instr calls. It agrees with that dispatch on every
instruction; a device step never stands in a bundle. -/

namespace Sys2Proof.Machine

/-- An instruction of a bundle executes. -/
def issueInstr (i : Instr) (s : State) : Out :=
  match i with
  | .add d a b => execAdd d a b s
  | .sub d a b => execSub d a b s
  | .addt d a b => execAddt d a b s
  | .subt d a b => execSubt d a b s
  | .mul d a b => execMul d a b s
  | .mulh d a b => execMulh d a b s
  | .mulhn d a b => execMulhn d a b s
  | .mult d a b => execMult d a b s
  | .div d a b => execDiv d a b s
  | .divn d a b => execDivn d a b s
  | .rem d a b => execRem d a b s
  | .remn d a b => execRemn d a b s
  | .min d a b => execMin d a b s
  | .max d a b => execMax d a b s
  | .minn d a b => execMinn d a b s
  | .maxn d a b => execMaxn d a b s
  | .and d a b => execAnd d a b s
  | .or d a b => execOr d a b s
  | .xor d a b => execXor d a b s
  | .andn d a b => execAndn d a b s
  | .orn d a b => execOrn d a b s
  | .shl d a b => execShl d a b s
  | .shr d a b => execShr d a b s
  | .sra d a b => execSra d a b s
  | .rol d a b => execRol d a b s
  | .ror d a b => execRor d a b s
  | .clz d a => execClz d a s
  | .ctz d a => execCtz d a s
  | .popc d a => execPopc d a s
  | .brev d a => execBrev d a s
  | .bswap d a => execBswap d a s
  | .sextI8 d a => execSextI8 d a s
  | .sextI16 d a => execSextI16 d a s
  | .sextI32 d a => execSextI32 d a s
  | .zextN8 d a => execZextN8 d a s
  | .zextN16 d a => execZextN16 d a s
  | .zextN32 d a => execZextN32 d a s
  | .cmpeq d a b => execCmpeq d a b s
  | .cmpne d a b => execCmpne d a b s
  | .cmplt d a b => execCmplt d a b s
  | .cmple d a b => execCmple d a b s
  | .cmpltn d a b => execCmpltn d a b s
  | .cmplen d a b => execCmplen d a b s
  | .tstnz d a b => execTstnz d a b s
  | .pand d a b => execPand d a b s
  | .por d a b => execPor d a b s
  | .pxor d a b => execPxor d a b s
  | .pandn d a b => execPandn d a b s
  | .pnot d a => execPnot d a s
  | .pset d a => execPset d a s
  | .pget d a => execPget d a s
  | .sel d a b p => execSel d a b p s
  | .lea d a b sh => execLea d a b sh s
  | .gaddr d a b => execGaddr d a b s
  | .addi d a imm => execAddi d a imm s
  | .andi d a imm => execAndi d a imm s
  | .ori d a imm => execOri d a imm s
  | .xori d a imm => execXori d a imm s
  | .shli d a n => execShli d a n s
  | .shri d a n => execShri d a n s
  | .srai d a n => execSrai d a n s
  | .rori d a n => execRori d a n s
  | .cmpeqi d a imm => execCmpeqi d a imm s
  | .cmpnei d a imm => execCmpnei d a imm s
  | .cmplti d a imm => execCmplti d a imm s
  | .cmplei d a imm => execCmplei d a imm s
  | .cmpgti d a imm => execCmpgti d a imm s
  | .cmpgei d a imm => execCmpgei d a imm s
  | .cmpltni d a imm => execCmpltni d a imm s
  | .cmpgtni d a imm => execCmpgtni d a imm s
  | .li d imm => execLi d imm s
  | .lix d imm => execLix d imm s
  | .b p sense word delta => execB p sense word delta s
  | .call p sense word delta => execCall p sense word delta s
  | .jmpr a => execJmpr a s
  | .callr d a => execCallr d a s
  | .loop lv gc word delta => execLoop lv gc word delta s
  | .mfs d n => execMfs d n s
  | .mts n gs => execMts n gs s
  | .tshape t ty cols rows => execTshape t ty cols rows s
  | .trap code => execTrap code s
  | .sret => execSret s
  | .idle => execIdle s
  | .nop => execNop s
  | .ld d a ty off => execLd d a ty off s
  | .st a gs sz off => execSt a gs sz off s
  | .lda d a scope sz sg => execLda d a scope sz sg s
  | .str a b scope sz => execStr a b scope sz s
  | .fence scope => execFence scope s
  | .fencea scope => execFencea scope s
  | .fencer scope => execFencer scope s
  | .wbr a b => execWbr a b s
  | .invr a b => execInvr a b s
  | .discard a b => execDiscard a b s
  | .pref a b => execPref a b s
  | .aadd d a b sz order scope => execAadd d a b sz order scope s
  | .aand d a b sz order scope => execAand d a b sz order scope s
  | .aor d a b sz order scope => execAor d a b sz order scope s
  | .axor d a b sz order scope => execAxor d a b sz order scope s
  | .amin d a b sz order scope => execAmin d a b sz order scope s
  | .amax d a b sz order scope => execAmax d a b sz order scope s
  | .aminn d a b sz order scope => execAminn d a b sz order scope s
  | .amaxn d a b sz order scope => execAmaxn d a b sz order scope s
  | .aswp d a b sz order scope => execAswp d a b sz order scope s
  | .afadd d a b order scope => execAfadd d a b order scope s
  | .acas d a b sz order scope => execAcas d a b sz order scope s
  | .join a b => execJoin a b s
  | .joina a b => execJoina a b s
  | .ldlat d a => execLdlat d a s
  | .ldge d a b => execLdge d a b s
  | .tkwait set => execTkwait set s
  | .tkpost set => execTkpost set s
  | .qpush q a => execQpush q a s
  | .qpop d q => execQpop d q s
  | .sclaim st d => execSclaim st d s
  | .sfill st a => execSfill st a s
  | .swfill st d => execSwfill st d s
  | .srel st a => execSrel st a s
  | .swfree st a => execSwfree st a s
  | .clinit a rel => execClinit a rel s
  | .clexpect a b rel => execClexpect a b rel s
  | .clarrive a b rel => execClarrive a b rel s
  | .clwait a rel => execClwait a rel s
  | .clbase a => execClbase a s
  | .publ => execPubl s
  | .rdcad d => execRdcad d s
  | .locq d a => execLocq d a s
  | .launch d a => execLaunch d a s
  | .pwracq lv => execPwracq lv s
  | .pwrrel => execPwrrel s
  | .exit => execExit s
  | .end_ => execEnd s
  | .tdesc l slot ga gb => execTdesc l slot ga gb s
  | .seqcfg l lv ga gb gc => execSeqcfg l lv ga gb gc s
  | .seqrunCopy l ch slot ga gb => execSeqrunCopy l ch slot ga gb s
  | .seqrunGather l ch slot ga gb => execSeqrunGather l ch slot ga gb s
  | .seqrunScatter l ch slot ga gb => execSeqrunScatter l ch slot ga gb s
  | .seqrunCpyscl l ch slot ga gb => execSeqrunCpyscl l ch slot ga gb s
  | .copy l ch ga gb gc => execCopy l ch ga gb gc s
  | .copyj l ch ga gb gc => execCopyj l ch ga gb gc s
  | .gather l ch ga gb gc cnt esz => execGather l ch ga gb gc cnt esz s
  | .scatter l ch ga gb gc cnt esz => execScatter l ch ga gb gc cnt esz s
  | .copymc l ch ga gb gc mask => execCopymc l ch ga gb gc mask s
  | .cpyscl l ch ga gb gc => execCpyscl l ch ga gb gc s
  | .qsend l ch ga q => execQsend l ch ga q s
  | .qrecv l ch ga => execQrecv l ch ga s
  | .chwait l ch => execChwait l ch s
  | .chwaitStage l ch ga => execChwaitStage l ch ga s
  | .vaddI vd va vb mk sz => execVaddI vd va vb mk sz s
  | .vsubI vd va vb mk sz => execVsubI vd va vb mk sz s
  | .vmulI vd va vb mk sz => execVmulI vd va vb mk sz s
  | .vaddsI vd va vb mk sz => execVaddsI vd va vb mk sz s
  | .vsubsI vd va vb mk sz => execVsubsI vd va vb mk sz s
  | .vminI vd va vb mk sz => execVminI vd va vb mk sz s
  | .vmaxI vd va vb mk sz => execVmaxI vd va vb mk sz s
  | .vshlI vd va vb mk sz => execVshlI vd va vb mk sz s
  | .vshrI vd va vb mk sz => execVshrI vd va vb mk sz s
  | .vcmpeqI md va vb mk sz => execVcmpeqI md va vb mk sz s
  | .vcmpltI md va vb mk sz => execVcmpltI md va vb mk sz s
  | .vcmpleI md va vb mk sz => execVcmpleI md va vb mk sz s
  | .vaddN vd va vb mk sz => execVaddN vd va vb mk sz s
  | .vsubN vd va vb mk sz => execVsubN vd va vb mk sz s
  | .vmulN vd va vb mk sz => execVmulN vd va vb mk sz s
  | .vaddsN vd va vb mk sz => execVaddsN vd va vb mk sz s
  | .vsubsN vd va vb mk sz => execVsubsN vd va vb mk sz s
  | .vminN vd va vb mk sz => execVminN vd va vb mk sz s
  | .vmaxN vd va vb mk sz => execVmaxN vd va vb mk sz s
  | .vshlN vd va vb mk sz => execVshlN vd va vb mk sz s
  | .vshrN vd va vb mk sz => execVshrN vd va vb mk sz s
  | .vcmpeqN md va vb mk sz => execVcmpeqN md va vb mk sz s
  | .vcmpltN md va vb mk sz => execVcmpltN md va vb mk sz s
  | .vcmpleN md va vb mk sz => execVcmpleN md va vb mk sz s
  | .vand vd va vb mk => execVand vd va vb mk s
  | .vor vd va vb mk => execVor vd va vb mk s
  | .vxor vd va vb mk => execVxor vd va vb mk s
  | .vandn vd va vb mk => execVandn vd va vb mk s
  | .vsel vd va vb mk => execVsel vd va vb mk s
  | .vbcst vd a sz mk => execVbcst vd a sz mk s
  | .vshuf vd va vb mk => execVshuf vd va vb mk s
  | .vmov vd va mk => execVmov vd va mk s
  | .mand md ma mb => execMand md ma mb s
  | .mor md ma mb => execMor md ma mb s
  | .mxor md ma mb => execMxor md ma mb s
  | .mandn md ma mb => execMandn md ma mb s
  | .mnot md ma => execMnot md ma s
  | .vlane d va lane => execVlane d va lane s
  | .vaddF vd va vb mk ty => execVaddF vd va vb mk ty s
  | .vsubF vd va vb mk ty => execVsubF vd va vb mk ty s
  | .vmulF vd va vb mk ty => execVmulF vd va vb mk ty s
  | .vfma vd va vb mk ty => execVfma vd va vb mk ty s
  | .vminF vd va vb mk ty => execVminF vd va vb mk ty s
  | .vmaxF vd va vb mk ty => execVmaxF vd va vb mk ty s
  | .vcmpeqF md va vb mk ty => execVcmpeqF md va vb mk ty s
  | .vcmpltF md va vb mk ty => execVcmpltF md va vb mk ty s
  | .vcmpleF md va vb mk ty => execVcmpleF md va vb mk ty s
  | .vabs vd va mk ty => execVabs vd va mk ty s
  | .vneg vd va mk ty => execVneg vd va mk ty s
  | .vexp2 vd va mk => execVexp2 vd va mk s
  | .vlog2 vd va mk => execVlog2 vd va mk s
  | .vrcp vd va mk => execVrcp vd va mk s
  | .vrsq vd va mk => execVrsq vd va mk s
  | .vtanh vd va mk => execVtanh vd va mk s
  | .vrsum vd va mk => execVrsum vd va mk s
  | .vrmax vd va mk => execVrmax vd va mk s
  | .vrmin vd va mk => execVrmin vd va mk s
  | .vtopk vd va vb mk => execVtopk vd va vb mk s
  | .vcvt vd va dt st rm sa mk => execVcvt vd va dt st rm sa mk s
  | .vld l v a off mk => execVld l v a off mk s
  | .vst l v a off mk => execVst l v a off mk s
  | .vqpop l v mk => execVqpop l v mk s
  | .vqpush l v mk => execVqpush l v mk s
  | .fmtw l g => execFmtw l g s
  | .tld l ta g => execTld l ta g s
  | .tst l ta g => execTst l ta g s
  | .tqld l ta => execTqld l ta s
  | .tzero l ta => execTzero l ta s
  | .ttrans l ta tb => execTtrans l ta tb s
  | .tcvt l ta tb rm => execTcvt l ta tb rm s
  | .tmma l acc ta tb => execTmma l acc ta tb s
  | .tmmas l acc ta tb g => execTmmas l acc ta tb g s
  | .tdrain l g acc => execTdrain l g acc s
  | .tdrainadd l g acc k => execTdrainadd l g acc k s
  | .hmrd l g acc => execHmrd l g acc s
  | .hmclr l acc => execHmclr l acc s
  | _ => .next s

end Sys2Proof.Machine
end

