-- ==== Sys2Proof/Machine/TaskEvents.lean ====
section
/-! DEFINITION. Events of a core's clusters: waits that end, stamped issue, trap delivery, power grants, and writes to registers
that have a row of their own (02 R48, 06 R174 to R176, 08 R215, 09 R227 to R234, 15 R345 to R357, 17 R395). -/

namespace Sys2Proof.Machine

/-- The state with a cluster of a core executing. -/
def State.asClu (s : State) (k : Fin 768) (x : Clu) : State := { s with cur := { core := k, clu := x }, latch := none }

/-- The instructions of a cluster's next bundle, where it may issue one and they decode. -/
def State.nextParts (s : State) (k : Fin 768) (x : Clu) : List Part :=
  let t := s.asClu k x
  if !t.canIssue k x then []
  else
    match t.nextBundle with
    | .ok (_, f) => (match decodeBundle x f with
      | .ok ps => ps
      | .error _ => [])
    | .error _ => []

/-- The outcome of a bundle's issue, where it has issued or trapped; else the event was not enabled. -/
def State.unlessStalled (s : State) (o : Out) : Out :=
  match o with
  | .next t => if t.report = .stalled ∨ t.report = .idle then s.idleOut else .next t
  | o => o

/-- A cluster's next bundle issues, where it holds an instruction that meets a condition and nothing holds it back. -/
def State.reissue (s : State) (k : Fin 768) (x : Clu) (f : Part → Bool) : Out :=
  if (s.nextParts k x).any f then s.unlessStalled (s.tryBundle issueInstr k x false) else s.idleOut

/-! Issue. -/

/-- `SYNC_RENDEZVOUS` (R48). -/
def execSyncRendezvous (core : Fin 768) (s : State) : Out := s.unlessStalled (s.rendezvous issueInstr core)

/-- `STALLED_BUNDLE_ISSUE` (R25, R45). -/
def execStalledBundleIssue (core : Fin 768) (clu : Clu) (s : State) : Out := s.reissue core clu fun _ => true

/-- A stamped long form. -/
def Part.stamped (p : Part) : Bool := (majorOf p.w0 % 64 ≥ 0x36) && decide ((longOf p.w1).stamp ≠ 0)

/-- An outcome with no upset left for the commands that start after it. -/
def calmed (o : Out) : Out :=
  match o with
  | .next t => .next { t with ir := { t.ir with upsetP := [], upsetS := [] } }
  | o => o

/-- `STAMPED_ISSUE` (R174): a stamped bundle issues, in its rendezvous where it is a sync bundle, with what falls on the two engines
that its command starts on (14 R322). -/
def execStampedIssue (on : Struck) (s : State) : Out :=
  if (s.nextParts on.core .m).any Part.stamped then
    let ir := { s.ir with upsetP := on.upsetP, upsetS := on.upsetS }
    s.unlessStalled (calmed (({ s with ir := ir } : State).runBundle issueInstr on.core .m))
  else s.idleOut

/-- The stamped instruction of a matrix cluster's next bundle whose guard is true. -/
def State.stampedNext (s : State) (k : Fin 768) : Option Part :=
  let t := s.asClu k .m
  (s.nextParts k .m).find? fun p => p.stamped && t.p (longOf p.w1).guard

/-- The other live clusters of a core stand at their sync bundles, and each of those can issue (R48). -/
def State.peersMeet (s : State) (k : Fin 768) : Bool :=
  let peers := [Clu.a, .v, .c].filter fun x => !((s.core k).clu x).ended
  (peers.all fun x => s.syncNext k x) &&
    match State.tryMeet issueInstr k peers s true with
    | .ok (_, ok) => ok
    | .error _ => false

/-- What holds a stamped bundle is a reason to miss its schedule (R175): an absent token, no room for a post, too few entries for a
`TQLD`, an incomplete rendezvous. -/
def State.missReason (s : State) (k : Fin 768) (p : Part) : Bool :=
  let t := s.asClu k .m
  let short := match p.i with
    | .tqld _ r => decide (t.me.st.qam.length < shRows (t.tsh r))
    | _ => false
  !t.setsReady (longOf p.w1) || short || (s.syncNext k .m && !s.peersMeet k)

/-- A stamped bundle of a matrix cluster has missed its schedule, or is missing it now (R175). -/
def State.missing (s : State) (k : Fin 768) (p : Part) : Bool :=
  let t := s.asClu k .m
  let tick := t.stampTick (longOf p.w1)
  if s.cadence = tick then s.missReason k p else decide (tick < s.cadence) && t.missedStamp (longOf p.w1)

/-- `SCHEDULE_MISS` (R175, R176): the fault, or under LATE the late issue. -/
def execScheduleMiss (core : Fin 768) (s : State) : Out :=
  match s.stampedNext core with
  | none => s.idleOut
  | some p =>
    let t := s.asClu core .m
    if !s.missing core p then s.idleOut
    else if bit t.me.st.stampc 0 then
      s.unlessStalled ((t.onCl fun c => { c with stampSeen := some true }).runBundle issueInstr core .m)
    else
      match t.nextBundle with
      | .ok (u, _) => u.refuseBundle 0x10 0 0 p.w0 p.w1
      | .error _ => s.idleOut

/-- Time passes the target tick of a matrix cluster's stamped bundle: what held it there is kept (R175; notes/assumptions/26.md). -/
def State.markMiss (s : State) (dt : Nat) (k : Fin 768) : State :=
  match s.stampedNext k with
  | none => s
  | some p =>
    if ((s.asClu k .m).stampTick (longOf p.w1) - s.cadence).toNat < dt then
      s.onCore k fun c => c.onClu .m fun u => { u with stampSeen := some (u.stampSeen.getD (s.missReason k p)) }
    else s

/-- What holds the stamped bundles whose target ticks pass within the next dt ticks is kept. -/
def State.markMisses (s : State) (dt : Nat) : State :=
  (s.cores.toList.zipIdx.filter fun e => e.1.task.isSome && !(e.1.clu .m).ended).foldl (fun t e => t.markMiss dt (Fin.ofNat 768 e.2)) s

/-- `WATERMARK_RELEASE` (R215): a held `VLD` or `VST` is performed, or a stalled bundle issues. -/
def execWatermarkRelease (core : Fin 768) (clu : Clu) (s : State) : Out :=
  match (if s.running core then (s.asClu core clu).finishForm 0 else none) with
  | some t => .next { t with report := .issued }
  | none => s.reissue core clu fun p => match p.i with
    | .ld .. => true
    | .st .. => true
    | .lda .. => true
    | .str .. => true
    | .tdesc .. => true
    | .vld .. => true
    | .vst .. => true
    | _ => false

/-- `STRAND_WAIT_END` (R227). -/
def execStrandWaitEnd (core : Fin 768) (clu : Clu) (s : State) : Out :=
  s.reissue core clu fun p => match p.i with
    | .sclaim .. => true
    | .swfill .. => true
    | .swfree .. => true
    | _ => false

/-- A `CLWAIT`. -/
def Part.isClwait (p : Part) : Bool :=
  match p.i with
  | .clwait .. => true
  | _ => false

/-- An `LDGE`. -/
def Part.isLdge (p : Part) : Bool :=
  match p.i with
  | .ldge .. => true
  | _ => false

/-- `CLASP_WAIT_PASS` (R230). -/
def execClaspWaitPass (core : Fin 768) (clu : Clu) (s : State) : Out := s.reissue core clu Part.isClwait

/-- `LATTICE_WAIT_PASS` (R232). -/
def execLatticeWaitPass (core : Fin 768) (clu : Clu) (s : State) : Out := s.reissue core clu Part.isLdge

/-- A wait longer than the timeout it began with raises its fault, precise at its bundle (R139, R230, R234); one that has passed, or
can, does not. -/
def State.timeOut (s : State) (k : Fin 768) (x : Clu) (f : Part → Bool) (cause : Nat) : Out :=
  let t := s.asClu k x
  match t.cl.waitSince, (s.nextParts k x).find? f with
  | some (since, limit), some p =>
    if limit = 0 ∨ s.cadence.toNat ≤ since + limit.toNat ∨ (t.cl.claspWait.map (·.2)).getD false then s.idleOut
    else
      (match t.tryBundle issueInstr k x true with
      | .next u =>
        (match u.report, t.nextBundle with
        | .stalled, .ok (v, _) => v.refuseBundle cause 0 0 p.w0 p.w1
        | _, _ => s.idleOut)
      | o => o)
  | _, _ => s.idleOut

/-- `CLASP_TIMEOUT` (R230). -/
def execClaspTimeout (core : Fin 768) (clu : Clu) (s : State) : Out := s.timeOut core clu Part.isClwait 0x15

/-- `LATTICE_TIMEOUT` (R234). -/
def execLatticeTimeout (core : Fin 768) (clu : Clu) (s : State) : Out := s.timeOut core clu Part.isLdge 0x16

/-! Traps (R345, R348). -/

/-- The first pending trap of a cluster, and the others. -/
def takePend (x : Clu) : List (Clu × Trap) → Option (Trap × List (Clu × Trap))
  | [] => none
  | e :: rest => if e.1 == x then some (e.2, rest) else (takePend x rest).map fun r => (r.1, e :: r.2)

/-- `TRAP_DELIVERY` (R345): a boundary trap, or one delivered to C, at the cluster's bundle boundary. One that is due while the cluster is
in its handler waits for the return (DESIGN CHOICE, notes/assumptions/96.md), and one that meets a save is recorded in it (R356). -/
def execTrapDelivery (core : Fin 768) (clu : Clu) (s : State) : Out :=
  let k := s.core core
  if k.task.isNone || k.term.isSome || k.restoring || (k.clu clu).inh || s.saveWanted core || !s.running core then s.idleOut
  else
    match takePend clu k.pend with
    | none => s.idleOut
    | some (t, rest) =>
      .next { ((s.onCore core fun c => { c with pend := rest }).deliver core clu t (s.pcOf core clu)) with report := .trapped }

/-- `HANDLER_TIMEOUT` (R348). -/
def execHandlerTimeout (core : Fin 768) (clu : Clu) (s : State) : Out :=
  let k := s.core core
  match k.save with
  | none => s.idleOut
  | some r =>
    if !(k.clu clu).inh || k.term.isSome || decide (s.cadence.toNat ≤ r.tick + bits (s.dev 0x821) 0 32) then s.idleOut
    else .next { s.machineCheck core clu 0x22 0 with report := .trapped }

/-! Power (R395). -/

/-- `POWER_GRANT` (R395). A granted `PWRACQ` issues. -/
def execPowerGrant (die : Fin 8) (thermalOk currentOk : Bool) (s : State) : Out :=
  if (vget s.plat.dies die).waiting = [] then s.idleOut else .next { s.examineHead die thermalOk currentOk with report := .issued }

/-! Registers of a core written (R347, R349, R367). -/

/-- A cluster at privileged level writes a register as its `MTS` would, as the privileged window does (R342);
LRTLOAD has rows of its own. -/
def State.putRegister (s : State) (k : Fin 768) (n : Nat) (v : Word) : Out :=
  let t := s.asClu k .c
  if n = 0xA00 then s.idleOut
  else match regFault n .c true true with
  | some _ => s.idleOut
  | none => s.unlessStalled ({ t with report := .issued }.regFrom n v)

/-- `REGISTER_WRITE` (R367). -/
def execRegisterWrite (core : Fin 768) (n : BitVec 12) (value : BitVec 64) (s : State) : Out := s.putRegister core n.toNat value

/-- `WAKE` (R347). -/
def execWake (core : Fin 768) (mask : BitVec 4) (s : State) : Out := s.putRegister core 0x820 (zext mask)

/-- `EMUDONE_FINISH` (R349). -/
def execEmudoneFinish (core : Fin 768) (s : State) : Out := s.event (some (s.emuDone core 1))

/-- `EMUDONE_FAULT` (R112, R349). -/
def execEmudoneFault (core : Fin 768) (s : State) : Out := s.event (some (s.emuDone core 2))

/-- `TRESUME_PLACE` (R357). -/
def execTresumePlace (slot : BitVec 16) (s : State) : Out := s.event (some (s.writeTresume (zext slot)))

/-- `TRESUME_KILL` (R357). -/
def execTresumeKill (slot : BitVec 16) (s : State) : Out := s.event (some (s.writeTresume (zext slot ||| 0x8000_0000_0000_0000)))

/-- `LCTL_SAVE` (R357). -/
def execLctlSave (lid : BitVec 16) (s : State) : Out := s.event (some (s.writeLctl (zext lid ||| 0x8000_0000_0000_0000)))

/-- `LCTL_KILL` (R357). -/
def execLctlKill (lid : BitVec 16) (s : State) : Out := s.event (some (s.writeLctl (zext lid ||| 0xA000_0000_0000_0000)))

/-- `IFT_START` (R338). -/
def execIftStart (value : BitVec 64) (s : State) : Out := s.event (some (s.writeIftctl value))

/-- `IFT_COMPLETE` (R338). -/
def execIftComplete (pass : Bool) (s : State) : Out :=
  if !s.plat.iftBusy then s.idleOut
  else .next { ({ s with plat := { s.plat with iftBusy := false, iftPass := pass } }.notice 0x39 1 s.plat.iftCore.toNat 0 0) with report := .issued }

/-- `CFENCE_CLEAR` (R338). -/
def execCfenceClear (n : Fin 12) (value : BitVec 64) (s : State) : Out := s.event (some (s.writeCfence n.val value))

/-- The shootdown of a SHOOTREQ value of a scope (R364). -/
def State.shootEvent (s : State) (scope : Nat) (value : Word) : Out :=
  if bits value 56 2 = scope ∧ !s.shootWaits value then .next { s.shootRequest value with report := .issued } else s.idleOut

/-- `SHOOTDOWN_PAGES` (R364). -/
def execShootdownPages (value : BitVec 64) (s : State) : Out := s.shootEvent 0 value

/-- `SHOOTDOWN_TENSOR` (R364). -/
def execShootdownTensor (value : BitVec 64) (s : State) : Out := s.shootEvent 1 value

/-- `SHOOTDOWN_CONTEXT` (R364). -/
def execShootdownContext (value : BitVec 64) (s : State) : Out := s.shootEvent 2 value

/-- `LRT_LOAD` (R311): the outcome of the load stands in LRTSTAT. -/
def execLrtLoad (addr : BitVec 64) (s : State) : Out :=
  if addr = 0 then s.idleOut else .next { (s.loadTable 0 addr).1 with report := .issued }

/-- `LRT_UNLOAD` (R311). -/
def execLrtUnload (s : State) : Out := .next { (s.loadTable 0 0).1 with report := .issued }

/-- `XSCH_WRITE` (R315). -/
def execXschWrite (k : Fin 8) (value : BitVec 64) (s : State) : Out := s.event (some (s.writeSchedule k value))

end Sys2Proof.Machine
end

