-- ==== Sys2Proof/Machine/Dispatch.lean ====
section
/-! DEFINITION. Dispatch: one arm per constructor of Instr. -/

namespace Sys2Proof.Machine

def exec (i : Instr) (s : State) : Host.Outcome State Fault Refusal :=
  match i with
  | .add d a b => Sys2Proof.Machine.execAdd d a b s
  | .sub d a b => Sys2Proof.Machine.execSub d a b s
  | .addt d a b => Sys2Proof.Machine.execAddt d a b s
  | .subt d a b => Sys2Proof.Machine.execSubt d a b s
  | .mul d a b => Sys2Proof.Machine.execMul d a b s
  | .mulh d a b => Sys2Proof.Machine.execMulh d a b s
  | .mulhn d a b => Sys2Proof.Machine.execMulhn d a b s
  | .mult d a b => Sys2Proof.Machine.execMult d a b s
  | .div d a b => Sys2Proof.Machine.execDiv d a b s
  | .divn d a b => Sys2Proof.Machine.execDivn d a b s
  | .rem d a b => Sys2Proof.Machine.execRem d a b s
  | .remn d a b => Sys2Proof.Machine.execRemn d a b s
  | .min d a b => Sys2Proof.Machine.execMin d a b s
  | .max d a b => Sys2Proof.Machine.execMax d a b s
  | .minn d a b => Sys2Proof.Machine.execMinn d a b s
  | .maxn d a b => Sys2Proof.Machine.execMaxn d a b s
  | .and d a b => Sys2Proof.Machine.execAnd d a b s
  | .or d a b => Sys2Proof.Machine.execOr d a b s
  | .xor d a b => Sys2Proof.Machine.execXor d a b s
  | .andn d a b => Sys2Proof.Machine.execAndn d a b s
  | .orn d a b => Sys2Proof.Machine.execOrn d a b s
  | .shl d a b => Sys2Proof.Machine.execShl d a b s
  | .shr d a b => Sys2Proof.Machine.execShr d a b s
  | .sra d a b => Sys2Proof.Machine.execSra d a b s
  | .rol d a b => Sys2Proof.Machine.execRol d a b s
  | .ror d a b => Sys2Proof.Machine.execRor d a b s
  | .clz d a => Sys2Proof.Machine.execClz d a s
  | .ctz d a => Sys2Proof.Machine.execCtz d a s
  | .popc d a => Sys2Proof.Machine.execPopc d a s
  | .brev d a => Sys2Proof.Machine.execBrev d a s
  | .bswap d a => Sys2Proof.Machine.execBswap d a s
  | .sextI8 d a => Sys2Proof.Machine.execSextI8 d a s
  | .sextI16 d a => Sys2Proof.Machine.execSextI16 d a s
  | .sextI32 d a => Sys2Proof.Machine.execSextI32 d a s
  | .zextN8 d a => Sys2Proof.Machine.execZextN8 d a s
  | .zextN16 d a => Sys2Proof.Machine.execZextN16 d a s
  | .zextN32 d a => Sys2Proof.Machine.execZextN32 d a s
  | .cmpeq d a b => Sys2Proof.Machine.execCmpeq d a b s
  | .cmpne d a b => Sys2Proof.Machine.execCmpne d a b s
  | .cmplt d a b => Sys2Proof.Machine.execCmplt d a b s
  | .cmple d a b => Sys2Proof.Machine.execCmple d a b s
  | .cmpltn d a b => Sys2Proof.Machine.execCmpltn d a b s
  | .cmplen d a b => Sys2Proof.Machine.execCmplen d a b s
  | .tstnz d a b => Sys2Proof.Machine.execTstnz d a b s
  | .pand d a b => Sys2Proof.Machine.execPand d a b s
  | .por d a b => Sys2Proof.Machine.execPor d a b s
  | .pxor d a b => Sys2Proof.Machine.execPxor d a b s
  | .pandn d a b => Sys2Proof.Machine.execPandn d a b s
  | .pnot d a => Sys2Proof.Machine.execPnot d a s
  | .pset d a => Sys2Proof.Machine.execPset d a s
  | .pget d a => Sys2Proof.Machine.execPget d a s
  | .sel d a b p => Sys2Proof.Machine.execSel d a b p s
  | .lea d a b sh => Sys2Proof.Machine.execLea d a b sh s
  | .gaddr d a b => Sys2Proof.Machine.execGaddr d a b s
  | .addi d a imm => Sys2Proof.Machine.execAddi d a imm s
  | .andi d a imm => Sys2Proof.Machine.execAndi d a imm s
  | .ori d a imm => Sys2Proof.Machine.execOri d a imm s
  | .xori d a imm => Sys2Proof.Machine.execXori d a imm s
  | .shli d a n => Sys2Proof.Machine.execShli d a n s
  | .shri d a n => Sys2Proof.Machine.execShri d a n s
  | .srai d a n => Sys2Proof.Machine.execSrai d a n s
  | .rori d a n => Sys2Proof.Machine.execRori d a n s
  | .cmpeqi d a imm => Sys2Proof.Machine.execCmpeqi d a imm s
  | .cmpnei d a imm => Sys2Proof.Machine.execCmpnei d a imm s
  | .cmplti d a imm => Sys2Proof.Machine.execCmplti d a imm s
  | .cmplei d a imm => Sys2Proof.Machine.execCmplei d a imm s
  | .cmpgti d a imm => Sys2Proof.Machine.execCmpgti d a imm s
  | .cmpgei d a imm => Sys2Proof.Machine.execCmpgei d a imm s
  | .cmpltni d a imm => Sys2Proof.Machine.execCmpltni d a imm s
  | .cmpgtni d a imm => Sys2Proof.Machine.execCmpgtni d a imm s
  | .li d imm => Sys2Proof.Machine.execLi d imm s
  | .lix d imm => Sys2Proof.Machine.execLix d imm s
  | .b p sense word delta => Sys2Proof.Machine.execB p sense word delta s
  | .call p sense word delta => Sys2Proof.Machine.execCall p sense word delta s
  | .jmpr a => Sys2Proof.Machine.execJmpr a s
  | .callr d a => Sys2Proof.Machine.execCallr d a s
  | .loop lv gc word delta => Sys2Proof.Machine.execLoop lv gc word delta s
  | .mfs d n => Sys2Proof.Machine.execMfs d n s
  | .mts n gs => Sys2Proof.Machine.execMts n gs s
  | .tshape t ty cols rows => Sys2Proof.Machine.execTshape t ty cols rows s
  | .trap code => Sys2Proof.Machine.execTrap code s
  | .sret => Sys2Proof.Machine.execSret s
  | .idle => Sys2Proof.Machine.execIdle s
  | .nop => Sys2Proof.Machine.execNop s
  | .ld d a ty off => Sys2Proof.Machine.execLd d a ty off s
  | .st a gs sz off => Sys2Proof.Machine.execSt a gs sz off s
  | .lda d a scope sz sg => Sys2Proof.Machine.execLda d a scope sz sg s
  | .str a b scope sz => Sys2Proof.Machine.execStr a b scope sz s
  | .fence scope => Sys2Proof.Machine.execFence scope s
  | .fencea scope => Sys2Proof.Machine.execFencea scope s
  | .fencer scope => Sys2Proof.Machine.execFencer scope s
  | .wbr a b => Sys2Proof.Machine.execWbr a b s
  | .invr a b => Sys2Proof.Machine.execInvr a b s
  | .discard a b => Sys2Proof.Machine.execDiscard a b s
  | .pref a b => Sys2Proof.Machine.execPref a b s
  | .aadd d a b sz order scope => Sys2Proof.Machine.execAadd d a b sz order scope s
  | .aand d a b sz order scope => Sys2Proof.Machine.execAand d a b sz order scope s
  | .aor d a b sz order scope => Sys2Proof.Machine.execAor d a b sz order scope s
  | .axor d a b sz order scope => Sys2Proof.Machine.execAxor d a b sz order scope s
  | .amin d a b sz order scope => Sys2Proof.Machine.execAmin d a b sz order scope s
  | .amax d a b sz order scope => Sys2Proof.Machine.execAmax d a b sz order scope s
  | .aminn d a b sz order scope => Sys2Proof.Machine.execAminn d a b sz order scope s
  | .amaxn d a b sz order scope => Sys2Proof.Machine.execAmaxn d a b sz order scope s
  | .aswp d a b sz order scope => Sys2Proof.Machine.execAswp d a b sz order scope s
  | .afadd d a b order scope => Sys2Proof.Machine.execAfadd d a b order scope s
  | .acas d a b sz order scope => Sys2Proof.Machine.execAcas d a b sz order scope s
  | .join a b => Sys2Proof.Machine.execJoin a b s
  | .joina a b => Sys2Proof.Machine.execJoina a b s
  | .ldlat d a => Sys2Proof.Machine.execLdlat d a s
  | .ldge d a b => Sys2Proof.Machine.execLdge d a b s
  | .tkwait set => Sys2Proof.Machine.execTkwait set s
  | .tkpost set => Sys2Proof.Machine.execTkpost set s
  | .qpush q a => Sys2Proof.Machine.execQpush q a s
  | .qpop d q => Sys2Proof.Machine.execQpop d q s
  | .sclaim st d => Sys2Proof.Machine.execSclaim st d s
  | .sfill st a => Sys2Proof.Machine.execSfill st a s
  | .swfill st d => Sys2Proof.Machine.execSwfill st d s
  | .srel st a => Sys2Proof.Machine.execSrel st a s
  | .swfree st a => Sys2Proof.Machine.execSwfree st a s
  | .clinit a rel => Sys2Proof.Machine.execClinit a rel s
  | .clexpect a b rel => Sys2Proof.Machine.execClexpect a b rel s
  | .clarrive a b rel => Sys2Proof.Machine.execClarrive a b rel s
  | .clwait a rel => Sys2Proof.Machine.execClwait a rel s
  | .clbase a => Sys2Proof.Machine.execClbase a s
  | .publ => Sys2Proof.Machine.execPubl s
  | .rdcad d => Sys2Proof.Machine.execRdcad d s
  | .locq d a => Sys2Proof.Machine.execLocq d a s
  | .launch d a => Sys2Proof.Machine.execLaunch d a s
  | .pwracq lv => Sys2Proof.Machine.execPwracq lv s
  | .pwrrel => Sys2Proof.Machine.execPwrrel s
  | .exit => Sys2Proof.Machine.execExit s
  | .end_ => Sys2Proof.Machine.execEnd s
  | .tdesc l slot ga gb => Sys2Proof.Machine.execTdesc l slot ga gb s
  | .seqcfg l lv ga gb gc => Sys2Proof.Machine.execSeqcfg l lv ga gb gc s
  | .seqrunCopy l ch slot ga gb => Sys2Proof.Machine.execSeqrunCopy l ch slot ga gb s
  | .seqrunGather l ch slot ga gb => Sys2Proof.Machine.execSeqrunGather l ch slot ga gb s
  | .seqrunScatter l ch slot ga gb => Sys2Proof.Machine.execSeqrunScatter l ch slot ga gb s
  | .seqrunCpyscl l ch slot ga gb => Sys2Proof.Machine.execSeqrunCpyscl l ch slot ga gb s
  | .copy l ch ga gb gc => Sys2Proof.Machine.execCopy l ch ga gb gc s
  | .copyj l ch ga gb gc => Sys2Proof.Machine.execCopyj l ch ga gb gc s
  | .gather l ch ga gb gc cnt esz => Sys2Proof.Machine.execGather l ch ga gb gc cnt esz s
  | .scatter l ch ga gb gc cnt esz => Sys2Proof.Machine.execScatter l ch ga gb gc cnt esz s
  | .copymc l ch ga gb gc mask => Sys2Proof.Machine.execCopymc l ch ga gb gc mask s
  | .cpyscl l ch ga gb gc => Sys2Proof.Machine.execCpyscl l ch ga gb gc s
  | .qsend l ch ga q => Sys2Proof.Machine.execQsend l ch ga q s
  | .qrecv l ch ga => Sys2Proof.Machine.execQrecv l ch ga s
  | .chwait l ch => Sys2Proof.Machine.execChwait l ch s
  | .chwaitStage l ch ga => Sys2Proof.Machine.execChwaitStage l ch ga s
  | .vaddI vd va vb mk sz => Sys2Proof.Machine.execVaddI vd va vb mk sz s
  | .vsubI vd va vb mk sz => Sys2Proof.Machine.execVsubI vd va vb mk sz s
  | .vmulI vd va vb mk sz => Sys2Proof.Machine.execVmulI vd va vb mk sz s
  | .vaddsI vd va vb mk sz => Sys2Proof.Machine.execVaddsI vd va vb mk sz s
  | .vsubsI vd va vb mk sz => Sys2Proof.Machine.execVsubsI vd va vb mk sz s
  | .vminI vd va vb mk sz => Sys2Proof.Machine.execVminI vd va vb mk sz s
  | .vmaxI vd va vb mk sz => Sys2Proof.Machine.execVmaxI vd va vb mk sz s
  | .vshlI vd va vb mk sz => Sys2Proof.Machine.execVshlI vd va vb mk sz s
  | .vshrI vd va vb mk sz => Sys2Proof.Machine.execVshrI vd va vb mk sz s
  | .vcmpeqI md va vb mk sz => Sys2Proof.Machine.execVcmpeqI md va vb mk sz s
  | .vcmpltI md va vb mk sz => Sys2Proof.Machine.execVcmpltI md va vb mk sz s
  | .vcmpleI md va vb mk sz => Sys2Proof.Machine.execVcmpleI md va vb mk sz s
  | .vaddN vd va vb mk sz => Sys2Proof.Machine.execVaddN vd va vb mk sz s
  | .vsubN vd va vb mk sz => Sys2Proof.Machine.execVsubN vd va vb mk sz s
  | .vmulN vd va vb mk sz => Sys2Proof.Machine.execVmulN vd va vb mk sz s
  | .vaddsN vd va vb mk sz => Sys2Proof.Machine.execVaddsN vd va vb mk sz s
  | .vsubsN vd va vb mk sz => Sys2Proof.Machine.execVsubsN vd va vb mk sz s
  | .vminN vd va vb mk sz => Sys2Proof.Machine.execVminN vd va vb mk sz s
  | .vmaxN vd va vb mk sz => Sys2Proof.Machine.execVmaxN vd va vb mk sz s
  | .vshlN vd va vb mk sz => Sys2Proof.Machine.execVshlN vd va vb mk sz s
  | .vshrN vd va vb mk sz => Sys2Proof.Machine.execVshrN vd va vb mk sz s
  | .vcmpeqN md va vb mk sz => Sys2Proof.Machine.execVcmpeqN md va vb mk sz s
  | .vcmpltN md va vb mk sz => Sys2Proof.Machine.execVcmpltN md va vb mk sz s
  | .vcmpleN md va vb mk sz => Sys2Proof.Machine.execVcmpleN md va vb mk sz s
  | .vand vd va vb mk => Sys2Proof.Machine.execVand vd va vb mk s
  | .vor vd va vb mk => Sys2Proof.Machine.execVor vd va vb mk s
  | .vxor vd va vb mk => Sys2Proof.Machine.execVxor vd va vb mk s
  | .vandn vd va vb mk => Sys2Proof.Machine.execVandn vd va vb mk s
  | .vsel vd va vb mk => Sys2Proof.Machine.execVsel vd va vb mk s
  | .vbcst vd a sz mk => Sys2Proof.Machine.execVbcst vd a sz mk s
  | .vshuf vd va vb mk => Sys2Proof.Machine.execVshuf vd va vb mk s
  | .vmov vd va mk => Sys2Proof.Machine.execVmov vd va mk s
  | .mand md ma mb => Sys2Proof.Machine.execMand md ma mb s
  | .mor md ma mb => Sys2Proof.Machine.execMor md ma mb s
  | .mxor md ma mb => Sys2Proof.Machine.execMxor md ma mb s
  | .mandn md ma mb => Sys2Proof.Machine.execMandn md ma mb s
  | .mnot md ma => Sys2Proof.Machine.execMnot md ma s
  | .vlane d va lane => Sys2Proof.Machine.execVlane d va lane s
  | .vaddF vd va vb mk ty => Sys2Proof.Machine.execVaddF vd va vb mk ty s
  | .vsubF vd va vb mk ty => Sys2Proof.Machine.execVsubF vd va vb mk ty s
  | .vmulF vd va vb mk ty => Sys2Proof.Machine.execVmulF vd va vb mk ty s
  | .vfma vd va vb mk ty => Sys2Proof.Machine.execVfma vd va vb mk ty s
  | .vminF vd va vb mk ty => Sys2Proof.Machine.execVminF vd va vb mk ty s
  | .vmaxF vd va vb mk ty => Sys2Proof.Machine.execVmaxF vd va vb mk ty s
  | .vcmpeqF md va vb mk ty => Sys2Proof.Machine.execVcmpeqF md va vb mk ty s
  | .vcmpltF md va vb mk ty => Sys2Proof.Machine.execVcmpltF md va vb mk ty s
  | .vcmpleF md va vb mk ty => Sys2Proof.Machine.execVcmpleF md va vb mk ty s
  | .vabs vd va mk ty => Sys2Proof.Machine.execVabs vd va mk ty s
  | .vneg vd va mk ty => Sys2Proof.Machine.execVneg vd va mk ty s
  | .vexp2 vd va mk => Sys2Proof.Machine.execVexp2 vd va mk s
  | .vlog2 vd va mk => Sys2Proof.Machine.execVlog2 vd va mk s
  | .vrcp vd va mk => Sys2Proof.Machine.execVrcp vd va mk s
  | .vrsq vd va mk => Sys2Proof.Machine.execVrsq vd va mk s
  | .vtanh vd va mk => Sys2Proof.Machine.execVtanh vd va mk s
  | .vrsum vd va mk => Sys2Proof.Machine.execVrsum vd va mk s
  | .vrmax vd va mk => Sys2Proof.Machine.execVrmax vd va mk s
  | .vrmin vd va mk => Sys2Proof.Machine.execVrmin vd va mk s
  | .vtopk vd va vb mk => Sys2Proof.Machine.execVtopk vd va vb mk s
  | .vcvt vd va dt st rm sa mk => Sys2Proof.Machine.execVcvt vd va dt st rm sa mk s
  | .vld l v a off mk => Sys2Proof.Machine.execVld l v a off mk s
  | .vst l v a off mk => Sys2Proof.Machine.execVst l v a off mk s
  | .vqpop l v mk => Sys2Proof.Machine.execVqpop l v mk s
  | .vqpush l v mk => Sys2Proof.Machine.execVqpush l v mk s
  | .fmtw l g => Sys2Proof.Machine.execFmtw l g s
  | .tld l ta g => Sys2Proof.Machine.execTld l ta g s
  | .tst l ta g => Sys2Proof.Machine.execTst l ta g s
  | .tqld l ta => Sys2Proof.Machine.execTqld l ta s
  | .tzero l ta => Sys2Proof.Machine.execTzero l ta s
  | .ttrans l ta tb => Sys2Proof.Machine.execTtrans l ta tb s
  | .tcvt l ta tb rm => Sys2Proof.Machine.execTcvt l ta tb rm s
  | .tmma l acc ta tb => Sys2Proof.Machine.execTmma l acc ta tb s
  | .tmmas l acc ta tb g => Sys2Proof.Machine.execTmmas l acc ta tb g s
  | .tdrain l g acc => Sys2Proof.Machine.execTdrain l g acc s
  | .tdrainadd l g acc k => Sys2Proof.Machine.execTdrainadd l g acc k s
  | .hmrd l g acc => Sys2Proof.Machine.execHmrd l g acc s
  | .hmclr l acc => Sys2Proof.Machine.execHmclr l acc s
  | .vectorFormFinish core turn => Sys2Proof.Machine.execVectorFormFinish core turn s
  | .syncRendezvous core => Sys2Proof.Machine.execSyncRendezvous core s
  | .stalledBundleIssue core clu => Sys2Proof.Machine.execStalledBundleIssue core clu s
  | .stampedIssue on => Sys2Proof.Machine.execStampedIssue on s
  | .scheduleMiss core => Sys2Proof.Machine.execScheduleMiss core s
  | .matrixCommandStart core upsetP upsetS => Sys2Proof.Machine.execMatrixCommandStart core upsetP upsetS s
  | .matrixCommandFinish core => Sys2Proof.Machine.execMatrixCommandFinish core s
  | .hallmarkCompare core acc => Sys2Proof.Machine.execHallmarkCompare core acc s
  | .assayStart core => Sys2Proof.Machine.execAssayStart core s
  | .assayVerdict core upset => Sys2Proof.Machine.execAssayVerdict core upset s
  | .locketRelease core acc upsetP upsetS => Sys2Proof.Machine.execLocketRelease core acc upsetP upsetS s
  | .channelCommandStart core ch => Sys2Proof.Machine.execChannelCommandStart core ch s
  | .copyPiece core turn => Sys2Proof.Machine.execCopyPiece core turn s
  | .pieceArrival core ch upset => Sys2Proof.Machine.execPieceArrival core ch upset s
  | .sequencerEmission core turn => Sys2Proof.Machine.execSequencerEmission core turn s
  | .multicastArrival core => Sys2Proof.Machine.execMulticastArrival core s
  | .watermarkRelease core clu => Sys2Proof.Machine.execWatermarkRelease core clu s
  | .channelCommandFinish core ch => Sys2Proof.Machine.execChannelCommandFinish core ch s
  | .chwaitFinish core => Sys2Proof.Machine.execChwaitFinish core s
  | .strandWaitEnd core clu => Sys2Proof.Machine.execStrandWaitEnd core clu s
  | .claspWaitPass core clu => Sys2Proof.Machine.execClaspWaitPass core clu s
  | .claspTimeout core clu => Sys2Proof.Machine.execClaspTimeout core clu s
  | .latticeWaitPass core clu => Sys2Proof.Machine.execLatticeWaitPass core clu s
  | .latticeTimeout core clu => Sys2Proof.Machine.execLatticeTimeout core clu s
  | .powerGrant die thermalOk currentOk => Sys2Proof.Machine.execPowerGrant die thermalOk currentOk s
  | .trapDelivery core clu => Sys2Proof.Machine.execTrapDelivery core clu s
  | .handlerTimeout core clu => Sys2Proof.Machine.execHandlerTimeout core clu s
  | .taskRetire core => Sys2Proof.Machine.execTaskRetire core s
  | .walkerPlace choice => Sys2Proof.Machine.execWalkerPlace choice s
  | .saveComplete on => Sys2Proof.Machine.execSaveComplete on s
  | .restoreIssueStart on => Sys2Proof.Machine.execRestoreIssueStart on s
  | .launchComplete lid => Sys2Proof.Machine.execLaunchComplete lid s
  | .homeSliceAccess place data => Sys2Proof.Machine.execHomeSliceAccess place data s
  | .rds place die => Sys2Proof.Machine.execRds place die s
  | .rdx place die => Sys2Proof.Machine.execRdx place die s
  | .upg place die => Sys2Proof.Machine.execUpg place die s
  | .putc line die => Sys2Proof.Machine.execPutc line die s
  | .putm line die => Sys2Proof.Machine.execPutm line die s
  | .directoryAck line die => Sys2Proof.Machine.execDirectoryAck line die s
  | .inv line die => Sys2Proof.Machine.execInv line die s
  | .recallS line die => Sys2Proof.Machine.execRecallS line die s
  | .recallI line die => Sys2Proof.Machine.execRecallI line die s
  | .grant line die => Sys2Proof.Machine.execGrant line die s
  | .exchangeInstant sched => Sys2Proof.Machine.execExchangeInstant sched s
  | .exchangeLineDelivery => Sys2Proof.Machine.execExchangeLineDelivery s
  | .flitReceive link dir crcOk => Sys2Proof.Machine.execFlitReceive link dir crcOk s
  | .flitReplay link dir => Sys2Proof.Machine.execFlitReplay link dir s
  | .flitAck link dir => Sys2Proof.Machine.execFlitAck link dir s
  | .linkStopEnd link => Sys2Proof.Machine.execLinkStopEnd link s
  | .laneRetirement link dir group => Sys2Proof.Machine.execLaneRetirement link dir group s
  | .lkctlRateChange link value => Sys2Proof.Machine.execLkctlRateChange link value s
  | .lkctlRetire link value => Sys2Proof.Machine.execLkctlRetire link value s
  | .lkctlRetire1 link value => Sys2Proof.Machine.execLkctlRetire1 link value s
  | .clockStretch island margin => Sys2Proof.Machine.execClockStretch island margin s
  | .istateWrite island value => Sys2Proof.Machine.execIstateWrite island value s
  | .islandStopEnd island => Sys2Proof.Machine.execIslandStopEnd island s
  | .capStretch die power => Sys2Proof.Machine.execCapStretch die power s
  | .ballastStart die fall => Sys2Proof.Machine.execBallastStart die fall s
  | .ballastEnd die => Sys2Proof.Machine.execBallastEnd die s
  | .hostWindowAccess addr req => Sys2Proof.Machine.execHostWindowAccess addr req s
  | .submit q addr => Sys2Proof.Machine.execSubmit q addr s
  | .hqlid lid => Sys2Proof.Machine.execHqlid lid s
  | .ksLoad slot keys => Sys2Proof.Machine.execKsLoad slot keys s
  | .ksInvalidate slot => Sys2Proof.Machine.execKsInvalidate slot s
  | .ksErase slot => Sys2Proof.Machine.execKsErase slot s
  | .peerAccess off req => Sys2Proof.Machine.execPeerAccess off req s
  | .reductionWrite off op sz data => Sys2Proof.Machine.execReductionWrite off op sz data s
  | .ualinkPortLoss port => Sys2Proof.Machine.execUalinkPortLoss port s
  | .cxlPortError port lost => Sys2Proof.Machine.execCxlPortError port lost s
  | .deviceReset cxlFrames => Sys2Proof.Machine.execDeviceReset cxlFrames s
  | .bootLoad addr len signatureOk readOk => Sys2Proof.Machine.execBootLoad addr len signatureOk readOk s
  | .lrtLoad addr => Sys2Proof.Machine.execLrtLoad addr s
  | .lrtUnload => Sys2Proof.Machine.execLrtUnload s
  | .xschWrite k value => Sys2Proof.Machine.execXschWrite k value s
  | .shootdownPages value => Sys2Proof.Machine.execShootdownPages value s
  | .shootdownTensor value => Sys2Proof.Machine.execShootdownTensor value s
  | .shootdownContext value => Sys2Proof.Machine.execShootdownContext value s
  | .tresumePlace slot => Sys2Proof.Machine.execTresumePlace slot s
  | .tresumeKill slot => Sys2Proof.Machine.execTresumeKill slot s
  | .lctlSave lid => Sys2Proof.Machine.execLctlSave lid s
  | .lctlKill lid => Sys2Proof.Machine.execLctlKill lid s
  | .iftStart value => Sys2Proof.Machine.execIftStart value s
  | .iftComplete pass => Sys2Proof.Machine.execIftComplete pass s
  | .cfenceClear n value => Sys2Proof.Machine.execCfenceClear n value s
  | .emudoneFinish core => Sys2Proof.Machine.execEmudoneFinish core s
  | .emudoneFault core => Sys2Proof.Machine.execEmudoneFault core s
  | .wake core mask => Sys2Proof.Machine.execWake core mask s
  | .registerWrite core n value => Sys2Proof.Machine.execRegisterWrite core n value s
  | .patrolScrub die unit loc found => Sys2Proof.Machine.execPatrolScrub die unit loc found s

end Sys2Proof.Machine
end

