-- ==== Sys2Proof/Machine/Turns.lean ====
section
/-! DEFINITION. What a step of the device does beside the instructions: time passes, and a turn is chosen where the agenda names none
(01 R30, 10 R267); notes/assumptions/1.md. -/

namespace Sys2Proof.Machine

/-- A counter n of a task after dt ticks from a tick on: one of cadence ticks has counted them, whatever its cluster filter, and one of
local matrix or stalled cycles has moved by a free amount (R267). -/
def tickCounter (start now dt n : Nat) (sel c : Word) : Word :=
  if bits sel 0 8 = 1 then c + BitVec.ofNat 64 dt
  else if timingEvent (bits sel 0 8) then c + Config.cycles start n now dt
  else c

/-- The counters of time of a core while a task runs on it (R267). -/
def Core.tick (now dt : Nat) (k : Core) : Core :=
  match k.task with
  | none => k
  | some t =>
    if k.rg.pmsel.toList.any fun x => decide (bits x 0 8 = 1) || timingEvent (bits x 0 8) then
      { k with rg := { k.rg with pmc := Vector.ofFn fun n : Fin 8 => tickCounter t.start now dt n.val (vget k.rg.pmsel n) (vget k.rg.pmc n) } }
    else k

/-- The cadence counter moves on by dt ticks (R30). -/
def State.count (dt : Nat) (s : State) : State :=
  { s with cadence := s.cadence + BitVec.ofNat 64 dt, cores := vmap (Core.tick s.cadence.toNat dt) s.cores }

/-- The ballast interval of 25 µs, in ticks of the 2.7 GHz cadence (R379, R398). -/
def ballastTicks : Nat := 67500

/-- Ballast that has run for the ballast interval stops (R398). -/
def Die.cool (now : Nat) (d : Die) : Die :=
  match d.ballast with
  | some t => if t + ballastTicks ≤ now then { d with ballast := none } else d
  | none => d

/-- Energy is charged to a context slot: a task of it is on a core, or its context has lattice memory to exchange (R399). -/
def State.slotDraws (s : State) (i : Nat) : Bool :=
  (s.cores.toList.any fun k => match k.task with
    | some t => decide (t.slot = i)
    | none => false) ||
    (bit (s.dev (0xC00 + i)) 63 && s.lat.tables.any fun t => decide (t.ctx.toNat = bits (s.dev (0xC00 + i)) 0 12))

/-- What the governors do as ticks have passed: ballast ends, and the energy of the time since a tick is charged (R398, R399). -/
def State.govern (since : Nat) (s : State) : State :=
  { s with plat := { s.plat with
      dies := vmap (Die.cool s.cadence.toNat) s.plat.dies
      enCtx := Vector.ofFn fun i : Fin 64 =>
        if s.slotDraws i.val then vget s.plat.enCtx i + BitVec.ofNat 64 (Config.energy since i.val) else vget s.plat.enCtx i
      enPlat := s.plat.enPlat + BitVec.ofNat 64 (Config.energy since 64) } }

/-- dt ticks pass: what happens at each of them, from now on and before the tick that they lead to, is the holds that make a stamped
bundle miss its schedule (R175) and the exchange instants (R316); then the governors see that they have passed. -/
def State.advance (dt : Nat) (s : State) : State :=
  let t := ((s.markMisses dt).exchangesOver dt).count dt
  if dt = 0 then t else t.govern s.cadence.toNat

/-- The clusters that may attempt a bundle, as 4 times the core number plus the cluster code, in rising order. -/
def State.ready (s : State) : List Nat :=
  (s.cores.toList.zipIdx.filter fun e => e.1.task.isSome).flatMap fun e =>
    (allClusters.filter fun x => (s.endIdle (Fin.ofNat 768 e.2) x).canIssue (Fin.ofNat 768 e.2) x).map fun x => 4 * e.2 + (cluCode x).val

/-- The cluster whose turn it is where the agenda names none: the next one round from the last that had a turn. -/
def State.nextTurn (s : State) : Option (Fin 768 × Clu) :=
  let last := 4 * s.cur.core.val + (cluCode s.cur.clu).val
  let l := s.ready
  (match l.find? (last < ·) with
  | some n => some n
  | none => l.head?).map fun n => (Fin.ofNat 768 (n / 4), cluOf n)

/-- A byte that the host writes in its own memory (R385). -/
def State.hostPut (s : State) (a : Nat) (b : Byte) : State :=
  if a < 2 ^ 52 then { s with ms := { s.ms with host := s.ms.host.write a b }, report := .issued } else { s with report := .idle }

/-- A byte that changes in a peer chip's memory (R389). -/
def State.peerPut (s : State) (a : Nat) (b : Byte) : State :=
  if a < 2 ^ 58 then { s with ms := { s.ms with peer := s.ms.peer.write a b }, report := .issued } else { s with report := .idle }

/-- A parity error on a register file of a cluster raises the memory-error machine check on it (R340). -/
def State.parityError (s : State) (k : Fin 768) (x : Clu) : State :=
  if (s.core k).task.isSome then { s.machineCheck k x 0x21 0 with report := .trapped } else { s with report := .idle }

/-! An instruction placed for the next fetch. -/

/-- The cluster class that may hold an instruction word. -/
def placeClu (w0 w1 : Nat) : Clu :=
  (allClusters.find? fun x => match decodeChecked x (w0, w1) with
    | .ok _ => true
    | .error _ => false).getD .c

/-- The memories with one line of code in page 0 of tensor 1 of context 0, which lies in frame 8, and the tables that reach it. -/
def MemSys.withCode (m : MemSys) (link w0 w1 : Nat) : MemSys :=
  { m with
    main := ((((m.main.writeLe 16 8 (2 ^ 63 + 2 ^ 32)).writeLe 24 8 1).writeLe 32768 8 (8 * 2 ^ 24 + 3)).writeLe (8 * 65536) 4 link).writeLe
      (8 * 65536 + 4) 8 (w0 + w1 * 2 ^ 32)
    lineKeys := m.lineKeys.filter fun e => !(e.1 == 0 || e.1 == 512 || e.1 == 8192)
    poison := m.poison.filter fun l => !(l == 0 || l == 512 || l == 8192)
    dieLines := m.dieLines.filter fun d => !(d.line == 0 || d.line == 512 || d.line == 8192)
    trans := m.trans.filter fun t => !(t.line == 0 || t.line == 512 || t.line == 8192)
    reqs := m.reqs.filter fun t => !(t.line == 0 || t.line == 512 || t.line == 8192)
    keys := alSet m.keys 0 { state := 1, key := 0 } }

/-- A cluster at a pc, free to issue, where it is the one named; ended where it is not. -/
def Cluster.placed (c : Cluster) (here : Bool) (pc : Word) : Cluster :=
  { c with pc := pc, pcReg := false, pcBad := false, ended := !here, halted := false, stopped := false, idle := false, atSync := false }

/-- The task that runs a placed instruction. -/
def placedTask : Task :=
  { lid := 1, ordinal := 0, ctx := 0, slot := 0, queue := 0, flags := 0, footW := 0, footA := 0, footC := 0, footS := 0,
    strands := Vector.replicate 16 0, start := 0 }

/-- A core that runs the placed task on one cluster. -/
def Core.placed (k : Core) (x : Clu) (pc : Word) : Core :=
  { k with task := some placedTask, exit := none, term := none, save := none, pend := [], restoring := false,
           cl := Vector.ofFn fun i : Fin 4 => (vget k.cl i).placed (i == cluCode x) pc }

/-- An instruction's words, its E bit set, placed as the only word of the chain a cluster of core 0 runs next. -/
def State.place (s : State) (w : Nat) : State :=
  let w0 := w % 2 ^ 32
  let w0 := if w0 / 2 ^ 24 % 2 = 1 then w0 else w0 + 2 ^ 24
  let w1 := w / 2 ^ 32 % 2 ^ 32
  let x := placeClu w0 w1
  { (s.setDev 0xC00 0x8000_0000_0000_0000) with
    ms := s.ms.withCode (2 ^ 29 + (cluCode x).val * 2 ^ 30) w0 w1
    cores := vset s.cores 0 ((vget s.cores 0).placed x 0x100_0000_0004)
    agenda := []
    latch := none }

end Sys2Proof.Machine
end

