-- ==== Sys2Proof/Machine/Step.lean ====
section
/-! DEFINITION. One step of the device: the turn at the head of the agenda, or the next cluster's bundle where it names none. -/

namespace Sys2Proof.Machine

/-- A turn: the ticks before it pass, and then it happens. An event turn that names an instruction of a bundle does nothing:
instructions run in bundles. -/
def runTurn (t : Turn) (s : State) : Host.Outcome State Fault Refusal :=
  match t with
  | .bundle k x dt => (s.advance dt).runBundle exec k x
  | .event i dt => if majorOfInstr i = 0 then exec i (s.advance dt) else .next { (s.advance dt) with report := .idle }
  | .hostByte a b dt => .next ((s.advance dt).hostPut a b)
  | .peerByte a b dt => .next ((s.advance dt).peerPut a b)
  | .parity k x dt => .next ((s.advance dt).parityError k x)

/-- A turn with the shootdowns that it owes for the pages its write-backs have revived (15 R362). -/
def shotAfter (o : Host.Outcome State Fault Refusal) : Host.Outcome State Fault Refusal :=
  match o with
  | .next t => .next (if t.ms.shots = [] then t else t.shootOwed)
  | o => o

/-- One step. -/
def step (s : State) : Host.Outcome State Fault Refusal :=
  match s.agenda with
  | t :: rest => shotAfter (runTurn t { s with agenda := rest })
  | [] =>
    match s.nextTurn with
    | some (k, x) => shotAfter (runTurn (.bundle k x 1) s)
    | none => .next { (s.advance 1) with report := .idle }

/-- The state with an instruction of nbits bits placed where the next step fetches; notes/assumptions/5.md and 6.md. -/
def State.withFetchWord (s : State) (nbits w : Nat) : State := s.place (w % 2 ^ nbits)

end Sys2Proof.Machine
end

