-- ==== Sys2Proof/Safety.lean ====
section
/-! DEFINITION. What the statements call a safe state, and the frames they state: what an instruction leaves as it was. -/

namespace Sys2Proof.Machine

/-! The canonical form. -/

/-- Every byte store of a core stands in its canonical form. -/
def Storage.wf (t : Storage) : Bool :=
  t.bufW.wf && t.bufA.wf && t.bufC.wf && t.bufS.wf && t.tiles.toList.all Memory.wf

/-- Every memory of the device stands in its canonical form, those of latched and saved cores among them. -/
def State.wf (s : State) : Bool :=
  s.ms.main.wf && s.ms.host.wf && s.ms.peer.wf && s.cores.toList.all (fun k => k.st.wf) && canonicalAbove devReset none s.regs &&
    s.sch.saved.all (fun v => v.core.st.wf) &&
    match s.latch with
    | some k => k.st.wf
    | none => true

/-! Registers as a core holds them now. -/

/-- A general register; g0 reads zero (R10). -/
def Cluster.gReg (c : Cluster) (r : Reg) : Word := if r = 0 then 0 else vget c.g r

/-- A predicate; p0 reads true (R11). -/
def Cluster.pReg (c : Cluster) (p : Pred) : Bool := if p = 0 then true else vget c.p p

/-- A mask; m0 reads all ones (R15). -/
def Storage.mReg (t : Storage) (m : MReg) : Word := if m = 0 then 0xFFFF_FFFF_FFFF_FFFF else vget t.m m

/-! Frames. -/

/-- Every byte of the memories behind the dies reads as before, and what caches, encrypts and orders them is as before. -/
def sameMemory (s t : State) : Prop :=
  (∀ a, t.ms.main.read a = s.ms.main.read a) ∧ (∀ a, t.ms.host.read a = s.ms.host.read a) ∧
  (∀ a, t.ms.peer.read a = s.ms.peer.read a) ∧ t.ms.lineKeys = s.ms.lineKeys ∧ t.ms.dieLines = s.ms.dieLines ∧
  t.ms.dir = s.ms.dir ∧ t.ms.trans = s.ms.trans ∧ t.ms.reqs = s.ms.reqs ∧ t.ms.poison = s.ms.poison ∧ t.ms.keys = s.ms.keys ∧
  t.ms.waysOff = s.ms.waysOff ∧ t.ms.shots = s.ms.shots ∧ t.ms.outcomes = s.ms.outcomes

/-- Nothing outside the memories and the executing core changes. -/
def sameOutside (s t : State) : Prop :=
  t.cadence = s.cadence ∧ t.quads = s.quads ∧ t.lat = s.lat ∧ t.sch = s.sch ∧ t.plat = s.plat ∧ t.regs = s.regs ∧
  t.agenda = s.agenda ∧ t.cur = s.cur ∧ t.latch = s.latch ∧ t.ir = s.ir ∧ t.free = s.free ∧
  ∀ k, k ≠ s.cur.core → t.core k = s.core k

/-- Nothing changes but the executing cluster. -/
def sameButCluster (s t : State) : Prop :=
  sameMemory s t ∧ sameOutside s t ∧ t.me = { s.me with cl := t.me.cl } ∧ ∀ x, x ≠ s.cur.clu → t.me.clu x = s.me.clu x

/-- Nothing changes but general register d, which becomes x; g0 stays zero. -/
def wroteG (s t : State) (d : Reg) (x : Word) : Prop :=
  sameButCluster s t ∧ t.report = s.report ∧ t.cl = { s.cl with g := t.cl.g } ∧
  ∀ r, t.cl.gReg r = if r = d ∧ d ≠ 0 then x else s.cl.gReg r

/-- Nothing changes but predicate d, which becomes x; p0 stays true. -/
def wroteP (s t : State) (d : Pred) (x : Bool) : Prop :=
  sameButCluster s t ∧ t.report = s.report ∧ t.cl = { s.cl with p := t.cl.p } ∧
  ∀ r, t.cl.pReg r = if r = d ∧ d ≠ 0 then x else s.cl.pReg r

/-- The instruction executes, and its whole effect is that general register d becomes x. -/
def WritesG (i : Instr) (s : State) (d : Reg) (x : Word) : Prop := ∃ t, exec i s = .next t ∧ wroteG s t d x

/-- The instruction executes, and its whole effect is that predicate d becomes x. -/
def WritesP (i : Instr) (s : State) (d : Pred) (x : Bool) : Prop := ∃ t, exec i s = .next t ∧ wroteP s t d x

/-- The executing cluster goes on at pc; beside it, only general registers may have changed. -/
def jumped (s t : State) (pc : Word) : Prop :=
  sameButCluster s t ∧ t.report = .branched ∧ t.cl = { s.cl with g := t.cl.g, pc := pc, pcReg := false, lineRoom := t.cl.lineRoom }

/-- General register d becomes x, and the others are as before. -/
def onlyG (s t : State) (d : Reg) (x : Word) : Prop := ∀ r, t.cl.gReg r = if r = d ∧ d ≠ 0 then x else s.cl.gReg r

/-- Nothing changes but one cluster of one core and that core's task-ending records; another core at most joins a save of its launch as a
whole (R351). -/
def sameButTrapped (s t : State) (k : Fin 768) (x : Clu) : Prop :=
  sameMemory s t ∧ t.cadence = s.cadence ∧ t.quads = s.quads ∧ t.lat = s.lat ∧ t.sch = s.sch ∧ t.plat = s.plat ∧
  t.regs = s.regs ∧ t.agenda = s.agenda ∧ t.cur = s.cur ∧ t.ir = s.ir ∧ t.free = s.free ∧
  (∀ j, j ≠ k → t.core j = s.core j ∨
    (t.core j = (s.core j).requestSave 5 s.cadence.toNat ∧ (t.core k).save.isSome = true ∧ s.sameLaunch k j = true)) ∧ (∀ y, y ≠ x → (t.core k).clu y = (s.core k).clu y) ∧
  t.core k = { s.core k with cl := (t.core k).cl, term := (t.core k).term, save := (t.core k).save }

/-- The registers that a trap leaves to its handler as the task had them (R345): the trap registers, the pc, the level and
the states that end with a trap are all that may differ. -/
def sameButTrapRegs (c d : Cluster) : Prop :=
  d = { c with tcause := d.tcause, taddr := d.taddr, tinfo := d.tinfo, tpc := d.tpc, tpcReg := d.tpcReg, tstat := d.tstat, priv := d.priv,
               inh := d.inh, ended := d.ended, halted := d.halted, idle := d.idle, pc := d.pc, pcReg := d.pcReg,
               pcBad := d.pcBad, lineRoom := d.lineRoom, atSync := d.atSync, waitSince := d.waitSince, claspWait := d.claspWait
               claspKept := d.claspKept }

/-- Nothing changes but storage of the executing core. -/
def sameButStorage (s t : State) : Prop :=
  sameMemory s t ∧ sameOutside s t ∧ t.report = s.report ∧ t.me = { s.me with st := t.me.st }

/-! Ordered checks, events, long forms. -/

/-- The instruction runs its checks in their order: the first that fails decides the fault, and with none failing it goes on. -/
def inOrder (i : Instr) (s : State) (checks : List (Prop × Nat × Nat × Word)) (goesOn : Prop) : Prop :=
  (∀ pre p c d a post, checks = pre ++ (p, c, d, a) :: post → (∀ q ∈ pre, ¬ q.1) → p → exec i s = s.faultAt c d a) ∧
  ((∀ q ∈ checks, ¬ q.1) → goesOn)

/-- As `inOrder`, for a unit that reports its faults in a way of its own. -/
def inOrderBy (fault : Nat → Nat → Word → Out) (i : Instr) (s : State) (checks : List (Prop × Nat × Nat × Word)) (goesOn : Prop) : Prop :=
  (∀ pre p c d a post, checks = pre ++ (p, c, d, a) :: post → (∀ q ∈ pre, ¬ q.1) → p → exec i s = fault c d a) ∧
  ((∀ q ∈ checks, ¬ q.1) → goesOn)

/-- A long form under its guard and its sets (R51, R196): nullified, waiting, or acting. -/
def underGuard (i : Instr) (s : State) (l : Long) (acts : Prop) : Prop :=
  (s.p l.guard = false → exec i s = .next s) ∧
  (s.p l.guard = true → s.setsReady l = false → exec i s = s.stall) ∧
  (s.p l.guard = true → s.setsReady l = true → acts)

/-- The storage after a long form has taken its wait tokens and reserved room for its post set. -/
def Storage.took (t : Storage) (x : Clu) (l : Long) : Storage := (t.popTokens x l.wait).reserve x l.post

/-- The storage after a long form has taken its wait tokens and pushed its post set. -/
def Storage.passed (t : Storage) (x : Clu) (l : Long) : Storage := (t.popTokens x l.wait).pushTokens x l.post

/-- A channel command enters its channel last, takes its sets and a completion slot, and nothing else changes. -/
def entered (s t : State) (l : Long) (ch : Fin 8) (c : ChCmd) : Prop :=
  let x := vget s.me.en.chans ch
  sameMemory s t ∧ sameOutside s t ∧ t.report = s.report ∧
  t.me = { s.me with
    st := s.me.st.took s.cur.clu l
    en := { s.me.en with chans := vset s.me.en.chans ch { x with cmds := x.cmds ++ [c], next := x.next + 1 }
                         issued := s.me.en.issued + 1, check := t.me.en.check } }

/-- The event is not enabled: the step changes nothing. -/
def Idles (i : Instr) (s : State) : Prop := exec i s = .next { s with report := .idle }

/-- The event happens for cluster x of core k and leaves a state as f says. -/
def Happens (i : Instr) (s : State) (k : Fin 768) (x : Clu) (f : State → Prop) : Prop :=
  ∃ t, exec i s = .next t ∧ t.report = .issued ∧ t.cur = { core := k, clu := x } ∧ f t

/-- The device as an event of cluster x of core k finds it. -/
def State.at_ (s : State) (k : Fin 768) (x : Clu) : State := { s with cur := { core := k, clu := x }, latch := none }

/-- The event happens and leaves a state as f says. -/
def Occurs (i : Instr) (s : State) (f : State → Prop) : Prop := ∃ t, exec i s = .next t ∧ t.report = .issued ∧ f t

/-- Cluster x of core k may issue, its next bundle is the one instruction p, as fetch finds it in v and f, no issued form holds it,
and no hardware loop ends at it. -/
def NextIs (s : State) (k : Fin 768) (x : Clu) (p : Part) (v : State) (f : Fetched) : Prop :=
  (s.at_ k x).canIssue k x = true ∧ (s.at_ k x).nextBundle = .ok (v, f) ∧ decodeBundle x f = .ok [p] ∧ wellFormed p.i = true ∧
  (v.core k).interlocked x p.i = false ∧ ∀ l, vget v.cl.lpc l = 0

/-- The state in which the one instruction of a bundle executes: registers latched, the pc behind the bundle. -/
def State.entering (v : State) (p : Part) (f : Fetched) : State :=
  { (v.onCl fun c => { c with pc := f.npc, pcReg := false, lineRoom := maxLines + 1 }) with
    latch := some v.me, ir := { v.ir with bpc := f.addr, npc := f.npc, w0 := BitVec.ofNat 32 p.w0, w1 := BitVec.ofNat 32 p.w1 }
    report := .issued }

/-- Bundles of core k have issued: outside the core nothing changes, and of the clusters in `on` only general registers, the pc, the
count of sync bundles and the records of waits and holds do; the pc of each stands where `pc` says. -/
def issuedPast (s t : State) (k : Fin 768) (on : Clu → Prop) (pc : Clu → Word) : Prop :=
  sameMemory s t ∧ t.cadence = s.cadence ∧ t.lat = s.lat ∧ t.sch = s.sch ∧ t.plat = s.plat ∧ t.regs = s.regs ∧
  t.agenda = s.agenda ∧ t.free = s.free ∧ t.quads = s.quads ∧ (∀ j, j ≠ k → t.core j = s.core j) ∧ t.report = .issued ∧
  ∀ y, (¬ on y → (t.core k).clu y = (s.core k).clu y) ∧ (on y → (t.core k).clu y =
    { (s.core k).clu y with g := ((t.core k).clu y).g, pc := pc y, pcReg := false, lineRoom := ((t.core k).clu y).lineRoom, atSync := false
                            syncs := ((t.core k).clu y).syncs, waitSince := ((t.core k).clu y).waitSince
                            claspWait := ((t.core k).clu y).claspWait, claspKept := ((t.core k).clu y).claspKept
                            stampSeen := none, hold := ((t.core k).clu y).hold })

/-- Nothing changes but what belongs to core k. -/
def sameButCore (s t : State) (k : Fin 768) : Prop :=
  sameMemory s t ∧ t.cadence = s.cadence ∧ t.quads = s.quads ∧ t.lat = s.lat ∧ t.sch = s.sch ∧ t.plat = s.plat ∧
  t.regs = s.regs ∧ t.agenda = s.agenda ∧ t.free = s.free ∧ ∀ j, j ≠ k → t.core j = s.core j

/-! Vector registers, masks and lanes. -/

/-- Nothing changes but vector register d, and AFLAGS bits that are set. -/
def wroteV (s t : State) (d : VReg) (fl : BitVec 8) : Prop :=
  sameMemory s t ∧ sameOutside s t ∧ t.report = s.report ∧
  t.me = { s.me with st := { s.me.st with v := t.me.st.v }, rg := { s.me.rg with aflags := s.me.rg.aflags ||| fl.setWidth 64 } } ∧
  ∀ r, r ≠ d → vget t.me.st.v r = vget s.me.st.v r

/-- Nothing changes but mask d, which becomes x; m0 stays all ones. -/
def wroteM (s t : State) (d : MReg) (x : Word) : Prop :=
  sameMemory s t ∧ sameOutside s t ∧ t.report = s.report ∧ t.me = { s.me with st := { s.me.st with m := t.me.st.m } } ∧
  ∀ r, t.me.st.mReg r = if r = d ∧ d ≠ 0 then x else s.me.st.mReg r

/-- Lane i of w bytes of a line, as a natural number. -/
def Line.part (l : Line) (w i : Nat) : Nat := l.toNat / 2 ^ (8 * w * i) % 2 ^ (8 * w)

/-- The vector instruction completes: lane i of w bytes becomes the first value of `res i` where the mask has bit w i, and keeps
what it held before the bundle elsewhere; the AFLAGS bits set are those of the active lanes. -/
def VecLanes (i : Instr) (s : State) (vd : VReg) (mk : MReg) (w : Nat) (res : Nat → Nat → BitVec 8 → Prop) : Prop :=
  ∃ t f, exec i s = .next t ∧ wroteV s t vd f ∧
    ∃ fl : Nat → BitVec 8,
      (∀ j, j < 64 / w → if (s.mask mk).getLsbD (w * j) = true then res j (Line.part (vget t.me.st.v vd) w j) (fl j)
        else Line.part (vget t.me.st.v vd) w j = Line.part (s.v vd) w j ∧ fl j = 0) ∧
      ∀ b, f.getLsbD b = true ↔ ∃ j, j < 64 / w ∧ (fl j).getLsbD b = true

/-- The compare completes: bits w i up to w i + w - 1 of the mask are set where lane i is active and the relation holds. -/
def VecCompare (i : Instr) (s : State) (md : MReg) (mk : MReg) (w : Nat) (rel : Nat → Prop) : Prop :=
  ∃ t x, exec i s = .next t ∧ wroteM s t md x ∧
    ∀ b, b < 64 → (x.getLsbD b = true ↔ (s.mask mk).getLsbD (w * (b / w)) = true ∧ rel (b / w))

/-- A finite value as a rational number. -/
def Val.rat : Val → ℚ
  | .fin s m x => (if s then -1 else 1) * m * (2 : ℚ) ^ x
  | _ => 0

/-! Numbers as the rules of 04 give them, apart from the functions that compute them. -/

/-- A floating format's numbers (R102, R103, R119): fraction width, bias, the code of its largest finite value, the code and flags of
an overflow under RNE or SR without saturation, the weight of its sign bit, its canonical NaN and its infinity. -/
structure FloatRow where
  f : FloatFmt
  p : Nat
  bias : Nat
  top : Nat
  past : Nat
  flags : BitVec 8
  sign : Nat
  nan : Option Nat
  inf : Option Nat
  deriving DecidableEq, Repr

/-- F32 (R102, R103). -/
def f32Row : FloatRow := ⟨f32, 23, 127, 0x7F7F_FFFF, 0x7F80_0000, OVF, 2 ^ 31, some 0x7FC0_0000, some 0x7F80_0000⟩

/-- The formats of R102 and R103. -/
def floatRows : List FloatRow :=
  [f32Row,
   ⟨f16, 10, 15, 0x7BFF, 0x7C00, OVF, 2 ^ 15, some 0x7E00, some 0x7C00⟩,
   ⟨bf16, 7, 127, 0x7F7F, 0x7F80, OVF, 2 ^ 15, some 0x7FC0, some 0x7F80⟩,
   ⟨e5m2, 2, 15, 0x7B, 0x7C, OVF, 2 ^ 7, some 0x7E, some 0x7C⟩,
   ⟨e4m3, 3, 7, 0x7E, 0x7F, OVF ||| INV, 2 ^ 7, some 0x7F, none⟩,
   ⟨e2m1, 1, 1, 7, 7, OVF, 2 ^ 3, none, none⟩,
   ⟨e2m3, 3, 1, 0x1F, 0x1F, OVF, 2 ^ 5, none, none⟩,
   ⟨e3m2, 2, 3, 0x1F, 0x1F, OVF, 2 ^ 5, none, none⟩]

/-- The magnitude of a code without its sign, the exponent unbounded (R103). -/
def FloatRow.value (t : FloatRow) (c : Nat) : ℚ :=
  if c < 2 ^ t.p then c * (2 : ℚ) ^ (1 - (t.bias : ℤ) - t.p) else (2 ^ t.p + c % 2 ^ t.p : Nat) * (2 : ℚ) ^ ((c / 2 ^ t.p : Nat) - (t.bias : ℤ) - t.p)

/-- The exponent of an element (R114). -/
def FloatRow.exp (t : FloatRow) (b : Nat) : ℤ := (max (b % t.sign / 2 ^ t.p) 1 : Nat) - (t.bias : ℤ)

/-- The number of the grid point that a magnitude rounds to (R119): modes 0 RNE, 1 RTZ, 2 SR with the draw u. -/
def RoundsOn (grid : Nat → ℚ) (q : ℚ) (mode u c : Nat) : Prop :=
  ∃ n, grid n ≤ q ∧ q < grid (n + 1) ∧
    let lo := q - grid n
    let hi := grid (n + 1) - q
    c = if lo = 0 ∨ mode = 1 then n
        else if mode = 0 then (if lo < hi then n else if hi < lo then n + 1 else n + n % 2)
        else if 2 ^ 32 ≤ ⌊lo / (grid (n + 1) - grid n) * 2 ^ 32⌋ + u then n + 1 else n

/-- `round_to` of R119 on the magnitude q and its sign, with R113's flags. -/
def FloatRow.Rounds (t : FloatRow) (neg : Bool) (q : ℚ) (mode : Nat) (sa : Bool) (u r : Nat) (fl : BitVec 8) : Prop :=
  let s := if neg then t.sign else 0
  (q = 0 → r = s ∧ fl = 0) ∧
  (q ≠ 0 → ∃ c, RoundsOn t.value q mode u c ∧ (c ≤ t.top → r = s + c ∧ fl = 0) ∧
    (t.top < c → if sa = true ∨ mode = 1 then r = s + t.top ∧ fl = OVF else r = s + t.past ∧ fl = t.flags))

/-- The table values of LOG6 and zero, L unbounded (R107, R122). -/
def log6Grid (l : Nat) : ℚ := if l = 0 then 0 else ([256, 304, 362, 431].getD (l % 4) 0 : Nat) * (2 : ℚ) ^ ((l / 4 : Nat) - (12 : ℤ))

/-- An element of a format read (R103, R104, R106 to R108): its value, and FMTV where the byte breaks its format. -/
def Fmt.ReadsAs (t : Fmt) (b : Nat) (v : Val) (fl : BitVec 8) : Prop :=
  match t with
  | .float f => ∀ r ∈ floatRows, r.f = f →
    if r.nan = none ∧ 2 * r.sign ≤ b then v = .nan ∧ fl = FMTV
    else
      let neg := decide (b / r.sign % 2 = 1)
      let c := b % r.sign
      fl = 0 ∧ (c ≤ r.top → ∃ m e, v = .fin neg m e ∧ (m : ℚ) * 2 ^ e = r.value c) ∧
        (r.top < c → (r.inf = some c → v = .inf neg) ∧ (r.inf ≠ some c → v = .nan))
  | .log6 =>
    (64 ≤ b → v = .nan ∧ fl = FMTV) ∧ (b < 64 → fl = 0) ∧ (b = 32 → v = .nan) ∧
      (b < 64 → b ≠ 32 → ∃ m e, v = .fin (decide (32 < b)) m e ∧ (m : ℚ) * 2 ^ e = log6Grid (b % 32))
  | .int w signed =>
    let n := b % 2 ^ w
    let k : ℤ := if signed = true ∧ 2 ^ (w - 1) ≤ n then (n : ℤ) - 2 ^ w else n
    fl = 0 ∧ v = .fin (decide (k < 0)) k.natAbs 0

/-- A value converted into a format (R113, R120, R122); `exact` for an integer source. -/
def Fmt.Converts (t : Fmt) (v : Val) (exact : Bool) (mode : Nat) (sa : Bool) (u r : Nat) (fl : BitVec 8) : Prop :=
  match t with
  | .float f => ∀ t ∈ floatRows, t.f = f →
    (v = .nan → (∀ n, t.nan = some n → r = n ∧ fl = 0) ∧ (t.nan = none → r = 0 ∧ fl = INV)) ∧
    (∀ neg, v = .inf neg →
      let s := if neg then t.sign else 0
      (∀ n, t.inf = some n → r = s + n ∧ fl = 0) ∧
      (t.inf = none → fl = INV ∧ (sa = true ∨ t.nan = none → r = s + t.top) ∧ (∀ n, sa = false → t.nan = some n → r = n))) ∧
    (∀ neg m e, v = .fin neg m e → t.Rounds neg (m * 2 ^ e) mode sa u r fl)
  | .log6 =>
    (v = .nan → r = 32 ∧ fl = 0) ∧
    (∀ neg, v = .inf neg → fl = INV ∧ r = if sa = true then (if neg then 63 else 31) else 32) ∧
    (∀ neg m e, v = .fin neg m e → ∃ l, RoundsOn log6Grid (m * 2 ^ e) mode u l ∧
      let s := if neg then 32 else 0
      (l = 0 → r = 0 ∧ fl = 0) ∧ (0 < l → l < 32 → r = s + l ∧ fl = 0) ∧
      (32 ≤ l → if sa = true ∨ mode = 1 then r = s + 31 ∧ fl = OVF else r = 32 ∧ fl = OVF ||| INV))
  | .int w signed =>
    let lo : ℤ := if signed then -2 ^ (w - 1) else 0
    let hi : ℤ := if signed then 2 ^ (w - 1) - 1 else 2 ^ w - 1
    (v = .nan → r = 0 ∧ fl = INV) ∧
    (∀ neg, v = .inf neg → fl = INV ∧ (r : ℤ) = (if neg then lo else hi) % 2 ^ w) ∧
    (∀ neg m e, v = .fin neg m e → ∃ n, RoundsOn (fun i => (i : ℚ)) (m * 2 ^ e) mode u n ∧
      let k : ℤ := if neg then -(n : ℤ) else n
      (exact = true → sa = false → (r : ℤ) = k % 2 ^ w ∧ fl = 0) ∧
      (exact = false ∨ sa = true → (r : ℤ) = max lo (min hi k) % 2 ^ w ∧ fl = if k < lo ∨ hi < k then ISAT else 0))

/-- A finite sum g * 2^u enters the FP32 accumulator word c by one rounding (R116). -/
def AddsFinite (c : Nat) (g u : ℤ) (r : Nat) (fl : BitVec 8) : Prop :=
  let v := f32.read c
  let x := v.rat + g * (2 : ℚ) ^ u
  (v = .nan → r = 0x7FC0_0000 ∧ fl = 0) ∧ (v ≠ .nan → (g = 0 ∨ ∃ n, v = .inf n) → r = c ∧ fl = 0) ∧
  (v ≠ .nan → (∀ n, v ≠ .inf n) → g ≠ 0 → f32Row.Rounds (decide (x < 0)) |x| 0 false 0 r fl)

/-- A group of floating products enters the FP32 accumulator word c (R115 to R117): F the window's fraction width, S the block-scale
exponent, none where a scale is NaN. -/
def GroupEnters (a b : FloatRow) (F : Nat) (ps : List (Nat × Nat)) (S : Option ℤ) (c r : Nat) (fl : BitVec 8) : Prop :=
  let A (p : Nat × Nat) := a.f.read p.1
  let B (p : Nat × Nat) := b.f.read p.2
  let infinite (v : Val) : Prop := ∃ n, v = .inf n
  let zero (v : Val) : Prop := ∃ n e, v = .fin n 0 e
  let sign (v : Val) : Bool := match v with
    | .fin n _ _ => n
    | .inf n => n
    | .nan => false
  let nan : Prop := S = none ∨ ∃ p ∈ ps, A p = .nan ∨ B p = .nan
  let clash : Prop := ∃ p ∈ ps, infinite (A p) ∧ zero (B p) ∨ zero (A p) ∧ infinite (B p)
  let inf (n : Bool) : Prop := ∃ p ∈ ps, A p ≠ .nan ∧ B p ≠ .nan ∧ (infinite (A p) ∨ infinite (B p)) ∧ ¬ zero (A p) ∧ ¬ zero (B p) ∧
    (sign (A p) ^^ sign (B p)) = n
  let invalid : Prop := clash ∨ inf true ∧ inf false
  let v := f32.read c
  let exp (p : Nat × Nat) : ℤ := a.exp p.1 + b.exp p.2
  let prod (p : Nat × Nat) : ℚ := (A p).rat * (B p).rat
  (v = .nan ∨ nan → r = 0x7FC0_0000 ∧ fl = 0) ∧
  (v ≠ .nan → ¬ nan →
    (invalid → r = 0x7FC0_0000 ∧ fl = INV) ∧
    (¬ invalid → ∀ n, inf n → if v = .inf !n then r = 0x7FC0_0000 ∧ fl = INV else r = (if n then 0xFF80_0000 else 0x7F80_0000) ∧ fl = 0) ∧
    (¬ invalid → (∀ n, ¬ inf n) → ((∀ p ∈ ps, prod p = 0) → r = c ∧ fl = 0) ∧
      ∀ p ∈ ps, prod p ≠ 0 → (∀ q ∈ ps, prod q ≠ 0 → exp q ≤ exp p) → ∀ k, S = some k →
        AddsFinite c (ps.map fun q => (if prod q < 0 then -1 else 1) * ⌊|prod q| * (2 : ℚ) ^ ((F : ℤ) - exp p)⌋).sum (exp p - F + k) r fl))

/-- A row of LOG6 products enters the FP32 accumulator word c (R118). -/
def Log6RowEnters (ps : List (Nat × Nat)) (c r : Nat) (fl : BitVec 8) : Prop :=
  let nar (b : Nat) : Prop := 64 ≤ b ∨ b = 32
  let prod (p : Nat × Nat) : ℤ :=
    if p.1 = 0 ∨ p.2 = 0 then 0
    else
      let s := p.1 % 32 + p.2 % 32
      (if p.1 / 32 = p.2 / 32 then 1 else -1) * (([256, 304, 362, 431].getD (s % 4) 0 : Nat) * 2 ^ (s / 4) : Nat)
  ((∃ p ∈ ps, nar p.1 ∨ nar p.2) → r = 0x7FC0_0000 ∧ fl = 0) ∧
  ((∀ p ∈ ps, ¬ nar p.1 ∧ ¬ nar p.2) → AddsFinite c (ps.map prod).sum (-16) r fl)

/-- A row of I8 products enters the accumulator word c under the accumulate mode: 0 FP32, 1 INT32 wrapping, 2 INT32 saturating (R118). -/
def Int8RowEnters (mode : Nat) (ps : List (Nat × Nat)) (c r : Nat) (fl : BitVec 8) : Prop :=
  let val (w n : Nat) : ℤ := if 2 ^ (w - 1) ≤ n then (n : ℤ) - 2 ^ w else n
  let g := (ps.map fun p => val 8 p.1 * val 8 p.2).sum
  let k := val 32 c + g
  let y := max (-2 ^ 31) (min (2 ^ 31 - 1) k)
  (mode = 0 → AddsFinite c g 0 r fl) ∧ (mode = 1 → (r : ℤ) = k % 2 ^ 32 ∧ fl = 0) ∧
  (mode = 2 → (r : ℤ) = y % 2 ^ 32 ∧ fl = if y = k then 0 else ISAT)

end Sys2Proof.Machine
end

