-- ==== Sys2Proof/Certificates/Slice0/Obligations.lean ====
section
/-! DEFINITION. The statements for the provers, one definition for each entry of OBLIGATIONS.json. -/

open Sys2Proof Sys2Proof.Machine

/-- Integer arithmetic writes the exact result modulo 2^64 and nothing else (R129). Every form of majors 0x01 and 0x08
completes in every state where its exact signed result fits (ADDT, SUBT, MULT) or always (the others), writes gD the
value of R129 modulo 2^64, and changes nothing else; ADDT, SUBT and MULT raise the integer-overflow fault where the
exact result lies outside the signed range. A destination of g0 keeps nothing. -/
def Obligations.IntegerArithmeticWritesTheRuleValue : Prop :=
  ∀ (s : State) (d a b : Reg) (imm : BitVec 14),
    let x := s.g a
    let y := s.g b
    let fits (n : Int) : Prop := -2 ^ 63 ≤ n ∧ n ≤ 2 ^ 63 - 1
    WritesG (.add d a b) s d (BitVec.ofInt 64 (x.toInt + y.toInt)) ∧
    WritesG (.sub d a b) s d (BitVec.ofInt 64 (x.toInt - y.toInt)) ∧
    (fits (x.toInt + y.toInt) → WritesG (.addt d a b) s d (BitVec.ofInt 64 (x.toInt + y.toInt))) ∧
    (¬ fits (x.toInt + y.toInt) → exec (.addt d a b) s = s.fault 0x06 0) ∧
    (fits (x.toInt - y.toInt) → WritesG (.subt d a b) s d (BitVec.ofInt 64 (x.toInt - y.toInt))) ∧
    (¬ fits (x.toInt - y.toInt) → exec (.subt d a b) s = s.fault 0x06 0) ∧
    WritesG (.mul d a b) s d (BitVec.ofNat 64 (x.toNat * y.toNat)) ∧
    WritesG (.mulh d a b) s d ((x.signExtend 128 * y.signExtend 128).extractLsb' 64 64) ∧
    WritesG (.mulhn d a b) s d ((x.setWidth 128 * y.setWidth 128).extractLsb' 64 64) ∧
    (fits (x.toInt * y.toInt) → WritesG (.mult d a b) s d (BitVec.ofInt 64 (x.toInt * y.toInt))) ∧
    (¬ fits (x.toInt * y.toInt) → exec (.mult d a b) s = s.fault 0x06 0) ∧
    WritesG (.min d a b) s d (BitVec.ofInt 64 (min x.toInt y.toInt)) ∧
    WritesG (.max d a b) s d (BitVec.ofInt 64 (max x.toInt y.toInt)) ∧
    WritesG (.minn d a b) s d (BitVec.ofNat 64 (min x.toNat y.toNat)) ∧
    WritesG (.maxn d a b) s d (BitVec.ofNat 64 (max x.toNat y.toNat)) ∧
    WritesG (.addi d a imm) s d (BitVec.ofInt 64 (x.toInt + imm.toInt))

/-- Divisions truncate toward zero, never fault, and give the fixed borderline results (R130). DIV, DIVN, REM and REMN
complete in every state and write gD the quotient or remainder of R130: all ones or gA on a zero divisor,
0x8000_0000_0000_0000 and 0 for the most negative number divided by minus one, else the truncated result. Nothing else
changes. -/
def Obligations.DivisionGivesTheBorderlineResults : Prop :=
  ∀ (s : State) (d a b : Reg),
    let x := s.g a
    let y := s.g b
    let corner : Prop := x.toInt = -2 ^ 63 ∧ y.toInt = -1
    (y = 0 → WritesG (.div d a b) s d 0xFFFF_FFFF_FFFF_FFFF ∧ WritesG (.divn d a b) s d 0xFFFF_FFFF_FFFF_FFFF ∧
      WritesG (.rem d a b) s d x ∧ WritesG (.remn d a b) s d x) ∧
    (corner → WritesG (.div d a b) s d 0x8000_0000_0000_0000 ∧ WritesG (.rem d a b) s d 0) ∧
    (y ≠ 0 → ¬ corner → WritesG (.div d a b) s d (BitVec.ofInt 64 (x.toInt.tdiv y.toInt)) ∧
      WritesG (.rem d a b) s d (BitVec.ofInt 64 (x.toInt - y.toInt * x.toInt.tdiv y.toInt))) ∧
    (y ≠ 0 → WritesG (.divn d a b) s d (BitVec.ofNat 64 (x.toNat / y.toNat)) ∧
      WritesG (.remn d a b) s d (BitVec.ofNat 64 (x.toNat % y.toNat)))

/-- Logic, shifts, rotates, bit counts, reversals and extensions write what R131 says of each bit (R131). Every form
of majors 0x02, 0x03 and 0x09 to 0x0C completes in every state, writes gD the value R131 gives bit by bit (shift
numbers are gB[5:0] or the immediate; counts are characterised by the bits they count), and changes nothing else. -/
def Obligations.LogicAndShiftsActBitByBit : Prop :=
  ∀ (s : State) (d a b : Reg) (imm : BitVec 14) (sh : BitVec 6),
    let x := s.g a
    let y := s.g b
    let n := y.toNat % 64
    let k := sh.toNat
    let e := imm.signExtend 64
    let byBit (i : Instr) (f : Nat → Bool) : Prop := ∃ r, WritesG i s d r ∧ ∀ j, j < 64 → r.getLsbD j = f j
    byBit (.and d a b) (fun j => x.getLsbD j && y.getLsbD j) ∧
    byBit (.or d a b) (fun j => x.getLsbD j || y.getLsbD j) ∧
    byBit (.xor d a b) (fun j => x.getLsbD j ^^ y.getLsbD j) ∧
    byBit (.andn d a b) (fun j => x.getLsbD j && !y.getLsbD j) ∧
    byBit (.orn d a b) (fun j => x.getLsbD j || !y.getLsbD j) ∧
    byBit (.andi d a imm) (fun j => x.getLsbD j && e.getLsbD j) ∧
    byBit (.ori d a imm) (fun j => x.getLsbD j || e.getLsbD j) ∧
    byBit (.xori d a imm) (fun j => x.getLsbD j ^^ e.getLsbD j) ∧
    byBit (.shl d a b) (fun j => decide (n ≤ j) && x.getLsbD (j - n)) ∧
    byBit (.shr d a b) (fun j => x.getLsbD (j + n)) ∧
    byBit (.sra d a b) (fun j => if j + n < 64 then x.getLsbD (j + n) else x.getLsbD 63) ∧
    byBit (.rol d a b) (fun j => x.getLsbD ((j + 64 - n) % 64)) ∧
    byBit (.ror d a b) (fun j => x.getLsbD ((j + n) % 64)) ∧
    byBit (.shli d a sh) (fun j => decide (k ≤ j) && x.getLsbD (j - k)) ∧
    byBit (.shri d a sh) (fun j => x.getLsbD (j + k)) ∧
    byBit (.srai d a sh) (fun j => if j + k < 64 then x.getLsbD (j + k) else x.getLsbD 63) ∧
    byBit (.rori d a sh) (fun j => x.getLsbD ((j + k) % 64)) ∧
    byBit (.brev d a) (fun j => x.getLsbD (63 - j)) ∧
    byBit (.bswap d a) (fun j => x.getLsbD (8 * (7 - j / 8) + j % 8)) ∧
    byBit (.sextI8 d a) (fun j => x.getLsbD (min j 7)) ∧
    byBit (.sextI16 d a) (fun j => x.getLsbD (min j 15)) ∧
    byBit (.sextI32 d a) (fun j => x.getLsbD (min j 31)) ∧
    byBit (.zextN8 d a) (fun j => decide (j < 8) && x.getLsbD j) ∧
    byBit (.zextN16 d a) (fun j => decide (j < 16) && x.getLsbD j) ∧
    byBit (.zextN32 d a) (fun j => decide (j < 32) && x.getLsbD j) ∧
    (∃ c : Nat, WritesG (.clz d a) s d (BitVec.ofNat 64 c) ∧ c ≤ 64 ∧ (∀ j, j < c → x.getLsbD (63 - j) = false) ∧
      (c < 64 → x.getLsbD (63 - c) = true)) ∧
    (∃ c : Nat, WritesG (.ctz d a) s d (BitVec.ofNat 64 c) ∧ c ≤ 64 ∧ (∀ j, j < c → x.getLsbD j = false) ∧
      (c < 64 → x.getLsbD c = true)) ∧
    WritesG (.popc d a) s d (BitVec.ofNat 64 ((List.range 64).countP fun j => x.getLsbD j))

/-- Compares, predicate logic, PGET and SEL write what R132 and R133 give, and nothing else (R132, R133). Every
compare of majors 0x04 and 0x0D completes in every state and writes pD the comparison of gA with gB or with the sign-
extended imm11, signed or unsigned; the forms of major 0x05 write pD or gD as R133 says. p0 and g0 keep nothing;
nothing else changes. -/
def Obligations.ComparesAndPredicatesWriteTheRuleValue : Prop :=
  ∀ (s : State) (d pa pb : Pred) (gd a b : Reg) (imm : BitVec 11),
    let x := s.g a
    let y := s.g b
    let e := imm.signExtend 64
    WritesP (.cmpeq d a b) s d (decide (x = y)) ∧ WritesP (.cmpeqi d a imm) s d (decide (x = e)) ∧
    WritesP (.cmpne d a b) s d (decide (x ≠ y)) ∧ WritesP (.cmpnei d a imm) s d (decide (x ≠ e)) ∧
    WritesP (.cmplt d a b) s d (decide (x.toInt < y.toInt)) ∧ WritesP (.cmplti d a imm) s d (decide (x.toInt < imm.toInt)) ∧
    WritesP (.cmple d a b) s d (decide (x.toInt ≤ y.toInt)) ∧ WritesP (.cmplei d a imm) s d (decide (x.toInt ≤ imm.toInt)) ∧
    WritesP (.cmpgti d a imm) s d (decide (imm.toInt < x.toInt)) ∧ WritesP (.cmpgei d a imm) s d (decide (imm.toInt ≤ x.toInt)) ∧
    WritesP (.cmpltn d a b) s d (decide (x.toNat < y.toNat)) ∧ WritesP (.cmpltni d a imm) s d (decide (x.toNat < e.toNat)) ∧
    WritesP (.cmplen d a b) s d (decide (x.toNat ≤ y.toNat)) ∧ WritesP (.cmpgtni d a imm) s d (decide (e.toNat < x.toNat)) ∧
    WritesP (.tstnz d a b) s d (decide (x &&& y ≠ 0)) ∧
    WritesP (.pand d pa pb) s d (s.p pa && s.p pb) ∧ WritesP (.por d pa pb) s d (s.p pa || s.p pb) ∧
    WritesP (.pxor d pa pb) s d (s.p pa ^^ s.p pb) ∧ WritesP (.pandn d pa pb) s d (s.p pa && !s.p pb) ∧
    WritesP (.pnot d pa) s d (!s.p pa) ∧ WritesP (.pset d a) s d (decide (x ≠ 0)) ∧
    WritesG (.pget gd pa) s gd (if s.p pa then 1 else 0) ∧ WritesG (.sel gd a b pa) s gd (if s.p pa then x else y)

/-- LEA, GADDR, LI and LIX build the addresses and constants of R134 (R134). LEA writes gA plus gB shifted left by 0
to 3, GADDR the GEN-path address of gA[15:0] and gB[39:0], LI the sign-extended imm19, LIX gD shifted left by 16 with
imm19[15:0] below it, all modulo 2^64 and in every state; nothing else changes. -/
def Obligations.AddressAndConstantFormsWriteTheRuleValue : Prop :=
  ∀ (s : State) (d a b : Reg) (sh : BitVec 2) (imm : BitVec 19) (low : BitVec 16),
    WritesG (.lea d a b sh) s d (BitVec.ofNat 64 ((s.g a).toNat + (s.g b).toNat * 2 ^ sh.toNat)) ∧
    WritesG (.gaddr d a b) s d (BitVec.ofNat 64 ((s.g a).toNat % 2 ^ 16 * 2 ^ 40 + (s.g b).toNat % 2 ^ 40)) ∧
    WritesG (.li d imm) s d (BitVec.ofInt 64 imm.toInt) ∧
    WritesG (.lix d low) s d (BitVec.ofNat 64 ((s.g d).toNat * 2 ^ 16 + low.toNat))

/-- Branches and calls go to the bundle they name, and jumps through a register check their target (R43, R59, R60,
R135). A taken B or CALL with a nonzero word index goes on at line (line of the branch + delta), word index word,
offset bits 63:40 kept, and CALL writes the return address into g24; not taken, neither changes anything. A target
outside offset bits 39:0 makes the cluster's next bundle the fetch fault with detail 7. A CALL with no following
bundle raises the fetch fault. The model's choices: that a CALL or CALLR looks ahead for the bundle after it and takes
its fault (log 94), and that an out-of-range target faults at the next bundle, with a marker of the model's own (logs
95 and 8). JMPR goes on at gA and CALLR writes the return address into gD and goes on at the old gA, when gA lies on
the GEN or RO path, is word-aligned and names a word index other than 0; otherwise the fetch fault with detail 6 is
raised at the jump with the address reported. A CALLR that no bundle follows raises the fetch fault met. -/
def Obligations.BranchesCallsAndJumpsGoToTheNamedBundle : Prop :=
  (∀ (s : State) (p : Pred) (sense : BitVec 1) (word : BitVec 4) (delta : BitVec 16),
     let taken : Prop := s.p p = (sense == 1)
     let line : Int := (s.ir.bpc.toNat % 2 ^ 40 / 64 : Nat) + delta.toInt
     let inside : Prop := 0 ≤ line ∧ line < 2 ^ 34
     let target : Word := BitVec.ofNat 64 (s.ir.bpc.toNat / 2 ^ 40 * 2 ^ 40 + line.toNat * 64 + word.toNat * 4)
     (¬ taken → exec (.b p sense word delta) s = .next s ∧ exec (.call p sense word delta) s = .next s) ∧
     (taken → inside → ∃ t, exec (.b p sense word delta) s = .next t ∧ jumped s t target ∧ onlyG s t 0 0) ∧
     (taken → ¬ inside → ∃ t, exec (.b p sense word delta) s = .next t ∧ sameButCluster s t ∧ onlyG s t 0 0 ∧
       t.nextBundle = .error ⟨5, 7, s.ir.bpc, 0, 0⟩) ∧
     (taken → inside → ∀ r, s.returnAddress = .ok r →
       ∃ t, exec (.call p sense word delta) s = .next t ∧ jumped s t target ∧ onlyG s t 24 r) ∧
     (taken → ¬ inside → ∀ r, s.returnAddress = .ok r →
       ∃ t, exec (.call p sense word delta) s = .next t ∧ sameButCluster s t ∧ onlyG s t 24 r ∧
         t.nextBundle = .error ⟨5, 7, s.ir.bpc, 0, 0⟩) ∧
     (taken → ∀ e, s.returnAddress = .error e → exec (.call p sense word delta) s = s.faultAt e.cause e.detail e.addr)) ∧
  (∀ (s : State) (d a : Reg),
     let x := s.g a
     let legal : Prop := x.toNat / 2 ^ 60 ≤ 1 ∧ x.toNat % 4 = 0 ∧ x.toNat / 4 % 16 ≠ 0
     (legal → ∃ t, exec (.jmpr a) s = .next t ∧ jumped s t x ∧ onlyG s t 0 0) ∧
     (legal → ∀ r, s.returnAddress = .ok r → ∃ t, exec (.callr d a) s = .next t ∧ jumped s t x ∧ onlyG s t d r) ∧
     (legal → ∀ e, s.returnAddress = .error e → exec (.callr d a) s = s.faultAt e.cause e.detail e.addr) ∧
     (¬ legal → exec (.jmpr a) s = s.faultAt 5 6 x ∧ exec (.callr d a) s = s.faultAt 5 6 x))

/-- LOOP opens its level or skips a zero count, and at an end bundle the highest level acts first (R43, R136, R137,
R138). With a level at or above L active, LOOP raises the loop-nesting fault; with an end address outside offset bits
39:0, the fetch fault with detail 7; else a nonzero count sets LPS[L], LPE[L] and LPC[L] and nothing else, and a zero
count goes on after the end bundle and leaves the levels as they are. Faults met on the way to either address are
raised at the LOOP: the model's choice, log 12 for a zero count and log 94 for a nonzero one. For the loop registers
as they stood before the end bundle: a level that is inactive or ends elsewhere is left alone; the highest level with
more than one pass left goes on at its LPS with one pass fewer and lower levels are left alone; levels above it with
one pass left become inactive; a level whose count the bundle itself writes by MTS keeps the written value. -/
def Obligations.LoopsOpenRepeatAndEnd : Prop :=
  (∀ (s : State) (lv : Fin 4) (c : Reg) (word : BitVec 4) (delta : BitVec 13),
     let i : Instr := .loop (BitVec.ofNat 2 lv.val) c word delta
     let o := s.old.clu s.cur.clu
     let active : Prop := ∃ j : Fin 4, lv ≤ j ∧ vget o.lpc j ≠ 0
     let line : Int := (s.ir.bpc.toNat % 2 ^ 40 / 64 : Nat) + delta.toInt
     let inside : Prop := 0 ≤ line ∧ line < 2 ^ 34
     let ends : Word := BitVec.ofNat 64 (s.ir.bpc.toNat / 2 ^ 40 * 2 ^ 40 + line.toNat * 64 + word.toNat * 4)
     (active → exec i s = s.fault 7 0) ∧
     (¬ active → ¬ inside → exec i s = s.faultAt 5 7 s.ir.bpc) ∧
     (¬ active → inside → s.g c ≠ 0 → ∀ r, s.returnAddress = .ok r → ∃ t, exec i s = .next t ∧ sameButCluster s t ∧
       t.report = s.report ∧ t.cl = { s.cl with lps := t.cl.lps, lpe := t.cl.lpe, lpc := t.cl.lpc } ∧
       ∀ j : Fin 4, vget t.cl.lps j = (if j = lv then r else vget s.cl.lps j) ∧
         vget t.cl.lpe j = (if j = lv then ends else vget s.cl.lpe j) ∧
         vget t.cl.lpc j = (if j = lv then s.g c else vget s.cl.lpc j)) ∧
     (¬ active → inside → s.g c ≠ 0 → ∀ e, s.returnAddress = .error e → exec i s = s.faultAt e.cause e.detail e.addr) ∧
     (¬ active → inside → s.g c = 0 → ∀ a n,
       s.afterEnd (s.old.fetcher s.cur.core s.cur.clu) s.ir.npc ends 65537 (16 * 65536) = .ok (a, n) →
       ∃ t, exec i s = .next t ∧ sameButCluster s t ∧ t.report = s.report ∧
         t.cl = { s.cl with pc := a, pcReg := false, lineRoom := n }) ∧
     (¬ active → inside → s.g c = 0 → ∀ e,
       s.afterEnd (s.old.fetcher s.cur.core s.cur.clu) s.ir.npc ends 65537 (16 * 65536) = .error e →
       exec i s = s.faultAt e.cause e.detail e.addr)) ∧
  (∀ (o c : Cluster) (bpc : Word) (wrote : Option Nat),
     let acts (j : Fin 4) : Prop := vget o.lpc j ≠ 0 ∧ vget o.lpe j = bpc
     let repeats (j : Fin 4) : Prop := acts j ∧ vget o.lpc j ≠ 1
     let d := loopEnd o bpc wrote c 4
     ((∀ j, ¬ repeats j) → d.pc = c.pc ∧ d.clb = c.clb ∧
       ∀ j, vget d.lpc j = if acts j ∧ wrote ≠ some j.val then 0 else vget c.lpc j) ∧
     (∀ j, repeats j → (∀ h, j < h → ¬ repeats h) → d.pc = vget o.lps j ∧ d.clb = advanceRot c.clb j.val ∧
       (∀ h, h < j → vget d.lpc h = vget c.lpc h) ∧
       (wrote ≠ some j.val → vget d.lpc j = vget o.lpc j - 1) ∧ (wrote = some j.val → vget d.lpc j = vget c.lpc j) ∧
       ∀ h, j < h → vget d.lpc h = if acts h ∧ wrote ≠ some h.val then 0 else vget c.lpc h) ∧
     d.g = c.g ∧ d.p = c.p ∧ d.lps = c.lps ∧ d.lpe = c.lpe)

/-- MFS and MTS are refused exactly in the cases of R34, each with its fault and no other effect (R34). A privileged
number at user level raises the privilege fault; a number that is in no list, or for MTS one that is read-only, the
illegal-instruction fault; a register not listed for the cluster the cluster-class fault; the refused instruction is
the precise fault. That the checks come in this order is the model's choice (log 73). Otherwise no fault is raised by
this check (regFault answers none). -/
def Obligations.SpecialRegisterAccessIsCheckedByR34 : Prop :=
  ∀ (s : State) (d gs : Reg) (n : BitVec 12),
    let c := s.old.clu s.cur.clu
    let kind := regKind n.toNat
    (0x800 ≤ n.toNat → c.priv = false → exec (.mfs d n) s = s.fault 3 0 ∧ exec (.mts n gs) s = s.fault 3 0) ∧
    (¬ (0x800 ≤ n.toNat ∧ c.priv = false) → kind = .absent → exec (.mfs d n) s = s.fault 1 0 ∧ exec (.mts n gs) s = s.fault 1 0) ∧
    (¬ (0x800 ≤ n.toNat ∧ c.priv = false) → kind = .ro → exec (.mts n gs) s = s.fault 1 0) ∧
    (¬ (0x800 ≤ n.toNat ∧ c.priv = false) → kind ≠ .absent → regOnCluster n.toNat s.cur.clu = false →
      exec (.mfs d n) s = s.fault 2 0 ∧ (kind = .rw → exec (.mts n gs) s = s.fault 2 0)) ∧
    (¬ (0x800 ≤ n.toNat ∧ c.priv = false) → kind ≠ .absent → regOnCluster n.toNat s.cur.clu = true →
      regFault n.toNat s.cur.clu c.priv false = none ∧ (kind = .rw → regFault n.toNat s.cur.clu c.priv true = none))

/-- MFS completes for every register that R34 allows, and writes gD the register's value (R29, R31, R34, R35, R38,
R139, R214, R215, R267, R332, R367, R382). For every number that R34 lets the cluster read and that nothing makes
wait, MFS completes and writes gD the value given here for each register of R35 and R367: the task and cluster
registers; LKSTAT, TQCNT and DQCNT by their fields; WMn and SEQSTAT from the oldest command or run, else what the last
left; the page registers, PMSEL and PMC, PWRLVL, THRSN, AFLAGS and the windows; the trap registers; LQCFG with COUNT;
LRTSTAT; IFTSTAT; CELOC; SLOTST; the link, CXL, key, event and island registers; DIEGOV and the energy registers; and
every other device register as it was written. Registers that are written only read 0. A read changes nothing but gD,
save for what the rules clear by a read: LCOUNT of STAMPC, bit 63 of DPSTAT, TOTAL of the histories, the counts of a
link, LOST of EVCTL and the stretches of CLKSTAT. Which fields hold the registers is the model's layout of State. -/
def Obligations.ReadingASpecialRegisterWritesItsValue : Prop :=
  ∀ (s : State) (d : Reg) (n : BitVec 12),
    regFault n.toNat s.cur.clu (s.old.clu s.cur.clu).priv false = none → s.regWaits n.toNat = false →
    let num (x : Nat) : Word := BitVec.ofNat 64 x
    let reads (m : Nat) (x : Word) : Prop := n.toNat = m → WritesG (.mfs d n) s d x
    let c := s.cl
    let k := s.me
    let die := vget s.plat.dies (dieOf s.cur.core)
    -- a read that changes a register of the core, or one of the device
    let takes (m : Nat) (x : Word) (f : CoreRegs → CoreRegs) : Prop := n.toNat = m → ∃ t, exec (.mfs d n) s = .next t ∧ onlyG s t d x ∧
      sameMemory s t ∧ sameOutside s t ∧ t.report = s.report ∧ t.me = { k with cl := t.me.cl, rg := f k.rg }
    let takesDev (m : Nat) (x : Word) (f : Platform → Platform) : Prop := n.toNat = m → ∃ t, exec (.mfs d n) s = .next t ∧ onlyG s t d x ∧
      t = { s with cores := t.cores, plat := f s.plat } ∧ t.me = { k with cl := t.me.cl } ∧ ∀ j, j ≠ s.cur.core → t.core j = s.core j
    let history (h : History) : Word := num (h.lasting.toNat * 2 ^ 63 + h.inwin * 2 ^ 56 + h.total)
    (∃ t, exec (.mfs d n) s = .next t ∧ t.report = s.report) ∧
    reads 0 (num (cluCode s.cur.clu).val) ∧ reads 1 (num (s.cur.core.val % 4)) ∧
    (∀ t, k.task = some t → reads 2 (num (t.lid.toNat * 2 ^ 48 + t.ordinal % 2 ^ 48)) ∧
      reads 3 (t.flags.setWidth 64) ∧ reads 4 (num t.footW) ∧ reads 5 (num t.footA) ∧ reads 6 (num t.footC) ∧ reads 7 (num t.footS)) ∧
    reads 0x010 s.cadence ∧ reads 0x011 k.st.stampb ∧ reads 0x020 c.srkey ∧ reads 0x021 c.srctr ∧
    reads 0x032 (num k.st.fq.length) ∧ (∀ i : Fin 16, reads (0x050 + i.val) (vget k.st.tsh i)) ∧
    reads 0x060 c.lgtmo ∧ reads 0x061 c.cltmo ∧ reads 0x070 c.clb ∧
    (∀ i : Fin 4, reads (0x0C0 + i.val) (vget c.lps i) ∧ reads (0x0C4 + i.val) (vget c.lpe i) ∧
      reads (0x0C8 + i.val) (vget c.lpc i) ∧ reads (0x808 + i.val) (vget c.hkeep i)) ∧
    reads 0x110 (k.rg.pwrlvl.setWidth 64) ∧ reads 0x800 c.tvec ∧ reads 0x801 c.tcause ∧ reads 0x802 c.tpc ∧
    reads 0x803 c.taddr ∧ reads 0x804 c.tinfo ∧ reads 0x805 c.tstat ∧ reads 0x810 c.pctx ∧
    (n.toNat = 0x012 → ∃ t, exec (.mfs d n) s = .next t ∧ onlyG s t d k.st.stampc ∧ sameMemory s t ∧ sameOutside s t ∧
      t.me.st = { k.st with stampc := t.me.st.stampc } ∧ t.me.st.stampc.toNat = k.st.stampc.toNat % 2) ∧
    -- the counts of R38 and the locket of R29
    (n.toNat = 0x030 → ∃ w : Word, WritesG (.mfs d n) s d w ∧ w.toNat < 2 ^ 48 ∧
      ∀ e ∈ ([(Clu.c, Clu.a, 0), (.c, .v, 4), (.c, .m, 8), (.a, .c, 12), (.a, .v, 16), (.a, .m, 20), (.v, .c, 24), (.v, .a, 28), (.v, .m, 32),
          (.m, .c, 36), (.m, .a, 40), (.m, .v, 44)] : List (Clu × Clu × Nat)),
        w.toNat / 2 ^ e.2.2 % 16 = vget k.st.tok (tokIdx e.1 e.2.1) % 16) ∧
    reads 0x031 (num (k.st.qav.length + k.st.qam.length * 2 ^ 6 + k.st.qva.length * 2 ^ 12 + k.st.qac.length * 2 ^ 18 + k.st.qca.length * 2 ^ 24)) ∧
    (let held := k.en.mrun.filter fun r => r.cmd.isDrain && r.phase != .done
     reads 0x040 (num (held.length * 2 ^ 48 + (32 - (held.map fun r => sizeOfR18 (wD r.cmd.fmt)).sum) * 2 ^ 40 +
       k.en.mrun.countP MRun.isOpen * 2 ^ 32 + ((List.finRange 16).map fun i => if k.tileLocked i then 2 ^ (16 + i.val) else 0).sum +
       (match held with | r :: _ => r.cmd.acc.toNat | [] => 0x3F) * 2 ^ 8 + if k.en.mrun.any fun r => r.phase == .assay then 1 else 0))) ∧
    -- channels and the sequencer
    (∀ i : Fin 8,
      let ch := vget k.en.chans i
      let ranged (x : ChCmd) : Prop := x.range ≠ none ∨ x.staged = true
      reads (0x090 + i.val) ch.pgnow ∧ reads (0x098 + i.val) ch.pgnxt ∧ reads (0x0A0 + i.val) ch.pgdst ∧ reads (0x880 + i.val) ch.ahm ∧
      ((∀ x ∈ ch.cmds, ¬ ranged x) → reads (0x080 + i.val) ch.wm) ∧
      ∀ pre x post, ch.cmds = pre ++ x :: post → (∀ y ∈ pre, ¬ ranged y) →
        (∀ b lo len, x.range = some (b, lo, len) → reads (0x080 + i.val) (num ((8 + b.val) * 2 ^ 60 + (lo + x.filled) % 2 ^ 60))) ∧
        (x.range = none → x.staged = true → reads (0x080 + i.val) (num x.prog))) ∧
    ((∀ (i : Fin 8), ∀ x ∈ (vget k.en.chans i).cmds, x.runKind = none) → reads 0x0B0 k.en.seqstat) ∧
    (∀ (i : Fin 8) pre x post kind, (vget k.en.chans i).cmds = pre ++ x :: post → x.runKind = some kind → (∀ y ∈ pre, y.runKind = none) →
      (∀ (j : Fin 8), j ≠ i → ∀ y ∈ (vget k.en.chans j).cmds, y.runKind ≠ none → x.order < y.order) →
      reads 0x0B0 (num (2 ^ 63 + kind * 2 ^ 56 + x.recSlot * 2 ^ 52 + i.val * 2 ^ 48 + x.prog % 2 ^ 48))) ∧
    -- the core's other registers
    reads 0x111 ((vget s.plat.islands (islandOf s.cur.core)).thr.setWidth 64) ∧ reads 0x840 k.rg.aflags ∧
    reads 0x853 k.rg.ewpri ∧ reads 0x854 k.rg.ewshd ∧ reads 0x856 k.rg.ewxfr ∧
    (∀ i : Fin 8, reads (0x100 + i.val) (vget k.rg.pmc i) ∧ reads (0x8C0 + i.val) (vget k.rg.pmsel i)) ∧
    takes 0x850 k.rg.dpstat (fun r => { r with dpstat := num (k.rg.dpstat.toNat % 2 ^ 63) }) ∧
    takes 0x851 (history k.rg.ecpri) (fun r => { r with ecpri := { r.ecpri with total := 0 } }) ∧
    takes 0x852 (history k.rg.ecshd) (fun r => { r with ecshd := { r.ecshd with total := 0 } }) ∧
    takes 0x855 (history k.rg.ecxfr) (fun r => { r with ecxfr := { r.ecxfr with total := 0 } }) ∧
    -- the device's registers
    (∀ m ∈ ([0x811, 0x820, 0xA00, 0xC40, 0xC42, 0xC48, 0xC58] : List Nat), reads m 0) ∧
    (∀ m ∈ ([0x818, 0x819, 0x821, 0xA01, 0xA70, 0xC41, 0xC50, 0xC51, 0xE00, 0xE30, 0xE31, 0xE38, 0xE39, 0xE3A, 0xE3B, 0xE60, 0xE70, 0xE71, 0xE73,
      0xECF, 0xF70] : List Nat), reads m (s.dev m)) ∧
    (∀ i, (i < 8 → reads (0xA08 + i) (s.dev (0xA08 + i)) ∧ reads (0xF50 + i) (s.dev (0xF50 + i))) ∧ (i < 12 → reads (0xA60 + i) (s.dev (0xA60 + i))) ∧
      (i < 16 → reads (0xE10 + i) (s.dev (0xE10 + i))) ∧ (i < 64 → reads (0xC00 + i) (s.dev (0xC00 + i))) ∧
      (i < 128 → i % 4 ≠ 0 → reads (0x900 + i) (s.dev (0x900 + i)))) ∧
    (∀ q : Fin 32, reads (0x900 + 4 * q.val) (s.dev (0x900 + 4 * q.val) ||| num (s.queueCount q % 128))) ∧
    reads 0xA02 (num (s.lat.statEntry.toNat * 256 + s.lat.statDetail.toNat * 16 +
      if s.lat.tables.any fun t => t.ctx.toNat == (s.dev 0xA01).toNat % 4096 then 1 else 0)) ∧
    reads 0xA71 (num (s.plat.iftBusy.toNat * 2 ^ 63 + s.plat.iftPass.toNat * 2 ^ 62 + s.plat.iftCore.toNat)) ∧
    (∀ i, i < 64 → (alGet die.celoc i = none → reads (0xB00 + i) 0) ∧ ∀ u l h, alGet die.celoc i = some (u, l, h) →
      reads (0xB00 + i) (num (2 ^ 63 + h.lasting.toNat * 2 ^ 62 + h.inwin * 2 ^ 58 + u.toNat * 2 ^ 56 + l.toNat))) ∧
    reads 0xB40 die.ewmem ∧ reads 0xC52 (num (s.sch.saved.length * 2 ^ 16 + ((s.dev 0xC51).toNat - s.sch.saved.length))) ∧
    (∀ i : Fin 14,
      let l := vget s.plat.links i
      let m := 0xD00 + 8 * i.val
      reads m (s.dev m) ∧ reads (m + 4) (s.dev (m + 4)) ∧ reads (m + 5) (s.dev (m + 5)) ∧
      reads (m + 1) (num (l.stop.toNat * 2 ^ 63 + l.rate * 2 ^ 24 + (vget l.dirs 1).width * 2 ^ 8 + (vget l.dirs 0).width)) ∧
      reads (m + 2) ((vget l.dirs 1).retired ++ (vget l.dirs 0).retired) ∧
      reads (m + 6) (num (l.hist.lasting.toNat * 2 ^ 63 + l.hist.inwin * 2 ^ 56)) ∧
      takesDev (m + 3) (num (l.crcerr * 2 ^ 32 + l.replays)) (fun p => { p with links := vset p.links i { l with crcerr := 0, replays := 0 } })) ∧
    (∀ i : Fin 8, let p := vget s.plat.cxl i
      reads (0xE40 + i.val) (num (p.up.toNat * 2 ^ 63 + p.err.toNat * 2 ^ 62 + p.frames.toNat)) ∧
      let x := vget s.plat.dies i
      reads (0xF58 + i.val) (num (((List.range 96).map fun j => s.contribution (Fin.ofNat 768 (96 * i.val + j))).sum % 2 ^ 16 * 2 ^ 32 +
        x.waiting.length % 2 ^ 16 * 2 ^ 16 + x.power.toNat))) ∧
    reads 0xE61 ((s.ms.keySlot (s.dev 0xE60).toNat).state.setWidth 64) ∧ reads 0xE72 s.plat.evHead ∧
    takesDev 0xE74 (s.dev 0xE74 ||| num (s.plat.evLost.toNat * 2 ^ 48)) (fun p => { p with evLost := 0 }) ∧
    (∀ i : Fin 76, let z := vget s.plat.islands i
      let mhz := if z.state = 0 then 2700 else if z.state = 1 then 2300 else if z.state = 2 then 1800 else if z.state = 3 then 1200 else 0
      reads (0xF00 + i.val) (num (z.thr.toNat * 2 ^ 8 + z.state.toNat)) ∧
      takesDev (0xE80 + i.val) (num (z.stop.toNat * 2 ^ 63 + mhz * 2 ^ 48 + z.warn.toNat * 2 ^ 43 + z.margin.toNat * 2 ^ 40 + z.stretch))
        (fun p => { p with islands := vset p.islands i { z with stretch := 0 } })) ∧
    reads 0xF71 (vget s.plat.enCtx (Fin.ofNat 64 (s.dev 0xF70).toNat)) ∧ reads 0xF72 s.plat.enPlat

/-- MTS completes for every register that R34 allows to be written, and sets the register's writable bits (R31, R34,
R35, R139, R248, R332, R342, R346, R358, R364, R367, R386). For every number other than LRTLOAD
(RegisterRowsActAsTheirWrites) that R34 lets the cluster write and that nothing makes wait, MTS completes and sets the
writable bits of the register, and nothing else changes: cluster registers; STAMPB, STAMPC.LATE and PGDST; WAKE sets
latches; AFLAGS and the LASTING bits are cleared by ones; windows and PMSEL; DPSTAT and LKCRC have nothing to write;
device registers take the bits R367's chapters call writable. Writes that a rule has ignored change nothing: CTX of a
busy LQCFG, a held CTXS, SAVEPB and SAVEPN in use, an overlapping HXW, EVQN out of range, EVQT beyond EVQH, a SLEW of
1 to 199. A register whose write is an action (EMUDONE, SHOOTREQ, TRESUME, LCTL, XSCH, CFENCE, IFTCTL, LKCTL, ISTATE)
does what the event row of that action does, which other statements give. The device registers' list is assumed
canonical. -/
def Obligations.WritingASpecialRegisterSetsItsField : Prop :=
  ∀ (s : State) (gs : Reg) (n : BitVec 12),
    regFault n.toNat s.cur.clu (s.old.clu s.cur.clu).priv true = none → s.writeWaits n.toNat (s.g gs) = false → n.toNat ≠ 0xA00 →
    let x := s.g gs
    let low (k : Nat) : Word := BitVec.ofNat 64 (x.toNat % 2 ^ k)
    let sets (m : Nat) (f : Cluster → Cluster) : Prop := n.toNat = m → ∃ t, exec (.mts n gs) s = .next t ∧ sameButCluster s t ∧
      t.report = s.report ∧ t.cl = f s.cl
    let setsCore (m : Nat) (f : Core → Core) : Prop := n.toNat = m → ∃ t, exec (.mts n gs) s = .next t ∧ sameMemory s t ∧ sameOutside s t ∧
      t.report = s.report ∧ t.me = f s.me
    let setsRg (m : Nat) (f : CoreRegs → CoreRegs) : Prop := setsCore m fun k => { k with rg := f k.rg }
    let setsPlat (m : Nat) (f : Platform → Platform) : Prop := n.toNat = m → exec (.mts n gs) s = .next { s with plat := f s.plat }
    let device (m : Nat) (v : Word) : Prop := n.toNat = m → canonicalAbove devReset none s.regs = true →
      ∃ t, exec (.mts n gs) s = .next t ∧ t = { s with regs := t.regs } ∧ t.dev m = v ∧ ∀ j, j ≠ m → t.dev j = s.dev j
    let nothing (m : Nat) : Prop := n.toNat = m → exec (.mts n gs) s = .next s
    let acts (m : Nat) (i : Instr) : Prop := n.toNat = m → ∃ t, exec i s = .next t ∧ exec (.mts n gs) s = .next { t with report := s.report }
    let die := dieOf s.cur.core
    (∃ t, exec (.mts n gs) s = .next t) ∧
    sets 0x020 (fun c => { c with srkey := x }) ∧ sets 0x021 (fun c => { c with srctr := x }) ∧
    sets 0x060 (fun c => { c with lgtmo := x }) ∧ sets 0x061 (fun c => { c with cltmo := x }) ∧
    (∀ i : Fin 4, sets (0x0C0 + i.val) (fun c => { c with lps := vset c.lps i x }) ∧
      sets (0x0C4 + i.val) (fun c => { c with lpe := vset c.lpe i x }) ∧
      sets (0x0C8 + i.val) (fun c => { c with lpc := vset c.lpc i x }) ∧
      sets (0x808 + i.val) (fun c => { c with hkeep := vset c.hkeep i x })) ∧
    sets 0x800 (fun c => { c with tvec := BitVec.ofNat 64 (x.toNat / 64 * 64) }) ∧
    sets 0x802 (fun c => { c with tpc := x, tpcReg := true }) ∧ sets 0x803 (fun c => { c with taddr := x }) ∧
    sets 0x805 (fun c => { c with tstat := BitVec.ofNat 64 (c.tstat.toNat / 4 * 4 + x.toNat % 4) }) ∧
    sets 0x810 (fun c => { c with pctx := BitVec.ofNat 64 (x.toNat % 128) }) ∧
    (n.toNat = 0x011 → ∃ t, exec (.mts n gs) s = .next t ∧ sameButStorage s t ∧ t.me.st = { s.me.st with stampb := x }) ∧
    (n.toNat = 0x012 → ∃ t, exec (.mts n gs) s = .next t ∧ sameButStorage s t ∧
      t.me.st = { s.me.st with stampc := BitVec.ofNat 64 (s.me.st.stampc.toNat / 2 ^ 32 * 2 ^ 32 + x.toNat % 2) }) ∧
    -- the core's registers
    (∀ i : Fin 8,
      let ch (k : Core) : Channel := { vget k.en.chans i with pgdst := BitVec.ofNat 64 (x.toNat % 2 ^ 16 / 64 * 64) }
      setsCore (0x0A0 + i.val) (fun k => { k with en := { k.en with chans := vset k.en.chans i (ch k) } }) ∧
      setsRg (0x8C0 + i.val) (fun r => { r with pmsel := vset r.pmsel i (low 12) })) ∧
    (n.toNat = 0x820 → ∃ t, exec (.mts n gs) s = .next t ∧ sameMemory s t ∧ sameOutside s t ∧ t.me = { s.me with cl := t.me.cl } ∧
      ∀ y, t.me.clu y = if x.getLsbD (cluCode y).val then { s.me.clu y with wake := true } else s.me.clu y) ∧
    setsRg 0x840 (fun r => { r with aflags := r.aflags &&& ~~~x }) ∧ nothing 0x850 ∧
    setsRg 0x851 (fun r => { r with ecpri := { r.ecpri with lasting := r.ecpri.lasting && !x.getLsbD 63 } }) ∧
    setsRg 0x852 (fun r => { r with ecshd := { r.ecshd with lasting := r.ecshd.lasting && !x.getLsbD 63 } }) ∧
    setsRg 0x855 (fun r => { r with ecxfr := { r.ecxfr with lasting := r.ecxfr.lasting && !x.getLsbD 63 } }) ∧
    setsRg 0x853 (fun r => { r with ewpri := low 36 }) ∧ setsRg 0x854 (fun r => { r with ewshd := low 36 }) ∧
    setsRg 0x856 (fun r => { r with ewxfr := low 36 }) ∧
    -- plain device registers
    (∀ m ∈ ([0x818, 0x819, 0xE00, 0xE31, 0xE70] : List Nat), device m x) ∧ device 0x821 (low 32) ∧ device 0xA01 (low 12) ∧ device 0xC41 (low 25) ∧
    device 0xE30 (BitVec.ofNat 64 (x.toNat / 8 * 8)) ∧ device 0xE38 (low 48) ∧ device 0xE39 (low 48) ∧ device 0xE3A (x &&& 0xBFFF_FF00_00FF_FFFF) ∧
    device 0xE3B (low 10) ∧ device 0xE60 (low 10) ∧ device 0xE74 (x &&& 0x8000_0000_3FFE) ∧ device 0xECF (low 3) ∧ device 0xF70 (low 6) ∧
    (∀ q, q < 128 → q % 4 ≠ 0 → device (0x900 + q) x) ∧
    -- device registers whose write may be ignored
    (∀ q : Fin 32,
      let old := (s.dev (0x900 + 4 * q.val)).toNat
      let bad : Prop := old / 2 ^ 32 % 2 ^ 12 ≠ x.toNat / 2 ^ 32 % 2 ^ 12 ∧ (old / 2 ^ 7 % 2 = 1 ∨ s.queueCount q ≠ 0)
      (bad → nothing (0x900 + 4 * q.val)) ∧ (¬ bad → device (0x900 + 4 * q.val) (x &&& 0xFFF_0000_0080))) ∧
    (∀ i : Fin 64,
      let m := 0xC00 + i.val
      let old := s.dev m
      let v := if i = 0 then x &&& 0x8000_0FFF_FFFF_F000 else x &&& 0x8000_0FFF_FFFF_FFFF
      let held : Prop := (∃ (k : Fin 768) (tk : Task), (s.core k).task = some tk ∧ tk.slot = i.val) ∨
        (old.getLsbD 63 = true ∧ ∃ l ∈ s.sch.launches, l.ctx.toNat = old.toNat % 2 ^ 12)
      (v ≠ old → held → nothing m) ∧
      ((v = old ∨ ¬ held) → n.toNat = m → canonicalAbove devReset none s.regs = true → ∃ t, exec (.mts n gs) s = .next t ∧
        t = { s with regs := t.regs, plat := { s.plat with enCtx := t.plat.enCtx } } ∧
        t.plat.enCtx = (if v.getLsbD 63 = true ∧ old.getLsbD 63 = false then vset s.plat.enCtx i 0 else s.plat.enCtx) ∧
        t.dev m = v ∧ ∀ j, j ≠ m → t.dev j = s.dev j)) ∧
    (s.sch.saved = [] → device 0xC50 x ∧ device 0xC51 (low 16)) ∧ (s.sch.saved ≠ [] → nothing 0xC50 ∧ nothing 0xC51) ∧
    (∀ j, j < 16 →
      let m := 0xE10 + j
      let v := if j % 2 = 0 then x &&& 0xBF0F_FFFF_FFFF_FFFF else x
      let reg (a : Nat) : Nat := if a = m then v.toNat else (s.dev a).toNat
      let open_ (w : Nat) : Prop := reg (0xE10 + 2 * w) / 2 ^ 63 = 1
      let lo (w : Nat) : Nat := reg (0xE10 + 2 * w) % 2 ^ 52 / 65536 * 65536
      let len (w : Nat) : Nat := reg (0xE11 + 2 * w) % 2 ^ 24 * 65536
      let clash : Prop := open_ (j / 2) ∧ ∃ w, w < 8 ∧ w ≠ j / 2 ∧ open_ w ∧ lo w < lo (j / 2) + len (j / 2) ∧ lo (j / 2) < lo w + len w
      (canonicalAbove devReset none s.regs = true → clash → nothing m) ∧ (¬ clash → device m v)) ∧
    ((∃ i, i < 8 ∧ x.toNat % 2 ^ 16 = 256 * 2 ^ i) → device 0xE71 (low 16)) ∧ ((∀ i, i < 8 → x.toNat % 2 ^ 16 ≠ 256 * 2 ^ i) → nothing 0xE71) ∧
    (x ≤ s.plat.evHead → device 0xE73 x) ∧ (s.plat.evHead < x → nothing 0xE73) ∧
    (∀ i : Fin 8, let slew := x.toNat % 2 ^ 16
      (1 ≤ slew → slew ≤ 199 → nothing (0xF50 + i.val)) ∧ ((slew = 0 ∨ 199 < slew) → device (0xF50 + i.val) (x &&& 0xFFFF_FFFF_FF00_FFFF)) ∧
      setsPlat (0xE40 + i.val) (fun p => { p with cxl := vset p.cxl i { vget p.cxl i with err := (vget p.cxl i).err && !x.getLsbD 62 } })) ∧
    -- registers of the die, of a link and of an island
    setsPlat 0xB40 (fun p => { p with dies := vset p.dies die { vget p.dies die with ewmem := low 36 } }) ∧
    (∀ i, i < 64 → (x.getLsbD 62 = false → nothing (0xB00 + i)) ∧ (x.getLsbD 62 = true → setsPlat (0xB00 + i)
      (fun p => { p with dies := vset p.dies die { vget p.dies die with celoc := (vget p.dies die).celoc.filter fun e => e.1 ≠ i } }))) ∧
    (∀ l : Fin 14,
      let m := 0xD00 + 8 * l.val
      let y := vget s.plat.links l
      let rate := x.toNat / 2 ^ 24 % 16
      let g0 := x.toNat / 2 ^ 8 % 64
      let g1 := x.toNat % 64
      let bad : Prop := (rate ≠ 0 ∧ x.getLsbD 31 = false) ∨ 4 < rate ∨ 32 < x.toNat / 2 ^ 16 % 64 ∨ 32 < g0 ∨ 32 < g1
      let same : Prop := rate = (s.dev m).toNat / 2 ^ 24 % 16 ∧ g0 = 0 ∧ g1 = 0
      (rate ≠ (s.dev m).toNat / 2 ^ 24 % 16 → acts m (.lkctlRateChange l x)) ∧ (g0 ≠ 0 → acts m (.lkctlRetire l x)) ∧
      (g1 ≠ 0 → acts m (.lkctlRetire1 l x)) ∧ (bad → nothing m) ∧ (same → ¬ bad → y.stop = false → device m (x &&& 0x8F3F_0000)) ∧
      (¬ bad → y.stop = true → setsPlat m (fun p => { p with links := vset p.links l { y with pending := y.pending ++ [x] } })) ∧
      nothing (m + 3) ∧ device (m + 5) (low 36) ∧
      setsPlat (m + 6) (fun p => { p with links := vset p.links l { y with hist := { y.hist with lasting := y.hist.lasting && !x.getLsbD 63 } } })) ∧
    (∀ i : Fin 76, acts (0xF00 + i.val) (.istateWrite i x) ∧
      (let z : Island := { vget s.plat.islands i with warn := (vget s.plat.islands i).warn && !x.getLsbD 43 }
       setsPlat (0xE80 + i.val) fun p => { p with islands := vset p.islands i z })) ∧
    -- actions
    (x.toNat % 4 = 1 → acts 0x811 (.emudoneFinish s.cur.core)) ∧ (x.toNat % 4 = 2 → acts 0x811 (.emudoneFault s.cur.core)) ∧
    ((x.toNat % 4 = 0 ∨ x.toNat % 4 = 3) → nothing 0x811) ∧
    (∀ i : Fin 8, acts (0xA08 + i.val) (.xschWrite i x)) ∧ (∀ i : Fin 12, acts (0xA60 + i.val) (.cfenceClear i x)) ∧ acts 0xA70 (.iftStart x) ∧
    (let scope := x.toNat / 2 ^ 56 % 4
     (scope = 0 → acts 0xC40 (.shootdownPages x)) ∧ (scope = 1 → acts 0xC40 (.shootdownTensor x)) ∧
     (scope = 2 → acts 0xC40 (.shootdownContext x)) ∧ (scope = 3 → nothing 0xC40)) ∧
    (let id : BitVec 16 := x.setWidth 16
     (x.getLsbD 63 = false → acts 0xC48 (.tresumePlace id) ∧ nothing 0xC58) ∧
     (x.getLsbD 63 = true → acts 0xC48 (.tresumeKill id) ∧ (x.toNat / 2 ^ 61 = 4 → acts 0xC58 (.lctlSave id)) ∧
       (x.toNat / 2 ^ 61 = 5 → acts 0xC58 (.lctlKill id)) ∧ (6 ≤ x.toNat / 2 ^ 61 → nothing 0xC58)))

/-- TSHAPE writes the tile's shape register, clears the bytes outside the new shape and keeps those inside (R19,
R140). When the tile is not write-locked and no earlier issued command names it, TSHAPE completes: TSHn holds the
type, columns and rows, every byte of the tile outside the shape reads zero, every byte inside keeps its value, and no
other tile, shape register or state changes. Otherwise it waits with no effect, but that a wait of M that its own
engine causes is noted as R175 needs. The tile's memory is assumed in canonical form, which StepsKeepMemoriesCanonical
and its companions keep. -/
def Obligations.TshapeSetsTheShapeAndClearsOutside : Prop :=
  ∀ (s : State) (n : TReg) (ty : BitVec 4) (cols : BitVec 7) (rows : BitVec 6),
    let i : Instr := .tshape n ty cols rows
    let busy := s.me.tileLocked n || s.me.en.mq.any fun c => c.names n
    (busy = true → exec i s = s.stallHeld ∧ ∃ t, exec i s = .next t ∧ t.report = .stalled ∧ sameMemory s t ∧
      ∀ k0, s.latch = some k0 → t.me = k0.onClu s.cur.clu fun c => { c with hold := (t.me.clu s.cur.clu).hold }) ∧
    (busy = false → (vget s.me.st.tiles n).wf → ∃ t, exec i s = .next t ∧ sameButStorage s t ∧
      t.me.st = { s.me.st with tsh := t.me.st.tsh, tiles := t.me.st.tiles } ∧
      (∀ m, m ≠ n → vget t.me.st.tsh m = vget s.me.st.tsh m ∧ vget t.me.st.tiles m = vget s.me.st.tiles m) ∧
      vget t.me.st.tsh n = BitVec.ofNat 64 (ty.toNat * 2 ^ 16 + cols.toNat * 2 ^ 7 + rows.toNat) ∧
      ∀ a, (vget t.me.st.tiles n).read a =
        if a / 64 < rows.toNat ∧ a % 64 < cols.toNat * sizeOfR18 ty.toNat then (vget s.me.st.tiles n).read a else 0)

/-- A trap goes to the handler, saves or terminates by its disposition, and one raised in a handler is the handler
fault (R343, R344, R345, R346, R347, R348, R350). With the disposition handler, the cluster gets TCAUSE, TADDR, TINFO,
TPC and TSTAT as R346 lays them out, privileged level, INH set, ENDED clear, and pc at word 1 of the cause's vector
line, every other register as it was; with save or terminate it records the trap and halts; a fault inside a handler
becomes cause 0x1D with the raised cause in TINFO, and the task is terminated; a machine check keeps its cause, inside
a handler too (the model's choice, log 30). Nothing outside the core's trapped cluster changes but the core's
termination or save request. Causes 0x18, 0x1D and 0x20 to 0x22 terminate, 0x1C goes to a handler, the others follow
TDISP0 and TDISP1. -/
def Obligations.TrapsAreDeliveredByDisposition : Prop :=
  ∀ (s : State) (k : Fin 768) (x : Clu) (t : Trap) (tpc : Word), t.cause < 64 → t.detail < 16 →
    let c := (s.core k).clu x
    let u := s.deliver k x t tpc
    let d := (u.core k).clu x
    let word : Word := BitVec.ofNat 64 ((cluCode t.clu).val * 2 ^ 28 + t.detail * 2 ^ 24 + (if t.async then 2 ^ 15 else 0) + t.cause)
    sameButTrapped s u k x ∧ sameButTrapRegs c d ∧ d.tpc = tpc ∧
    (c.inh = true → c.priv = true → t.cause < 0x20 → d.tcause.toNat % 256 = 0x1D ∧ d.tinfo = BitVec.ofNat 64 t.cause ∧
      (u.core k).term.isSome ∧ (u.core k).save = (s.core k).save) ∧
    (¬ (c.inh = true ∧ c.priv = true ∧ t.cause < 0x20) → d.tcause = word ∧ d.taddr = t.addr ∧ d.tinfo = t.info ∧
      (s.disposition t.cause = .handler → d.priv = true ∧ d.inh = true ∧ d.ended = false ∧ d.halted = false ∧
        d.tstat = BitVec.ofNat 64 ((s.core k).slot % 64 * 2 ^ 8 + c.ended.toNat * 2 + c.priv.toNat) ∧
        d.pc = BitVec.ofNat 64 (c.tvec.toNat / 64 * 64 + 64 * t.cause + 4) ∧
        (u.core k).term = (s.core k).term ∧ (u.core k).save = (s.core k).save) ∧
      (s.disposition t.cause = .save → d.halted = true ∧ ((s.core k).task.isSome → (u.core k).save.isSome)) ∧
      (s.disposition t.cause = .terminate → d.halted = true ∧ (u.core k).term.isSome)) ∧
    ((t.cause = 0x18 ∨ t.cause = 0x1D ∨ t.cause = 0x20 ∨ t.cause = 0x21 ∨ t.cause = 0x22) → s.disposition t.cause = .terminate) ∧
    (t.cause = 0x1C → s.disposition t.cause = .handler) ∧
    (t.cause ≠ 0x18 → t.cause ≠ 0x1D → t.cause ≠ 0x1C → ¬ (0x20 ≤ t.cause ∧ t.cause ≤ 0x22) →
      let f := (s.dev (if t.cause < 32 then 0x818 else 0x819)).toNat / 4 ^ (t.cause % 32) % 4
      (f = 1 → s.disposition t.cause = .handler) ∧ (f = 2 → s.disposition t.cause = .save) ∧
      (f = 0 ∨ f = 3 → s.disposition t.cause = .terminate))

/-- A precise fault restores the core as the bundle found it and is delivered on the faulting cluster at the bundle
(R56, R126, R263, R267, R345, R346). Where the bundle being issued started from core k0, a precise fault of the
instruction in hand ends in the trap delivered on the executing cluster with TPC at the bundle, and apart from that
cluster's trap registers and the task-ending records, the core holds k0 again: no register, predicate, queue or buffer
of it is written; TINFO holds the two instruction words, and TADDR the address for causes 5 and 8 to 12, else 0. The
overlap check that raises 0x11 is counted by performance event 0x10. -/
def Obligations.FaultsUndoTheBundle : Prop :=
  ∀ (s : State) (k0 : Core) (cause detail : Nat) (addr : Word), s.latch = some k0 → cause < 0x20 → detail < 16 →
    let k := if cause = 0x11 then k0.count 0x10 s.cur.clu 1 else k0
    ∃ t, s.faultAt cause detail addr = .next t ∧ t.report = .trapped ∧
      sameButTrapped (s.setCore s.cur.core k) t s.cur.core s.cur.clu ∧ t.cl.tpc = (k0.clu s.cur.clu).pc ∧
      sameButTrapRegs (k0.clu s.cur.clu) t.cl ∧
      ((k0.clu s.cur.clu).inh = false → t.cl.tinfo = s.ir.w0 ++ s.ir.w1 ∧
        t.cl.taddr = (if cause = 5 ∨ (8 ≤ cause ∧ cause ≤ 12) then addr else 0) ∧
        t.cl.tcause = BitVec.ofNat 64 ((cluCode s.cur.clu).val * 2 ^ 28 + detail * 2 ^ 24 + cause))

/-- TRAP takes the user trap after its bundle, SRET returns from a handler, IDLE waits for the wake latch, NOP does
nothing (R128, R240, R243, R347). TRAP delivers cause 0x19 to its cluster with the code in TINFO and TPC at the first
bundle after it in fetch order, loop ends included (the model's choice, log 41). SRET in a handler sets pc, level and
ENDED from the saved registers and clears INH and PCTX.USE, and where every cluster has then ended, the exit begins;
IDLE at privileged level clears a set wake latch or stops issue. SRET and IDLE at user level raise the privilege
fault, and SRET outside a handler the illegal-instruction fault. NOP changes nothing. -/
def Obligations.SystemInstructionsActByLevel : Prop :=
  ∀ (s : State) (code : BitVec 10),
    let c := s.old.clu s.cur.clu
    let after := loopEnd c s.ir.bpc none s.cl 4
    let last : Prop := s.cl.tstat.getLsbD 1 = true ∧ ∀ x, x ≠ s.cur.clu → (s.me.clu x).ended = true
    (∃ t, exec (.trap code) s = .next t ∧ t.report = .branched ∧ sameButTrapped s t s.cur.core s.cur.clu ∧
      t.cl.tpc = (s.onCl fun _ => after).pcOf s.cur.core s.cur.clu ∧
      (s.cl.inh = false → t.cl.tcause.toNat % 256 = 0x19 ∧ t.cl.tinfo = s.ir.w0 ++ code.setWidth 32) ∧
      (s.cl.inh = false → s.disposition 0x19 = .handler →
        t.cl.pc = BitVec.ofNat 64 (s.cl.tvec.toNat / 64 * 64 + 64 * 0x19 + 4) ∧ t.cl.priv = true ∧ t.cl.inh = true)) ∧
    (c.priv = false → exec .sret s = s.fault 3 0 ∧ exec .idle s = s.fault 3 0) ∧
    (c.priv = true → c.inh = false → exec .sret s = s.fault 1 0) ∧
    (c.priv = true → c.inh = true → ∃ t, exec .sret s = .next t ∧ t.report = .branched ∧ sameMemory s t ∧ sameOutside s t ∧
      t.cl = { s.cl with pc := s.cl.tpc, pcReg := s.cl.tpcReg, lineRoom := t.cl.lineRoom, priv := s.cl.tstat.getLsbD 0,
                         ended := s.cl.tstat.getLsbD 1, inh := false, pctx := t.cl.pctx, stopped := t.cl.stopped } ∧
      (∀ b, t.cl.pctx.getLsbD b = (s.cl.pctx.getLsbD b && decide (b ≠ 6))) ∧
      (last → t.me.exit.isSome = true) ∧
      (¬ last → t.cl.stopped = s.cl.stopped ∧ (s.cur.clu ≠ .a → sameButCluster s t))) ∧
    (c.priv = true → c.wake = true → ∃ t, exec .idle s = .next t ∧ sameButCluster s t ∧ t.cl = { s.cl with wake := false }) ∧
    (c.priv = true → c.wake = false → ∃ t, exec .idle s = .next t ∧ sameButCluster s t ∧ t.cl = { s.cl with idle := true }) ∧
    exec .nop s = .next s

/-- The address checks of a scalar access are made in the order of R141, and each failing check gives its fault (R21,
R37, R141, R342). For a load, store or atomic of 1, 2, 4 or 8 bytes: an unassigned path is the address fault; path 0xF
at user level the privilege fault; then a misaligned address the misalignment fault; then a form that fails (PEER bits
[59:58], quad-peer bits [59:42] nonzero among them), an access outside a footprint, one to a quad peer that runs no
task of the launch, RO writes, atomics on typed buffers, and path 0xE the address fault; a lost port of a PEER chip
the memory-error machine check; a store to W, C or the scale buffer inside its footprint the buffer-permission fault;
a store or atomic to a LAT region the non-monotone-store fault. Where all pass, HOST, PEER and quad-peer accesses go
to the bytes named. Every form of LD, ST, LDA, STR and the atomics raises exactly the fault its check gives, at the
address it forms. -/
def Obligations.AddressChecksComeInOrder : Prop :=
  ∀ (s : State) (a : Word) (size : Nat) (kind : AccessKind), (size = 1 ∨ size = 2 ∨ size = 4 ∨ size = 8) →
    let path := a.toNat / 2 ^ 60
    let off := a.toNat % 2 ^ 40
    let tid := a.toNat / 2 ^ 40 % 2 ^ 16
    let r := s.target a size kind
    let user := (s.old.clu s.cur.clu).priv = false
    let genBad : Prop := a.toNat / 2 ^ 56 % 16 ≠ 0 ∨ tid = 0
    let aligned : Prop := a.toNat % size = 0
    ((path = 6 ∨ path = 7 ∨ path = 13) → r = .trap 8 0 a) ∧
    (path = 15 → user → r = .trap 3 0 a) ∧
    (path ≠ 6 → path ≠ 7 → path ≠ 13 → ¬ (path = 15 ∧ user) → ¬ aligned → r = .trap 9 0 a) ∧
    (aligned → (path = 0 ∨ path = 1 ∨ path = 2 ∨ path = 3) → genBad → r = .trap 8 0 a) ∧
    (aligned → path = 1 → kind ≠ .load → r = .trap 8 0 a) ∧
    (aligned → path = 2 → ¬ genBad → (∀ t, s.me.task = some t → s.regionAt t.ctx a = none) → r = .trap 8 0 a) ∧
    (aligned → path = 2 → ¬ genBad → kind ≠ .load → ∀ t rg, s.me.task = some t → s.regionAt t.ctx a = some rg → r = .trap 0xB 0 a) ∧
    (aligned → path = 4 → (a.toNat / 2 ^ 52 % 256 ≠ 0 ∨ (s.dev 0xE00).toNat ≤ a.toNat % 2 ^ 52) → r = .trap 8 0 a) ∧
    (∀ b : Fin 4, aligned → path = 8 + b.val →
      (a.toNat / 2 ^ 40 % 2 ^ 20 ≠ 0 ∨ s.me.inFoot b off size = false → r = .trap 8 0 a) ∧
      (a.toNat / 2 ^ 40 % 2 ^ 20 = 0 → s.me.inFoot b off size = true →
        (kind = .store → b ≠ 1 → r = .trap 0xA 0 a) ∧ (kind = .atomic → r = .trap 8 0 a) ∧
        ((kind = .load ∨ (kind = .store ∧ b = 1)) → r = .ok (.buf s.cur.core b off) s))) ∧
    (aligned → path = 4 → a.toNat / 2 ^ 52 % 256 = 0 → a.toNat % 2 ^ 52 < (s.dev 0xE00).toNat → r = .ok (.host (a.toNat % 2 ^ 52)) s) ∧
    (aligned → path = 5 → a.toNat / 2 ^ 58 % 4 ≠ 0 → r = .trap 8 0 a) ∧
    (aligned → path = 5 → a.toNat / 2 ^ 58 % 4 = 0 →
      let lost := s.plat.ualLost.getLsbD (a.toNat / 2 ^ 48 % 16)
      (lost = true → r = .trap 0x21 0 a) ∧ (lost = false → r = .ok (.peer (a.toNat % 2 ^ 58)) s)) ∧
    (aligned → path = 12 → kind = .atomic → r = .trap 8 0 a) ∧
    (aligned → path = 12 → a.toNat / 2 ^ 42 % 2 ^ 18 ≠ 0 → r = .trap 8 0 a) ∧
    (∀ k : Fin 768, k.val = s.cur.core.val / 4 * 4 + a.toNat / 2 ^ 40 % 4 → aligned → path = 12 → a.toNat / 2 ^ 42 % 2 ^ 18 = 0 →
      let reachable : Prop := k = s.cur.core ∨ ∃ x y, s.me.task = some x ∧ (s.core k).task = some y ∧ x.lid = y.lid
      (¬ reachable → r = .trap 8 0 a) ∧
      ((∀ y, (s.core k).task = some y → y.footA < off + size) → r = .trap 8 0 a) ∧
      (∀ y, (s.core k).task = some y → reachable → off + size ≤ y.footA → kind ≠ .atomic → r = .ok (.buf k 1 off) s)) ∧
    (aligned → path = 14 → r = .trap 8 0 a) ∧
    (aligned → path = 15 → ¬ user → kind = .atomic → r = .trap 8 0 a) ∧
    ∀ (d ra rb : Reg) (ty : BitVec 3) (sz sc od : BitVec 2) (sg s1 : BitVec 1) (o11 : BitVec 11) (o12 : BitVec 12) (c det : Nat),
      (s.target (s.g ra) (2 ^ sz.toNat) .load = .trap c det (s.g ra) → exec (.lda d ra sc sz sg) s = s.faultAt c det (s.g ra)) ∧
      (s.target (s.g ra + sext o11 * BitVec.ofNat 64 (ldSize ty)) (ldSize ty) .load = .trap c det (s.g ra + sext o11 * BitVec.ofNat 64 (ldSize ty)) →
        exec (.ld d ra ty o11) s = s.faultAt c det (s.g ra + sext o11 * BitVec.ofNat 64 (ldSize ty))) ∧
      (s.target (s.g ra + sext o12 * BitVec.ofNat 64 (2 ^ sz.toNat)) (2 ^ sz.toNat) .store = .trap c det (s.g ra + sext o12 * BitVec.ofNat 64 (2 ^ sz.toNat)) →
        exec (.st ra rb sz o12) s = s.faultAt c det (s.g ra + sext o12 * BitVec.ofNat 64 (2 ^ sz.toNat))) ∧
      (s.target (s.g ra) (2 ^ sz.toNat) .store = .trap c det (s.g ra) → exec (.str ra rb sc sz) s = s.faultAt c det (s.g ra)) ∧
      (s.target (s.g ra) 4 .atomic = .trap c det (s.g ra) → exec (.afadd d ra rb od sc) s = s.faultAt c det (s.g ra)) ∧
      (s.target (s.g ra) (atomicSize s1) .atomic = .trap c det (s.g ra) →
        ∀ i, (i = .aadd d ra rb s1 od sc ∨ i = .aand d ra rb s1 od sc ∨ i = .aor d ra rb s1 od sc ∨ i = .axor d ra rb s1 od sc ∨
          i = .amin d ra rb s1 od sc ∨ i = .amax d ra rb s1 od sc ∨ i = .aminn d ra rb s1 od sc ∨ i = .amaxn d ra rb s1 od sc ∨
          i = .aswp d ra rb s1 od sc ∨ i = .acas d ra rb s1 od sc) → exec i s = s.faultAt c det (s.g ra))

/-- LD and LDA write gD the bytes at their address, zero- or sign-extended by type (R10, R21, R141, R142, R143, R265,
R270, R284, R362). LD reads at gA + sext(off11) times size, LDA at gA. On the HOST path inside the window, in a typed
buffer of the core inside its footprint (no watermark, uncompared accumulator or poison in the way, deterministic mode
off), and on a dead page (value 0), the load completes, writes gD the bytes extended as its type says and leaves every
other register and every byte of memory as they were; an acquire at quad scope or wider drops the L1 lines that GEN
loads filled. On device memory that is live, the value is that of the L1 line where one may serve it, and gD is the
only register written. A load that returns a nonzero OUTCOME acquires what the launch released: it drops the same L1
lines. A load that must wait stalls: for an earlier request to its line, or because an island on its way is stopped
(R381). One of lost bytes raises the memory-error machine check. The model's choices: an uncached load takes its own
die's dirty bytes home first (log 82), a LAT load wider than a cell (log 52), a load held for a full directory set
(log 35), the I/O dies' islands (log 118). The L1's fill and the counters are the model's side effects. -/
def Obligations.LoadsReturnTheBytesExtended : Prop :=
  ∀ (s : State) (d ra : Reg),
    let ext (size : Nat) (signed : Bool) (x : Nat) : Word :=
      if signed then (BitVec.ofNat (8 * size) x).signExtend 64 else BitVec.ofNat 64 (x % 256 ^ size)
    -- the two loads, with their address, size, extension and acquire scope
    ∀ i a size signed scope,
      ((∃ ty o, i = .ld d ra ty o ∧ size = ldSize ty ∧ signed = (decide (4 ≤ ty.toNat) : Bool) ∧ scope = 0 ∧
          a = s.g ra + o.signExtend 64 * BitVec.ofNat 64 size) ∨
       (∃ sc sz sg, i = .lda d ra sc sz sg ∧ size = 2 ^ sz.toNat ∧ signed = (sg == 1 : Bool) ∧ scope = sc.toNat ∧ a = s.g ra)) →
      let givesIf (drops : Prop) [Decidable drops] (x : Nat) : Prop := ∃ t, exec i s = .next t ∧ onlyG s t d (ext size signed x) ∧
        sameMemory s t ∧ sameOutside s t ∧
        t.report = s.report ∧ t.me.st = s.me.st ∧ t.me.rg = s.me.rg ∧ (∀ x, x ≠ s.cur.clu → t.me.clu x = s.me.clu x) ∧
        t.me.en = { s.me.en with l1 := if drops then s.me.en.l1.filter fun l => l.ro else s.me.en.l1 }
      let gives := givesIf (scope ≠ 0)
      let outcome (p : Phys) (x : Nat) : Prop := x ≠ 0 ∧ s.ms.outcomes.contains (p.addr / 8 * 8) = true
      (∀ h, s.target a size .load = .ok (.host h) s → (s.ioStops true = false → gives (s.ms.host.readLe h size)) ∧
        (s.ioStops true = true → exec i s = s.stall)) ∧
      (∀ h, s.target a size .load = .ok (.peer h) s → (s.peerStops (h / 2 ^ 48) = false → gives (s.ms.peer.readLe h size)) ∧
        (s.peerStops (h / 2 ^ 48) = true → exec i s = s.stall)) ∧
      (∀ k b off, s.target a size .load = .ok (.buf k b off) s → s.me.det = false → (s.core k).det = false →
        s.bufWaits k b off size (s.core k).en.issued = false → (s.core k).st.poisoned b off size = false →
        gives (((s.core k).st.buf b).readLe off size)) ∧
      (∀ rt r, s.target a size .load = .ok (.lat rt r) s → s.uncoreStops (dieOf s.cur.core) = true → exec i s = s.stall) ∧
      (∀ rt r, s.target a size .load = .ok (.lat rt r) s → s.uncoreStops (dieOf s.cur.core) = false →
        s.latLost rt r (dieOf s.cur.core) a = false → ∃ t, exec i s = .next t ∧
        onlyG s t d (ext size signed (s.latLoad rt r a size)) ∧ sameMemory s t ∧ sameOutside s t ∧ t.me.st = s.me.st ∧
        t.me.en.l1 = s.me.en.l1.filter fun l => l.ro) ∧
      (∀ p path, s.target a size .load = .ok (.mem p path) s → p.dead = true → path ≠ 3 → gives 0) ∧
      (∀ p, s.target a size .load = .ok (.mem p 3) s → p.dead = true → ∃ t, exec i s = .next t ∧
        onlyG s t d 0 ∧ sameMemory s t ∧ sameOutside s t ∧ t.me.st = s.me.st) ∧
      (∀ p path l, s.target a size .load = .ok (.mem p path) s → p.dead = false → path ≠ 3 →
        s.me.l1Hit p.line (decide (path = 1)) (rangeMask p.off size) = some l →
        (¬ outcome p (linePart l.data p.off size) → gives (linePart l.data p.off size)) ∧
        (outcome p (linePart l.data p.off size) → givesIf True (linePart l.data p.off size))) ∧
      (∀ p path, s.target a size .load = .ok (.mem p path) s → p.dead = false → path ≠ 3 →
        s.me.l1Hit p.line (decide (path = 1)) (rangeMask p.off size) = none → s.held (dieOf s.cur.core) p = false →
        s.ms.lost (dieOf s.cur.core) p (rangeMask p.off size) = false →
        let x := linePart (s.ms.load (dieOf s.cur.core) p (rangeMask p.off size)).1 p.off size
        ∃ t, exec i s = .next t ∧ onlyG s t d (ext size signed x) ∧
          t.ms = (s.ms.load (dieOf s.cur.core) p (rangeMask p.off size)).2 ∧ t.me.st = s.me.st ∧
          (scope ≠ 0 ∨ (x ≠ 0 ∧ t.ms.outcomes.contains (p.addr / 8 * 8) = true) → ∀ l, l ∈ t.me.en.l1 → l.ro = true)) ∧
      (∀ p, s.target a size .load = .ok (.mem p 3) s → p.dead = false → s.held (dieOf s.cur.core) p = false →
        s.ms.lostHome (dieOf s.cur.core) p = false →
        let home := if p.coherent then (s.ms.homeRead p).2 else s.ms.toHome (dieOf s.cur.core) p
        let x := linePart (home.homeLine p.line p.key) p.off size
        ∃ t, exec i s = .next t ∧ onlyG s t d (ext size signed x) ∧ t.ms = home ∧ t.me.st = s.me.st ∧
          (scope ≠ 0 ∨ (x ≠ 0 ∧ t.ms.outcomes.contains (p.addr / 8 * 8) = true) → ∀ l, l ∈ t.me.en.l1 → l.ro = true)) ∧
      (∀ p path, s.target a size .load = .ok (.mem p path) s → p.dead = false →
        (path = 3 ∨ s.me.l1Hit p.line (decide (path = 1)) (rangeMask p.off size) = none) → s.held (dieOf s.cur.core) p = true → exec i s = s.stall) ∧
      (∀ p path, s.target a size .load = .ok (.mem p path) s → p.dead = false →
        (path = 3 ∨ s.me.l1Hit p.line (decide (path = 1)) (rangeMask p.off size) = none) → s.held (dieOf s.cur.core) p = false →
        (if path = 3 then s.ms.lostHome (dieOf s.cur.core) p
          else s.ms.lost (dieOf s.cur.core) p (rangeMask p.off size)) = true → exec i s = s.faultAt 0x21 0 0)

/-- ST and STR write the low size bytes of the source at their address and no other byte and no register (R21, R141,
R142, R143, R362). ST stores at gA + sext(off12) times size, STR at gA. On the HOST and PEER paths, and in the A
buffer of the core or of a quad peer (no watermark in the way, deterministic mode off), the store completes; after it,
byte i of the source reads at address + i, every other byte of every memory and buffer reads as before, and no
register changes. On device memory the store reaches the memories as the model's store of the masked bytes of one
line, and no register changes. A store that must wait stalls: for an earlier request to its line, or for a stopped
island on its way (R381). The model's choices: an uncached store takes its own die's dirty bytes home first (log 82),
a store held for a full directory set (log 35), the I/O dies' islands (log 118). The memory written is assumed in
canonical form. -/
def Obligations.StoresWriteTheLowBytesOfTheirSource : Prop :=
  ∀ (s : State) (ra rb : Reg),
    ∀ i a size,
      ((∃ sz o, i = .st ra rb sz o ∧ size = 2 ^ sz.toNat ∧ a = s.g ra + o.signExtend 64 * BitVec.ofNat 64 size) ∨
       (∃ sc sz, i = .str ra rb sc sz ∧ size = 2 ^ sz.toNat ∧ a = s.g ra)) →
      let byte (j : Nat) : Byte := BitVec.ofNat 8 ((s.g rb).toNat / 256 ^ j)
      let stored (m n : Memory) (at_ : Nat) : Prop := ∀ b, n.read b = if at_ ≤ b ∧ b < at_ + size then byte (b - at_) else m.read b
      (∀ h, s.target a size .store = .ok (.host h) s → s.ioStops true = true → exec i s = s.stall) ∧
      (∀ h, s.target a size .store = .ok (.peer h) s → s.peerStops (h / 2 ^ 48) = true → exec i s = s.stall) ∧
      (∀ h, s.target a size .store = .ok (.host h) s → s.ioStops true = false → s.ms.host.wf → ∃ t, exec i s = .next t ∧
        stored s.ms.host t.ms.host h ∧ t.ms = { s.ms with host := t.ms.host } ∧ sameOutside s t ∧ t.me = s.me ∧ t.report = s.report) ∧
      (∀ h, s.target a size .store = .ok (.peer h) s → s.peerStops (h / 2 ^ 48) = false → s.ms.peer.wf → ∃ t, exec i s = .next t ∧
        stored s.ms.peer t.ms.peer h ∧ t.ms = { s.ms with peer := t.ms.peer } ∧ sameOutside s t ∧ t.me = s.me ∧ t.report = s.report) ∧
      (∀ k off, s.target a size .store = .ok (.buf k 1 off) s → s.me.det = false → (s.core k).det = false →
        s.bufWaits k 1 off size (s.core k).en.issued = false → (s.core k).st.bufA.wf →
        ∃ t, exec i s = .next t ∧ stored (s.core k).st.bufA (t.core k).st.bufA off ∧ sameMemory s t ∧
          t.core k = { s.core k with st := { (s.core k).st with bufA := (t.core k).st.bufA, bad := (t.core k).st.bad } } ∧
          (∀ j, j ≠ k → t.core j = s.core j) ∧ t.cadence = s.cadence ∧ t.quads = s.quads ∧ t.lat = s.lat ∧ t.sch = s.sch ∧
          t.plat = s.plat ∧ t.regs = s.regs ∧ t.cur = s.cur ∧ t.report = s.report) ∧
      (∀ p path, s.target a size .store = .ok (.mem p path) s → s.held (dieOf s.cur.core) p = false → p.dead = false → path ≠ 3 →
        ∃ t, exec i s = .next t ∧ t.me.cl = s.me.cl ∧ t.me.st = s.me.st ∧
          t.ms = s.ms.store (dieOf s.cur.core) p (rangeMask p.off size) (placeInLine ((s.g rb).toNat % 256 ^ size) p.off)) ∧
      (∀ p path, s.target a size .store = .ok (.mem p path) s → s.held (dieOf s.cur.core) p = false → p.dead = true → path ≠ 3 →
        ∃ t, exec i s = .next t ∧ t.me.cl = s.me.cl ∧ t.me.st = s.me.st ∧
          t.ms = (s.revived p).ms.store (dieOf s.cur.core) p (rangeMask p.off size) (placeInLine ((s.g rb).toNat % 256 ^ size) p.off)) ∧
      (∀ p, s.target a size .store = .ok (.mem p 3) s → s.held (dieOf s.cur.core) p = false → p.dead = false →
        ∃ t, exec i s = .next t ∧ t.me.cl = s.me.cl ∧ t.me.st = s.me.st ∧
          t.ms = (s.ms.toHome (dieOf s.cur.core) p).homeWrite p.line p.key (rangeMask p.off size)
            (placeInLine ((s.g rb).toNat % 256 ^ size) p.off)) ∧
      (∀ p path, s.target a size .store = .ok (.mem p path) s → s.held (dieOf s.cur.core) p = true → exec i s = s.stall)

/-- A line written at its home changes exactly the bytes of its mask (R150, R275, R286). For a home memory in
canonical form whose line reads in the clear under the writer's key slot, writing masked bytes of a line changes the
byte at each masked place to the byte of the data and leaves every other byte of main memory as it was; host and peer
memory, the caches and the directory are untouched. With the key slot erased nothing is written, and the line is
poisoned. -/
def Obligations.HomeWritesChangeOnlyTheirMaskedBytes : Prop :=
  ∀ (m : MemSys) (line slot : Nat) (mask : Word) (data : Line), m.main.wf →
    let n := m.homeWrite line slot mask data
    let plain : Prop := alGet m.lineKeys line = none ∨ alGet m.lineKeys line = some (m.keySlot slot).key
    n.host = m.host ∧ n.peer = m.peer ∧ n.dieLines = m.dieLines ∧ n.dir = m.dir ∧ n.trans = m.trans ∧ n.reqs = m.reqs ∧ n.keys = m.keys ∧
    ((m.keySlot slot).state = 0 → n.main = m.main ∧ n.poison.contains line = true) ∧
    ((m.keySlot slot).state ≠ 0 → plain → n.main.wf ∧ ∀ a, n.main.read a =
      if a / 64 = line ∧ mask.getLsbD (a % 64) = true then data.extractLsb' (8 * (a % 64)) 8 else m.main.read a)

/-- Each atomic returns the zero-extended old value and writes what R146 gives; a failed ACAS writes nothing (R141,
R146, R148). On the HOST path inside the window, and on the PEER path outside the reduction window, each atomic of 4
or 8 bytes completes, writes gD the old value zero-extended, and stores old + b modulo 2^w, the bitwise results, the
signed or unsigned minimum or maximum, b, or the sum in FP32; ACAS stores b when the old value equals gD's low bits
and otherwise nothing. No other byte and no other register changes. On the PEER path inside the reduction window any
atomic with a destination other than g0, and any ASWP or ACAS, raises the address fault, and every other atomic with
destination g0 completes with the same effect on the bytes. An access through a stopped I/O-die island waits (R381;
which island is log 118, the model's choice). For AFADD a NaN operand or infinities of opposite sign give 0x7FC0_0000
and two negative zeros give negative zero. -/
def Obligations.AtomicsReturnTheOldValueAndWriteTheNew : Prop :=
  ∀ (s : State) (d ra rb : Reg) (s1 : BitVec 1) (od sc : BitVec 2),
    let w := if s1 = 1 then 64 else 32
    let b := (s.g rb).toNat % 2 ^ w
    let c := (s.g d).toNat % 2 ^ w
    let sgn (x : Nat) : Int := (BitVec.ofNat w x).toInt
    let side (p : Bool) (m : MemSys) : Memory := if p then m.peer else m.host
    let place (p : Bool) (h : Nat) : Target := if p then .peer h else .host h
    ∀ (pr : Bool) (h : Nat), (side pr s.ms).wf →
    let does (i : Instr) (bytes : Nat) (old : Nat) (new : Option Nat) : Prop :=
      ∃ t, exec i s = .next t ∧ onlyG s t d (BitVec.ofNat 64 old) ∧ sameOutside s t ∧ t.me.st = s.me.st ∧
        t.ms = { s.ms with host := t.ms.host, peer := t.ms.peer } ∧ side (!pr) t.ms = side (!pr) s.ms ∧
        ∀ a, (side pr t.ms).read a = match new with
          | some x => if h ≤ a ∧ a < h + bytes then BitVec.ofNat 8 (x / 256 ^ (a - h)) else (side pr s.ms).read a
          | none => (side pr s.ms).read a
    let open_ : Prop := if pr then s.peerStops (h / 2 ^ 48) = false else s.ioStops true = false
    let sized (i : Instr) : Prop := i = .aadd d ra rb s1 od sc ∨ i = .aand d ra rb s1 od sc ∨ i = .aor d ra rb s1 od sc ∨
      i = .axor d ra rb s1 od sc ∨ i = .amin d ra rb s1 od sc ∨ i = .amax d ra rb s1 od sc ∨ i = .aminn d ra rb s1 od sc ∨
      i = .amaxn d ra rb s1 od sc
    let swaps (i : Instr) : Prop := i = .aswp d ra rb s1 od sc ∨ i = .acas d ra rb s1 od sc
    (∀ i, sized i ∨ swaps i → s.target (s.g ra) (w / 8) .atomic = .ok (place pr h) s → ¬ open_ → (pr = true → s.inReduction h = false) →
      exec i s = s.stall) ∧
    (s.target (s.g ra) (w / 8) .atomic = .ok (place pr h) s → (pr = true → s.inReduction h = false ∨ d = 0) → open_ →
      let old := (side pr s.ms).readLe h (w / 8)
      does (.aadd d ra rb s1 od sc) (w / 8) old (some ((old + b) % 2 ^ w)) ∧
      does (.aand d ra rb s1 od sc) (w / 8) old (some (old &&& b)) ∧
      does (.aor d ra rb s1 od sc) (w / 8) old (some (old ||| b)) ∧
      does (.axor d ra rb s1 od sc) (w / 8) old (some (old ^^^ b)) ∧
      does (.amin d ra rb s1 od sc) (w / 8) old (some (if sgn old < sgn b then old else b)) ∧
      does (.amax d ra rb s1 od sc) (w / 8) old (some (if sgn old < sgn b then b else old)) ∧
      does (.aminn d ra rb s1 od sc) (w / 8) old (some (min old b)) ∧
      does (.amaxn d ra rb s1 od sc) (w / 8) old (some (max old b))) ∧
    (s.target (s.g ra) (w / 8) .atomic = .ok (place pr h) s → (pr = true → s.inReduction h = false) → open_ →
      let old := (side pr s.ms).readLe h (w / 8)
      does (.aswp d ra rb s1 od sc) (w / 8) old (some b) ∧
      does (.acas d ra rb s1 od sc) (w / 8) old (if old = c then some b else none)) ∧
    (s.target (s.g ra) 4 .atomic = .ok (place pr h) s → (pr = true → s.inReduction h = false ∨ d = 0) → open_ →
      does (.afadd d ra rb od sc) 4 ((side pr s.ms).readLe h 4)
        (some (addF32 ((side pr s.ms).readLe h 4) ((s.g rb).toNat % 2 ^ 32) 0 false 0).1)) ∧
    (s.target (s.g ra) (w / 8) .atomic = .ok (.peer h) s → s.inReduction h = true →
      (∀ i, swaps i → exec i s = s.faultAt 8 0 (s.g ra)) ∧ (∀ i, sized i → d ≠ 0 → exec i s = s.faultAt 8 0 (s.g ra))) ∧
    (s.target (s.g ra) 4 .atomic = .ok (.peer h) s → s.inReduction h = true → d ≠ 0 → exec (.afadd d ra rb od sc) s = s.faultAt 8 0 (s.g ra)) ∧
    (s.inReduction h = true ↔ (s.dev 0xE38).toNat ≤ h % 2 ^ 48 ∧ h % 2 ^ 48 < (s.dev 0xE38).toNat + (s.dev 0xE39).toNat) ∧
    (∀ x y : Nat, x < 2 ^ 32 → y < 2 ^ 32 →
      let isNaN (z : Nat) : Prop := z / 2 ^ 23 % 256 = 255 ∧ z % 2 ^ 23 ≠ 0
      (isNaN x ∨ isNaN y → (addF32 x y 0 false 0).1 = 0x7FC00000) ∧
      ((addF32 0x7F800000 0xFF800000 0 false 0).1 = 0x7FC00000) ∧ ((addF32 0x80000000 0x80000000 0 false 0).1 = 0x80000000))

/-- An atomic on device memory acts on the line at its home after every cached copy is recalled (R146, R280, R283,
R307, R362). For a live line whose content is not lost and for which no request is held, every atomic on a GEN or UC
address completes: it returns the bytes that the home holds once the coherent copies (or the issuing die's non-
coherent copy) have gone home, and writes the new bytes there under the range's mask; with nothing to write, the home
keeps what it holds. A line with an open transaction or an earlier request held, one with no room in its set of the
directory (the model's choice, log 35), and a stopped uncore of the home or of the issuing die (R381) make the atomic
wait. On a dead page the old value is 0. -/
def Obligations.DeviceAtomicsActAtTheHome : Prop :=
  ∀ (s : State) (d ra rb : Reg) (s1 : BitVec 1) (od sc : BitVec 2) (p : Phys) (path : Nat) (op : AOp) (i : Instr) (size : Nat),
    ((op = .add ∧ i = .aadd d ra rb s1 od sc) ∨ (op = .and ∧ i = .aand d ra rb s1 od sc) ∨ (op = .or ∧ i = .aor d ra rb s1 od sc) ∨
      (op = .xor ∧ i = .axor d ra rb s1 od sc) ∨ (op = .min ∧ i = .amin d ra rb s1 od sc) ∨ (op = .max ∧ i = .amax d ra rb s1 od sc) ∨
      (op = .minn ∧ i = .aminn d ra rb s1 od sc) ∨ (op = .maxn ∧ i = .amaxn d ra rb s1 od sc) ∨
      (op = .swp ∧ i = .aswp d ra rb s1 od sc) ∨ (op = .cas ∧ i = .acas d ra rb s1 od sc) ∨ (op = .fadd ∧ i = .afadd d ra rb od sc)) →
    size = (if op = .fadd then 4 else atomicSize s1) → s.target (s.g ra) size .atomic = .ok (.mem p path) s →
    let home := s.ms.toHome (dieOf s.cur.core) p
    let old := linePart (home.homeLine p.line p.key) p.off size
    let new := op.apply (8 * size) old ((s.g rb).toNat % 256 ^ size) ((s.g d).toNat % 256 ^ size)
    (s.held (dieOf s.cur.core) p = true → exec i s = s.stall) ∧
    (s.held (dieOf s.cur.core) p = false → p.dead = false → s.ms.lostHome (dieOf s.cur.core) p = false → ∃ t, exec i s = .next t ∧
      onlyG s t d (BitVec.ofNat 64 old) ∧ t.me.st = s.me.st ∧
      t.ms = (match new with
        | some x => home.homeWrite p.line p.key (rangeMask p.off size) (placeInLine x p.off)
        | none => home)) ∧
    (s.held (dieOf s.cur.core) p = false → p.dead = true → ∃ t, exec i s = .next t ∧ onlyG s t d 0 ∧ t.me.st = s.me.st) ∧
    (s.held (dieOf s.cur.core) p = false → p.dead = false → s.ms.lostHome (dieOf s.cur.core) p = true → exec i s = s.faultAt 0x21 0 0)

/-- The fences hold later forms and commands behind earlier ones; FENCE and FENCEA drop the L1 lines of GEN loads;
PREF changes nothing (R143, R144, R153). The fences complete in every state: each records that every long form and
matrix command of the cluster issued so far comes before those it issues after, and an unfinished vector form of the
cluster issued before that point holds one issued after it. FENCE and FENCEA at quad scope or wider leave only the RO
lines in the L1; nothing else changes. PREF completes in every state, on any address, and changes nothing. That
accesses act as they issue, so that no other order can be seen, is notes/assumptions/4.md. -/
def Obligations.FencesAndPrefetchKeepEveryValue : Prop :=
  ∀ (s : State) (sc : BitVec 2) (ra rb : Reg),
    (∀ i, (i = .fence sc ∨ i = .fencea sc ∨ i = .fencer sc) → ∃ t, exec i s = .next t ∧ sameMemory s t ∧ sameOutside s t ∧
      t.report = s.report ∧ t.me = { s.me with en := { s.me.en with l1 := t.me.en.l1 }, cl := t.me.cl } ∧
      t.cl = { s.cl with fence := s.me.en.issued } ∧ (∀ x, x ≠ s.cur.clu → t.me.clu x = s.me.clu x) ∧
      t.me.en.l1 = if sc = 0 ∨ i = .fencer sc then s.me.en.l1 else s.me.en.l1.filter fun l => l.ro) ∧
    (∀ g f : Form, g.clu = f.clu → g.order < f.after → f.after ≤ f.order → g.holds f = true) ∧
    exec (.pref ra rb) s = .next s

/-- WBR, INVR and DISCARD complete on a checked range: WBR cleans, INVR drops and DISCARD kills the lines of its
present pages (R149, R150, R151, R152). Each of the three completes for a zero length, with no effect and no check,
and for every GEN range of a nonzero tensor that ends by offset 2^40 (aligned and writable for DISCARD) whose pages
translate or are absent. A base off the GEN path or with tensor 0, or an end past offset 2^40, is the address fault;
an unaligned DISCARD the misalignment fault. On the present pages: after WBR no non-coherent line of the die in the
range is dirty; after INVR no such line and no L1 line of the core filled by a GEN load remains in the range (R273
keeps those tagged RO); after DISCARD no die holds a line of the pages' frames. WBR leaves coherent lines and other
dies' lines as they were where no page written back to is dead and no line written back is a page entry's; none of the
three writes a register. A stopped uncore on the way makes each wait (R381). The order of the checks, and that only
details 3 and 4 of the page fault skip a page, are the model's choice (log 55). -/
def Obligations.RangeInstructionsActOnTheirPages : Prop :=
  ∀ (s : State) (ra rb : Reg),
    let a := s.g ra
    let len := s.g rb
    let die := dieOf s.cur.core
    let genBad : Prop := a.toNat / 2 ^ 56 % 16 ≠ 0 ∨ a.toNat / 2 ^ 40 % 2 ^ 16 = 0
    let regsSame (t : State) : Prop := t.me.cl = s.me.cl ∧ t.me.st = s.me.st ∧ t.ms.host = s.ms.host ∧ t.ms.peer = s.ms.peer
    let lo := a.toNat % 2 ^ 40
    let hi := lo + len.toNat
    -- every page of the range translates or is absent
    let open_ : Prop := ∀ d, s.uncoreStops d = false
    let pagesOk (write : Bool) : Prop := ∀ p, lo / 65536 ≤ p → p ≤ (hi - 1) / 65536 → ∀ c d,
      s.reach (s.old.slotFor s.cur.clu) ((a &&& ~~~0xFF_FFFF_FFFF#64) + BitVec.ofNat 64 (p * 65536)) write = .error (c, d) →
      c = 0xC ∧ (d = 3 ∨ d = 4)
    -- where each completes
    (∀ i, (i = .wbr ra rb ∨ i = .invr ra rb) → len ≠ 0 → a.toNat / 2 ^ 60 = 0 → ¬ genBad → hi ≤ 2 ^ 40 → pagesOk false → open_ →
      ∃ t, exec i s = .next t ∧ t.report = s.report ∧ regsSame t) ∧
    (len ≠ 0 → a.toNat / 2 ^ 60 = 0 → ¬ genBad → hi ≤ 2 ^ 40 → a.toNat % 65536 = 0 → len.toNat % 65536 = 0 → pagesOk true → open_ →
      ∃ t, exec (.discard ra rb) s = .next t ∧ t.report = s.report ∧ regsSame t) ∧
    (len = 0 → exec (.wbr ra rb) s = .next s ∧ exec (.invr ra rb) s = .next s ∧ exec (.discard ra rb) s = .next s) ∧
    (len ≠ 0 → a.toNat / 2 ^ 60 = 0 → (genBad ∨ 2 ^ 40 < a.toNat % 2 ^ 40 + len.toNat) →
      exec (.wbr ra rb) s = s.faultAt 8 0 a ∧ exec (.invr ra rb) s = s.faultAt 8 0 a ∧
      (a.toNat % 65536 = 0 → len.toNat % 65536 = 0 → exec (.discard ra rb) s = s.faultAt 8 0 a)) ∧
    (len ≠ 0 → a.toNat / 2 ^ 60 ≠ 0 → exec (.wbr ra rb) s = s.faultAt 8 0 a ∧ exec (.invr ra rb) s = s.faultAt 8 0 a ∧
      exec (.discard ra rb) s = s.faultAt 8 0 a) ∧
    (len ≠ 0 → a.toNat / 2 ^ 60 = 0 → (a.toNat % 65536 ≠ 0 ∨ len.toNat % 65536 ≠ 0) → exec (.discard ra rb) s = s.faultAt 9 0 a) ∧
    (len ≠ 0 → ∀ ps al w, s.range a len al w = .ok ps → (s.uncoreStops die = true ∨ ∃ p ∈ ps, s.uncoreStops p.phys.home = true) →
      (al = 1 → w = false → exec (.wbr ra rb) s = s.stall ∧ exec (.invr ra rb) s = s.stall) ∧
      (al = 65536 → w = true → exec (.discard ra rb) s = s.stall)) ∧
    (len ≠ 0 → open_ → ∀ ps, s.range a len 1 false = .ok ps →
      (∃ t, exec (.wbr ra rb) s = .next t ∧ regsSame t ∧
        (∀ d, d ∈ t.ms.dieLines → d.die = die → d.coh = none → inPages ps d.line = true → d.dirty = 0) ∧
        ((∀ e, e ∈ s.ms.ncLines die ps → s.ms.pageDead e.pte = false ∧ ∀ x, x ∈ s.ms.ncLines die ps → e.pte / 64 ≠ x.line) →
          ∀ d, (d.die ≠ die ∨ inPages ps d.line = false ∨
            ∀ e, e ∈ s.ms.dieLines → e.die = d.die → e.line = d.line → e.coh ≠ none) →
          s.ms.dieLine d.die d.line = some d → t.ms.dieLine d.die d.line = some d)) ∧
      (∃ t, exec (.invr ra rb) s = .next t ∧ regsSame t ∧
        (∀ d, d ∈ t.ms.dieLines → ¬ (d.die = die ∧ d.coh = none ∧ inPages ps d.line = true)) ∧
        (∀ l, l ∈ t.me.en.l1 → inPages ps l.line = true → l.ro = true))) ∧
    (len ≠ 0 → open_ → ∀ ps, s.range a len 65536 true = .ok ps → ∃ t, exec (.discard ra rb) s = .next t ∧ regsSame t ∧
      ∀ p, p ∈ ps → ∀ d, d ∈ t.ms.dieLines → d.line / 1024 ≠ p.phys.frame)

/-- JOIN, JOINA, LDLAT and LDGE complete on a region of the context: two join into the die's replica, two read it
(R231, R232, R233, R234, R286, R313). An address off the LAT path or in no region is the address fault, a misaligned
one the misalignment fault, a region whose key slot is not valid a page fault (detail 7, the model's choice,
notes/assumptions/98.md), a lost cell the memory-error machine check. Else JOIN completes: the issuing die's cell
becomes its join with the operand, by type (GCOUNT adds to the die's own component, saturating; TOPK16 keeps the best
sixteen of its pairs and the operand), no byte outside the cell changes, and under the layout that R311 makes a load
check (each DBASE on its own die, BASE aligned) no other cell and no cell of another die. JOINA does so when assert_ok
holds and otherwise raises the lattice-assert fault with nothing written; LDLAT writes gD the value (for GCOUNT the
saturating sum, for TOPK16 one pair); LDGE does so when the value is at or above gB and otherwise waits. assert_ok and
at-or-above are given by type. A stopped uncore of the die makes each wait (R381). No instruction writes another
register. -/
def Obligations.LatticeInstructionsActOnTheLocalReplica : Prop :=
  ∀ (s : State) (d ra rb : Reg),
    let a := s.g ra
    let die := dieOf s.cur.core
    let all4 (o : Out) : Prop := exec (.join ra rb) s = o ∧ exec (.joina ra rb) s = o ∧ exec (.ldlat d ra) s = o ∧ exec (.ldge d ra rb) s = o
    (a.toNat / 2 ^ 60 ≠ 2 → all4 (s.faultAt 8 0 a)) ∧
    (a.toNat / 2 ^ 60 = 2 → (∀ tk, s.me.task = some tk → genForm a = false ∨ s.regionAt tk.ctx a = none) → all4 (s.faultAt 8 0 a)) ∧
    (a.toNat / 2 ^ 60 = 2 → genForm a = true → ∀ tk rt r, s.me.task = some tk → s.regionAt tk.ctx a = some (rt, r) →
      let op := if r.type = 9 ∨ r.type = 10 then (s.g rb).toNat % 2 ^ 32 else (s.g rb).toNat
      let v := s.latLoad rt r a (if r.type = 9 ∨ r.type = 10 then 4 else 8)
      let alignJ := if r.type = 8 then 128 else if r.type = 9 ∨ r.type = 10 then 4 else 8
      let alignL := if r.type = 9 ∨ r.type = 10 then 4 else 8
      (a.toNat % alignJ ≠ 0 → exec (.join ra rb) s = s.faultAt 9 0 a ∧ exec (.joina ra rb) s = s.faultAt 9 0 a) ∧
      (a.toNat % alignL ≠ 0 → exec (.ldlat d ra) s = s.faultAt 9 0 a ∧ exec (.ldge d ra rb) s = s.faultAt 9 0 a) ∧
      let open_ : Prop := s.latKeyed rt = true ∧ s.uncoreStops die = false
      let joinOk : Prop := a.toNat % alignJ = 0 ∧ open_ ∧ s.latLost rt r die a = false
      let loadOk : Prop := a.toNat % alignL = 0 ∧ open_ ∧ s.latLost rt r die a = false
      let quiet (t : State) : Prop := t.report = s.report ∧ t.me.st = s.me.st ∧ sameOutside s { t with lat := s.lat }
      -- where each completes
      (joinOk → ∃ t, exec (.join ra rb) s = .next t ∧ quiet t ∧ t.me.cl = s.me.cl) ∧
      (joinOk → assertOk r.type (s.latCell rt r die a) op = true → ∃ t, exec (.joina ra rb) s = .next t ∧ quiet t ∧ t.me.cl = s.me.cl) ∧
      (loadOk → ∃ t, exec (.ldlat d ra) s = .next t ∧ quiet t ∧ onlyG s t d (BitVec.ofNat 64 v)) ∧
      (loadOk → atOrAbove r.type v op = true → ∃ t, exec (.ldge d ra rb) s = .next t ∧ quiet t ∧ onlyG s t d (BitVec.ofNat 64 v)) ∧
      (a.toNat % alignJ = 0 → s.latKeyed rt = false → exec (.join ra rb) s = s.faultAt 0xC 7 a ∧ exec (.joina ra rb) s = s.faultAt 0xC 7 a) ∧
      (a.toNat % alignL = 0 → s.latKeyed rt = false → exec (.ldlat d ra) s = s.faultAt 0xC 7 a ∧ exec (.ldge d ra rb) s = s.faultAt 0xC 7 a) ∧
      (a.toNat % alignJ = 0 → s.latKeyed rt = true → s.uncoreStops die = true → exec (.join ra rb) s = s.stall ∧ exec (.joina ra rb) s = s.stall) ∧
      (a.toNat % alignL = 0 → s.latKeyed rt = true → s.uncoreStops die = true → exec (.ldlat d ra) s = s.stall ∧ exec (.ldge d ra rb) s = s.stall) ∧
      (a.toNat % alignJ = 0 → open_ → s.latLost rt r die a = true →
        exec (.join ra rb) s = s.faultAt 0x21 0 a ∧ exec (.joina ra rb) s = s.faultAt 0x21 0 a) ∧
      (a.toNat % alignL = 0 → open_ → s.latLost rt r die a = true →
        exec (.ldlat d ra) s = s.faultAt 0x21 0 a ∧ exec (.ldge d ra rb) s = s.faultAt 0x21 0 a) ∧
      (joinOk →
        (∃ t, exec (.join ra rb) s = .next t ∧ t = (s.latJoin rt r die a op).joinReleases rt r a ∧
          (s.me.det = false → t = s.latJoin rt r die a op ∧ t.cores = s.cores)) ∧
        (assertOk r.type (s.latCell rt r die a) op = true → exec (.joina ra rb) s = .next ((s.latJoin rt r die a op).joinReleases rt r a)) ∧
        (assertOk r.type (s.latCell rt r die a) op = false → exec (.joina ra rb) s = s.fault 0x17 0)) ∧
      (loadOk →
        (∃ t, exec (.ldlat d ra) s = .next t ∧ onlyG s t d (BitVec.ofNat 64 v) ∧ sameMemory s t ∧ sameOutside s t ∧ t.me.st = s.me.st) ∧
        (atOrAbove r.type v op = true → ∃ t, exec (.ldge d ra rb) s = .next t ∧ onlyG s t d (BitVec.ofNat 64 v) ∧ sameMemory s t ∧
          sameOutside s t ∧ t.cl.waitSince = none ∧ t.me.st = s.me.st) ∧
        (atOrAbove r.type v op = false → ∃ t, exec (.ldge d ra rb) s = .next t ∧ t.report = .stalled ∧ t.ms = s.ms)) ∧
      -- the cell of the issuing die before the instruction, its 8-byte words, the ranking of pairs and the order of values, by type
      let x := s.latCell rt r die a
      let word (l : List Byte) (j : Nat) : Nat := leNat ((l.drop (8 * j)).take 8)
      let filler : Nat := 0xFFFFFFFF
      let best (p q : Nat) : Prop := q / 2 ^ 32 < p / 2 ^ 32 ∨ (p / 2 ^ 32 = q / 2 ^ 32 ∧ p % 2 ^ 32 < q % 2 ^ 32)
      let signed (n : Nat) : Int := (BitVec.ofNat 64 n).toInt
      let above (m n : Nat) : Prop :=
        ((r.type = 1 ∨ r.type = 6 ∨ r.type = 9) → n ≤ m) ∧ ((r.type = 2 ∨ r.type = 10) → m ≤ n) ∧ (r.type = 3 → signed n ≤ signed m) ∧
        (r.type = 4 → signed m ≤ signed n) ∧ (r.type = 5 → m ||| n = m) ∧ ((r.type = 7 ∨ r.type = 8) → m = n ∨ best m n)
      -- what a join leaves
      let joined (i : Instr) : Prop := ∃ t, exec i s = .next t ∧
        let y := t.latCell rt r die a
        ((r.type = 1 ∨ r.type = 9) → leNat y = max (leNat x) op) ∧ ((r.type = 2 ∨ r.type = 10) → leNat y = min (leNat x) op) ∧
        (r.type = 3 → signed (leNat y) = max (signed (leNat x)) (signed op)) ∧
        (r.type = 4 → signed (leNat y) = min (signed (leNat x)) (signed op)) ∧ (r.type = 5 → leNat y = leNat x ||| op) ∧
        (r.type = 7 → (leNat y = leNat x ∨ leNat y = op) ∧ ¬ best (leNat x) (leNat y) ∧ ¬ best op (leNat y)) ∧
        (r.type = 6 → ∀ j, j < 8 → word y j = if j = die.val then min (word x j + op) (2 ^ 64 - 1) else word x j) ∧
        (r.type = 8 →
          let member (p : Nat) : Prop := p ≠ filler ∧ (p = op ∨ ∃ j, j < 16 ∧ word x j = p)
          (∀ j, j < 15 → best (word y j) (word y (j + 1)) ∨ word y (j + 1) = filler) ∧
          ∀ p, p ≠ filler → ((∃ j, j < 16 ∧ word y j = p) ↔
            member p ∧ ∀ l : List Nat, l.Nodup → (∀ q ∈ l, member q ∧ best q p) → l.length < 16)) ∧
        (∀ b, (∀ j, j < (if r.type = 6 then 64 else alignJ) → rt.place die (r.storage a + j) ≠ b) →
          t.ms.homeBytes b 1 rt.key = s.ms.homeBytes b 1 rt.key) ∧
        ((∀ d : Fin 8, vget rt.dbase d % 8 = d.val) → r.base.toNat % (if r.type = 8 then 128 else 64) = 0 → ∀ (d : Fin 8) (b : Word),
          r.base.toNat ≤ b.toNat → (d ≠ die ∨ b.toNat / alignJ ≠ a.toNat / alignJ) → t.latCell rt r d b = s.latCell rt r d b)
      (joinOk → s.ms.main.wf → joined (.join ra rb)) ∧
      (joinOk → s.ms.main.wf → (r.type = 6 ∨ (r.type = 8 ∧ ¬ best (word x 15) op) ∨ (r.type ≠ 6 ∧ r.type ≠ 8 ∧ above op (leNat x))) →
        1 ≤ r.type → r.type ≤ 10 → joined (.joina ra rb)) ∧
      (1 ≤ r.type → r.type ≤ 10 → (assertOk r.type x op = true ↔
        (r.type = 6 ∨ (r.type = 8 ∧ ¬ best (word x 15) op) ∨ (r.type ≠ 6 ∧ r.type ≠ 8 ∧ above op (leNat x)))) ∧
        (atOrAbove r.type v op = true ↔ above v op)) ∧
      -- what a read gives
      (loadOk → (r.type = 6 → v = min ((List.range 8).map (word x)).sum (2 ^ 64 - 1)) ∧ (r.type = 8 → v = word x (a.toNat % 128 / 8)) ∧
        (r.type ≠ 6 → r.type ≠ 8 → r.base.toNat % 8 = 0 → v = leNat x))) ∧
    (∀ (x y : Nat), x < 2 ^ 64 → y < 2 ^ 64 →
      joinWord 1 x y = max x y ∧ joinWord 2 x y = min x y ∧ joinWord 5 x y = x ||| y ∧ joinWord 9 x y = max x y ∧
      joinWord 10 x y = min x y ∧ joinWord 3 x y = (if (BitVec.ofNat 64 x).toInt < (BitVec.ofNat 64 y).toInt then y else x) ∧
      joinWord 4 x y = (if (BitVec.ofNat 64 x).toInt < (BitVec.ofNat 64 y).toInt then x else y) ∧
      (x / 2 ^ 32 < y / 2 ^ 32 → joinWord 7 x y = y ∧ joinWord 7 y x = y) ∧
      (x / 2 ^ 32 = y / 2 ^ 32 → joinWord 7 x y = min x y))

/-- TKWAIT and TKPOST act on every queue of their set in one step, QPUSH appends and QPOP takes the oldest entry, or
each waits (R24, R25, R52, R213, R217, R224). When every queue from a peer of the set to the cluster holds a token,
TKWAIT completes and takes one from each; when every queue to a peer of the set has room (R25, counting reserved
room), TKPOST completes and adds one to each; no other queue count, no other storage and no register changes. With
fewer than 32 entries QPUSH completes and gA stands last; with an entry (and, on QCA, no sequencer run that has
entries still to pop) QPOP completes, writes gD the first entry and removes it; no other queue, register or byte
changes. Otherwise the instruction waits with no effect. A set names the peers in increasing cluster code; codes 3 and
4 name QAC and QCA. The overlap checker of deterministic mode is the model's own record. -/
def Obligations.TokensAndShortQueuesKeepOrder : Prop :=
  (∀ (s : State) (set : BitVec 3),
    let own := s.cur.clu
    let has (x : Clu) : Prop := x ∈ peerSet own set
    let tok (t : State) (x y : Clu) : Nat := vget t.me.st.tok (tokIdx x y)
    let frame (t : State) : Prop := sameMemory s t ∧ sameOutside s t ∧ t.report = s.report ∧
      t.me = { s.me with st := { s.me.st with tok := t.me.st.tok }, en := { s.me.en with check := t.me.en.check } }
    (∀ x, has x ↔ x ≠ own ∧ set.getLsbD (if (cluCode x).val < (cluCode own).val then (cluCode x).val else (cluCode x).val - 1) = true) ∧
    ((∀ x, has x → 0 < tok s x own) → ∃ t, exec (.tkwait set) s = .next t ∧ frame t ∧
      ∀ x y, tok t x y = if y = own ∧ has x then tok s x y - 1 else tok s x y) ∧
    (¬ (∀ x, has x → 0 < tok s x own) → exec (.tkwait set) s = s.stall) ∧
    ((∀ x, has x → tok s own x + vget s.me.st.room (tokIdx own x) < 15) → ∃ t, exec (.tkpost set) s = .next t ∧ frame t ∧
      ∀ x y, tok t x y = if x = own ∧ has y then tok s x y + 1 else tok s x y) ∧
    (¬ (∀ x, has x → tok s own x + vget s.me.st.room (tokIdx own x) < 15) → exec (.tkpost set) s = s.stall)) ∧
  (∀ (s : State) (d a : Reg) (q : BitVec 3), (q = 3 ∨ q = 4) →
    let queue (t : State) : List Word := if q = 3 then t.me.st.qac else t.me.st.qca
    let other (t : State) : List Word := if q = 3 then t.me.st.qca else t.me.st.qac
    let frame (t : State) : Prop := sameMemory s t ∧ sameOutside s t ∧ t.report = s.report ∧ other t = other s ∧
      t.me.st = { s.me.st with qac := t.me.st.qac, qca := t.me.st.qca } ∧ t.me.rg = s.me.rg ∧ t.me.task = s.me.task ∧
      t.me.en = { s.me.en with check := t.me.en.check }
    ((queue s).length < 32 → ∃ t, exec (.qpush q a) s = .next t ∧ frame t ∧ t.me.cl = s.me.cl ∧ queue t = queue s ++ [s.g a]) ∧
    (32 ≤ (queue s).length → exec (.qpush q a) s = s.stall) ∧
    (∀ x rest, queue s = x :: rest → (q = 4 → s.me.runPops = false) → ∃ t, exec (.qpop d q) s = .next t ∧ frame t ∧
      onlyG s t d x ∧ queue t = rest) ∧
    ((queue s = [] ∨ (q = 4 ∧ s.me.runPops = true)) → exec (.qpop d q) s = s.stall))

/-- The strand instructions wait, fault and move the four counts as R227 gives, and return bead addresses (R223, R225,
R226, R227, R244, R272). At the target strand of R226 (the core's own, or for a producer of a quad ring the core DELTA
positions on): SCLAIM waits for a free bead, writes gD its address and adds 1 to CLAIMED; SFILL adds n to FILLED or
faults with detail 2; SWFILL waits for a filled bead, writes gD its address and adds 1 to TAKEN; SREL adds n to FREED
or faults with detail 3; SWFREE waits for n free beads or faults with detail 4; an unused strand faults with detail 1.
SCLAIM, SWFILL and SWFREE acquire at quad scope: of the L1 only RO lines stay; the others leave it as it was. No other
count of any strand and no byte of memory changes, and no register but gD. -/
def Obligations.StrandInstructionsMoveTheirCounts : Prop :=
  ∀ (s : State) (st : BitVec 4) (d a : Reg) (tk : Task), s.me.task = some tk →
    let e := vget tk.strands (Fin.ofNat 16 st.toNat)
    let role := e.toNat / 2 ^ 46 % 4
    let depth := e.toNat / 2 ^ 33 % 128
    let ring : Fin 768 := quadCore s.cur.core (s.cur.core.val % 4 + e.toNat / 2 ^ 44 % 4)
    let bead (peer : Bool) (n : Nat) : Word := BitVec.ofNat 64
      ((if peer then 0xC * 2 ^ 60 + ((s.cur.core.val % 4 + e.toNat / 2 ^ 44 % 4) % 4) * 2 ^ 40
        else (if e.getLsbD 32 then 8 else 9) * 2 ^ 60) + e.toNat % 2 ^ 19 + n % depth * (64 * 2 ^ (e.toNat / 2 ^ 40 % 16)))
    let n := (s.g a).toNat
    let moves (i : Instr) (k : Fin 768) (new : Strand) : Prop := ∃ t, exec i s = .next t ∧ t.strand k st = new ∧ sameMemory s t ∧
      t.quads = s.quads ∧ (∀ j u, (j ≠ k ∨ u ≠ st) → t.strand j u = s.strand j u) ∧
      (∀ j, j ≠ s.cur.core → (t.core j).cl = (s.core j).cl) ∧
      (match i with
        | .sclaim .. => onlyG s t d (bead (decide (role = 2)) (s.strand k st).claimed.toNat)
        | .swfill .. => onlyG s t d (bead false (s.strand k st).taken.toNat)
        | _ => t.me.cl = s.me.cl) ∧
      t.me.en.l1 = (match i with
        | .sfill .. => s.me.en.l1
        | .srel .. => s.me.en.l1
        | _ => s.me.en.l1.filter fun l => l.ro)
    (role = 0 → exec (.sclaim st d) s = s.fault 0x14 1 ∧ exec (.sfill st a) s = s.fault 0x14 1 ∧ exec (.swfill st d) s = s.fault 0x14 1 ∧
      exec (.srel st a) s = s.fault 0x14 1 ∧ exec (.swfree st a) s = s.fault 0x14 1) ∧
    (role = 2 → s.sameLaunch s.cur.core ring = false → ∃ x, exec (.sclaim st d) s = s.faultAt 8 0 x ∧
      exec (.sfill st a) s = s.faultAt 8 0 x ∧ exec (.swfree st a) s = s.faultAt 8 0 x) ∧
    (∀ k, ((role = 1 ∧ k = s.cur.core) ∨ (role = 2 ∧ k = ring ∧ s.sameLaunch s.cur.core ring = true)) →
      let x := s.strand k st
      let used := (x.claimed - x.freed).toNat
      (depth ≤ used → exec (.sclaim st d) s = s.stall) ∧
      (used < depth → moves (.sclaim st d) k { x with claimed := x.claimed + 1 }) ∧
      ((x.claimed - x.filled).toNat < n → exec (.sfill st a) s = s.fault 0x14 2) ∧
      (n ≤ (x.claimed - x.filled).toNat → moves (.sfill st a) k { x with filled := x.filled + BitVec.ofNat 32 n }) ∧
      (depth < n → exec (.swfree st a) s = s.fault 0x14 4) ∧
      (n ≤ depth → depth < n + used → exec (.swfree st a) s = s.stall) ∧
      (n + used ≤ depth → moves (.swfree st a) k x)) ∧
    ((role = 1 ∨ role = 2) →
      let x := s.strand s.cur.core st
      (x.filled = x.taken → exec (.swfill st d) s = s.stall) ∧
      (x.filled ≠ x.taken → moves (.swfill st d) s.cur.core { x with taken := x.taken + 1 }) ∧
      ((x.taken - x.freed).toNat < n → exec (.srel st a) s = s.fault 0x14 3) ∧
      (n ≤ (x.taken - x.freed).toNat → moves (.srel st a) s.cur.core { x with freed := x.freed + BitVec.ofNat 32 n }))

/-- CLINIT, CLEXPECT, CLARRIVE and CLWAIT act on the clasp their index names, and CLBASE sets or advances the base
(R223, R228, R229, R230, R272). An index above 255 faults with detail 5, a relative index without a base with detail
6. Else CLINIT clears COUNT, CLEXPECT sets EXPECT, CLARRIVE adds gB[31:0] to COUNT up to 2^32 - 1, each on the one
clasp of the core's quad that the operand names (relative: (B + ROT W + index) mod 256), no other clasp and no
register changing; CLWAIT completes when COUNT is at least EXPECT or the wait has already passed (a trap in between or
not: the model's choice, log 69), acquires at quad scope (of the L1 only RO lines stay), and otherwise waits from the
instant it began. CLBASE advances ROT or sets the base, with the checks of R229 (details 6 and 7). -/
def Obligations.ClaspInstructionsActOnOneClasp : Prop :=
  ∀ (s : State) (a b : Reg) (rel : BitVec 1),
    let q := quadOf s.cur.core
    let clb := (s.old.clu s.cur.clu).clb
    let x := s.g a
    let all4 (c det : Nat) : Prop := exec (.clinit a rel) s = s.fault c det ∧ exec (.clexpect a b rel) s = s.fault c det ∧
      exec (.clarrive a b rel) s = s.fault c det ∧ exec (.clwait a rel) s = s.fault c det
    (256 ≤ x.toNat → all4 0x14 5) ∧
    (x.toNat < 256 → rel = 1 → clb.toNat / 2 ^ 8 % 256 = 0 → all4 0x14 6) ∧
    (∀ i : Fin 256, x.toNat < 256 →
      ((rel = 0 ∧ i.val = x.toNat) ∨ (rel = 1 ∧ clb.toNat / 2 ^ 8 % 256 ≠ 0 ∧
        i.val = (clb.toNat % 256 + clb.toNat / 2 ^ 24 % 256 * (clb.toNat / 2 ^ 16 % 256) + x.toNat) % 256)) →
      let c := vget (vget s.quads q).clasps i
      let sets (n : Instr) (new : Clasp) : Prop := ∃ t, exec n s = .next t ∧ vget (vget t.quads q).clasps i = new ∧ sameMemory s t ∧
        (∀ j, j ≠ i → vget (vget t.quads q).clasps j = vget (vget s.quads q).clasps j) ∧
        (∀ u, u ≠ q → vget t.quads u = vget s.quads u) ∧
        ∀ k y, ((t.core k).clu y).g = ((s.core k).clu y).g ∧ ((t.core k).clu y).pc = ((s.core k).clu y).pc
      sets (.clinit a rel) { c with count := 0 } ∧
      sets (.clexpect a b rel) { c with expect := (s.g b).setWidth 32 } ∧
      sets (.clarrive a b rel) { c with count := BitVec.ofNat 32 (min (c.count.toNat + (s.g b).toNat % 2 ^ 32) (2 ^ 32 - 1)) } ∧
      let w := s.old.clu s.cur.clu
      let passed : Prop := w.claspWait = some (i, true) ∨ (w.inh = false ∧ w.claspKept = some (s.ir.bpc, i))
      ((c.expect.toNat ≤ c.count.toNat ∨ passed) → sets (.clwait a rel) c ∧
        ∃ t, exec (.clwait a rel) s = .next t ∧ t.me.en.l1 = s.me.en.l1.filter fun l => l.ro) ∧
      (c.count.toNat < c.expect.toNat → ¬ passed → ∃ t, exec (.clwait a rel) s = .next t ∧
        t.report = .stalled ∧ t.quads = s.quads ∧ t.cl.waitSince.isSome ∧ t.cl.claspWait = some (i, false))) ∧
    (let v := s.g a
     let depth := clb.toNat / 2 ^ 8 % 256
     let legal : Prop := v.toNat / 2 ^ 35 = 0 ∧ (v.toNat / 2 ^ 32 % 8 < 4 ∨ v.toNat / 2 ^ 32 % 8 = 7) ∧
       (v.toNat / 2 ^ 8 % 256 = 0 → v.toNat / 2 ^ 16 = 0) ∧
       (v.toNat / 2 ^ 8 % 256 ≠ 0 → v.toNat / 2 ^ 16 % 256 ≠ 0 ∧ v.toNat / 2 ^ 8 % 256 * (v.toNat / 2 ^ 16 % 256) ≤ 256 ∧
         v.toNat / 2 ^ 24 % 256 < v.toNat / 2 ^ 8 % 256)
     (2 ^ 63 ≤ v.toNat → depth = 0 → exec (.clbase a) s = s.fault 0x14 6) ∧
     (2 ^ 63 ≤ v.toNat → depth ≠ 0 → ∃ t, exec (.clbase a) s = .next t ∧ sameButCluster s t ∧ t.cl = { s.cl with clb := t.cl.clb } ∧
       t.cl.clb.toNat = clb.toNat - clb.toNat / 2 ^ 24 % 256 * 2 ^ 24 + (clb.toNat / 2 ^ 24 % 256 + 1) % depth * 2 ^ 24) ∧
     (v.toNat < 2 ^ 63 → legal → ∃ t, exec (.clbase a) s = .next t ∧ sameButCluster s t ∧ t.cl = { s.cl with clb := v }) ∧
     (v.toNat < 2 ^ 63 → ¬ legal → exec (.clbase a) s = s.fault 0x14 7))

/-- PUBL advances the version word, RDCAD reads the counter, LOCQ reports a place, PWRACQ and PWRREL set the level
(R144, R235, R236, R237, R239, R368, R369, R381, R395). RDCAD, LOCQ and PWRREL complete in every state, PUBL unless
the west I/O die's islands are stopped (R381; log 118, the model's choice), PWRACQ at or below a held level or once
its request is granted. PUBL with no version word set acts as FENCE system and writes nothing; else it adds one to the
version, writes it in eight bytes of host memory at the version word's address and changes no other byte and no
register. RDCAD writes gD the cadence counter, LOCQ the place: 0 for path 0xF, a failing form, a page that does not
translate and lattice memory; else the tier, with mode, placement and the mesh hops of R368 and R369 to the home die,
or to the I/O die of the port for second-tier, host and peer memory. PWRACQ at or below a held level sets PWRLVL at
once and withdraws what it asked; granted, it uses the grant; otherwise it waits, its request standing once in its
die's queue, behind those before it (the model's choice of what names a request is log 49). PWRREL sets the level to
0. None raises a fault. Host memory and the device registers are assumed in canonical form. -/
def Obligations.PublishCadenceLocalityAndPowerForms : Prop :=
  ∀ (s : State) (d a : Reg) (lv : BitVec 8),
    let at_ := (s.dev 0xE30).toNat
    let v := (s.dev 0xE31).toNat + 1
    let x := s.g a
    let mine : Clu × Bool := (s.cur.clu, (s.old.clu s.cur.clu).inh)
    let r : PowerReq := { core := s.cur.core, by_ := some mine, level := lv }
    let home := dieOf s.cur.core
    let queue (t : State) (d : Fin 8) : List PowerReq := (vget t.plat.dies d).waiting
    let rest : List PowerReq := (queue s home).filter fun q => !(q.core == r.core && q.by_ == r.by_)
    let onlyQueue (t : State) (w : List PowerReq) : Prop := sameMemory s t ∧ t.plat = { s.plat with dies := t.plat.dies } ∧
      vget t.plat.dies home = { vget s.plat.dies home with waiting := w } ∧ (∀ d, d ≠ home → vget t.plat.dies d = vget s.plat.dies d) ∧
      t.sch = s.sch ∧ t.regs = s.regs ∧ t.lat = s.lat ∧ t.quads = s.quads
    -- where each completes
    (at_ = 0 ∨ s.ioStops true = false → ∃ t, exec .publ s = .next t ∧ t.report = s.report) ∧ (∃ t, exec (.rdcad d) s = .next t ∧ t.report = s.report) ∧
    (∃ t, exec (.locq d a) s = .next t ∧ t.report = s.report) ∧ (∃ t, exec .pwrrel s = .next t ∧ t.report = s.report) ∧
    (mine ∈ s.me.rg.pwrGot ∨ (s.me.rg.pwrlvl ≠ 0 ∧ lv ≤ s.me.rg.pwrlvl) → ∃ t, exec (.pwracq lv) s = .next t ∧ t.report = s.report) ∧
    (at_ = 0 → exec .publ s = exec (.fence 3) s ∧ ∃ t, exec .publ s = .next t ∧ sameMemory s t ∧ sameOutside s t ∧
      t.me.st = s.me.st ∧ t.me.rg = s.me.rg ∧ t.cl = { s.cl with fence := s.me.en.issued } ∧
      t.me.en.l1 = s.me.en.l1.filter fun l => l.ro) ∧
    (at_ ≠ 0 → s.ioStops true = true → exec .publ s = s.stall) ∧
    (at_ ≠ 0 → s.ioStops true = false → s.ms.host.wf → canonicalAbove devReset none s.regs = true → ∃ t, exec .publ s = .next t ∧ t.dev 0xE31 = BitVec.ofNat 64 v ∧ t.cores = s.cores ∧
      t.ms = { s.ms with host := t.ms.host } ∧ (∀ n, n ≠ 0xE31 → t.dev n = s.dev n) ∧
      ∀ b, t.ms.host.read b = if at_ ≤ b ∧ b < at_ + 8 then BitVec.ofNat 8 (v / 256 ^ (b - at_)) else s.ms.host.read b) ∧
    WritesG (.rdcad d) s d s.cadence ∧
    (∃ r, WritesG (.locq d a) s d r ∧ (x.toNat / 2 ^ 60 = 15 → r = 0) ∧
      (x.toNat / 2 ^ 60 ≤ 3 → genForm x = false → r = 0) ∧
      (x.toNat / 2 ^ 60 = 9 → x.toNat / 2 ^ 40 % 2 ^ 20 = 0 → s.me.inFoot 1 (x.toNat % 2 ^ 40) 1 = true → r = BitVec.ofNat 64 (2 ^ 63)) ∧
      (x.toNat / 2 ^ 60 = 4 → x.toNat / 2 ^ 52 % 256 = 0 → x.toNat % 2 ^ 52 < (s.dev 0xE00).toNat →
        r = BitVec.ofNat 64 (2 ^ 63 + 3 * 2 ^ 4 + (s.cur.core.val / 96 % 4 + 1))) ∧
      (x.toNat / 2 ^ 60 = 5 → x.toNat / 2 ^ 58 % 4 = 0 → let c := s.cur.core.val / 96 % 4
        r = BitVec.ofNat 64 (2 ^ 63 + 4 * 2 ^ 4 + if x.toNat / 2 ^ 48 % 16 < 8 then c + 1 else 4 - c)) ∧
      ((x.toNat / 2 ^ 60 = 0 ∨ x.toNat / 2 ^ 60 = 1 ∨ x.toNat / 2 ^ 60 = 3) → genForm x = true →
        let place := s.translate (s.old.slotFor s.cur.clu) (x.toNat / 2 ^ 40 % 2 ^ 16) (x.toNat % 2 ^ 40) false
        let c := s.cur.core.val / 96 % 4
        ((∀ p, place ≠ .ok p) → r = 0) ∧
        ∀ p, place = .ok p → (s.latticeFrame p = true → r = 0) ∧
          (s.latticeFrame p = false → p.addr < 2 ^ 50 → let h := p.home.val
            r = BitVec.ofNat 64 (2 ^ 63 + p.mode * 2 ^ 10 + p.local_.toNat * 2 ^ 8 + 1 * 2 ^ 4 + (if c ≤ h % 4 then h % 4 - c else c - h % 4) +
              if s.cur.core.val / 96 / 4 = h / 4 then 0 else 1)) ∧
          (s.latticeFrame p = false → 2 ^ 50 ≤ p.addr →
            r = BitVec.ofNat 64 (2 ^ 63 + p.mode * 2 ^ 10 + 2 * 2 ^ 4 + if p.addr / 65536 % 8 < 4 then c + 1 else 4 - c)))) ∧
    (mine ∈ s.me.rg.pwrGot → ∃ t, exec (.pwracq lv) s = .next t ∧ sameMemory s t ∧ sameOutside s t ∧
      t.me = { s.me with rg := { s.me.rg with pwrGot := s.me.rg.pwrGot.filter fun m => m ≠ mine } }) ∧
    (mine ∉ s.me.rg.pwrGot → s.me.rg.pwrlvl ≠ 0 → lv ≤ s.me.rg.pwrlvl → ∃ t, exec (.pwracq lv) s = .next t ∧ onlyQueue t rest ∧
      t.me = { s.me with rg := { s.me.rg with pwrlvl := lv } } ∧ ∀ j, j ≠ s.cur.core → t.core j = s.core j) ∧
    (mine ∉ s.me.rg.pwrGot → (s.me.rg.pwrlvl = 0 ∨ s.me.rg.pwrlvl < lv) → ∃ t, exec (.pwracq lv) s = .next t ∧ t.report = .stalled ∧
      t.cores = s.undo.cores ∧ onlyQueue t (if (queue s home).contains r then queue s home else rest ++ [r])) ∧
    (∃ t, exec .pwrrel s = .next t ∧ sameMemory s t ∧ sameOutside s t ∧ t.me = { s.me with rg := { s.me.rg with pwrlvl := 0 } })

/-- LAUNCH faults on a bad address, and otherwise writes gD the acceptance unit's answer; a refusal changes nothing
else (R238, R244, R247, R249). A path other than GEN, RO and UC or a bad form is the address fault, an address that is
no multiple of 64 the misalignment fault, a record that does not translate the fault met. Where the whole record
translates, LAUNCH completes and writes gD the answer, an acceptance or a refusal. A queue that is disabled or of
another context refuses with code 2, a full queue with 1, a class-0 queue asked from another class with 5, in that
order; a refusal leaves the device as it was; an acceptance answers 2^63 plus an identifier that no known launch has
(while one is free), and adds the launch last. That the path is checked before the alignment is the model's choice
(log 111); which free identifier is given is open (log 16). -/
def Obligations.LaunchChecksAndAcceptsRecords : Prop :=
  ∀ (s : State) (d a : Reg),
    let x := s.g a
    let path := x.toNat / 2 ^ 60
    let onPath : Prop := path = 0 ∨ path = 1 ∨ path = 3
    (¬ onPath → exec (.launch d a) s = s.faultAt 8 0 x) ∧
    (onPath → x.toNat % 64 ≠ 0 → exec (.launch d a) s = s.faultAt 9 0 x) ∧
    (onPath → x.toNat % 64 = 0 → genForm x = false → exec (.launch d a) s = s.faultAt 8 0 x) ∧
    -- where it completes
    (onPath → x.toNat % 64 = 0 → genForm x = true → s.me.task ≠ none →
      (∃ bs, s.readRange (dieOf s.cur.core) (s.old.slotFor s.cur.clu) x 256 = .ok bs) →
      ∃ t, exec (.launch d a) s = .next t ∧ t.report = s.report) ∧
    (onPath → x.toNat % 64 = 0 → genForm x = true → ∀ c e y,
      s.readRange (dieOf s.cur.core) (s.old.slotFor s.cur.clu) x 256 = .error (c, e, y) → exec (.launch d a) s = s.faultAt c e y) ∧
    (onPath → x.toNat % 64 = 0 → genForm x = true → ∀ tk bs, s.me.task = some tk →
      s.readRange (dieOf s.cur.core) (s.old.slotFor s.cur.clu) x 256 = .ok bs →
      ∃ t, exec (.launch d a) s = .next t ∧ onlyG s t d (s.accept (dieOf s.cur.core) tk.ctx tk.slot bs (some tk.queue)).1 ∧
        sameMemory s t ∧ t.sch = (s.accept (dieOf s.cur.core) tk.ctx tk.slot bs (some tk.queue)).2.sch) ∧
    ∀ (die : Fin 8) (ctx : BitVec 12) (slot : Nat) (bs : List Byte) (asker : Option (Fin 32)),
      let q := (bs.getD 90 0).toNat % 32
      let cfg := (s.dev (0x900 + 4 * q)).toNat
      let r := s.accept die ctx slot bs asker
      ((cfg / 2 ^ 7 % 2 = 0 ∨ cfg / 2 ^ 32 % 2 ^ 12 ≠ ctx.toNat) → r = (2, s)) ∧
      (cfg / 2 ^ 7 % 2 = 1 → cfg / 2 ^ 32 % 2 ^ 12 = ctx.toNat →
        (64 ≤ s.queueCount (Fin.ofNat 32 q) → r = (1, s)) ∧
        (s.queueCount (Fin.ofNat 32 q) < 64 → q < 8 → (∃ z, asker = some z ∧ 8 ≤ z.val) → r = (5, s))) ∧
      (r.1.toNat < 2 ^ 63 → r.2 = s ∧ 1 ≤ r.1.toNat ∧ r.1.toNat ≤ 5) ∧
      (2 ^ 63 ≤ r.1.toNat → (∃ n, n < 2 ^ 16 ∧ s.lidFree n = true) → ∃ l, r.2 = { s with sch := { s.sch with launches := s.sch.launches ++ [l] }, free := s.free + 1 } ∧
        r.1 = BitVec.ofNat 64 (2 ^ 63 + l.lid.toNat) ∧ l.ctx = ctx ∧ l.queue.val = q ∧ l.next = 0 ∧ l.lid ≠ 0 ∧
        (∀ m, m ∈ s.sch.launches → m.lid ≠ l.lid) ∧ ∀ h, h ∈ s.sch.history → h.1 ≠ l.lid)

/-- EXIT stops the task's clusters and begins the exit sequence; END ends its cluster, and the last END begins the
sequence (R240, R241). EXIT completes: every cluster of the core is stopped, the control cluster stays at the bundle,
and the exit sequence records as LIVE the clusters A, V and M that had not ended (one in a handler that it entered
ended has ended). END completes: its cluster has ended; when every cluster has then ended, the exit sequence begins as
implicit (IMPL), with LIVE zero. No register, predicate or byte changes. -/
def Obligations.ExitAndEndStopTheirClusters : Prop :=
  ∀ (s : State),
    let done (c : Cluster) : Bool := c.ended || (c.inh && c.tstat.getLsbD 1)
    let live (k : Core) : BitVec 3 := BitVec.ofNat 3 ((!done (k.clu .a)).toNat + 2 * (!done (k.clu .v)).toNat + 4 * (!done (k.clu .m)).toNat)
    let frame (t : State) : Prop := sameMemory s t ∧ sameOutside s t ∧ t.me.st = s.me.st ∧ t.me.en = s.me.en ∧ t.me.rg = s.me.rg ∧
      ∀ y, (t.me.clu y).g = (s.me.clu y).g ∧ (t.me.clu y).p = (s.me.clu y).p
    (s.me.exit = none → ∃ t, exec .exit s = .next t ∧ frame t ∧ t.report = .branched ∧
      t.me.exit = some { live := live s.me, canc := 0, impl := false } ∧ (t.me.clu .c).pc = s.ir.bpc ∧ ∀ y, (t.me.clu y).stopped = true) ∧
    (∃ t, exec .end_ s = .next t ∧ frame t ∧ t.cl.ended = true ∧ (∀ y, y ≠ s.cur.clu → (t.me.clu y).ended = (s.me.clu y).ended) ∧
      ((∀ y, (t.me.clu y).ended = true) → s.me.exit = none → t.me.exit = some { live := 0, canc := 0, impl := true }) ∧
      ((∃ y, (t.me.clu y).ended = false) → t.me.exit = s.me.exit))

/-- A channel command waits for its sets and a slot, makes its checks in R204's order, and enters its channel last
(R51, R141, R196, R203, R204, R205, R206, R207, R208, R209, R218, R319). For COPY, COPYJ, CPYSCL, COPYMC, GATHER,
SCATTER, QSEND and QRECV: a false guard nullifies the command; a set that is not ready or a channel without a free
completion slot makes it wait with no effect. Then the checks run in the order written out here from R204's stages
(assigned path and level, granules, form, path table, end and footprint; destination, source, indices at each stage),
a flat copy of length 0 making none, and the first that fails is the precise fault. With none failing the command
stands last in its channel with its operands, its completion slot, no progress and its watermark range, the sets and a
slot are taken, and no other register, byte or channel changes. That a clasp base is checked last (log 60), that QRECV
refuses HOST and PEER with the address fault (log 61) and that a bad length reports the address of its side (log 63)
are the model's choices. -/
def Obligations.ChannelCommandsCheckAndEnter : Prop :=
  ∀ (s : State) (l : Long) (ch : BitVec 3) (ga gb gc : Reg) (cnt : BitVec 5) (esz : BitVec 2) (mask : BitVec 4) (q : BitVec 1),
    let A := s.g ga
    let B := s.g gb
    let C := s.g gc
    let n := C.toNat % 2 ^ 32
    let z := 2 ^ esz.toNat
    let N := cnt.toNat + 1
    let k : Fin 8 := Fin.ofNat 8 ch.toNat
    let x := vget s.me.en.chans k
    let path (a : Word) : Nat := a.toNat / 2 ^ 60
    let off (a : Word) : Nat := a.toNat % 2 ^ 40
    let host := (s.dev 0xE00).toNat
    let level (a : Word) : List (Prop × Nat × Nat × Word) :=
      [(path a = 6 ∨ path a = 7 ∨ path a = 13, 8, 0, a), (path a = 15 ∧ (s.old.clu s.cur.clu).priv = false, 3, 0, a)]
    let grain (a : Word) (g len lg : Nat) : List (Prop × Nat × Nat × Word) := [(a.toNat % g ≠ 0 ∨ len % lg ≠ 0, 9, 6, a)]
    let form (a : Word) : List (Prop × Nat × Nat × Word) :=
      [((path a = 0 ∨ path a = 1 ∨ path a = 3) ∧ genForm a = false ∨ path a = 2 ∧ (s.taskRegion a) = none ∨
        path a = 4 ∧ ¬ (a.toNat / 2 ^ 52 % 256 = 0 ∧ a.toNat % 2 ^ 52 < host) ∨ path a = 5 ∧ a.toNat / 2 ^ 58 % 4 ≠ 0 ∨
        8 ≤ path a ∧ path a ≤ 11 ∧ a.toNat / 2 ^ 40 % 2 ^ 20 ≠ 0 ∨ path a = 12 ∧ a.toNat / 2 ^ 42 % 2 ^ 18 ≠ 0, 8, 0, a)]
    let source (a : Word) : List (Prop × Nat × Nat × Word) :=
      [(path a = 8 ∨ path a = 10 ∨ path a = 11, 0xA, 0, a), (path a ∈ [6, 7, 13, 14, 15], 8, 0, a)]
    let dest (a : Word) : List (Prop × Nat × Nat × Word) :=
      [(path a = 10 ∨ path a = 11, 0xA, 0, a), (path a = 2, 0xB, 0, a), (path a ∈ [1, 6, 7, 13, 14, 15], 8, 0, a)]
    let ends (a : Word) (m : Nat) : List (Prop × Nat × Nat × Word) :=
      [((path a = 0 ∨ path a = 1 ∨ path a = 2 ∨ path a = 3) ∧ 2 ^ 40 < off a + m ∨
        path a = 2 ∧ (∀ tk, s.me.task = some tk → s.latCovered tk.ctx a m 65 = false) ∨
        path a = 4 ∧ host < a.toNat % 2 ^ 52 + m ∨ path a = 5 ∧ 2 ^ 48 < a.toNat % 2 ^ 48 + m ∨
        8 ≤ path a ∧ path a ≤ 11 ∧ s.me.inFoot (Fin.ofNat 4 (path a)) (off a) m = false ∨
        path a = 12 ∧ ¬ ((quadCore s.cur.core (a.toNat / 2 ^ 40 % 4) = s.cur.core ∨
          s.sameLaunch s.cur.core (quadCore s.cur.core (a.toNat / 2 ^ 40 % 4)) = true) ∧
          (s.core (quadCore s.cur.core (a.toNat / 2 ^ 40 % 4))).inFoot 1 (off a) m = true), 8, 0, a)]
    let only (r : Nat) (a : Word) : List (Prop × Nat × Nat × Word) := [(path a ≠ r, 8, 0, a)]
    let flat (g : Nat) (table : Word → List (Prop × Nat × Nat × Word)) (last : List (Prop × Nat × Nat × Word)) : List (Prop × Nat × Nat × Word) :=
      level A ++ level B ++ grain A g n g ++ grain B g n 1 ++ form A ++ form B ++ table A ++ source B ++ ends A n ++ last ++ ends B n
    let one (a : Word) (table : Word → List (Prop × Nat × Nat × Word)) : List (Prop × Nat × Nat × Word) :=
      level a ++ grain a 64 64 1 ++ form a ++ table a ++ ends a 64
    let unlessEmpty (cs : List (Prop × Nat × Nat × Word)) := if n = 0 then [] else cs
    let w := match s.taskRegion A with
      | some (_, r) => cellSize r.type
      | none => 1
    let outside : Prop := match s.taskRegion A with
      | some (_, r) => r.base.toNat + r.size < A.toNat + n
      | none => True
    let absent : Prop := ∃ j : Fin 4, mask.getLsbD j.val = true ∧ quadCore s.cur.core j.val ≠ s.cur.core ∧
      s.sameLaunch s.cur.core (quadCore s.cur.core j.val) = false
    let noBase : Prop := C.getLsbD 49 = true ∧ C.getLsbD 48 = true ∧ (s.old.clu .a).clb.toNat / 2 ^ 8 % 256 = 0
    let issues (i : Instr) (cs : List (Prop × Nat × Nat × Word)) (a b c : Word) (range : Option (Fin 4 × Nat × Nat)) : Prop :=
      underGuard i s l ((16 ≤ x.cmds.length + x.elems.length → exec i s = s.stall) ∧
        (x.cmds.length + x.elems.length < 16 → inOrder i s cs (∃ t d, exec i s = .next t ∧ entered s t l k d ∧ d.i = i ∧
          d.ga = a ∧ d.gb = b ∧ d.gc = c ∧ d.slot = x.next ∧ d.started = false ∧ d.prog = 0 ∧ d.payload = [] ∧ d.filled = 0 ∧
          d.order = s.me.en.issued ∧ d.range = range)))
    issues (.copy l ch ga gb gc) (unlessEmpty (flat 4 dest [])) A B C (s.wmRange A n) ∧
    issues (.cpyscl l ch ga gb gc) (unlessEmpty (flat 4 (only 11) [])) A B C (s.wmRange A n) ∧
    issues (.copyj l ch ga gb gc) (unlessEmpty (flat w (only 2) [(outside, 8, 0, A)])) A B C (s.wmRange A n) ∧
    issues (.copymc l ch ga gb gc mask) (unlessEmpty (flat 4 (only 9) [(absent, 8, 0, A)] ++ [(noBase, 0x14, 6, 0)])) A B C
      (if mask.getLsbD (s.cur.core.val % 4) = true then s.wmRange A n else none) ∧
    issues (.gather l ch ga gb gc cnt esz) (level A ++ level B ++ level C ++ grain A z (N * z) 1 ++ grain C 4 (4 * N) 1 ++ form A ++
      form C ++ dest A ++ source B ++ source C ++ ends A (N * z) ++ ends C (4 * N)) A B C (s.wmRange A (N * z)) ∧
    issues (.scatter l ch ga gb gc cnt esz) (level A ++ level B ++ level C ++ grain B z (N * z) 1 ++ grain C 4 (4 * N) 1 ++ form B ++
      form C ++ dest A ++ source B ++ source C ++ ends B (N * z) ++ ends C (4 * N)) A B C none ∧
    issues (.qsend l ch ga q) (one A source) A 0 0 none ∧
    issues (.qrecv l ch ga) (one A fun a => [(path a = 2 ∨ path a = 4 ∨ path a = 5, 8, 0, a)] ++ dest a) A 0 0 (s.wmRange A 64)

/-- TDESC checks a record in R201's order, SEQCFG writes a level, and the SEQRUN forms check and enter a run that
holds copies of both (R51, R200, R201, R202, R211, R212, R213, R215). Under the guard and the sets: TDESC faults on a
path other than GEN, RO, UC and A, takes the fault met on the record's bytes, then makes checks 3 to 7 of R201 in
order on the record (with TID from gB[15:0] where that is not 0) and, with none failing, writes the slot and finishes.
SEQCFG writes the fields of its level (and D for level 0) and finishes. A SEQRUN waits for a completion slot, makes
the checks of R213 in order (shape fault; granules; for a run that emits something the buffer span, its path, form and
footprint) and then enters its channel with copies of the record and of all levels. No other slot, level, channel,
register or byte of memory changes. That a span which leaves its path is reported before its path is judged (log 63)
and that a record's tile must lie in its extent also where the extent is 1 (log 57) are the model's choices. Level
numbers 6 and 7 are no instruction. -/
def Obligations.RecordsLevelsAndRunsCheckAndIssue : Prop :=
  ∀ (s : State) (l : Long) (ch lv : BitVec 3) (slot : BitVec 4) (ga gb gc : Reg),
    let A := s.g ga
    let B := s.g gb
    let C := s.g gc
    let en := s.me.en
    let fin (t : State) (en' : Engines) : Prop := sameMemory s t ∧ sameOutside s t ∧ t.report = s.report ∧
      t.me = { s.me with st := s.me.st.passed s.cur.clu l, en := en', rg := { s.me.rg with pmc := t.me.rg.pmc } }
    underGuard (.tdesc l slot ga gb) s l
      ((A.toNat / 2 ^ 60 ∉ [0, 1, 3, 9] → exec (.tdesc l slot ga gb) s = s.faultAt 8 0 A) ∧
       ((s.popWait l).recBytes A = .wait → ∃ t, exec (.tdesc l slot ga gb) s = .next t ∧ t.report = .stalled ∧ t.ms = s.ms ∧
          t.me = { s.undo.me with en := { s.undo.me.en with check := t.me.en.check } }) ∧
       (∀ c d a, (s.popWait l).recBytes A = .trap c d a → exec (.tdesc l slot ga gb) s = s.faultAt c d a) ∧
       (∀ bs u, (s.popWait l).recBytes A = .ok bs u → bs.length = 64 →
          let r : List Byte := if B.toNat % 2 ^ 16 = 0 then bs else [B.setWidth 8, (B >>> 8).setWidth 8] ++ bs.drop 2
          let ty := recField r 2 1
          let nd := recField r 3 1
          let e := if ty = 5 ∨ ty = 6 then 2 else if ty = 7 ∨ ty = 8 then 4 else 1
          let n (i : Nat) := recField r (8 + 4 * i) 4
          let st (i : Nat) := recField r (24 + 5 * i) 5
          let k (i : Nat) := recField r (44 + 4 * i) 4
          let kk (i : Nat) := if i < nd then k i else 1
          ((recField r 0 2 = 0 ∨ ty = 0 ∨ 9 ≤ ty ∨ nd = 0 ∨ 4 < nd ∨ recField r 4 4 ≠ 0 ∨ recField r 60 4 ≠ 0 ∨
              (∃ i : Fin 4, nd ≤ i ∧ (n i ≠ 0 ∨ st i ≠ 0 ∨ k i ≠ 0)) ∨ (∃ i : Fin 4, i < nd ∧ (n i = 0 ∨ k i = 0 ∨ n i < k i)) ∨
              65536 < kk 0 * kk 1 * kk 2 * kk 3 * e) → exec (.tdesc l slot ga gb) s = s.faultAt 0xF 0 A) ∧
          (recShapeBad r = false →
            ((∃ i, i < nd ∧ st i % e ≠ 0) → exec (.tdesc l slot ga gb) s = s.faultAt 9 2 A) ∧
            ((∀ i, i < nd → st i % e = 0) → st 0 ≠ e → exec (.tdesc l slot ga gb) s = s.faultAt 9 3 A) ∧
            ((∀ i, i < nd → st i % e = 0) → st 0 = e → (∃ i, 0 < i ∧ i < nd ∧ st i % 4 ≠ 0) →
              exec (.tdesc l slot ga gb) s = s.faultAt 9 4 A) ∧
            ((∀ i, i < nd → st i % e = 0) → st 0 = e → (∀ i, 0 < i → i < nd → st i % 4 = 0) → k 0 * e % 4 ≠ 0 →
              exec (.tdesc l slot ga gb) s = s.faultAt 9 5 A) ∧
            ((∀ i, i < nd → st i % e = 0) → st 0 = e → (∀ i, 0 < i → i < nd → st i % 4 = 0) → k 0 * e % 4 = 0 →
              ∃ t, exec (.tdesc l slot ga gb) s = .next t ∧
                fin t { en with recs := vset en.recs (Fin.ofNat 16 slot.toNat) r, check := t.me.en.check })))) ∧
    (lv.toNat < 6 → underGuard (.seqcfg l lv ga gb gc) s l (∃ t, exec (.seqcfg l lv ga gb gc) s = .next t ∧
      fin t { en with levels := t.me.en.levels, depth := if lv = 0 then (A >>> 32).setWidth 8 else en.depth, check := t.me.en.check } ∧
      ∀ j : Fin 6, vget t.me.en.levels j = if j.val = lv.toNat then
          { e := A.setWidth 32, b := B, c := Vector.ofFn fun i : Fin 4 => (C >>> (16 * i.val)).setWidth 16 }
        else vget en.levels j)) ∧
    (let k : Fin 8 := Fin.ofNat 8 ch.toNat
     let x := vget en.chans k
     let r := vget en.recs (Fin.ofNat 16 slot.toNat)
     let D := en.depth.toNat
     let E (j : Fin 6) : Nat := (vget en.levels j).e.toNat
     let total := E 0 * E 1 * E 2 * E 3 * E 4 * E 5
     let span (j : Fin 6) : Int := ((E j : Int) - 1) * (vget en.levels j).b.toInt
     let low : Int := min 0 (span 0) + min 0 (span 1) + min 0 (span 2) + min 0 (span 3) + min 0 (span 4) + min 0 (span 5)
     let high : Int := max 0 (span 0) + max 0 (span 1) + max 0 (span 2) + max 0 (span 3) + max 0 (span 4) + max 0 (span 5)
     let T := recTileBytes r
     let lo : Int := if D = 0 then A.toNat + low else A.toNat
     let len : Nat := if D = 0 then (high - low).toNat + T else D * T
     let path := lo.toNat / 2 ^ 60
     let off := lo.toNat % 2 ^ 40
     let peer := quadCore s.cur.core (lo.toNat / 2 ^ 40 % 4)
     let run (i : Instr) (kind : Nat) : Prop :=
       let allowed : Prop := if kind = 3 then path = 11 else if kind = 2 then path = 9 ∨ path = 12 else path = 8 ∨ path = 9 ∨ path = 12
       let checks : List (Prop × Nat × Nat × Word) :=
         [(r = [] ∨ kind = 1 ∧ 2 < recDims r ∨ kind = 3 ∧ recElem r ≠ 1 ∨ 2 ^ 48 < total, 0xF, 0, 0),
          (A.toNat % 4 ≠ 0 ∨ ∃ j, (vget en.levels j).b.toNat % 4 ≠ 0, 9, 6, A)] ++
         if total = 0 then [] else
          [(lo < 0 ∨ 2 ^ 64 < lo + len ∨ path ≠ (lo.toNat + len - 1) / 2 ^ 60, 8, 0, A),
           (¬ allowed, 0xA, 0, A),
           (path ≤ 11 ∧ (lo.toNat / 2 ^ 40 % 2 ^ 20 ≠ 0 ∨ s.me.inFoot (Fin.ofNat 4 path) off len = false) ∨
            path = 12 ∧ ¬ (lo.toNat / 2 ^ 42 % 2 ^ 18 = 0 ∧ (peer = s.cur.core ∨ s.sameLaunch s.cur.core peer = true) ∧
              (s.core peer).inFoot 1 off len = true), 8, 0, A)]
       underGuard i s l ((16 ≤ x.cmds.length + x.elems.length → exec i s = s.stall) ∧
         (x.cmds.length + x.elems.length < 16 → inOrder i s checks (∃ t d, exec i s = .next t ∧ entered s t l k d ∧ d.i = i ∧
           d.ga = A ∧ d.gb = B ∧ d.shape = r ∧ d.levels = en.levels ∧ d.depth = en.depth ∧ d.slot = x.next ∧ d.started = false ∧
           d.prog = 0 ∧ d.stage = 0 ∧ d.order = en.issued ∧ d.pops = (if kind = 1 then total * recTile r 1 else 0) ∧
           d.range = (if D = 0 ∧ kind ≠ 2 then s.wmRange A (total * T) else none))))
     run (.seqrunCopy l ch slot ga gb) 0 ∧ run (.seqrunGather l ch slot ga gb) 1 ∧ run (.seqrunScatter l ch slot ga gb) 2 ∧
     run (.seqrunCpyscl l ch slot ga gb) 3)

/-- CHWAIT pops an element, waits or faults; commands start in order and finish with an element, their tokens and
their watermark (R196, R197, R215, R216, R218, R352). CHWAIT pops the oldest element and finishes; with none and no
command it is the channel-underflow fault, and with a command outstanding it waits as a form (or holds its bundle
while three forms wait). The stage form faults without a staged run and for a q beyond the run, names stage q, and
finishes once emission q is complete. A channel's oldest command starts (queue commands only when they may), and
finishes once every unit is done, no unit is in flight and no multicast word of it is on its way: it leaves the
channel, its element enters, its post tokens are pushed. Of the waiting CHWAITs that are oldest of their channel, the
first whose element or stage is there passes. An event that may not happen changes nothing. The order of CHWAIT's
cases and its holding of the bundle rest on logs 22 and 85 (R352's limit of three forms); they are the model's
choices. -/
def Obligations.ChannelWaitsAndCommandPointsKeepOrder : Prop :=
  (∀ (s : State) (l : Long) (ch : BitVec 3) (ga : Reg),
    let k : Fin 8 := Fin.ofNat 8 ch.toNat
    let en := s.me.en
    let x := vget en.chans k
    let q := (s.g ga).toNat
    let full : Prop := 3 ≤ en.forms.countP fun f => f.clu == s.cur.clu
    let fin (t : State) (x' : Channel) : Prop := sameMemory s t ∧ sameOutside s t ∧ t.report = s.report ∧
      t.me = { s.me with st := s.me.st.passed s.cur.clu l, en := { en with chans := vset en.chans k x', check := t.me.en.check } }
    let staged (d : ChCmd) : Channel :=
      let f (c : ChCmd) : ChCmd := if c.order = d.order then { c with stage := max c.stage q } else c
      { x with cmds := x.cmds.map f, elems := x.elems.map fun e => (e.1, e.2.map f) }
    let waits (i : Instr) (x' : Channel) (a : Word) : Prop := ∃ t, exec i s = .next t ∧ sameMemory s t ∧ sameOutside s t ∧
      t.report = s.report ∧ t.me = { s.me with
        st := s.me.st.took s.cur.clu l
        en := { en with chans := vset en.chans k x', check := t.me.en.check, issued := en.issued + 1,
                        forms := en.forms ++ [{ i := i, w0 := s.ir.w0, w1 := s.ir.w1, clu := s.cur.clu, addr := a, mask := 0, data := 0, parts := 0,
                                                order := en.issued, after := s.cl.fence, handler := s.cl.inh }] } }
    underGuard (.chwait l ch) s l
      ((x.elems ≠ [] → ∃ t, exec (.chwait l ch) s = .next t ∧ fin t { x with elems := x.elems.tail }) ∧
       (x.elems = [] → x.cmds = [] → exec (.chwait l ch) s = s.fault 0x12 0) ∧
       (x.elems = [] → x.cmds ≠ [] → full → exec (.chwait l ch) s = s.stall) ∧
       (x.elems = [] → x.cmds ≠ [] → ¬ full → waits (.chwait l ch) x 0)) ∧
    underGuard (.chwaitStage l ch ga) s l
      ((x.stagedRun = none → exec (.chwaitStage l ch ga) s = s.fault 0x12 0) ∧
       (∀ d b, x.stagedRun = some (d, b) →
         (d.emissions ≤ q → exec (.chwaitStage l ch ga) s = s.fault 0x12 0) ∧
         (q < d.emissions → q < d.prog → ∃ t, exec (.chwaitStage l ch ga) s = .next t ∧ fin t (staged d)) ∧
         (q < d.emissions → d.prog ≤ q → full → exec (.chwaitStage l ch ga) s = s.stall) ∧
         (q < d.emissions → d.prog ≤ q → ¬ full → waits (.chwaitStage l ch ga) (staged d) (s.g ga))))) ∧
  ∀ (s : State) (k : Fin 768) (ch : Fin 8),
    let u := s.at_ k .a
    let en := (s.core k).en
    let x := vget en.chans ch
    (s.running k = false → Idles (.channelCommandStart k ch) s ∧ Idles (.channelCommandFinish k ch) s ∧ Idles (.chwaitFinish k) s) ∧
    (x.cmds = [] → Idles (.channelCommandStart k ch) s ∧ Idles (.channelCommandFinish k ch) s) ∧
    (∀ c rest, x.cmds = c :: rest → s.running k = true →
      (c.started = true ∨ x.faulted = true ∨ u.channelsRun = false ∨ (s.core k).queueReady c = false → Idles (.channelCommandStart k ch) s) ∧
      (c.started = false → x.faulted = false → u.channelsRun = true → (s.core k).queueReady c = true →
        Happens (.channelCommandStart k ch) s k .a fun t => sameButCore s t k ∧
          t.core k = { s.core k with en := { en with chans := vset en.chans ch { x with cmds := { c with started := true } :: rest } } }) ∧
      (c.started = false ∨ x.faulted = true ∨ x.flight ≠ none ∨ c.prog < c.units ∨ (∃ w ∈ en.mc, w.order = c.order) →
        Idles (.channelCommandFinish k ch) s) ∧
      (c.started = true → x.faulted = false → x.flight = none → c.units ≤ c.prog → (∀ w ∈ en.mc, w.order ≠ c.order) →
        Happens (.channelCommandFinish k ch) s k .a fun t => sameMemory s t ∧ t.regs = s.regs ∧ t.plat = s.plat ∧ t.quads = s.quads ∧
          (∀ j, j ≠ k → t.core j = s.core j) ∧ (t.core k).cl = (s.core k).cl ∧
          (t.core k).st = (s.core k).st.post .a (longOf c.w1.toNat).post ∧
          (∀ y, y ≠ ch → vget (t.core k).en.chans y = vget en.chans y) ∧
          let z := vget (t.core k).en.chans ch
          z = { x with cmds := rest, elems := x.elems ++ [(c.slot, if c.staged then some c else none)], wm := z.wm, ahm := z.ahm } ∧
          (∀ b lo n, c.range = some (b, lo, n) → z.wm = BitVec.ofNat 64 ((8 + b.val) * 2 ^ 60 + (lo + n) % 2 ^ 60)) ∧
          (c.range = none → c.staged = false → z.wm = x.wm) ∧ (c.payload = [] → z.ahm = 0xFFFF_FFFF_FFFF_FFFF#64))) ∧
    -- the oldest wait of its channel, and one whose element or stage is there
    let first (f : Form) : Prop := f.channel ≠ none ∧ ∀ g ∈ en.forms, g.channel = f.channel → f.order ≤ g.order
    let ready (f : Form) : Prop := match f.i with
      | .chwait _ y => (vget en.chans (Fin.ofNat 8 y.toNat)).elems ≠ []
      | .chwaitStage _ y _ => ∃ d b, (vget en.chans (Fin.ofNat 8 y.toNat)).stagedRun = some (d, b) ∧ f.addr.toNat < d.prog
      | _ => False
    ((∀ f ∈ en.forms, ¬ (first f ∧ ready f)) → Idles (.chwaitFinish k) s) ∧
    (∀ pre f post, s.running k = true → en.forms = pre ++ f :: post → first f → ready f → (∀ g ∈ pre, ¬ (first g ∧ ready g)) →
      (∀ g ∈ pre ++ post, g.order ≠ f.order) →
      let leaves (t : State) (chans : Vector Channel 8) : Prop := sameButCore s t k ∧ (t.core k).cl = (s.core k).cl ∧
        (t.core k).en.forms = pre ++ post ∧ (t.core k).st = (s.core k).st.post f.clu (longOf f.w1.toNat).post ∧ (t.core k).en.chans = chans
      (∀ l y, f.i = .chwait l y →
        let z := vget en.chans (Fin.ofNat 8 y.toNat)
        Happens (.chwaitFinish k) s k .a fun t => leaves t (vset en.chans (Fin.ofNat 8 y.toNat) { z with elems := z.elems.tail })) ∧
      (∀ l y g, f.i = .chwaitStage l y g → Happens (.chwaitFinish k) s k .a fun t => leaves t en.chans))

/-- A piece, an emission, an arriving piece and a multicast word each happen whole, wait, or stop the channel with its
fault (R202, R209, R210, R212, R219, R221, R260). A unit of a channel's oldest command, or a chunk of its source read
ahead, may happen only while the command has started and is unfinished, the channel is neither stopped nor has a piece
in flight, the core's channels run and its allowance lasts; otherwise the event changes nothing. A chunk read ahead
changes only what the command keeps of it. A GATHER run takes the QCA entries of its rows as they come. A unit that
meets a fault changes no byte: the channel stops before it and the fault, imprecise, waits for the access cluster. A
piece of a COPY within the A buffer writes exactly its bytes (the part within one aligned 4 KiB block of the
destination) with the source's. An emission of a tile that starts beyond the tensor in dimension 0 writes zeros. A
piece that arrives over links with its fold right lets the next of its unit set out, or places the unit; the first
mismatch sends it again and the second is the transfer-hallmark fault, no byte of it written. An aligned 8-byte word
of a multicast (less at its ends) lands in its receiver's A buffer and is counted, or is discarded when the receiver
no longer runs the task it ran at the issue. A fault met while the access cluster is in its handler is the handler
fault at once. The units of a copy and one piece in flight (log 40), the charge per 4 KiB block (log 40) and placing
after the last piece (log 58) are the model's choices. Tasks outside deterministic mode; buffers in canonical form. -/
def Obligations.CopyUnitsMoveWholePieces : Prop :=
  ∀ (s : State) (k : Fin 768) (ch : Fin 8),
    let u := s.at_ k .a
    let en := (s.core k).en
    let st := (s.core k).st
    let x := vget en.chans ch
    let piece : Instr := .copyPiece k ⟨ch, none⟩
    let emission : Instr := .sequencerEmission k ⟨ch, none⟩
    let ahead (i : Instr) (j : Nat) : Instr := if i = piece then .copyPiece k ⟨ch, some j⟩ else .sequencerEmission k ⟨ch, some j⟩
    let quiet : Prop := s.running k = true ∧ (s.core k).det = false ∧ st.bufA.wf
    let wroteA (t : State) (D : Nat) (f : Nat → Byte) (len : Nat) : Prop :=
      sameMemory s t ∧ t.regs = s.regs ∧ t.quads = s.quads ∧ (∀ j, j ≠ k → t.core j = s.core j) ∧ (t.core k).cl = (s.core k).cl ∧
      (t.core k).st = { st with bufA := (t.core k).st.bufA, bad := (t.core k).st.bad } ∧
      ∀ b, (t.core k).st.bufA.read b = if D ≤ b ∧ b < D + len then f (b - D) else st.bufA.read b
    -- the channel stops with its commands as they are, and the fault waits for A, or is its handler's fault
    let stops (t : State) : Prop := sameButCore s t k ∧ (t.core k).st = st ∧
      (t.core k).en.chans = vset en.chans ch { x with faulted := true, flight := none }
    let A := (s.core k).clu .a
    let faultOf (t : State) (cause d : Nat) : Prop :=
      (A.inh = false → (t.core k).cl = (s.core k).cl ∧ (t.core k).term = (s.core k).term ∧
        ∃ tr : Trap, (t.core k).pend = (s.core k).pend ++ [(.a, tr)] ∧ tr.cause = cause ∧ tr.detail = d ∧ tr.async = true) ∧
      (A.inh = true → (t.core k).pend = (s.core k).pend ∧ (t.core k).term.isSome ∧
        ((t.core k).clu .a).tcause.toNat % 256 = 0x1D ∧ ((t.core k).clu .a).tinfo = BitVec.ofNat 64 cause ∧
        ∀ y, y ≠ Clu.a → (t.core k).clu y = (s.core k).clu y)
    -- the charge of n bytes written from one address: 32 for each 4 KiB block, within the allowance
    let afford (a n : Nat) : Prop := s.overdraws k (min (32 * ((a + n - 1) / 4096 - a / 4096 + 1)) (256 * s.allowance k)) = false
    (s.running k = false ∨ x.cmds = [] → Idles piece s ∧ Idles emission s) ∧
    (∀ c rest, x.cmds = c :: rest → s.running k = true →
      let may (i : Instr) : Prop := c.started = true ∧ x.faulted = false ∧ x.flight = none ∧ u.channelsRun = true ∧
        c.prog < c.units ∧ s.overdraws k 32 = false ∧ (c.runKind.isSome = true ↔ i = emission)
      let alone : Prop := ∀ l y d ga gb, c.i ≠ .seqrunGather l y d ga gb
      (∀ i, i = piece ∨ i = emission → (¬ may i → Idles i s ∧ ∀ j, Idles (ahead i j) s) ∧
        (may i → ∀ j, Idles (ahead i j) s ∨ Happens (ahead i j) s k .a fun t => sameButCore s t k ∧ ∃ e,
          t.core k = { s.core k with en := { en with chans := vset en.chans ch { x with cmds := { c with early := e } :: rest } } }) ∧
        (may i → alone → u.readUnit c = .wait → Idles i s) ∧
        (may i → alone → ∀ cause d a, u.readUnit c = .trap cause d a → A.inh = false ∨ A.priv = true ∧ cause < 0x20 → Happens i s k .a fun t => stops t ∧ t.ms = s.ms ∧ faultOf t cause d)) ∧
      (∀ l y d ga gb, c.i = .seqrunGather l y d ga gb → may emission → (s.core k).stagesOpen c = true → (s.core k).olderPops c.order = false →
        st.qca ≠ [] → c.rows.length + st.qca.length < recTile c.shape 1 → Happens emission s k .a fun t => sameButCore s t k ∧
          (t.core k).st = { st with qca := [] } ∧ (t.core k).en.chans = vset en.chans ch
            { x with cmds := { c with rows := c.rows ++ st.qca, pops := c.pops - st.qca.length } :: rest }) ∧
      (∀ l y ga gb gc tk, c.i = .copy l y ga gb gc → may piece → quiet → (s.core k).task = some tk →
        let n := c.gc.toNat % 2 ^ 32
        let first := min n (4096 - c.ga.toNat % 4096)
        let at_ := if c.prog = 0 then 0 else first + (c.prog - 1) * 4096
        let len := if c.prog = 0 then first else min 4096 (n - at_)
        let D := c.ga.toNat % 2 ^ 40 + at_
        let S := c.gb.toNat % 2 ^ 40 + at_
        -- a byte of the source; one of a chunk read before is what that read gave
        let src (i : Nat) : Byte :=
          match c.early.find? fun e => decide (e.1 ≤ 9 * 2 ^ 60 + S + i) && decide (9 * 2 ^ 60 + S + i < e.1 + 32) with
          | some e => e.2.getD (9 * 2 ^ 60 + S + i - e.1) (st.bufA.read (S + i))
          | none => st.bufA.read (S + i)
        c.ga.toNat / 2 ^ 40 = 9 * 2 ^ 20 → c.gb.toNat / 2 ^ 40 = 9 * 2 ^ 20 → D + len ≤ 2 ^ 40 → S + len ≤ 2 ^ 40 →
        D + len ≤ tk.footA → S + len ≤ tk.footA → (s.core k).wmBlocked 1 D len c.order = false →
        (s.core k).wmBlocked 1 S len c.order = false → st.poisoned 1 S len = false →
        Happens piece s k .a fun t => wroteA t D src len ∧
          ∃ c', (vget (t.core k).en.chans ch).cmds = c' :: rest ∧ c'.prog = c.prog + 1 ∧ c'.filled = at_ + len ∧
            c'.payload = c.payload ++ [(9 * 2 ^ 60 + D, (List.range len).map src)]) ∧
      (∀ l y d ga gb tk, c.i = .seqrunCopy l y d ga gb → may emission → quiet → (s.core k).task = some tk →
        let b := c.tileAddr c.prog
        let D := b.toNat % 2 ^ 40
        let T := recTileBytes c.shape
        (recExtent c.shape 0 : Int) ≤ c.coord c.prog 0 * recTile c.shape 0 → (s.core k).stagesOpen c = true → afford D T →
        b.toNat / 2 ^ 40 = 9 * 2 ^ 20 → D + T ≤ 2 ^ 40 → D + T ≤ tk.footA → (s.core k).wmBlocked 1 D T c.order = false →
        Happens emission s k .a fun t => wroteA t D (fun _ => 0) T ∧
          ∃ c', (vget (t.core k).en.chans ch).cmds = c' :: rest ∧ c'.prog = c.prog + 1)) ∧
    (∀ upset : BitVec 32, (s.running k = false ∨ x.flight = none ∨ x.cmds = [] ∨ .piece k ch ∉ s.lat.arrived → Idles (.pieceArrival k ch upset) s) ∧
      (∀ c rest f p ps, x.cmds = c :: rest → x.flight = some f → f.pieces = p :: ps → .piece k ch ∈ s.lat.arrived → s.running k = true →
        let m := min 4 p.data.length
        let got := leBytes (leNat (p.data.take 4) ^^^ upset.toNat % 256 ^ m) m ++ p.data.drop 4
        (foldBytes foldStart got ≠ p.fold → f.tries = 0 → Happens (.pieceArrival k ch upset) s k .a fun t => (t.core k).st = st ∧
          (vget (t.core k).en.chans ch).flight = some { f with tries := 1 } ∧ (vget (t.core k).en.chans ch).cmds = x.cmds ∧
          (vget (t.core k).en.chans ch).faulted = x.faulted ∧ ∀ j, (t.core j).st = (s.core j).st) ∧
        (foldBytes foldStart got ≠ p.fold → f.tries ≠ 0 → A.inh = false ∨ A.priv = true → Happens (.pieceArrival k ch upset) s k .a fun t =>
          stops { t with lat := s.lat } ∧ t.lat.arrived = s.lat.arrived.erase (.piece k ch) ∧ faultOf t 0x13 0) ∧
        (foldBytes foldStart got = p.fold → ps ≠ [] → Happens (.pieceArrival k ch upset) s k .a fun t => (t.core k).st = st ∧
          sameMemory s t ∧ vget (t.core k).en.chans ch = { x with flight := some { f with pieces := ps, tries := 0 } } ∧
          ∀ j, j ≠ k → t.core j = s.core j) ∧
        (∀ l y ga gb gc a bs tk, foldBytes foldStart got = p.fold → ps = [] → c.i = .copy l y ga gb gc → f.writes = [(a, bs)] → quiet →
          (s.core k).task = some tk → a.toNat / 2 ^ 40 = 9 * 2 ^ 20 → a.toNat % 2 ^ 40 + bs.length ≤ tk.footA →
          (s.core k).wmBlocked 1 (a.toNat % 2 ^ 40) bs.length c.order = false →
          Happens (.pieceArrival k ch upset) s k .a fun t => wroteA t (a.toNat % 2 ^ 40) (fun i => bs.getD i 0) bs.length ∧
            (vget (t.core k).en.chans ch).flight = none ∧
            ∃ c', (vget (t.core k).en.chans ch).cmds = c' :: rest ∧ c'.prog = c.prog + 1))) ∧
    (s.running k = false ∨ en.mc = [] → Idles (.multicastArrival k) s) ∧
    (∀ w rest, en.mc = w :: rest → s.running k = true →
      ((s.core w.receiver).runsStart w.start = false → Happens (.multicastArrival k) s k .a fun t => sameButCore s t k ∧
        t.core k = { s.core k with en := { en with mc := rest } }) ∧
      ((s.core w.receiver).runsStart w.start = true → w.receiver ≠ k → (s.core w.receiver).st.bufA.wf →
        let n := min (8 - w.off % 8) w.data.length
        Happens (.multicastArrival k) s k .a fun t => sameMemory s t ∧
          (t.core k).en.mc = (if w.data.drop n = [] then rest else { w with off := w.off + n, data := w.data.drop n, done := w.done + n } :: rest) ∧
          (∀ b, (t.core w.receiver).st.bufA.read b = if w.off ≤ b ∧ b < w.off + n then w.data.getD (b - w.off) 0
            else (s.core w.receiver).st.bufA.read b) ∧
          (∀ j, j ≠ k → j ≠ w.receiver → t.core j = { s.core j with cl := (t.core j).cl } ∧
            ∀ y, (t.core j).clu y = { (s.core j).clu y with claspWait := ((t.core j).clu y).claspWait }) ∧
          (w.clasp = none → t.quads = s.quads) ∧
          (∀ i, w.clasp = some i → (vget (vget t.quads (quadOf k)).clasps (Fin.ofNat 256 i.toNat)).count.toNat =
            min ((vget (vget s.quads (quadOf k)).clasps (Fin.ofNat 256 i.toNat)).count.toNat + n) (2 ^ 32 - 1))))

/-- The integer forms of majors 0x30 and 0x31 write each active lane with the rule's value, set ISAT when a clamp
changes one, and compare into masks (R179, R180, R183). For lane sizes 1, 2 and 4 bytes, signed (0x30) and unsigned
(0x31): VADD, VSUB and VMUL modulo 2^b, VADDS and VSUBS clamped with ISAT, VMIN, VMAX, VSHL and VSHR with the count
read unsigned (0 or all sign at b and above). Inactive lanes keep the bits they had before the bundle and set no flag;
no other register, mask or byte changes. The compares write every bit of their mask, m0 discarding it. -/
def Obligations.VectorIntegerFormsComputeActiveLanes : Prop :=
  ∀ (s : State) (vd va vb : VReg) (md mk : MReg) (sz : BitVec 2), sz ≠ 3 →
    let w := 2 ^ sz.toNat
    let b := 8 * w
    let x (j : Nat) := Line.part (s.v va) w j
    let y (j : Nat) := Line.part (s.v vb) w j
    let val (sg : Bool) (n : Nat) : Int := if sg = true ∧ 2 ^ (b - 1) ≤ n then (n : Int) - 2 ^ b else n
    let wraps (i : Instr) (sg : Bool) (f : Int → Int → Int) : Prop :=
      VecLanes i s vd mk w fun j r fl => (r : Int) = f (val sg (x j)) (val sg (y j)) % 2 ^ b ∧ fl = 0
    let clamps (i : Instr) (sg : Bool) (f : Int → Int → Int) : Prop :=
      VecLanes i s vd mk w fun j r fl =>
        let e := f (val sg (x j)) (val sg (y j))
        let lo : Int := if sg then -2 ^ (b - 1) else 0
        let hi : Int := if sg then 2 ^ (b - 1) - 1 else 2 ^ b - 1
        val sg r = max lo (min hi e) ∧ fl = if e < lo ∨ hi < e then ISAT else 0
    let shl (i : Instr) : Prop := VecLanes i s vd mk w fun j r fl => r = (if b ≤ y j then 0 else x j * 2 ^ y j % 2 ^ b) ∧ fl = 0
    let shr (i : Instr) (sg : Bool) : Prop := VecLanes i s vd mk w fun j r fl =>
      (r : Int) = (if b ≤ y j then (if val sg (x j) < 0 then -1 else 0) else val sg (x j) / 2 ^ y j) % 2 ^ b ∧ fl = 0
    let cmp (i : Instr) (sg : Bool) (f : Int → Int → Prop) : Prop := VecCompare i s md mk w fun j => f (val sg (x j)) (val sg (y j))
    wraps (.vaddI vd va vb mk sz) true (· + ·) ∧ wraps (.vaddN vd va vb mk sz) false (· + ·) ∧
    wraps (.vsubI vd va vb mk sz) true (· - ·) ∧ wraps (.vsubN vd va vb mk sz) false (· - ·) ∧
    wraps (.vmulI vd va vb mk sz) true (· * ·) ∧ wraps (.vmulN vd va vb mk sz) true (· * ·) ∧
    clamps (.vaddsI vd va vb mk sz) true (· + ·) ∧ clamps (.vaddsN vd va vb mk sz) false (· + ·) ∧
    clamps (.vsubsI vd va vb mk sz) true (· - ·) ∧ clamps (.vsubsN vd va vb mk sz) false (· - ·) ∧
    wraps (.vminI vd va vb mk sz) true min ∧ wraps (.vminN vd va vb mk sz) false min ∧
    wraps (.vmaxI vd va vb mk sz) true max ∧ wraps (.vmaxN vd va vb mk sz) false max ∧
    shl (.vshlI vd va vb mk sz) ∧ shl (.vshlN vd va vb mk sz) ∧ shr (.vshrI vd va vb mk sz) true ∧ shr (.vshrN vd va vb mk sz) false ∧
    cmp (.vcmpeqI md va vb mk sz) true (· = ·) ∧ cmp (.vcmpeqN md va vb mk sz) false (· = ·) ∧
    cmp (.vcmpltI md va vb mk sz) true (· < ·) ∧ cmp (.vcmpltN md va vb mk sz) false (· < ·) ∧
    cmp (.vcmpleI md va vb mk sz) true (· ≤ ·) ∧ cmp (.vcmpleN md va vb mk sz) false (· ≤ ·)

/-- Logic, moves, selection, shuffles and mask forms write the bytes of R184 (R15, R179, R180, R184). VAND, VOR, VXOR,
VANDN and VMOV write active bytes; VSEL writes every byte from va or vb by its selector; VBCST writes the low bytes of
gA into active lanes of 1, 2, 4 or 8 bytes; VSHUF writes 0 or the byte of va that vb names; the mask forms write all
64 bits (m0 read as all ones and never written); VLANE writes gD the zero-extended F32 lane. No flag, no other
register and no byte of memory changes. -/
def Obligations.VectorLogicMovesAndMasksActAsGiven : Prop :=
  ∀ (s : State) (vd va vb : VReg) (md ma mb mk : MReg) (d a : Reg) (sz : BitVec 2) (ln : BitVec 4),
    let x (j : Nat) := Line.part (s.v va) 1 j
    let y (j : Nat) := Line.part (s.v vb) 1 j
    let bytes (i : Instr) (f : Nat → Nat) : Prop := VecLanes i s vd mk 1 fun j r fl => r = f j ∧ fl = 0
    let mask (i : Instr) (v : Word) : Prop := ∃ t, exec i s = .next t ∧ wroteM s t md v
    bytes (.vand vd va vb mk) (fun j => x j &&& y j) ∧ bytes (.vor vd va vb mk) (fun j => x j ||| y j) ∧
    bytes (.vxor vd va vb mk) (fun j => x j ^^^ y j) ∧ bytes (.vandn vd va vb mk) (fun j => x j &&& (255 - y j)) ∧
    bytes (.vmov vd va mk) x ∧
    (∃ t, exec (.vsel vd va vb mk) s = .next t ∧ wroteV s t vd 0 ∧ ∀ j, j < 64 →
      Line.part (vget t.me.st.v vd) 1 j = if (s.mask mk).getLsbD j = true then x j else y j) ∧
    (VecLanes (.vbcst vd a sz mk) s vd mk (2 ^ sz.toNat) fun _ r fl => r = (s.g a).toNat % 2 ^ (8 * 2 ^ sz.toNat) ∧ fl = 0) ∧
    bytes (.vshuf vd va vb mk) (fun j => if 128 ≤ y j then 0 else x (y j % 64)) ∧
    mask (.mand md ma mb) (s.mask ma &&& s.mask mb) ∧ mask (.mor md ma mb) (s.mask ma ||| s.mask mb) ∧
    mask (.mxor md ma mb) (s.mask ma ^^^ s.mask mb) ∧ mask (.mandn md ma mb) (s.mask ma &&& ~~~s.mask mb) ∧
    mask (.mnot md ma) (~~~s.mask ma) ∧ s.mask 0 = 0xFFFF_FFFF_FFFF_FFFF#64 ∧
    WritesG (.vlane d va ln) s d (BitVec.ofNat 64 (Line.part (s.v va) 4 ln.toNat))

/-- The floating forms round the exact sum, product or fused sum once, with R185's special cases and flags, and
compare by value (R102, R103, R104, R105, R113, R119, R123, R125, R179, R185, R186). For F32, F16 and BF16: VADD,
VSUB, VMUL and VFMA give the canonical NaN for a NaN operand (no flag), the canonical NaN with INV for opposite
infinities or zero times infinity, infinities and signed zeros as R185's table says, +0 for an exact zero sum, and
otherwise the exact rational value rounded once by round_to with RNE and no saturation, with its OVF. VMIN and VMAX
select by the total order of R123; VABS and VNEG clear and invert the sign bit; the compares order values with -0
equal to +0 and every relation false on a NaN. round_to itself is given for every format, sign, magnitude, mode, SAT
and draw: the grid point below, chosen by distance, parity or the draw, and the overflow table. That VFMA sets no INV
when d is a NaN is the reading of the table's NaN row. Inactive lanes and every other register, flag and byte stay. -/
def Obligations.VectorFloatFormsRoundTheExactValueOnce : Prop :=
  ∀ (s : State) (vd va vb : VReg) (md mk : MReg) (ty : BitVec 2), ty ≠ 3 →
    let t := if ty = 0 then f32 else if ty = 1 then f16 else bf16
    let w := if ty = 0 then 4 else 2
    let x (j : Nat) := Line.part (s.v va) w j
    let y (j : Nat) := Line.part (s.v vb) w j
    let A (j : Nat) := t.read (x j)
    let B (j : Nat) := t.read (y j)
    let D (j : Nat) := t.read (Line.part (s.v vd) w j)
    let rounded (q : ℚ) (r : Nat) (fl : BitVec 8) : Prop := ∃ n k e, Val.rat (.fin n k e) = q ∧ (r, fl) = t.round n k e 0 false 0
    let sum (a b : Val) (r : Nat) (fl : BitVec 8) : Prop :=
      (a = .nan ∨ b = .nan → r = t.nan ∧ fl = 0) ∧
      (∀ n, a = .inf n → b = .inf (!n) → r = t.nan ∧ fl = INV) ∧
      (∀ n, a = .inf n → b ≠ .nan → b ≠ .inf (!n) → r = t.inf n ∧ fl = 0) ∧
      (∀ n, b = .inf n → a ≠ .nan → a ≠ .inf (!n) → r = t.inf n ∧ fl = 0) ∧
      (∀ n k e n' k' e', a = .fin n k e → b = .fin n' k' e' →
        (k = 0 → k' = 0 → r = t.signBit (n && n') ∧ fl = 0) ∧
        (k ≠ 0 ∨ k' ≠ 0 → a.rat + b.rat = 0 → r = 0 ∧ fl = 0) ∧ (a.rat + b.rat ≠ 0 → rounded (a.rat + b.rat) r fl))
    let sign (a : Val) : Bool := match a with
      | .fin n _ _ => n
      | .inf n => n
      | .nan => false
    let zero (a : Val) : Prop := ∃ n e, a = .fin n 0 e
    let infinite (a : Val) : Prop := ∃ n, a = .inf n
    let prod (a b : Val) (p : Val) (fl : BitVec 8) : Prop :=
      (a = .nan ∨ b = .nan → p = .nan ∧ fl = 0) ∧
      ((zero a ∧ infinite b) ∨ (infinite a ∧ zero b) → p = .nan ∧ fl = INV) ∧
      (a ≠ .nan → b ≠ .nan → (infinite a ∨ infinite b) → ¬ zero a → ¬ zero b → p = .inf (sign a ^^ sign b) ∧ fl = 0) ∧
      (∀ n k e n' k' e', a = .fin n k e → b = .fin n' k' e' → p = .fin (n ^^ n') (k * k') (e + e') ∧ fl = 0)
    let less (a b : Val) : Prop := a ≠ .nan ∧ b ≠ .nan ∧ a ≠ b ∧ (a = .inf true ∨ b = .inf false ∨ (¬ infinite a ∧ ¬ infinite b ∧ a.rat < b.rat))
    let same (a b : Val) : Prop := a ≠ .nan ∧ b ≠ .nan ∧ (a = b ∨ (¬ infinite a ∧ ¬ infinite b ∧ a.rat = b.rat))
    let okey (n : Nat) : Nat := if n < 2 ^ (8 * w - 1) then n + 2 ^ (8 * w - 1) else 2 ^ (8 * w) - 1 - n
    (VecLanes (.vaddF vd va vb mk ty) s vd mk w fun j => sum (A j) (B j)) ∧
    (VecLanes (.vsubF vd va vb mk ty) s vd mk w fun j => sum (A j) (B j).negate) ∧
    (VecLanes (.vmulF vd va vb mk ty) s vd mk w fun j r fl => ∃ p g, prod (A j) (B j) p g ∧
      (p = .nan → r = t.nan ∧ fl = g) ∧ (∀ n, p = .inf n → r = t.inf n ∧ fl = 0) ∧
      (∀ n k e, p = .fin n k e → (r, fl) = t.round n k e 0 false 0)) ∧
    (VecLanes (.vfma vd va vb mk ty) s vd mk w fun j r fl =>
      (D j = .nan → r = t.nan ∧ fl = 0) ∧ (D j ≠ .nan → ∃ p g h, prod (A j) (B j) p g ∧ sum p (D j) r h ∧ fl = h ||| g)) ∧
    (VecLanes (.vminF vd va vb mk ty) s vd mk w fun j r fl => fl = 0 ∧ (r = x j ∨ r = y j) ∧ okey r = min (okey (x j)) (okey (y j))) ∧
    (VecLanes (.vmaxF vd va vb mk ty) s vd mk w fun j r fl => fl = 0 ∧ (r = x j ∨ r = y j) ∧ okey r = max (okey (x j)) (okey (y j))) ∧
    (VecLanes (.vabs vd va mk ty) s vd mk w fun j r fl => fl = 0 ∧ r = x j % 2 ^ (8 * w - 1)) ∧
    (VecLanes (.vneg vd va mk ty) s vd mk w fun j r fl => fl = 0 ∧ r = (x j + 2 ^ (8 * w - 1)) % 2 ^ (8 * w)) ∧
    (VecCompare (.vcmpeqF md va vb mk ty) s md mk w fun j => same (A j) (B j)) ∧
    (VecCompare (.vcmpltF md va vb mk ty) s md mk w fun j => less (A j) (B j)) ∧
    (VecCompare (.vcmpleF md va vb mk ty) s md mk w fun j => less (A j) (B j) ∨ same (A j) (B j)) ∧
    -- round_to, as R119 gives it
    ∀ row ∈ floatRows, ∀ (n : Bool) (m : Nat) (e : ℤ) (mode : Nat) (sa : Bool) (draw : Nat), mode ≤ 2 → draw < 2 ^ 32 →
      let r := row.f.round n m e mode sa draw
      row.Rounds n (m * (2 : ℚ) ^ e) mode sa draw r.1 r.2

/-- VEXP2, VLOG2, VRCP, VRSQ and VTANH return R187's special values, and exact powers and reciprocals rounded once
(R105, R113, R119, R179, R187). For every active F32 lane: a NaN gives the canonical NaN, and zeros, infinities and
negative operands give R187's table with its INV. VEXP2 of an integer is the exact power of two rounded once (OVF
beyond the range), VLOG2 of an exact power of two is the exact integer, VRCP of a power of two and VRSQ of a power of
four are exact and rounded once. Other lanes take the function the model rounds from proved bounds at 128, 256 or 512
bits, a free value where those do not decide it (notes/assumptions/14.md). Inactive lanes and all else stay. -/
def Obligations.SpecialFunctionsReturnTheirTableValues : Prop :=
  ∀ (s : State) (vd va : VReg) (mk : MReg),
    let x (j : Nat) := Line.part (s.v va) 4 j
    let A (j : Nat) := f32.read (x j)
    let nan : Nat := 0x7FC0_0000
    let inf (n : Bool) : Nat := if n then 0xFF80_0000 else 0x7F80_0000
    let one (n : Bool) : Nat := if n then 0xBF80_0000 else 0x3F80_0000
    let zero (n : Bool) : Nat := if n then 0x8000_0000 else 0
    let table (i : Instr) (f : Nat → Nat × BitVec 8) (atZero atInf : Bool → Nat × BitVec 8) (more : Nat → Nat → BitVec 8 → Prop) : Prop :=
      VecLanes i s vd mk 4 fun j r fl => (r, fl) = ((f (x j)).1 % 2 ^ 32, (f (x j)).2) ∧ (A j = .nan → r = nan ∧ fl = 0) ∧
        (∀ n e, A j = .fin n 0 e → (r, fl) = atZero n) ∧ (∀ n, A j = .inf n → (r, fl) = atInf n) ∧ more j r fl
    table (.vexp2 vd va mk) exp2F32 (fun _ => (one false, 0)) (fun n => (if n then 0 else inf false, 0)) (fun j r fl =>
      ∀ k : Int, A j ≠ .nan → (∀ n, A j ≠ .inf n) → (A j).rat = k → (r, fl) = f32.round false 1 k 0 false 0) ∧
    table (.vlog2 vd va mk) log2F32 (fun _ => (inf true, 0)) (fun n => if n then (nan, INV) else (inf false, 0)) (fun j r fl =>
      (∀ m e, A j = .fin true m e → m ≠ 0 → r = nan ∧ fl = INV) ∧
      (∀ m e (k : Int), A j = .fin false m e → m ≠ 0 → (A j).rat = (2 : ℚ) ^ k → (r, fl) = f32.round (decide (k < 0)) k.natAbs 0 0 false 0)) ∧
    table (.vrcp vd va mk) rcpF32 (fun n => (inf n, 0)) (fun n => (zero n, 0)) (fun j r fl =>
      ∀ n m e (k : Int), A j = .fin n m e → m ≠ 0 → (Val.rat (.fin false m e)) = (2 : ℚ) ^ k → (r, fl) = f32.round n 1 (-k) 0 false 0) ∧
    table (.vrsq vd va mk) rsqF32 (fun n => (inf n, 0)) (fun n => if n then (nan, INV) else (0, 0)) (fun j r fl =>
      (∀ m e, A j = .fin true m e → m ≠ 0 → r = nan ∧ fl = INV) ∧
      (∀ m e (k : Int), A j = .fin false m e → m ≠ 0 → (A j).rat = (4 : ℚ) ^ k → (r, fl) = f32.round false 1 (-k) 0 false 0)) ∧
    table (.vtanh vd va mk) tanhF32 (fun n => (zero n, 0)) (fun n => (one n, 0)) (fun _ _ _ => True)

/-- VRSUM rounds the exact sum once, VRMAX and VRMIN pick by the total order, VTOPK keeps the best 16 pairs of the
union (R113, R119, R123, R124, R125, R188, R189). Lane 0 receives the result over the lanes the mask selects and lanes
1 to 15 receive +0. VRSUM: the canonical NaN for a NaN, NaN with INV for both infinities, an infinity, -0 only when
the set is nonempty and every member is -0, +0 for an empty set or an exact zero sum, else the exact sum rounded once.
VRMAX and VRMIN return a member whose key is largest or smallest, 0xFFFF_FFFF and 0x7FFF_FFFF for an empty set. VTOPK
(even registers) writes into vd and vd + 1, best first, the 16 best pairs of va's sixteen and vb's active ones under
the ranking of R124, bits unchanged, no flag. Nothing else changes. -/
def Obligations.ReductionsAndTopKIgnoreLaneOrder : Prop :=
  ∀ (s : State) (vd va vb : VReg) (mk : MReg),
    let on (j : Nat) : Prop := (s.mask mk).getLsbD (4 * j) = true
    let x (j : Nat) := Line.part (s.v va) 4 j
    let A (j : Nat) := f32.read (x j)
    let act (P : Nat → Prop) : Prop := ∃ j, j < 16 ∧ on j ∧ P j
    let all (P : Nat → Prop) : Prop := ∀ j, j < 16 → on j → P j
    let okey (n : Nat) : Nat := if n < 2 ^ 31 then n + 2 ^ 31 else 2 ^ 32 - 1 - n
    let reduces (i : Instr) (f : Nat → BitVec 8 → Prop) : Prop := ∃ t fl, exec i s = .next t ∧ wroteV s t vd fl ∧
      (vget t.me.st.v vd).toNat < 2 ^ 32 ∧ f (vget t.me.st.v vd).toNat fl
    let total : ℚ := ((List.range 16).map fun j => if (s.mask mk).getLsbD (4 * j) then (A j).rat else 0).sum
    let zero (j : Nat) : Prop := ∃ n e, A j = .fin n 0 e
    reduces (.vrsum vd va mk) (fun r fl =>
      let nan := act fun j => A j = .nan
      let pos := act fun j => A j = .inf false
      let neg := act fun j => A j = .inf true
      (nan → r = 0x7FC0_0000 ∧ fl = 0) ∧ (¬ nan → pos → neg → r = 0x7FC0_0000 ∧ fl = INV) ∧
      (¬ nan → pos → ¬ neg → r = 0x7F80_0000 ∧ fl = 0) ∧ (¬ nan → neg → ¬ pos → r = 0xFF80_0000 ∧ fl = 0) ∧
      (all zero → fl = 0 ∧ (r = 0 ∨ r = 0x8000_0000) ∧ (r = 0x8000_0000 ↔ act (fun _ => True) ∧ all fun j => ∃ e, A j = .fin true 0 e)) ∧
      (¬ nan → ¬ pos → ¬ neg → ¬ all zero → (total = 0 → r = 0 ∧ fl = 0) ∧
        (total ≠ 0 → ∃ n k e, Val.rat (.fin n k e) = total ∧ (r, fl) = f32.round n k e 0 false 0))) ∧
    reduces (.vrmax vd va mk) (fun r fl => fl = 0 ∧ ((¬ act fun _ => True) → r = 0xFFFF_FFFF) ∧
      ((act fun _ => True) → (act fun j => x j = r) ∧ all fun j => okey (x j) ≤ okey r)) ∧
    reduces (.vrmin vd va mk) (fun r fl => fl = 0 ∧ ((¬ act fun _ => True) → r = 0x7FFF_FFFF) ∧
      ((act fun _ => True) → (act fun j => x j = r) ∧ all fun j => okey r ≤ okey (x j))) ∧
    (vd.val % 2 = 0 → va.val % 2 = 0 → vb.val % 2 = 0 →
      let pair (v : VReg) (j : Nat) : Nat × Nat := (Line.part (s.v v) 4 j, Line.part (s.v (v + 1)) 4 j)
      let union := (List.range 16).map (pair va) ++ ((List.range 16).filter fun j => (s.mask mk).getLsbD (4 * j)).map (pair vb)
      let before (p q : Nat × Nat) : Prop := okey q.1 < okey p.1 ∨ p.1 = q.1 ∧ p.2 < q.2
      ∃ t, exec (.vtopk vd va vb mk) s = .next t ∧ sameMemory s t ∧ sameOutside s t ∧
        t.me = { s.me with st := { s.me.st with v := t.me.st.v } } ∧
        (∀ r, r ≠ vd → r ≠ vd + 1 → vget t.me.st.v r = vget s.me.st.v r) ∧
        let best := (List.range 16).map fun j => (Line.part (vget t.me.st.v vd) 4 j, Line.part (vget t.me.st.v (vd + 1)) 4 j)
        ∃ rest, (best ++ rest).Perm union ∧ best.Pairwise (fun p q => ¬ before q p) ∧ ∀ p ∈ best, ∀ q ∈ rest, ¬ before q p)

/-- VCVT converts N lanes element by element, draws once for each active lane under SR, and leaves every other byte
(R103, R104, R106, R107, R108, R113, R119, R120, R121, R122, R190). With N = 64 over the larger element size, lane i
is read at e_s i and written at e_d i where mask bit e_d i is set: integers are copied, clamped with ISAT under sa = 1
or cut under sa = 0, floats are rounded once into the destination by round_to, NaNs become the destination's NaN (0
with INV for integers). Inactive lanes and the bytes from N e_d on keep what they held before the bundle; SRCTR
advances by the number of active lanes under SR and not otherwise, the draw of a lane being mix64 at the counter it
finds; AFLAGS collects the active lanes' flags. The conversion itself is given for every pair of formats: the source
read as R103 to R108 say, a finite value rounded once to a float, to a LOG6 code or to an integer (low bits of an
integer source without SAT, else clamped), infinities and NaNs by R120's table. Type codes, rounding modes and SR into
LOG6 outside the decoder's set are no instruction. -/
def Obligations.VcvtConvertsItsLanesWithDrawsInOrder : Prop :=
  ∀ (s : State) (vd va : VReg) (dt st : BitVec 4) (rm : BitVec 2) (sa : BitVec 1) (mk : MReg),
    1 ≤ dt.toNat → dt.toNat ≤ 12 → 1 ≤ st.toNat → st.toNat ≤ 12 → rm ≠ 3 → ¬ (dt = 4 ∧ rm = 2) →
    let size (c : Nat) : Nat := if c ∈ [7, 8, 12] then 4 else if c ∈ [5, 6, 10, 11] then 2 else 1
    let es := size st.toNat
    let ed := size dt.toNat
    let N := 64 / max es ed
    let on (j : Nat) : Bool := (s.mask mk).getLsbD (ed * j)
    let c := s.old.clu s.cur.clu
    let count (j : Nat) : Nat := ((List.range j).filter on).length
    let draw (j : Nat) : Nat := if rm = 2 then (mix64 c.srkey (c.srctr + BitVec.ofNat 64 (count j))).toNat % 2 ^ 32 else 0
    let src (j : Nat) := Line.part (s.v va) es j
    let fs := fmtOfVec st.toNat
    let fd := fmtOfVec dt.toNat
    let exact (f : Fmt) : Bool := match f with
      | .int _ _ => true
      | _ => false
    (∃ t, exec (.vcvt vd va dt st rm sa mk) s = .next t ∧ sameMemory s t ∧ sameOutside s t ∧ t.report = s.report ∧
      (∀ r, r ≠ vd → vget t.me.st.v r = vget s.me.st.v r) ∧
      t.me = { s.me with cl := t.me.cl, st := { s.me.st with v := t.me.st.v }, rg := { s.me.rg with aflags := t.me.rg.aflags } } ∧
      t.cl = { s.cl with srctr := if rm = 2 then c.srctr + BitVec.ofNat 64 (count N) else c.srctr } ∧
      (∀ k, k ≠ s.cur.clu → t.me.clu k = s.me.clu k) ∧
      let x := vget t.me.st.v vd
      (∀ k, N * ed ≤ k → k < 64 → Line.part x 1 k = Line.part (s.v vd) 1 k) ∧
      (∃ fl : Nat → BitVec 8,
        (∀ b, b < 64 → (t.me.rg.aflags.getLsbD b = true ↔ s.me.rg.aflags.getLsbD b = true ∨ ∃ j, j < N ∧ (fl j).getLsbD b = true)) ∧
        ∀ j, j < N → if on j then
          (Line.part x ed j, fl j) = convert fs fd (src j) rm.toNat (sa == 1) (draw j) ∧
          (∃ v f g, fs.ReadsAs (src j) v f ∧ fd.Converts v (exact fs) rm.toNat (sa == 1) (draw j) (Line.part x ed j) g ∧ fl j = g ||| f) ∧
          (∀ w sg w' sg', fs = .int w sg → fd = .int w' sg' →
            let k := intOf w sg (src j)
            let lo : Int := if sg' then -2 ^ (w' - 1) else 0
            let hi : Int := if sg' then 2 ^ (w' - 1) - 1 else 2 ^ w' - 1
            (sa = 0 → (Line.part x ed j : Int) = k % 2 ^ w' ∧ fl j = 0) ∧
            (sa = 1 → (Line.part x ed j : Int) = max lo (min hi k) % 2 ^ w' ∧ fl j = if k < lo ∨ hi < k then ISAT else 0))
          else Line.part x ed j = Line.part (s.v vd) ed j ∧ fl j = 0)) ∧
    -- one conversion of R120 between any two formats
    (let formats : List Fmt := floatRows.map (fun r => .float r.f) ++
        [.log6, .int 8 true, .int 8 false, .int 16 true, .int 16 false, .int 32 true, .int 32 false]
     ∀ src ∈ formats, ∀ dst ∈ formats, ∀ (b mode : Nat) (sat : Bool) (u : Nat), b < 2 ^ 32 → mode ≤ 2 → u < 2 ^ 32 → ¬ (dst = .log6 ∧ mode = 2) →
       let r := convert src dst b mode sat u
       ∃ v f g, src.ReadsAs b v f ∧ dst.Converts v (exact src) mode sat u r.1 g ∧ r.2 = g ||| f)

/-- VLD, VST, VQPOP and VQPUSH check in R192's order, issue, and finish by moving exactly their active bytes (R144,
R145, R191, R192, R193, R215, R263, R299, R352). Under the guard and the sets, VLD and VST form gA + 64 off and check
in order: a path assigned and allowed at the level (address fault), 64-byte alignment, a buffer or quad path,
footprint or quad peer, permission, and (deterministic mode) a race; with none failing the form issues with its sets
taken, or waits while three forms of the cluster are unfinished or an earlier one touches the same bytes. No register
and no byte changes at issue. A form of the cluster that no earlier form holds acts when nothing else does: VLD writes
the active bytes of its register from the buffer, VST exactly the active bytes of the buffer, each for the aligned
8-byte words its turn names and still has (R192), the form finishing with the last; VQPOP takes the oldest QAV entry
whole and writes its active bytes, VQPUSH appends the active bytes over zeros while QVA has room; it leaves the list
and posts its tokens. WATERMARK_RELEASE finishes the same form. Buffers in canonical form. Three as the limit is
R352's (log 85). That the race check comes last and after the wait tokens, and that path 0xF at user level is an
address fault, are the model's choices (log 71). -/
def Obligations.VectorMemoryAndQueueFormsIssueAndFinish : Prop :=
  (∀ (s : State) (l : Long) (v : VReg) (a : Reg) (off : BitVec 7) (mk : MReg),
    let x := s.g a + BitVec.ofNat 64 (64 * off.toNat)
    let path := x.toNat / 2 ^ 60
    let b := x.toNat % 2 ^ 40
    let peer := quadCore s.cur.core (x.toNat / 2 ^ 40 % 4)
    let place : Fin 768 × Fin 4 × Nat := if path = 12 then (peer, 1, b) else (s.cur.core, Fin.ofNat 4 path, b)
    let en := s.me.en
    let full : Prop := 3 ≤ en.forms.countP fun f => f.clu == s.cur.clu
    let overlap : Prop := x ≠ 0 ∧ ∃ f ∈ en.forms, f.clu = s.cur.clu ∧ f.addr ≠ 0 ∧ s.vecPlace f.addr = s.vecPlace x
    let checks (write : Bool) : List (Prop × Nat × Nat × Word) :=
      [(path = 6 ∨ path = 7 ∨ path = 13 ∨ path = 15 ∧ (s.old.clu s.cur.clu).priv = false, 8, 0, x), (x.toNat % 64 ≠ 0, 9, 0, x),
       (path < 8 ∨ 12 < path, 8, 0, x),
       (path = 12 ∧ ¬ (x.toNat / 2 ^ 42 % 2 ^ 18 = 0 ∧ (peer = s.cur.core ∨ s.sameLaunch s.cur.core peer = true) ∧
          (s.core peer).inFoot 1 b 64 = true) ∨
        path ≠ 12 ∧ ¬ (x.toNat / 2 ^ 40 % 2 ^ 20 = 0 ∧ s.me.inFoot (Fin.ofNat 4 path) b 64 = true), 8, 0, x),
       (path = 11 ∨ write = true ∧ (path = 8 ∨ path = 10), 0xA, 0, x),
       ((s.popWait l).orderAccess place.1 place.2.1 place.2.2 64 write x = .trap 0x11 0 x, 0x11, 0, x)]
    let issued (i : Instr) (addr : Word) (data : Line) : Prop := ∃ t, exec i s = .next t ∧ sameMemory s t ∧ t.report = s.report ∧
      t.quads = s.quads ∧ t.regs = s.regs ∧ t.plat = s.plat ∧ t.lat = s.lat ∧ t.sch = s.sch ∧
      (∀ j, j ≠ s.cur.core → (t.core j).st = (s.core j).st ∧ (t.core j).cl = (s.core j).cl) ∧
      t.me.cl = s.me.cl ∧ t.me.st = s.me.st.took s.cur.clu l ∧ t.me.rg = { s.me.rg with pmc := t.me.rg.pmc } ∧
      t.me.en = { en with forms := en.forms ++ [{ i := i, w0 := s.ir.w0, w1 := s.ir.w1, clu := s.cur.clu, addr := addr, mask := s.mask mk,
                                                            data := data, parts := 0, order := en.issued, after := s.cl.fence, handler := s.cl.inh }],
                          issued := en.issued + 1, check := t.me.en.check }
    let accesses (i : Instr) (write : Bool) (data : Line) : Prop := underGuard i s l (inOrder i s (checks write)
      ((full ∨ overlap → exec i s = s.stall) ∧ (¬ full → ¬ overlap → issued i x data)))
    let queues (i : Instr) (data : Line) : Prop := underGuard i s l ((full → exec i s = s.stall) ∧ (¬ full → issued i 0 data))
    accesses (.vld l v a off mk) false 0 ∧ accesses (.vst l v a off mk) true (s.v v) ∧
    queues (.vqpop l v mk) 0 ∧ queues (.vqpush l v mk) (s.v v)) ∧
  ∀ (s : State) (k : Fin 768) (x : Clu) (words : BitVec 8),
    let u := s.at_ k x
    let st := (s.core k).st
    let en := (s.core k).en
    (s.running k = false ∨ (∀ f ∈ en.forms, f.clu ≠ x) → Idles (.vectorFormFinish k ⟨x, words⟩) s) ∧
    ∀ pre f post (i : Instr), i = .vectorFormFinish k ⟨x, words⟩ ∨ (i = .watermarkRelease k x ∧ words = 0) → s.running k = true →
      en.forms = pre ++ f :: post → f.clu = x → (∀ g ∈ pre, g.clu ≠ x) → (∀ g ∈ pre ++ post, g.order ≠ f.order) →
      (∀ g ∈ en.forms, g.holds f = false) →
      -- the words this turn is to perform of those left
      let todo : BitVec 8 := (if words = 0 then 0xFF else words) &&& ~~~f.parts
      let now (j : Nat) : Bool := f.mask.getLsbD j && todo.getLsbD (j / 8)
      let p := u.vecPlace f.addr
      let core := p.1
      let buf := (s.core core).st.buf p.2.1
      let whole : Prop := f.parts ||| todo = 0xFF
      let leaves (t : State) : Prop := (whole → (t.core k).en.forms = pre ++ post) ∧
        (¬ whole → (t.core k).en.forms = pre ++ { f with parts := f.parts ||| todo } :: post) ∧ (t.core k).cl = (s.core k).cl ∧ sameMemory s t ∧ t.quads = s.quads ∧
        ∀ j, j ≠ k → j ≠ core → t.core j = s.core j
      let moved (t : State) (st' : Storage) : Prop := leaves t ∧ (whole → (t.core k).st = st'.post x (longOf f.w1.toNat).post) ∧
        (¬ whole → (t.core k).st = st')
      let posted (t : State) (st' : Storage) : Prop := (t.core k).en.forms = pre ++ post ∧ (t.core k).cl = (s.core k).cl ∧ sameMemory s t ∧
        t.quads = s.quads ∧ (∀ j, j ≠ k → t.core j = s.core j) ∧ (t.core k).st = st'.post x (longOf f.w1.toNat).post
      let merged (old new : Line) : Prop := ∀ j, j < 64 → Line.part new 1 j =
        if f.mask.getLsbD j then Line.part old 1 j else 0
      (∀ l v a off mk, f.i = .vld l v a off mk → todo ≠ 0 → u.bufWaits core p.2.1 p.2.2 64 f.order = false →
        (s.core core).st.poisoned p.2.1 p.2.2 64 = false → Happens i s k x fun t => ∃ w : Line,
          moved t { st with v := vset st.v v w } ∧ ∀ j, j < 64 → Line.part w 1 j =
            if now j then (buf.read (p.2.2 + j)).toNat else Line.part (vget st.v v) 1 j) ∧
      (∀ l v a off mk, f.i = .vst l v a off mk → todo ≠ 0 → u.bufWaits core p.2.1 p.2.2 64 f.order = false → buf.wf = true →
        Happens i s k x fun t => leaves t ∧ ∀ c, ((t.core core).st.buf p.2.1).read c =
          if p.2.2 ≤ c ∧ c < p.2.2 + 64 ∧ now (c - p.2.2) = true then BitVec.ofNat 8 (Line.part f.data 1 (c - p.2.2))
          else buf.read c) ∧
      (∀ l v mk, f.i = .vqpop l v mk → f.parts = 0 → (st.qav = [] → (∀ g ∈ post, g.clu ≠ x) → Idles (.vectorFormFinish k ⟨x, words⟩) s) ∧
        ∀ y rest, st.qav = y :: rest → Happens i s k x fun t => ∃ w : Line, posted t { st with v := vset st.v v w, qav := rest } ∧
          ∀ j, j < 64 → Line.part w 1 j = if f.mask.getLsbD j then Line.part y 1 j else Line.part (vget st.v v) 1 j) ∧
      (∀ l v mk, f.i = .vqpush l v mk → f.parts = 0 → (32 ≤ st.qva.length → (∀ g ∈ post, g.clu ≠ x) → Idles (.vectorFormFinish k ⟨x, words⟩) s) ∧
        (st.qva.length < 32 → Happens i s k x fun t => ∃ w : Line, posted t { st with qva := st.qva ++ [w] } ∧ merged f.data w))

/-- The matrix forms wait, pop a format word, check in R155's order, and enter the command queue or are held for
emulation (R111, R112, R155, R160, R161, R162, R163 to R165, R166, R174, R175, R349, R396). FMTW pushes gA[31:0] while
the queue has room. For the twelve matrix forms outside deterministic mode and with no command held for emulation: a
false guard nullifies; before a stamp's tick, or without its sets, the form waits; at the tick a set (or QAM, for
TQLD) not ready misses the schedule, as does a form past it that something but its own earlier commands held (fault
0x10, or with LATE a late issue); a popping form with an empty queue faults (TINFO's second word zero); then shapes
and types, accumulator footprint, and R161's path, alignment, form, permission and translation checks run in the order
written out, and the first that fails is the precise fault. With none failing an unstamped form enters the 8-entry
queue with its operands, shapes, word and translated lines, its sets taken and its word popped; a stamped form starts
at once or waits while a command is queued; a refused or emulated word or type holds the cluster, consumes its word,
keeps its wait tokens in their queues, and sends cause 0x1C to the control cluster, its charge made then, or the
overdraw trap raised. Nothing else changes. What a stamp counts as its miss (log 26), the wait tokens and room of a
held command (log 56), no footprint check of HMRD and HMCLR (log 74) and the accumulator checked first (log 105) are
the model's choices. -/
def Obligations.MatrixFormsCheckAndQueueAtIssue : Prop :=
  ∀ (s : State) (l : Long) (ta tb : TReg) (ga : Reg) (acc : BitVec 6) (rm : BitVec 2) (kk : BitVec 1),
    let G := s.g ga
    let st := s.me.st
    let en := s.me.en
    let w := s.old.st.fq.headD 0
    let sh (t : TReg) : Word := vget s.old.st.tsh t
    let ty (t : TReg) : Nat := (sh t).toNat / 2 ^ 16 % 16
    let rows (t : TReg) : Nat := (sh t).toNat % 64
    let cols (t : TReg) : Nat := (sh t).toNat / 2 ^ 7 % 128
    let esize (c : Nat) : Nat := if c = 5 ∨ c = 6 then 2 else if c = 7 ∨ c = 8 then 4 else 1
    let path (x : Word) : Nat := x.toNat / 2 ^ 60
    let slot := s.old.slotFor s.cur.clu
    let acc0 : Word := BitVec.ofNat 64 (10 * 2 ^ 60 + 4096 * acc.toNat)
    let foot : List (Prop × Nat × Nat × Word) := [(s.me.inFoot 2 (4096 * acc.toNat) 4096 = false, 8, 0, acc0)]
    let move (a : Word) (align n lines : Nat) (store add : Bool) : List (Prop × Nat × Nat × Word) :=
      let at_ := (List.range lines).map fun i => a + BitVec.ofNat 64 (64 * i)
      [(path a = 6 ∨ path a = 7 ∨ path a = 13 ∨ path a = 15 ∧ (s.old.clu s.cur.clu).priv = false, 8, 0, a), (a.toNat % align ≠ 0, 9, 0, a),
       (4 ≤ path a ∧ path a ≤ 7 ∨ 12 ≤ path a, 8, 0, a)] ++
      at_.map (fun x => (if 8 ≤ path x ∧ path x ≤ 11 then
        ¬ (x.toNat / 2 ^ 40 % 2 ^ 20 = 0 ∧ s.me.inFoot (Fin.ofNat 4 (path x)) (x.toNat % 2 ^ 40) n = true) else genForm x = false, 8, 0, x)) ++
      (if store then [(path a = 8 ∨ path a = 11, 0xA, 0, a), (path a = 2 ∧ s.taskRegion a = none, 8, 0, a), (path a = 2, 0xB, 0, a), (path a = 1, 8, 0, a)]
       else [(path a = 11, 0xA, 0, a), (path a = 2, 8, 0, a)]) ++
      at_.map (fun x => if 8 ≤ path x then (False, 0, 0, x) else
        match s.reach slot x store with
        | .error (c, d) => (True, c, d, x)
        | .ok p => (add = true ∧ p.coherent = false, 8, 0, x))
    let issues (i : Instr) (pop : Bool) (cls : WordClass) (cs : List (Prop × Nat × Nat × Word)) (g shA shB : Word) : Prop :=
      let fmt : Word32 := if pop then w else 0
      let fault (c d : Nat) (a : Word) : Out := s.raise c d a (if c = 0xE then s.ir.w0 ++ fmt else s.irInfo)
      let cmd (places : List Phys) : MCmd := { i := i, w0 := s.ir.w0, w1 := s.ir.w1, fmt := fmt, g := g, shA := shA, shB := shB,
                                               places := places, groups := 0, order := en.issued, after := s.cl.fence }
      let here : List Phys := (cmd []).lines.filterMap fun a => if 8 ≤ path a then none else (s.reach slot a (cmd []).writes).toOption
      let tick : Word := s.old.st.stampb + l.stamp.setWidth 64
      let late : Prop := l.stamp ≠ 0 ∧ s.missedStamp l = true
      let waits : Prop := ∃ h, exec i s = .next { (s.undo.onCl fun c => { c with hold := h }) with report := .stalled }
      let misses : Prop := exec i s = if s.old.st.stampc.getLsbD 0 = true then
        .next { (s.undo.onCl fun c => { c with stampSeen := some true }) with report := .stalled } else s.fault 0x10 0
      let short : Prop := l.stamp ≠ 0 ∧ (∃ m t, i = .tqld m t) ∧ st.qam.length < shA.toNat % 64
      (s.p l.guard = false → exec i s = .next s) ∧
      (s.p l.guard = true → s.me.det = false → en.emul = none →
        (l.stamp ≠ 0 → s.cadence < tick → exec i s = s.stall) ∧
        (¬ s.cadence < tick → late → s.old.st.stampc.getLsbD 0 = false → exec i s = s.fault 0x10 0) ∧
        (l.stamp = 0 ∨ ¬ s.cadence < tick → (late → s.old.st.stampc.getLsbD 0 = true) →
          (s.setsReady l = false ∨ short → (l.stamp = 0 → waits) ∧ (l.stamp ≠ 0 → misses)) ∧
          (s.setsReady l = true → ¬ short → pop = true → s.old.st.fq = [] → exec i s = s.raise 0xD 0 0 (s.ir.w0 ++ (0 : Word32))) ∧
          (s.setsReady l = true → ¬ short → pop = false ∨ s.old.st.fq ≠ [] → inOrderBy fault i s cs
            ((cls = .hard → l.stamp = 0 → 8 ≤ en.mq.length → waits) ∧
             (cls = .hard → l.stamp ≠ 0 → en.mq ≠ [] → waits) ∧
             (cls = .hard → l.stamp ≠ 0 → en.mq = [] → waits ∨ ∃ t, exec i s = .next t ∧ t.me.en.mq = [] ∧ t.me.en.issued = en.issued + 1) ∧
             (cls = .hard → l.stamp = 0 → en.mq.length < 8 → ∃ t, exec i s = .next t ∧ sameMemory s t ∧ sameOutside s t ∧
               t.report = s.report ∧ t.me = { s.me with
                 st := { st.took s.cur.clu l with fq := if pop then st.fq.tail else st.fq }
                 en := { en with mq := en.mq ++ [cmd here], issued := en.issued + 1 } }) ∧
             (cls ≠ .hard → s.overdraws s.cur.core (max 1 (s.chargeOf i)) = true → exec i s = s.fault 0x1B 0) ∧
             (cls ≠ .hard → s.overdraws s.cur.core (max 1 (s.chargeOf i)) = false → ¬ late → ∃ t tr, exec i s = .next t ∧ t.report = .trapped ∧ sameMemory s t ∧
               tr = { clu := .m, cause := 0x1C, detail := 0, async := true, addr := 0, info := s.ir.w0 ++ fmt } ∧
               (∀ j, j ≠ s.cur.core → t.core j = s.core j) ∧
               t.me.rg = { s.undo.me.rg with charges := t.me.rg.charges } ∧
               t.me.rg.draw s.cadence.toNat = s.undo.me.rg.draw s.cadence.toNat + max 1 (s.chargeOf i) ∧ t.me.en.emul = some (cmd []) ∧ t.me.pend = s.undo.me.pend ++ [(.c, tr)] ∧ t.me.cl = s.undo.me.cl ∧
               t.me.st = { s.undo.me.st.reserve s.cur.clu l.post with
                 fq := if pop then s.undo.me.st.fq.tail else s.undo.me.st.fq })))))
    underGuard (.fmtw l ga) s l ((16 ≤ st.fq.length → exec (.fmtw l ga) s = s.stall) ∧
      (st.fq.length < 16 → ∃ t, exec (.fmtw l ga) s = .next t ∧ sameMemory s t ∧ sameOutside s t ∧ t.report = s.report ∧
        t.me = { s.me with st := { st.passed s.cur.clu l with fq := st.fq ++ [G.setWidth 32] }, en := { en with check := t.me.en.check } })) ∧
    issues (.tld l ta ga) false .hard ([(ty ta = 0, 0xF, 0, 0)] ++ move G 64 (cols ta * esize (ty ta)) (rows ta) false false) G (sh ta) 0 ∧
    issues (.tst l ta ga) false .hard ([(ty ta = 0, 0xF, 0, 0)] ++ move G 64 (cols ta * esize (ty ta)) (rows ta) true false) G (sh ta) 0 ∧
    issues (.tqld l ta) false .hard [(ty ta = 0, 0xF, 0, 0)] 0 (sh ta) 0 ∧
    issues (.tzero l ta) false .hard [] 0 (sh ta) 0 ∧
    issues (.ttrans l ta tb) false .hard [(¬ (ty ta = ty tb ∧ rows ta = cols tb ∧ cols ta = rows tb), 0xF, 0, 0)] 0 (sh ta) (sh tb) ∧
    issues (.tcvt l ta tb rm) false (if 9 ≤ ty ta ∨ 9 ≤ ty tb then .emulated else .hard)
      [(rm = 2 ∧ ty ta = 4, 1, 0, 0), (ty ta = 0 ∨ ty tb = 0 ∨ rows ta ≠ rows tb ∨ cols ta ≠ cols tb, 0xF, 0, 0)]
      0 (sh ta) (sh tb) ∧
    issues (.tmma l acc ta tb) true (mmaWord w false) (if mmaWord w false = .invalid then [] else
      [(w.toNat / 2 ^ 28 ≠ ty ta ∨ w.toNat / 2 ^ 24 % 16 ≠ ty tb, 0xF, 0, 0)] ++ foot) 0 (sh ta) (sh tb) ∧
    (let nb := 64 / esize (w.toNat / 2 ^ 28) / 32
     issues (.tmmas l acc ta tb ga) true (mmaWord w true) (if mmaWord w true = .invalid then [] else
      [(w.toNat / 2 ^ 28 ≠ ty ta ∨ w.toNat / 2 ^ 24 % 16 ≠ ty tb, 0xF, 0, 0)] ++ foot ++
      [(G.toNat / 2 ^ 9 ≠ 0 ∨ 511 < G.toNat + 2 * nb - 1 ∨ s.me.inFoot 3 (32 * G.toNat) (64 * nb) = false, 8, 0, G)]) G (sh ta) (sh tb)) ∧
    issues (.tdrain l ga acc) true (drainWord w) (if drainWord w = .invalid then [] else
      foot ++ move G 64 64 (16 * esize (w.toNat / 2 ^ 16 % 16)) true false) G 0 0 ∧
    issues (.tdrainadd l ga acc kk) true (drainWord w) (if drainWord w = .invalid then [] else
      [(w.toNat / 2 ^ 22 % 4 ≠ 0 ∨ w.toNat / 2 ^ 16 % 16 ≠ 7, 0xE, 0, 0)] ++ foot ++ move G 128 64 64 true true) G 0 0 ∧
    issues (.hmrd l ga acc) false .hard [] 0 0 0 ∧ issues (.hmclr l acc) false .hard [] 0 0 0

/-- MATRIX_COMMAND_START performs the oldest queued command: tiles, hallmarks and accumulators as the rules give,
drains into the locket (R19, R110, R115 to R118, R120, R156, R157, R162, R163, R164, R165, R168, R172 and R173). With
an empty queue, a restore or termination in force, or an order rule unmet, nothing changes. Else the oldest command
leaves the queue and acts once: TZERO clears its tile; TTRANS and TCVT write each element inside the shape and zeros
outside; TLD and TST move rows between a tile and the A buffer, TST changing no byte between rows; TQLD takes its
entries' leading bytes; HMRD writes both hallmarks, HMCLR resets them; TMMA and TMMAS write the 1,024 words of the
group sequence (with any upset of the primary engine), keep the words before it, and stand uncompared; the drains take
the accumulator's words into the locket, with 1,024 draws under SR. The group sequence itself is given word by word:
the windowed sum of each group's products, one rounding, the special values, the I8 and LOG6 rows, the block scales.
No other cluster register, other core or memory changes. Words outside the shapes (log 21), the places of the issue
(log 53) and zeros outside a shape (log 89) are the model's choices. Accumulator bytes are assumed not poisoned,
buffers in canonical form. -/
def Obligations.StartedMatrixCommandsHaveTheirEffect : Prop :=
  (∀ (s : State) (k : Fin 768) (uP uS : Upset),
    let u := s.at_ k .m
    let i : Instr := .matrixCommandStart k uP uS
    let st := (s.core k).st
    let en := (s.core k).en
    let m := (s.core k).clu .m
    let held : Prop := (s.core k).term ≠ none ∨ (s.core k).restoring = true
    let rows (h : Word) : Nat := h.toNat % 64
    let cols (h : Word) : Nat := h.toNat / 2 ^ 7 % 128
    let esize (c : Nat) : Nat := if c = 5 ∨ c = 6 then 2 else if c = 7 ∨ c = 8 then 4 else 1
    let ty (h : Word) : Nat := h.toNat / 2 ^ 16 % 16
    let wide (h : Word) : Nat := cols h * esize (ty h)
    (s.running k = false ∨ en.mq = [] ∨ held → Idles i s) ∧
    ∀ c rest, en.mq = c :: rest → s.running k = true → ¬ held →
      (u.canStart k c = false → Idles i s) ∧
      (u.canStart k c = true → st.cmdPoisoned c = false →
        let acts (f : State → Prop) : Prop := Happens i s k .m fun t => f t ∧ sameMemory s t ∧ t.quads = s.quads ∧
          (∀ j, j ≠ k → t.core j = s.core j) ∧ (∀ y, y ≠ .m → (t.core k).clu y = (s.core k).clu y) ∧
          (t.core k).en.mq = rest ∧ (t.core k).en.forms = en.forms ∧ (t.core k).en.chans = en.chans
        let done (t : State) (c' : MRun → Prop) : Prop := ∃ r, (t.core k).en.mrun = en.mrun ++ [r] ∧ r.cmd = c ∧ c' r
        let fin (t : State) : Prop := done t fun r => r.phase = .done
        let keeps (t : State) : Prop := (t.core k).clu .m = m
        let tile (t : State) (ta : TReg) (f : Nat → Byte) : Prop :=
          (t.core k).st = { st with tiles := (t.core k).st.tiles, qam := (t.core k).st.qam } ∧
          (∀ r, r ≠ ta → vget (t.core k).st.tiles r = vget st.tiles r) ∧ ∀ b, (vget (t.core k).st.tiles ta).read b = f b
        let elem (t : Memory) (e x y : Nat) : Nat := t.readLe (64 * x + e * y) e
        (∀ l ta, c.i = .tzero l ta → acts fun t => fin t ∧ keeps t ∧ tile t ta (fun _ => 0)) ∧
        (∀ l ta tb, c.i = .ttrans l ta tb → rows c.shB ≤ 32 → wide c.shB ≤ 64 → rows c.shB * esize (ty c.shB) ≤ 64 → cols c.shB ≤ 32 →
          acts fun t => fin t ∧ keeps t ∧ (t.core k).st = { st with tiles := (t.core k).st.tiles } ∧
          (∀ r, r ≠ ta → vget (t.core k).st.tiles r = vget st.tiles r) ∧
          let e := esize (ty c.shB)
          ∀ x y, x < 32 → y < 64 / e → elem (vget (t.core k).st.tiles ta) e x y =
            if x < cols c.shB ∧ y < rows c.shB then elem (vget st.tiles tb) e y x else 0) ∧
        (∀ l ta tb rm, c.i = .tcvt l ta tb rm → rows c.shB = rows c.shA → cols c.shB = cols c.shA → rows c.shA ≤ 32 →
          wide c.shA ≤ 64 → wide c.shB ≤ 64 → acts fun t => (done t fun r => r.phase = .done ∧
              ∀ b, r.flags.getLsbD b = true ↔ ∃ x y, x < rows c.shA ∧ y < cols c.shA ∧ (convert (fmtOfR18 (ty c.shB)) (fmtOfR18 (ty c.shA))
                (elem (vget st.tiles tb) (esize (ty c.shB)) x y) rm.toNat true (if rm = 2 then
                  (mix64 m.srkey (m.srctr + BitVec.ofNat 64 (x * cols c.shA + y))).toNat % 2 ^ 32 else 0)).2.getLsbD b = true) ∧
            (t.core k).clu .m = { m with srctr := if rm = 2 then m.srctr + BitVec.ofNat 64 (rows c.shA * cols c.shA) else m.srctr } ∧
            (∀ r, r ≠ ta → vget (t.core k).st.tiles r = vget st.tiles r) ∧
            ∀ x y, x < rows c.shA → y < cols c.shA → elem (vget (t.core k).st.tiles ta) (esize (ty c.shA)) x y =
              (convert (fmtOfR18 (ty c.shB)) (fmtOfR18 (ty c.shA)) (elem (vget st.tiles tb) (esize (ty c.shB)) x y) rm.toNat true
                (if rm = 2 then (mix64 m.srkey (m.srctr + BitVec.ofNat 64 (x * cols c.shA + y))).toNat % 2 ^ 32 else 0)).1
                % 256 ^ esize (ty c.shA)) ∧
        (∀ l ta g, c.i = .tld l ta g → c.places = [] → c.g.toNat / 2 ^ 40 = 9 * 2 ^ 20 → wide c.shA ≤ 64 →
          c.g.toNat % 2 ^ 40 + 64 * rows c.shA ≤ 2 ^ 40 → c.g.toNat % 64 = 0 → st.bad = [] →
          acts fun t => fin t ∧ keeps t ∧ tile t ta (fun b => if b / 64 < rows c.shA ∧ b % 64 < wide c.shA then
            st.bufA.read (c.g.toNat % 2 ^ 40 + b) else 0)) ∧
        (∀ l ta g, c.i = .tst l ta g → c.places = [] → c.g.toNat / 2 ^ 40 = 9 * 2 ^ 20 → wide c.shA ≤ 64 →
          c.g.toNat % 2 ^ 40 + 64 * rows c.shA ≤ 2 ^ 40 → c.g.toNat % 64 = 0 → st.bufA.wf →
          acts fun t => fin t ∧ keeps t ∧ (t.core k).st = { st with bufA := (t.core k).st.bufA, bad := (t.core k).st.bad } ∧
            ∀ b, (t.core k).st.bufA.read b = (let o := b - c.g.toNat % 2 ^ 40
              if c.g.toNat % 2 ^ 40 ≤ b ∧ o / 64 < rows c.shA ∧ o % 64 < wide c.shA then (vget st.tiles ta).read o else st.bufA.read b)) ∧
        (∀ l ta, c.i = .tqld l ta → wide c.shA ≤ 64 → acts fun t => fin t ∧ keeps t ∧ (t.core k).st.qam = st.qam.drop (rows c.shA) ∧
          tile t ta (fun b => if b / 64 < rows c.shA ∧ b % 64 < wide c.shA then
            BitVec.ofNat 8 (Line.part (st.qam.getD (b / 64) 0) 1 (b % 64)) else 0)) ∧
        (∀ l g acc, c.i = .hmrd l g acc → g ≠ 0 → g.val % 2 = 0 → acts fun t => fin t ∧ (t.core k).st = st ∧
          (t.core k).clu .m = { m with g := ((t.core k).clu .m).g } ∧
          ∀ r, vget ((t.core k).clu .m).g r = if r = g then (vget st.hall (Fin.ofNat 48 acc.toNat)).1
            else if r = g + 1 then (vget st.hall (Fin.ofNat 48 acc.toNat)).2 else vget m.g r) ∧
        (∀ l acc, c.i = .hmclr l acc → acc.toNat < 48 → acts fun t => fin t ∧ keeps t ∧
          (t.core k).st = { st with hall := (t.core k).st.hall } ∧ ∀ h, vget (t.core k).st.hall h =
            if h.val = acc.toNat then (0xFFFF_FFFF_FFFF_FFFF#64, 0xFFFF_FFFF_FFFF_FFFF#64) else vget st.hall h) ∧
        (∀ acc ta tb (scales : List Byte), c.groups = 0 → st.bufC.wf →
          (∃ l, c.i = .tmma l acc ta tb ∧ scales = []) ∨ (∃ l g, c.i = .tmmas l acc ta tb g ∧
            scales = st.bufS.readList (32 * c.g.toNat) (64 * (64 / esize (c.fmt.toNat / 2 ^ 28) / 32))) →
          let r := mmaWords c.fmt (vget st.tiles ta) (vget st.tiles tb) c.shA c.shB scales (st.accWords acc) 0 (groupCount c.fmt)
          acts fun t => keeps t ∧
            (done t fun q => q.phase = .uncompared ∧ q.words = st.accWords acc ∧ q.scales = scales ∧ q.flags = r.2 ∧
              q.foldP = foldWords (upsetWords r.1 uP) ∧ q.foldS = foldWords (upsetWords r.1 uS)) ∧
            (t.core k).st.accWords acc = upsetWords r.1 uP ∧
            ∀ b, b < 4096 * acc.toNat ∨ 4096 * acc.toNat + 4096 ≤ b → (t.core k).st.bufC.read b = st.bufC.read b) ∧
        (∀ l g acc kk, (c.i = .tdrain l g acc ∨ c.i = .tdrainadd l g acc kk) → acts fun t => (t.core k).st = st ∧
          (done t fun q => q.phase = .held ∧ q.words = st.accWords acc ∧ q.key = m.srkey ∧ q.ctr = m.srctr) ∧
          (t.core k).clu .m = { m with srctr := if c.fmt.toNat / 2 ^ 20 % 4 = 2 then m.srctr + 1024 else m.srctr }))) ∧
  -- the 1,024 words of the group sequence, group by group, and the flags of the command
  ∀ (w : Word32) (ta tb : Memory) (shA shB : Word) (scales : List Byte) (base : List Word32), base.length = 1024 →
    mmaWord w false = .hard ∨ mmaWord w true = .hard →
    let a := w.toNat / 2 ^ 28
    let b := w.toNat / 2 ^ 24 % 16
    let e := if a = 5 ∨ a = 6 then 2 else 1
    let n := if a = 3 ∨ a = 4 then 64 else if e = 2 then 8 else 16
    let F := if e = 2 then 32 else 18
    let groups := 64 / e / n
    let pairs (g x : Nat) : List (Nat × Nat) := (List.range n).map fun i =>
      (ta.readLe (64 * (x / 32) + e * (g * n + i)) e, tb.readLe (64 * (x % 32) + e * (g * n + i)) e)
    let scale (g x : Nat) : Option ℤ :=
      let EA := (scales.getD (64 * (g * n / 32) + x / 32) 0).toNat
      let EB := (scales.getD (64 * (g * n / 32) + 32 + x % 32) 0).toNat
      if scales = [] ∨ shA.toNat % 64 ≤ x / 32 ∨ shB.toNat % 64 ≤ x % 32 then some 0
      else if EA = 255 ∨ EB = 255 then none else some ((EA : ℤ) - 127 + ((EB : ℤ) - 127))
    let enters (g x c r : Nat) (fl : BitVec 8) : Prop :=
      if a = 3 then Int8RowEnters (w.toNat / 2 ^ 22 % 4) (pairs g x) c r fl
      else if a = 4 then Log6RowEnters (pairs g x) c r fl
      else ∀ u ∈ floatRows, ∀ v ∈ floatRows, fmtOfR18 a = .float u.f → fmtOfR18 b = .float v.f →
        GroupEnters u v F (pairs g x) (scale g x) c r fl
    let res := mmaWords w ta tb shA shB scales base 0 (groupCount w)
    ∃ (word : Nat → Nat → Nat) (fl : Nat → Nat → BitVec 8),
      (∀ x, x < 1024 → word 0 x = (base.getD x 0).toNat) ∧
      (∀ g x, g < groups → x < 1024 → word (g + 1) x < 2 ^ 32 ∧ enters g x (word g x) (word (g + 1) x) (fl g x)) ∧
      res.1 = (List.range 1024).map (fun x => BitVec.ofNat 32 (word groups x)) ∧
      ∀ i, res.2.getLsbD i = true ↔ (∃ g x, g < groups ∧ x < 1024 ∧ (fl g x).getLsbD i = true) ∨
        i = 3 ∧ a = 4 ∧ ∃ j k, j < 32 ∧ k < 64 ∧ (64 ≤ (ta.read (64 * j + k)).toNat ∨ 64 ≤ (tb.read (64 * j + k)).toNat)

/-- Folds that agree certify a command; otherwise the assay stands for the engine that agrees with it or restores; the
locket writes or discards drains (R113, R158, R159, R171, R321, R322, R323, R325, R326, R327, R334). A comparison
writes the hallmark pair; equal folds certify the command (flags set, to be finished), different ones leave a
mismatch. One assay runs at a time, in the order of the mismatches. Its verdict: the fold of its words equals the
primary's (1: the accumulator stands), else the shadow's (2: its words are written and the held drains behind the
command take them), else operand corruption (3: the words before the command come back, held drains go, the task is
terminated). DPSTAT records verdict, kind, accumulator and tick. The oldest releasable drain of an accumulator whose
lines are ready is written with its converted bytes when both converters agree; else it waits for the assay in its
turn, which writes the correct bytes, or nothing when all three disagree. A finished command leaves, posts its tokens
and sets its flags. Events that may not happen change nothing. A fold is that of R321, each word's bytes least
significant first. Which accumulator's drain is released first is free, but that drains to UC memory keep their order
(log 101, the model's choice). -/
def Obligations.ComparisonAssayAndLocketCertifyResults : Prop :=
  -- fold64, word by word (R321)
  (let shift (h : Word) : Word := if h.getLsbD 63 then (h <<< 1) ^^^ 0x1B#64 else h <<< 1
   let byte (h : Word) (b : Word32) : Word := shift^[8] (h ^^^ ((b &&& 0xFF#32).setWidth 64 <<< 56))
   foldWords [] = 0xFFFF_FFFF_FFFF_FFFF#64 ∧
     (∀ (ws : List Word32) (w : Word32), foldWords (ws ++ [w]) = byte (byte (byte (byte (foldWords ws) w) (w >>> 8)) (w >>> 16)) (w >>> 24)) ∧
     foldWords [0] = 0xFFFF_FFF6_0000_0009#64 ∧ foldWords [0x80] = 0xFFFF_FFFB_8000_0009#64) ∧
  ∀ (s : State) (k : Fin 768) (acc : BitVec 6) (up uP uS : Upset),
    let u := s.at_ k .m
    let st := (s.core k).st
    let en := (s.core k).en
    let rg := (s.core k).rg
    let aflags (t : State) (f : BitVec 8) : Prop := (t.core k).rg.aflags = rg.aflags ||| f.setWidth 64
    let dpstat (t : State) (verd kind : Nat) (a : BitVec 6) : Prop := (t.core k).rg.dpstat =
      BitVec.ofNat 64 (2 ^ 63 + verd * 2 ^ 60 + kind * 2 ^ 58 + a.toNat * 2 ^ 48 + s.cadence.toNat % 2 ^ 48)
    (s.running k = false → Idles (.hallmarkCompare k acc) s ∧ Idles (.assayStart k) s ∧ Idles (.assayVerdict k up) s ∧
      Idles (.locketRelease k acc uP uS) s ∧ Idles (.matrixCommandFinish k) s) ∧
    ((∀ q ∈ en.mrun, ¬ (q.phase = .uncompared ∧ q.cmd.acc = acc)) → Idles (.hallmarkCompare k acc) s) ∧
    (((∃ q ∈ en.mrun, q.phase = .assay) ∨ (∀ q ∈ en.mrun, q.phase ≠ .mismatch) ∨ en.assays = []) → Idles (.assayStart k) s) ∧
    ((∀ q ∈ en.mrun, q.phase ≠ .assay) → Idles (.assayVerdict k up) s) ∧
    ((∀ q ∈ en.mrun, ¬ (q.phase = .held ∧ q.cmd.acc = acc)) → Idles (.locketRelease k acc uP uS) s) ∧
    ((∀ q ∈ en.mrun, q.phase ≠ .done) → Idles (.matrixCommandFinish k) s) ∧
    ∀ pre r post, en.mrun = pre ++ r :: post → s.running k = true →
      (r.phase = .uncompared → r.cmd.acc = acc → (∀ q ∈ pre, ¬ (q.phase = .uncompared ∧ q.cmd.acc = acc)) → acc.toNat < 48 →
        Happens (.hallmarkCompare k acc) s k .m fun t => sameButCore s t k ∧ (t.core k).cl = (s.core k).cl ∧
          (t.core k).st = { st with hall := vset st.hall (Fin.ofNat 48 acc.toNat) (r.foldP, r.foldS) } ∧
          (r.foldP = r.foldS → (t.core k).en.mrun = pre ++ { r with phase := .done, flags := 0 } :: post ∧ aflags t r.flags) ∧
          (r.foldP ≠ r.foldS → (t.core k).en.mrun = pre ++ { r with phase := .mismatch } :: post ∧ aflags t 0 ∧
            (t.core k).en.assays = en.assays ++ [r.cmd.order])) ∧
      (∀ rest, r.phase = .mismatch → en.assays = r.cmd.order :: rest → (∀ q ∈ pre, ¬ (q.phase = .mismatch ∧ q.cmd.order = r.cmd.order)) →
        (∀ q ∈ en.mrun, q.phase ≠ .assay) → Happens (.assayStart k) s k .m fun t => sameButCore s t k ∧
          t.core k = { s.core k with en := { en with mrun := pre ++ { r with phase := .assay } :: post, assays := rest } }) ∧
      (r.phase = .assay → r.cmd.isDrain = false → (∀ q ∈ pre, q.phase ≠ .assay) → st.bufC.wf → r.words.length = 1024 →
        let clean : List Word32 := match r.cmd.tiles with
          | [ta, tb] => (mmaWords r.cmd.fmt (vget st.tiles ta) (vget st.tiles tb) r.cmd.shA r.cmd.shB r.scales r.words r.cmd.groups (groupCount r.cmd.fmt - r.cmd.groups)).1
          | _ => r.words
        let ws := upsetWords clean up
        (foldWords ws = r.foldP → Happens (.assayVerdict k up) s k .m fun t => (t.core k).st = st ∧ dpstat t 1 0 r.cmd.acc ∧
          aflags t r.flags ∧ (t.core k).en.mrun = pre ++ { r with phase := .done, flags := 0 } :: post) ∧
        (foldWords ws ≠ r.foldP → foldWords ws = r.foldS → Happens (.assayVerdict k up) s k .m fun t => dpstat t 2 0 r.cmd.acc ∧
          aflags t r.flags ∧ (t.core k).st.accWords r.cmd.acc = ws ∧
          (t.core k).st = { st with bufC := (t.core k).st.bufC, bad := (t.core k).st.bad } ∧
          (t.core k).en.mrun = pre ++ { r with phase := .done, flags := 0 } ::
            post.map fun q => if q.isHeld = true ∧ q.cmd.acc = r.cmd.acc then { q with words := ws } else q) ∧
        (foldWords ws ≠ r.foldP → foldWords ws ≠ r.foldS → Happens (.assayVerdict k up) s k .m fun t => dpstat t 3 0 r.cmd.acc ∧
          (t.core k).term ≠ none ∧ (t.core k).st.accWords r.cmd.acc = r.words ∧ t.cfence k = true ∧
          (t.core k).en.mrun = (pre ++ post).filter fun q => !q.isHeld)) ∧
      (r.phase = .held → r.cmd.acc = acc → (∀ q ∈ pre, ¬ (releasable en.mrun q = true ∧ q.cmd.acc = acc)) → releasable en.mrun r = true →
        let ready : Prop := ∀ p ∈ r.cmd.spots, u.lineReady p = true
        let d := drainBytes r.cmd.fmt r.key r.ctr r.words
        let fold (x : Upset) : Word := foldWords (upsetWords (bytesWords d.1) x)
        (¬ ready → fold uP = fold uS → Idles (.locketRelease k acc uP uS) s) ∧
        (∀ l g a, ready → r.cmd.i = .tdrain l g a → fold uP = fold uS → r.words.length = 1024 → r.cmd.places = [] → r.cmd.g.toNat / 2 ^ 40 = 9 * 2 ^ 20 →
          r.cmd.g.toNat % 64 = 0 → r.cmd.g.toNat % 2 ^ 40 + d.1.length ≤ 2 ^ 40 → st.bufA.wf →
          Happens (.locketRelease k acc uP uS) s k .m fun t => sameButCore s t k ∧ (t.core k).cl = (s.core k).cl ∧ aflags t d.2 ∧
            (t.core k).st = { st with bufA := (t.core k).st.bufA, bad := (t.core k).st.bad } ∧
            (∀ b, (t.core k).st.bufA.read b = (let o := b - r.cmd.g.toNat % 2 ^ 40
              if r.cmd.g.toNat % 2 ^ 40 ≤ b ∧ o < d.1.length then (wordsBytes (upsetWords (bytesWords d.1) uP)).getD o 0 else st.bufA.read b)) ∧
            ∃ q, (t.core k).en.mrun = pre ++ post ++ [q] ∧ q.phase = .done ∧ q.cmd = r.cmd) ∧
        (fold uP ≠ fold uS → Happens (.locketRelease k acc uP uS) s k .m fun t => sameButCore s t k ∧ t.core k = { s.core k with
          en := { en with mrun := pre ++ { r with phase := .mismatch, foldP := fold uP, foldS := fold uS } :: post
                          assays := en.assays ++ [r.cmd.order] } })) ∧
      (r.phase = .assay → r.cmd.isDrain = true → (∀ q ∈ pre, q.phase ≠ .assay) →
        let d := drainBytes r.cmd.fmt r.key r.ctr r.words
        let ws := upsetWords (bytesWords d.1) up
        let ready : Prop := ∀ p ∈ r.cmd.spots, u.lineReady p = true
        (foldWords ws ≠ r.foldP → foldWords ws ≠ r.foldS → Happens (.assayVerdict k up) s k .m fun t =>
          dpstat t 3 2 r.cmd.acc ∧ (t.core k).term ≠ none ∧ (t.core k).st = st ∧
          (t.core k).en.mrun = (pre ++ post).filter fun q => !q.isHeld) ∧
        (foldWords ws = r.foldP ∨ foldWords ws = r.foldS → (¬ ready → Idles (.assayVerdict k up) s) ∧
          (∀ l g a, ready → r.cmd.i = .tdrain l g a → r.words.length = 1024 → r.cmd.places = [] → r.cmd.g.toNat / 2 ^ 40 = 9 * 2 ^ 20 →
            r.cmd.g.toNat % 64 = 0 → r.cmd.g.toNat % 2 ^ 40 + d.1.length ≤ 2 ^ 40 → st.bufA.wf →
            Happens (.assayVerdict k up) s k .m fun t => dpstat t (if foldWords ws = r.foldP then 1 else 2) 2 r.cmd.acc ∧ aflags t d.2 ∧
              ∀ b, (t.core k).st.bufA.read b = (let o := b - r.cmd.g.toNat % 2 ^ 40
                if r.cmd.g.toNat % 2 ^ 40 ≤ b ∧ o < d.1.length then (wordsBytes ws).getD o 0 else st.bufA.read b)))) ∧
      (r.phase = .done → (∀ q ∈ pre, q.phase ≠ .done) → Happens (.matrixCommandFinish k) s k .m fun t => sameButCore s t k ∧
        (t.core k).cl = (s.core k).cl ∧ (t.core k).en.mrun = pre ++ post ∧ aflags t r.flags ∧
        (t.core k).st = st.post .m (longOf r.cmd.w1.toNat).post)

/-- The issue events run a held bundle exactly as its instruction acts, when nothing holds it back, and otherwise
change nothing (R25, R45, R48, R227, R230, R232, R396). A cluster that may not issue is left alone. When its next
bundle is one instruction outside a rendezvous, STALLED_BUNDLE_ISSUE gives what that instruction's meaning gives:
nothing while it stalls, its trap, or its effect with the end of the bundle, unless the charge overdraws the allowance
(cause 0x1B). STRAND_WAIT_END, CLASP_WAIT_PASS and LATTICE_WAIT_PASS are that event for SCLAIM, SWFILL and SWFREE, for
CLWAIT, and for LDGE, and change nothing for another instruction. Concretely a NOP issues; a SWFILL with a filled bead
takes it; a CLWAIT at a clasp whose COUNT has reached EXPECT passes; an LDGE at or above its threshold writes gD; each
moves the pc past the bundle and leaves the rest of the clusters. -/
def Obligations.HeldBundlesIssueOnceTheyCan : Prop :=
  ∀ (s : State) (k : Fin 768) (x : Clu),
    let u := s.at_ k x
    let stalled : Instr := .stalledBundleIssue k x
    (u.canIssue k x = false → Idles stalled s ∧ Idles (.strandWaitEnd k x) s ∧ Idles (.claspWaitPass k x) s ∧ Idles (.latticeWaitPass k x) s) ∧
    ∀ (p : Part) (v : State) (f : Fetched), NextIs s k x p v f → (f.sync = false ∨ v.cl.inh = true) →
      let strand : Prop := ∃ st r, p.i = .sclaim st r ∨ p.i = .swfill st r ∨ p.i = .swfree st r
      let clasp : Prop := ∃ a r, p.i = .clwait a r
      let lattice : Prop := ∃ d a b, p.i = .ldge d a b
      let past (t : State) : Prop := issuedPast s t k (· = x) (fun _ => f.npc) ∧ t.cur = { core := k, clu := x } ∧
        ((t.core k).clu x).syncs = ((s.core k).clu x).syncs
      let same (t : State) : Prop := past t ∧ ((t.core k).clu x).g = ((s.core k).clu x).g ∧ (t.core k).st = (s.core k).st
      (strand → exec (.strandWaitEnd k x) s = exec stalled s) ∧ (¬ strand → Idles (.strandWaitEnd k x) s) ∧
      (clasp → exec (.claspWaitPass k x) s = exec stalled s) ∧ (¬ clasp → Idles (.claspWaitPass k x) s) ∧
      (lattice → exec (.latticeWaitPass k x) s = exec stalled s) ∧ (¬ lattice → Idles (.latticeWaitPass k x) s) ∧
      (∀ w, exec p.i (v.entering p f) = .next w →
        let c := max 1 ((v.entering p f).chargeOf p.i)
        (w.report = .stalled → Idles stalled s) ∧
        (w.report = .trapped → exec stalled s = .next { w with latch := none }) ∧
        (w.report = .issued ∨ w.report = .branched →
          (v.overdraws k c = true → exec stalled s = v.refuseBundle 0x1B 0 0 p.w0 p.w1) ∧
          (v.overdraws k c = false → exec stalled s = .next (w.endBundle v.me [p] false c)))) ∧
      (v.overdraws k 1 = false →
        (p.i = .nop → ∃ t, exec stalled s = .next t ∧ same t) ∧
        (∀ st d tk, p.i = .swfill st d → (s.core k).task = some tk →
          let e := vget tk.strands (Fin.ofNat 16 st.toNat)
          let z := u.strand k st
          (e.toNat / 2 ^ 46 % 4 = 1 ∨ e.toNat / 2 ^ 46 % 4 = 2) → z.filled ≠ z.taken → ∃ t, exec (.strandWaitEnd k x) s = .next t ∧ past t ∧
            t.strand k st = { z with taken := z.taken + 1 } ∧ (∀ o, o ≠ st → t.strand k o = s.strand k o) ∧
            ∀ r, ((t.core k).clu x).gReg r = if r = d ∧ d ≠ 0 then BitVec.ofNat 64 ((if e.getLsbD 32 then 8 else 9) * 2 ^ 60 + e.toNat % 2 ^ 19 +
              z.taken.toNat % (e.toNat / 2 ^ 33 % 128) * (64 * 2 ^ (e.toNat / 2 ^ 40 % 16))) else ((s.core k).clu x).gReg r) ∧
        (∀ a i, p.i = .clwait a 0 → ((s.core k).clu x).gReg a = BitVec.ofNat 64 i → i < 256 →
          (let c := vget (vget s.quads (quadOf k)).clasps (Fin.ofNat 256 i)
           c.expect.toNat ≤ c.count.toNat) → ∃ t, exec (.claspWaitPass k x) s = .next t ∧ same t ∧ ((t.core k).clu x).waitSince = none) ∧
        (∀ d a b tk rt r, p.i = .ldge d a b → (s.core k).task = some tk →
          let y := ((s.core k).clu x).gReg a
          let z := ((s.core k).clu x).gReg b
          let n := if r.type = 9 ∨ r.type = 10 then 4 else 8
          y.toNat / 2 ^ 60 = 2 → genForm y = true → s.regionAt tk.ctx y = some (rt, r) → y.toNat % n = 0 → u.latKeyed rt = true → s.uncoreStops (dieOf k) = false →
          u.latLost rt r (dieOf k) y = false → atOrAbove r.type (u.latLoad rt r y n) (z.toNat % 256 ^ n) = true → ∃ t, exec (.latticeWaitPass k x) s = .next t ∧ past t ∧
            (t.core k).st = (s.core k).st ∧ ((t.core k).clu x).waitSince = none ∧
            ∀ q, ((t.core k).clu x).gReg q = if q = d ∧ d ≠ 0 then BitVec.ofNat 64 (u.latLoad rt r y n) else ((s.core k).clu x).gReg q))

/-- CLASP_TIMEOUT and LATTICE_TIMEOUT fault a wait older than the timeout it began with, unless it has passed or can
pass (R139, R230, R234, R343). With no wait recorded, a timeout of zero, or a wait not yet older than it, nothing
happens; nor for a bundle of another instruction, nor once the condition holds or has held, before a trap at the
bundle too. A CLWAIT whose COUNT stands below EXPECT and whose wait is older than CLTMO as it began raises the clasp-
timeout fault 0x15 precisely at its bundle; an LDGE whose cell stands below its threshold raises the lattice-timeout
fault 0x16. That the bundle is fetched again for its fault (log 32) and that a trap at the bundle keeps what has
passed (log 69) are the model's choices. -/
def Obligations.WaitsThatOutlastTheirTimeoutFault : Prop :=
  ∀ (s : State) (k : Fin 768) (x : Clu),
    let c := (s.core k).clu x
    let u := s.at_ k x
    let late : Prop := ∃ since limit, c.waitSince = some (since, limit) ∧ limit ≠ 0 ∧ since + limit.toNat < s.cadence.toNat
    ((¬ late ∨ u.canIssue k x = false) → Idles (.claspTimeout k x) s ∧ Idles (.latticeTimeout k x) s) ∧
    ∀ (p : Part) (v : State) (f : Fetched), NextIs s k x p v f → (f.sync = false ∨ v.cl.inh = true) →
      ((∀ a r, p.i ≠ .clwait a r) → Idles (.claspTimeout k x) s) ∧ ((∀ d a b, p.i ≠ .ldge d a b) → Idles (.latticeTimeout k x) s) ∧
      (∀ a rel i, p.i = .clwait a rel → claspIndex c.clb (c.gReg a) (rel == 1) = .ok i → late →
        let q := vget (vget s.quads (quadOf k)).clasps i
        let passed : Prop := (∃ j, c.claspWait = some (j, true)) ∨ (c.inh = false ∧ c.claspKept = some (f.addr, i))
        (q.count.toNat < q.expect.toNat → ¬ passed → exec (.claspTimeout k x) s = v.refuseBundle 0x15 0 0 p.w0 p.w1) ∧
        (q.expect.toNat ≤ q.count.toNat ∨ passed → Idles (.claspTimeout k x) s)) ∧
      (∀ d a b tk rt r, p.i = .ldge d a b → (s.core k).task = some tk → late → c.claspWait = none →
        let y := c.gReg a
        let n := if r.type = 9 ∨ r.type = 10 then 4 else 8
        let above := atOrAbove r.type (u.latLoad rt r y n) ((c.gReg b).toNat % 256 ^ n)
        y.toNat / 2 ^ 60 = 2 → genForm y = true → s.regionAt tk.ctx y = some (rt, r) → y.toNat % n = 0 → u.latKeyed rt = true → s.uncoreStops (dieOf k) = false →
        u.latLost rt r (dieOf k) y = false →
        (above = false → exec (.latticeTimeout k x) s = v.refuseBundle 0x16 0 0 p.w0 p.w1) ∧
        (above = true → Idles (.latticeTimeout k x) s))

/-- A stamped bundle issues at or after its tick or misses its schedule; rendezvous, trap delivery, handler timeout
and grants act as given (R48, R174, R175, R176, R263, R345, R348, R395). STAMPED_ISSUE is the issue of a stamped
bundle; a TZERO at or after its tick, not late, with no command queued, starts at once. SCHEDULE_MISS changes nothing
without a stamp whose guard is true, nor unless the bundle misses its schedule: at its tick an absent token, no room
for a post or too few entries for a TQLD hold it, or after the tick such a hold was seen there, or the cluster came to
the bundle late without its own earlier commands holding it at the tick. Then it faults with 0x10 and no effect under
LATE = 0, and under LATE = 1 issues, once it can, and adds one to LCOUNT. SYNC_RENDEZVOUS does nothing until every
live cluster stands at its sync bundle; where each of them can issue alone, and all can one after another in some
order, all issue in such an order; the first that traps alone traps as it does alone. TRAP_DELIVERY delivers a
cluster's oldest pending trap outside a handler, unless a save is under way. HANDLER_TIMEOUT terminates with cause
0x22 a task in a handler more than HTMO ticks after a save request. POWER_GRANT grants the head request within budget,
thermal and current limits, and else sets the reason's THR bit and keeps it waiting. What a stamp counts as its miss
(log 26), the places in the power queue (log 49), when a rendezvous is tried and its order (log 93) and a boundary
trap that waits for its handler's return (log 96) are the model's choices. -/
def Obligations.StampsRendezvousAndGrantsActOnTime : Prop :=
  ∀ (s : State) (k : Fin 768),
    (∀ (p : Part) (v : State) (f : Fetched), NextIs s k .m p v f → (f.sync = false ∨ v.cl.inh = true) →
      let l := longOf p.w1
      let c := (s.core k).clu .m
      let st := (s.core k).st
      let stamped : Prop := 0x36 ≤ p.w0 / 2 ^ 26 % 64 ∧ l.stamp ≠ 0
      let tick : Word := st.stampb + l.stamp.setWidth 64
      let calm : Prop := s.ir.upsetP = [] ∧ s.ir.upsetS = []
      let held : Prop := v.setsReady l = false ∨ ∃ ta, p.i = .tqld l ta ∧ st.qam.length < (vget st.tsh ta).toNat % 2 ^ 6
      let missed : Prop := if s.cadence = tick then held else tick < s.cadence ∧ c.stampSeen.getD (!c.holdCovers tick.toNat) = true
      (stamped → calm → exec (.stampedIssue ⟨k, [], []⟩) s = exec (.stalledBundleIssue k .m) s) ∧
      (¬ stamped → ∀ uP uS, Idles (.stampedIssue ⟨k, uP, uS⟩) s) ∧
      ((¬ stamped ∨ c.pReg l.guard = false ∨ ¬ missed) → Idles (.scheduleMiss k) s) ∧
      (stamped → c.pReg l.guard = true →
        (missed → st.stampc.getLsbD 0 = false → exec (.scheduleMiss k) s = v.refuseBundle 0x10 0 0 p.w0 p.w1) ∧
        (missed → s.cadence ≠ tick → st.stampc.getLsbD 0 = true → calm → (s.core k).en.emul = none →
          ∀ t, exec (.stampedIssue ⟨k, [], []⟩) s = .next t → t.report = .issued → exec (.scheduleMiss k) s = .next t ∧
            (t.core k).st.stampc.toNat % 2 ^ 32 = st.stampc.toNat % 2 ^ 32 ∧
            (t.core k).st.stampc.toNat / 2 ^ 32 = min (st.stampc.toNat / 2 ^ 32 + 1) (2 ^ 32 - 1)) ∧
        (∀ ta uP uS, p.i = .tzero l ta → ¬ s.cadence < tick → ¬ missed → v.setsReady l = true → (s.core k).en.mq = [] →
          (s.core k).en.emul = none → v.overdraws k 1 = false → (s.core k).tileLocked ta = false →
          ∃ t, exec (.stampedIssue ⟨k, uP, uS⟩) s = .next t ∧ issuedPast s t k (· = .m) (fun _ => f.npc) ∧
            (∀ b, (vget (t.core k).st.tiles ta).read b = 0) ∧ (∀ r, r ≠ ta → vget (t.core k).st.tiles r = vget st.tiles r) ∧
            (t.core k).st = { st.took .m l with tiles := (t.core k).st.tiles } ∧
            (∃ r, (t.core k).en.mrun = (s.core k).en.mrun ++ [r] ∧ r.phase = .done ∧ r.cmd.i = p.i) ∧ (t.core k).en.mq = []))) ∧
    (let live (x : Clu) : Prop := ((s.core k).clu x).ended = false
     (((∀ x, ¬ live x) ∨ ∃ x, live x ∧ s.syncNext k x = false) → Idles (.syncRendezvous k) s) ∧
     (∀ (p : Clu → Part) (v : Clu → State) (f : Clu → Fetched), (∃ x, live x) →
       (∀ x, live x → NextIs s k x (p x) (v x) (f x) ∧ (f x).sync = true ∧ (v x).cl.inh = false ∧ (p x).i = .nop ∧ (v x).overdraws k 4 = false) →
       ∃ t, exec (.syncRendezvous k) s = .next t ∧ issuedPast s t k live (fun x => (f x).npc) ∧ (t.core k).st = (s.core k).st ∧
         ∀ x, live x → ((t.core k).clu x).syncs = ((s.core k).clu x).syncs + 1 ∧ ((t.core k).clu x).g = ((s.core k).clu x).g) ∧
     -- any sync bundles: issued together, in an order in which each can
     (∀ (ps : Clu → List Part) (f : Clu → Fetched), (∃ x, live x) →
       (∀ x, live x → s.syncNext k x = true ∧ (∃ v, (s.at_ k x).nextBundle = .ok (v, f x)) ∧ decodeBundle x (f x) = .ok (ps x)) →
       let met := s.onCore k Core.meetClocks
       let all := [Clu.a, .v, .m, .c].filter fun x => !((s.core k).clu x).ended
       let alone (x : Clu) : Prop := ∃ w, met.tryBundle issueInstr k x true = .next w ∧ (w.report = .issued ∨ w.report = .branched)
       let turn (t : State) (x : Clu) : Option State :=
         match ((t.at_ k x).onCl fun c => { c with pc := (f x).addr, pcReg := false }).execBundle issueInstr (f x) (ps x) true with
         | .next w => if w.report = .issued ∨ w.report = .branched then some w else none
         | _ => none
       ((∀ x ∈ all, alone x) → (∃ l : List Clu, l.Perm all ∧ (l.foldlM turn met).isSome) →
         ∃ (l : List Clu) (t : State), l.Perm all ∧ l.foldlM turn met = some t ∧ exec (.syncRendezvous k) s = .next { t with report := .issued }) ∧
       (∀ pre x post w w', all = pre ++ x :: post → (∀ y ∈ pre, alone y) → met.tryBundle issueInstr k x true = .next w' →
         s.tryBundle issueInstr k x true = .next w → w'.report = .trapped → w.report = .trapped → exec (.syncRendezvous k) s = .next w))) ∧
    (∀ x,
      let c := s.core k
      let ready : Prop := c.task.isSome ∧ c.term = none ∧ c.restoring = false ∧ (c.clu x).inh = false ∧ c.save = none ∧ s.running k = true
      ((¬ ready ∨ ∀ e ∈ c.pend, e.1 ≠ x) → Idles (.trapDelivery k x) s) ∧
      (∀ pre tr post, ready → c.pend = pre ++ (x, tr) :: post → (∀ e ∈ pre, e.1 ≠ x) → exec (.trapDelivery k x) s =
        .next { ((s.setCore k { c with pend := pre ++ post }).deliver k x tr (s.pcOf k x)) with report := .trapped }) ∧
      ((c.save = none ∨ (c.clu x).inh = false ∨ c.term ≠ none) → Idles (.handlerTimeout k x) s) ∧
      (∀ r, c.save = some r → (c.clu x).inh = true → c.term = none →
        (s.cadence.toNat ≤ r.tick + (s.dev 0x821).toNat % 2 ^ 32 → Idles (.handlerTimeout k x) s) ∧
        (r.tick + (s.dev 0x821).toNat % 2 ^ 32 < s.cadence.toNat → ∃ t q, exec (.handlerTimeout k x) s = .next t ∧ t.report = .trapped ∧
          (t.core k).term = some q ∧ q.cause.toNat = (cluCode x).val * 2 ^ 28 + 2 ^ 15 + 0x22 ∧ q.killed = false ∧
          ((t.core k).clu x).tcause = q.cause ∧ sameButTrapped s t k x))) ∧
    (∀ (d : Fin 8) (th cur : Bool),
      let q := (vget s.plat.dies d).waiting
      let i := islandOf k
      let isl := vget s.plat.islands i
      (q = [] → Idles (.powerGrant d th cur) s) ∧
      (∀ rest by_ l, q = { core := k, by_ := by_, level := l } :: rest →
        let budget : Prop := (s.dev (0xF50 + d.val)).toNat / 2 ^ 32 % 2 ^ 16 + s.contribution k < s.granted d + l.toNat
        let hot : Prop := isl.thr.getLsbD 0 = true ∨ th = false
        let refused (b : Nat) : Prop := Occurs (.powerGrant d th cur) s fun t => (vget t.plat.islands i).thr = isl.thr ||| BitVec.ofNat 5 (2 ^ b) ∧
          (vget t.plat.dies d).waiting = q ∧ (t.core k).rg = (s.core k).rg
        (budget → refused 1) ∧ (¬ budget → hot → refused 0) ∧ (¬ budget → ¬ hot → cur = false → refused 4) ∧
        (¬ budget → ¬ hot → cur = true → dieOf k = d → Occurs (.powerGrant d th cur) s fun t => sameMemory s t ∧ t.plat.islands = s.plat.islands ∧
          t.core k = { s.core k with rg := { (s.core k).rg with pwrlvl := l, pwrGot := by_.toList ++ (s.core k).rg.pwrGot } } ∧ (∀ j, j ≠ k → t.core j = s.core j) ∧
          (vget t.plat.dies d).waiting = rest.filter (fun r => !(r.core == k && r.by_ == by_)) ∧ ∀ e, e ≠ d → vget t.plat.dies e = vget s.plat.dies e)))

/-- WALKER_PLACE starts the next ordinal of the waiting head on an eligible core, as R13 and R33 give, or places a
saved task (R13, R32, R33, R37, R251, R252, R253, R255, R257, R355). Nothing happens with no launch and no saved task.
With one launch waiting, without GANG and CORES, its lowest unplaced ordinal starts on a core that is unfenced, in the
queue's mask, free, alone or among tasks of its launch in its quad, and on the die of its D index; each such core is a
possible choice (notes/assumptions/17.md); with none, and outside class 0, nothing happens. The task starts with its
entries, identity and indices in registers, its seed and counters, and every other register, buffer, queue and engine
as R33 leaves it; the pointer of the class moves past the queue. A saved task of the one launch is placed with its
saved registers, its buffers within its footprints, and awaits its restore. Whatever the walker places, no task that
holds a core is touched but to end with lost capacity, to lose cached lines and page registers of a page that a status
word revives, or to be asked to save: of classes 1 to 3 with reason 1, and with reason 5 where a task of its launch is
so asked. The indices of an ordinal are its digits in the extents of the spatial levels. How many units one turn
places (log 84), the reason 5 of a gang's other members (log 66) and lost capacity ending launches of both kinds (log
46) are the model's choices. -/
def Obligations.WalkerPlacesOneUnitAtATime : Prop :=
  (∀ (s : State) (choice : Nat), s.sch.launches = [] → s.sch.saved = [] → Idles (.walkerPlace choice) s) ∧
  (∀ (l : Launch) (ord : Nat), ord < l.count →
    (l.indices ord).length = l.levels.length ∧ (∀ e ∈ l.levels.zip (l.indices ord), e.1.1 ≠ 1 → e.2 < e.1.2) ∧
    (l.levels.zip (l.indices ord)).foldl (fun o e => if e.1.1 = 1 then o else o * e.1.2 + e.2) 0 = ord) ∧
  (∀ (s : State) (choice : Nat) (t : State), exec (.walkerPlace choice) s = .next t → ∀ k tk, (s.core k).task = some tk →
    t.core k = { s.core k with save := (t.core k).save, term := (t.core k).term, en := (t.core k).en } ∧
    (t.core k).en = { (s.core k).en with l1 := (t.core k).en.l1, chans := (t.core k).en.chans } ∧
    ((t.core k).save = (s.core k).save ∨ (8 ≤ tk.queue.val ∧ (t.core k).save = some { reason := 1, tick := s.cadence.toNat }) ∨
      ((t.core k).save = some { reason := 5, tick := s.cadence.toNat } ∧ ∃ j tj, (s.core j).task = some tj ∧ tj.lid = tk.lid ∧ 8 ≤ tj.queue.val))) ∧
  ∀ (s : State) (l : Launch) (slot : Nat), s.sch.launches = [l] → l.state = .running → l.preds = [] → l.gang = false → l.coRes = false →
    s.slotOf l.ctx = some slot → 0 < s.capacity l.queue false →
    let quad (k : Fin 768) (f : Fin 768 → Prop) : Prop := ∀ j, j.val / 4 = k.val / 4 → f j
    let eligible (k : Fin 768) : Prop := s.fenced k = false ∧ s.quadAllowed l.queue (quadOf k) = true ∧ (s.core k).task = none ∧
      ¬ ((vget s.quads (quadOf k)).gang = true ∧ (vget s.quads (quadOf k)).lid.isSome) ∧
      quad k (fun j => (∀ w ∈ (s.core j).en.mc, w.receiver ≠ k) ∧ ∀ tk, (s.core j).task = some tk → tk.lid = l.lid)
    let frame (t : State) (k : Fin 768) : Prop := t.ms = s.ms ∧ t.regs = s.regs ∧ t.lat = s.lat ∧ t.cadence = s.cadence ∧ t.agenda = s.agenda ∧
      (∀ j, j ≠ k → t.core j = s.core j) ∧ (∀ u, u ≠ quadOf k → vget t.quads u = vget s.quads u)
    (s.sch.saved = [] → l.next < l.count →
      (8 ≤ l.queue.val → (∀ k, eligible k → s.dieOk l l.next (dieOf k) = false) → ∀ choice, Idles (.walkerPlace choice) s) ∧
      (let placed (t : State) (k : Fin 768) : Prop :=
        let c := t.core k
        frame t k ∧ t.plat = s.plat ∧ t.sch = { s.sch with
          launches := [{ l with next := l.next + 1, passed := 0 }], starts := s.sch.starts + 1
          pointer := vset s.sch.pointer (Fin.ofNat 4 (l.queue.val / 8)) ((l.queue.val + 1) % 8) } ∧
        c.task = some { lid := l.lid, ordinal := l.next, ctx := l.ctx, slot := slot, queue := l.queue, flags := l.flags.setWidth 4,
                        footW := l.footW, footA := l.footA, footC := l.footC, footS := l.footS, strands := l.strands, start := s.sch.starts } ∧
        c.st = Storage.reset ∧ c.en = Engines.reset ∧ c.exit = none ∧ c.term = none ∧ c.save = none ∧ c.pend = [] ∧ c.restoring = false ∧
        c.rg.aflags = 0 ∧ c.rg.pwrlvl = 0 ∧ (∀ i, vget c.rg.pmc i = 0) ∧
        (∀ x, let u := c.clu x
          u.pc = vget l.entries (cluCode x) ∧ (∀ r, u.gReg r = if r.val = 25 then BitVec.ofNat 64 (l.lid.toNat * 2 ^ 48 + l.next)
            else if 26 ≤ r.val then BitVec.ofNat 64 ((l.indices l.next).getD (r.val - 26) 0) else 0) ∧
          (∀ q, q ≠ 0 → u.pReg q = false) ∧ (∀ i, vget u.lpc i = 0) ∧ u.clb = 0 ∧ u.lgtmo = l.lgtmo ∧ u.cltmo = l.cltmo ∧
          u.priv = decide (l.ctx = 0) ∧ u.inh = false ∧ u.ended = false ∧ u.halted = false ∧ u.stopped = false ∧ u.idle = false ∧
          u.srkey = (if x = .v ∨ x = .m then l.seed else 0) ∧
          u.srctr = (if x = .v then BitVec.ofNat 64 (l.next * 2 ^ 32 + 2 ^ 31) else if x = .m then BitVec.ofNat 64 (l.next * 2 ^ 32) else 0)) ∧
        (vget t.quads (quadOf k)).lid = some l.lid ∧ ((vget s.quads (quadOf k)).lid ≠ some l.lid → ∀ i,
          vget (vget t.quads (quadOf k)).clasps i = { count := 0, expect := 0 })
       ((∃ k, eligible k ∧ s.dieOk l l.next (dieOf k) = true) → ∀ choice, Occurs (.walkerPlace choice) s fun t =>
         ∃ k, eligible k ∧ s.dieOk l l.next (dieOf k) = true ∧ placed t k) ∧
       (∀ k, eligible k → s.dieOk l l.next (dieOf k) = true → ∃ choice, Occurs (.walkerPlace choice) s fun t => placed t k))) ∧
    (∀ v, s.sch.saved = [v] → v.lid = l.lid → v.ready = true → v.placed = false → v.gang = false → (∃ k, eligible k) →
      ∀ choice, Occurs (.walkerPlace choice) s fun t => ∃ k, eligible k ∧ frame t k ∧ (t.core k).task = v.core.task ∧ (t.core k).st = v.core.st.within v.core.task ∧
        (t.core k).en = { v.core.en with l1 := [] } ∧ (t.core k).restoring = true ∧ (t.core k).pend = v.core.pend ∧ t.sch.saved = [{ v with placed := true, passed := 0 }] ∧
        (∀ x, ((t.core k).clu x).g = (v.core.clu x).g ∧ ((t.core k).clu x).p = (v.core.clu x).p ∧ ((t.core k).clu x).pc = (v.core.clu x).pc) ∧
        (t.core k).rg.pwrlvl = 0 ∧ (t.core k).rg.pwrGot = [] ∧ (v.core.rg.pwrlvl = 0 → t.plat = s.plat) ∧
        (v.core.rg.pwrlvl ≠ 0 → { core := k, by_ := none, level := v.core.rg.pwrlvl } ∈ (vget t.plat.dies (dieOf k)).waiting))

/-- TASK_RETIRE, SAVE_COMPLETE, RESTORE_ISSUE_START and LAUNCH_COMPLETE end what has settled, and change nothing
before (R241, R242, R249, R250, R264, R265, R327, R350, R351, R353, R355, R358). A fenced core's notice follows when
its task has left. A terminating task leaves its core once its matrix commands, multicasts and pieces have settled,
counted as terminated with its ordinal and cause kept where it is the lowest. An exiting task without DET whose
engines have settled retires with the status word of R241, ORed into the launch, or under DET faults with what it
would discard; in a handler or with traps pending it waits. A requested save of a task outside a gang completes in the
first free slot when it is ready, recording the task; no free slot waits; a word of a slot that does not translate is
written nowhere and read back as a free value (the model's choice, log 86). A restore outside a gang begins issue once
its power is granted, with the registers read back from its slot, which it frees; a pending trap of the slot is
delivered, and a lost word of it or of a replica is the machine check 0x21 (log 115). None of these happens while the
core's island is stopped. A settled launch leaves with its outcome word in the history, tells its successors, writes
its status area, and ends bring-up if it is the boot task's. -/
def Obligations.TasksRetireSaveRestoreAndLaunchesComplete : Prop :=
  (∀ (s : State) (k : Fin 768),
    let c := s.core k
    let gone (t : State) : Prop := (t.core k).task = none ∧ (t.core k).st = Storage.reset ∧ (t.core k).en = Engines.reset ∧
      (t.core k).exit = none ∧ (t.core k).term = none ∧ (t.core k).pend = [] ∧ (∀ j, j ≠ k → t.core j = s.core j) ∧ t.regs = s.regs ∧ t.lat = s.lat
    let quiet : Prop := k.val ∉ s.plat.fenceDue
    let still : Prop := c.en.mc = [] ∧ ∀ i, (vget c.en.chans i).flight = none
    ((s.running k = false ∨ c.task = none ∨ (c.term = none ∧ c.exit = none)) → Idles (.taskRetire k) s) ∧
    (∀ tk r l, s.running k = true → c.task = some tk → c.term = some r → s.launch? tk.lid = some l →
      (¬ (still ∧ (c.en.mrun = [] ∨ r.corrupt = true)) → Idles (.taskRetire k) s) ∧
      (still → c.en.mrun = [] ∨ r.corrupt = true → ¬ quiet → Occurs (.taskRetire k) s fun t => (t.core k).task = none ∧
        t.plat.fenceDue = s.plat.fenceDue.filter (· ≠ k.val) ∧ (t.plat.evHead = s.plat.evHead + 1 ∨ t.plat.evLost.toNat = min (s.plat.evLost.toNat + 1) 0xFFFF)) ∧
      (quiet → still → c.en.mrun = [] ∨ r.corrupt = true → (l.flags.getLsbD 4 = false ∨ l.status = 0) → Occurs (.taskRetire k) s fun t => gone t ∧
        sameMemory s t ∧ ∀ m ∈ t.sch.launches, m.lid = tk.lid → ∃ o ∈ s.sch.launches, o.lid = m.lid ∧ m.terminated = o.terminated + 1 ∧
          m.retired = o.retired ∧ m.next = o.count ∧ (∃ e, m.state = .ending e) ∧
          (let low : Prop := ∀ f, o.first = some f → tk.ordinal < f
           (low → m.first = some tk.ordinal ∧ m.fcause = r.cause) ∧ (¬ low → m.first = o.first ∧ m.fcause = o.fcause)))) ∧
    (∀ tk e l, s.running k = true → c.task = some tk → c.term = none → c.exit = some e → s.launch? tk.lid = some l →
      ((c.pend ≠ [] ∨ c.restoring = true ∨ c.en.emul ≠ none ∨ (∃ x, x ≠ .c ∧ (c.clu x).inh = true ∧ (c.clu x).ended = false)) → Idles (.taskRetire k) s) ∧
      (c.pend = [] → c.restoring = false → c.en.emul = none → (∀ x, x ≠ .c → (c.clu x).inh = false ∨ (c.clu x).ended = true) → still → c.en.mrun = [] → c.en.forms = [] →
        c.en.mq = [] → (∀ i, (vget c.en.chans i).cmds = []) →
        (tk.flags.getLsbD 0 = true → (e.live ≠ 0 ∨ c.st.fq ≠ [] ∨ c.st.qav ≠ [] ∨ c.st.qam ≠ [] ∨ c.st.qva ≠ [] ∨ c.st.qac ≠ [] ∨ c.st.qca ≠ []) →
          let tr : Trap := { clu := .c, cause := 0x18, detail := 0, async := false, addr := 0, info := s.exitInfo k }
          Occurs (.taskRetire k) s fun t => t = { s.deliver k .c tr (s.pcOf k .c) with report := .issued }) ∧
        (quiet → tk.flags.getLsbD 0 = false → (l.flags.getLsbD 4 = false ∨ l.status = 0) →
        let w : Word := BitVec.ofNat 64 (min e.canc 255 * 2 ^ 48 + c.rg.aflags.toNat % 16 * 2 ^ 44 + e.impl.toNat * 2 ^ 43 + e.live.toNat * 2 ^ 40 +
          c.st.fq.length * 2 ^ 35 + c.st.qca.length * 2 ^ 24 + c.st.qac.length * 2 ^ 18 + c.st.qva.length * 2 ^ 12 + c.st.qam.length * 2 ^ 6 + c.st.qav.length)
        Occurs (.taskRetire k) s fun t => gone t ∧ sameMemory s t ∧ t.sch.launches = s.sch.launches.map fun o =>
          if o.lid = tk.lid then { o with retired := o.retired + 1, orstat := o.orstat ||| w } else o))) ∧
    (∀ tk, c.task = some tk → tk.flags.getLsbD 1 = false → c.save.isSome →
      let ready : Prop := c.term = none ∧ c.restoring = false ∧ s.running k = true ∧ (∀ x, (c.clu x).inh = false) ∧ c.en.mrun = [] ∧ still ∧
        ∀ j, j.val / 4 = k.val / 4 → ∀ w ∈ (s.core j).en.mc, w.receiver ≠ k
      (¬ ready → (∀ r ∈ c.en.mrun, r.phase ≠ .uncompared) → ∀ uP uS uA, Idles (.saveComplete ⟨k, uP, uS, uA⟩) s) ∧
      (ready → (∀ n, n < (s.dev 0xC51).toNat → ∃ v ∈ s.sch.saved, v.slotN = n) → ∀ uP uS uA, Idles (.saveComplete ⟨k, uP, uS, uA⟩) s) ∧
      (∀ n r uP uS uA, quiet → ready → c.pend = [] → c.save = some r → (∀ v ∈ s.sch.saved, v.slotN ≠ n) → n < (s.dev 0xC51).toNat →
        (∀ m, m < n → ∃ v ∈ s.sch.saved, v.slotN = m) →
        let d := State.settlePcs { s with free := s.free + 1 } k
        let u := d.writeImage k n r.reason d (imageOffsets tk)
        (Occurs (.saveComplete ⟨k, uP, uS, uA⟩) s fun t => (t.core k).task = none ∧
          (t.core k).st = Storage.reset ∧ (∀ j, j ≠ k → t.core j = u.core j) ∧ t.ms = u.ms ∧ t.sch = { u.sch with saved := u.sch.saved ++
            [{ slotN := n, core := { d.core k with save := none }, lid := tk.lid, queue := tk.queue, reason := r.reason, ready := decide (r.reason ≠ 4),
               byDisposition := decide (r.reason = 4), placed := false, from_ := k, clasps := none, carried := [], passed := 0 }] }))) ∧
    ((∀ tk, c.task = some tk → tk.flags.getLsbD 1 = false) → ∀ uP uS,
     let level := c.rg.pwrlvl
     ((c.restoring = false ∨ s.restoreWaits k = true ∨ s.running k = false ∨ c.term ≠ none ∨ s.recordOf k = none) → Idles (.restoreIssueStart ⟨k, uP, uS⟩) s) ∧
     (∀ tk v, c.restoring = true → s.restoreWaits k = false → s.running k = true → c.term = none → s.recordOf k = some (tk, v) →
       let os := (imageOffsets tk).filter fun o => decide (0x200 ≤ o ∧ o < 0xF4000)
       let d := s.readImage v.slotN c os
       (s.restoreLost k tk v = true → Occurs (.restoreIssueStart ⟨k, uP, uS⟩) s fun t => (t.core k).term.isSome ∧
         t.sch.saved = s.sch.saved.filter fun u => u.slotN ≠ v.slotN) ∧
       (∀ x tr, s.restoreLost k tk v = false → s.slotPend v.slotN d.pend = [(x, tr)] → (d.clu x).inh = false →
         Occurs (.restoreIssueStart ⟨k, uP, uS⟩) s fun t => ((t.core k).clu x).taddr = tr.addr ∧ ((t.core k).clu x).tinfo = tr.info ∧
           ((t.core k).clu x).tcause.toNat % 256 = tr.cause % 256) ∧
       (s.restoreLost k tk v = false → s.slotPend v.slotN d.pend = [] → d.en.mstop = none → Occurs (.restoreIssueStart ⟨k, uP, uS⟩) s fun t => t.sch.saved = s.sch.saved.filter (fun u => u.slotN ≠ v.slotN) ∧
         (t.core k).restoring = false ∧ (t.core k).rg.pwrlvl = level ∧ (t.core k).st = d.st ∧ (t.core k).task = d.task ∧
         (∀ x, (t.core k).clu x = { d.clu x with halted := false }) ∧ ∀ j, j ≠ k → t.core j = s.core j)))) ∧
  ∀ (s : State) (l : Launch), s.launch? l.lid = some l →
    let code := match l.state with
      | .ending c => c
      | _ => 1
    let w (bad : Nat) : Word := BitVec.ofNat 64 (code * 2 ^ 56 + bad * 2 ^ 48 + l.retired % 2 ^ 48)
    let ends (t u : State) (bad : Nat) : Prop := t.ms = u.ms ∧ t.cores = u.cores ∧ t.regs = s.regs ∧ t.sch.saved = s.sch.saved ∧
      t.plat = (if s.plat.bootLid = some l.lid then { s.plat with bootLid := none, bootPhase := if code = 1 then 4 else 5 } else s.plat) ∧
      t.sch.history = ((l.lid, l.ctx, w bad) :: s.sch.history).take 1024 ∧
      t.sch.launches = (s.sch.launches.filter fun x => x.lid != l.lid).map fun x => if ¬ l.lid ∈ x.preds then x
        else { x with preds := x.preds.filter (· ≠ l.lid), state := if code ≠ 1 ∧ x.state = .queued then .ending 3 else x.state
                      next := if code ≠ 1 ∧ x.state = .queued then x.count else x.next }
    (s.launchSettled l = false → Idles (.launchComplete l.lid) s) ∧
    (s.launchSettled l = true → code < 8 →
      (l.status = 0 → Occurs (.launchComplete l.lid) s fun t => ends t s 0) ∧
      (l.status ≠ 0 → (∀ u, s.writeStatus l (w 0) = some u → Occurs (.launchComplete l.lid) s fun t => ends t u 0) ∧
        (s.writeStatus l (w 0) = none → Occurs (.launchComplete l.lid) s fun t => ends t s 1))) ∧
    (∀ q, (∀ m ∈ s.sch.launches, m.lid ≠ q) → Idles (.launchComplete q) s)

/-- Directory requests, probes, acknowledgements and grants follow R280 for a line, and home-slice accesses recall its
copies first (R275, R277, R278, R279, R280, R281, R282, R283, R287, R381). RDS, RDX and UPG name an address of a
context slot and a class; one that leads to a coherent page homed on another die arrives when the die's copy sends
that request, the die has no other for the line and no uncore on the way is stopped: it is taken up, or joins the held
requests in order of arrival where the line has an open transaction, a held request or no free entry; the dies to
reach are those of R280's table. INV, RECALL_S and RECALL_I each reach a die the transaction names: it drops its copy
or keeps it shared, and returns a modified line. DIRECTORY_ACK writes a returned line home. GRANT waits for every
answer and for an entry, then ends the transaction, fills the die in E, S or M and names it in the directory, and
takes up the next held request of the line; steps of classes 1 to 3 give way to a ready class-0 step of the same home,
and a stopped uncore takes none; a full set of the directory frees its oldest entry that no transaction holds. PUTC
and PUTM replace the least recently used line of a full set of a die cache, which a modified line or dirty bytes leave
for home. HOME_SLICE_ACCESS reads after the owner's line has come home, or writes eight bytes after every copy is
gone. Out of turn each changes nothing. The model's choices, no rule of the spec: the sets of a line
(notes/assumptions/10.md), the recall of a full set's victim within the grant (35.md), which line PUTC and PUTM may
take (75.md), queue and classes (81.md), stopped islands (118.md). The memory is assumed canonical where bytes are
written, and the pages of lines that go home live. -/
def Obligations.DirectoryTransactionsServeOneRequestALine : Prop :=
  ∀ (s : State) (slot : Fin 64) (a : Word) (cls : BitVec 2) (d : Fin 8),
    let m := s.ms
    let does (i : Instr) (f : MemSys → Prop) : Prop := Occurs i s fun t => t = { s with ms := t.ms, report := .issued } ∧ f t.ms
    let wrote (line : Nat) (n : MemSys) (key : Nat) (x : Line) : Prop := (m.keySlot key).state ≠ 0 → m.main.wf = true → ∀ b,
      n.main.read b = if b / 64 = line then BitVec.ofNat 8 (Line.part x 1 (b % 64)) else m.main.read b
    let set (p : Phys) : List DirEntry := m.dir.filter fun e => e.line ≠ p.line ∧ e.home = p.home ∧ e.line % 65536 = p.line % 65536
    let waits (p : Phys) : Prop := m.dirState p.line = none ∧ 16 ≤ (set p).length ∧ ∀ e ∈ set p, m.busy e.line = true
    let reaches (n : MemSys) (tr : DirTrans) : Prop := tr.toAck = 0 ∧ tr.back = none ∧ ∀ e : Fin 8, tr.toSend.getLsbD e.val = true ↔ (match n.dirState tr.line with
      | none => False
      | some (.shared mask) => tr.req ≠ .rds ∧ mask.getLsbD e.val = true ∧ e ≠ tr.die
      | some (.owned o) => e = o)
    let gives (tr : DirTrans) (ready : DirTrans → Prop) : Prop := tr.cls ≠ 0 ∧ ∃ u ∈ m.trans, u.cls = 0 ∧ u.place.home = tr.place.home ∧ ready u
    let request (i : Instr) (req : DirReq) (sends : Option DieLine → Prop) : Prop :=
      (∀ p, s.requestPlace req slot.val a d = some p ↔ (s.dev (0xC00 + slot.val)).getLsbD 63 = true ∧ memAddr a = true ∧
        s.reach slot.val a (req != .rds) = .ok p ∧ p.coherent = true ∧ p.dead = false ∧ p.home ≠ d) ∧
      (s.requestPlace req slot.val a d = none → Idles i s) ∧
      ∀ p, s.requestPlace req slot.val a d = some p →
        let able : Prop := sends (m.dieLine d p.line) ∧ (∀ u ∈ m.trans ++ m.reqs, ¬ (u.die = d ∧ u.line = p.line)) ∧
          s.uncoreStops d = false ∧ s.uncoreStops p.home = false
        let holds : Prop := m.transOf p.line ≠ none ∨ (∃ q ∈ m.reqs, q.line = p.line) ∨ waits p
        (¬ able → Idles i s) ∧ (able → does i fun n => ∃ tr, tr.place = p ∧ tr.die = d ∧ tr.req = req ∧ tr.cls = cls ∧ reaches m tr ∧
          (holds → n = { m with reqs := m.reqs ++ [tr] }) ∧ (¬ holds → n = { m with trans := tr :: m.trans }))
    request (.rds ⟨slot, a, cls⟩ d) .rds (fun c => c = none) ∧ request (.rdx ⟨slot, a, cls⟩ d) .rdx (fun c => c = none) ∧
    request (.upg ⟨slot, a, cls⟩ d) .upg (fun c => ∃ x, c = some x ∧ x.coh = some .s) ∧
    (∀ line : Nat,
      let st := m.dirState line
      let copy := m.dieLine d line
      let others (n : MemSys) : Prop := ∀ e l, (e ≠ d ∨ l ≠ line) → n.dieLine e l = m.dieLine e l
      (m.transOf line = none → ∀ i ∈ ([.inv line d, .recallS line d, .recallI line d, .directoryAck line d, .grant line d] : List Instr), Idles i s) ∧
      (∀ tr, m.transOf line = some tr →
        let owned : Prop := ∃ o, st = some (.owned o)
        let probe (i : Instr) (right : Prop) (after : Option DieLine) : Prop :=
          let gone : Prop := gives tr (fun u => u.toSend ≠ 0) ∨ s.uncoreStops d = true
          ((tr.toSend.getLsbD d.val = false ∨ ¬ right ∨ gone) → Idles i s) ∧
          (tr.toSend.getLsbD d.val = true → right → ¬ gone → does i fun n => n = { m with dieLines := n.dieLines, trans := n.trans } ∧ others n ∧
            n.dieLine d line = after ∧ n.transOf line = some { tr with
              toSend := tr.toSend &&& ~~~dieBit d, toAck := tr.toAck ||| dieBit d
              back := match copy with
                | some c => if c.coh = some .m then some c else tr.back
                | none => tr.back })
        probe (.inv line d) (¬ owned) none ∧ probe (.recallS line d) (owned ∧ tr.req = .rds) (copy.map fun c => { c with coh := some .s }) ∧
        probe (.recallI line d) (owned ∧ tr.req ≠ .rds) none ∧
        (let later : Prop := gives tr (fun u => u.toAck ≠ 0) ∨ s.uncoreStops tr.place.home = true
        (tr.toAck.getLsbD d.val = false ∨ later → Idles (.directoryAck line d) s) ∧
        (tr.toAck.getLsbD d.val = true → ¬ later → (∀ c, tr.back = some c → c.coh = some .m → c.line = line ∧ m.pageDead c.pte = false) →
          does (.directoryAck line d) fun n => n.dieLines = m.dieLines ∧ n.dir = m.dir ∧
            n.transOf line = some { tr with toAck := tr.toAck &&& ~~~dieBit d, back := none } ∧ (tr.back = none → n.main = m.main) ∧
            ∀ c, tr.back = some c → c.coh = some .m → wrote line n c.key c.data ∧ ((m.keySlot c.key).state ≠ 0 → (line ∈ n.poison ↔ c.bad = true)))) ∧
        (let p := tr.place
         let later : Prop := gives tr (fun u => u.toSend = 0 ∧ u.toAck = 0 ∧ m.noEntry u.place = false) ∨ s.uncoreStops p.home = true
         let room : Prop := (m.cacheSet d line).length < m.cacheWays d line
         ((tr.die ≠ d ∨ tr.toSend ≠ 0 ∨ tr.toAck ≠ 0 ∨ waits p ∨ later) → Idles (.grant line d) s) ∧
         (tr.die = d → tr.toSend = 0 → tr.toAck = 0 → ¬ waits p → ¬ later → (∀ o c, st = some (.owned o) → m.dieLine o line = some c → c.coh ≠ some .m) →
           let full : Prop := 16 ≤ (set p).length
           does (.grant line d) fun n => ((∀ q ∈ m.reqs, q.line ≠ line) → n.transOf line = none) ∧
             (room → (¬ full → n.main = m.main ∧ (∀ e l, l ≠ line → n.dieLine e l = m.dieLine e l) ∧
               ∀ r rest, m.reqs = r :: rest → (∀ q ∈ m.reqs, q.line = line) → n.reqs = rest ∧ ∃ u, n.transOf line = some u ∧ u.place = r.place ∧
                 u.die = r.die ∧ u.cls = r.cls ∧ reaches n u ∧
                 u.req = (if r.req = .upg ∧ ¬ ∃ x, n.dieLine r.die line = some x ∧ x.coh = some .s then .rdx else r.req)) ∧
             (full → ∀ v, ((set p).filter fun e => !m.busy e.line).getLast? = some v → n.dirState v.line = none ∧
               ∀ o, v.st = .owned o → n.dieLine o v.line = none) ∧
             ∃ c, n.dieLine d line = some c ∧ c.data = m.homeLine line p.key ∧ c.dirty = 0 ∧ (c.bad = true ↔ line ∈ m.poison) ∧ (match tr.req, st with
               | .rds, none => c.coh = some .e ∧ n.dirState line = some (.owned d)
               | .rds, some (.shared mask) => c.coh = some .s ∧ n.dirState line = some (.shared (mask ||| dieBit d))
               | .rds, some (.owned o) => c.coh = some .s ∧ n.dirState line = some (.shared (dieBit o ||| dieBit d))
               | _, none => c.coh = some .m ∧ n.dirState line = some (.owned d)
               | _, some (.shared mask) => c.coh = some .m ∧ n.dirState line = some (.owned d) ∧
                 ∀ e : Fin 8, e ≠ d → mask.getLsbD e.val = true → n.dieLine e line = none
               | _, some (.owned o) => c.coh = some .m ∧ n.dirState line = some (.owned d) ∧ (o ≠ d → n.dieLine o line = none)))))) ∧
      (let full : Prop := m.cacheWays d line ≤ (m.cacheSet d line).length
       let last := ((m.cacheSet d line).filter fun e => !m.busy e.line).getLast?
       let gone (n : MemSys) : Prop := others n ∧ n.dieLine d line = none ∧ n.dirState line = if st = some (.owned d) then none else st
       ((¬ full ∨ (∀ c, last = some c → c.line ≠ line) ∨ s.uncoreStops d = true) → Idles (.putc line d) s ∧ Idles (.putm line d) s) ∧
       (∀ c, s.uncoreStops d = false → full → last = some c → c.line = line → m.pageDead c.pte = false →
         (c.coh = some .e ∨ c.coh = some .s → does (.putc line d) (fun n => gone n ∧ n.main = m.main) ∧ Idles (.putm line d) s) ∧
         (c.coh = some .m → Idles (.putc line d) s ∧ does (.putm line d) fun n => gone n ∧ wrote line n c.key c.data) ∧
         (c.coh = none → Idles (.putc line d) s ∧ does (.putm line d) fun n => gone n ∧ (c.dirty = 0 → n.main = m.main) ∧
           (c.dirty ≠ 0 → wrote line n c.key (mergeLine (m.homeLine line c.key) c.data c.dirty)))))) ∧
    (let read : Instr := .homeSliceAccess ⟨slot, a, cls⟩ none
     let write (x : Word) : Instr := .homeSliceAccess ⟨slot, a, cls⟩ (some x)
     (a.toNat % 8 ≠ 0 ∨ memAddr a = false → Idles read s ∧ ∀ x, Idles (write x) s) ∧
     (∀ e, s.outsidePlace slot.val a false = .error e → Idles read s) ∧ (∀ e, s.outsidePlace slot.val a true = .error e → ∀ x, Idles (write x) s) ∧
     (∀ p, a.toNat % 8 = 0 → memAddr a = true → s.outsidePlace slot.val a false = .ok p → p.dead = false →
       let st := m.dirState p.line
       m.lost p.home p (rangeMask p.off 8) = false → (p.coherent = false ∨ st = none → does read fun n => n = m) ∧
         (∀ mask, p.coherent = true → st = some (.shared mask) → (set p).length < 16 → does read fun n => n = { m with dir := n.dir } ∧ n.dirState p.line = st) ∧
         (∀ o c, p.coherent = true → st = some (.owned o) → m.dieLine o p.line = some c → c.coh = some .m → m.pageDead c.pte = false → (set p).length < 16 →
           does read fun n => n.dirState p.line = some (.shared (dieBit o)) ∧ n.dieLine o p.line = some { c with coh := some .s } ∧
             (∀ e l, (e ≠ o ∨ l ≠ p.line) → n.dieLine e l = m.dieLine e l) ∧ wrote p.line n c.key c.data)) ∧
     (∀ p (x : Word), a.toNat % 8 = 0 → memAddr a = true → s.outsidePlace slot.val a true = .ok p → p.dead = false →
       let st := m.dirState p.line
       (p.coherent = true → ∀ o, st ≠ some (.owned o)) → (m.keySlot p.key).state ≠ 0 → m.main.wf = true →
       (alGet m.lineKeys p.line = none ∨ alGet m.lineKeys p.line = some (m.keySlot p.key).key) →
         does (write x) fun n => (p.coherent = true → n.dirState p.line = none) ∧ (p.coherent = true → ∀ mask, st = some (.shared mask) →
           ∀ e : Fin 8, mask.getLsbD e.val = true → n.dieLine e p.line = none) ∧ (∀ e l, l ≠ p.line → n.dieLine e l = m.dieLine e l) ∧
           ∀ b, n.main.read b = if p.addr ≤ b ∧ b < p.addr + 8 then BitVec.ofNat 8 (x.toNat / 256 ^ (b - p.addr)) else m.main.read b))

/-- PATROL_SCRUB counts a correction at its location and poisons what cannot be corrected (R270, R274, R284, R287,
R331, R335, R336, R381). A location that does not exist changes nothing, nor does one outside the cores while its
uncore is stopped; a clean read changes nothing. A second-tier line exists on the die its page is homed on; one that
no page lies in is taken as interleaved, which is the model's reading (notes/assumptions/117.md). A correction is
counted in the entry of its unit and location on its die under the die's window register; when that makes the location
lasting, the core of a typed buffer is fenced, an LLC slice or die cache loses the way, and otherwise nothing but the
entry changes while it is not lasting. An error that cannot be corrected poisons the 8-byte word of a typed buffer, or
the line of a memory; LLC and die-cache locations of unit 1 are only corrected. A new location takes a free entry,
else the one with the oldest event. Which read finds an error is an input of the model (notes/assumptions/27.md). -/
def Obligations.ScrubbedErrorsAreCountedAndPoison : Prop :=
  ∀ (s : State) (d : Fin 8) (unit : BitVec 2) (loc : BitVec 56),
    let L := loc.toNat
    let ev (found : Fin 3) : Instr := .patrolScrub d unit loc found
    let core := L / 2 ^ 46
    let size : Nat := match L / 2 ^ 44 % 4 with
      | 0 => 393216
      | 1 => 262144
      | 2 => 196608
      | _ => 16384
    let lies (f : Nat) (q : Phys) : Prop := ∃ (slot : Fin 64) (tid p : Nat), (s.dev (0xC00 + slot.val)).getLsbD 63 = true ∧ 1 ≤ tid ∧ tid < 65536 ∧
      p < s.pageLimit slot.val tid ∧ s.translate slot.val tid (p * 65536) false = .ok q ∧ q.frame = f
    let exists_ : Prop :=
      if unit = 0 then core < 768 ∧ core / 96 = d.val ∧ L / 2 ^ 40 % 16 = 0 ∧ L % 8 = 0 ∧ L % 2 ^ 40 < size
      else if unit = 1 then (L / 2 ^ 50 < 48 ∨ (L / 2 ^ 50 = 63 ∧ L / 2 ^ 34 % 2 ^ 16 < 16384)) ∧ L % 2 ^ 30 = 0
      else if unit = 2 then L / 2 ^ 10 < 12582912 ∧ L / 2 ^ 10 % 8 = d.val
      else L / 2 ^ 10 / 8 < (vget s.plat.cxl (Fin.ofNat 8 (L / 2 ^ 10))).frames.toNat ∧ s.homedOn d (2 ^ 34 + L / 2 ^ 10) = true
    (∀ f, (s.homedOn d f = true ↔ (∃ q, lies f q ∧ q.home = d) ∨ (f % 8 = d.val ∧ ¬ ∃ q, lies f q))) ∧
    (¬ exists_ ∨ (unit ≠ 0 ∧ s.uncoreStops d = true) → ∀ f, Idles (ev f) s) ∧
    (exists_ → (unit = 0 ∨ s.uncoreStops d = false) →
      exec (ev 0) s = .next { s with report := .issued } ∧
      (unit = 0 → Occurs (ev 2) s fun t => sameButCore s t (Fin.ofNat 768 core) ∧ t.core (Fin.ofNat 768 core) = { s.core (Fin.ofNat 768 core) with
        st := { (s.core (Fin.ofNat 768 core)).st with bad := (L / 2 ^ 44 % 4, L % 2 ^ 40 / 8) :: (s.core (Fin.ofNat 768 core)).st.bad } }) ∧
      (unit = 1 → Idles (ev 2) s) ∧
      (2 ≤ unit.toNat → let line := L / 2 ^ 10 * 1024 + L % 2 ^ 10 + (if unit = 3 then 2 ^ 44 else 0)
        Occurs (ev 2) s fun t => t = { s with ms := { s.ms with poison := t.ms.poison }, report := .issued } ∧
          ∀ l, l ∈ t.ms.poison ↔ l = line ∨ l ∈ s.ms.poison) ∧
      (let die := vget s.plat.dies d
       let n := die.locEntry unit loc
       let h := match alGet die.celoc n with
         | some (u, l, h) => if u = unit ∧ l = loc then h else History.reset
         | none => History.reset
       let r := h.event s.cadence.toNat die.ewmem
       ((die.celoc.map (·.1)).Nodup → ∀ u, alGet die.celoc n = some u → (u.1 = unit ∧ u.2.1 = loc) ∨ ((∀ e ∈ die.celoc, ¬ (e.2.1 = unit ∧ e.2.2.1 = loc)) ∧
         (∀ j < 64, alGet die.celoc j ≠ none) ∧ ∀ e ∈ die.celoc, (u.2.2.ticks.head?).getD 0 ≤ (e.2.2.2.ticks.head?).getD 0)) ∧
       r.1.total = min (h.total + 1) (2 ^ 32 - 1) ∧ Occurs (ev 1) s fun t => alGet (vget t.plat.dies d).celoc n = some (unit, loc, r.1) ∧
         (r.2 = false → t = { s with plat := { s.plat with dies := t.plat.dies }, report := .issued } ∧ ∀ e, e ≠ d → vget t.plat.dies e = vget s.plat.dies e) ∧
         (r.2 = true → unit = 0 → t.cfence (Fin.ofNat 768 core) = true) ∧
         (r.2 = true → unit = 1 → (d.val, L / 2 ^ 50, L / 2 ^ 34 % 2 ^ 16, L / 2 ^ 30 % 2 ^ 4) ∈ t.ms.waysOff)))

/-- Links number, check, replay and acknowledge flits, stop and retire lanes; exchange instants send dirty units and
deliveries join them (R313, R316, R368, R371, R372, R373, R374, R375, R376, R377). EXCHANGE_INSTANT happens only for
an enabled schedule at a multiple of the period in force, once; the value written to XSCHk comes into force, and a
die's next dirty unit goes to each partner and is then clean. A die whose uncore is stopped sends and takes no unit
(R381), and a unit of lost content is neither sent nor joined into (the model's choice, log 115).
EXCHANGE_LINE_DELIVERY joins the oldest arrived unit into its die's replica. FLIT_RECEIVE discards a bad flit and asks
for a resend, discards one out of sequence, and passes an expected one on. FLIT_REPLAY sends again every
unacknowledged flit from the expected one on and counts it. FLIT_ACK frees acknowledged flits. LINK_STOP_END puts the
rate in force, publishes LKPEN and runs writes kept during the stop. LANE_RETIREMENT retires an active group that is
not the last and stops the link. LKCTL writes are ignored, kept during a stop, or applied as R371 gives. A flit to a
stopped node waits. Class 0 leaves first, classes 1 to 3 in rotation, each in its order. Out of turn each changes
nothing. That one message is one flit (log 39), which parameters the instant of a changed schedule uses (log 78) and
which islands stop an I/O die (log 118) are the model's choices. -/
def Obligations.LinksDeliverEveryFlitOnceInOrder : Prop :=
  ∀ (s : State) (l : Fin 14) (d : Fin 2),
    let x := vget s.plat.links l
    let y := vget x.dirs d
    let n := 0xD00 + 8 * l.val
    let ctl := (s.dev n).toNat
    let link (t : State) : Link := vget t.plat.links l
    let dir (t : State) : LinkDir := vget (link t).dirs d
    let only (t : State) : Prop := t = { s with plat := { s.plat with links := t.plat.links }, lat := { s.lat with arrived := t.lat.arrived }, report := .issued } ∧
      ∀ j, j ≠ l → vget t.plat.links j = vget s.plat.links j
    ((x.stop = true ∨ y.wire = [] ∨ s.nodeStops (linkEnd l d) = true) → ∀ ok, Idles (.flitReceive l d ok) s) ∧
    (∀ f rest, y.wire = f :: rest → x.stop = false → s.nodeStops (linkEnd l d) = false →
      Occurs (.flitReceive l d false) s (fun t => only t ∧ t.lat = s.lat ∧ dir t = { y with wire := rest, bad := true } ∧
        (link t).crcerr = min (x.crcerr + 1) (2 ^ 32 - 1)) ∧
      (f.seq ≠ y.expect → Occurs (.flitReceive l d true) s fun t => only t ∧ t.lat = s.lat ∧ dir t = { y with wire := rest } ∧ (link t).crcerr = x.crcerr) ∧
      (f.seq = y.expect →
        (f.route = [] → Occurs (.flitReceive l d true) s fun t => only t ∧ t.lat.arrived = s.lat.arrived ++ [f.msg] ∧
          dir t = { y with wire := rest, expect := y.expect + 1, bad := false, acks := y.acks + 1 }) ∧
        (∀ l' d' more, f.route = (l', d') :: more → l' ≠ l → Occurs (.flitReceive l d true) s fun t => t.lat = s.lat ∧
          dir t = { y with wire := rest, expect := y.expect + 1, bad := false, acks := y.acks + 1 } ∧
          ((vget s.plat.links l').stop = true → (vget (vget t.plat.links l').dirs d').waiting = (vget (vget s.plat.links l').dirs d').waiting ++ [(f.msg, f.cls, more)])))) ∧
    ((x.stop = true ∨ y.bad = false) → Idles (.flitReplay l d) s) ∧
    (x.stop = false → y.bad = true →
      let e := x.hist.event s.cadence.toNat (s.dev (n + 5))
      Occurs (.flitReplay l d) s fun t => dir t = { y with bad := false, wire := y.wire ++ y.replay.filter fun f => decide (y.expect ≤ f.seq) } ∧
        (link t).replays = min (x.replays + 1) (2 ^ 32 - 1) ∧ (link t).hist = e.1 ∧ (e.2 = false → only t ∧ t.lat = s.lat)) ∧
    (y.acks = 0 → Idles (.flitAck l d) s) ∧
    (y.acks ≠ 0 → Occurs (.flitAck l d) s fun t => only t ∧ t.lat = s.lat ∧ (dir t).acks = 0 ∧ (dir t).expect = y.expect ∧
      ((x.stop = true ∨ y.waiting = []) → dir t = { y with replay := y.replay.drop y.acks, acks := 0 }) ∧
      (∀ m, x.stop = false → y.waiting = [m] → (y.replay.drop y.acks).length < 64 → ∃ f, f = { seq := y.nextSeq, msg := m.1, cls := m.2.1, route := m.2.2 } ∧
        dir t = { y with acks := 0, waiting := [], nextSeq := y.nextSeq + 1, replay := y.replay.drop y.acks ++ [f], wire := y.wire ++ [f]
                         turn := if m.2.1 = 0 then y.turn else m.2.1 }) ∧
      -- with room for one flit: class 0 first, else the next of classes 1 to 3 in rotation that has one, and in each the oldest
      (let after (c : BitVec 2) : Nat := (c.toNat + 5 - y.turn.toNat) % 3
       ∀ pre m post, x.stop = false → (y.replay.drop y.acks).length = 63 → y.waiting = pre ++ m :: post → (∀ q ∈ pre, q.2.1 ≠ m.2.1) →
        (m.2.1 = 0 ∨ ((∀ q ∈ y.waiting, q.2.1 ≠ 0) ∧ ∀ q ∈ y.waiting, after m.2.1 ≤ after q.2.1)) →
        ∃ f, f = { seq := y.nextSeq, msg := m.1, cls := m.2.1, route := m.2.2 } ∧
          dir t = { y with acks := 0, waiting := pre ++ post, nextSeq := y.nextSeq + 1, replay := y.replay.drop y.acks ++ [f], wire := y.wire ++ [f]
                           turn := if m.2.1 = 0 then y.turn else m.2.1 })) ∧
    (x.stop = false → Idles (.linkStopEnd l) s) ∧
    (x.stop = true → x.pending = [] → (∀ e, (vget x.dirs e).waiting = []) → canonicalAbove devReset none s.regs = true →
      let w := 16 * min (vget x.dirs 0).width (vget x.dirs 1).width
      let r := 32 + 4 * (ctl / 2 ^ 24 % 16)
      Occurs (.linkStopEnd l) s fun t => link t = { x with stop := false, rateStop := false, rate := ctl / 2 ^ 24 % 16 } ∧ t.dev n = s.dev n ∧
        (0 < w → ∃ hop pen, t.dev (n + 4) = BitVec.ofNat 64 (pen * 2 ^ 16 + hop) ∧ (5724 * w * r + 3538944 ≤ hop * (10 * w * r) ∧
          hop * (10 * w * r) < 5724 * w * r + 3538944 + 10 * w * r) ∧ 8640 * w * r + 56623104 ≤ pen * (10 * w * r) ∧
          pen * (10 * w * r) < 8640 * w * r + 56623104 + 10 * w * r)) ∧
    (∀ g : Fin 32, (y.retired.getLsbD g.val = true ∨ y.width ≤ 1 → exec (.laneRetirement l d g) s = .next { s with report := .issued }) ∧
      (y.retired.getLsbD g.val = false → 1 < y.width → Occurs (.laneRetirement l d g) s fun t => link t = { x with stop := true, dirs := (link t).dirs } ∧
        dir t = { y with retired := y.retired ||| BitVec.ofNat 32 (2 ^ g.val) } ∧ t.regs = s.regs ∧
        (t.plat.evHead = s.plat.evHead → t.plat.evLost = if s.plat.evLost = 0xFFFF then 0xFFFF else s.plat.evLost + 1))) ∧
    (∀ v : BitVec 64,
      let rate := v.toNat / 2 ^ 24 % 16
      let g0 := v.toNat / 2 ^ 8 % 64
      let g1 := v.toNat % 64
      let bad : Prop := (rate ≠ 0 ∧ v.getLsbD 31 = false) ∨ 4 < rate ∨ 32 < v.toNat / 2 ^ 16 % 64 ∨ 32 < g0 ∨ 32 < g1
      let some_ (f : State → Prop) : Prop := (rate ≠ ctl / 2 ^ 24 % 16 → Occurs (.lkctlRateChange l v) s f) ∧
        (g0 ≠ 0 → Occurs (.lkctlRetire l v) s f) ∧ (g1 ≠ 0 → Occurs (.lkctlRetire1 l v) s f)
      (rate = ctl / 2 ^ 24 % 16 → Idles (.lkctlRateChange l v) s) ∧ (g0 = 0 → Idles (.lkctlRetire l v) s) ∧ (g1 = 0 → Idles (.lkctlRetire1 l v) s) ∧
      (bad → some_ fun t => t = { s with report := .issued }) ∧
      (¬ bad → x.stop = true → some_ fun t => only t ∧ t.lat = s.lat ∧ link t = { x with pending := x.pending ++ [v] }) ∧
      (¬ bad → x.stop = false → canonicalAbove devReset none s.regs = true → some_ fun t => t.dev n = v &&& 0x8F3F_0000 ∧
        ((link t).rateStop = true ↔ (x.rateStop = true ∨ rate ≠ ctl / 2 ^ 24 % 16)) ∧ (rate ≠ ctl / 2 ^ 24 % 16 → (link t).stop = true) ∧
        ∀ e : Fin 2, let g := if e = 0 then g0 else g1
          (vget (link t).dirs e).retired = if g = 0 ∨ (vget x.dirs e).width ≤ 1 then (vget x.dirs e).retired
            else (vget x.dirs e).retired ||| BitVec.ofNat 32 (2 ^ (g - 1)))) ∧
    (∀ k : Fin 8,
      let sch := s.dev (0xA08 + k.val)
      let now := vget s.lat.inForce k
      let due : Prop := now.getLsbD 63 = true ∧ s.cadence.toNat % max 1 (now.toNat % 2 ^ 32) = 0 ∧ vget s.lat.served k ≠ some s.cadence.toNat
      (¬ due → Idles (.exchangeInstant k) s) ∧
      (due →
        Occurs (.exchangeInstant k) s (fun t => sameMemory s t ∧ t.cores = s.cores ∧ t.regs = s.regs) ∧
        ∀ rt r c (e : Fin 8) o, s.lat.dirty = [(c, e.val, o)] → s.tableOf (BitVec.ofNat 12 c) = some rt → rt.regionOfUnit o = some r → r.sched = k →
          rt.ctx = BitVec.ofNat 12 c → (s.uncoreStops e = true ∨ s.replicaLost rt e o (unitSize r.type) = true → Occurs (.exchangeInstant k) s fun t =>
            t.lat = { s.lat with inForce := vset s.lat.inForce k sch, served := vset s.lat.served k (some s.cadence.toNat) }) ∧
          (s.uncoreStops e = false → s.replicaLost rt e o (unitSize r.type) = false → Occurs (.exchangeInstant k) s fun t =>
            t.lat = { s.lat with dirty := [], pos := t.lat.pos, inForce := vset s.lat.inForce k sch, served := vset s.lat.served k (some s.cadence.toNat) } ∧
            ∀ p ∈ partners (sch.toNat / 2 ^ 58 % 4) e, ∀ l0 d0 more, dieRoute e p = (l0, d0) :: more → (vget s.plat.links l0).stop = true →
              (Msg.exchange rt.ctx p o (s.latBytes rt e o (unitSize r.type)) (s.lat.unitClocks c e.val o (unitSize r.type)), BitVec.ofNat 2 (sch.toNat / 2 ^ 56), more) ∈
                (vget (vget t.plat.links l0).dirs d0).waiting))) ∧
    (let passed (m : Msg) : Prop := (∃ c h, m = .piece c h) ∨ ∃ c e o bs cs, m = .exchange c e o bs cs ∧ s.uncoreStops e = true
    ((∀ m ∈ s.lat.arrived, passed m) → Idles .exchangeLineDelivery s) ∧
    (∀ pre ctx (e : Fin 8) o bs post rt r, s.lat.arrived = pre ++ .exchange ctx e o bs [] :: post → (∀ m ∈ pre, passed m) → s.uncoreStops e = false →
      s.tableOf ctx = some rt → rt.regionOfUnit o = some r → bs.length = cellStorage r.type →
      let old := s.latBytes rt e o bs.length
      let u : State := { s with lat := { s.lat with arrived := pre ++ post }, report := .issued }
      Occurs .exchangeLineDelivery s fun t => t = if joinCell r.type old bs = old ∨ s.replicaLost rt e o bs.length = true then u
        else { u.latPut rt r e o (joinCell r.type old bs) with report := .issued }))

/-- Island writes, margin stretches, cap stretches and ballast set the states, counts and throttle reasons the rules
give (R380, R381, R382, R392, R393, R397, R398). ISTATE_WRITE is ignored as a whole for states 6 and 7, for GATED or
OFF of an uncore or I/O island, and for OFF while a core of the island holds a task; else it sets the state, clears
the THR bits written as 1, stops the island on a change within P0 to P3, and in OFF loses the cores' state.
ISLAND_STOP_END ends a stop. CLOCK_STRETCH records the margin; at or below the warning level it counts a stretch and
sets WARN. CAP_STRETCH records the measured power; above CAP it stretches every core island of the die and sets THR
cap. BALLAST_START acts on a fall beyond a nonzero SLEW, starts a ballast interval, also while one runs, and sets THR
slew, with cap above CAP; BALLAST_END ends it, and so does the end of 25 µs, 67,500 ticks. Which islands stop a die's
uncore or an I/O die is said; that either island of an I/O die stops it is the model's choice
(notes/assumptions/118.md); so is what an MTS to ISTATE does, when the margin notice is sent (47.md, 48.md), and that
a further fall restarts the interval (119.md). The measured margin, power and fall are inputs of the model. Placement
is assumed not to lose capacity by the write. -/
def Obligations.IslandsAndGovernorsFollowTheirRegisters : Prop :=
  ∀ (s : State) (n : Fin 76) (d : Fin 8),
    let isl (t : State) (i : Fin 76) : Island := vget t.plat.islands i
    let x := isl s n
    let die := vget s.plat.dies d
    let cores : List (Fin 768) := (List.finRange 768).filter fun k => decide (n.val < 72 ∧ n.val % 9 < 8 ∧ k.val / 96 = n.val / 9 ∧ k.val % 96 / 12 = n.val % 9)
    let others (t : State) : Prop := ∀ i, i ≠ n → isl t i = isl s i
    let ours (i : Fin 76) : Prop := i.val < 72 ∧ i.val / 9 = d.val ∧ i.val % 9 < 8
    let cap := (s.dev (0xF50 + d.val)).toNat / 2 ^ 48
    let slew := (s.dev (0xF50 + d.val)).toNat % 2 ^ 16
    (∀ v : BitVec 64,
      let st := v.toNat % 8
      let refused : Prop := 6 ≤ st ∨ (4 ≤ st ∧ cores = []) ∨ (st = 5 ∧ ∃ k ∈ cores, (s.core k).task ≠ none)
      let new : Island := { x with state := BitVec.ofNat 3 st, thr := x.thr &&& ~~~(BitVec.ofNat 5 (v.toNat / 2 ^ 8 % 32))
                                   stop := x.stop || decide (st ≤ 3 ∧ x.state.toNat ≤ 3 ∧ st ≠ x.state.toNat) }
      (refused → exec (.istateWrite n v) s = .next { s with report := .issued }) ∧
      (¬ refused → s.sch.launches = [] → Occurs (.istateWrite n v) s fun t => isl t n = new ∧ others t ∧ t.ms = s.ms ∧ t.regs = s.regs ∧
        ∀ k, t.core k = if st = 5 ∧ x.state.toNat ≠ 5 ∧ k ∈ cores then Core.reset
          else if k ∈ cores ∧ (3 < st ∨ new.stop = true) then (s.core k).onClu .m fun u => { u with hold := match u.hold with
            | some (since, none) => some (since, some s.cadence.toNat)
            | h => h }
          else s.core k)) ∧
    (∀ e : Fin 8, s.uncoreStops e = (isl s (Fin.ofNat 76 (9 * e.val + 8))).stop) ∧
    (s.ioStops true = true ↔ (isl s 72).stop = true ∨ (isl s 73).stop = true) ∧ (s.ioStops false = true ↔ (isl s 74).stop = true ∨ (isl s 75).stop = true) ∧
    (∀ k : Fin 768, s.running k = true ↔ (isl s (islandOf k)).state.toNat ≤ 3 ∧ (isl s (islandOf k)).stop = false) ∧
    (x.stop = false → Idles (.islandStopEnd n) s) ∧
    (x.stop = true → Occurs (.islandStopEnd n) s fun t => isl t n = { x with stop := false } ∧ others t ∧
      t = { s with plat := { s.plat with islands := t.plat.islands }, report := .issued }) ∧
    (∀ m : BitVec 3,
      let level := (s.dev 0xECF).toNat % 8
      let frame (t : State) : Prop := others t ∧ t = { s with plat := { s.plat with islands := t.plat.islands }, report := .issued }
      (level < m.toNat → Occurs (.clockStretch n m) s fun t => frame t ∧ isl t n = { x with margin := m }) ∧
      (m.toNat ≤ level → Occurs (.clockStretch n m) s fun t => others t ∧ (¬ m < x.margin → frame t) ∧
        isl t n = { x with margin := m, warn := true, stretch := min (x.stretch + 1) (2 ^ 32 - 1) })) ∧
    (∀ p : BitVec 16, Occurs (.capStretch d p) s fun t => (vget t.plat.dies d).power = p ∧ (vget t.plat.dies d).ballast = die.ballast ∧
      (∀ e, e ≠ d → vget t.plat.dies e = vget s.plat.dies e) ∧ t.sch = s.sch ∧ (∀ i, ¬ ours i → isl t i = isl s i) ∧
      (p.toNat ≤ cap → t.plat.islands = s.plat.islands ∧ t.ms = s.ms) ∧
      (cap < p.toNat → ∀ i, ours i → isl t i = { isl s i with
        stretch := min ((isl s i).stretch + 1) (2 ^ 32 - 1), thr := (isl s i).thr ||| 8 })) ∧
    (∀ fall : Nat, Occurs (.ballastStart d fall) s fun t =>
      let starts : Prop := slew ≠ 0 ∧ slew < fall
      (¬ starts → t = { s with report := .issued }) ∧
      (starts → (vget t.plat.dies d) = { die with ballast := some s.cadence.toNat } ∧ (∀ e, e ≠ d → vget t.plat.dies e = vget s.plat.dies e) ∧ (∀ i, ¬ ours i → isl t i = isl s i) ∧ ∀ i, ours i →
        isl t i = { isl s i with thr := (isl s i).thr ||| 4 ||| if cap < die.power.toNat then 8 else 0 })) ∧
    (die.ballast = none → Idles (.ballastEnd d) s) ∧
    (die.ballast ≠ none → Occurs (.ballastEnd d) s fun t => vget t.plat.dies d = { die with ballast := none } ∧
      (∀ e, e ≠ d → vget t.plat.dies e = vget s.plat.dies e) ∧ t = { s with plat := { s.plat with dies := t.plat.dies }, report := .issued }) ∧
    (∀ n : Nat, 0 < n → s.cadence.toNat + n < 2 ^ 64 → (∀ k : Fin 8, (vget s.lat.inForce k).getLsbD 63 = false) → let u := s.advance n
      (vget u.plat.dies d).ballast = match die.ballast with
        | some b => if b + 67500 ≤ s.cadence.toNat + n then none else some b
        | none => none)

/-- Host windows, peer accesses, submissions, the key store, ports, device reset and the boot load do what their rules
give (R247, R265, R306, R381, R383, R386 to R391, R400, R401). HOST_WINDOW_ACCESS reaches the page its open window
maps, PEER_ACCESS and REDUCTION_WRITE the exported tensor, each at the home line: a read is answered with its bytes, a
write stores its bytes, an atomic applies its operation and is answered with what was there; a host atomic acts so on
a system-atomic page and elsewhere reads. No window, a disabled or too short exported window, a failed translation,
lost bytes or lattice memory is answered with an error and performs nothing. SUBMIT answers in RESULT q, with code 2
until the device is ready; HQLID names what HQOUT follows. Key operations load, invalidate a valid slot, or erase, and
note which free value tells the translations cached. A lost UALink port is marked once; a CXL error marks its port.
DEVICE_RESET leaves registers at reset values, memory content and PHASE 0; its end trains the ports, with at most 8
TiB, and PHASE is 1. BOOT_LOAD writes BOOTADDR and BOOTLEN in phase 1; in phase 2 it ends: it names the check that
fails, or installs the image and submits its record. Stopped I/O islands hold all of it. The model's choices, no rule
of the spec: an access within one 64-byte line, atomics aligned and HBASE's low bits ignored
(notes/assumptions/38.md), reset and load in two events (28.md), the order of the load's checks and what it installs
(29.md), the cached translations (43.md), the stop (118.md). -/
def Obligations.OutsideAccessesSubmissionsAndBringUp : Prop :=
  ∀ (s : State),
    let m := s.ms
    let combined (op size old b : Nat) : Nat :=
      let sg (n : Nat) : Int := (BitVec.ofNat (8 * size) n).toInt
      if op = 0 then (old + b) % 256 ^ size else if op = 1 then old &&& b else if op = 2 then old ||| b else if op = 3 then old ^^^ b
      else if op = 4 then (if sg b < sg old then b else old) else if op = 5 then (if sg old < sg b then b else old)
      else if op = 6 then min old b else max old b
    let le (size x : Nat) : List Byte := (List.range size).map fun j => BitVec.ofNat 8 (x / 256 ^ j)
    let size (z : BitVec 1) : Nat := if z = 0 then 4 else 8
    let fits (r : HostReq) (off : Nat) : Prop := match r with
      | .read n => 0 < n ∧ off % 64 + n ≤ 64
      | .write bs => bs ≠ [] ∧ off % 64 + bs.length ≤ 64
      | .atomic _ z _ _ => off % size z = 0
    let plain (p : Phys) : Prop := (m.keySlot p.key).state ≠ 0 ∧ m.main.wf = true ∧ p.dead = false ∧ (∀ d ∈ m.dieLines, d.line ≠ p.line) ∧
      (alGet m.lineKeys p.line = none ∨ alGet m.lineKeys p.line = some (m.keySlot p.key).key) ∧ m.poison.contains p.line = false
    let stored (t : State) (p : Phys) (bs : List Byte) : Prop := plain p → ∀ a,
      t.ms.main.read a = if p.addr ≤ a ∧ a < p.addr + bs.length then bs.getD (a - p.addr) 0 else m.main.read a
    let hosts (t : State) (c : Completion) : Prop := t.plat = { s.plat with hostDone := some c }
    let peers (t : State) (c : Completion) : Prop := t.plat = { s.plat with peerDone := some c }
    let err : Completion := ⟨false, []⟩
    let served (i : Instr) (answered : State → Completion → Prop) (slot : Nat) (y : Word) (req : HostReq) (host : Bool) : Prop :=
      (let reads (n : Nat) : Prop :=
         (∀ c e, s.reach slot y false = .error (c, e) → c ≠ 0xB → Occurs i s fun t => answered t err ∧ t.ms = m ∧ t.regs = s.regs) ∧
         ∀ p, s.reach slot y false = .ok p → (s.held p.home p = true → Idles i s) ∧ (s.held p.home p = false → Occurs i s fun t => t.cores = s.cores ∧ t.regs = s.regs ∧
           (p.dead = true → t.ms = m ∧ answered t ⟨true, List.replicate n 0⟩) ∧
           (p.dead = false → m.lost p.home p (rangeMask p.off n) = true → t.ms = m ∧ answered t err) ∧
           (plain p → p.coherent = false ∨ m.dirState p.line = none → t.ms = m ∧ answered t ⟨true, m.main.readList p.addr n⟩))
       let changes (f : Phys → Prop) : Prop :=
         (∀ c e, s.reach slot y true = .error (c, e) → Occurs i s fun t => t.ms.main = m.main ∧ t.cores = s.cores ∧
           (c ≠ 0xB → answered t err ∧ t.ms = m ∧ t.regs = s.regs) ∧
           (c = 0xB → (if host then t.plat.hostDone else t.plat.peerDone) = some err)) ∧
         ∀ p, s.reach slot y true = .ok p → (s.held p.home p = true → Idles i s) ∧ (s.held p.home p = false → f p)
       match req with
       | .read n => reads n
       | .write bs => changes fun p => p.dead = false → Occurs i s fun t => t.regs = s.regs ∧ answered t ⟨true, []⟩ ∧ stored t p bs
       | .atomic o z x cmp => changes fun p =>
         (host = true → p.mode ≠ 2 → reads (size z)) ∧
         ((host = true → p.mode = 2) → plain p →
           let old := m.main.readLe p.addr (size z)
           let b := x.toNat % 256 ^ size z
           Occurs i s fun t => t.regs = s.regs ∧ answered t ⟨true, le (size z) old⟩ ∧ stored t p (le (size z)
             (if o = 8 then b else if o = 9 then (if old = cmp.toNat % 256 ^ size z then b else old) else combined o.val (size z) old b))))
    (∀ (a : BitVec 64) (req : HostReq),
      let access : Instr := .hostWindowAccess a req
      let refused : Prop := Occurs access s fun t => t = { s with plat := t.plat, report := .issued } ∧ hosts t err
      let base (j : Nat) : Nat := (s.dev (0xE10 + 2 * j)).toNat % 2 ^ 52 / 65536 * 65536
      let inWindow (j : Nat) : Prop := (s.dev (0xE10 + 2 * j)).getLsbD 63 = true ∧ base j ≤ a.toNat ∧ a.toNat < base j + (s.dev (0xE11 + 2 * j)).toNat % 2 ^ 24 * 65536
      (¬ fits req a.toNat ∨ s.ioStops true = true → Idles access s) ∧
      (fits req a.toNat → s.ioStops true = false → ((∀ j, j < 8 → ¬ inWindow j) → refused) ∧
       (∀ j, j < 8 → inWindow j → (∀ i, i < j → ¬ inWindow i) →
         let x := (s.dev (0xE11 + 2 * j)).toNat / 2 ^ 24 % 2 ^ 24 * 65536 + (a.toNat - base j)
         let slot := (s.dev (0xE10 + 2 * j)).toNat / 2 ^ 56 % 64
         (2 ^ 40 ≤ x ∨ (s.dev (0xC00 + slot)).getLsbD 63 = false → refused) ∧
         (x < 2 ^ 40 → (s.dev (0xC00 + slot)).getLsbD 63 = true →
           served access hosts slot (BitVec.ofNat 64 ((s.dev (0xE11 + 2 * j)).toNat / 2 ^ 48 * 2 ^ 40 + x)) req true)))) ∧
    (let e := s.dev 0xE3A
     let slot := e.toNat / 2 ^ 56 % 64
     ∀ (off : BitVec 48) (req : HostReq) (op : Fin 9) (sz : BitVec 1) (v : BitVec 64),
       let beyond : Prop := e.getLsbD 63 = false ∨ e.toNat % 2 ^ 24 * 65536 ≤ off.toNat ∨ 2 ^ 40 ≤ off.toNat
       let y : Word := BitVec.ofNat 64 (e.toNat / 2 ^ 40 % 2 ^ 16 * 2 ^ 40 + off.toNat)
       let stops : Prop := s.ioStops true = true ∧ s.ioStops false = true
       let runs : Prop := s.ioStops true = false ∧ s.ioStops false = false
       let access : Instr := .peerAccess off req
       let reduce : Instr := .reductionWrite off op sz v
       let refused (i : Instr) : Prop := Occurs i s fun t => t = { s with plat := t.plat, free := t.free, report := .issued } ∧ peers t err
       let able : Prop := off.toNat % size sz = 0 ∧ ¬ (op = 8 ∧ sz = 1)
       (¬ fits req off.toNat → Idles access s) ∧ (¬ able → Idles reduce s) ∧
       (stops → Idles access s ∧ Idles reduce s) ∧
       (runs → (fits req off.toNat → beyond ∨ (s.dev (0xC00 + slot)).getLsbD 63 = false → refused access) ∧
         (able → beyond ∨ (s.dev (0xC00 + slot)).getLsbD 63 = false → refused reduce) ∧
         (¬ beyond → (s.dev (0xC00 + slot)).getLsbD 63 = true → (fits req off.toNat → served access peers slot y req false) ∧
           (∀ p, able → s.reach slot y true = .ok p → s.held p.home p = false → plain p →
             let old := m.main.readLe p.addr (size sz)
             let b := v.toNat % 256 ^ size sz
             Occurs reduce s fun t => t.regs = s.regs ∧ peers t ⟨true, []⟩ ∧
               stored t p (le (size sz) (if op = 8 then (addF32 old b 0 false 0).1 else combined op.val (size sz) old b)))))) ∧
    (let pages (i : Instr) (f : State → Prop) : Prop := (s.ioStops true = true → Idles i s) ∧ (s.ioStops true = false → Occurs i s f)
    (∀ (q : Fin 32) (a : BitVec 64),
      (s.plat.bootPhase ≠ 4 → pages (.submit q a) fun t => t = { s with plat := { s.plat with results := vset s.plat.results q 2 }, report := .issued }) ∧
      (∀ slot bs, s.plat.bootPhase = 4 → s.slotOf (s.queueCtx q.val) = some slot → pathOk a true true = true → s.readRange 0 slot a 256 = .ok bs →
        pages (.submit q a) fun t => vget t.plat.results q = (s.accept 0 (s.queueCtx q.val) slot bs none).1 ∧
          t.sch = (s.accept 0 (s.queueCtx q.val) slot bs none).2.sch ∧ t.ms = s.ms ∧ t.cores = s.cores ∧ t.regs = s.regs)) ∧
    (∀ id : BitVec 16, pages (.hqlid id) fun t => t = { s with plat := { s.plat with hqlid := id }, report := .issued }) ∧
    ((∀ h ∈ s.sch.history, h.1 ≠ s.plat.hqlid) → s.hqout = 0) ∧
    (∀ pre c w post, s.sch.history = pre ++ (s.plat.hqlid, c, w) :: post → (∀ h ∈ pre, h.1 ≠ s.plat.hqlid) → s.hqout = w) ∧
    (∀ (n : BitVec 10) (ks : BitVec 512),
      let k := m.keySlot n.toNat
      let does (i : Instr) (data : BitVec 512) (free : Nat) (x : KeySlot) : Prop := pages i fun t =>
        t = { s with ms := { m with keys := t.ms.keys }, plat := { s.plat with ksslot := n, ksdata := data }, free := free, report := .issued } ∧
        t.ms.keySlot n.toNat = x ∧ ∀ j, j ≠ n.toNat → t.ms.keySlot j = m.keySlot j
      does (.ksLoad n ks) ks s.free { state := 1, key := ks } ∧
      (k.state = 1 → does (.ksErase n) s.plat.ksdata (s.free + 1) { state := 0, key := 0, mark := some s.free, shot := [] } ∧
        does (.ksInvalidate n) s.plat.ksdata (s.free + 1) { k with state := 2, mark := some s.free, shot := [] }) ∧
      (k.state ≠ 1 → does (.ksErase n) s.plat.ksdata s.free { k with state := 0, key := 0 } ∧ does (.ksInvalidate n) s.plat.ksdata s.free k))) ∧
    (∀ p : Fin 16, (s.plat.ualLost.getLsbD p.val = true → Idles (.ualinkPortLoss p) s) ∧
      (s.plat.ualLost.getLsbD p.val = false → Occurs (.ualinkPortLoss p) s fun t => t.plat.ualLost = s.plat.ualLost ||| BitVec.ofNat 16 (2 ^ p.val) ∧ t.regs = s.regs)) ∧
    (∀ (p : Fin 8) (lost : Bool), Occurs (.cxlPortError p lost) s fun t => let c := vget s.plat.cxl p
      vget t.plat.cxl p = { c with err := true, lost := c.lost || lost, up := c.up && !lost } ∧ (∀ q, q ≠ p → vget t.plat.cxl q = vget s.plat.cxl q) ∧ t.regs = s.regs) ∧
    (∀ fr : List (BitVec 40),
      (s.plat.bootPhase ≠ 0 → Occurs (.deviceReset fr) s fun t => t = { State.reset with
        ms := { MemSys.reset with main := m.main, host := m.host, peer := m.peer, lineKeys := m.lineKeys, poison := m.poison }
        agenda := s.agenda, free := s.free, report := .issued } ∧ t.plat.bootPhase = 0) ∧
      (s.plat.bootPhase = 0 → Occurs (.deviceReset fr) s fun t => t = { s with
        plat := { s.plat with cxl := t.plat.cxl, bootPhase := 1 }, report := .issued } ∧
        (List.finRange 8).foldl (fun n p => n + (vget t.plat.cxl p).frames.toNat) 0 ≤ 2 ^ 27 ∧
        ∀ p : Fin 8, (vget t.plat.cxl p).err = false ∧ (vget t.plat.cxl p).lost = false ∧ (vget t.plat.cxl p).up = (fr[p.val]?).isSome ∧
          ((fr.take 8).foldl (fun n x => n + x.toNat) 0 ≤ 2 ^ 27 → (vget t.plat.cxl p).frames = (fr[p.val]?).getD 0))) ∧
    (∀ (a n : BitVec 64) (sig rd : Bool),
      let b : Instr := .bootLoad a n sig rd
      let addr := s.plat.bootAddr.toNat
      let len := s.plat.bootLen.toNat
      let ends : Prop := s.plat.bootPhase = 2 ∧ s.ioStops true = false
      let failed (e : Nat) : Prop := exec b s = .next { s with plat := { s.plat with bootPhase := 5, bootErr := BitVec.ofNat 4 e }, report := .issued }
      let length : Prop := len < 65536 ∨ 2 ^ 28 < len
      let read : Prop := rd = false ∨ addr % 65536 ≠ 0 ∨ 2 ^ 52 < addr + len
      ((s.plat.bootPhase ≠ 1 ∧ s.plat.bootPhase ≠ 2) ∨ s.ioStops true = true → Idles b s) ∧
      (s.plat.bootPhase = 1 → s.ioStops true = false → exec b s = .next { s with
        plat := { s.plat with bootAddr := a, bootLen := n, bootPhase := 2 }, report := .issued }) ∧
      (ends → (length → failed 2) ∧ (¬ length → read → failed 3) ∧ (¬ length → ¬ read → sig = false → failed 1) ∧
        (¬ length → ¬ read → sig = true → (m.keySlot 0).state ≠ 1 → failed 4) ∧
        (¬ length → ¬ read → sig = true → (m.keySlot 0).state = 1 → canonicalAbove devReset none s.regs = true → Occurs b s fun t =>
          t.dev 0x900 = 0x80 ∧ t.cores = s.cores ∧ t.ms = m.installImage (m.host.readList addr len) ∧
          ((t.plat.bootPhase = 3 ∧ t.plat.bootErr = 0 ∧ ∃ l, t.sch.launches = s.sch.launches ++ [l] ∧ t.plat.bootLid = some l.lid) ∨
           (t.plat.bootPhase = 5 ∧ t.plat.bootErr = 0 ∧ t.sch = s.sch)))))

/-- The register rows act as a privileged write of their register does, and a value they do not answer to changes
nothing (R112, R284, R310 to R312, R315, R337, R338, R347, R349, R357, R364, R367). WAKE sets the wake latches its
mask names. EMUDONE_FINISH marks the held command finished, EMUDONE_FAULT raises the format-word fault at it, for a
TCVT with a code of 12 or above the shape fault; with none held nothing happens. TRESUME makes a task under the save
disposition placeable or ends it; LCTL asks the launch's running tasks to save with reason 3, or kills the launch.
IFT_START starts a test of a fenced core, IFT_COMPLETE ends it, CFENCE_CLEAR readmits a core that passed a later test.
Shootdowns drop the L1 lines of the range, once no issued matrix command and no copy unit on its way still uses a
translation of it (the model's choice, notes/assumptions/99.md). LRT_UNLOAD and LRT_LOAD run the checks and install or
remove the table, and a failed load keeps it; a table whose bytes are lost leaves LRTSTAT. XSCH writes are ignored as
R315 gives; a change of an enabled schedule waits for its next instant. REGISTER_WRITE is the control cluster's MTS at
privileged level. Words the kill leaves in the status area are not stated here. The model's choices, no rule of the
spec: the cause of a killed task (notes/assumptions/51.md), what an emulated command that faults gives back (56.md),
which parameters the instant of a changed schedule uses (78.md), LRTSTAT.ENTRY (114.md). -/
def Obligations.RegisterRowsActAsTheirWrites : Prop :=
  ∀ (s : State),
    let regsOk : Prop := canonicalAbove devReset none s.regs = true
    let same (i : Instr) : Prop := exec i s = .next { s with report := .issued }
    (∀ (k : Fin 768) (m : BitVec 4), Occurs (.wake k m) s fun t => sameButCore s t k ∧ t.core k = { s.core k with cl := (t.core k).cl } ∧
      ∀ x, (t.core k).clu x = if m.getLsbD (cluCode x).val then { (s.core k).clu x with wake := true } else (s.core k).clu x) ∧
    (∀ k : Fin 768, let en := (s.core k).en
      ((en.emul = none ∨ en.emulDone = true) → same (.emudoneFinish k) ∧ same (.emudoneFault k)) ∧
      (∀ c, en.emul = some c → en.emulDone = false →
        let l := longOf c.w1.toNat
        Occurs (.emudoneFinish k) s (fun t => sameButCore s t k ∧ (t.core k).cl = (s.core k).cl ∧ (t.core k).st = ((s.core k).st.popTokens .m l.wait).post .m l.post ∧
          ∃ check, (t.core k).en = { en with emulDone := true, lockPut := none, check := check }) ∧
        (let shape : Bool := match c.i with
           | .tcvt _ _ _ _ => decide (12 ≤ c.shA.toNat / 2 ^ 16 % 16 ∨ 12 ≤ c.shB.toNat / 2 ^ 16 % 16)
           | _ => false
         let tr : Trap := { clu := .m, cause := if shape then 0xF else 0xE, detail := 0, async := false, addr := 0, info := c.w0 ++ if shape then c.w1 else c.fmt }
         let u := s.setCore k { s.core k with en := { en with emul := none, lockPut := none }, st := (s.core k).st.unreserve .m l.post }
         exec (.emudoneFault k) s = .next { u.deliver k .m tr (s.pcOf k .m) with report := .issued }))) ∧
    (∀ n : BitVec 16,
      let held (v : Saved) : Prop := v.slotN = n.toNat ∧ v.ready = false
      let killable (v : Saved) : Prop := v.slotN = n.toNat ∧ (v.ready = false ∨ v.byDisposition = true)
      ((∀ v ∈ s.sch.saved, ¬ held v) → same (.tresumePlace n)) ∧ ((∀ v ∈ s.sch.saved, ¬ killable v) → same (.tresumeKill n)) ∧
      ((∃ v ∈ s.sch.saved, held v) → Occurs (.tresumePlace n) s fun t => t = { s with sch := { s.sch with saved := t.sch.saved }, report := .issued } ∧
        t.sch.saved = s.sch.saved.map fun v => if v.slotN = n.toNat then { v with ready := true } else v) ∧
      (∀ pre v post, s.sch.saved = pre ++ v :: post → killable v → (∀ w ∈ pre, ¬ killable w) →
        (v.placed = true → Occurs (.tresumeKill n) s fun t => t = { s with cores := t.cores, free := s.free + 1, report := .issued } ∧ ∀ k,
          let its : Prop := (s.core k).restoring = true ∧ ∃ tk u, (s.core k).task = some tk ∧ v.core.task = some u ∧ tk.lid = v.lid ∧ tk.ordinal = u.ordinal
          (¬ its → t.core k = s.core k) ∧ (its → t.core k = { s.core k with term := (t.core k).term } ∧ (t.core k).term.isSome)) ∧
        (v.placed = false → Occurs (.tresumeKill n) s fun t =>
        t.sch.saved = s.sch.saved.filter (fun w => w.slotN ≠ n.toNat) ∧ t.regs = s.regs ∧ t.plat = s.plat ∧
        ∀ l tk, v.core.task = some tk → s.sch.launches = [l] → l.lid = v.lid → (l.flags.getLsbD 4 = false ∨ l.status = 0) →
          ∃ m, t.sch.launches = [m] ∧ m.terminated = l.terminated + 1 ∧ m.next = l.count ∧ t.ms = s.ms))) ∧
    (∀ lid : BitVec 16,
      Occurs (.lctlSave lid) s (fun t => t = { s with cores := t.cores, report := .issued } ∧ ∀ k,
        (∀ tk, (s.core k).task = some tk → tk.lid = lid → (s.core k).term = none → (s.core k).save = none →
          t.core k = { s.core k with save := some { reason := 3, tick := s.cadence.toNat } }) ∧
        ((∀ tk, (s.core k).task = some tk → tk.lid ≠ lid) ∨ (s.core k).term ≠ none ∨ (s.core k).save ≠ none → t.core k = s.core k)) ∧
      ((∀ l ∈ s.sch.launches, l.lid ≠ lid) → same (.lctlKill lid)) ∧
      (∀ l, s.launch? lid = some l → (∀ c, l.state = .ending c → c = 2) → Occurs (.lctlKill lid) s fun t =>
        (∀ m ∈ t.sch.launches, m.lid = lid → m.state = .ending 4 ∧ m.next = m.count) ∧ (∀ v ∈ t.sch.saved, v.lid ≠ lid) ∧ t.regs = s.regs ∧
        ∀ k, ((s.core k).task = none → (t.core k).term = (s.core k).term) ∧ ∀ tk, (s.core k).task = some tk →
          (tk.lid = lid → (t.core k).term.isSome) ∧ (tk.lid ≠ lid → (t.core k).term = (s.core k).term))) ∧
    (∀ v : BitVec 64, let c := v.toNat % 1024
      let starts : Prop := v.getLsbD 63 = true ∧ s.plat.iftBusy = false ∧ c < 768 ∧ s.cfence (Fin.ofNat 768 c) = true
      regsOk → Occurs (.iftStart v) s fun t => t.dev 0xA70 = BitVec.ofNat 64 c ∧ t.cores = s.cores ∧ t.ms = s.ms ∧ (¬ starts → t.plat = s.plat) ∧
        (starts → t.plat = { s.plat with iftBusy := true, iftCore := BitVec.ofNat 10 c, iftTick := s.cadence.toNat })) ∧
    (∀ pass, (s.plat.iftBusy = false → Idles (.iftComplete pass) s) ∧
      (s.plat.iftBusy = true → Occurs (.iftComplete pass) s fun t => t.plat.iftBusy = false ∧ t.plat.iftPass = pass ∧ t.plat.iftCore = s.plat.iftCore ∧ t.regs = s.regs)) ∧
    (∀ (n : Fin 12) (v : BitVec 64), regsOk → Occurs (.cfenceClear n v) s fun t => t.ms = s.ms ∧ t.sch = s.sch ∧ ∀ k : Fin 768,
      let clears : Prop := k.val / 64 = n.val ∧ v.getLsbD (k.val % 64) = true ∧ s.plat.iftPass = true ∧ s.plat.iftBusy = false ∧
        s.plat.iftCore.toNat = k.val ∧ ∃ u, alGet s.plat.fenced k.val = some u ∧ u ≤ s.plat.iftTick
      t.cfence k = true ↔ s.cfence k = true ∧ ¬ clears) ∧
    (∀ v : BitVec 64,
      let scope := v.toNat / 2 ^ 56 % 4
      let slot := v.toNat / 2 ^ 58
      let tid := v.toNat / 2 ^ 40 % 2 ^ 16
      let first := v.toNat / 2 ^ 16 % 2 ^ 24
      let count := if (s.dev 0xC41).toNat % 2 ^ 25 = 0 then 1 else (s.dev 0xC41).toNat % 2 ^ 25
      let named (t : Nat × Nat × Nat) : Prop := t.1 = slot ∧ (scope = 2 ∨ (t.2.1 = tid ∧ (scope = 1 ∨ (first ≤ t.2.2 ∧ t.2.2 < first + count))))
      let hit (l : L1Line) : Prop := named (l.slot, l.tid, l.page)
      let waits : Prop := ∃ k : Fin 768, (∃ c ∈ (s.core k).en.mq, ∃ p ∈ c.places, named p.tag) ∨
        (∃ r ∈ (s.core k).en.mrun, r.phase ≠ .done ∧ ∃ p ∈ r.cmd.places, named p.tag) ∨
        ∃ ch ∈ (s.core k).en.chans.toList, ∃ c rest f, ch.cmds = c :: rest ∧ ch.flight = some f ∧ ∃ w ∈ f.writes, let a := w.1.toNat
          (a / 2 ^ 60 = 0 ∨ a / 2 ^ 60 = 3) ∧ ∃ j < (a % 65536 + w.2.length + 65535) / 65536, named (c.ctxSlot, a / 2 ^ 40 % 65536, a / 65536 % 2 ^ 24 + j)
      ∀ i ∈ ([(.shootdownPages v, 0), (.shootdownTensor v, 1), (.shootdownContext v, 2)] : List (Instr × Nat)),
        (scope ≠ i.2 ∨ waits → Idles i.1 s) ∧ (scope = i.2 → ¬ waits → Occurs i.1 s fun t => t.regs = s.regs ∧ t.sch = s.sch ∧ t.plat = s.plat ∧
          ∀ k l, l ∈ (t.core k).en.l1 ↔ l ∈ (s.core k).en.l1 ∧ ¬ hit l)) ∧
    (let ctx := BitVec.ofNat 12 (s.dev 0xA01).toNat
     (s.ctxBusy ctx = true → Occurs .lrtUnload s fun t => t.lat = { s.lat with statDetail := 9, statEntry := 0xFF } ∧ t.ms = s.ms) ∧
     (s.ctxBusy ctx = false → Occurs .lrtUnload s fun t => t.lat.tables = s.lat.tables.filter (fun x => x.ctx ≠ ctx) ∧ t.lat.statDetail = 0 ∧ t.ms = s.ms) ∧
     (Idles (.lrtLoad 0) s) ∧
     ∀ a : BitVec 64, a ≠ 0 →
       (pathOk a true false = false ∨ s.slotOf ctx = none → Occurs (.lrtLoad a) s fun t => t.lat = { s.lat with statDetail := 1, statEntry := 0xFF } ∧ t.ms = s.ms) ∧
       (∀ slot c d x, pathOk a true false = true → s.slotOf ctx = some slot → s.readRange 0 slot a 2176 = .error (c, d, x) →
         if c = 0x21 then same (.lrtLoad a) else Occurs (.lrtLoad a) s fun t => t.lat = { s.lat with statDetail := 1, statEntry := 0xFF } ∧ t.ms = s.ms) ∧
       (∀ slot bs, pathOk a true false = true → s.slotOf ctx = some slot → s.readRange 0 slot a 2176 = .ok bs → s.ctxBusy ctx = true →
         Occurs (.lrtLoad a) s fun t => t.lat = { s.lat with statDetail := 9, statEntry := 0xFF } ∧ t.ms = s.ms) ∧
       (∀ slot bs, pathOk a true false = true → s.slotOf ctx = some slot → s.readRange 0 slot a 2176 = .ok bs → s.ctxBusy ctx = false →
         (∀ d e, s.tableFault bs = some (d, e) → Occurs (.lrtLoad a) s fun t =>
           t.lat = { s.lat with statDetail := BitVec.ofNat 4 d, statEntry := BitVec.ofNat 8 e } ∧ t.ms = s.ms) ∧
         (s.tableFault bs = none → Occurs (.lrtLoad a) s fun t => t.lat.statDetail = 0 ∧ t.cores = s.cores ∧ t.regs = s.regs ∧
           ∃ rt, t.lat.tables = rt :: s.lat.tables.filter (fun x => x.ctx ≠ ctx) ∧ rt.ctx = ctx ∧ rt.key = field bs 64 2 ∧ rt.lmsize = field bs 72 8 ∧
             (∀ d : Fin 8, vget rt.dbase d = field bs (8 * d.val) 8) ∧ rt.regions = ((usedEntries bs).map fun e => regionOf e.2) ∧
             (∀ d : Fin 8, vget rt.dbase d % 8 = d.val) ∧ ∀ r ∈ rt.regions, 0 < r.size ∧ r.base.toNat % (if r.type = 8 then 128 else 64) = 0))) ∧
    (∀ (k : Fin 8) (v : BitVec 64),
      let en := v.getLsbD 63
      let ignored : Prop := (en = true ∧ (v.toNat % 2 ^ 32 < 256 ∨ v.toNat / 2 ^ 58 % 4 = 3)) ∨ (en = false ∧ ∃ rt ∈ s.lat.tables, ∃ r ∈ rt.regions, r.sched = k)
      (ignored → same (.xschWrite k v)) ∧
      (¬ ignored → regsOk → Occurs (.xschWrite k v) s fun t => t = { s with regs := t.regs, lat := t.lat, report := .issued } ∧
        t.lat = (if en = true ∧ (vget s.lat.inForce k).getLsbD 63 = true then s.lat else
          { s.lat with inForce := vset s.lat.inForce k (v &&& 0x8FFF_FFFF_FFFF_FFFF) }) ∧ t.dev (0xA08 + k.val) = v &&& 0x8FFF_FFFF_FFFF_FFFF ∧
        ∀ n, n ≠ 0xA08 + k.val → t.dev n = s.dev n)) ∧
    (∀ (k : Fin 768) (n : BitVec 12) (v : BitVec 64),
      let u : State := { s.at_ k .c with report := .issued }
      ((regFault n.toNat .c true true).isSome ∨ n = 0xA00 ∨ u.writeWaits n.toNat v = true → Idles (.registerWrite k n v) s) ∧
      (regFault n.toNat .c true true = none → n ≠ 0xA00 → u.writeWaits n.toNat v = false → (∃ t, exec (.registerWrite k n v) s = .next t ∧ t.report = .issued) ∧
        ∀ a, a ≠ 0 → ((s.core k).clu .c).priv = true → vget ((s.core k).clu .c).g a = v → exec (.registerWrite k n v) s = exec (.mts n a) u))

/-- A privileged 8-byte access at a register's window offset acts as MFS or MTS, and every other access beyond the
core range faults (R141, R342). At privileged level an eight-byte LD or LDA at offset 0x1000000 + 8n of path 0xF, n
from 0x800 to 0xFFF, does exactly what MFS of register n does, LDA after its acquire, and ST and STR what MTS does,
unless those would raise the illegal-instruction or cluster-class fault, where the access raises the address fault. A
misaligned offset raises the misalignment fault, an access of another size or outside both ranges the address fault,
and any access at user level the privilege fault. -/
def Obligations.PrivilegedWindowReachesRegisters : Prop :=
  ∀ (s : State) (d a b : Reg) (scope : BitVec 2) (sg : BitVec 1) (ty : BitVec 3) (sz : BitVec 2),
    let x := s.g a
    let off := x.toNat % 2 ^ 40
    let size := 2 ^ sz.toNat
    let priv := (s.old.clu s.cur.clu).priv
    let all (o : Out) : Prop := exec (.ld d a ty 0) s = o ∧ exec (.lda d a scope sz sg) s = o ∧ exec (.st a b sz 0) s = o ∧ exec (.str a b scope sz) s = o
    x.toNat / 2 ^ 60 = 15 → ty.toNat % 4 = sz.toNat →
    (priv = false → all (s.faultAt 3 0 x)) ∧
    (priv = true → x.toNat % size ≠ 0 → all (s.faultAt 9 0 x)) ∧
    (priv = true → x.toNat % size = 0 →
      (x.toNat / 2 ^ 40 % 2 ^ 20 ≠ 0 ∨ (0x100000 ≤ off ∧ (sz ≠ 3 ∨ off < 0x1004000 ∨ 0x1008000 ≤ off)) → all (s.faultAt 8 0 x)) ∧
      (∀ n : BitVec 12, x.toNat / 2 ^ 40 % 2 ^ 20 = 0 → sz = 3 → 0x800 ≤ n.toNat → off = 0x1000000 + 8 * n.toNat →
        (if (regFault n.toNat s.cur.clu true false).isSome
         then exec (.ld d a ty 0) s = s.faultAt 8 0 x ∧ exec (.lda d a scope sz sg) s = s.faultAt 8 0 x
         else exec (.ld d a ty 0) s = exec (.mfs d n) s ∧ exec (.lda d a scope sz sg) s = exec (.mfs d n) (s.acquire scope.toNat)) ∧
        (if (regFault n.toNat s.cur.clu true true).isSome
         then exec (.st a b sz 0) s = s.faultAt 8 0 x ∧ exec (.str a b scope sz) s = s.faultAt 8 0 x
         else exec (.st a b sz 0) s = exec (.mts n b) s ∧ exec (.str a b scope sz) s = exec (.mts n b) s)))

/-- Decoding undoes encoding for every well-formed instruction, and encoding undoes decoding for every word that
decodes (R49, R50, R51, R54, R83). For every well-formed instruction and every value of its S and E bits, the encoder
gives one word, or two for a long major, each below 2^32, with S at bit 25, E at bit 24 and the major at [31:26];
decoding them gives that instruction back with every operand. In the other direction, the instruction of any decodable
words is well-formed, and encoding it with the words' S and E bits gives the same words, so each instruction has one
encoding and no bit of a word is dropped. That bits a form does not use must be zero for JMPR, WBR to PREF, TKWAIT,
TKPOST, QPUSH, QPOP, the clasp forms, PUBL, RDCAD, LOCQ and LAUNCH is the model's choice (notes/assumptions/100.md).
-/
def Obligations.DecodingAndEncodingAgree : Prop :=
  (∀ (s e : Bool) (i : Instr), wellFormed i = true → ∃ w0 rest, encode s e i = w0 :: rest ∧ w0 < 2 ^ 32 ∧ (∀ w ∈ rest, w < 2 ^ 32) ∧
    rest.length = (if isLongMajor (majorOf w0) then 1 else 0) ∧ majorOf w0 = majorOfInstr i ∧
    w0 / 2 ^ 25 % 2 = s.toNat ∧ w0 / 2 ^ 24 % 2 = e.toNat ∧ decode w0 (rest.headD 0) = .ok i) ∧
  (∀ (w0 w1 : Nat) (i : Instr), w0 < 2 ^ 32 → w1 < 2 ^ 32 → decode w0 w1 = .ok i →
    wellFormed i = true ∧
    encode (decide (w0 / 2 ^ 25 % 2 = 1)) (decide (w0 / 2 ^ 24 % 2 = 1)) i = w0 :: (if isLongMajor (majorOf w0) then [w1] else []))

/-- The words the spec writes out bit by bit decode to the instructions it gives for them, and a word of no form to
none (R50, R51, R54). The words of the worked encodings (examples 2.2, 5.2, 5.3, 5.4, 6.1, 7.3, 8.1 and the tables of
files 03, 08, 09 and 18): CMPNEI, B, LOOP, LI, STR, AADD, TMMA, TMMAS, TDRAINADD, FMTW, VTOPK, VLD, COPYMC, SEQCFG,
QPOP, TKPOST, SCLAIM, CLARRIVE, RDCAD, LAUNCH, PWRACQ, TRAP, LDGE, JOIN, END and EXIT. Major 0x07 and a word of zeros
decode to no instruction. -/
def Obligations.WrittenOutWordsDecode : Prop :=
  let l : Long := { guard := 0, wait := 0, post := 0, stamp := 0 }
  decode 0x3508C800 0 = .ok (.cmpnei 1 3 0) ∧ decode 0x41320000 0 = .ok (.b 1 1 2 0) ∧
  decode 0x4D4CA000 0 = .ok (.loop 1 6 5 0) ∧ decode 0x39280002 0 = .ok (.li 5 2) ∧
  decode 0x69010AD8 0 = .ok (.str 4 5 2 3) ∧ decode 0x7122041E 0 = .ok (.aadd 4 8 2 1 3 2) ∧
  decode 0xED121400 0x09000000 = .ok (.tmma { l with wait := 2, post := 2 } 5 1 2) ∧
  decode 0xF1341CC0 0x02001000 = .ok (.tmmas { l with post := 4, stamp := 32 } 7 3 4 6) ∧
  decode 0xF5000931 0 = .ok (.tdrainadd l 9 2 1) ∧ decode 0xE1000080 0x02000000 = .ok (.fmtw { l with post := 4 } 4) ∧
  decode 0xD12190D0 0 = .ok (.vtopk 4 6 8 3) ∧ decode 0xD9208000 2 = .ok (.vld l 4 2 2 0) ∧
  decode 0xB5214C80 0xF = .ok (.copymc l 2 4 5 6 15) ∧ decode 0xA53A1200 1 = .ok (.seqcfg l 1 7 8 9) ∧
  decode 0x812800C3 0 = .ok (.qpop 5 3) ∧ decode 0x81000045 0 = .ok (.tkpost 5) ∧ decode 0x85280003 0 = .ok (.sclaim 3 5) ∧
  decode 0x89010AA0 0 = .ok (.clarrive 4 5 1) ∧ decode 0x8D280001 0 = .ok (.rdcad 5) ∧ decode 0x8D190003 0 = .ok (.launch 3 4) ∧
  decode 0x910000C8 0 = .ok (.pwracq 200) ∧ decode 0x5D004A00 0 = .ok (.trap 37) ∧ decode 0x75310203 0 = .ok (.ldge 6 4 1) ∧
  decode 0x75010A00 0 = .ok (.join 4 5) ∧ decode 0x95000001 0 = .ok .end_ ∧ decode 0x95000000 0 = .ok .exit ∧
  (∀ i, decode 0x1C000000 0 ≠ .ok i) ∧ (∀ i, decode 0 0 ≠ .ok i)

/-- A step runs the instruction that the words at the pc decode to, in a bundle of one or two, or the event its agenda
names (R12, R30, R40, R42, R45, R47, R48, R55, R56, R137, R340, R396). On a bundle turn the ticks before it pass and
the cluster attempts its bundle. A fetch error or an error of decoding is a precise fault; a bundle of one instruction
that an unfinished form holds waits; otherwise the instruction executes with every register latched and the pc behind
the bundle: what it answers decides, and when it issues the bundle ends with its counts, charge and loop ends, unless
the charge overdraws the allowance (cause 0x1B). A bundle of two runs as the bundle operation runs its two. A sync
bundle waits until all live clusters stand at one. One word whose decoding the checks of R55 pass is a bundle of one.
An event turn is that event's meaning; host and peer bytes are written as given (into memories in canonical form), and
a parity error is a machine check 0x21; an empty agenda takes the next ready cluster after one tick. Shootdowns owed
for pages that a write-back revived end the step (shotAfter). The model's choices, no rule of the spec: turns, the
agenda and the choice of the next cluster (notes/assumptions/1.md, 7.md), the latch that registers are read from
(9.md), and that a sync bundle is attempted only once every live cluster stands at one (93.md). -/
def Obligations.AStepRunsTheDecodedBundle : Prop :=
  (∀ (s : State) (k : Fin 768) (x : Clu) (dt : Nat) (rest : List Turn), s.agenda = .bundle k x dt :: rest →
    let u := (({ s with agenda := rest } : State).advance dt)
    let y := ({ (u.endIdle k x) with cur := { core := k, clu := x }, latch := none } : State)
    let settle (w : State) : Out := shotAfter (
      if ((w.core k).clu x).atSync && w.syncNext k x then
        (match w.rendezvous exec k with
        | .next z => .next { z with latch := none }
        | o => o)
      else .next w)
    u.cadence = s.cadence + BitVec.ofNat 64 dt ∧ u.ms = s.ms ∧ u.regs = s.regs ∧ u.sch = s.sch ∧
    (y.canIssue k x = false → step s = settle { y with report := .idle }) ∧
    (y.canIssue k x = true →
      (∀ e, y.nextBundle = .error e → ∃ w, (y.settledPc k x).refuseBundle e.cause e.detail e.addr e.w0 e.w1 = .next w ∧ step s = settle w) ∧
      (∀ v f, y.nextBundle = .ok (v, f) →
        (∀ c w0 w1, decodeBundle x f = .error (c, w0, w1) → ∃ w, v.refuseBundle c 0 0 w0 w1 = .next w ∧ step s = settle w) ∧
        (f.second = none → (∀ i, decodeChecked x f.first = .ok i → decodeBundle x f = .ok [⟨i, f.first.1, f.first.2⟩]) ∧
          ∀ c, decodeChecked x f.first = .error c → decodeBundle x f = .error (c, f.first.1, f.first.2)) ∧
        (∀ ps, decodeBundle x f = .ok ps → f.sync = true → v.cl.inh = false →
          step s = settle { (v.onCl fun c => { c with atSync := true }) with report := .stalled }) ∧
        (∀ ps, decodeBundle x f = .ok ps → (f.sync = false ∨ v.cl.inh = true) →
          (∀ w, v.execBundle exec f ps false = .next w → step s = settle w) ∧
          (∀ e, v.execBundle exec f ps false = .fault e → step s = .fault e) ∧
          (∀ e, v.execBundle exec f ps false = .refused e → step s = .refused e) ∧
          ∀ p, ps = [p] →
            let c := max 1 ((v.entering p f).chargeOf p.i)
            ((v.core k).interlocked x p.i = true → v.execBundle exec f ps false =
              .next { (if x = .m then v.onCl fun c => c.holdOn v.cadence.toNat else v) with report := .stalled }) ∧
            ((v.core k).interlocked x p.i = false →
              (∀ w, exec p.i (v.entering p f) = .next w →
                ((w.report = .stalled ∨ w.report = .trapped ∨ w.report = .idle) → v.execBundle exec f ps false = .next { w with latch := none }) ∧
                ((w.report = .issued ∨ w.report = .branched) →
                  (v.overdraws k c = true → v.execBundle exec f ps false = v.refuseBundle 0x1B 0 0 p.w0 p.w1) ∧
                  (v.overdraws k c = false → v.execBundle exec f ps false = .next (w.endBundle v.me [p] false c)))) ∧
              (∀ e, exec p.i (v.entering p f) = .fault e → v.execBundle exec f ps false = .fault e) ∧
              (∀ e, exec p.i (v.entering p f) = .refused e → v.execBundle exec f ps false = .refused e)))))) ∧
  (∀ (s : State) (t : Turn) (rest : List Turn), s.agenda = t :: rest →
    let u (dt : Nat) := (({ s with agenda := rest } : State).advance dt)
    (∀ i dt, t = .event i dt → (majorOfInstr i = 0 → step s = shotAfter (exec i (u dt))) ∧
      (majorOfInstr i ≠ 0 → step s = shotAfter (.next { (u dt) with report := .idle }))) ∧
    (∀ a b dt, t = .hostByte a b dt → a < 2 ^ 52 → s.ms.host.wf = true → ∃ w, step s = shotAfter (.next w) ∧
      (∀ j, w.ms.host.read j = if j = a then b else s.ms.host.read j) ∧ w = { u dt with ms := { s.ms with host := w.ms.host }, report := .issued }) ∧
    (∀ a b dt, t = .peerByte a b dt → a < 2 ^ 58 → s.ms.peer.wf = true → ∃ w, step s = shotAfter (.next w) ∧
      (∀ j, w.ms.peer.read j = if j = a then b else s.ms.peer.read j) ∧ w = { u dt with ms := { s.ms with peer := w.ms.peer }, report := .issued }) ∧
    (∀ k x dt, t = .parity k x dt → (((u dt).core k).task = none → step s = shotAfter (.next { u dt with report := .idle })) ∧
      (((u dt).core k).task ≠ none → step s = shotAfter (.next { (u dt).machineCheck k x 0x21 0 with report := .trapped })))) ∧
  (∀ s : State, s.agenda = [] →
    (s.nextTurn = none → step s = .next { (s.advance 1) with report := .idle }) ∧
    ∀ k x, s.nextTurn = some (k, x) → step s = shotAfter ((s.advance 1).runBundle exec k x))

/-- At reset the registers hold the reset values the spec states, no task runs and nothing is pending (R27, R30, R333,
R344, R348, R358, R382, R392, R394, R400). The cadence counter is 0; no core holds a task, no launch is queued and no
task is saved; every cluster register is 0; hallmark pairs are all ones; the error windows hold THR 3 and WIN 2^20
with empty histories; TDISP0 is 0x0200_0000, TDISP1 0 and HTMO 0x0100_0000; every island is at P0 with margin 7 and no
stretch; CLKWTH is 2; DIEPWR holds CAP 480, BUDGET 24,480, DEFLVL 64, SLEW 200; boot phase and error are 0; and every
memory stands in its canonical form. Values of reset the spec does not state (log entry 3) are no part of this but
where they are zeros of a register. -/
def Obligations.ResetLeavesTheStatedValues : Prop :=
  let s := State.reset
  s.wf = true ∧ s.cadence = 0 ∧ s.regs = [] ∧ s.sch.launches = [] ∧ s.sch.saved = [] ∧ s.agenda = [] ∧ s.latch = none ∧
  (∀ k : Fin 768, (s.core k).task = none ∧ (s.core k).pend = [] ∧ (s.core k).exit = none ∧ (s.core k).term = none ∧ (s.core k).save = none ∧
    (s.core k).rg.aflags = 0 ∧ (s.core k).rg.dpstat = 0 ∧ (s.core k).rg.pwrlvl = 0 ∧
    (s.core k).rg.ewpri = 0x300100000 ∧ (s.core k).rg.ewshd = 0x300100000 ∧ (s.core k).rg.ewxfr = 0x300100000 ∧
    (s.core k).rg.ecpri.total = 0 ∧ (s.core k).rg.ecshd.total = 0 ∧ (s.core k).rg.ecxfr.total = 0 ∧
    (∀ i, vget (s.core k).rg.pmsel i = 0 ∧ vget (s.core k).rg.pmc i = 0) ∧
    (∀ n, vget (s.core k).st.hall n = (0xFFFFFFFFFFFFFFFF, 0xFFFFFFFFFFFFFFFF)) ∧
    ∀ x, let c := (s.core k).clu x
      c.tpc = 0 ∧ c.tcause = 0 ∧ c.taddr = 0 ∧ c.tinfo = 0 ∧ c.tstat = 0 ∧ c.tvec = 0 ∧ c.pctx = 0 ∧ c.priv = false ∧ c.inh = false ∧
      ∀ r, c.gReg r = 0) ∧
  s.dev 0x818 = 0x2000000 ∧ s.dev 0x819 = 0 ∧ s.dev 0x821 = 0x1000000 ∧ s.dev 0xECF = 2 ∧
  (∀ d : Fin 8, s.dev (0xF50 + d.val) = BitVec.ofNat 64 (480 * 2 ^ 48 + 24480 * 2 ^ 32 + 64 * 2 ^ 24 + 200) ∧
    (vget s.plat.dies d).ewmem = 0x300100000 ∧ (vget s.plat.dies d).power = 0 ∧ (vget s.plat.dies d).ballast = none ∧ (vget s.plat.dies d).waiting = []) ∧
  (∀ i : Fin 76, let z := vget s.plat.islands i
    z.state = 0 ∧ z.thr = 0 ∧ z.stop = false ∧ z.margin = 7 ∧ z.warn = false ∧ z.stretch = 0) ∧
  (∀ l : Fin 14, (vget s.plat.links l).rate = 0 ∧ (vget s.plat.links l).crcerr = 0 ∧ (vget s.plat.links l).replays = 0) ∧
  s.plat.bootPhase = 0 ∧ s.plat.bootErr = 0

/-- Every step keeps every memory, buffer, tile, saved core and the device registers in canonical form (R4, R8, R16,
R20, R30, R45, R273). From every state whose byte stores (the memories behind the dies, of the host and of the peer;
the typed buffers and tiles of every core, of the latched core and of every saved task) and whose list of device
registers are in canonical form, keys strictly rising and no entry equal to what an unlisted key reads as, a step that
gives a next state gives one of which the same holds. So equal memories are equal data after any instruction, event or
trap. The canonical form is the model's representation; the spec's memory is a map from addresses to bytes. -/
def Obligations.StepsKeepMemoriesCanonical : Prop :=
  ∀ s t : State, s.wf = true → step s = .next t → t.wf = true
end

