-- ==== Sys2Proof/Laws/State.lean ====
section
/-! SUPPORT. What reads of a state give after each named update: registers, cores, device registers. -/

namespace Sys2Proof.Machine

/-! Register files. -/

theorem vget_vset_same {α : Type} {n : Nat} (v : Vector α n) (i : Fin n) (x : α) : vget (vset v i x) i = x := by
  simp [vget, vset]

theorem vget_vset_ne {α : Type} {n : Nat} (v : Vector α n) {i j : Fin n} (x : α) (h : j ≠ i) :
    vget (vset v i x) j = vget v j := by
  simp only [vget, vset]
  exact Vector.getElem_set_ne _ _ (fun e => h (Fin.ext e.symm))

theorem vget_vset {α : Type} {n : Nat} (v : Vector α n) (i j : Fin n) (x : α) :
    vget (vset v i x) j = if j = i then x else vget v j := by
  split
  · subst j; exact vget_vset_same ..
  · exact vget_vset_ne _ _ ‹_›

theorem vmap_get {α β : Type} {n : Nat} (f : α → β) (v : Vector α n) (i : Fin n) : vget (vmap f v) i = f (vget v i) := by
  simp [vget, vmap]

theorem cluCode_inj {x y : Clu} (h : cluCode x = cluCode y) : x = y := by
  cases x <;> cases y <;> first | rfl | exact absurd h (by decide)

/-! Cores: one lemma per field. -/

@[simp] theorem State.setCore_core_same (s : State) (k : Fin 768) (c : Core) : (s.setCore k c).core k = c := vget_vset_same ..
theorem State.setCore_core_ne (s : State) {k j : Fin 768} (c : Core) (h : j ≠ k) : (s.setCore k c).core j = s.core j :=
  vget_vset_ne _ _ h
@[simp] theorem State.setCore_cadence (s : State) (k : Fin 768) (c : Core) : (s.setCore k c).cadence = s.cadence := rfl
@[simp] theorem State.setCore_quads (s : State) (k : Fin 768) (c : Core) : (s.setCore k c).quads = s.quads := rfl
@[simp] theorem State.setCore_ms (s : State) (k : Fin 768) (c : Core) : (s.setCore k c).ms = s.ms := rfl
@[simp] theorem State.setCore_lat (s : State) (k : Fin 768) (c : Core) : (s.setCore k c).lat = s.lat := rfl
@[simp] theorem State.setCore_sch (s : State) (k : Fin 768) (c : Core) : (s.setCore k c).sch = s.sch := rfl
@[simp] theorem State.setCore_plat (s : State) (k : Fin 768) (c : Core) : (s.setCore k c).plat = s.plat := rfl
@[simp] theorem State.setCore_regs (s : State) (k : Fin 768) (c : Core) : (s.setCore k c).regs = s.regs := rfl
@[simp] theorem State.setCore_agenda (s : State) (k : Fin 768) (c : Core) : (s.setCore k c).agenda = s.agenda := rfl
@[simp] theorem State.setCore_cur (s : State) (k : Fin 768) (c : Core) : (s.setCore k c).cur = s.cur := rfl
@[simp] theorem State.setCore_latch (s : State) (k : Fin 768) (c : Core) : (s.setCore k c).latch = s.latch := rfl
@[simp] theorem State.setCore_ir (s : State) (k : Fin 768) (c : Core) : (s.setCore k c).ir = s.ir := rfl
@[simp] theorem State.setCore_report (s : State) (k : Fin 768) (c : Core) : (s.setCore k c).report = s.report := rfl
@[simp] theorem State.setCore_free (s : State) (k : Fin 768) (c : Core) : (s.setCore k c).free = s.free := rfl

@[simp] theorem State.onMe_me (s : State) (f : Core → Core) : (s.onMe f).me = f s.me := vget_vset_same ..
@[simp] theorem State.onMe_cur (s : State) (f : Core → Core) : (s.onMe f).cur = s.cur := rfl
@[simp] theorem State.onMe_ms (s : State) (f : Core → Core) : (s.onMe f).ms = s.ms := rfl
@[simp] theorem State.onMe_report (s : State) (f : Core → Core) : (s.onMe f).report = s.report := rfl
@[simp] theorem State.onMe_cadence (s : State) (f : Core → Core) : (s.onMe f).cadence = s.cadence := rfl
@[simp] theorem State.onMe_quads (s : State) (f : Core → Core) : (s.onMe f).quads = s.quads := rfl
@[simp] theorem State.onMe_lat (s : State) (f : Core → Core) : (s.onMe f).lat = s.lat := rfl
@[simp] theorem State.onMe_sch (s : State) (f : Core → Core) : (s.onMe f).sch = s.sch := rfl
@[simp] theorem State.onMe_plat (s : State) (f : Core → Core) : (s.onMe f).plat = s.plat := rfl
@[simp] theorem State.onMe_regs (s : State) (f : Core → Core) : (s.onMe f).regs = s.regs := rfl
@[simp] theorem State.onMe_agenda (s : State) (f : Core → Core) : (s.onMe f).agenda = s.agenda := rfl
@[simp] theorem State.onMe_latch (s : State) (f : Core → Core) : (s.onMe f).latch = s.latch := rfl
@[simp] theorem State.onMe_ir (s : State) (f : Core → Core) : (s.onMe f).ir = s.ir := rfl
@[simp] theorem State.onMe_free (s : State) (f : Core → Core) : (s.onMe f).free = s.free := rfl
@[simp] theorem State.onSt_me (s : State) (f : Storage → Storage) : (s.onSt f).me = { s.me with st := f s.me.st } := State.onMe_me ..
@[simp] theorem State.onEn_me (s : State) (f : Engines → Engines) : (s.onEn f).me = { s.me with en := f s.me.en } := State.onMe_me ..
@[simp] theorem State.onRg_me (s : State) (f : CoreRegs → CoreRegs) : (s.onRg f).me = { s.me with rg := f s.me.rg } := State.onMe_me ..

@[simp] theorem Core.onClu_same (k : Core) (x : Clu) (f : Cluster → Cluster) : (k.onClu x f).clu x = f (k.clu x) :=
  vget_vset_same ..
theorem Core.onClu_ne (k : Core) {x y : Clu} (f : Cluster → Cluster) (h : y ≠ x) : (k.onClu x f).clu y = k.clu y :=
  vget_vset_ne _ _ fun e => h (cluCode_inj e)
@[simp] theorem Core.onClu_st (k : Core) (x : Clu) (f : Cluster → Cluster) : (k.onClu x f).st = k.st := rfl
@[simp] theorem Core.onClu_en (k : Core) (x : Clu) (f : Cluster → Cluster) : (k.onClu x f).en = k.en := rfl
@[simp] theorem Core.onClu_rg (k : Core) (x : Clu) (f : Cluster → Cluster) : (k.onClu x f).rg = k.rg := rfl
@[simp] theorem Core.onClu_task (k : Core) (x : Clu) (f : Cluster → Cluster) : (k.onClu x f).task = k.task := rfl
@[simp] theorem Core.onClu_term (k : Core) (x : Clu) (f : Cluster → Cluster) : (k.onClu x f).term = k.term := rfl
@[simp] theorem Core.onClu_save (k : Core) (x : Clu) (f : Cluster → Cluster) : (k.onClu x f).save = k.save := rfl

@[simp] theorem State.onCl_cl (s : State) (f : Cluster → Cluster) : (s.onCl f).cl = f s.cl := by
  simp [State.cl, State.onCl]
@[simp] theorem State.onCl_cur (s : State) (f : Cluster → Cluster) : (s.onCl f).cur = s.cur := rfl
@[simp] theorem State.onCl_latch (s : State) (f : Cluster → Cluster) : (s.onCl f).latch = s.latch := rfl

/-! Frames of the updates. -/

theorem sameMemory_of_ms {s t : State} (h : t.ms = s.ms) : sameMemory s t := by simp [sameMemory, h]

theorem sameOutside_setCore (s : State) (c : Core) : sameOutside s (s.setCore s.cur.core c) := by
  refine ⟨rfl, rfl, rfl, rfl, rfl, rfl, rfl, rfl, rfl, rfl, rfl, fun k h => ?_⟩
  exact State.setCore_core_ne _ _ h

/-- A change of the executing cluster is a change of it alone. -/
theorem sameButCluster_onCl (s : State) (f : Cluster → Cluster) : sameButCluster s (s.onCl f) := by
  refine ⟨sameMemory_of_ms rfl, sameOutside_setCore _ _, ?_, fun x h => ?_⟩
  · simp [State.onCl, Core.onClu]
  · simp only [State.onCl, State.onMe_me]
    exact Core.onClu_ne _ _ h

theorem sameButCluster_refl (s : State) : sameButCluster s s :=
  ⟨sameMemory_of_ms rfl, ⟨rfl, rfl, rfl, rfl, rfl, rfl, rfl, rfl, rfl, rfl, rfl, fun _ _ => rfl⟩, rfl, fun _ _ => rfl⟩

/-- What a write to a general register does, all of it. -/
theorem wroteG_setG (s : State) (d : Reg) (x : Word) : wroteG s (s.setG d x) d x := by
  unfold State.setG
  split
  · subst d; exact ⟨sameButCluster_refl s, rfl, rfl, fun r => by simp⟩
  · refine ⟨sameButCluster_onCl _ _, rfl, ?_, fun r => ?_⟩
    · rw [State.onCl_cl]
    · rw [State.onCl_cl]
      simp only [Cluster.gReg, vget_vset]
      split <;> split <;> simp_all

/-- What a write to a predicate does, all of it. -/
theorem wroteP_setP (s : State) (d : Pred) (x : Bool) : wroteP s (s.setP d x) d x := by
  unfold State.setP
  split
  · subst d; exact ⟨sameButCluster_refl s, rfl, rfl, fun r => by simp⟩
  · refine ⟨sameButCluster_onCl _ _, rfl, ?_, fun r => ?_⟩
    · rw [State.onCl_cl]
    · rw [State.onCl_cl]
      simp only [Cluster.pReg, vget_vset]
      split <;> split <;> simp_all

/-! Clusters: the branch, and the holds that a stamped bundle's schedule looks at. -/

@[simp] theorem State.goTo_cadence (s : State) (a : Word) (r : Bool) : (s.goTo a r).cadence = s.cadence := rfl
@[simp] theorem State.goTo_ms (s : State) (a : Word) (r : Bool) : (s.goTo a r).ms = s.ms := rfl
@[simp] theorem State.goTo_quads (s : State) (a : Word) (r : Bool) : (s.goTo a r).quads = s.quads := rfl
@[simp] theorem State.goTo_lat (s : State) (a : Word) (r : Bool) : (s.goTo a r).lat = s.lat := rfl
@[simp] theorem State.goTo_sch (s : State) (a : Word) (r : Bool) : (s.goTo a r).sch = s.sch := rfl
@[simp] theorem State.goTo_plat (s : State) (a : Word) (r : Bool) : (s.goTo a r).plat = s.plat := rfl
@[simp] theorem State.goTo_regs (s : State) (a : Word) (r : Bool) : (s.goTo a r).regs = s.regs := rfl
@[simp] theorem State.goTo_agenda (s : State) (a : Word) (r : Bool) : (s.goTo a r).agenda = s.agenda := rfl
@[simp] theorem State.goTo_cur (s : State) (a : Word) (r : Bool) : (s.goTo a r).cur = s.cur := rfl
@[simp] theorem State.goTo_latch (s : State) (a : Word) (r : Bool) : (s.goTo a r).latch = s.latch := rfl
@[simp] theorem State.goTo_ir (s : State) (a : Word) (r : Bool) : (s.goTo a r).ir = s.ir := rfl
@[simp] theorem State.goTo_free (s : State) (a : Word) (r : Bool) : (s.goTo a r).free = s.free := rfl
@[simp] theorem State.goTo_report (s : State) (a : Word) (r : Bool) : (s.goTo a r).report = .branched := rfl
@[simp] theorem State.goTo_cl (s : State) (a : Word) (r : Bool) :
    (s.goTo a r).cl = { s.cl with pc := a, pcReg := r, lineRoom := maxLines } :=
  State.onCl_cl s fun c => { c with pc := a, pcReg := r, lineRoom := maxLines }

@[simp] theorem Cluster.holdOn_pc (c : Cluster) (n : Nat) : (c.holdOn n).pc = c.pc := rfl
@[simp] theorem Cluster.holdOn_g (c : Cluster) (n : Nat) : (c.holdOn n).g = c.g := rfl
@[simp] theorem Cluster.holdOn_p (c : Cluster) (n : Nat) : (c.holdOn n).p = c.p := rfl
@[simp] theorem Cluster.holdOn_lineRoom (c : Cluster) (n : Nat) : (c.holdOn n).lineRoom = c.lineRoom := rfl
@[simp] theorem Cluster.holdOn_fence (c : Cluster) (n : Nat) : (c.holdOn n).fence = c.fence := rfl
@[simp] theorem Cluster.holdOn_stampSeen (c : Cluster) (n : Nat) : (c.holdOn n).stampSeen = c.stampSeen := rfl
@[simp] theorem Cluster.holdOn_waitSince (c : Cluster) (n : Nat) : (c.holdOn n).waitSince = c.waitSince := rfl
@[simp] theorem Cluster.holdOn_claspWait (c : Cluster) (n : Nat) : (c.holdOn n).claspWait = c.claspWait := rfl
@[simp] theorem Cluster.holdOn_claspKept (c : Cluster) (n : Nat) : (c.holdOn n).claspKept = c.claspKept := rfl
@[simp] theorem Cluster.holdOn_ended (c : Cluster) (n : Nat) : (c.holdOn n).ended = c.ended := rfl
@[simp] theorem Cluster.holdOn_priv (c : Cluster) (n : Nat) : (c.holdOn n).priv = c.priv := rfl
@[simp] theorem Cluster.holdOn_inh (c : Cluster) (n : Nat) : (c.holdOn n).inh = c.inh := rfl
@[simp] theorem Cluster.holdOff_pc (c : Cluster) (n : Nat) : (c.holdOff n).pc = c.pc := rfl
@[simp] theorem Cluster.holdOff_g (c : Cluster) (n : Nat) : (c.holdOff n).g = c.g := rfl
@[simp] theorem Cluster.holdOff_p (c : Cluster) (n : Nat) : (c.holdOff n).p = c.p := rfl
@[simp] theorem Cluster.holdOff_lineRoom (c : Cluster) (n : Nat) : (c.holdOff n).lineRoom = c.lineRoom := rfl
@[simp] theorem Cluster.holdOff_fence (c : Cluster) (n : Nat) : (c.holdOff n).fence = c.fence := rfl
@[simp] theorem Cluster.holdOff_stampSeen (c : Cluster) (n : Nat) : (c.holdOff n).stampSeen = c.stampSeen := rfl
@[simp] theorem Cluster.holdOff_waitSince (c : Cluster) (n : Nat) : (c.holdOff n).waitSince = c.waitSince := rfl
@[simp] theorem Cluster.holdOff_claspWait (c : Cluster) (n : Nat) : (c.holdOff n).claspWait = c.claspWait := rfl
@[simp] theorem Cluster.holdOff_claspKept (c : Cluster) (n : Nat) : (c.holdOff n).claspKept = c.claspKept := rfl
@[simp] theorem Cluster.holdOff_ended (c : Cluster) (n : Nat) : (c.holdOff n).ended = c.ended := rfl
@[simp] theorem Cluster.holdOff_priv (c : Cluster) (n : Nat) : (c.holdOff n).priv = c.priv := rfl
@[simp] theorem Cluster.holdOff_inh (c : Cluster) (n : Nat) : (c.holdOff n).inh = c.inh := rfl

/-! The L1 and the die caches: a change of one leaves everything else. -/

@[simp] theorem Core.l1Drop_task (k : Core) (f : L1Line → Bool) : (k.l1Drop f).task = k.task := rfl
@[simp] theorem Core.l1Update_task (k : Core) (l : Nat) (m : Word) (d : Line) : (k.l1Update l m d).task = k.task := rfl
@[simp] theorem Core.l1Drop_cl (k : Core) (f : L1Line → Bool) : (k.l1Drop f).cl = k.cl := rfl
@[simp] theorem Core.l1Update_cl (k : Core) (l : Nat) (m : Word) (d : Line) : (k.l1Update l m d).cl = k.cl := rfl
@[simp] theorem Core.l1Drop_st (k : Core) (f : L1Line → Bool) : (k.l1Drop f).st = k.st := rfl
@[simp] theorem Core.l1Update_st (k : Core) (l : Nat) (m : Word) (d : Line) : (k.l1Update l m d).st = k.st := rfl
@[simp] theorem Core.l1Drop_rg (k : Core) (f : L1Line → Bool) : (k.l1Drop f).rg = k.rg := rfl
@[simp] theorem Core.l1Update_rg (k : Core) (l : Nat) (m : Word) (d : Line) : (k.l1Update l m d).rg = k.rg := rfl
@[simp] theorem Core.l1Drop_exit (k : Core) (f : L1Line → Bool) : (k.l1Drop f).exit = k.exit := rfl
@[simp] theorem Core.l1Update_exit (k : Core) (l : Nat) (m : Word) (d : Line) : (k.l1Update l m d).exit = k.exit := rfl
@[simp] theorem Core.l1Drop_term (k : Core) (f : L1Line → Bool) : (k.l1Drop f).term = k.term := rfl
@[simp] theorem Core.l1Update_term (k : Core) (l : Nat) (m : Word) (d : Line) : (k.l1Update l m d).term = k.term := rfl
@[simp] theorem Core.l1Drop_save (k : Core) (f : L1Line → Bool) : (k.l1Drop f).save = k.save := rfl
@[simp] theorem Core.l1Update_save (k : Core) (l : Nat) (m : Word) (d : Line) : (k.l1Update l m d).save = k.save := rfl
@[simp] theorem Core.l1Drop_pend (k : Core) (f : L1Line → Bool) : (k.l1Drop f).pend = k.pend := rfl
@[simp] theorem Core.l1Update_pend (k : Core) (l : Nat) (m : Word) (d : Line) : (k.l1Update l m d).pend = k.pend := rfl
@[simp] theorem Core.l1Drop_restoring (k : Core) (f : L1Line → Bool) : (k.l1Drop f).restoring = k.restoring := rfl
@[simp] theorem Core.l1Update_restoring (k : Core) (l : Nat) (m : Word) (d : Line) : (k.l1Update l m d).restoring = k.restoring := rfl
@[simp] theorem MemSys.dropLine_main (m : MemSys) (d : Fin 8) (l : Nat) : (m.dropLine d l).main = m.main := rfl
@[simp] theorem MemSys.dropLine_host (m : MemSys) (d : Fin 8) (l : Nat) : (m.dropLine d l).host = m.host := rfl
@[simp] theorem MemSys.dropLine_peer (m : MemSys) (d : Fin 8) (l : Nat) : (m.dropLine d l).peer = m.peer := rfl
@[simp] theorem MemSys.dropLine_lineKeys (m : MemSys) (d : Fin 8) (l : Nat) : (m.dropLine d l).lineKeys = m.lineKeys := rfl
@[simp] theorem MemSys.dropLine_dir (m : MemSys) (d : Fin 8) (l : Nat) : (m.dropLine d l).dir = m.dir := rfl
@[simp] theorem MemSys.dropLine_trans (m : MemSys) (d : Fin 8) (l : Nat) : (m.dropLine d l).trans = m.trans := rfl
@[simp] theorem MemSys.dropLine_poison (m : MemSys) (d : Fin 8) (l : Nat) : (m.dropLine d l).poison = m.poison := rfl
@[simp] theorem MemSys.dropLine_keys (m : MemSys) (d : Fin 8) (l : Nat) : (m.dropLine d l).keys = m.keys := rfl
@[simp] theorem MemSys.dropLine_waysOff (m : MemSys) (d : Fin 8) (l : Nat) : (m.dropLine d l).waysOff = m.waysOff := rfl
@[simp] theorem MemSys.dropLine_shots (m : MemSys) (d : Fin 8) (l : Nat) : (m.dropLine d l).shots = m.shots := rfl
@[simp] theorem MemSys.dropLine_outcomes (m : MemSys) (d : Fin 8) (l : Nat) : (m.dropLine d l).outcomes = m.outcomes := rfl
@[simp] theorem MemSys.homeWrite_host (m : MemSys) (l k : Nat) (mask : Word) (d : Line) :
    (m.homeWrite l k mask d).host = m.host := by
  unfold MemSys.homeWrite; split <;> rfl
@[simp] theorem MemSys.homeWrite_peer (m : MemSys) (l k : Nat) (mask : Word) (d : Line) :
    (m.homeWrite l k mask d).peer = m.peer := by
  unfold MemSys.homeWrite; split <;> rfl
@[simp] theorem MemSys.homeWrite_dieLines (m : MemSys) (l k : Nat) (mask : Word) (d : Line) :
    (m.homeWrite l k mask d).dieLines = m.dieLines := by
  unfold MemSys.homeWrite; split <;> rfl
@[simp] theorem MemSys.homeWrite_dir (m : MemSys) (l k : Nat) (mask : Word) (d : Line) :
    (m.homeWrite l k mask d).dir = m.dir := by
  unfold MemSys.homeWrite; split <;> rfl
@[simp] theorem MemSys.homeWrite_trans (m : MemSys) (l k : Nat) (mask : Word) (d : Line) :
    (m.homeWrite l k mask d).trans = m.trans := by
  unfold MemSys.homeWrite; split <;> rfl
@[simp] theorem MemSys.homeWrite_keys (m : MemSys) (l k : Nat) (mask : Word) (d : Line) :
    (m.homeWrite l k mask d).keys = m.keys := by
  unfold MemSys.homeWrite; split <;> rfl
@[simp] theorem MemSys.homeWrite_waysOff (m : MemSys) (l k : Nat) (mask : Word) (d : Line) :
    (m.homeWrite l k mask d).waysOff = m.waysOff := by
  unfold MemSys.homeWrite; split <;> rfl
@[simp] theorem MemSys.homeWrite_shots (m : MemSys) (l k : Nat) (mask : Word) (d : Line) :
    (m.homeWrite l k mask d).shots = m.shots := by
  unfold MemSys.homeWrite; split <;> rfl
@[simp] theorem MemSys.homeWrite_outcomes (m : MemSys) (l k : Nat) (mask : Word) (d : Line) :
    (m.homeWrite l k mask d).outcomes = m.outcomes := by
  unfold MemSys.homeWrite; split <;> rfl

/-! Device registers. -/

@[simp] theorem State.setDev_cores (s : State) (n : Nat) (x : Word) : (s.setDev n x).cores = s.cores := rfl
@[simp] theorem State.setDev_ms (s : State) (n : Nat) (x : Word) : (s.setDev n x).ms = s.ms := rfl

end Sys2Proof.Machine
end

