-- ==== Sys2Proof/Laws/Memory.lean ====
section
/-! SUPPORT. Tables in canonical form, byte stores and device registers: a read after each write, and that every write keeps
the canonical form. -/

namespace Sys2Proof.Machine

/-! Tables. -/

/-- A weaker bound accepts what a stronger one accepts. -/
theorem canonicalAbove_none {α : Type} [DecidableEq α] {d : Nat → α} {lo : Option Nat} {l : List (Nat × α)}
    (h : canonicalAbove d lo l = true) : canonicalAbove d none l = true := by
  cases l with
  | nil => rfl
  | cons e rest => obtain ⟨j, v⟩ := e; cases lo <;> simp_all [canonicalAbove]

theorem canonicalAbove_mono {α : Type} [DecidableEq α] {d : Nat → α} {a b : Nat} (hab : a ≤ b) {l : List (Nat × α)}
    (h : canonicalAbove d (some b) l = true) : canonicalAbove d (some a) l = true := by
  cases l with
  | nil => rfl
  | cons e rest => obtain ⟨j, v⟩ := e; simp [canonicalAbove] at *; exact ⟨⟨by omega, h.1.2⟩, h.2⟩

/-- A key at or below the bound is not listed. -/
theorem lookup_of_le {α : Type} [DecidableEq α] {d : Nat → α} {b : Nat} {l : List (Nat × α)}
    (h : canonicalAbove d (some b) l = true) {k : Nat} (hk : k ≤ b) : lookup d l k = d k := by
  cases l with
  | nil => rfl
  | cons e rest =>
    obtain ⟨j, v⟩ := e
    simp [canonicalAbove] at h
    simp [lookup, show j ≠ k by omega, show k < j by omega]

/-- An entry is written where its key belongs. -/
theorem insert_above {α : Type} [DecidableEq α] {d : Nat → α} (l : List (Nat × α)) (k : Nat) (v : α) :
    ∀ b, b < k → canonicalAbove d (some b) l = true → canonicalAbove d (some b) (insert d l k v) = true := by
  induction l with
  | nil => intro b hb _; simp only [insert]; split <;> simp_all [canonicalAbove]
  | cons e rest ih =>
    obtain ⟨j, u⟩ := e
    intro b hb h
    simp only [canonicalAbove, Bool.and_eq_true, decide_eq_true_eq] at h
    simp only [insert]
    split
    · simp only [canonicalAbove, Bool.and_eq_true, decide_eq_true_eq]
      exact ⟨h.1, ih j ‹_› h.2⟩
    · split
      · split
        · exact canonicalAbove_mono (by omega) h.2
        · subst j; simp_all [canonicalAbove]
      · split
        · simp_all [canonicalAbove]
        · simp only [canonicalAbove, Bool.and_eq_true, decide_eq_true_eq]
          exact ⟨⟨hb, ‹_›⟩, ⟨by omega, h.1.2⟩, h.2⟩

/-- Writing an entry keeps the canonical form. -/
theorem insert_canonical {α : Type} [DecidableEq α] {d : Nat → α} {l : List (Nat × α)} (h : canonicalAbove d none l = true)
    (k : Nat) (v : α) : canonicalAbove d none (insert d l k v) = true := by
  cases l with
  | nil => simp only [insert]; split <;> simp_all [canonicalAbove]
  | cons e rest =>
    obtain ⟨j, u⟩ := e
    simp only [canonicalAbove, Bool.and_eq_true, decide_eq_true_eq, true_and] at h
    simp only [insert]
    split
    · simp only [canonicalAbove, Bool.and_eq_true, decide_eq_true_eq, true_and]
      exact ⟨h.1, insert_above rest k v j ‹_› h.2⟩
    · split
      · split
        · exact canonicalAbove_none h.2
        · subst j; simp_all [canonicalAbove]
      · split
        · simp_all [canonicalAbove]
        · simp only [canonicalAbove, Bool.and_eq_true, decide_eq_true_eq, true_and]
          exact ⟨‹_›, ⟨by omega, h.1⟩, h.2⟩

/-- A read after a write, in a table above a bound. -/
theorem lookup_insert_above {α : Type} [DecidableEq α] {d : Nat → α} (l : List (Nat × α)) (k : Nat) (v : α) (x : Nat) :
    ∀ b, canonicalAbove d (some b) l = true → lookup d (insert d l k v) x = if x = k then v else lookup d l x := by
  induction l with
  | nil => intro b _; simp only [insert]; split <;> split <;> (simp_all [lookup]; try omega)
  | cons e rest ih =>
    obtain ⟨j, u⟩ := e
    intro b h
    simp only [canonicalAbove, Bool.and_eq_true, decide_eq_true_eq] at h
    have low := fun {y : Nat} (hy : y ≤ j) => lookup_of_le h.2 hy
    simp only [insert]
    split
    · simp only [lookup, ih j h.2]
      by_cases hx : x = k
      · subst hx; simp [show j ≠ x by omega, show ¬ x < j by omega]
      · simp [hx]
    · split
      · subst j
        split
        · by_cases hx : x = k
          · subst hx; simp [low (Nat.le_refl _), *]
          · by_cases hl : x < k
            · simp [hx, lookup, low (Nat.le_of_lt hl), hl, Ne.symm hx]
            · simp [hx, lookup, hl, Ne.symm hx]
        · by_cases hx : x = k
          · subst hx; simp [lookup]
          · simp [hx, lookup, Ne.symm hx]
      · split
        · by_cases hx : x = k
          · subst hx; simp [lookup, show j ≠ x by omega, show x < j by omega, *]
          · simp [hx]
        · by_cases hx : x = k
          · subst hx; simp [lookup]
          · by_cases hl : x < k
            · simp [hx, lookup, Ne.symm hx, hl, show x < j by omega, show j ≠ x by omega]
            · simp [hx, lookup, Ne.symm hx, hl]

/-- A read after a write: the key written reads the value, every other key reads as before. -/
theorem lookup_insert {α : Type} [DecidableEq α] {d : Nat → α} {l : List (Nat × α)} (h : canonicalAbove d none l = true)
    (k : Nat) (v : α) (x : Nat) : lookup d (insert d l k v) x = if x = k then v else lookup d l x := by
  cases l with
  | nil => exact lookup_insert_above [] k v x 0 rfl
  | cons e rest =>
    obtain ⟨j, u⟩ := e
    cases j with
    | succ n => exact lookup_insert_above _ k v x n (by simpa [canonicalAbove] using h)
    | zero =>
      have hr : canonicalAbove d (some 0) rest = true := by simp [canonicalAbove] at h; exact h.2
      simp only [insert]
      by_cases hk : 0 < k
      · simp only [hk, if_true, lookup, lookup_insert_above rest k v x 0 hr]
        by_cases hx : x = k
        · subst hx; simp [show (0 : Nat) ≠ x by omega]
        · simp [hx]
      · have : k = 0 := by omega
        subst this
        simp only [Nat.lt_irrefl, if_false, if_true]
        by_cases hx : x = 0
        · subst hx; split <;> simp [lookup, lookup_of_le hr, *]
        · split <;> simp [lookup, Ne.symm hx]

/-- Leaving entries out keeps the canonical form. -/
theorem canonicalAbove_filter {α : Type} [DecidableEq α] {d : Nat → α} (f : Nat × α → Bool) (l : List (Nat × α)) :
    ∀ lo, canonicalAbove d lo l = true → canonicalAbove d lo (l.filter f) = true := by
  induction l with
  | nil => intro _ h; exact h
  | cons e rest ih =>
    obtain ⟨j, v⟩ := e
    intro lo h
    simp only [canonicalAbove, Bool.and_eq_true, decide_eq_true_eq] at h
    simp only [List.filter_cons]
    split
    · simp only [canonicalAbove, Bool.and_eq_true, decide_eq_true_eq]
      exact ⟨h.1, ih _ h.2⟩
    · have := ih _ h.2
      cases lo with
      | none => exact canonicalAbove_none this
      | some b =>
        have hb : b < j := by simpa using h.1.1
        exact canonicalAbove_mono (by omega) this

/-! Byte stores. -/

@[simp] theorem Memory.empty_wf : Memory.empty.wf = true := rfl
@[simp] theorem Memory.read_empty (a : Nat) : Memory.empty.read a = 0 := rfl

theorem Memory.write_wf {m : Memory} (h : m.wf = true) (a : Nat) (b : Byte) : (m.write a b).wf = true := insert_canonical h a b

theorem Memory.read_write {m : Memory} (h : m.wf = true) (a : Nat) (b : Byte) (x : Nat) :
    (m.write a b).read x = if x = a then b else m.read x := lookup_insert h a b x

theorem Memory.writeList_wf (bs : List Byte) : ∀ {m : Memory}, m.wf = true → ∀ a, (m.writeList a bs).wf = true := by
  induction bs with
  | nil => intro m h _; exact h
  | cons b bs ih => intro m h a; exact ih (Memory.write_wf h a b) (a + 1)

/-- A read after a write of several bytes. -/
theorem Memory.read_writeList (bs : List Byte) : ∀ {m : Memory}, m.wf = true → ∀ a x, (m.writeList a bs).read x =
    if a ≤ x ∧ x < a + bs.length then bs.getD (x - a) 0 else m.read x := by
  induction bs with
  | nil => intro m _ a x; simp [Memory.writeList, show ¬ (a ≤ x ∧ x < a) by omega]
  | cons b bs ih =>
    intro m h a x
    simp only [Memory.writeList, ih (Memory.write_wf h a b), Memory.read_write h, List.length_cons]
    by_cases hx : x = a
    · subst hx; simp
    · by_cases hl : a + 1 ≤ x ∧ x < a + 1 + bs.length
      · rw [if_pos hl, if_pos (by omega), show x - a = (x - (a + 1)) + 1 by omega]; simp
      · rw [if_neg hl, if_neg hx, if_neg (by omega)]

@[simp] theorem leBytes_length (x n : Nat) : (leBytes x n).length = n := by
  induction n generalizing x with
  | zero => rfl
  | succ n ih => simp [leBytes, ih]

theorem leBytes_getD (n : Nat) : ∀ (x i : Nat), i < n → (leBytes x n).getD i 0 = BitVec.ofNat 8 (x / 256 ^ i) := by
  induction n with
  | zero => intro _ _ h; omega
  | succ n ih =>
    intro x i h
    cases i with
    | zero => simp [leBytes]
    | succ i =>
      simp only [leBytes, List.getD_cons_succ, ih _ i (by omega)]
      rw [Nat.div_div_eq_div_mul, ← Nat.pow_succ']

theorem leNat_leBytes (n : Nat) : ∀ x, leNat (leBytes x n) = x % 256 ^ n := by
  induction n with
  | zero => intro x; simp [leNat, leBytes, Nat.mod_one]
  | succ n ih =>
    intro x
    simp only [leNat, leBytes, ih, BitVec.toNat_ofNat, show (256 : Nat) ^ (n + 1) = 256 * 256 ^ n from Nat.pow_succ', Nat.mod_mul]

theorem leNat_lt (bs : List Byte) : leNat bs < 256 ^ bs.length := by
  induction bs with
  | nil => simp [leNat]
  | cons b bs ih => simp only [leNat, List.length_cons, Nat.pow_succ]; have := b.isLt; omega

theorem Memory.writeLe_wf {m : Memory} (h : m.wf = true) (a n x : Nat) : (m.writeLe a n x).wf = true := Memory.writeList_wf _ h a

/-- A read of one byte after a number is written. -/
theorem Memory.read_writeLe {m : Memory} (h : m.wf = true) (a n x y : Nat) : (m.writeLe a n x).read y =
    if a ≤ y ∧ y < a + n then BitVec.ofNat 8 (x / 256 ^ (y - a)) else m.read y := by
  unfold Memory.writeLe
  rw [Memory.read_writeList _ h, leBytes_length]
  split
  · exact leBytes_getD n x _ (by omega)
  · rfl

theorem Memory.readList_length (m : Memory) (n : Nat) : ∀ a, (m.readList a n).length = n := by
  induction n with
  | zero => intro _; rfl
  | succ n ih => intro a; simp [Memory.readList, ih]

/-- Bytes that read the same are read the same together. -/
theorem Memory.readList_congr (m k : Memory) (n : Nat) : ∀ a, (∀ x, a ≤ x → x < a + n → m.read x = k.read x) →
    m.readList a n = k.readList a n := by
  induction n with
  | zero => intro _ _; rfl
  | succ n ih =>
    intro a h
    simp only [Memory.readList]
    rw [h a (by omega) (by omega), ih (a + 1) fun x _ _ => h x (by omega) (by omega)]

theorem Memory.readList_writeList (bs : List Byte) : ∀ {m : Memory}, m.wf = true → ∀ a,
    (m.writeList a bs).readList a bs.length = bs := by
  induction bs with
  | nil => intro m _ _; rfl
  | cons b bs ih =>
    intro m h a
    simp only [Memory.writeList, List.length_cons, Memory.readList]
    rw [ih (Memory.write_wf h a b), Memory.read_writeList bs (Memory.write_wf h a b), if_neg (by omega), Memory.read_write h,
      if_pos rfl]

/-- A number read back is the number written, in its width. -/
theorem Memory.readLe_writeLe {m : Memory} (h : m.wf = true) (a n x : Nat) : (m.writeLe a n x).readLe a n = x % 256 ^ n := by
  have := Memory.readList_writeList (leBytes x n) h a
  rw [leBytes_length] at this
  rw [Memory.readLe, Memory.writeLe, this, leNat_leBytes]

theorem Memory.filter_wf {m : Memory} (h : m.wf = true) (f : Host.Cell → Bool) : (Memory.mk (m.cells.filter f)).wf = true :=
  canonicalAbove_filter f m.cells none h

theorem Memory.clearRange_wf {m : Memory} (h : m.wf = true) (lo hi : Nat) : (m.clearRange lo hi).wf = true :=
  Memory.filter_wf h _

theorem lookup_filter_key {α : Type} [DecidableEq α] {d : Nat → α} (f : Nat → Bool) (l : List (Nat × α)) :
    ∀ lo, canonicalAbove d lo l = true → ∀ x, lookup d (l.filter fun c => f c.1) x = if f x then lookup d l x else d x := by
  induction l with
  | nil => intro _ _ x; simp [lookup]
  | cons e rest ih =>
    obtain ⟨j, v⟩ := e
    intro lo h x
    simp only [canonicalAbove, Bool.and_eq_true, decide_eq_true_eq] at h
    have hr := ih _ h.2 x
    simp only [List.filter_cons]
    by_cases hx : j = x
    · subst hx
      cases hf : f j
      · simp [hr, hf]
      · simp [lookup]
    · by_cases hl : x < j
      · have := lookup_of_le h.2 (show x ≤ j by omega)
        split <;> simp_all [lookup]
      · have : ¬ x < j := by omega
        split <;> simp only [lookup, hx, this, if_false, hr]

/-- A cleared range reads as unlisted, and every other byte as before. -/
theorem Memory.read_clearRange {m : Memory} (h : m.wf = true) (lo hi x : Nat) :
    (m.clearRange lo hi).read x = if lo ≤ x ∧ x < hi then 0 else m.read x := by
  have := lookup_filter_key (d := Memory.unlisted) (fun a => decide (a < lo) || decide (hi ≤ a)) m.cells none h x
  simp only [Memory.read, Memory.clearRange]
  rw [this]
  by_cases hx : lo ≤ x ∧ x < hi
  · rw [if_neg (by simp; omega), if_pos hx]; rfl
  · rw [if_pos (by simp; omega), if_neg hx]

/-- Two byte stores in canonical form that read alike are equal. -/
theorem canonicalAbove_ext {α : Type} [DecidableEq α] {d : Nat → α} (l : List (Nat × α)) :
    ∀ (k : List (Nat × α)) (lo lo' : Option Nat), canonicalAbove d lo l = true → canonicalAbove d lo' k = true →
      (∀ x, lookup d l x = lookup d k x) → l = k := by
  induction l with
  | nil =>
    intro k lo lo' _ hk h
    cases k with
    | nil => rfl
    | cons e rest =>
      obtain ⟨j, v⟩ := e
      have := h j
      simp [lookup] at this
      simp [canonicalAbove] at hk
      exact absurd this.symm hk.1.2
  | cons e rest ih =>
    obtain ⟨i, u⟩ := e
    intro k lo lo' hl hk h
    cases k with
    | nil =>
      have := h i
      simp [lookup] at this
      simp [canonicalAbove] at hl
      exact absurd this hl.1.2
    | cons e' rest' =>
      obtain ⟨j, v⟩ := e'
      simp only [canonicalAbove, Bool.and_eq_true, decide_eq_true_eq] at hl hk
      have hij : i = j := by
        rcases Nat.lt_trichotomy i j with c | c | c
        · have := h i; simp [lookup, show j ≠ i by omega, c] at this; exact absurd this hl.1.2
        · exact c
        · have := h j; simp [lookup, show i ≠ j by omega, c] at this; exact absurd this.symm hk.1.2
      subst hij
      have huv : u = v := by have := h i; simpa [lookup] using this
      subst huv
      have : rest = rest' := ih rest' (some i) (some i) hl.2 hk.2 fun x => by
        by_cases c : x ≤ i
        · rw [lookup_of_le hl.2 c, lookup_of_le hk.2 c]
        · have := h x; simpa [lookup, show i ≠ x by omega, show ¬ x < i by omega] using this
      rw [this]

theorem Memory.ext_read {m k : Memory} (hm : m.wf = true) (hk : k.wf = true) (h : ∀ a, m.read a = k.read a) : m = k := by
  obtain ⟨l⟩ := m; obtain ⟨l'⟩ := k
  exact congrArg Memory.mk (canonicalAbove_ext l l' none none hm hk h)

/-! Device registers. -/

theorem State.dev_setDev {s : State} (h : canonicalAbove devReset none s.regs = true) (n : Nat) (x : Word) (k : Nat) :
    (s.setDev n x).dev k = if k = n then x else s.dev k := lookup_insert h n x k

theorem State.setDev_canonical {s : State} (h : canonicalAbove devReset none s.regs = true) (n : Nat) (x : Word) :
    canonicalAbove devReset none (s.setDev n x).regs = true := insert_canonical h n x

/-! Association lists. -/

@[simp] theorem alGet_alSet_same {α : Type} (l : List (Nat × α)) (k : Nat) (v : α) : alGet (alSet l k v) k = some v := by
  simp [alGet, alSet]

theorem alGet_alSet_ne {α : Type} (l : List (Nat × α)) {k j : Nat} (v : α) (h : j ≠ k) : alGet (alSet l k v) j = alGet l j := by
  simp only [alGet, alSet, List.find?_cons, show (k == j) = false by simpa using (Ne.symm h)]
  congr 1
  induction l with
  | nil => rfl
  | cons e rest ih =>
    simp only [List.filter_cons]
    by_cases c : e.1 = j
    · simp [c, h]
    · rw [List.find?_cons_of_neg (l := rest) (by simpa using c), ← ih]
      split
      · exact List.find?_cons_of_neg (by simpa using c)
      · rfl

end Sys2Proof.Machine
end

