-- ==== Sys2Proof/Laws/Wf.lean ====
section
/-! SUPPORT. The canonical form of every memory of the device (`State.wf`) through the shared operations: memory lines, registers,
traps and results. -/

namespace Sys2Proof.Machine

/-! The memories behind the dies. -/

/-- Main, host and peer memory stand in canonical form. -/
def MemSys.Wf (m : MemSys) : Prop := m.main.wf = true ∧ m.host.wf = true ∧ m.peer.wf = true

/-- The memories are those of another memory system. -/
theorem MemSys.Wf.same {m n : MemSys} (h : m.Wf) (a : n.main = m.main) (b : n.host = m.host) (c : n.peer = m.peer) : n.Wf := by
  unfold MemSys.Wf; rw [a, b, c]; exact h

/-- Whichever of two memory systems is taken, where both are in canonical form. -/
theorem ite_wf {m n : MemSys} {c : Prop} [Decidable c] (hm : m.Wf) (hn : n.Wf) : (if c then m else n).Wf := by
  by_cases h : c
  · rw [if_pos h]; exact hm
  · rw [if_neg h]; exact hn

theorem MemSys.homeWrite_wf {m : MemSys} (h : m.Wf) (line slot : Nat) (mask : Word) (data : Line) :
    (m.homeWrite line slot mask data).Wf := by
  unfold MemSys.homeWrite
  split
  · exact h
  · exact ⟨Memory.writeList_wf _ h.1 _, h.2⟩

/-! What caches and orders the lines is no part of the form: an operation on it alone keeps the memories. -/

theorem MemSys.dropLine_wf {m : MemSys} (h : m.Wf) (die : Fin 8) (line : Nat) : (m.dropLine die line).Wf := h
theorem MemSys.invMask_wf {m : MemSys} (h : m.Wf) (mask : BitVec 8) (line : Nat) : (m.invMask mask line).Wf := h
theorem MemSys.dirFree_wf {m : MemSys} (h : m.Wf) (line : Nat) : (m.dirFree line).Wf := h
theorem MemSys.dropFrame_wf {m : MemSys} (h : m.Wf) (frame : Nat) : (m.dropFrame frame).Wf := h
theorem MemSys.ownerGone_wf {m : MemSys} (h : m.Wf) (line : Nat) (die : Fin 8) : (m.ownerGone line die).Wf := by
  rw [MemSys.ownerGone]; exact ite_wf h h

/-! Write-backs, with the revival of a dead page that they may need. -/

theorem MemSys.homeBack_wf {m : MemSys} (h : m.Wf) (d : DieLine) (mask : Word) : (m.homeBack d mask).Wf := by
  have u := MemSys.homeWrite_wf h d.line d.key mask d.data
  rw [MemSys.homeBack]; exact ite_wf u u

theorem MemSys.entryHome_wf {m : MemSys} (h : m.Wf) (line : Nat) : (m.entryHome line).Wf := by
  rw [MemSys.entryHome]
  cases m.newest line with
  | none => exact h
  | some d => exact MemSys.homeBack_wf h d _

theorem MemSys.setDead_wf {m : MemSys} (h : m.Wf) (pte : Nat) (dead : Bool) : (m.setDead pte dead).Wf :=
  MemSys.homeWrite_wf (MemSys.entryHome_wf h _) ..

theorem MemSys.zeroFrame_wf {m : MemSys} (h : m.Wf) (frame : Nat) : (m.zeroFrame frame).Wf := ⟨Memory.clearRange_wf h.1 _ _, h.2⟩

theorem MemSys.reviveFrame_wf {m : MemSys} (h : m.Wf) (frame pte : Nat) : (m.reviveFrame frame pte).Wf :=
  MemSys.setDead_wf (MemSys.zeroFrame_wf (MemSys.dropFrame_wf h _) _) _ _

theorem MemSys.revive_wf {m : MemSys} (h : m.Wf) (p : Phys) : (m.revive p).Wf := MemSys.reviveFrame_wf h ..

theorem MemSys.liveFor_wf {m : MemSys} (h : m.Wf) (d : DieLine) : (m.liveFor d).Wf := by
  rw [MemSys.liveFor]; exact ite_wf (MemSys.reviveFrame_wf h _ _) h

theorem MemSys.returnLine_wf {m : MemSys} (h : m.Wf) (d : DieLine) : (m.returnLine d).Wf := by
  rw [MemSys.returnLine]; exact ite_wf (MemSys.homeBack_wf (MemSys.liveFor_wf h d) _ _) h

theorem MemSys.writeBack_wf {m : MemSys} (h : m.Wf) (d : DieLine) : (m.writeBack d).Wf := by
  rw [MemSys.writeBack]; exact ite_wf (MemSys.homeWrite_wf (MemSys.liveFor_wf h d) ..) h

/-! Die caches: a line that comes in may push another home. -/

theorem MemSys.replace_wf {m : MemSys} (h : m.Wf) (d : DieLine) : (m.replace d).Wf :=
  MemSys.ownerGone_wf (MemSys.dropLine_wf (MemSys.writeBack_wf (MemSys.returnLine_wf h d) d) ..) ..

theorem MemSys.trim_wf {m : MemSys} (h : m.Wf) (die : Fin 8) (line : Nat) : (m.trim die line).Wf := by
  rw [MemSys.trim]
  cases m.cacheVictim die line with
  | none => exact ite_wf h h
  | some d => exact ite_wf (MemSys.replace_wf h d) h

theorem MemSys.putLine_wf {m : MemSys} (h : m.Wf) (d : DieLine) : (m.putLine d).Wf :=
  MemSys.trim_wf (m := { m.dropLine d.die d.line with dieLines := d :: (m.dropLine d.die d.line).dieLines }) h ..

theorem MemSys.recallS_wf {m : MemSys} (h : m.Wf) (die : Fin 8) (line : Nat) : (m.recallS die line).Wf := by
  rw [MemSys.recallS]
  cases m.dieLine die line with
  | none => exact h
  | some d => exact MemSys.returnLine_wf h d

theorem MemSys.recallI_wf {m : MemSys} (h : m.Wf) (die : Fin 8) (line : Nat) : (m.recallI die line).Wf := by
  rw [MemSys.recallI]
  cases m.dieLine die line with
  | none => exact h
  | some d => exact MemSys.returnLine_wf h d

/-! The directory. -/

theorem MemSys.recallEntry_wf {m : MemSys} (h : m.Wf) (e : DirEntry) : (m.recallEntry e).Wf := by
  obtain ⟨line, home, st⟩ := e
  cases st with
  | shared mask => exact h
  | owned o => exact MemSys.recallI_wf h o line

theorem MemSys.dirPut_wf {m : MemSys} (h : m.Wf) (home : Fin 8) (line : Nat) (st : DirState) : (m.dirPut home line st).Wf := by
  have room : ((if 16 ≤ ((m.dirFree line).dirSet home line).length then
      match (m.dirFree line).dirVictim home line with
      | some e => (m.dirFree line).recallEntry e
      | none => m.dirFree line
    else m.dirFree line) : MemSys).Wf := by
    cases (m.dirFree line).dirVictim home line with
    | none => exact ite_wf h h
    | some e => exact ite_wf (MemSys.recallEntry_wf (MemSys.dirFree_wf h line) e) h
  exact room

theorem MemSys.rdS_wf {m : MemSys} (h : m.Wf) (die : Fin 8) (p : Phys) : (m.rdS die p).2.Wf := by
  rw [MemSys.rdS]
  cases m.dirState p.line with
  | none => exact MemSys.putLine_wf (MemSys.dirPut_wf h ..) _
  | some st =>
    cases st with
    | shared mask => exact MemSys.putLine_wf (MemSys.dirPut_wf h ..) _
    | owned o => exact MemSys.putLine_wf (MemSys.dirPut_wf (MemSys.recallS_wf h o p.line) ..) _

theorem MemSys.rdX_wf {m : MemSys} (h : m.Wf) (die : Fin 8) (p : Phys) : (m.rdX die p).2.Wf := by
  rw [MemSys.rdX]
  cases m.dirState p.line with
  | none => exact MemSys.dirPut_wf h ..
  | some st =>
    cases st with
    | shared mask => exact MemSys.dirPut_wf (MemSys.invMask_wf h mask p.line) ..
    | owned o => exact MemSys.dirPut_wf (MemSys.recallI_wf h o p.line) ..

theorem MemSys.homeRead_wf {m : MemSys} (h : m.Wf) (p : Phys) : (m.homeRead p).2.Wf := by
  rw [MemSys.homeRead]
  cases m.dirState p.line with
  | none => exact h
  | some st =>
    cases st with
    | shared mask => exact MemSys.dirPut_wf h ..
    | owned o => exact MemSys.dirPut_wf (MemSys.recallS_wf h o p.line) ..

theorem MemSys.homeOwn_wf {m : MemSys} (h : m.Wf) (line : Nat) : (m.homeOwn line).Wf := by
  rw [MemSys.homeOwn]
  cases m.dirState line with
  | none => exact h
  | some st =>
    cases st with
    | shared mask => exact h
    | owned o => exact MemSys.recallI_wf h o line

theorem MemSys.homeStore_wf {m : MemSys} (h : m.Wf) (line slot : Nat) (mask : Word) (data : Line) :
    (m.homeStore line slot mask data).Wf := MemSys.homeWrite_wf (MemSys.homeOwn_wf h _) ..

/-! Accesses of a party of a die. -/

theorem MemSys.load_wf {m : MemSys} (h : m.Wf) (die : Fin 8) (p : Phys) (mask : Word) : (m.load die p mask).2.Wf := by
  unfold MemSys.load
  by_cases home : die = p.home
  · rw [if_pos home, apply_ite Prod.snd]; exact ite_wf (MemSys.homeRead_wf h p) h
  · rw [if_neg home]
    cases m.dieLine die p.line with
    | none =>
      rw [apply_ite Prod.snd]; exact ite_wf (MemSys.rdS_wf h die p) (MemSys.putLine_wf h _)
    | some d =>
      rw [apply_ite Prod.snd]
      refine ite_wf (MemSys.putLine_wf h d) ?_
      dsimp only
      rw [apply_ite Prod.snd]; exact ite_wf (MemSys.putLine_wf h d) (MemSys.putLine_wf h _)

theorem MemSys.store_wf {m : MemSys} (h : m.Wf) (die : Fin 8) (p : Phys) (mask : Word) (data : Line) :
    (m.store die p mask data).Wf := by
  unfold MemSys.store
  refine ite_wf (ite_wf (MemSys.homeStore_wf h ..) (MemSys.homeWrite_wf h ..)) ?_
  cases m.dieLine die p.line with
  | none => exact ite_wf (MemSys.putLine_wf (MemSys.rdX_wf h die p) _) (MemSys.putLine_wf h _)
  | some d =>
    refine ite_wf (MemSys.putLine_wf ?_ _) (MemSys.putLine_wf h _)
    dsimp only
    rw [apply_ite Prod.snd]; exact ite_wf (MemSys.rdX_wf h die p) h

theorem MemSys.copyLoad_wf {m : MemSys} (h : m.Wf) (die : Fin 8) (p : Phys) (mask : Word) : (m.copyLoad die p mask).2.Wf := by
  unfold MemSys.copyLoad
  rw [apply_ite Prod.snd]
  refine ite_wf ?_ (MemSys.load_wf h ..)
  cases m.dieLine die p.line with
  | none => exact MemSys.homeRead_wf h p
  | some d => exact MemSys.putLine_wf h d

theorem MemSys.copyStore_wf {m : MemSys} (h : m.Wf) (die : Fin 8) (p : Phys) (mask : Word) (data : Line) :
    (m.copyStore die p mask data).Wf := by
  rw [MemSys.copyStore]; exact ite_wf (MemSys.homeStore_wf h ..) (MemSys.store_wf h ..)

theorem MemSys.toHome_wf {m : MemSys} (h : m.Wf) (die : Fin 8) (p : Phys) : (m.toHome die p).Wf := by
  rw [MemSys.toHome]
  cases m.dieLine die p.line with
  | none => exact ite_wf (MemSys.homeOwn_wf h _) h
  | some d => exact ite_wf (MemSys.homeOwn_wf h _) (MemSys.writeBack_wf h d)

/-! Typed buffers. -/

theorem Storage.wf_iff (t : Storage) : t.wf = true ↔
    t.bufW.wf = true ∧ t.bufA.wf = true ∧ t.bufC.wf = true ∧ t.bufS.wf = true ∧ ∀ i, (vget t.tiles i).wf = true := by
  simp only [Storage.wf, Bool.and_eq_true, List.all_eq_true, and_assoc, vget]
  refine Iff.and Iff.rfl (Iff.and Iff.rfl (Iff.and Iff.rfl (Iff.and Iff.rfl ⟨fun h i => ?_, fun h m hm => ?_⟩)))
  · exact h _ (by simp)
  · obtain ⟨i, hi, rfl⟩ := List.getElem_of_mem hm
    exact h ⟨i, by simpa using hi⟩

theorem Storage.buf_wf {t : Storage} (h : t.wf = true) (b : Fin 4) : (t.buf b).wf = true := by
  rw [Storage.wf_iff] at h
  unfold Storage.buf
  split
  · exact h.1
  · split
    · exact h.2.1
    · split
      · exact h.2.2.1
      · exact h.2.2.2.1

theorem Storage.setBuf_wf {t : Storage} (h : t.wf = true) (b : Fin 4) {m : Memory} (hm : m.wf = true) : (t.setBuf b m).wf = true := by
  rw [Storage.wf_iff] at h ⊢
  unfold Storage.setBuf
  split
  · exact ⟨hm, h.2⟩
  · split
    · exact ⟨h.1, hm, h.2.2⟩
    · split
      · exact ⟨h.1, h.2.1, hm, h.2.2.2⟩
      · exact ⟨h.1, h.2.1, h.2.2.1, hm, h.2.2.2.2⟩

theorem Storage.putBuf_wf {t : Storage} (h : t.wf = true) (b : Fin 4) (off : Nat) (bs : List Byte) : (t.putBuf b off bs).wf = true := by
  have := Storage.setBuf_wf h b (Memory.writeList_wf bs (Storage.buf_wf h b) off)
  simpa [Storage.putBuf, Storage.wf] using this

theorem Storage.setTile_wf {t : Storage} (h : t.wf = true) (i : Fin 16) {m : Memory} (hm : m.wf = true) :
    ({ t with tiles := vset t.tiles i m } : Storage).wf = true := by
  rw [Storage.wf_iff] at h ⊢
  refine ⟨h.1, h.2.1, h.2.2.1, h.2.2.2.1, fun j => ?_⟩
  simp only [vget_vset]
  split
  · exact hm
  · exact h.2.2.2.2 j

theorem clipTile_wf {m : Memory} (h : m.wf = true) (sh : Word) : (clipTile m sh).wf = true := Memory.filter_wf h _

/-! The device. -/

theorem State.wf_iff (s : State) : s.wf = true ↔ s.ms.Wf ∧ (∀ k, (s.core k).st.wf = true) ∧ canonicalAbove devReset none s.regs = true ∧
    (∀ v ∈ s.sch.saved, v.core.st.wf = true) ∧ ∀ k, s.latch = some k → k.st.wf = true := by
  simp only [State.wf, Bool.and_eq_true, List.all_eq_true, and_assoc, MemSys.Wf, State.core, vget]
  refine Iff.and Iff.rfl (Iff.and Iff.rfl (Iff.and Iff.rfl (Iff.and ⟨fun h k => ?_, fun h c hc => ?_⟩ (Iff.and Iff.rfl (Iff.and Iff.rfl ?_)))))
  · exact h _ (by simp)
  · obtain ⟨i, hi, rfl⟩ := List.getElem_of_mem hc
    exact h ⟨i, by simpa using hi⟩
  · cases s.latch <;> simp

/-- A state that differs in other fields alone. -/
theorem State.wf_same {s t : State} (h : s.wf = true) (a : t.ms = s.ms) (b : t.cores = s.cores) (c : t.regs = s.regs)
    (d : t.sch.saved = s.sch.saved) (e : t.latch = s.latch) : t.wf = true := by
  simp only [State.wf] at *; rw [a, b, c, d, e]; exact h

theorem State.ms_wf {s : State} (h : s.wf = true) {m : MemSys} (hm : m.Wf) : ({ s with ms := m } : State).wf = true := by
  rw [State.wf_iff] at *; exact ⟨hm, h.2⟩

theorem State.setCore_wf {s : State} (h : s.wf = true) (k : Fin 768) {c : Core} (hc : c.st.wf = true) : (s.setCore k c).wf = true := by
  rw [State.wf_iff] at *
  refine ⟨h.1, fun j => ?_, h.2.2⟩
  by_cases e : j = k
  · subst e; simpa using hc
  · rw [State.setCore_core_ne _ _ e]; exact h.2.1 j

theorem State.core_wf {s : State} (h : s.wf = true) (k : Fin 768) : (s.core k).st.wf = true := ((State.wf_iff s).mp h).2.1 k

theorem State.onCore_wf {s : State} (h : s.wf = true) (k : Fin 768) (f : Core → Core) (hf : (f (s.core k)).st.wf = true) :
    (s.onCore k f).wf = true := State.setCore_wf h k hf

theorem State.onMe_wf {s : State} (h : s.wf = true) (f : Core → Core) (hf : (f s.me).st.wf = true) : (s.onMe f).wf = true :=
  State.setCore_wf h _ hf

theorem State.onCl_wf {s : State} (h : s.wf = true) (f : Cluster → Cluster) : (s.onCl f).wf = true :=
  State.onMe_wf h _ (State.core_wf h _)

theorem State.onSt_wf {s : State} (h : s.wf = true) (f : Storage → Storage) (hf : (f s.me.st).wf = true) : (s.onSt f).wf = true :=
  State.onMe_wf h _ hf

theorem State.onEn_wf {s : State} (h : s.wf = true) (f : Engines → Engines) : (s.onEn f).wf = true := State.onMe_wf h _ (State.core_wf h _)
theorem State.onRg_wf {s : State} (h : s.wf = true) (f : CoreRegs → CoreRegs) : (s.onRg f).wf = true := State.onMe_wf h _ (State.core_wf h _)

theorem State.setG_wf {s : State} (h : s.wf = true) (r : Reg) (x : Word) : (s.setG r x).wf = true := by
  unfold State.setG; split
  · exact h
  · exact State.onCl_wf h _

theorem State.setP_wf {s : State} (h : s.wf = true) (p : Pred) (x : Bool) : (s.setP p x).wf = true := by
  unfold State.setP; split
  · exact h
  · exact State.onCl_wf h _

theorem State.setMask_wf {s : State} (h : s.wf = true) (m : MReg) (x : Word) : (s.setMask m x).wf = true := by
  unfold State.setMask; split
  · exact h
  · exact State.onSt_wf h _ (State.core_wf h _)

theorem State.setV_wf {s : State} (h : s.wf = true) (v : VReg) (x : Line) : (s.setV v x).wf = true := State.onSt_wf h _ (State.core_wf h _)
theorem State.orAflags_wf {s : State} (h : s.wf = true) (f : BitVec 8) : (s.orAflags f).wf = true := State.onRg_wf h _

theorem State.setDev_wf {s : State} (h : s.wf = true) (n : Nat) (x : Word) : (s.setDev n x).wf = true := by
  rw [State.wf_iff] at *
  exact ⟨h.1, h.2.1, insert_canonical h.2.2.1 n x, h.2.2.2⟩

theorem State.undo_wf {s : State} (h : s.wf = true) : s.undo.wf = true := by
  unfold State.undo; split
  · exact State.setCore_wf h _ (((State.wf_iff s).mp h).2.2.2.2 _ ‹_›)
  · exact h

theorem Core.terminate_st (k : Core) (cause : Word) (c d : Bool) : (k.terminate cause c d).st = k.st := by
  unfold Core.terminate; split <;> rfl

theorem Core.requestSave_st (k : Core) (r t : Nat) : (k.requestSave r t).st = k.st := by
  unfold Core.requestSave; split <;> rfl

/-- Cores replaced, each by one whose storage stands in canonical form. -/
theorem State.ofFn_wf {s : State} (h : s.wf = true) (f : Fin 768 → Core) (hf : ∀ k, (f k).st.wf = true) :
    ({ s with cores := Vector.ofFn f } : State).wf = true := by
  rw [State.wf_iff] at *
  refine ⟨h.1, fun k => ?_, h.2.2⟩
  rw [State.core, vget, Vector.getElem_ofFn]
  exact hf k

theorem State.requestSave_wf {s : State} (h : s.wf = true) (k : Fin 768) (r : Nat) : (s.requestSave k r).wf = true := by
  have u : (s.onCore k fun c => c.requestSave r s.cadence.toNat).wf = true :=
    State.onCore_wf h _ _ (by rw [Core.requestSave_st]; exact State.core_wf h k)
  unfold State.requestSave
  cases (s.core k).task with
  | none => exact u
  | some t =>
    dsimp only
    split
    · refine State.ofFn_wf u _ fun i => ?_
      split
      · rw [Core.requestSave_st]; exact State.core_wf u i
      · exact State.core_wf u i
    · exact u

theorem State.deliver_wf {s : State} (h : s.wf = true) (k : Fin 768) (x : Clu) (t : Trap) (pc : Word) : (s.deliver k x t pc).wf = true := by
  unfold State.deliver
  dsimp only
  split
  · exact State.onCore_wf h _ _ (by rw [Core.terminate_st]; exact State.core_wf h _)
  · split
    · exact State.onCore_wf h _ _ (State.core_wf h _)
    · exact State.requestSave_wf (State.onCore_wf h _ _ (State.core_wf h _)) _ _
    · exact State.onCore_wf h _ _ (by rw [Core.terminate_st]; exact State.core_wf h _)

theorem State.acquire_wf {s : State} (h : s.wf = true) (scope : Nat) : (s.acquire scope).wf = true := by
  unfold State.acquire; split
  · exact h
  · exact State.onMe_wf h _ (State.core_wf h _)

theorem Core.count_st (k : Core) (e : Nat) (x : Clu) (n : Nat) : (k.count e x n).st = k.st := by
  unfold Core.count; split
  · rfl
  · dsimp only; split <;> rfl

theorem Core.onCheck_st (k : Core) (f : Checker → Checker) : (k.onCheck f).st = k.st := by
  unfold Core.onCheck; split <;> rfl

theorem State.endBundle_wf {s : State} (h : s.wf = true) (o : Core) (ps : List Part) (sync : Bool) (c : Nat) :
    (s.endBundle o ps sync c).wf = true := by
  have key : ∀ u : State, u.wf = true → ∀ k, ({ (u.charge k c) with latch := none } : State).wf = true := by
    intro u hu k
    have hc : (u.charge k c).wf = true := State.onCore_wf hu _ _ (State.core_wf hu _)
    rw [State.wf_iff] at hc ⊢
    exact ⟨hc.1, hc.2.1, hc.2.2.1, hc.2.2.2.1, by simp⟩
  unfold State.endBundle
  dsimp only
  apply key
  apply State.onMe_wf
  · apply State.onCl_wf
    split
    · exact h
    · exact State.onCl_wf h _
  · rw [Core.count_st]
    apply State.core_wf
    apply State.onCl_wf
    split
    · exact h
    · exact State.onCl_wf h _

/-! Outcomes. -/

/-- Whatever next state an outcome gives stands in canonical form. -/
def Keeps (o : Out) : Prop := ∀ t, o = .next t → t.wf = true

/-- As `Keeps`, for the state an operation inside an instruction goes on in. -/
def Res.Keeps {α : Type} (r : Res α) : Prop := ∀ a t, r = .ok a t → t.wf = true

theorem keeps_next {s : State} (h : s.wf = true) : Keeps (.next s) := by
  intro t e; cases e; exact h

theorem keeps_report {s : State} (h : s.wf = true) (r : Report) : Keeps (.next { s with report := r }) := keeps_next h

theorem keeps_stall {s : State} (h : s.wf = true) : Keeps s.stall := keeps_report (State.undo_wf h) _

theorem keeps_raise {s : State} (h : s.wf = true) (c d : Nat) (a i : Word) : Keeps (s.raise c d a i) := by
  have u := State.undo_wf h
  refine keeps_report (State.deliver_wf ?_ ..) _
  split
  · exact State.onMe_wf u _ (by rw [Core.count_st]; exact State.core_wf u _)
  · exact u

theorem keeps_fault {s : State} (h : s.wf = true) (c d : Nat) : Keeps (s.fault c d) := keeps_raise h _ _ _ _
theorem keeps_faultAt {s : State} (h : s.wf = true) (c d : Nat) (a : Word) : Keeps (s.faultAt c d a) := keeps_raise h _ _ _ _

theorem keeps_refuseBundle {s : State} (h : s.wf = true) (c d : Nat) (a : Word) (w0 w1 : Nat) : Keeps (s.refuseBundle c d a w0 w1) :=
  keeps_report (State.deliver_wf h ..) _

theorem keeps_setG {s : State} (h : s.wf = true) (r : Reg) (x : Word) : Keeps (.next (s.setG r x)) := keeps_next (State.setG_wf h r x)
theorem keeps_setP {s : State} (h : s.wf = true) (p : Pred) (x : Bool) : Keeps (.next (s.setP p x)) := keeps_next (State.setP_wf h p x)

/-- Token counts and the checker's clocks are no part of the canonical form. -/
theorem Storage.popTokens_wf {t : Storage} (h : t.wf = true) (x : Clu) (set : BitVec 3) : (t.popTokens x set).wf = true := by
  rw [Storage.popTokens]
  generalize peerSet x set = ps
  induction ps generalizing t with
  | nil => exact h
  | cons p ps ih => exact ih (t := { t with tok := vset t.tok (tokIdx p x) (vget t.tok (tokIdx p x) - 1) }) h

theorem State.popWait_wf {s : State} (h : s.wf = true) (l : Long) : (s.popWait l).wf = true := by
  refine State.onMe_wf h _ ?_
  rw [Core.popTokens, Core.onCheck_st]
  exact Storage.popTokens_wf (State.core_wf h _) _ _

theorem keeps_guarded {s : State} (h : s.wf = true) (l : Long) {act : State → Out} (ha : ∀ t, t.wf = true → Keeps (act t)) :
    Keeps (s.guarded l act) := by
  unfold State.guarded
  cases s.p l.guard
  · exact keeps_next h
  · cases s.setsReady l
    · exact keeps_stall h
    · exact ha _ (State.popWait_wf h l)

theorem Res.keeps_out {α : Type} {r : Res α} {s : State} {f : α → State → Out} (h : s.wf = true) (hr : r.Keeps)
    (hf : ∀ a t, t.wf = true → Machine.Keeps (f a t)) : Machine.Keeps (r.out s f) := by
  unfold Res.out
  split
  · exact hf _ _ (hr _ _ rfl)
  · exact keeps_stall h
  · exact keeps_faultAt h _ _ _

theorem Res.keeps_bind {α β : Type} {r : Res α} {f : α → State → Res β} (hr : r.Keeps)
    (hf : ∀ a t, t.wf = true → (f a t).Keeps) : (r.bind f).Keeps := by
  unfold Res.bind
  split
  · exact hf _ _ (hr _ _ rfl)
  · intro _ _ e; cases e
  · intro _ _ e; cases e

theorem reset_wf : State.reset.wf = true := by
  rw [State.wf_iff]
  refine ⟨⟨rfl, rfl, rfl⟩, fun k => ?_, rfl, by simp [State.reset, Sched.reset], by simp [State.reset]⟩
  have : State.reset.core k = Core.reset := by simp [State.core, State.reset, vget]
  rw [this, Storage.wf_iff]
  exact ⟨rfl, rfl, rfl, rfl, fun i => by simp [Core.reset, Storage.reset, vget]⟩

end Sys2Proof.Machine
end

