-- ==== Sys2Proof/Laws/Ops.lean ====
section
/-! SUPPORT. What each shared operation can do, said once: results inside an instruction, guards, waits, traps, targets, and the
agreement of the two dispatches. -/

namespace Sys2Proof.Machine

/-! Reads after writes. -/

theorem State.setG_cl_gReg (s : State) (d r : Reg) (x : Word) :
    (s.setG d x).cl.gReg r = if r = d ∧ d ≠ 0 then x else s.cl.gReg r := (wroteG_setG s d x).2.2.2 r

theorem State.setP_cl_pReg (s : State) (d r : Pred) (x : Bool) :
    (s.setP d x).cl.pReg r = if r = d ∧ d ≠ 0 then x else s.cl.pReg r := (wroteP_setP s d x).2.2.2 r

/-- Outside a bundle an instruction reads its registers as they stand. -/
theorem State.g_of_unlatched {s : State} (h : s.latch = none) (r : Reg) : s.g r = s.cl.gReg r := by
  simp [State.g, State.old, h, Cluster.gReg, State.cl]

theorem State.p_of_unlatched {s : State} (h : s.latch = none) (p : Pred) : s.p p = s.cl.pReg p := by
  simp [State.p, State.old, h, Cluster.pReg, State.cl]

@[simp] theorem State.g_zero (s : State) : s.g 0 = 0 := by simp [State.g]
@[simp] theorem State.p_zero (s : State) : s.p 0 = true := by simp [State.p]
@[simp] theorem State.mask_zero (s : State) : s.mask 0 = 0xFFFF_FFFF_FFFF_FFFF := by simp [State.mask]

/-- Writing a register in the core does not change what the bundle reads once it is latched (R12). -/
theorem State.g_setG_latched {s : State} {k : Core} (h : s.latch = some k) (d r : Reg) (x : Word) : (s.setG d x).g r = s.g r := by
  have hl : (s.setG d x).latch = some k := by unfold State.setG; split <;> simpa using h
  have hc : (s.setG d x).cur = s.cur := by unfold State.setG; split <;> rfl
  simp [State.g, State.old, hl, h, hc]

/-! Vector registers and masks. -/

theorem wroteV_setV (s : State) (d : VReg) (x : Line) : wroteV s (s.setV d x) d 0 ∧ vget (s.setV d x).me.st.v d = x := by
  refine ⟨⟨sameMemory_of_ms rfl, sameOutside_setCore _ _, rfl, ?_, fun r h => ?_⟩, ?_⟩
  · simp [State.setV]
  · simp only [State.setV, State.onSt_me, vget_vset, if_neg h]
  · simp only [State.setV, State.onSt_me, vget_vset, if_true]

theorem wroteM_setMask (s : State) (d : MReg) (x : Word) : wroteM s (s.setMask d x) d x := by
  unfold State.setMask
  split
  · subst d
    exact ⟨sameMemory_of_ms rfl, ⟨rfl, rfl, rfl, rfl, rfl, rfl, rfl, rfl, rfl, rfl, rfl, fun _ _ => rfl⟩, rfl, rfl, fun r => by simp⟩
  · refine ⟨sameMemory_of_ms rfl, sameOutside_setCore _ _, rfl, by simp, fun r => ?_⟩
    simp only [State.onSt_me, Storage.mReg, vget_vset]
    split <;> split <;> simp_all

/-! Results inside an instruction. -/

@[simp] theorem Res.out_ok {α : Type} (a : α) (t s : State) (f : α → State → Out) : (Res.ok a t).out s f = f a t := rfl
@[simp] theorem Res.out_wait {α : Type} (s : State) (f : α → State → Out) : (Res.wait : Res α).out s f = s.stall := rfl
@[simp] theorem Res.out_trap {α : Type} (c d : Nat) (a : Word) (s : State) (f : α → State → Out) :
    (Res.trap c d a : Res α).out s f = s.faultAt c d a := rfl
@[simp] theorem Res.bind_ok {α β : Type} (a : α) (t : State) (f : α → State → Res β) : (Res.ok a t).bind f = f a t := rfl
@[simp] theorem Res.bind_wait {α β : Type} (f : α → State → Res β) : (Res.wait : Res α).bind f = .wait := rfl
@[simp] theorem Res.bind_trap {α β : Type} (c d : Nat) (a : Word) (f : α → State → Res β) :
    (Res.trap c d a : Res α).bind f = .trap c d a := rfl

/-- What an operation inside an instruction can come to. -/
theorem Res.out_cases {α : Type} (r : Res α) (s : State) (f : α → State → Out) :
    (∃ a t, r = .ok a t ∧ r.out s f = f a t) ∨ (r = .wait ∧ r.out s f = s.stall) ∨
      ∃ c d a, r = .trap c d a ∧ r.out s f = s.faultAt c d a := by
  cases r with
  | ok a t => exact .inl ⟨a, t, rfl, rfl⟩
  | wait => exact .inr (.inl ⟨rfl, rfl⟩)
  | trap c d a => exact .inr (.inr ⟨c, d, a, rfl, rfl⟩)

/-! Guards and sets of long forms (R51). -/

/-- A long form under its guard is nullified, waits, or acts. -/
theorem State.guarded_cases (s : State) (l : Long) (act : State → Out) :
    (s.p l.guard = false ∧ s.guarded l act = .next s) ∨
    (s.p l.guard = true ∧ s.setsReady l = false ∧ s.guarded l act = s.stall) ∨
    (s.p l.guard = true ∧ s.setsReady l = true ∧ s.guarded l act = act (s.popWait l)) := by
  unfold State.guarded
  cases s.p l.guard <;> cases s.setsReady l <;> simp

theorem State.guarded_of_ready {s : State} {l : Long} (hg : s.p l.guard = true) (hr : s.setsReady l = true) (act : State → Out) :
    s.guarded l act = act (s.popWait l) := by simp [State.guarded, hg, hr]

/-! Waits. -/

/-- A bundle that waits leaves the core as the bundle found it. -/
theorem State.stall_of_latched {s : State} {k : Core} (h : s.latch = some k) :
    s.stall = .next { (s.setCore s.cur.core k) with report := .stalled } := by simp [State.stall, State.undo, h]

theorem State.stall_of_unlatched {s : State} (h : s.latch = none) : s.stall = .next { s with report := .stalled } := by
  simp [State.stall, State.undo, h]

/-! Traps. -/

theorem Core.terminate_cases (k : Core) (cause : Word) (c d : Bool) :
    ∃ r, k.terminate cause c d = { k with term := some r } ∧ (∀ q, k.term = some q → r = q) ∧
      (k.term = none → r = { cause := cause, corrupt := c, killed := d }) := by
  unfold Core.terminate
  split
  · next q h => exact ⟨q, by rw [← h], fun _ e => by simpa [h] using e, fun e => by simp [h] at e⟩
  · next h => exact ⟨_, rfl, fun _ e => by simp [h] at e, fun _ => rfl⟩

theorem Core.requestSave_cases (k : Core) (r t : Nat) : ∃ q, k.requestSave r t = { k with save := q } := by
  unfold Core.requestSave
  split
  · exact ⟨_, rfl⟩
  · exact ⟨k.save, rfl⟩

/-- A save requested changes the records of saves alone, on the core and on those that its task is saved with (R351). -/
theorem State.requestSave_frame (s : State) (k : Fin 768) (r : Nat) :
    (∃ q, (s.requestSave k r).core k = { s.core k with save := q }) ∧
    (∀ j, j ≠ k → (s.requestSave k r).core j = s.core j ∨
      ((s.requestSave k r).core j = (s.core j).requestSave 5 s.cadence.toNat ∧ ((s.requestSave k r).core k).save.isSome = true ∧
        s.sameLaunch k j = true)) ∧
    s.requestSave k r = { s with cores := (s.requestSave k r).cores } := by
  obtain ⟨q, hq⟩ := Core.requestSave_cases (s.core k) r s.cadence.toNat
  unfold State.requestSave
  cases task : (s.core k).task with
  | none =>
    refine ⟨⟨q, ?_⟩, fun j h => .inl (State.setCore_core_ne _ _ h), rfl⟩
    simp only [State.onCore, State.setCore_core_same, hq]
  | some t =>
    have some_save : ((s.core k).requestSave r s.cadence.toNat).save.isSome = true := by
      unfold Core.requestSave; split <;> simp_all [Option.isSome_iff_ne_none]
    have again : ∀ c : Core, c.save.isSome = true → c.requestSave 5 s.cadence.toNat = c := fun c h => by
      unfold Core.requestSave; split <;> simp_all
    dsimp only
    split
    · have at_ : ∀ (u : State) (f : Fin 768 → Core) (i : Fin 768), ({ u with cores := Vector.ofFn f } : State).core i = f i :=
        fun u f i => by simp [State.core, vget]
      have me : (s.onCore k fun c => c.requestSave r s.cadence.toNat).core k = (s.core k).requestSave r s.cadence.toNat := by
        simp only [State.onCore, State.setCore_core_same]
      refine ⟨⟨q, ?_⟩, fun j h => ?_, rfl⟩
      · rw [at_, me, again _ some_save]
        split <;> exact hq
      · have other : (s.onCore k fun c => c.requestSave r s.cadence.toNat).core j = s.core j := State.setCore_core_ne _ _ h
        rw [at_, at_, me, again _ some_save, other]
        split
        · next m =>
          refine .inr ⟨rfl, by split <;> exact some_save, ?_⟩
          simp only [Bool.and_eq_true] at m
          unfold State.sameLaunch
          rw [task]
          have id := m.2
          revert id
          cases (s.core j).task with
          | none => exact fun e => e
          | some x => exact fun e => by rw [beq_iff_eq] at e ⊢; exact e.symm
        · exact .inl rfl
    · refine ⟨⟨q, ?_⟩, fun j h => .inl (State.setCore_core_ne _ _ h), rfl⟩
      simp only [State.onCore, State.setCore_core_same, hq]

/-- Taking a trap changes one cluster and the core's task-ending records, nothing else (R345, R346, R350, R351). -/
theorem State.deliver_frame (s : State) (k : Fin 768) (x : Clu) (t : Trap) (pc : Word) :
    sameButTrapped s (s.deliver k x t pc) k x := by
  have key : ∀ f : Core → Core, (∃ g : Cluster → Cluster, ∃ a b, f (s.core k) = { (s.core k).onClu x g with term := a, save := b }) →
      sameButTrapped s (s.onCore k f) k x := by
    rintro f ⟨g, a, b, e⟩
    refine ⟨sameMemory_of_ms rfl, rfl, rfl, rfl, rfl, rfl, rfl, rfl, rfl, rfl, rfl, fun j h => ?_, fun y h => ?_, ?_⟩
    · exact .inl (State.setCore_core_ne _ _ h)
    · simp only [State.onCore, State.setCore_core_same, e]
      exact Core.onClu_ne _ g h
    · simp only [State.onCore, State.setCore_core_same, e]
      rfl
  have term : ∀ (g : Cluster → Cluster) (cause : Word) (c d : Bool),
      sameButTrapped s (s.onCore k fun q => (q.onClu x g).terminate cause c d) k x := fun g cause c d => by
    obtain ⟨r, e, -, -⟩ := Core.terminate_cases ((s.core k).onClu x g) cause c d
    exact key _ ⟨g, some r, (s.core k).save, e⟩
  have save : ∀ g : Cluster → Cluster, sameButTrapped s ((s.onCore k fun q => q.onClu x g).requestSave k 4) k x := fun g => by
    have mine : (s.onCore k fun q => q.onClu x g).core k = (s.core k).onClu x g := by
      simp only [State.onCore, State.setCore_core_same]
    have tasks : ∀ j, ((s.onCore k fun q => q.onClu x g).core j).task = (s.core j).task := fun j => by
      by_cases e : j = k
      · subst e; rw [mine]; rfl
      · rw [State.onCore, State.setCore_core_ne _ _ e]
    obtain ⟨⟨q, a⟩, b, c⟩ := State.requestSave_frame (s.onCore k fun q => q.onClu x g) k 4
    rw [mine] at a
    rw [c]
    refine ⟨sameMemory_of_ms rfl, rfl, rfl, rfl, rfl, rfl, rfl, rfl, rfl, rfl, rfl, fun j h => ?_, fun y h => ?_, ?_⟩
    · have other : (s.onCore k fun q => q.onClu x g).core j = s.core j := State.setCore_core_ne _ _ h
      rcases b j h with e | ⟨e, f, l⟩
      · exact .inl (e.trans other)
      · refine .inr ⟨by rw [other] at e; exact e, f, ?_⟩
        simpa only [State.sameLaunch, tasks] using l
    · exact (congrArg (fun d : Core => d.clu y) a).trans (Core.onClu_ne _ g h)
    · exact a.trans (by rw [show (State.core { (s.onCore k fun q => q.onClu x g) with cores := _ } k) = _ from a]; rfl)
  unfold State.deliver
  dsimp only
  split
  · exact term ..
  · split
    · exact key _ ⟨fun d => d.enter t pc (s.core k).slot, (s.core k).term, (s.core k).save, rfl⟩
    · exact save _
    · exact term ..

/-- A fault of an instruction is a next state that has trapped. -/
theorem State.raise_trapped (s : State) (c d : Nat) (a i : Word) : ∃ t, s.raise c d a i = .next t ∧ t.report = .trapped :=
  ⟨_, rfl, rfl⟩

/-! Targets (R141). -/

/-- An operation that changes no state. -/
def Res.Stays {α : Type} (s : State) (r : Res α) : Prop := ∀ a t, r = .ok a t → t = s

theorem stays_ok {α : Type} (s : State) (a : α) : (Res.ok a s).Stays s := fun _ _ e => by cases e; rfl
theorem stays_trap {α : Type} (s : State) (c d : Nat) (a : Word) : (Res.trap c d a : Res α).Stays s := fun _ _ e => by cases e
theorem stays_ite {α : Type} {s : State} {x y : Res α} {c : Prop} [Decidable c] (hx : x.Stays s) (hy : y.Stays s) :
    (if c then x else y).Stays s := by split <;> assumption
theorem stays_bind {α β : Type} {s : State} {r : Res α} {f : α → State → Res β} (hr : r.Stays s) (hf : ∀ a, (f a s).Stays s) :
    (r.bind f).Stays s := by
  cases r with
  | ok a t => obtain rfl := hr a t rfl; exact hf a
  | wait => exact fun _ _ e => by cases e
  | trap c d a => exact fun _ _ e => by cases e

theorem State.memTarget_stays (s : State) (a : Word) (path : Nat) (w : Bool) : (s.memTarget a path w).Stays s := by
  unfold State.memTarget
  split
  · exact stays_ok _ _
  · exact stays_trap _ _ _ _

theorem State.latTarget_stays (s : State) (a : Word) : (s.latTarget a).Stays s := by
  unfold State.latTarget
  split
  · exact stays_trap _ _ _ _
  · split
    · exact stays_ok _ _
    · exact stays_trap _ _ _ _

theorem State.latPage_stays (s : State) (t : Target) (a : Word) : (s.latPage t a).Stays s := by
  cases t <;> first | exact stays_ok _ _ | exact stays_ite (stays_ok _ _) (stays_trap s 0xC 7 a)

/-- Finding where an access goes changes nothing. -/
theorem State.target_stays (s : State) (a : Word) (size : Nat) (kind : AccessKind) : (s.target a size kind).Stays s := by
  have no := fun c => stays_trap (α := Target) s c 0 a
  have mem := fun path w => stays_ite (c := genForm a) (State.memTarget_stays s a path w) (no 8)
  unfold State.target
  refine stays_ite (no 8) (stays_ite (no 3) (stays_ite (no 9) (stays_ite (mem _ _) (stays_ite ?_ (stays_ite ?_ (stays_ite ?_
    (stays_ite ?_ (stays_ite ?_ (stays_ite ?_ (stays_ite ?_ (no 8)))))))))))
  · exact stays_ite (State.memTarget_stays _ _ _ _) (no 8)
  · exact stays_bind (State.latTarget_stays _ _) fun t => stays_ite (State.latPage_stays _ _ _) (no _)
  · exact stays_ite (stays_ok _ _) (no _)
  · exact stays_ite (no _) (stays_ite (no _) (stays_ok _ _))
  · exact stays_bind (stays_ite (stays_ok _ _) (no _)) fun t => stays_ite (stays_ok _ _) (no _)
  · exact stays_bind (stays_ite (stays_ok _ _) (no _)) fun t => stays_ite (no _) (stays_ok _ _)
  · exact stays_ite (stays_ok _ _) (no _)

theorem State.target_state {s u : State} {a : Word} {size : Nat} {kind : AccessKind} {t : Target} (h : s.target a size kind = .ok t u) :
    u = s := State.target_stays s a size kind t u h

/-! The two dispatches. -/

/-- On an instruction of a bundle the dispatch that the device steps call agrees with the machine's own. -/
theorem issueInstr_eq_exec {i : Instr} (h : wellFormed i = true) (s : State) : issueInstr i s = exec i s := by
  cases i <;> first | exact absurd (show false = true from h) Bool.false_ne_true | rfl

/-! What the shared operations of branches and die caches can do. -/

/-- A taken branch goes to its target, or leaves the pc at itself with the fault due (R43). -/
theorem State.branch_cases (s : State) (w : BitVec 4) (d : Int) :
    (∃ a, s.target? w d = some a ∧ s.branch w d = s.goTo a false) ∨
      (s.target? w d = none ∧ (s.branch w d).cl.pc = s.ir.bpc ∧ (s.branch w d).cl.pcBad = true) := by
  unfold State.branch
  cases h : s.target? w d with
  | some a => exact .inl ⟨a, rfl, rfl⟩
  | none =>
    have hc := State.onCl_cl s fun c => { c with pc := s.ir.bpc, pcReg := false, pcBad := true }
    exact .inr ⟨rfl, congrArg Cluster.pc hc, congrArg Cluster.pcBad hc⟩

/-- A set of a die cache stays as it is, or gives up its least recently used line that no transaction holds (R277). -/
theorem MemSys.trim_cases (m : MemSys) (die : Fin 8) (line : Nat) :
    m.trim die line = m ∨ ∃ d, m.cacheVictim die line = some d ∧ m.trim die line = m.replace d := by
  unfold MemSys.trim
  split
  · cases h : m.cacheVictim die line with
    | some d => exact .inr ⟨d, rfl, rfl⟩
    | none => exact .inl rfl
  · exact .inl rfl

/-- The look-ahead of a `CALL` finds the next bundle, or its fault is a fetch fault of the instruction (R59). -/
theorem State.returnAddress_cases (s : State) :
    (∃ r, s.normalise (s.old.fetcher s.cur.core s.cur.clu) s.ir.npc false (maxLines + 1) = .ok r ∧ s.returnAddress = .ok r.1) ∨
      ∃ e, s.returnAddress = .error e := by
  unfold State.returnAddress
  cases h : s.normalise (s.old.fetcher s.cur.core s.cur.clu) s.ir.npc false (maxLines + 1) with
  | ok r => exact .inl ⟨r, rfl, rfl⟩
  | error e => exact .inr ⟨e, rfl⟩

end Sys2Proof.Machine
end

