-- ==== Sys2Proof/Laws/Updates.lean ====
section
/-! SUPPORT. What each named update of the device, a core and a channel changes, and, field by field, what it leaves. -/

namespace Sys2Proof.Machine

/-! A core, a quad. -/

@[simp] theorem State.onCore_core_same (s : State) (k : Fin 768) (f : Core → Core) : (s.onCore k f).core k = f (s.core k) := vget_vset_same ..
theorem State.onCore_core_ne (s : State) {k j : Fin 768} (f : Core → Core) (h : j ≠ k) : (s.onCore k f).core j = s.core j := vget_vset_ne _ _ h
@[simp] theorem State.onCore_cadence (s : State) (k : Fin 768) (f : Core → Core) : (s.onCore k f).cadence = s.cadence := rfl
@[simp] theorem State.onCore_quads (s : State) (k : Fin 768) (f : Core → Core) : (s.onCore k f).quads = s.quads := rfl
@[simp] theorem State.onCore_ms (s : State) (k : Fin 768) (f : Core → Core) : (s.onCore k f).ms = s.ms := rfl
@[simp] theorem State.onCore_lat (s : State) (k : Fin 768) (f : Core → Core) : (s.onCore k f).lat = s.lat := rfl
@[simp] theorem State.onCore_sch (s : State) (k : Fin 768) (f : Core → Core) : (s.onCore k f).sch = s.sch := rfl
@[simp] theorem State.onCore_plat (s : State) (k : Fin 768) (f : Core → Core) : (s.onCore k f).plat = s.plat := rfl
@[simp] theorem State.onCore_regs (s : State) (k : Fin 768) (f : Core → Core) : (s.onCore k f).regs = s.regs := rfl
@[simp] theorem State.onCore_agenda (s : State) (k : Fin 768) (f : Core → Core) : (s.onCore k f).agenda = s.agenda := rfl
@[simp] theorem State.onCore_cur (s : State) (k : Fin 768) (f : Core → Core) : (s.onCore k f).cur = s.cur := rfl
@[simp] theorem State.onCore_latch (s : State) (k : Fin 768) (f : Core → Core) : (s.onCore k f).latch = s.latch := rfl
@[simp] theorem State.onCore_ir (s : State) (k : Fin 768) (f : Core → Core) : (s.onCore k f).ir = s.ir := rfl
@[simp] theorem State.onCore_report (s : State) (k : Fin 768) (f : Core → Core) : (s.onCore k f).report = s.report := rfl
@[simp] theorem State.onCore_free (s : State) (k : Fin 768) (f : Core → Core) : (s.onCore k f).free = s.free := rfl
@[simp] theorem State.onQuad_same (s : State) (u : Fin 192) (f : Quad → Quad) : vget (s.onQuad u f).quads u = f (vget s.quads u) := vget_vset_same ..
theorem State.onQuad_ne (s : State) {u v : Fin 192} (f : Quad → Quad) (h : v ≠ u) : vget (s.onQuad u f).quads v = vget s.quads v := vget_vset_ne _ _ h
@[simp] theorem State.onQuad_cadence (s : State) (u : Fin 192) (f : Quad → Quad) : (s.onQuad u f).cadence = s.cadence := rfl
@[simp] theorem State.onQuad_cores (s : State) (u : Fin 192) (f : Quad → Quad) : (s.onQuad u f).cores = s.cores := rfl
@[simp] theorem State.onQuad_ms (s : State) (u : Fin 192) (f : Quad → Quad) : (s.onQuad u f).ms = s.ms := rfl
@[simp] theorem State.onQuad_lat (s : State) (u : Fin 192) (f : Quad → Quad) : (s.onQuad u f).lat = s.lat := rfl
@[simp] theorem State.onQuad_sch (s : State) (u : Fin 192) (f : Quad → Quad) : (s.onQuad u f).sch = s.sch := rfl
@[simp] theorem State.onQuad_plat (s : State) (u : Fin 192) (f : Quad → Quad) : (s.onQuad u f).plat = s.plat := rfl
@[simp] theorem State.onQuad_regs (s : State) (u : Fin 192) (f : Quad → Quad) : (s.onQuad u f).regs = s.regs := rfl
@[simp] theorem State.onQuad_agenda (s : State) (u : Fin 192) (f : Quad → Quad) : (s.onQuad u f).agenda = s.agenda := rfl
@[simp] theorem State.onQuad_cur (s : State) (u : Fin 192) (f : Quad → Quad) : (s.onQuad u f).cur = s.cur := rfl
@[simp] theorem State.onQuad_latch (s : State) (u : Fin 192) (f : Quad → Quad) : (s.onQuad u f).latch = s.latch := rfl
@[simp] theorem State.onQuad_ir (s : State) (u : Fin 192) (f : Quad → Quad) : (s.onQuad u f).ir = s.ir := rfl
@[simp] theorem State.onQuad_report (s : State) (u : Fin 192) (f : Quad → Quad) : (s.onQuad u f).report = s.report := rfl
@[simp] theorem State.onQuad_free (s : State) (u : Fin 192) (f : Quad → Quad) : (s.onQuad u f).free = s.free := rfl

/-! An island. -/

@[simp] theorem State.onIsland_same (s : State) (i : Fin 76) (f : Island → Island) : vget (s.onIsland i f).plat.islands i = f (vget s.plat.islands i) := vget_vset_same ..
theorem State.onIsland_ne (s : State) {i j : Fin 76} (f : Island → Island) (h : j ≠ i) : vget (s.onIsland i f).plat.islands j = vget s.plat.islands j := vget_vset_ne _ _ h
@[simp] theorem State.onIsland_cadence (s : State) (i : Fin 76) (f : Island → Island) : (s.onIsland i f).cadence = s.cadence := rfl
@[simp] theorem State.onIsland_cores (s : State) (i : Fin 76) (f : Island → Island) : (s.onIsland i f).cores = s.cores := rfl
@[simp] theorem State.onIsland_quads (s : State) (i : Fin 76) (f : Island → Island) : (s.onIsland i f).quads = s.quads := rfl
@[simp] theorem State.onIsland_ms (s : State) (i : Fin 76) (f : Island → Island) : (s.onIsland i f).ms = s.ms := rfl
@[simp] theorem State.onIsland_lat (s : State) (i : Fin 76) (f : Island → Island) : (s.onIsland i f).lat = s.lat := rfl
@[simp] theorem State.onIsland_sch (s : State) (i : Fin 76) (f : Island → Island) : (s.onIsland i f).sch = s.sch := rfl
@[simp] theorem State.onIsland_regs (s : State) (i : Fin 76) (f : Island → Island) : (s.onIsland i f).regs = s.regs := rfl
@[simp] theorem State.onIsland_agenda (s : State) (i : Fin 76) (f : Island → Island) : (s.onIsland i f).agenda = s.agenda := rfl
@[simp] theorem State.onIsland_cur (s : State) (i : Fin 76) (f : Island → Island) : (s.onIsland i f).cur = s.cur := rfl
@[simp] theorem State.onIsland_latch (s : State) (i : Fin 76) (f : Island → Island) : (s.onIsland i f).latch = s.latch := rfl
@[simp] theorem State.onIsland_ir (s : State) (i : Fin 76) (f : Island → Island) : (s.onIsland i f).ir = s.ir := rfl
@[simp] theorem State.onIsland_report (s : State) (i : Fin 76) (f : Island → Island) : (s.onIsland i f).report = s.report := rfl
@[simp] theorem State.onIsland_free (s : State) (i : Fin 76) (f : Island → Island) : (s.onIsland i f).free = s.free := rfl
@[simp] theorem State.onIsland_plat_links (s : State) (i : Fin 76) (f : Island → Island) : (s.onIsland i f).plat.links = s.plat.links := rfl
@[simp] theorem State.onIsland_plat_dies (s : State) (i : Fin 76) (f : Island → Island) : (s.onIsland i f).plat.dies = s.plat.dies := rfl
@[simp] theorem State.onIsland_plat_cxl (s : State) (i : Fin 76) (f : Island → Island) : (s.onIsland i f).plat.cxl = s.plat.cxl := rfl
@[simp] theorem State.onIsland_plat_ualLost (s : State) (i : Fin 76) (f : Island → Island) : (s.onIsland i f).plat.ualLost = s.plat.ualLost := rfl
@[simp] theorem State.onIsland_plat_fenced (s : State) (i : Fin 76) (f : Island → Island) : (s.onIsland i f).plat.fenced = s.plat.fenced := rfl
@[simp] theorem State.onIsland_plat_fenceDue (s : State) (i : Fin 76) (f : Island → Island) : (s.onIsland i f).plat.fenceDue = s.plat.fenceDue := rfl
@[simp] theorem State.onIsland_plat_iftBusy (s : State) (i : Fin 76) (f : Island → Island) : (s.onIsland i f).plat.iftBusy = s.plat.iftBusy := rfl
@[simp] theorem State.onIsland_plat_iftPass (s : State) (i : Fin 76) (f : Island → Island) : (s.onIsland i f).plat.iftPass = s.plat.iftPass := rfl
@[simp] theorem State.onIsland_plat_iftCore (s : State) (i : Fin 76) (f : Island → Island) : (s.onIsland i f).plat.iftCore = s.plat.iftCore := rfl
@[simp] theorem State.onIsland_plat_iftTick (s : State) (i : Fin 76) (f : Island → Island) : (s.onIsland i f).plat.iftTick = s.plat.iftTick := rfl
@[simp] theorem State.onIsland_plat_evHead (s : State) (i : Fin 76) (f : Island → Island) : (s.onIsland i f).plat.evHead = s.plat.evHead := rfl
@[simp] theorem State.onIsland_plat_evLost (s : State) (i : Fin 76) (f : Island → Island) : (s.onIsland i f).plat.evLost = s.plat.evLost := rfl
@[simp] theorem State.onIsland_plat_interrupts (s : State) (i : Fin 76) (f : Island → Island) : (s.onIsland i f).plat.interrupts = s.plat.interrupts := rfl
@[simp] theorem State.onIsland_plat_results (s : State) (i : Fin 76) (f : Island → Island) : (s.onIsland i f).plat.results = s.plat.results := rfl
@[simp] theorem State.onIsland_plat_hqlid (s : State) (i : Fin 76) (f : Island → Island) : (s.onIsland i f).plat.hqlid = s.plat.hqlid := rfl
@[simp] theorem State.onIsland_plat_ksslot (s : State) (i : Fin 76) (f : Island → Island) : (s.onIsland i f).plat.ksslot = s.plat.ksslot := rfl
@[simp] theorem State.onIsland_plat_ksdata (s : State) (i : Fin 76) (f : Island → Island) : (s.onIsland i f).plat.ksdata = s.plat.ksdata := rfl
@[simp] theorem State.onIsland_plat_hostDone (s : State) (i : Fin 76) (f : Island → Island) : (s.onIsland i f).plat.hostDone = s.plat.hostDone := rfl
@[simp] theorem State.onIsland_plat_peerDone (s : State) (i : Fin 76) (f : Island → Island) : (s.onIsland i f).plat.peerDone = s.plat.peerDone := rfl
@[simp] theorem State.onIsland_plat_enCtx (s : State) (i : Fin 76) (f : Island → Island) : (s.onIsland i f).plat.enCtx = s.plat.enCtx := rfl
@[simp] theorem State.onIsland_plat_enPlat (s : State) (i : Fin 76) (f : Island → Island) : (s.onIsland i f).plat.enPlat = s.plat.enPlat := rfl
@[simp] theorem State.onIsland_plat_bootAddr (s : State) (i : Fin 76) (f : Island → Island) : (s.onIsland i f).plat.bootAddr = s.plat.bootAddr := rfl
@[simp] theorem State.onIsland_plat_bootLen (s : State) (i : Fin 76) (f : Island → Island) : (s.onIsland i f).plat.bootLen = s.plat.bootLen := rfl
@[simp] theorem State.onIsland_plat_bootPhase (s : State) (i : Fin 76) (f : Island → Island) : (s.onIsland i f).plat.bootPhase = s.plat.bootPhase := rfl
@[simp] theorem State.onIsland_plat_bootErr (s : State) (i : Fin 76) (f : Island → Island) : (s.onIsland i f).plat.bootErr = s.plat.bootErr := rfl
@[simp] theorem State.onIsland_plat_bootLid (s : State) (i : Fin 76) (f : Island → Island) : (s.onIsland i f).plat.bootLid = s.plat.bootLid := rfl

/-! A link. -/

@[simp] theorem State.onLink_same (s : State) (i : Fin 14) (f : Link → Link) : vget (s.onLink i f).plat.links i = f (vget s.plat.links i) := vget_vset_same ..
theorem State.onLink_ne (s : State) {i j : Fin 14} (f : Link → Link) (h : j ≠ i) : vget (s.onLink i f).plat.links j = vget s.plat.links j := vget_vset_ne _ _ h
@[simp] theorem State.onLink_cadence (s : State) (i : Fin 14) (f : Link → Link) : (s.onLink i f).cadence = s.cadence := rfl
@[simp] theorem State.onLink_cores (s : State) (i : Fin 14) (f : Link → Link) : (s.onLink i f).cores = s.cores := rfl
@[simp] theorem State.onLink_quads (s : State) (i : Fin 14) (f : Link → Link) : (s.onLink i f).quads = s.quads := rfl
@[simp] theorem State.onLink_ms (s : State) (i : Fin 14) (f : Link → Link) : (s.onLink i f).ms = s.ms := rfl
@[simp] theorem State.onLink_lat (s : State) (i : Fin 14) (f : Link → Link) : (s.onLink i f).lat = s.lat := rfl
@[simp] theorem State.onLink_sch (s : State) (i : Fin 14) (f : Link → Link) : (s.onLink i f).sch = s.sch := rfl
@[simp] theorem State.onLink_regs (s : State) (i : Fin 14) (f : Link → Link) : (s.onLink i f).regs = s.regs := rfl
@[simp] theorem State.onLink_agenda (s : State) (i : Fin 14) (f : Link → Link) : (s.onLink i f).agenda = s.agenda := rfl
@[simp] theorem State.onLink_cur (s : State) (i : Fin 14) (f : Link → Link) : (s.onLink i f).cur = s.cur := rfl
@[simp] theorem State.onLink_latch (s : State) (i : Fin 14) (f : Link → Link) : (s.onLink i f).latch = s.latch := rfl
@[simp] theorem State.onLink_ir (s : State) (i : Fin 14) (f : Link → Link) : (s.onLink i f).ir = s.ir := rfl
@[simp] theorem State.onLink_report (s : State) (i : Fin 14) (f : Link → Link) : (s.onLink i f).report = s.report := rfl
@[simp] theorem State.onLink_free (s : State) (i : Fin 14) (f : Link → Link) : (s.onLink i f).free = s.free := rfl
@[simp] theorem State.onLink_plat_islands (s : State) (i : Fin 14) (f : Link → Link) : (s.onLink i f).plat.islands = s.plat.islands := rfl
@[simp] theorem State.onLink_plat_dies (s : State) (i : Fin 14) (f : Link → Link) : (s.onLink i f).plat.dies = s.plat.dies := rfl
@[simp] theorem State.onLink_plat_cxl (s : State) (i : Fin 14) (f : Link → Link) : (s.onLink i f).plat.cxl = s.plat.cxl := rfl
@[simp] theorem State.onLink_plat_ualLost (s : State) (i : Fin 14) (f : Link → Link) : (s.onLink i f).plat.ualLost = s.plat.ualLost := rfl
@[simp] theorem State.onLink_plat_fenced (s : State) (i : Fin 14) (f : Link → Link) : (s.onLink i f).plat.fenced = s.plat.fenced := rfl
@[simp] theorem State.onLink_plat_fenceDue (s : State) (i : Fin 14) (f : Link → Link) : (s.onLink i f).plat.fenceDue = s.plat.fenceDue := rfl
@[simp] theorem State.onLink_plat_iftBusy (s : State) (i : Fin 14) (f : Link → Link) : (s.onLink i f).plat.iftBusy = s.plat.iftBusy := rfl
@[simp] theorem State.onLink_plat_iftPass (s : State) (i : Fin 14) (f : Link → Link) : (s.onLink i f).plat.iftPass = s.plat.iftPass := rfl
@[simp] theorem State.onLink_plat_iftCore (s : State) (i : Fin 14) (f : Link → Link) : (s.onLink i f).plat.iftCore = s.plat.iftCore := rfl
@[simp] theorem State.onLink_plat_iftTick (s : State) (i : Fin 14) (f : Link → Link) : (s.onLink i f).plat.iftTick = s.plat.iftTick := rfl
@[simp] theorem State.onLink_plat_evHead (s : State) (i : Fin 14) (f : Link → Link) : (s.onLink i f).plat.evHead = s.plat.evHead := rfl
@[simp] theorem State.onLink_plat_evLost (s : State) (i : Fin 14) (f : Link → Link) : (s.onLink i f).plat.evLost = s.plat.evLost := rfl
@[simp] theorem State.onLink_plat_interrupts (s : State) (i : Fin 14) (f : Link → Link) : (s.onLink i f).plat.interrupts = s.plat.interrupts := rfl
@[simp] theorem State.onLink_plat_results (s : State) (i : Fin 14) (f : Link → Link) : (s.onLink i f).plat.results = s.plat.results := rfl
@[simp] theorem State.onLink_plat_hqlid (s : State) (i : Fin 14) (f : Link → Link) : (s.onLink i f).plat.hqlid = s.plat.hqlid := rfl
@[simp] theorem State.onLink_plat_ksslot (s : State) (i : Fin 14) (f : Link → Link) : (s.onLink i f).plat.ksslot = s.plat.ksslot := rfl
@[simp] theorem State.onLink_plat_ksdata (s : State) (i : Fin 14) (f : Link → Link) : (s.onLink i f).plat.ksdata = s.plat.ksdata := rfl
@[simp] theorem State.onLink_plat_hostDone (s : State) (i : Fin 14) (f : Link → Link) : (s.onLink i f).plat.hostDone = s.plat.hostDone := rfl
@[simp] theorem State.onLink_plat_peerDone (s : State) (i : Fin 14) (f : Link → Link) : (s.onLink i f).plat.peerDone = s.plat.peerDone := rfl
@[simp] theorem State.onLink_plat_enCtx (s : State) (i : Fin 14) (f : Link → Link) : (s.onLink i f).plat.enCtx = s.plat.enCtx := rfl
@[simp] theorem State.onLink_plat_enPlat (s : State) (i : Fin 14) (f : Link → Link) : (s.onLink i f).plat.enPlat = s.plat.enPlat := rfl
@[simp] theorem State.onLink_plat_bootAddr (s : State) (i : Fin 14) (f : Link → Link) : (s.onLink i f).plat.bootAddr = s.plat.bootAddr := rfl
@[simp] theorem State.onLink_plat_bootLen (s : State) (i : Fin 14) (f : Link → Link) : (s.onLink i f).plat.bootLen = s.plat.bootLen := rfl
@[simp] theorem State.onLink_plat_bootPhase (s : State) (i : Fin 14) (f : Link → Link) : (s.onLink i f).plat.bootPhase = s.plat.bootPhase := rfl
@[simp] theorem State.onLink_plat_bootErr (s : State) (i : Fin 14) (f : Link → Link) : (s.onLink i f).plat.bootErr = s.plat.bootErr := rfl
@[simp] theorem State.onLink_plat_bootLid (s : State) (i : Fin 14) (f : Link → Link) : (s.onLink i f).plat.bootLid = s.plat.bootLid := rfl

/-! A die. -/

@[simp] theorem State.onDie_same (s : State) (i : Fin 8) (f : Die → Die) : vget (s.onDie i f).plat.dies i = f (vget s.plat.dies i) := vget_vset_same ..
theorem State.onDie_ne (s : State) {i j : Fin 8} (f : Die → Die) (h : j ≠ i) : vget (s.onDie i f).plat.dies j = vget s.plat.dies j := vget_vset_ne _ _ h
@[simp] theorem State.onDie_cadence (s : State) (i : Fin 8) (f : Die → Die) : (s.onDie i f).cadence = s.cadence := rfl
@[simp] theorem State.onDie_cores (s : State) (i : Fin 8) (f : Die → Die) : (s.onDie i f).cores = s.cores := rfl
@[simp] theorem State.onDie_quads (s : State) (i : Fin 8) (f : Die → Die) : (s.onDie i f).quads = s.quads := rfl
@[simp] theorem State.onDie_ms (s : State) (i : Fin 8) (f : Die → Die) : (s.onDie i f).ms = s.ms := rfl
@[simp] theorem State.onDie_lat (s : State) (i : Fin 8) (f : Die → Die) : (s.onDie i f).lat = s.lat := rfl
@[simp] theorem State.onDie_sch (s : State) (i : Fin 8) (f : Die → Die) : (s.onDie i f).sch = s.sch := rfl
@[simp] theorem State.onDie_regs (s : State) (i : Fin 8) (f : Die → Die) : (s.onDie i f).regs = s.regs := rfl
@[simp] theorem State.onDie_agenda (s : State) (i : Fin 8) (f : Die → Die) : (s.onDie i f).agenda = s.agenda := rfl
@[simp] theorem State.onDie_cur (s : State) (i : Fin 8) (f : Die → Die) : (s.onDie i f).cur = s.cur := rfl
@[simp] theorem State.onDie_latch (s : State) (i : Fin 8) (f : Die → Die) : (s.onDie i f).latch = s.latch := rfl
@[simp] theorem State.onDie_ir (s : State) (i : Fin 8) (f : Die → Die) : (s.onDie i f).ir = s.ir := rfl
@[simp] theorem State.onDie_report (s : State) (i : Fin 8) (f : Die → Die) : (s.onDie i f).report = s.report := rfl
@[simp] theorem State.onDie_free (s : State) (i : Fin 8) (f : Die → Die) : (s.onDie i f).free = s.free := rfl
@[simp] theorem State.onDie_plat_links (s : State) (i : Fin 8) (f : Die → Die) : (s.onDie i f).plat.links = s.plat.links := rfl
@[simp] theorem State.onDie_plat_islands (s : State) (i : Fin 8) (f : Die → Die) : (s.onDie i f).plat.islands = s.plat.islands := rfl
@[simp] theorem State.onDie_plat_cxl (s : State) (i : Fin 8) (f : Die → Die) : (s.onDie i f).plat.cxl = s.plat.cxl := rfl
@[simp] theorem State.onDie_plat_ualLost (s : State) (i : Fin 8) (f : Die → Die) : (s.onDie i f).plat.ualLost = s.plat.ualLost := rfl
@[simp] theorem State.onDie_plat_fenced (s : State) (i : Fin 8) (f : Die → Die) : (s.onDie i f).plat.fenced = s.plat.fenced := rfl
@[simp] theorem State.onDie_plat_fenceDue (s : State) (i : Fin 8) (f : Die → Die) : (s.onDie i f).plat.fenceDue = s.plat.fenceDue := rfl
@[simp] theorem State.onDie_plat_iftBusy (s : State) (i : Fin 8) (f : Die → Die) : (s.onDie i f).plat.iftBusy = s.plat.iftBusy := rfl
@[simp] theorem State.onDie_plat_iftPass (s : State) (i : Fin 8) (f : Die → Die) : (s.onDie i f).plat.iftPass = s.plat.iftPass := rfl
@[simp] theorem State.onDie_plat_iftCore (s : State) (i : Fin 8) (f : Die → Die) : (s.onDie i f).plat.iftCore = s.plat.iftCore := rfl
@[simp] theorem State.onDie_plat_iftTick (s : State) (i : Fin 8) (f : Die → Die) : (s.onDie i f).plat.iftTick = s.plat.iftTick := rfl
@[simp] theorem State.onDie_plat_evHead (s : State) (i : Fin 8) (f : Die → Die) : (s.onDie i f).plat.evHead = s.plat.evHead := rfl
@[simp] theorem State.onDie_plat_evLost (s : State) (i : Fin 8) (f : Die → Die) : (s.onDie i f).plat.evLost = s.plat.evLost := rfl
@[simp] theorem State.onDie_plat_interrupts (s : State) (i : Fin 8) (f : Die → Die) : (s.onDie i f).plat.interrupts = s.plat.interrupts := rfl
@[simp] theorem State.onDie_plat_results (s : State) (i : Fin 8) (f : Die → Die) : (s.onDie i f).plat.results = s.plat.results := rfl
@[simp] theorem State.onDie_plat_hqlid (s : State) (i : Fin 8) (f : Die → Die) : (s.onDie i f).plat.hqlid = s.plat.hqlid := rfl
@[simp] theorem State.onDie_plat_ksslot (s : State) (i : Fin 8) (f : Die → Die) : (s.onDie i f).plat.ksslot = s.plat.ksslot := rfl
@[simp] theorem State.onDie_plat_ksdata (s : State) (i : Fin 8) (f : Die → Die) : (s.onDie i f).plat.ksdata = s.plat.ksdata := rfl
@[simp] theorem State.onDie_plat_hostDone (s : State) (i : Fin 8) (f : Die → Die) : (s.onDie i f).plat.hostDone = s.plat.hostDone := rfl
@[simp] theorem State.onDie_plat_peerDone (s : State) (i : Fin 8) (f : Die → Die) : (s.onDie i f).plat.peerDone = s.plat.peerDone := rfl
@[simp] theorem State.onDie_plat_enCtx (s : State) (i : Fin 8) (f : Die → Die) : (s.onDie i f).plat.enCtx = s.plat.enCtx := rfl
@[simp] theorem State.onDie_plat_enPlat (s : State) (i : Fin 8) (f : Die → Die) : (s.onDie i f).plat.enPlat = s.plat.enPlat := rfl
@[simp] theorem State.onDie_plat_bootAddr (s : State) (i : Fin 8) (f : Die → Die) : (s.onDie i f).plat.bootAddr = s.plat.bootAddr := rfl
@[simp] theorem State.onDie_plat_bootLen (s : State) (i : Fin 8) (f : Die → Die) : (s.onDie i f).plat.bootLen = s.plat.bootLen := rfl
@[simp] theorem State.onDie_plat_bootPhase (s : State) (i : Fin 8) (f : Die → Die) : (s.onDie i f).plat.bootPhase = s.plat.bootPhase := rfl
@[simp] theorem State.onDie_plat_bootErr (s : State) (i : Fin 8) (f : Die → Die) : (s.onDie i f).plat.bootErr = s.plat.bootErr := rfl
@[simp] theorem State.onDie_plat_bootLid (s : State) (i : Fin 8) (f : Die → Die) : (s.onDie i f).plat.bootLid = s.plat.bootLid := rfl

/-! Device registers, and the answers to accesses from outside. -/

@[simp] theorem State.setDev_cadence (s : State) (n : Nat) (x : Word) : (s.setDev n x).cadence = s.cadence := rfl
@[simp] theorem State.setDev_quads (s : State) (n : Nat) (x : Word) : (s.setDev n x).quads = s.quads := rfl
@[simp] theorem State.setDev_lat (s : State) (n : Nat) (x : Word) : (s.setDev n x).lat = s.lat := rfl
@[simp] theorem State.setDev_sch (s : State) (n : Nat) (x : Word) : (s.setDev n x).sch = s.sch := rfl
@[simp] theorem State.setDev_plat (s : State) (n : Nat) (x : Word) : (s.setDev n x).plat = s.plat := rfl
@[simp] theorem State.setDev_agenda (s : State) (n : Nat) (x : Word) : (s.setDev n x).agenda = s.agenda := rfl
@[simp] theorem State.setDev_cur (s : State) (n : Nat) (x : Word) : (s.setDev n x).cur = s.cur := rfl
@[simp] theorem State.setDev_latch (s : State) (n : Nat) (x : Word) : (s.setDev n x).latch = s.latch := rfl
@[simp] theorem State.setDev_ir (s : State) (n : Nat) (x : Word) : (s.setDev n x).ir = s.ir := rfl
@[simp] theorem State.setDev_report (s : State) (n : Nat) (x : Word) : (s.setDev n x).report = s.report := rfl
@[simp] theorem State.setDev_free (s : State) (n : Nat) (x : Word) : (s.setDev n x).free = s.free := rfl
@[simp] theorem answerHost_hostDone (c : Completion) (s : State) : (answerHost c s).plat.hostDone = some c := rfl
@[simp] theorem answerHost_cadence (c : Completion) (s : State) : (answerHost c s).cadence = s.cadence := rfl
@[simp] theorem answerHost_cores (c : Completion) (s : State) : (answerHost c s).cores = s.cores := rfl
@[simp] theorem answerHost_quads (c : Completion) (s : State) : (answerHost c s).quads = s.quads := rfl
@[simp] theorem answerHost_ms (c : Completion) (s : State) : (answerHost c s).ms = s.ms := rfl
@[simp] theorem answerHost_lat (c : Completion) (s : State) : (answerHost c s).lat = s.lat := rfl
@[simp] theorem answerHost_sch (c : Completion) (s : State) : (answerHost c s).sch = s.sch := rfl
@[simp] theorem answerHost_regs (c : Completion) (s : State) : (answerHost c s).regs = s.regs := rfl
@[simp] theorem answerHost_agenda (c : Completion) (s : State) : (answerHost c s).agenda = s.agenda := rfl
@[simp] theorem answerHost_cur (c : Completion) (s : State) : (answerHost c s).cur = s.cur := rfl
@[simp] theorem answerHost_latch (c : Completion) (s : State) : (answerHost c s).latch = s.latch := rfl
@[simp] theorem answerHost_ir (c : Completion) (s : State) : (answerHost c s).ir = s.ir := rfl
@[simp] theorem answerHost_report (c : Completion) (s : State) : (answerHost c s).report = s.report := rfl
@[simp] theorem answerHost_free (c : Completion) (s : State) : (answerHost c s).free = s.free := rfl
@[simp] theorem answerHost_plat_links (c : Completion) (s : State) : (answerHost c s).plat.links = s.plat.links := rfl
@[simp] theorem answerHost_plat_islands (c : Completion) (s : State) : (answerHost c s).plat.islands = s.plat.islands := rfl
@[simp] theorem answerHost_plat_dies (c : Completion) (s : State) : (answerHost c s).plat.dies = s.plat.dies := rfl
@[simp] theorem answerHost_plat_cxl (c : Completion) (s : State) : (answerHost c s).plat.cxl = s.plat.cxl := rfl
@[simp] theorem answerHost_plat_ualLost (c : Completion) (s : State) : (answerHost c s).plat.ualLost = s.plat.ualLost := rfl
@[simp] theorem answerHost_plat_fenced (c : Completion) (s : State) : (answerHost c s).plat.fenced = s.plat.fenced := rfl
@[simp] theorem answerHost_plat_fenceDue (c : Completion) (s : State) : (answerHost c s).plat.fenceDue = s.plat.fenceDue := rfl
@[simp] theorem answerHost_plat_iftBusy (c : Completion) (s : State) : (answerHost c s).plat.iftBusy = s.plat.iftBusy := rfl
@[simp] theorem answerHost_plat_iftPass (c : Completion) (s : State) : (answerHost c s).plat.iftPass = s.plat.iftPass := rfl
@[simp] theorem answerHost_plat_iftCore (c : Completion) (s : State) : (answerHost c s).plat.iftCore = s.plat.iftCore := rfl
@[simp] theorem answerHost_plat_iftTick (c : Completion) (s : State) : (answerHost c s).plat.iftTick = s.plat.iftTick := rfl
@[simp] theorem answerHost_plat_evHead (c : Completion) (s : State) : (answerHost c s).plat.evHead = s.plat.evHead := rfl
@[simp] theorem answerHost_plat_evLost (c : Completion) (s : State) : (answerHost c s).plat.evLost = s.plat.evLost := rfl
@[simp] theorem answerHost_plat_interrupts (c : Completion) (s : State) : (answerHost c s).plat.interrupts = s.plat.interrupts := rfl
@[simp] theorem answerHost_plat_results (c : Completion) (s : State) : (answerHost c s).plat.results = s.plat.results := rfl
@[simp] theorem answerHost_plat_hqlid (c : Completion) (s : State) : (answerHost c s).plat.hqlid = s.plat.hqlid := rfl
@[simp] theorem answerHost_plat_ksslot (c : Completion) (s : State) : (answerHost c s).plat.ksslot = s.plat.ksslot := rfl
@[simp] theorem answerHost_plat_ksdata (c : Completion) (s : State) : (answerHost c s).plat.ksdata = s.plat.ksdata := rfl
@[simp] theorem answerHost_plat_peerDone (c : Completion) (s : State) : (answerHost c s).plat.peerDone = s.plat.peerDone := rfl
@[simp] theorem answerHost_plat_enCtx (c : Completion) (s : State) : (answerHost c s).plat.enCtx = s.plat.enCtx := rfl
@[simp] theorem answerHost_plat_enPlat (c : Completion) (s : State) : (answerHost c s).plat.enPlat = s.plat.enPlat := rfl
@[simp] theorem answerHost_plat_bootAddr (c : Completion) (s : State) : (answerHost c s).plat.bootAddr = s.plat.bootAddr := rfl
@[simp] theorem answerHost_plat_bootLen (c : Completion) (s : State) : (answerHost c s).plat.bootLen = s.plat.bootLen := rfl
@[simp] theorem answerHost_plat_bootPhase (c : Completion) (s : State) : (answerHost c s).plat.bootPhase = s.plat.bootPhase := rfl
@[simp] theorem answerHost_plat_bootErr (c : Completion) (s : State) : (answerHost c s).plat.bootErr = s.plat.bootErr := rfl
@[simp] theorem answerHost_plat_bootLid (c : Completion) (s : State) : (answerHost c s).plat.bootLid = s.plat.bootLid := rfl
@[simp] theorem answerPeer_peerDone (c : Completion) (s : State) : (answerPeer c s).plat.peerDone = some c := rfl
@[simp] theorem answerPeer_cadence (c : Completion) (s : State) : (answerPeer c s).cadence = s.cadence := rfl
@[simp] theorem answerPeer_cores (c : Completion) (s : State) : (answerPeer c s).cores = s.cores := rfl
@[simp] theorem answerPeer_quads (c : Completion) (s : State) : (answerPeer c s).quads = s.quads := rfl
@[simp] theorem answerPeer_ms (c : Completion) (s : State) : (answerPeer c s).ms = s.ms := rfl
@[simp] theorem answerPeer_lat (c : Completion) (s : State) : (answerPeer c s).lat = s.lat := rfl
@[simp] theorem answerPeer_sch (c : Completion) (s : State) : (answerPeer c s).sch = s.sch := rfl
@[simp] theorem answerPeer_regs (c : Completion) (s : State) : (answerPeer c s).regs = s.regs := rfl
@[simp] theorem answerPeer_agenda (c : Completion) (s : State) : (answerPeer c s).agenda = s.agenda := rfl
@[simp] theorem answerPeer_cur (c : Completion) (s : State) : (answerPeer c s).cur = s.cur := rfl
@[simp] theorem answerPeer_latch (c : Completion) (s : State) : (answerPeer c s).latch = s.latch := rfl
@[simp] theorem answerPeer_ir (c : Completion) (s : State) : (answerPeer c s).ir = s.ir := rfl
@[simp] theorem answerPeer_report (c : Completion) (s : State) : (answerPeer c s).report = s.report := rfl
@[simp] theorem answerPeer_free (c : Completion) (s : State) : (answerPeer c s).free = s.free := rfl
@[simp] theorem answerPeer_plat_links (c : Completion) (s : State) : (answerPeer c s).plat.links = s.plat.links := rfl
@[simp] theorem answerPeer_plat_islands (c : Completion) (s : State) : (answerPeer c s).plat.islands = s.plat.islands := rfl
@[simp] theorem answerPeer_plat_dies (c : Completion) (s : State) : (answerPeer c s).plat.dies = s.plat.dies := rfl
@[simp] theorem answerPeer_plat_cxl (c : Completion) (s : State) : (answerPeer c s).plat.cxl = s.plat.cxl := rfl
@[simp] theorem answerPeer_plat_ualLost (c : Completion) (s : State) : (answerPeer c s).plat.ualLost = s.plat.ualLost := rfl
@[simp] theorem answerPeer_plat_fenced (c : Completion) (s : State) : (answerPeer c s).plat.fenced = s.plat.fenced := rfl
@[simp] theorem answerPeer_plat_fenceDue (c : Completion) (s : State) : (answerPeer c s).plat.fenceDue = s.plat.fenceDue := rfl
@[simp] theorem answerPeer_plat_iftBusy (c : Completion) (s : State) : (answerPeer c s).plat.iftBusy = s.plat.iftBusy := rfl
@[simp] theorem answerPeer_plat_iftPass (c : Completion) (s : State) : (answerPeer c s).plat.iftPass = s.plat.iftPass := rfl
@[simp] theorem answerPeer_plat_iftCore (c : Completion) (s : State) : (answerPeer c s).plat.iftCore = s.plat.iftCore := rfl
@[simp] theorem answerPeer_plat_iftTick (c : Completion) (s : State) : (answerPeer c s).plat.iftTick = s.plat.iftTick := rfl
@[simp] theorem answerPeer_plat_evHead (c : Completion) (s : State) : (answerPeer c s).plat.evHead = s.plat.evHead := rfl
@[simp] theorem answerPeer_plat_evLost (c : Completion) (s : State) : (answerPeer c s).plat.evLost = s.plat.evLost := rfl
@[simp] theorem answerPeer_plat_interrupts (c : Completion) (s : State) : (answerPeer c s).plat.interrupts = s.plat.interrupts := rfl
@[simp] theorem answerPeer_plat_results (c : Completion) (s : State) : (answerPeer c s).plat.results = s.plat.results := rfl
@[simp] theorem answerPeer_plat_hqlid (c : Completion) (s : State) : (answerPeer c s).plat.hqlid = s.plat.hqlid := rfl
@[simp] theorem answerPeer_plat_ksslot (c : Completion) (s : State) : (answerPeer c s).plat.ksslot = s.plat.ksslot := rfl
@[simp] theorem answerPeer_plat_ksdata (c : Completion) (s : State) : (answerPeer c s).plat.ksdata = s.plat.ksdata := rfl
@[simp] theorem answerPeer_plat_hostDone (c : Completion) (s : State) : (answerPeer c s).plat.hostDone = s.plat.hostDone := rfl
@[simp] theorem answerPeer_plat_enCtx (c : Completion) (s : State) : (answerPeer c s).plat.enCtx = s.plat.enCtx := rfl
@[simp] theorem answerPeer_plat_enPlat (c : Completion) (s : State) : (answerPeer c s).plat.enPlat = s.plat.enPlat := rfl
@[simp] theorem answerPeer_plat_bootAddr (c : Completion) (s : State) : (answerPeer c s).plat.bootAddr = s.plat.bootAddr := rfl
@[simp] theorem answerPeer_plat_bootLen (c : Completion) (s : State) : (answerPeer c s).plat.bootLen = s.plat.bootLen := rfl
@[simp] theorem answerPeer_plat_bootPhase (c : Completion) (s : State) : (answerPeer c s).plat.bootPhase = s.plat.bootPhase := rfl
@[simp] theorem answerPeer_plat_bootErr (c : Completion) (s : State) : (answerPeer c s).plat.bootErr = s.plat.bootErr := rfl
@[simp] theorem answerPeer_plat_bootLid (c : Completion) (s : State) : (answerPeer c s).plat.bootLid = s.plat.bootLid := rfl

/-! Requests kept at a home, and the key store. -/

@[simp] theorem MemSys.dropLine_reqs (m : MemSys) (d : Fin 8) (l : Nat) : (m.dropLine d l).reqs = m.reqs := rfl
@[simp] theorem MemSys.homeWrite_reqs (m : MemSys) (l k : Nat) (mask : Word) (d : Line) : (m.homeWrite l k mask d).reqs = m.reqs := by
  unfold MemSys.homeWrite; split <;> rfl
@[simp] theorem MemSys.putKey_main (m : MemSys) (n : Nat) (k : KeySlot) : (m.putKey n k).main = m.main := rfl
@[simp] theorem MemSys.putKey_host (m : MemSys) (n : Nat) (k : KeySlot) : (m.putKey n k).host = m.host := rfl
@[simp] theorem MemSys.putKey_peer (m : MemSys) (n : Nat) (k : KeySlot) : (m.putKey n k).peer = m.peer := rfl
@[simp] theorem MemSys.putKey_lineKeys (m : MemSys) (n : Nat) (k : KeySlot) : (m.putKey n k).lineKeys = m.lineKeys := rfl
@[simp] theorem MemSys.putKey_dieLines (m : MemSys) (n : Nat) (k : KeySlot) : (m.putKey n k).dieLines = m.dieLines := rfl
@[simp] theorem MemSys.putKey_dir (m : MemSys) (n : Nat) (k : KeySlot) : (m.putKey n k).dir = m.dir := rfl
@[simp] theorem MemSys.putKey_trans (m : MemSys) (n : Nat) (k : KeySlot) : (m.putKey n k).trans = m.trans := rfl
@[simp] theorem MemSys.putKey_reqs (m : MemSys) (n : Nat) (k : KeySlot) : (m.putKey n k).reqs = m.reqs := rfl
@[simp] theorem MemSys.putKey_poison (m : MemSys) (n : Nat) (k : KeySlot) : (m.putKey n k).poison = m.poison := rfl
@[simp] theorem MemSys.putKey_waysOff (m : MemSys) (n : Nat) (k : KeySlot) : (m.putKey n k).waysOff = m.waysOff := rfl
@[simp] theorem MemSys.putKey_shots (m : MemSys) (n : Nat) (k : KeySlot) : (m.putKey n k).shots = m.shots := rfl
@[simp] theorem MemSys.putKey_outcomes (m : MemSys) (n : Nat) (k : KeySlot) : (m.putKey n k).outcomes = m.outcomes := rfl

/-! A channel of a core. -/

@[simp] theorem Core.onChan_same (k : Core) (c : Fin 8) (f : Channel → Channel) : vget (k.onChan c f).en.chans c = f (vget k.en.chans c) := vget_vset_same ..
theorem Core.onChan_ne (k : Core) {c d : Fin 8} (f : Channel → Channel) (h : d ≠ c) : vget (k.onChan c f).en.chans d = vget k.en.chans d :=
  vget_vset_ne _ _ h
@[simp] theorem Core.onChan_task (k : Core) (c : Fin 8) (f : Channel → Channel) : (k.onChan c f).task = k.task := rfl
@[simp] theorem Core.onChan_cl (k : Core) (c : Fin 8) (f : Channel → Channel) : (k.onChan c f).cl = k.cl := rfl
@[simp] theorem Core.onChan_st (k : Core) (c : Fin 8) (f : Channel → Channel) : (k.onChan c f).st = k.st := rfl
@[simp] theorem Core.onChan_rg (k : Core) (c : Fin 8) (f : Channel → Channel) : (k.onChan c f).rg = k.rg := rfl
@[simp] theorem Core.onChan_exit (k : Core) (c : Fin 8) (f : Channel → Channel) : (k.onChan c f).exit = k.exit := rfl
@[simp] theorem Core.onChan_term (k : Core) (c : Fin 8) (f : Channel → Channel) : (k.onChan c f).term = k.term := rfl
@[simp] theorem Core.onChan_save (k : Core) (c : Fin 8) (f : Channel → Channel) : (k.onChan c f).save = k.save := rfl
@[simp] theorem Core.onChan_pend (k : Core) (c : Fin 8) (f : Channel → Channel) : (k.onChan c f).pend = k.pend := rfl
@[simp] theorem Core.onChan_restoring (k : Core) (c : Fin 8) (f : Channel → Channel) : (k.onChan c f).restoring = k.restoring := rfl
@[simp] theorem Core.onChan_en_forms (k : Core) (c : Fin 8) (f : Channel → Channel) : (k.onChan c f).en.forms = k.en.forms := rfl
@[simp] theorem Core.onChan_en_mq (k : Core) (c : Fin 8) (f : Channel → Channel) : (k.onChan c f).en.mq = k.en.mq := rfl
@[simp] theorem Core.onChan_en_mrun (k : Core) (c : Fin 8) (f : Channel → Channel) : (k.onChan c f).en.mrun = k.en.mrun := rfl
@[simp] theorem Core.onChan_en_mstop (k : Core) (c : Fin 8) (f : Channel → Channel) : (k.onChan c f).en.mstop = k.en.mstop := rfl
@[simp] theorem Core.onChan_en_emul (k : Core) (c : Fin 8) (f : Channel → Channel) : (k.onChan c f).en.emul = k.en.emul := rfl
@[simp] theorem Core.onChan_en_emulDone (k : Core) (c : Fin 8) (f : Channel → Channel) : (k.onChan c f).en.emulDone = k.en.emulDone := rfl
@[simp] theorem Core.onChan_en_lockPut (k : Core) (c : Fin 8) (f : Channel → Channel) : (k.onChan c f).en.lockPut = k.en.lockPut := rfl
@[simp] theorem Core.onChan_en_assays (k : Core) (c : Fin 8) (f : Channel → Channel) : (k.onChan c f).en.assays = k.en.assays := rfl
@[simp] theorem Core.onChan_en_recs (k : Core) (c : Fin 8) (f : Channel → Channel) : (k.onChan c f).en.recs = k.en.recs := rfl
@[simp] theorem Core.onChan_en_levels (k : Core) (c : Fin 8) (f : Channel → Channel) : (k.onChan c f).en.levels = k.en.levels := rfl
@[simp] theorem Core.onChan_en_depth (k : Core) (c : Fin 8) (f : Channel → Channel) : (k.onChan c f).en.depth = k.en.depth := rfl
@[simp] theorem Core.onChan_en_seqstat (k : Core) (c : Fin 8) (f : Channel → Channel) : (k.onChan c f).en.seqstat = k.en.seqstat := rfl
@[simp] theorem Core.onChan_en_seqOrder (k : Core) (c : Fin 8) (f : Channel → Channel) : (k.onChan c f).en.seqOrder = k.en.seqOrder := rfl
@[simp] theorem Core.onChan_en_mc (k : Core) (c : Fin 8) (f : Channel → Channel) : (k.onChan c f).en.mc = k.en.mc := rfl
@[simp] theorem Core.onChan_en_l1 (k : Core) (c : Fin 8) (f : Channel → Channel) : (k.onChan c f).en.l1 = k.en.l1 := rfl
@[simp] theorem Core.onChan_en_check (k : Core) (c : Fin 8) (f : Channel → Channel) : (k.onChan c f).en.check = k.en.check := rfl
@[simp] theorem Core.onChan_en_issued (k : Core) (c : Fin 8) (f : Channel → Channel) : (k.onChan c f).en.issued = k.en.issued := rfl

/-! Accesses from outside. -/

theorem State.peerStops_of_running {s : State} (w : s.ioStops true = false) (e : s.ioStops false = false) (chip : Nat) : s.peerStops chip = false := by
  simp [State.peerStops, w, e]

theorem State.peerStops_of_stopped {s : State} (w : s.ioStops true = true) (e : s.ioStops false = true) (chip : Nat) : s.peerStops chip = true := by
  simp only [State.peerStops, w, e, Bool.true_and, Bool.or_eq_true, decide_eq_true_eq]
  omega

theorem State.pageEvent_stopped {s : State} (t : State) (h : s.ioStops true = true) : s.pageEvent t = s.idleOut := if_pos h
theorem State.pageEvent_running {s : State} (t : State) (h : s.ioStops true = false) : s.pageEvent t = s.event (some t) := by simp [State.pageEvent, h]

@[simp] theorem State.outsideEvent_performed (s t : State) (bs : List Byte) (kind src : Nat) (answer : Completion → State → State) :
    s.outsideEvent (.performed t bs) kind src answer = s.event (some (answer ⟨true, bs⟩ t)) := rfl
@[simp] theorem State.outsideEvent_error (s : State) (kind src : Nat) (answer : Completion → State → State) :
    s.outsideEvent .error kind src answer = s.event (some (answer ⟨false, []⟩ s)) := rfl
@[simp] theorem State.outsideEvent_held (s : State) (kind src : Nat) (answer : Completion → State → State) :
    s.outsideEvent .held kind src answer = s.idleOut := rfl

end Sys2Proof.Machine
end

