-- ==== Sys2Proof/Tests/Slice0.lean ====
section
/-! SUPPORT. The model's own tests: decoding of words written out from the spec's encodings, ill-formed terms, single steps with
results from the spec's examples and rules, and a witness for the hypotheses of every statement. -/

namespace Sys2Proof.Tests

open Sys2Proof Sys2Proof.Machine

set_option Elab.async false

/-! Helpers. -/

/-- A register file with some entries. -/
def file (l : List (Nat × Word)) : Vector Word 32 := l.foldl (fun v e => vset v (Fin.ofNat 32 e.1) e.2) (Vector.replicate 32 0)

/-- A core with a task. -/
def tasked : Core := { Core.reset with task := some placedTask }

/-- The device with core 0 as given, cluster x executing. -/
def onCore0 (x : Clu) (c : Core) : State := { State.reset.setCore 0 c with cur := { core := 0, clu := x } }

/-- The device with a task on core 0 whose cluster x executes with some general registers. -/
def withRegs (x : Clu) (l : List (Nat × Word)) : State := onCore0 x (tasked.onClu x fun c => { c with g := file l })

/-- What an outcome leaves in a state, where it goes on. -/
def after {α : Type} (o : Out) (f : State → α) : Option α :=
  match o with
  | .next t => some (f t)
  | _ => none

/-- Register r after an instruction. -/
def gAfter (i : Instr) (s : State) (r : Reg) : Option Word := after (exec i s) fun t => t.cl.gReg r

/-- The cause a trap reported to the executing cluster. -/
def causeAfter (i : Instr) (s : State) : Option Nat := after (exec i s) fun t => t.cl.tcause.toNat % 256

/-! Ill-formed terms: one for each check of WellFormed, which refuses it. -/

/-- No guard, no sets, no stamp. -/
def plain : Long := { guard := 0, wait := 0, post := 0, stamp := 0 }

/-- A long form with a stamp (R51 allows one on the matrix forms only). -/
def stamped : Long := { plain with stamp := 1 }

theorem test_scalar_terms_refused :
    wellFormed (.b 0 1 0 5) = false ∧ wellFormed (.call 0 1 0 5) = false ∧ wellFormed (.loop 0 1 0 5) = false ∧
    wellFormed (.tshape 0 0 1 1) = false ∧ wellFormed (.tshape 0 7 17 1) = false ∧ wellFormed (.tshape 0 1 64 33) = false ∧
    wellFormed (.tshape 0 5 0 1) = false ∧ wellFormed (.tshape 0 9 1 1) = true ∧ wellFormed (.tshape 0 7 16 32) = true :=
  ⟨rfl, rfl, rfl, rfl, rfl, rfl, rfl, rfl, rfl⟩

theorem test_memory_and_sync_terms_refused :
    wellFormed (.ld 1 2 7 0) = false ∧ wellFormed (.lda 1 2 0 3 1) = false ∧ wellFormed (.lda 1 2 0 3 0) = true ∧
    wellFormed (.tkwait 0) = false ∧ wellFormed (.tkpost 0) = false ∧ wellFormed (.qpush 2 1) = false ∧
    wellFormed (.qpop 1 5) = false ∧ wellFormed (.pwracq 0) = false :=
  ⟨rfl, rfl, rfl, rfl, rfl, rfl, rfl, rfl⟩

theorem test_channel_terms_refused :
    wellFormed (.seqcfg plain 6 1 2 3) = false ∧ wellFormed (.seqcfg stamped 0 1 2 3) = false ∧
    wellFormed (.tdesc stamped 0 1 2) = false ∧ wellFormed (.seqrunCopy stamped 0 0 1 2) = false ∧
    wellFormed (.seqrunGather stamped 0 0 1 2) = false ∧ wellFormed (.seqrunScatter stamped 0 0 1 2) = false ∧
    wellFormed (.seqrunCpyscl stamped 0 0 1 2) = false ∧ wellFormed (.copy stamped 0 1 2 3) = false ∧
    wellFormed (.copyj stamped 0 1 2 3) = false ∧ wellFormed (.gather plain 0 1 2 3 16 0) = false ∧
    wellFormed (.gather stamped 0 1 2 3 15 0) = false ∧ wellFormed (.scatter plain 0 1 2 3 16 0) = false ∧
    wellFormed (.scatter stamped 0 1 2 3 15 0) = false ∧ wellFormed (.copymc plain 0 1 2 3 0) = false ∧
    wellFormed (.copymc stamped 0 1 2 3 1) = false ∧ wellFormed (.cpyscl stamped 0 1 2 3) = false ∧
    wellFormed (.qsend stamped 0 1 0) = false ∧ wellFormed (.qrecv stamped 0 1) = false ∧
    wellFormed (.chwait stamped 0) = false ∧ wellFormed (.chwaitStage plain 0 0) = false ∧
    wellFormed (.chwaitStage stamped 0 1) = false :=
  ⟨rfl, rfl, rfl, rfl, rfl, rfl, rfl, rfl, rfl, rfl, rfl, rfl, rfl, rfl, rfl, rfl, rfl, rfl, rfl, rfl, rfl⟩

theorem test_vector_terms_refused :
    (∀ i ∈ ([.vaddI 1 2 3 0 3, .vsubI 1 2 3 0 3, .vmulI 1 2 3 0 3, .vaddsI 1 2 3 0 3, .vsubsI 1 2 3 0 3, .vminI 1 2 3 0 3,
      .vmaxI 1 2 3 0 3, .vshlI 1 2 3 0 3, .vshrI 1 2 3 0 3, .vcmpeqI 1 2 3 0 3, .vcmpltI 1 2 3 0 3, .vcmpleI 1 2 3 0 3] : List Instr),
      wellFormed i = false) ∧
    (∀ i ∈ ([.vaddN 1 2 3 0 3, .vsubN 1 2 3 0 3, .vmulN 1 2 3 0 3, .vaddsN 1 2 3 0 3, .vsubsN 1 2 3 0 3, .vminN 1 2 3 0 3,
      .vmaxN 1 2 3 0 3, .vshlN 1 2 3 0 3, .vshrN 1 2 3 0 3, .vcmpeqN 1 2 3 0 3, .vcmpltN 1 2 3 0 3, .vcmpleN 1 2 3 0 3] : List Instr),
      wellFormed i = false) ∧
    (∀ i ∈ ([.vaddF 1 2 3 0 3, .vsubF 1 2 3 0 3, .vmulF 1 2 3 0 3, .vfma 1 2 3 0 3, .vminF 1 2 3 0 3, .vmaxF 1 2 3 0 3,
      .vcmpeqF 1 2 3 0 3, .vcmpltF 1 2 3 0 3, .vcmpleF 1 2 3 0 3, .vabs 1 2 0 3, .vneg 1 2 0 3] : List Instr), wellFormed i = false) ∧
    (∀ i ∈ ([.vtopk 5 6 8 3, .vtopk 4 7 8 3, .vtopk 4 6 9 3, .vcvt 1 2 0 7 0 0 0, .vcvt 1 2 13 7 0 0 0, .vcvt 1 2 7 0 0 0 0,
      .vcvt 1 2 7 13 0 0 0, .vcvt 1 2 7 5 3 0 0, .vcvt 1 2 4 7 2 0 0, .vld stamped 1 2 0 0, .vst stamped 1 2 0 0,
      .vqpop stamped 1 0, .vqpush stamped 1 0] : List Instr), wellFormed i = false) := by decide +kernel

theorem test_matrix_terms_refused :
    wellFormed (.fmtw stamped 1) = false ∧ wellFormed (.tcvt plain 0 1 3) = false ∧ wellFormed (.tmma plain 48 0 1) = false ∧
    wellFormed (.tmmas plain 48 0 1 2) = false ∧ wellFormed (.tdrain plain 1 48) = false ∧ wellFormed (.tdrainadd plain 1 48 0) = false ∧
    wellFormed (.hmrd plain 3 0) = false ∧ wellFormed (.hmrd plain 0 0) = false ∧ wellFormed (.hmrd plain 2 48) = false ∧
    wellFormed (.hmclr plain 48) = false ∧ wellFormed (.tmma stamped 47 0 1) = true ∧ wellFormed (.walkerPlace 0) = false :=
  ⟨rfl, rfl, rfl, rfl, rfl, rfl, rfl, rfl, rfl, rfl, rfl, rfl⟩

/-! Words that are no instruction (R83), and the fates of example 2.4. -/

theorem test_words_of_no_form :
    decode 0x00000100 0 = .error .unassignedMajor ∧ decode 0xFD000000 0 = .error .unassignedMajor ∧
    decode 0x1D000000 0 = .error .unassignedMajor ∧ decode 0x053D1A10 0 = .error .noSuchForm ∧
    decode 0x41300000 0 = .error .reservedValue ∧ decode 0x81000000 0 = .error .reservedValue :=
  ⟨rfl, rfl, rfl, rfl, rfl, rfl⟩

theorem test_fates_of_example_2_4 :
    (decodeChecked .c (0x59000000, 0)).toOption = none ∧ (decodeChecked .m (0x59000000, 0)).toOption = some (.tshape 0 0 0 0) ∧
    longOf 0 = plain := ⟨rfl, rfl, rfl⟩

/-- The worked words of examples 5.2, 7.1 and 9.4. -/
theorem test_words_of_the_examples :
    decode 0x39280002 0 = .ok (.li 5 2) ∧ decode 0x39300003 0 = .ok (.li 6 3) ∧
    decode 0xCD184483 0 = .ok (.vfma 3 1 2 2 0) ∧ decode 0xD52845C8 0 = .ok (.vcvt 5 1 1 7 0 1 0) ∧
    decode 0x81000030 0 = .ok (.tkwait 6) ∧ decode 0x89018100 0 = .ok (.clbase 6) ∧ decode 0x91040000 0 = .ok .pwrrel ∧
    decode 0x85004013 0 = .ok (.sfill 3 1) ∧ decode 0x85280023 0 = .ok (.swfill 3 5) ∧ decode 0x85004033 0 = .ok (.srel 3 1) :=
  ⟨rfl, rfl, rfl, rfl, rfl, rfl, rfl, rfl, rfl, rfl⟩

/-! Results the spec's examples work out. -/

/-- Example 14.1: the fold of one word. -/
theorem test_fold_of_one_word :
    foldWords [0x0000_0000] = 0xFFFF_FFF6_0000_0009#64 ∧ foldWords [0x0000_0080] = 0xFFFF_FFFB_8000_0009#64 := by decide +kernel

/-- Example 4.1: the group sum truncates at the window and rounds once. -/
theorem test_group_sum_of_example_4_1 :
    (accF32 0x4680_0000 (groupSum e4m3 e4m3
      ([(0x58, 0x58), (0x58, 0xD8), (0x08, 0x0C), (0x19, 0x19)] ++ List.replicate 12 (0, 0)) 18) 0).1 = 0x4680_0002 := by decide +kernel

/-- Example 4.2: a row in LOG6, without and with a NaR. -/
theorem test_log6_of_example_4_2 :
    (accF32 0 (log6Sum [(0x13, 0x36), (0x10, 0x10), (0, 0)]) 0).1 = 0xC070_0000 ∧
    (accF32 0 (log6Sum [(0x13, 0x36), (0x10, 0x10), (0, 0x4A)]) 0).1 = 0x7FC0_0000 := by decide +kernel

/-- Example 4.3: rounding to BF16 under each mode, and 500.0 into the 8-bit formats. -/
theorem test_rounding_of_example_4_3 :
    (convert (.float f32) (.float bf16) 0x3F80_8000 0 false 0).1 = 0x3F80 ∧
    (convert (.float f32) (.float bf16) 0x3F80_8000 1 false 0).1 = 0x3F80 ∧
    (convert (.float f32) (.float bf16) 0x3F80_8000 2 false 0x9C3E_0000).1 = 0x3F81 ∧
    (convert (.float f32) (.float bf16) 0x3F80_8000 2 false 0x1234_5678).1 = 0x3F80 ∧
    convert (.float f32) (.float e4m3) 0x43FA_0000 0 true 0 = (0x7E, OVF) ∧
    convert (.float f32) (.float e4m3) 0x43FA_0000 0 false 0 = (0x7F, OVF ||| INV) ∧
    (convert (.float f32) (.float e5m2) 0x43FA_0000 0 true 0).1 = 0x60 := by decide +kernel

/-- Example 4.4: the order of the five elements. -/
theorem test_ranking_of_example_4_4 :
    okeyFloat 32 0x3F80_0000 = 0xBF80_0000 ∧ okeyFloat 32 0x7FC0_0000 = 0xFFC0_0000 ∧ okeyFloat 32 0x8000_0000 = 0x7FFF_FFFF ∧
    okeyFloat 32 0 = 0x8000_0000 ∧ ranksBefore (okeyFloat 32 0x3F80_0000) 0 (okeyFloat 32 0x3F80_0000) 2 = true := by decide +kernel

/-- The lanes of a vector register, lane 0 first. -/
def line32 (l : List Nat) : Line := BitVec.ofNat 512 (leNat (l.flatMap fun x => leBytes x 4))

/-- A vector cluster with some vector registers and masks. -/
def vecState (vs : List (Nat × Line)) (ms : List (Nat × Word)) : State :=
  let v := vs.foldl (fun v e => vset v (Fin.ofNat 32 e.1) e.2) Storage.reset.v
  let m := ms.foldl (fun v e => vset v (Fin.ofNat 8 e.1) e.2) Storage.reset.m
  onCore0 .v { tasked with st := { Storage.reset with v := v, m := m } }

/-- A vector register after an instruction, lane by lane, and AFLAGS. -/
def lanesAfter (i : Instr) (s : State) (r : VReg) (n : Nat) : Option (List Nat × Word) :=
  after (exec i s) fun t => ((List.range n).map fun j => Line.part (vget t.me.st.v r) 4 j, t.me.rg.aflags)

/-- Example 7.2: the sum rounds once, a NaN passes quietly, the maximum keeps its bits. -/
theorem test_reductions_of_example_7_2 :
    let s := vecState [(2, line32 [0x4B80_0000, 0x3F80_0000, 0xCB80_0000, 0x7FC0_0001])] [(1, 0xFFF)]
    lanesAfter (.vrsum 5 2 1) s 5 2 = some ([0x3F80_0000, 0], 0) ∧ lanesAfter (.vrsum 5 2 0) s 5 2 = some ([0x7FC0_0000, 0], 0) ∧
    lanesAfter (.vrmax 5 2 0) s 5 2 = some ([0x7FC0_0001, 0], 0) := by decide +kernel

/-- Example 7.3: the merged list of sixteen pairs. -/
theorem test_topk_of_example_7_3 :
    let fill := List.replicate 13 0xFFFF_FFFF
    let s := vecState [(6, line32 ([0x4040_0000, 0x3F80_0000, 0x8000_0000] ++ fill)), (7, line32 ([9, 4, 2] ++ fill)),
      (8, line32 [0x3F80_0000, 0x7FC0_0000, 0x4040_0000, 0, 0x7F80_0000]), (9, line32 [1, 7, 12, 5, 3])] [(3, 0xFFFF)]
    (lanesAfter (.vtopk 4 6 8 3) s 4 8).map (·.1) =
      some [0x7FC0_0000, 0x4040_0000, 0x4040_0000, 0x3F80_0000, 0x3F80_0000, 0, 0x8000_0000, 0xFFFF_FFFF] ∧
    (lanesAfter (.vtopk 4 6 8 3) s 5 8).map (·.1) = some [7, 9, 12, 1, 4, 5, 2, 0xFFFF_FFFF] := by decide +kernel

/-- Example 9.1: the strand of its entry; the steps 1, 3 and 5 on their counts. -/
theorem test_strand_of_example_9_1 :
    let x (c f t r : Nat) : Strand :=
      { claimed := BitVec.ofNat 32 c, filled := BitVec.ofNat 32 f, taken := BitVec.ofNat 32 t, freed := BitVec.ofNat 32 r }
    let s (c f t r : Nat) : State := onCore0 .a { tasked with
      task := some { placedTask with strands := vset (Vector.replicate 16 0) 3 0x0000_4204_0000_2000 }
      st := { Storage.reset with strands := vset Storage.reset.strands 3 (x c f t r) } }
    gAfter (.sclaim 3 5) (s 0 0 0 0) 5 = some 0x9000_0000_0000_2000 ∧ gAfter (.sclaim 3 5) (s 1 1 0 0) 5 = some 0x9000_0000_0000_2100 ∧
    gAfter (.swfill 3 5) (s 2 1 0 0) 5 = some 0x9000_0000_0000_2000 ∧
    after (exec (.sclaim 3 5) (s 2 1 1 0)) State.report = some .stalled ∧
    gAfter (.sclaim 3 5) (s 2 1 1 1) 5 = some 0x9000_0000_0000_2000 := by decide +kernel

/-- Example 16.1: LKSTAT after the write and the stop; LKPEN at w = 496, r = 44. -/
theorem test_link_of_example_16_1 :
    let s : State := { State.reset with plat := { Platform.reset with links := vset Platform.reset.links 1 { Link.reset with stop := true } } }
    let t := s.setDev 0xD08 0x831C_0000
    after (exec (.linkStopEnd 1) t) (fun u => (vget u.plat.links 1).status) = some 0x0300_2020 ∧
    ({ Link.reset with rate := 3, dirs := vset Link.reset.dirs 0 { LinkDir.reset with retired := 0x20 } } : Link).pen = 0x0464_024D := by
  decide +kernel

/-- Example 2.1: a constant built in four instructions. -/
theorem test_constant_of_example_2_1 :
    gAfter (.li 7 0x12) (withRegs .c []) 7 = some 0x12 ∧ gAfter (.lix 7 0x3456) (withRegs .c [(7, 0x12)]) 7 = some 0x12_3456 ∧
    gAfter (.lix 7 0xBCDE) (withRegs .c [(7, 0x12_3456_789A)]) 7 = some 0x0012_3456_789A_BCDE := by decide +kernel

/-- Example 1.2: the word of row 5, column 9 of c37 is readable from a footprint of 38 units on, and not from 37. -/
theorem test_accumulator_word_of_example_1_2 :
    let k (n : Nat) : Core := { tasked with task := some { placedTask with footC := n } }
    let s (n : Nat) : State := onCore0 .c ((k n).onClu .c fun c => { c with g := file [(1, 0xA000_0000_0002_52A4)] })
    causeAfter (.ld 2 1 2 0) (s (37 * 4096)) = some 8 ∧ after (exec (.ld 2 1 2 0) (s (38 * 4096))) State.report = some .idle := by decide +kernel

/-- Example 14.2: the shadow's three events and ECSHD after each. -/
theorem test_history_of_example_14_2 :
    let a := (History.reset.event 1000000 windowReset)
    let b := (a.1.event 1400000 windowReset)
    let c := (b.1.event 1900000 windowReset)
    let d := (b.1.event 2100000 windowReset)
    a.1.word = 0x0100_0000_0000_0001 ∧ b.1.word = 0x0200_0000_0000_0002 ∧ c.1.word = 0x8300_0000_0000_0003 ∧ c.2 = true ∧
    d.1.word = 0x0200_0000_0000_0003 ∧ d.2 = false := by decide +kernel

/-! Witnesses: for every statement a state and operands that meet the hypotheses of each of its clauses. -/

theorem ok_of {ε α : Type} {e : Except ε α} (h : e.toOption.isSome = true) : ∃ a, e = .ok a := by
  cases e with
  | ok a => exact ⟨a, rfl⟩
  | error x => cases h

theorem error_of {ε α : Type} {e : Except ε α} (h : e.toOption.isSome = false) : ∃ x, e = .error x := by
  cases e with
  | ok a => cases h
  | error x => exact ⟨x, rfl⟩

/-- Core 0 at a chain of words, one line long, in page 0 of tensor 1; the cluster is the one that may hold the first word. -/
def program (ws : List Nat) : State :=
  let s := State.reset.withFetchWord 32 (ws.headD 0)
  { s with ms := { s.ms with main := s.ms.main.writeList (8 * 65536 + 4) (ws.flatMap fun w => leBytes w 4) } }

/-- The first bundle of `program`. -/
def pc0 : Word := 0x100_0000_0004

/-- A state with the bundle in hand at an address. -/
def inBundle (s : State) (bpc npc : Word) : State := { s with ir := { bpc := bpc, npc := npc, w0 := 0, w1 := 0, upsetP := [], upsetS := [] } }

/-- The signed range at its two ends, for sums, differences and products (O1). -/
theorem witness_IntegerArithmetic :
    let s := withRegs .c [(1, 0x7FFF_FFFF_FFFF_FFFF), (2, 1), (3, 0x8000_0000_0000_0000), (4, 0x1_0000_0000), (5, 0x8000_0000)]
    let fits (n : Int) : Prop := -2 ^ 63 ≤ n ∧ n ≤ 2 ^ 63 - 1
    (fits ((s.g 1).toInt + (s.g 0).toInt) ∧ ¬ fits ((s.g 1).toInt + (s.g 2).toInt)) ∧
    (fits ((s.g 3).toInt - (s.g 0).toInt) ∧ ¬ fits ((s.g 3).toInt - (s.g 2).toInt)) ∧
    (fits ((s.g 3).toInt * (s.g 2).toInt) ∧ ¬ fits ((s.g 4).toInt * (s.g 5).toInt)) ∧
    gAfter (.addt 7 1 0) s 7 = some 0x7FFF_FFFF_FFFF_FFFF ∧ causeAfter (.addt 7 1 2) s = some 6 ∧
    gAfter (.subt 7 3 0) s 7 = some 0x8000_0000_0000_0000 ∧ causeAfter (.subt 7 3 2) s = some 6 ∧
    gAfter (.mult 7 3 2) s 7 = some 0x8000_0000_0000_0000 ∧ causeAfter (.mult 7 4 5) s = some 6 := by decide +kernel

/-- A zero divisor, the one quotient that does not fit, and an ordinary division (O2). -/
theorem witness_Division :
    let s := withRegs .c [(1, 0x8000_0000_0000_0000), (2, 0xFFFF_FFFF_FFFF_FFFF), (3, 0xFFFF_FFFF_FFFF_FFF9), (4, 2)]
    s.g 0 = 0 ∧ ((s.g 1).toInt = -2 ^ 63 ∧ (s.g 2).toInt = -1) ∧ (s.g 4 ≠ 0 ∧ ¬ ((s.g 3).toInt = -2 ^ 63 ∧ (s.g 4).toInt = -1)) ∧
    gAfter (.div 7 3 0) s 7 = some 0xFFFF_FFFF_FFFF_FFFF ∧ gAfter (.rem 7 3 0) s 7 = some 0xFFFF_FFFF_FFFF_FFF9 ∧
    gAfter (.div 7 1 2) s 7 = some 0x8000_0000_0000_0000 ∧ gAfter (.div 7 3 4) s 7 = some 0xFFFF_FFFF_FFFF_FFFD ∧
    gAfter (.rem 7 3 4) s 7 = some 0xFFFF_FFFF_FFFF_FFFF := by decide +kernel

/-- Shift counts at 0, at 63 and above 63 (bits 63:6 are disregarded), and the counts of zero (O3). -/
theorem test_shifts_and_counts :
    let s := withRegs .c [(1, 0x8000_0000_0000_0001), (2, 63), (3, 64)]
    gAfter (.sra 7 1 2) s 7 = some 0xFFFF_FFFF_FFFF_FFFF ∧ gAfter (.shl 7 1 3) s 7 = some 0x8000_0000_0000_0001 ∧
    gAfter (.rol 7 1 2) s 7 = some 0xC000_0000_0000_0000 ∧ gAfter (.clz 7 0) s 7 = some 64 ∧ gAfter (.ctz 7 0) s 7 = some 64 ∧
    gAfter (.popc 7 1) s 7 = some 2 ∧ gAfter (.shl 0 1 2) s 0 = some 0 := by decide +kernel

/-- The unsigned immediate compare takes the sign-extended value as unsigned, and p0 keeps nothing (O4). -/
theorem test_compares :
    let s := withRegs .c [(1, 5)]
    after (exec (.cmpltni 1 1 0x7FF) s) (fun t => t.cl.pReg 1) = some true ∧
    after (exec (.cmplti 1 1 0x7FF) s) (fun t => t.cl.pReg 1) = some false ∧
    after (exec (.cmpne 0 1 1) s) (fun t => t.cl.pReg 0) = some true := by decide +kernel

/-- A branch taken to the first and the last line of the offset and past each, not taken; a call with a bundle after it and without;
a register jump that is legal, and the three that are not (O6). -/
theorem witness_Branches :
    let s := inBundle (program [0x05000000]) pc0 pc0
    let high := inBundle s 0x1FF_FFFF_FFC4 (pc0 + 4)
    let line (t : State) (d : BitVec 16) : Int := (t.ir.bpc.toNat % 2 ^ 40 / 64 : Nat) + d.toInt
    let inside (t : State) (d : BitVec 16) : Prop := 0 ≤ line t d ∧ line t d < 2 ^ 34
    let legal (x : Word) : Prop := x.toNat / 2 ^ 60 ≤ 1 ∧ x.toNat % 4 = 0 ∧ x.toNat / 4 % 16 ≠ 0
    (s.p 0 = ((1 : BitVec 1) == 1) ∧ inside s 0 ∧ ¬ inside s 0xFFFF) ∧ ¬ (s.p 0 = ((0 : BitVec 1) == 1)) ∧
    (high.p 0 = ((1 : BitVec 1) == 1) ∧ inside high 0 ∧ ¬ inside high 1) ∧ (∃ r, s.returnAddress = .ok r) ∧ (∃ e, high.returnAddress = .error e) ∧
    (legal 0x1FFF_FFFF_FFFF_FFFC ∧ ¬ legal 0x2000_0000_0000_0004 ∧ ¬ legal 0x100_0000_0006 ∧ ¬ legal 0x100_0000_0040) ∧
    after (exec (.b 0 1 2 0) s) (fun t => t.cl.pc) = some 0x100_0000_0008 ∧
    after (exec (.call 0 1 2 1) s) (fun t => (t.cl.pc, t.cl.gReg 24)) = some (0x100_0000_0048, pc0) ∧ causeAfter (.jmpr 0) s = some 5 :=
  ⟨by decide +kernel, by decide +kernel, by decide +kernel, ok_of (by decide +kernel), error_of (by decide +kernel), by decide +kernel,
   by decide +kernel, by decide +kernel, by decide +kernel⟩

/-- A cluster with loop registers. -/
def looped (c : Cluster) (ls : List (Nat × Word × Word × Word)) : Cluster :=
  ls.foldl (fun c e => { c with lps := vset c.lps (Fin.ofNat 4 e.1) e.2.1, lpe := vset c.lpe (Fin.ofNat 4 e.1) e.2.2.1,
                                lpc := vset c.lpc (Fin.ofNat 4 e.1) e.2.2.2 }) c

/-- A level in use at or above L; an end outside the offset; a nonzero count with a bundle after it and without; a zero count whose
end bundle is found and is not; ends where nothing repeats, and where level 1 repeats above level 0 (O7). -/
theorem witness_Loops :
    let p := program [0x05000000, 0x05000000]
    let s := inBundle (p.onCl fun c => { c with g := file [(1, 2)] }) pc0 (pc0 + 4)
    let used := s.onCl fun c => looped c [(2, 0, 0, 1)]
    let last := inBundle s (pc0 + 4) (pc0 + 8)
    let line (d : BitVec 13) : Int := (s.ir.bpc.toNat % 2 ^ 40 / 64 : Nat) + d.toInt
    let active (t : State) (lv : Nat) : Prop := ∃ j : Fin 4, lv ≤ j.val ∧ vget (t.old.clu t.cur.clu).lpc j ≠ 0
    let o := looped Cluster.reset [(0, 8, 100, 3), (1, 16, 100, 2), (3, 0, 100, 1)]
    let repeats (j : Fin 4) : Prop := vget o.lpc j ≠ 0 ∧ vget o.lpe j = 100 ∧ vget o.lpc j ≠ 1
    (active used 2 ∧ ¬ active used 3) ∧ (¬ (0 ≤ line 0x1FFF) ∧ 0 ≤ line 0 ∧ line 0 < 2 ^ 34) ∧ (s.g 1 ≠ 0 ∧ s.g 2 = 0) ∧
    (∃ r, s.returnAddress = .ok r) ∧ (∃ e, last.returnAddress = .error e) ∧
    (∃ a, s.afterEnd (s.old.fetcher s.cur.core s.cur.clu) s.ir.npc (pc0 + 4) 65537 (16 * 65536) = .ok a) ∧
    (∃ e, s.afterEnd (s.old.fetcher s.cur.core s.cur.clu) s.ir.npc (pc0 + 12) 65537 (16 * 65536) = .error e) ∧
    (repeats 1 ∧ (∀ h, 1 < h → ¬ repeats h)) ∧ (∀ j, ¬ (vget Cluster.reset.lpc j ≠ 0 ∧ vget Cluster.reset.lpe j = 100)) ∧
    (let d := loopEnd o 100 none o 4
     d.pc = 16 ∧ vget d.lpc 0 = 3 ∧ vget d.lpc 1 = 1 ∧ vget d.lpc 3 = 0) ∧
    after (exec (.loop 1 1 2 0) s) (fun t => (vget t.cl.lps 1, vget t.cl.lpe 1, vget t.cl.lpc 1)) = some (pc0 + 4, pc0 + 4, 2) ∧
    causeAfter (.loop 2 1 2 0) used = some 7 :=
  ⟨by decide +kernel, by decide +kernel, by decide +kernel, ok_of (by decide +kernel), error_of (by decide +kernel), ok_of (by decide +kernel),
   error_of (by decide +kernel), by decide +kernel, by decide +kernel, by decide +kernel, by decide +kernel, by decide +kernel⟩

/-- Each refusal of R34, and a register that neither refuses (O8, O9, O10). -/
theorem witness_SpecialRegisters :
    let u := onCore0 .v tasked
    let k := onCore0 .v (tasked.onClu .v fun c => { c with priv := true })
    (u.old.clu u.cur.clu).priv = false ∧ (k.old.clu k.cur.clu).priv = true ∧ regKind 0x00F = .absent ∧ regKind 0x010 = .ro ∧
    (regKind 0x050 ≠ .absent ∧ regOnCluster 0x050 .v = false) ∧ (regKind 0x020 = .rw ∧ regOnCluster 0x020 .v = true) ∧
    (regFault 0x020 .v false false = none ∧ regFault 0x020 .v false true = none ∧ u.regWaits 0x020 = false) ∧
    (regFault 0x802 .v true true = none ∧ k.regWaits 0x802 = false) ∧ (regFault 2 .v false false = none ∧ u.me.task = some placedTask) ∧
    causeAfter (.mfs 1 0x800) u = some 3 ∧ causeAfter (.mfs 1 0x00F) u = some 1 ∧ causeAfter (.mts 0x010 1) u = some 1 ∧
    causeAfter (.mfs 1 0x050) k = some 2 ∧ gAfter (.mfs 1 2) u 1 = some 0x0001_0000_0000_0000 ∧
    after (exec (.mts 0x020 0) u) (fun t => t.report) = some .idle := by decide +kernel

/-- A tile that is locked by a queued command, one that is free with a canonical memory, and a byte that the new shape clears (O11). -/
theorem witness_Tshape :
    let m := (Memory.empty.write 5 7).write 64 9
    let f := onCore0 .m { tasked with st := { Storage.reset with tiles := vset Storage.reset.tiles 3 m } }
    let c : MCmd := { i := .tzero plain 3, w0 := 0, w1 := 0, fmt := 0, g := 0, shA := 0, shB := 0, places := [], groups := 0, order := 0, after := 0 }
    let b := onCore0 .m { tasked with en := { Engines.reset with mq := [c] } }
    (b.me.tileLocked 3 || b.me.en.mq.any fun c => c.names 3) = true ∧ (f.me.tileLocked 3 || f.me.en.mq.any fun c => c.names 3) = false ∧
    (vget f.me.st.tiles 3).wf = true ∧ after (exec (.tshape 3 7 2 1) b) State.report = some .stalled ∧
    after (exec (.tshape 3 7 2 1) f) (fun t => ((vget t.me.st.tiles 3).read 5, (vget t.me.st.tiles 3).read 64, vget t.me.st.tsh 3)) =
      some (7, 0, 0x70101) := by decide +kernel

/-- A cause of each disposition, and a fault inside a handler (O12). -/
theorem witness_Traps :
    let t (c : Nat) : Trap := { clu := .a, cause := c, detail := 4, async := true, addr := 9, info := 8 }
    let s := onCore0 .a (tasked.onClu .a fun c => { c with tvec := 0x1000 })
    let h := onCore0 .a (tasked.onClu .a fun c => { c with inh := true, priv := true })
    (s.disposition 0x0C = .save ∧ s.disposition 0x06 = .terminate ∧ s.disposition 0x1C = .handler) ∧
    ((h.cl.inh = true ∧ h.cl.priv = true) ∧ ¬ (s.cl.inh = true)) ∧
    ((s.dev 0x818).toNat / 4 ^ 0x0C % 4 = 2 ∧ (s.dev 0x818).toNat / 4 ^ 0x06 % 4 = 0 ∧ ((s.setDev 0x818 1).dev 0x818).toNat / 4 ^ 0 % 4 = 1) ∧
    ((s.deliver 0 .a (t 0x1C) 0x44).cl.pc = 0x1704 ∧ (s.deliver 0 .a (t 0x1C) 0x44).cl.tcause = 0x1400_801C) ∧
    (s.deliver 0 .a (t 0x0C) 0x44).me.save.isSome = true ∧ ((h.deliver 0 .a (t 6) 0x44).cl.tinfo = 6 ∧ (h.deliver 0 .a (t 6) 0x44).me.term.isSome = true) := by
  decide +kernel

/-- A latched core outside a handler, and what a fault gives back (O13). -/
theorem witness_Faults :
    let k0 := tasked.onClu .c fun c => { c with g := file [(1, 5)], pc := pc0 }
    let s := { onCore0 .c (tasked.onClu .c fun c => { c with g := file [(1, 6)], pc := 0 }) with latch := some k0 }
    s.latch = some k0 ∧ (k0.clu s.cur.clu).inh = false ∧
    after (s.faultAt 9 2 0x77) (fun t => (t.report, t.cl.gReg 1, t.cl.tpc, t.cl.taddr, t.cl.tcause)) =
      some (.trapped, 5, pc0, 0x77, 0x0200_0009) := ⟨rfl, by decide +kernel, by decide +kernel⟩

/-- User level, privileged level outside and inside a handler, and the wake latch set and clear (O14). -/
theorem witness_System :
    let s (p i w : Bool) : State := onCore0 .c (tasked.onClu .c fun c => { c with priv := p, inh := i, wake := w, tstat := 2, tpc := 0x44 })
    let c (p i w : Bool) : Cluster := (s p i w).old.clu (s p i w).cur.clu
    ((c false false false).priv = false ∧ (s false false false).cl.inh = false) ∧ ((c true false false).priv = true ∧ (c true false false).inh = false) ∧
    ((c true true false).priv = true ∧ (c true true false).inh = true) ∧ ((c true false true).wake = true ∧ (c true false false).wake = false) ∧
    (((s false false false).setDev 0x818 (0x0004_0000_0000_0000 + 0x0200_0000)).disposition 0x19 = .handler) ∧
    causeAfter .sret (s false false false) = some 3 ∧ causeAfter .sret (s true false false) = some 1 ∧
    after (exec .sret (s true true false)) (fun t => (t.cl.pc, t.cl.ended, t.cl.inh)) = some (0x44, true, false) ∧
    after (exec .idle (s true false false)) (fun t => t.cl.idle) = some true ∧ causeAfter (.trap 5) (s false false false) = some 0x19 := by
  decide +kernel

/-! Memory. -/

/-- What a check answers where it stops. -/
def trapOf {α : Type} (r : Res α) : Option (Nat × Nat × Word) :=
  match r with
  | .trap c d a => some (c, d, a)
  | _ => none

theorem trap_of {α : Type} {r : Res α} {c d : Nat} {a : Word} (h : trapOf r = some (c, d, a)) : r = .trap c d a := by
  cases r with
  | trap x y z => simpa [trapOf] using h
  | ok x t => cases h
  | wait => cases h

/-- Where an access goes, as far as it goes somewhere. -/
def targetOf (s : State) (a : Word) (size : Nat) (k : AccessKind) : Option Target :=
  match s.target a size k with
  | .ok t _ => some t
  | _ => none

theorem target_of {s : State} {a : Word} {size : Nat} {k : AccessKind} {f : Target → Bool} (h : (targetOf s a size k).any f = true) :
    ∃ t, s.target a size k = .ok t s ∧ f t = true := by
  unfold targetOf at h
  split at h
  · next t u e => exact ⟨t, by rw [e, State.target_state e], h⟩
  · cases h

/-- The place an address of device memory leads to. -/
def placeOf (s : State) (a : Word) (size : Nat) (k : AccessKind) (f : Phys → Nat → Bool) : Bool :=
  (targetOf s a size k).any fun
    | .mem p path => f p path
    | _ => false

theorem place_of {s : State} {a : Word} {size : Nat} {k : AccessKind} {f : Phys → Nat → Bool} (h : placeOf s a size k f = true) :
    ∃ p path, s.target a size k = .ok (.mem p path) s ∧ f p path = true := by
  obtain ⟨t, e, g⟩ := target_of h
  cases t with
  | mem p path => exact ⟨p, path, e, g⟩
  | buf _ _ _ => cases g
  | lat _ _ => cases g
  | host _ => cases g
  | peer _ => cases g
  | window _ => cases g

/-- A lattice region of ten cells of a type at tensor 7. -/
def region (type : Nat) : Region := { base := 0x2000_0700_0000_0000, size := 128, roff := 0, type := type, sched := 0 }

/-- The region table of context 0, its memory in the frames from 64 on. -/
def table (type : Nat) : RegionTable :=
  { ctx := 0, dbase := Vector.ofFn fun d : Fin 8 => 64 + d.val, key := 0, lmsize := 1, regions := [region type] }

/-- A memory with table pages: page 1 in frame 9 non-coherent, page 2 in frame 16 dead, page 4 in frame 24 read-only. -/
def withPages (m : Memory) : Memory :=
  (((m.writeLe 24 8 8).writeLe 32776 8 (9 * 2 ^ 24 + 35)).writeLe 32784 8 (16 * 2 ^ 24 + 7)).writeLe 32800 8 (24 * 2 ^ 24 + 1)

/-- Core 0 with footprints of 64 bytes, four pages, a host window of 4 KiB, a MAX.N64 region and some registers. -/
def paged (l : List (Nat × Word)) : State :=
  let s := (program [0x05000000]).setDev 0xE00 0x1000
  let t := { placedTask with footW := 64, footA := 64, footC := 64, footS := 64 }
  let u := { s with ms := { s.ms with main := withPages s.ms.main, poison := [9 * 1024 + 1] }, lat := { s.lat with tables := [table 1] } }
  u.onMe fun k => { k.onClu .c fun c => { c with g := file l } with task := some t }

/-- A coherent place in a page of device memory. -/
def placeAt (addr : Nat) : Phys := { addr := addr, key := 0, mode := 0, home := 0, local_ := false, dead := false, pte := 8, tag := (0, 1, 0) }

/-- A transaction in progress on a line. -/
def openLine (line : Nat) : DirTrans := { place := placeAt (64 * line), req := .rds, die := 1, cls := 0, toSend := 0, toAck := 0, back := none }

/-- The same at privileged level. -/
def privPaged (l : List (Nat × Word)) : State := (paged l).onCl fun c => { c with priv := true }

/-- The paths without memory, the privileged path at each level, an address one byte off its alignment, and both ends of the
host window and of a footprint (O15). -/
theorem witness_AddressChecks :
    let s := paged [(1, 0x6000_0000_0000_0000), (2, 0x9000_0000_0000_003C)]
    let p := privPaged []
    let bad (a : Word) : Prop := a.toNat / 2 ^ 56 % 16 ≠ 0 ∨ a.toNat / 2 ^ 40 % 2 ^ 16 = 0
    let out (a : Word) (k : AccessKind) := trapOf (s.target a 8 k)
    ((s.old.clu s.cur.clu).priv = false ∧ (p.old.clu p.cur.clu).priv = true) ∧ (bad 0x0100_0100_0000_0000 ∧ bad 0 ∧ ¬ bad pc0) ∧
    (out 0x7000_0000_0000_0001 .load = some (8, 0, 0x7000_0000_0000_0001) ∧ out 0xF000_0000_0000_0001 .load = some (3, 0, 0xF000_0000_0000_0001)) ∧
    (out 0x100_0000_0004 .load = some (9, 0, 0x100_0000_0004) ∧ out 0x0000_0000_0000_0008 .load = some (8, 0, 8)) ∧
    (out 0x1000_0100_0000_0008 .store = some (8, 0, 0x1000_0100_0000_0008) ∧ (targetOf s 0x1000_0100_0000_0008 8 .load).isSome = true) ∧
    ((s.regionAt 0 0x2000_0700_0000_0080).isNone = true ∧ out 0x2000_0700_0000_0080 .load = some (8, 0, 0x2000_0700_0000_0080)) ∧
    ((s.regionAt 0 0x2000_0700_0000_0078).isSome = true ∧ out 0x2000_0700_0000_0078 .store = some (0xB, 0, 0x2000_0700_0000_0078)) ∧
    ((targetOf s 0x4000_0000_0000_0FF8 8 .load).isSome = true ∧ out 0x4000_0000_0000_1000 .load = some (8, 0, 0x4000_0000_0000_1000)) ∧
    (∀ b : Fin 4, s.me.inFoot b 56 8 = true ∧ s.me.inFoot b 64 8 = false) ∧
    (out 0x8000_0000_0000_0038 .store = some (0xA, 0, 0x8000_0000_0000_0038) ∧ (targetOf s 0x9000_0000_0000_0038 8 .store).isSome = true) ∧
    (out 0x9000_0000_0000_0038 .atomic = some (8, 0, 0x9000_0000_0000_0038) ∧ out 0xE000_0000_0000_0000 .load = some (8, 0, 0xE000_0000_0000_0000)) ∧
    (out 0xC000_0000_0000_0000 .atomic = some (8, 0, 0xC000_0000_0000_0000) ∧
      trapOf (p.target 0xF000_0000_0000_0000 8 .atomic) = some (8, 0, 0xF000_0000_0000_0000)) ∧
    (s.target (s.g 1) 8 .load = .trap 8 0 (s.g 1) ∧ s.target (s.g 2) 8 .store = .trap 9 0 (s.g 2)) ∧
    causeAfter (.lda 3 1 0 3 0) s = some 8 ∧ causeAfter (.st 2 0 3 0) s = some 9 ∧ causeAfter (.ld 3 2 7 1) s = some 9 := by
  refine ⟨?_, ?_, ?_, ?_, ?_, ?_, ?_, ?_, ?_, ?_, ?_, ?_, ?_, ?_, ?_, ?_⟩ <;> first | decide +kernel | exact ⟨trap_of (by decide +kernel), trap_of (by decide +kernel)⟩

/-- A load of each kind of memory: host, peer, a buffer, a region, a dead page, a line in the L1, a live line, UC, a line with a
transaction, and a poisoned one (O16). -/
theorem witness_Loads :
    let s := paged [(1, 0x4000_0000_0000_0FF8), (2, 0x9000_0000_0000_0038)]
    let l : L1Line := { line := 8192, slot := 0, tid := 1, page := 0, ro := false, valid := 0xF0, data := 0x1234_0000_0000 }
    let c := s.onMe fun k => { k with en := { k.en with l1 := [l] } }
    let w := { s with ms := { s.ms with trans := [openLine 8192] } }
    let o := { c with ms := { c.ms with outcomes := [8 * 65536] } }
    (∃ p path, o.target pc0 4 .load = .ok (.mem p path) o ∧ (!p.dead && path != 3 &&
      (match o.me.l1Hit p.line (decide (path = 1)) (rangeMask p.off 4) with
        | some l => decide (linePart l.data p.off 4 ≠ 0)
        | none => false) && o.ms.outcomes.contains (p.addr / 8 * 8)) = true) ∧
    (∃ t, s.target (s.g 1) 8 .load = .ok t s ∧ (match t with | .host h => h == 0xFF8 | _ => false) = true) ∧
    (∃ t, s.target 0x5000_0000_0000_0010 8 .load = .ok t s ∧ (match t with | .peer h => h == 16 | _ => false) = true) ∧
    (∃ t, s.target (s.g 2) 8 .load = .ok t s ∧ (match t with
      | .buf k b o => decide (k = 0 ∧ b = 1 ∧ o = 56) && !(s.core k).det && !s.bufWaits k b o 8 (s.core k).en.issued && !(s.core k).st.poisoned b o 8
      | _ => false) = true) ∧
    (∃ t, s.target 0x2000_0700_0000_0008 8 .load = .ok t s ∧ (match t with
      | .lat rt r => !s.latLost rt r 0 0x2000_0700_0000_0008 | _ => false) = true) ∧
    (∃ p path, s.target 0x100_0002_0000 8 .load = .ok (.mem p path) s ∧ (p.dead && path == 0) = true) ∧
    (∃ p path, c.target pc0 4 .load = .ok (.mem p path) c ∧ (!p.dead && path != 3 && (c.me.l1Hit p.line (decide (path = 1)) (rangeMask p.off 4)).isSome) = true) ∧
    (∃ p path, s.target pc0 4 .load = .ok (.mem p path) s ∧ (!p.dead && path != 3 && (s.me.l1Hit p.line (decide (path = 1)) (rangeMask p.off 4)).isNone &&
      !s.ms.held p && !s.ms.lost 0 p (rangeMask p.off 4)) = true) ∧
    (∃ p path, s.target 0x3000_0100_0000_0004 4 .load = .ok (.mem p path) s ∧ (!p.dead && path == 3 && !s.ms.held p && !s.ms.lostHome 0 p) = true) ∧
    (∃ p path, w.target pc0 4 .load = .ok (.mem p path) w ∧ (!p.dead && (w.me.l1Hit p.line (decide (path = 1)) (rangeMask p.off 4)).isNone && w.ms.held p) = true) ∧
    (∃ p path, s.target 0x100_0001_0040 4 .load = .ok (.mem p path) s ∧ (!p.dead && (s.me.l1Hit p.line (decide (path = 1)) (rangeMask p.off 4)).isNone &&
      !s.ms.held p && s.ms.lost 0 p (rangeMask p.off 4)) = true) :=
  ⟨place_of (by decide +kernel), target_of (by decide +kernel), target_of (by decide +kernel), target_of (by decide +kernel), target_of (by decide +kernel),
   place_of (by decide +kernel), place_of (by decide +kernel), place_of (by decide +kernel), place_of (by decide +kernel),
   place_of (by decide +kernel), place_of (by decide +kernel)⟩

/-- Loads extend as their type says, and the code line reads back through the caches. -/
theorem test_loads :
    let s := (paged [(1, 0x4000_0000_0000_0000), (2, 0x9000_0000_0000_0038), (3, pc0)])
    let t := { s with ms := { s.ms with host := s.ms.host.write 1 0x80 } }
    gAfter (.ld 5 1 5 0) t 5 = some 0xFFFF_FFFF_FFFF_8000 ∧ gAfter (.ld 5 1 1 0) t 5 = some 0x8000 ∧ gAfter (.ld 5 3 2 0) s 5 = some 0x05000000 := by
  decide +kernel

/-- A store to each kind of memory that takes one, dead, live, UC and held, with its byte store in canonical form (O17). -/
theorem witness_Stores :
    let s := paged [(1, 0x4000_0000_0000_0FF8), (2, 0x9000_0000_0000_0038)]
    let w := { s with ms := { s.ms with trans := [openLine 8192] } }
    (∃ t, s.target (s.g 1) 8 .store = .ok t s ∧ (match t with | .host h => h == 0xFF8 && s.ms.host.wf | _ => false) = true) ∧
    (∃ t, s.target 0x5000_0000_0000_0010 8 .store = .ok t s ∧ (match t with | .peer h => h == 16 && s.ms.peer.wf | _ => false) = true) ∧
    (∃ t, s.target (s.g 2) 8 .store = .ok t s ∧ (match t with
      | .buf k b o => decide (b = 1) && !(s.core k).det && !s.bufWaits k 1 o 8 (s.core k).en.issued && (s.core k).st.bufA.wf
      | _ => false) = true) ∧
    (∃ p path, s.target pc0 4 .store = .ok (.mem p path) s ∧ (!s.ms.held p && !p.dead && path != 3) = true) ∧
    (∃ p path, s.target 0x100_0002_0000 4 .store = .ok (.mem p path) s ∧ (!s.ms.held p && p.dead && path != 3) = true) ∧
    (∃ p path, s.target 0x3000_0100_0000_0004 4 .store = .ok (.mem p path) s ∧ (!s.ms.held p && !p.dead && path == 3) = true) ∧
    (∃ p path, w.target pc0 4 .store = .ok (.mem p path) w ∧ w.ms.held p = true) :=
  ⟨target_of (by decide +kernel), target_of (by decide +kernel), target_of (by decide +kernel), place_of (by decide +kernel),
   place_of (by decide +kernel), place_of (by decide +kernel), place_of (by decide +kernel)⟩

/-- The step of a store: the low byte of the source, at the last address of the window (O17). -/
theorem test_store :
    let s := paged [(1, 0x4000_0000_0000_0FFF), (2, 0xABCD)]
    after (exec (.st 1 2 0 0) s) (fun t => (t.ms.host.read 0xFFF, t.ms.host.read 0x1000, t.ms.host.read 0xFFE)) = some (0xCD, 0, 0) ∧
    causeAfter (.st 1 2 0 1) s = some 8 ∧ causeAfter (.st 1 2 1 0) s = some 9 := by decide +kernel

/-- A valid and an erased key slot, and lines in the clear (O18). -/
theorem witness_HomeWrites :
    let m := (paged []).ms
    m.main.wf = true ∧ (m.keySlot 5).state = 0 ∧ (m.keySlot 0).state ≠ 0 ∧ (alGet m.lineKeys 8192).isNone = true ∧
    (m.homeWrite 8192 0 0x6 (BitVec.ofNat 512 0xBBAA99)).main.readLe (8192 * 64) 4 = 0x20BB_AA00 := by decide +kernel

/-- An atomic on host memory and on peer memory, outside and inside the reduction window at both its ends (O19). -/
theorem witness_Atomics :
    let s := paged [(1, 0x4000_0000_0000_0FF8), (2, 0x5000_0000_0000_2000), (3, 7)]
    let r := ((s.setDev 0xE38 0x2000).setDev 0xE39 0x100)
    (∃ t, s.target (s.g 1) 8 .atomic = .ok t s ∧ (match t with | .host h => h == 0xFF8 && s.ms.host.wf | _ => false) = true) ∧
    (∃ t, r.target (r.g 2) 8 .atomic = .ok t r ∧ (match t with | .peer h => h == 0x2000 && r.inReduction h && r.ms.peer.wf | _ => false) = true) ∧
    (s.inReduction 0x2000 = false ∧ r.inReduction 0x20FF = true ∧ r.inReduction 0x2100 = false ∧ r.inReduction 0x1FFF = false) ∧
    (after (exec (.aadd 4 1 3 1 0 0) s) (fun t => (t.cl.gReg 4, t.ms.host.readLe 0xFF8 8)) = some (0, 7)) ∧
    (after (exec (.acas 3 1 1 1 0 0) s) (fun t => (t.cl.gReg 3, t.ms.host.readLe 0xFF8 8)) = some (0, 0)) ∧
    (causeAfter (.aadd 4 2 3 1 0 0) r = some 8 ∧ after (exec (.aadd 0 2 3 1 0 0) r) (fun t => t.ms.peer.readLe 0x2000 8) = some 7) ∧
    (addF32 0x3F80_0000 0x7FC0_0001 0 false 0).1 = 0x7FC0_0000 :=
  ⟨target_of (by decide +kernel), target_of (by decide +kernel), by decide +kernel, by decide +kernel, by decide +kernel, by decide +kernel, by decide +kernel⟩

/-- A line that is free, held, dead and poisoned, for an atomic on device memory (O20). -/
theorem witness_DeviceAtomics :
    let s := paged [(1, pc0), (2, 0x100_0002_0000), (3, 0x100_0001_0040), (4, 1)]
    let w := { s with ms := { s.ms with trans := [openLine 8192] } }
    (∃ p path, s.target (s.g 1) 4 .atomic = .ok (.mem p path) s ∧ (!s.ms.held p && !p.dead && !s.ms.lostHome 0 p) = true) ∧
    (∃ p path, w.target (w.g 1) 4 .atomic = .ok (.mem p path) w ∧ w.ms.held p = true) ∧
    (∃ p path, s.target (s.g 2) 4 .atomic = .ok (.mem p path) s ∧ (!s.ms.held p && p.dead) = true) ∧
    (∃ p path, s.target (s.g 3) 4 .atomic = .ok (.mem p path) s ∧ (!s.ms.held p && !p.dead && s.ms.lostHome 0 p) = true) ∧
    after (exec (.aadd 5 1 4 0 0 0) s) (fun t => (t.cl.gReg 5, t.ms.main.readLe (8 * 65536 + 4) 4)) = some (0x05000000, 0x05000001) :=
  ⟨place_of (by decide +kernel), place_of (by decide +kernel), place_of (by decide +kernel), place_of (by decide +kernel), by decide +kernel⟩

/-- A length of zero, an end one byte past the tensor, a path that is not GEN, an unaligned discard, and ranges that pass the checks (O22). -/
theorem witness_Ranges :
    let s := paged [(1, 0x100_0000_0000), (2, 65536), (3, 0x1000_0000_0000_0001), (4, 0x1FF_FFFF_FFFF), (5, 2)]
    let bad (a : Word) : Prop := a.toNat / 2 ^ 56 % 16 ≠ 0 ∨ a.toNat / 2 ^ 40 % 2 ^ 16 = 0
    s.g 0 = 0 ∧ (s.g 5 ≠ 0 ∧ (s.g 4).toNat / 2 ^ 60 = 0 ∧ 2 ^ 40 < (s.g 4).toNat % 2 ^ 40 + (s.g 5).toNat) ∧ bad (s.g 2) ∧
    (s.g 3).toNat / 2 ^ 60 ≠ 0 ∧ ((s.g 1).toNat % 65536 = 0 ∧ (s.g 2).toNat % 65536 = 0 ∧ (s.g 5).toNat % 65536 ≠ 0) ∧
    (∃ ps, s.range (s.g 1) (s.g 2) 1 false = .ok ps) ∧ (∃ ps, s.range (s.g 1) (s.g 2) 65536 true = .ok ps) ∧
    (after (exec (.wbr 4 5) s) State.report = some .trapped ∧ after (exec (.invr 1 2) s) State.report = some s.report ∧ causeAfter (.discard 1 5) s = some 9) :=
  ⟨by decide +kernel, by decide +kernel, by decide +kernel, by decide +kernel, by decide +kernel, ok_of (by decide +kernel), ok_of (by decide +kernel),
   by decide +kernel⟩

theorem reach_of {s : State} {slot : Nat} {a : Word} {w : Bool} (h : (s.reach slot a w).toOption.isSome = true) :
    ∀ c d, s.reach slot a w = .error (c, d) → c = 0xC ∧ (d = 3 ∨ d = 4) := by
  intro c d e
  rw [e] at h
  cases h

/-- A whole page that may be written, for the three to complete on (O22). -/
theorem witness_RangePages :
    let s := paged [(1, 0x100_0000_0000), (2, 65536)]
    (∀ p, 0 ≤ p → p ≤ (65536 - 1) / 65536 → ∀ c d,
      s.reach (s.old.slotFor s.cur.clu) ((s.g 1 &&& ~~~0xFF_FFFF_FFFF#64) + BitVec.ofNat 64 (p * 65536)) true = .error (c, d) →
      c = 0xC ∧ (d = 3 ∨ d = 4)) ∧
    ((s.g 1).toNat % 2 ^ 40 = 0 ∧ (s.g 2).toNat = 65536 ∧ after (exec (.wbr 1 2) s) State.report = some s.report ∧
      after (exec (.discard 1 2) s) (fun t => t.ms.main.readLe 32768 8 / 4 % 2) = some 1) := by
  refine ⟨fun p _ h => ?_, by decide +kernel⟩
  obtain rfl := Nat.le_zero.mp h
  exact reach_of (by decide +kernel)

/-- An address off the LAT path, past the region's last cell, unaligned, and a cell that is below, at and above the operand (O23). -/
theorem witness_Lattice :
    let s := paged [(1, 0x2000_0700_0000_0008), (2, 0x2000_0700_0000_0080), (3, 0x2000_0700_0000_000C), (4, 5), (5, pc0)]
    let rt := table 1
    let r := region 1
    let cell (x : Word) : Bool := atOrAbove 1 (s.latLoad rt r (s.g 1) 8) x.toNat
    (s.g 5).toNat / 2 ^ 60 ≠ 2 ∧ ((s.g 2).toNat / 2 ^ 60 = 2 ∧ (s.regionAt 0 (s.g 2)).isNone = true) ∧
    ((s.g 1).toNat / 2 ^ 60 = 2 ∧ genForm (s.g 1) = true ∧ s.me.task.isSome = true ∧ s.regionAt 0 (s.g 1) = some (rt, r)) ∧
    ((s.g 3).toNat % 8 ≠ 0 ∧ (s.g 1).toNat % 8 = 0 ∧ s.latKeyed rt = true ∧ s.latLost rt r 0 (s.g 1) = false) ∧ (cell 0 = true ∧ cell 5 = false) ∧
    (assertOk 1 (s.latCell rt r 0 (s.g 1)) 5 = true ∧ assertOk 2 (leBytes 4 8) 5 = false) ∧
    (causeAfter (.join 5 4) s = some 8 ∧ causeAfter (.ldlat 6 3) s = some 9 ∧ after (exec (.ldge 6 1 4) s) State.report = some .stalled) ∧
    gAfter (.ldge 6 1 0) s 6 = some 0 ∧
    (after (exec (.join 1 4) s) fun t => gAfter (.ldlat 6 1) t 6) = some (some 5) := by decide +kernel

/-! Synchronisation. -/

/-- Storage with token counts and rooms of the queues from and to a cluster. -/
def withTok (t : Storage) (l : List (Clu × Clu × Nat)) : Storage := { t with tok := l.foldl (fun v e => vset v (tokIdx e.1 e.2.1) e.2.2) t.tok }

/-- A set with a token from each peer and one without; a queue with room for one more and a full one; short queues empty, with an
entry, full, and held by a run that has entries to pop (O24). -/
theorem witness_TokensAndQueues :
    let st := withTok Storage.reset [(.c, .a, 1), (.m, .a, 2), (.a, .v, 14), (.a, .c, 15)]
    let s := onCore0 .a { tasked with st := { st with qca := [7, 8], qac := List.replicate 32 1 } }
    let c : ChCmd := { s.mkChan (.seqrunGather plain 0 0 0 0) 0 0 0 0 with pops := 3 }
    let r := s.onEn fun e => { e with chans := vset e.chans 0 { Channel.reset with cmds := [c] } }
    ((∀ x, x ∈ peerSet .a 5 → 0 < vget s.me.st.tok (tokIdx x .a)) ∧ ¬ (∀ x, x ∈ peerSet .a 7 → 0 < vget s.me.st.tok (tokIdx x .a))) ∧
    ((∀ x, x ∈ peerSet .a 2 → vget s.me.st.tok (tokIdx .a x) + vget s.me.st.room (tokIdx .a x) < 15) ∧
      ¬ (∀ x, x ∈ peerSet .a 1 → vget s.me.st.tok (tokIdx .a x) + vget s.me.st.room (tokIdx .a x) < 15)) ∧
    (s.me.st.qca = 7 :: [8] ∧ s.me.runPops = false ∧ r.me.runPops = true) ∧ (32 ≤ s.me.st.qac.length ∧ s.me.st.qca.length < 32) ∧
    after (exec (.tkwait 5) s) (fun t => (vget t.me.st.tok (tokIdx .c .a), vget t.me.st.tok (tokIdx .m .a))) = some (0, 1) ∧
    after (exec (.tkpost 2) s) (fun t => vget t.me.st.tok (tokIdx .a .v)) = some 15 ∧
    after (exec (.qpop 4 4) s) (fun t => (t.cl.gReg 4, t.me.st.qca)) = some (7, [8]) ∧
    (after (exec (.tkwait 7) s) State.report = some .stalled ∧ after (exec (.tkpost 1) s) State.report = some .stalled ∧
      after (exec (.qpush 3 0) s) State.report = some .stalled ∧ after (exec (.qpop 4 4) r) State.report = some .stalled) := by
  refine ⟨?_, ?_, ?_, ?_, ?_, ?_, ?_, ?_⟩ <;> first | decide +kernel

/-- Core 0 and core 1 of a quad in one launch, core 0 with a strand entry 3 and counts at core 0 and at core 1. -/
def stranded (e : Word) (own peer : Strand) (l : List (Nat × Word)) : State :=
  let t := { placedTask with strands := vset (Vector.replicate 16 0) 3 e }
  let k (x : Strand) : Core := { tasked with task := some t, st := { Storage.reset with strands := vset Storage.reset.strands 3 x } }
  (onCore0 .a ((k own).onClu .a fun c => { c with g := file l })).setCore 1 (k peer)

/-- An unused strand, a local one and a producer of a quad ring; a free bead and none; counts that n fits and exceeds by one (O25). -/
theorem witness_Strands :
    let n : Word := 0x0000_4204_0000_2000
    let ring : Word := 0x0000_9204_0000_2000
    let x : Strand := { claimed := 2, filled := 1, taken := 1, freed := 0 }
    let y : Strand := { claimed := 1, filled := 1, taken := 0, freed := 0 }
    let s := stranded n x y [(1, 1), (2, 2), (3, 3)]
    let u := stranded 0 x y []
    let p := stranded ring x y [(1, 1)]
    let role (e : Word) : Nat := e.toNat / 2 ^ 46 % 4
    (role 0 = 0 ∧ role n = 1 ∧ role ring = 2 ∧ p.sameLaunch 0 1 = true ∧ p.sameLaunch 0 2 = false) ∧
    ((quadCore 0 (0 + ring.toNat / 2 ^ 44 % 4)).val = 1 ∧ s.me.task.isSome = true) ∧
    (n.toNat / 2 ^ 33 % 128 ≤ (x.claimed - x.freed).toNat ∧ (y.claimed - y.freed).toNat < n.toNat / 2 ^ 33 % 128) ∧
    ((x.claimed - x.filled).toNat < 2 ∧ 1 ≤ (x.claimed - x.filled).toNat) ∧ (x.filled = x.taken ∧ y.filled ≠ y.taken) ∧
    ((x.taken - x.freed).toNat < 2 ∧ 1 ≤ (x.taken - x.freed).toNat ∧ (2 : Nat) < 3 ∧ 2 < 1 + (x.claimed - x.freed).toNat) ∧
    (causeAfter (.sclaim 3 5) u = some 0x14 ∧ after (exec (.sclaim 3 5) s) State.report = some .stalled ∧ causeAfter (.sfill 3 2) s = some 0x14 ∧
      causeAfter (.srel 3 2) s = some 0x14 ∧ causeAfter (.swfree 3 3) s = some 0x14 ∧ after (exec (.swfree 3 1) s) State.report = some .stalled) ∧
    (after (exec (.sfill 3 1) s) (fun t => (t.strand 0 3).filled) = some 2 ∧ after (exec (.srel 3 1) s) (fun t => (t.strand 0 3).freed) = some 1 ∧
      after (exec (.swfree 3 0) s) State.report = some .idle) ∧
    after (exec (.sclaim 3 5) p) (fun t => ((t.strand 1 3).claimed, (t.strand 0 3).claimed, t.cl.gReg 5)) = some (2, 2, 0xC000_0100_0000_2100) ∧
    causeAfter (.sclaim 3 5) (p.setCore 1 Core.reset) = some 8 := by decide +kernel

/-- A relative index with a base and without, an index at 255 and at 256, a wait whose condition holds and one whose does not, and
clasp bases that are legal, too deep, and an advance (O26). -/
theorem witness_Clasps :
    let s := onCore0 .a (tasked.onClu .a fun c => { c with g := file [(1, 255), (2, 256), (3, 4), (4, 0x7_0040_0410), (5, 0x8000_0000_0000_0000), (6, 0x41_0400)] })
    let b := s.onCl fun c => { c with clb := 0x1_0340_0410 }
    let w := s.onQuad 0 fun q => { q with clasps := vset q.clasps 255 { count := 1, expect := 2 } }
    let legal (v : Word) : Prop := v.toNat / 2 ^ 35 = 0 ∧ (v.toNat / 2 ^ 32 % 8 < 4 ∨ v.toNat / 2 ^ 32 % 8 = 7) ∧
       (v.toNat / 2 ^ 8 % 256 = 0 → v.toNat / 2 ^ 16 = 0) ∧
       (v.toNat / 2 ^ 8 % 256 ≠ 0 → v.toNat / 2 ^ 16 % 256 ≠ 0 ∧ v.toNat / 2 ^ 8 % 256 * (v.toNat / 2 ^ 16 % 256) ≤ 256 ∧
         v.toNat / 2 ^ 24 % 256 < v.toNat / 2 ^ 8 % 256)
    (256 ≤ (s.g 2).toNat ∧ (s.g 1).toNat < 256) ∧ ((s.old.clu .a).clb.toNat / 2 ^ 8 % 256 = 0 ∧ (b.old.clu .a).clb.toNat / 2 ^ 8 % 256 = 4) ∧
    (0x10 + 3 * 0x40 + 4) % 256 = 0xD4 ∧ (legal (s.g 4) ∧ ¬ legal (s.g 6) ∧ 2 ^ 63 ≤ (s.g 5).toNat ∧ (s.g 4).toNat < 2 ^ 63) ∧
    ((vget (vget w.quads 0).clasps 255).count.toNat < (vget (vget w.quads 0).clasps 255).expect.toNat ∧ (w.old.clu .a).claspWait ≠ some (255, true)) ∧
    (causeAfter (.clinit 2 0) s = some 0x14 ∧ causeAfter (.clinit 1 1) s = some 0x14 ∧ causeAfter (.clbase 6) s = some 0x14 ∧
      causeAfter (.clbase 5) s = some 0x14) ∧
    (after (exec (.clarrive 3 1 1) b) (fun t => (vget (vget t.quads 0).clasps 0xD4).count) = some 255 ∧
      after (exec (.clbase 5) b) (fun t => t.cl.clb) = some 0x1_0040_0410 ∧ after (exec (.clbase 4) s) (fun t => t.cl.clb) = some 0x7_0040_0410) ∧
    (after (exec (.clwait 1 0) w) (fun t => (t.report, t.cl.claspWait)) = some (.stalled, some (255, false)) ∧
      after (exec (.clwait 1 0) s) State.report = some .idle) := by decide +kernel

/-- No version word and one with memory in canonical form; a power level held, none and one above; the places of LOCQ (O27). -/
theorem witness_PublishPower :
    let s := paged [(1, 0x9000_0000_0000_003F), (2, 0x4000_0000_0000_0FFF), (3, 0xF000_0000_0000_0000)]
    let p := (s.setDev 0xE30 0x100).setDev 0xE31 7
    let h := s.onRg fun r => { r with pwrlvl := 200 }
    ((s.dev 0xE30).toNat = 0 ∧ (p.dev 0xE30).toNat ≠ 0 ∧ p.ms.host.wf = true ∧ canonicalAbove devReset none p.regs = true) ∧
    (h.me.rg.pwrlvl ≠ 0 ∧ (200 : BitVec 8) ≤ h.me.rg.pwrlvl ∧ h.me.rg.pwrlvl < 201 ∧ s.me.rg.pwrlvl = 0) ∧
    ((s.g 1).toNat / 2 ^ 60 = 9 ∧ s.me.inFoot 1 ((s.g 1).toNat % 2 ^ 40) 1 = true ∧ (s.g 2).toNat / 2 ^ 60 = 4 ∧ (s.g 3).toNat / 2 ^ 60 = 15) ∧
    after (exec .publ p) (fun t => (t.dev 0xE31, t.ms.host.readLe 0x100 8)) = some (8, 8) ∧ gAfter (.rdcad 4) s 4 = some 0 ∧
    (gAfter (.locq 4 1) s 4 = some 0x8000_0000_0000_0000 ∧ gAfter (.locq 4 2) s 4 = some 0x8000_0000_0000_0031 ∧ gAfter (.locq 4 3) s 4 = some 0) ∧
    (after (exec (.pwracq 200) h) (fun t => (t.report, t.me.rg.pwrlvl)) = some (h.report, 200) ∧ after (exec (.pwracq 201) h) State.report = some .stalled ∧
      after (exec .pwrrel h) (fun t => t.me.rg.pwrlvl) = some 0) := by decide +kernel

/-- A launch record: entries at the first bundle of page 0, loop table at an offset of tensor 1, one queue. -/
def record (queue : Nat) : List Byte :=
  (List.replicate 4 (leBytes pc0.toNat 8)).flatten ++ leBytes 0x100_0000_0100 8 ++ leBytes 0 48 ++ leBytes 0 2 ++ [BitVec.ofNat 8 queue] ++ leBytes 0 165

/-- The device of `paged` with a loop table (C 4) and the record in memory, and queues 0 and 8 enabled for context 0. -/
def launching (l : List (Nat × Word)) : State :=
  let s := ((paged l).setDev 0x900 0x80).setDev 0x920 0x80
  let m := s.ms.main.writeList (8 * 65536 + 0x100) (leBytes 1 8 ++ leBytes (2 ^ 33 + 4) 8)
  { s with ms := { s.ms with main := m.writeList (8 * 65536 + 0x200) (record 0) } }

/-- Addresses off the paths, unaligned, of a bad form and untranslated; a record that reads; a disabled queue, one of another
context, a full one, a class-0 queue asked from class 1; and an acceptance (O28). -/
theorem witness_Launch :
    let s := launching [(1, 0x9000_0000_0000_0000), (2, 0x100_0000_0220), (3, 0), (4, 0x100_0003_0000), (5, 0x100_0000_0200)]
    let l := launchOf (record 0) [(2, 4)] 9 0 [] .queued
    let full := { s with sch := { s.sch with launches := List.replicate 64 l } }
    let onPath (x : Word) : Prop := x.toNat / 2 ^ 60 = 0 ∨ x.toNat / 2 ^ 60 = 1 ∨ x.toNat / 2 ^ 60 = 3
    (¬ onPath (s.g 1) ∧ onPath (s.g 2) ∧ (s.g 2).toNat % 64 ≠ 0 ∧ genForm (s.g 3) = false ∧ genForm (s.g 4) = true) ∧
    (∃ e, s.readRange 0 0 (s.g 4) 256 = .error e) ∧ (∃ bs, s.readRange 0 0 (s.g 5) 256 = .ok bs) ∧ s.me.task.isSome = true ∧
    ((s.dev 0x904).toNat / 2 ^ 7 % 2 = 0 ∧ (s.dev 0x900).toNat / 2 ^ 7 % 2 = 1 ∧ (s.dev 0x900).toNat / 2 ^ 32 % 2 ^ 12 = 0) ∧
    (64 ≤ full.queueCount 0 ∧ s.queueCount 0 < 64) ∧
    ((s.accept 0 0 0 (record 0) (some 8)).1 = 5 ∧ (full.accept 0 0 0 (record 0) (some 0)).1 = 1 ∧ (s.accept 0 0 0 (record 1) none).1 = 2 ∧
      (s.accept 0 1 0 (record 0) none).1 = 2) ∧
    s.lidFree 1 = true ∧ causeAfter (.launch 6 1) s = some 8 ∧ causeAfter (.launch 6 2) s = some 9 :=
  ⟨by decide +kernel, error_of (by decide +kernel), ok_of (by decide +kernel), by decide +kernel, by decide +kernel, by decide +kernel, by decide +kernel,
   by decide +kernel, by decide +kernel, by decide +kernel⟩

set_option maxRecDepth 100000 in
set_option exponentiation.threshold 600 in
/-- The record of `launching` is accepted: whatever identifier is free, the answer has bit 63 and one launch is added (O28). -/
theorem witness_LaunchAccepted :
    let s := launching []
    (2 ^ 63 ≤ (s.accept 0 0 0 (record 0) none).1.toNat) ∧ (s.accept 0 0 0 (record 0) none).2.sch.launches.length = 1 := by
  have h : ∀ n : BitVec 16, 2 ^ 63 ≤ (BitVec.ofNat 64 (2 ^ 63 + n.toNat)).toNat := fun n => by
    simp only [BitVec.toNat_ofNat]; omega
  exact ⟨h _, by decide +kernel⟩

/-- No exit sequence; END where another cluster runs on, and where every other has ended (O29). -/
theorem witness_Exit :
    let s := onCore0 .c tasked
    let e := onCore0 .c { tasked with cl := vmap (fun c => { c with ended := true }) tasked.cl }
    s.me.exit = none ∧ after (exec .exit s) (fun t => (t.me.exit, (t.me.clu .m).stopped)) = some (some { live := 7, canc := 0, impl := false }, true) ∧
    after (exec .end_ s) (fun t => (t.me.exit, t.cl.ended)) = some (none, true) ∧
    after (exec .end_ e) (fun t => t.me.exit) = some (some { live := 0, canc := 0, impl := true }) := by decide +kernel

/-! Channels. -/

/-- The device of `paged` with its access cluster executing. -/
def access (l : List (Nat × Word)) : State :=
  let s := paged []
  { s.onMe fun k => k.onClu .a fun c => { c with g := file l } with cur := { core := s.cur.core, clu := .a } }

/-- Addresses and lengths of channel commands: 1 and 2 in the A buffer, 3 a length. -/
def accessRegs : List (Nat × Word) :=
  [(1, 0x9000_0000_0000_0000), (2, 0x9000_0000_0000_0020), (3, 32), (4, 0x6000_0000_0000_0000), (5, 0xF000_0000_0000_0000),
   (6, 0x9000_0000_0000_0002), (7, 0x0000_0000_0000_0008), (8, 0xA000_0000_0000_0000), (9, 0x2000_0700_0000_0000),
   (10, 0x1000_0100_0000_0000), (11, 0x8000_0000_0000_0000), (12, 0xE000_0000_0000_0000), (13, 36), (14, 0x9000_0000_0000_0024),
   (15, 0xB000_0000_0000_0000), (16, 0x0003_0000_0000_0020), (17, 0x100_0000_0100), (18, 0x4000_0000_0000_0FE0), (19, 0x4000_0000_0000_0FE4),
   (20, 0x5000_0000_0000_0000), (21, 0xC000_0000_0000_0000), (22, 8), (23, 0x2000_0700_0000_0068), (24, 1), (25, 0x9000_0000_0000_0040)]

/-- Seven unfinished commands and nine elements, and one element fewer. -/
def slots (s : State) (n : Nat) : State :=
  let c := s.mkChan (.copy plain 0 1 2 3) 0 0 0 0
  s.onEn fun e => { e with chans := vset e.chans 0 { Channel.reset with cmds := List.replicate 7 c, elems := List.replicate n (0, none) } }

/-- A nullified form, a set without tokens, no free slot and one; a failing check of each stage with none before it, at the last
length that fits and the first that does not; and commands of every form that enter (O30). -/
theorem witness_ChannelCommands :
    let s := access accessRegs
    let cmds (i : Instr) := after (exec i s) fun t => ((vget t.me.en.chans 2).cmds.length, (vget t.me.en.chans 2).next)
    let cp (d a n : Reg) : Instr := .copy plain 2 d a n
    (s.p plain.guard = true ∧ s.setsReady plain = true ∧ s.setsReady { plain with wait := 1 } = false ∧ s.p 1 = false) ∧
    after (exec (.copy { plain with guard := 1 } 2 1 2 3) s) (fun t => t.me.en.issued) = some s.me.en.issued ∧
    after (exec (.copy plain 0 1 2 3) (slots s 9)) State.report = some .stalled ∧
    after (exec (.copy plain 0 1 2 3) (slots s 8)) (fun t => (vget t.me.en.chans 0).cmds.length) = some 8 ∧
    cmds (cp 4 5 0) = some (1, 1) ∧
    (causeAfter (cp 4 6 3) s = some 8 ∧ causeAfter (cp 5 4 3) s = some 3 ∧ causeAfter (cp 6 7 3) s = some 9 ∧ causeAfter (cp 1 2 24) s = some 9 ∧
      causeAfter (cp 7 8 3) s = some 8 ∧ causeAfter (cp 8 12 3) s = some 0xA ∧ causeAfter (cp 9 12 3) s = some 0xB ∧ causeAfter (cp 10 11 3) s = some 8 ∧
      causeAfter (cp 1 11 3) s = some 0xA ∧ causeAfter (cp 1 12 3) s = some 8 ∧ causeAfter (cp 14 2 3) s = some 8 ∧ causeAfter (cp 2 14 3) s = some 8) ∧
    (cmds (cp 2 17 3) = some (1, 1) ∧ cmds (cp 18 2 3) = some (1, 1) ∧ causeAfter (cp 19 2 3) s = some 8 ∧ cmds (cp 20 2 3) = some (1, 1) ∧
      causeAfter (cp 21 21 13) s = causeAfter (cp 21 1 13) s) ∧
    (cmds (.copyj plain 2 9 2 22) = some (1, 1) ∧ causeAfter (.copyj plain 2 1 2 22) s = some 8 ∧ causeAfter (.copyj plain 2 23 2 3) s = some 8) ∧
    (cmds (.cpyscl plain 2 15 17 3) = some (1, 1) ∧ causeAfter (.cpyscl plain 2 1 17 3) s = some 8) ∧
    (cmds (.copymc plain 2 1 17 3 1) = some (1, 1) ∧ causeAfter (.copymc plain 2 1 17 3 2) s = some 8 ∧
      causeAfter (.copymc plain 2 1 17 16 1) s = some 0x14) ∧
    (cmds (.gather plain 2 1 17 2 7 2) = some (1, 1) ∧ causeAfter (.gather plain 2 1 17 2 8 2) s = some 8 ∧
      causeAfter (.gather plain 2 6 17 2 7 2) s = some 9) ∧
    (cmds (.scatter plain 2 17 1 2 7 2) = some (1, 1) ∧ causeAfter (.scatter plain 2 8 1 2 7 2) s = some 0xA) ∧
    (cmds (.qsend plain 2 1 0) = some (1, 1) ∧ causeAfter (.qsend plain 2 2 0) s = some 9 ∧ causeAfter (.qsend plain 2 25 0) s = some 8 ∧
      causeAfter (.qsend plain 2 11 1) s = some 0xA) ∧
    (cmds (.qrecv plain 2 1) = some (1, 1) ∧ causeAfter (.qrecv plain 2 20) s = some 8 ∧ causeAfter (.qrecv plain 2 9) s = some 8) := by
  refine ⟨?_, ?_, ?_, ?_, ?_, ?_, ?_, ?_, ?_, ?_, ?_, ?_, ?_, ?_⟩ <;> decide +kernel

/-- A shape record (R201): type, dimensions, extents, strides, tile lengths. -/
def shape (tid ty nd : Nat) (n st k : List Nat) : List Byte :=
  let four (w : Nat) (l : List Nat) : List Byte := (l ++ List.replicate (4 - l.length) 0).flatMap fun x => leBytes x w
  leBytes tid 2 ++ [BitVec.ofNat 8 ty, BitVec.ofNat 8 nd] ++ leBytes 0 4 ++ four 4 n ++ four 5 st ++ four 4 k ++ leBytes 0 4

/-- The state with a record in memory at register 17's address. -/
def withRecord (r : List Byte) : State :=
  let s := access accessRegs
  { s with ms := { s.ms with main := s.ms.main.writeList (8 * 65536 + 0x100) r } }

/-- The cause and detail of the fault a TDESC of a record meets. -/
def recFault (r : List Byte) : Option Nat := after (exec (.tdesc plain 3 17 0) (withRecord r)) fun t => t.cl.tcause.toNat / 2 ^ 24 % 16 * 256 + t.cl.tcause.toNat % 256

/-- Core 0 with a record in slot 3 and the levels as a task start leaves them, but for level 0. -/
def sequencing (r : List Byte) (lv : SeqLevel) (d : BitVec 8) : State :=
  (access accessRegs).onEn fun e => { e with recs := vset e.recs 3 r, levels := vset e.levels 0 lv, depth := d }

/-- Records that fail each check with none before it, ones at the limits, the paths and alignment of the record; level 5 and level
0; a run with each failing check, one that emits nothing, one whose ring is one byte more than the footprint (O31). -/
theorem witness_Records :
    let s := withRecord (shape 1 1 2 [64, 4] [1, 64] [16, 2])
    let q := sequencing (shape 1 1 2 [64, 4] [1, 64] [16, 2]) { e := 2, b := 32, c := Vector.replicate 4 0 } 0
    let cause (i : Instr) (s : State) := causeAfter i s
    let enters (i : Instr) (s : State) := after (exec i s) fun t => (vget t.me.en.chans 2).cmds.length
    let ring (d : BitVec 8) := sequencing (shape 1 1 2 [64, 4] [1, 64] [16, 2]) { e := 2, b := 32, c := Vector.replicate 4 0 } d
    (after (exec (.tdesc plain 3 17 0) s) (fun t => vget t.me.en.recs 3) = some (shape 1 1 2 [64, 4] [1, 64] [16, 2]) ∧
      after (exec (.tdesc plain 3 17 3) s) (fun t => recField (vget t.me.en.recs 3) 0 2) = some 32) ∧
    (cause (.tdesc plain 3 18 0) s = some 8 ∧ cause (.tdesc plain 3 24 0) s = some 8 ∧ cause (.tdesc plain 3 22 0) s = some 8 ∧
      cause (.tdesc plain 3 2 0) s = some 8 ∧ trapOf (s.recBytes 0x100_0000_0104) = some (9, 1, 0x100_0000_0104)) ∧
    (recFault (shape 0 1 1 [1] [1] [1]) = some 0x0F ∧ recFault (shape 1 9 1 [4] [1] [4]) = some 0x0F ∧ recFault (shape 1 1 5 [4] [1] [4]) = some 0x0F ∧
      recFault (shape 1 1 1 [4, 1] [1] [4]) = some 0x0F ∧ recFault (shape 1 1 1 [4] [1] [8]) = some 0x0F ∧
      recFault (shape 1 1 2 [65536, 2] [1, 65536] [65536, 2]) = some 0x0F ∧ recFault (shape 1 1 2 [65536, 2] [1, 65536] [65536, 1]) ≠ some 0x0F) ∧
    (recFault (shape 1 5 2 [4, 4] [2, 7] [4, 1]) = some 0x209 ∧ recFault (shape 1 5 2 [4, 4] [4, 8] [4, 1]) = some 0x309 ∧
      recFault (shape 1 1 2 [4, 4] [1, 6] [4, 1]) = some 0x409 ∧ recFault (shape 1 1 2 [4, 4] [1, 8] [2, 1]) = some 0x509) ∧
    (after (exec (.seqcfg plain 5 3 22 16) s) (fun t => (vget t.me.en.levels 5, t.me.en.depth)) =
        some ({ e := 32, b := 8, c := Vector.ofFn fun i : Fin 4 => if i = 0 then 32 else if i = 3 then 3 else 0 }, 0) ∧
      after (exec (.seqcfg plain 0 16 22 3) s) (fun t => t.me.en.depth) = some 0) ∧
    (cause (.seqrunCopy plain 2 4 1 0) q = some 0xF ∧ cause (.seqrunCpyscl plain 2 3 6 0) q = some 9 ∧
      cause (.seqrunGather plain 2 3 1 0) (sequencing (shape 1 1 3 [64, 4, 1] [1, 64, 256] [16, 2, 1]) SeqLevel.reset 0) = some 0xF ∧
      cause (.seqrunCpyscl plain 2 3 1 0) (sequencing (shape 1 5 1 [64] [2] [16]) SeqLevel.reset 0) = some 0xF ∧
      cause (.seqrunCopy plain 2 3 6 0) q = some 9) ∧
    (enters (.seqrunCopy plain 2 3 4 0) (sequencing (shape 1 1 1 [64] [1] [16]) { SeqLevel.reset with e := 0 } 0) = some 1 ∧
      cause (.seqrunCopy plain 2 3 4 0) q = some 0xA ∧ cause (.seqrunCopy plain 2 3 8 0) q = some 0xA ∧ cause (.seqrunCpyscl plain 2 3 1 0) q = some 0xA ∧
      cause (.seqrunCopy plain 2 3 2 0) q = some 8) ∧
    (enters (.seqrunCopy plain 2 3 1 0) q = some 1 ∧ enters (.seqrunGather plain 2 3 1 0) q = some 1 ∧ enters (.seqrunScatter plain 2 3 1 0) q = some 1 ∧
      enters (.seqrunCpyscl plain 2 3 15 0) q = some 1) ∧
    (enters (.seqrunCopy plain 2 3 1 0) (ring 2) = some 1 ∧ cause (.seqrunCopy plain 2 3 1 0) (ring 3) = some 8 ∧
      after (exec (.seqrunGather plain 2 3 1 0) q) (fun t => ((vget t.me.en.chans 2).cmds.map (·.pops))) = some [4]) := by
  refine ⟨?_, ?_, ?_, ?_, ?_, ?_, ?_, ?_, ?_⟩ <;> decide +kernel

/-- Core 0 with a channel. -/
def withChannel (x : Channel) (forms : List Form) : State :=
  (access accessRegs).onEn fun e => { e with chans := vset e.chans 2 x, forms := forms }

/-- A form of the access cluster with an issue number. -/
def formOf (i : Instr) (addr : Word) (order : Nat) : Form :=
  { i := i, w0 := 0, w1 := 0, clu := .a, addr := addr, mask := 0, data := 0, parts := 0, order := order, after := 0, handler := false }

/-- A command of core 0 that has started and is done but for the last of its units. -/
def command (i : Instr) (ga gb gc : Word) (order prog : Nat) : ChCmd :=
  { (access accessRegs).mkChan i 2 ga gb gc with started := true, order := order, prog := prog }

/-- What an event reports. -/
def reportOf (i : Instr) (s : State) : Option Report := after (exec i s) State.report

/-- An element, none with a command outstanding and none without, three waiting forms and two; a staged run at its last stage and
the first beyond; commands that may start and finish and that may not; waiting forms that pass and that do not (O32). -/
theorem witness_ChannelWaits :
    let run : ChCmd := { command (.seqrunCopy plain 2 3 1 0) 0x9000_0000_0000_0000 0 0 7 1 with
      depth := 2, shape := shape 1 1 1 [64] [1] [16], levels := vset (Vector.replicate 6 SeqLevel.reset) 0 { SeqLevel.reset with e := 2 } }
    let cmd := command (.copy plain 2 1 2 3) 0x9000_0000_0000_0000 0x9000_0000_0000_0020 32 7 1
    let fresh : ChCmd := { cmd with started := false, prog := 0 }
    let w (n : Nat) := (List.range n).map fun i => formOf (.chwait plain 2) 0 (20 + i)
    let s (x : Channel) (n : Nat) := withChannel x (w n)
    let one : Channel := { Channel.reset with cmds := [cmd] }
    let staged : Channel := { Channel.reset with cmds := [run] }
    let stage (a : Word) := withChannel staged [formOf (.chwaitStage plain 2 3) a 21]
    let qs : Channel := { Channel.reset with cmds := [{ fresh with i := .qrecv plain 2 1 }] }
    (after (exec (.chwait plain 2) (s { one with elems := [(0, none), (1, none)] } 0)) (fun t => (vget t.me.en.chans 2).elems.length) = some 1 ∧
      causeAfter (.chwait plain 2) (s Channel.reset 0) = some 0x12 ∧ reportOf (.chwait plain 2) (s one 3) = some .stalled ∧
      after (exec (.chwait plain 2) (s one 2)) (fun t => t.me.en.forms.length) = some 3) ∧
    (run.emissions = 2 ∧ (s staged 0).me.en.chans.toList.any (fun x => x.stagedRun.isSome) = true ∧ causeAfter (.chwaitStage plain 2 24) (s one 0) = some 0x12 ∧
      causeAfter (.chwaitStage plain 2 22) (s staged 0) = some 0x12 ∧ reportOf (.chwaitStage plain 2 0) (s staged 0) = some (s staged 0).report ∧
      after (exec (.chwaitStage plain 2 24) (s staged 0)) (fun t => (t.me.en.forms.length, (vget t.me.en.chans 2).cmds.map (·.stage))) = some (1, [1]) ∧
      reportOf (.chwaitStage plain 2 24) (s staged 3) = some .stalled) ∧
    (reportOf (.channelCommandStart 0 2) (s { one with cmds := [fresh] } 0) = some .issued ∧ reportOf (.channelCommandStart 0 2) (s one 0) = some .idle ∧
      reportOf (.channelCommandStart 0 2) (s qs 0) = some .idle ∧ reportOf (.channelCommandStart 0 2) (s Channel.reset 0) = some .idle ∧
      reportOf (.channelCommandStart 1 2) (s { one with cmds := [fresh] } 0) = some .idle) ∧
    (cmd.units = 1 ∧ reportOf (.channelCommandFinish 0 2) (s { one with cmds := [fresh] } 0) = some .idle ∧
      reportOf (.channelCommandFinish 0 2) (s { one with cmds := [{ cmd with prog := 0 }] } 0) = some .idle ∧
      reportOf (.channelCommandFinish 0 2) (s { one with faulted := true } 0) = some .idle ∧
      after (exec (.channelCommandFinish 0 2) (s { one with cmds := [{ cmd with range := some (1, 0, 32) }, fresh] } 0)) (fun t =>
        let x := vget t.me.en.chans 2
        (x.cmds, x.elems, x.wm, x.ahm)) = some ([fresh], [(0, none)], 0x9000_0000_0000_0020, 0xFFFF_FFFF_FFFF_FFFF)) ∧
    (reportOf (.chwaitFinish 0) (s one 0) = some .idle ∧ reportOf (.chwaitFinish 0) (s one 1) = some .idle ∧
      after (exec (.chwaitFinish 0) (s { one with elems := [(0, none)] } 2)) (fun t => (t.me.en.forms.length, (vget t.me.en.chans 2).elems.length)) = some (1, 0)) ∧
    (reportOf (.chwaitFinish 0) (stage 1) = some .idle ∧ after (exec (.chwaitFinish 0) (stage 0)) (fun t => t.me.en.forms.length) = some 0) := by
  refine ⟨?_, ?_, ?_, ?_, ?_, ?_⟩ <;> decide +kernel

/-- A copy across a 4 KiB boundary at its first and its second piece; a source beyond the footprint; an emission outside the tensor;
a piece in flight with its fold right, wrong once and wrong twice; a word for a receiver that runs the launch and one that does not (O33). -/
theorem witness_CopyUnits :
    let big (s : State) : State := s.onMe fun k => { k with task := k.task.map fun t => { t with footA := 0x2000 } }
    let cmd := command (.copy plain 2 1 2 3) 0x9000_0000_0000_0FF8 0x9000_0000_0000_1FE0 16 7 0
    let one : Channel := { Channel.reset with cmds := [cmd] }
    let s (x : Channel) : State := (big (withChannel x [])).onSt fun t => { t with bufA := t.bufA.writeList 0x1FE0 ((List.range 16).map fun i => BitVec.ofNat 8 (i + 1)) }
    let run : ChCmd := { command (.seqrunCopy plain 2 3 1 0) 0x9000_0000_0000_0000 4 0 7 0 with shape := shape 1 1 1 [64] [1] [16] }
    let bs := (List.range 16).map fun i => BitVec.ofNat 8 (i + 1)
    let fl (tries : Nat) : Channel := { one with flight := some { writes := [(0x9000_0000_0000_0010, bs)], pieces := [{ data := bs, fold := foldBytes foldStart bs, route := [] }], tries := tries } }
    let handling (s : State) : State := s.onMe fun k => k.onClu .a fun c => { c with inh := true, priv := true }
    let arr (x : Channel) : State := let u := s x; { u with lat := { u.lat with arrived := [.piece 0 2] } }
    let word : McWrite := { receiver := 1, start := 0, off := 8, data := bs, clasp := some 3, agent := none, done := 0, order := 7 }
    let mc (c : Core) : State := ((s one).onEn fun e => { e with mc := [word] }).setCore 1 c
    (cmd.units = 2 ∧ run.units = 1 ∧ (s one).running 0 = true ∧ (s one).overdraws 0 32 = false ∧ (s one).channelsRun = true ∧
      (s one).overdraws 0 (min (32 * ((0 + 16 - 1) / 4096 - 0 / 4096 + 1)) (256 * (s one).allowance 0)) = false ∧ (s one).me.stagesOpen run = true ∧
      (s one).me.det = false ∧ decide (s one).me.st.bufA.wf = true) ∧
    (after (exec (.copyPiece 0 ⟨2, none⟩) (s one)) (fun t => (t.me.st.bufA.readList 0xFF0 24, (vget t.me.en.chans 2).cmds.map (·.prog))) =
        some (List.replicate 8 0 ++ bs.take 8 ++ List.replicate 8 0, [1]) ∧
      after (exec (.copyPiece 0 ⟨2, none⟩) (s { one with cmds := [{ cmd with prog := 1 }] })) (fun t => t.me.st.bufA.readList 0xFF0 24) =
        some (List.replicate 16 0 ++ bs.drop 8)) ∧
    (reportOf (.copyPiece 0 ⟨2, none⟩) (s { one with cmds := [{ cmd with prog := 2 }] }) = some .idle ∧ reportOf (.sequencerEmission 0 ⟨2, none⟩) (s one) = some .idle ∧
      reportOf (.copyPiece 0 ⟨2, none⟩) (s { one with faulted := true }) = some .idle ∧ reportOf (.copyPiece 0 ⟨2, none⟩) (s (fl 0)) = some .idle) ∧
    (trapOf ((s one).readUnit { cmd with gb := 0x9000_0000_0000_1FFC }) = some (8, 0, 0x9000_0000_0000_1FFC) ∧
      after (exec (.copyPiece 0 ⟨2, none⟩) (s { one with cmds := [{ cmd with gb := 0x9000_0000_0000_1FFC }] })) (fun t =>
        ((vget t.me.en.chans 2).faulted, t.me.pend.map fun p => (p.2.cause, p.2.async))) = some (true, [(8, true)]) ∧
      after (exec (.copyPiece 0 ⟨2, none⟩) (handling (s { one with cmds := [{ cmd with gb := 0x9000_0000_0000_1FFC }] }))) (fun t =>
        ((vget t.me.en.chans 2).faulted, t.me.pend, (t.me.clu .a).tcause.toNat % 256, (t.me.clu .a).tinfo)) = some (true, [], 0x1D, 8) ∧
      after (exec (.pieceArrival 0 2 1) (handling (arr (fl 1)))) (fun t => (t.me.pend, (t.me.clu .a).tinfo)) = some ([], 0x13)) ∧
    (run.coord 0 0 = 4 ∧ after (exec (.sequencerEmission 0 ⟨2, none⟩) (s { one with cmds := [run] })) (fun t => (t.report, t.me.st.bufA.readList 0 16)) =
      some (.issued, List.replicate 16 0)) ∧
    (after (exec (.pieceArrival 0 2 0) (arr (fl 0))) (fun t => (t.me.st.bufA.readList 0x10 16, (vget t.me.en.chans 2).flight)) = some (bs, none) ∧
      after (exec (.pieceArrival 0 2 1) (arr (fl 0))) (fun t => ((vget t.me.en.chans 2).flight.map (·.tries))) = some (some 1) ∧
      after (exec (.pieceArrival 0 2 1) (arr (fl 1))) (fun t => (t.me.pend.map fun p => p.2.cause)) = some [0x13] ∧
      reportOf (.pieceArrival 0 2 0) (s (fl 0)) = some .idle) ∧
    (after (exec (.multicastArrival 0) (mc tasked)) (fun t => ((t.core 1).st.bufA.readList 8 8, (vget (vget t.quads 0).clasps 3).count,
        t.me.en.mc.map fun w => (w.off, w.data.length))) = some ([1, 2, 3, 4, 5, 6, 7, 8], 8, [(16, 8)]) ∧
      after (exec (.multicastArrival 0) (mc Core.reset)) (fun t => ((t.core 1).st.bufA.readList 8 4, t.me.en.mc)) = some ([0, 0, 0, 0], []) ∧
      reportOf (.multicastArrival 0) (s one) = some .idle) := by
  refine ⟨?_, ?_, ?_, ?_, ?_, ?_, ?_⟩ <;> decide +kernel


/-- A gather run of two rows with one QCA entry, a chunk read ahead of its piece, and a unit of two pieces whose first has arrived
(O33). -/
theorem witness_RowsChunksAndPieces :
    let run : ChCmd := { command (.seqrunGather plain 2 3 1 0) 0x9000_0000_0000_0000 0 0 7 0 with shape := shape 1 1 2 [64, 4] [1, 64] [16, 2], pops := 2 }
    let g : State := (withChannel { Channel.reset with cmds := [run] } []).onSt fun t => { t with qca := [0x22] }
    let cmd := command (.copy plain 2 1 2 3) 0x9000_0000_0000_0000 0x9000_0000_0000_0020 32 7 0
    let c : State := (withChannel { Channel.reset with cmds := [cmd] } []).onSt fun t => { t with bufA := t.bufA.writeList 0x20 [5] }
    let p : Piece := { data := [1, 2], fold := foldBytes foldStart [1, 2], route := [] }
    let two := withChannel { Channel.reset with cmds := [cmd], flight := some { writes := [(0x9000_0000_0000_0000, [1, 2, 1, 2])], pieces := [p, p], tries := 1 } } []
    let arr : State := { two with lat := { two.lat with arrived := [.piece 0 2] } }
    let x (t : State) := vget t.me.en.chans 2
    (g.me.stagesOpen run = true ∧ g.me.olderPops 7 = false ∧ run.rows.length + g.me.st.qca.length < recTile run.shape 1) ∧
    after (exec (.sequencerEmission 0 ⟨2, none⟩) g) (fun t => (t.me.st.qca, (x t).cmds.map fun c => (c.rows, c.pops))) = some ([], [([0x22], 1)]) ∧
    after (exec (.copyPiece 0 ⟨2, some 0⟩) c) (fun t => (x t).cmds.map fun c => c.early.map fun e => (e.1, e.2.take 2)) = some [[(0x9000_0000_0000_0020, [5, 0])]] ∧
    after (exec (.pieceArrival 0 2 0) arr) (fun t => (x t).flight.map fun f => (f.pieces.length, f.tries)) = some (some (1, 0)) := by decide +kernel
/-! Vectors and matrices. -/

/-- An active and an inactive lane, signed saturation at both ends, a shift count of the width; a size of each width (O34). -/
theorem witness_VectorInteger :
    let s := vecState [(1, line32 [0x7FFF_FFFF, 0x8000_0000, 5, 0x80]), (2, line32 [1, 1, 32, 0x80]), (3, line32 [9, 9, 9, 9, 9])] [(1, 0xFFF)]
    ((s.mask 1).getLsbD 8 = true ∧ (s.mask 1).getLsbD 12 = false ∧ (s.mask 0).getLsbD 63 = true) ∧
    lanesAfter (.vaddsI 3 1 2 1 2) s 3 5 = some ([0x7FFF_FFFF, 0x8000_0001, 37, 9, 9], ISAT.setWidth 64) ∧
    lanesAfter (.vsubsI 3 1 2 0 2) s 3 4 = some ([0x7FFF_FFFE, 0x8000_0000, 0xFFFF_FFE5, 0], ISAT.setWidth 64) ∧
    lanesAfter (.vshlI 3 1 2 1 2) s 3 4 = some ([0xFFFF_FFFE, 0, 0, 9], 0) ∧ lanesAfter (.vshrI 3 1 2 1 2) s 3 3 = some ([0x3FFF_FFFF, 0xC000_0000, 0], 0) ∧
    (lanesAfter (.vaddN 3 1 2 0 0) s 3 4).map (·.1) = some [0x7FFF_FF00, 0x8000_0001, 37, 0] ∧
    after (exec (.vcmpltI 2 1 2 1 2) s) (fun t => vget t.me.st.m 2) = some 0xFF0 := by
  refine ⟨?_, ?_, ?_, ?_, ?_, ?_, ?_⟩ <;> decide +kernel

/-- A selector of 127 and of 128, a mask with and without a bit, a lane extracted, and mask 0 as a destination (O35). -/
theorem witness_VectorLogic :
    let s := vecState [(1, line32 [0x0403_0201, 8]), (2, line32 [0x807F_4003])] [(1, 1)]
    (lanesAfter (.vshuf 3 1 2 0) s 3 1).map (·.1) = some [0x0000_0104] ∧ (lanesAfter (.vsel 3 1 2 1) s 3 1).map (·.1) = some [0x807F_4001] ∧
    gAfter (.vlane 4 1 1) s 4 = some 8 ∧ after (exec (.mnot 0 1) s) (fun t => t.me.st.mReg 0) = some 0xFFFF_FFFF_FFFF_FFFF := by
  refine ⟨?_, ?_, ?_, ?_⟩ <;> decide +kernel

/-- A NaN, opposite infinities, an infinity, zeros of both signs, a sum that cancels, and one that rounds; zero times infinity and
a product of two finite values; and a fused sum whose product is not rounded (O36). -/
theorem witness_VectorFloat :
    let s := vecState [(1, line32 [0x7FC0_0001, 0x7F80_0000, 0x7F80_0000, 0x8000_0000, 0x3F80_0000, 0x3F80_0000, 0x3F80_0001]),
      (2, line32 [0, 0xFF80_0000, 0, 0x8000_0000, 0xBF80_0000, 0x3380_0000, 0x3F80_0001]), (3, line32 [0, 0, 0, 0, 0, 0, 0xBF80_0002])] []
    (f32.read 0x7FC0_0001 = .nan ∧ f32.read 0xFF80_0000 = .inf true ∧ f32.read 0x8000_0000 = .fin true 0 (-149)) ∧
    (f32.read 0x3F80_0000).rat + (f32.read 0xBF80_0000).rat = 0 ∧
    lanesAfter (.vaddF 4 1 2 0 0) s 4 7 = some ([0x7FC0_0000, 0x7FC0_0000, 0x7F80_0000, 0x8000_0000, 0, 0x3F80_0000, 0x4000_0001],
      INV.setWidth 64) ∧
    (lanesAfter (.vmulF 4 1 2 0 0) s 4 7).map (·.1) = some [0x7FC0_0000, 0xFF80_0000, 0x7FC0_0000, 0, 0xBF80_0000, 0x3380_0000, 0x3F80_0002] ∧
    (lanesAfter (.vfma 3 1 2 0 0) s 3 7).map (·.1) = some [0x7FC0_0000, 0xFF80_0000, 0x7FC0_0000, 0, 0xBF80_0000, 0x3380_0000, 0x2880_0000] := by
  refine ⟨?_, ?_, ?_, ?_, ?_⟩
  · decide +kernel
  · rw [show f32.read 0x3F80_0000 = .fin false (2 ^ 23) (-23) from by decide +kernel,
      show f32.read 0xBF80_0000 = .fin true (2 ^ 23) (-23) from by decide +kernel]
    norm_num [Val.rat]
  all_goals decide +kernel

/-- A NaN, zeros, infinities, negative operands, and operands with exact results (O37). -/
theorem witness_SpecialFunctions :
    let s := vecState [(1, line32 [0x7FC0_0001, 0, 0xFF80_0000, 0xBF80_0000, 0x4040_0000])] [(1, 0xF_FFFF)]
    let t := vecState [(1, line32 [0x7FC0_0001, 0x8000_0000, 0x7F80_0000, 0xC080_0000, 0x4080_0000])] [(1, 0xF_FFFF)]
    lanesAfter (.vexp2 4 1 1) s 4 6 = some ([0x7FC0_0000, 0x3F80_0000, 0, 0x3F00_0000, 0x4100_0000, 0], 0) ∧
    lanesAfter (.vlog2 4 1 1) t 4 5 = some ([0x7FC0_0000, 0xFF80_0000, 0x7F80_0000, 0x7FC0_0000, 0x4000_0000], INV.setWidth 64) ∧
    lanesAfter (.vrcp 4 1 1) t 4 5 = some ([0x7FC0_0000, 0xFF80_0000, 0, 0xBE80_0000, 0x3E80_0000], 0) ∧
    lanesAfter (.vrsq 4 1 1) t 4 5 = some ([0x7FC0_0000, 0xFF80_0000, 0, 0x7FC0_0000, 0x3F00_0000], INV.setWidth 64) ∧
    lanesAfter (.vtanh 4 1 1) { t with cur := t.cur } 4 3 = some ([0x7FC0_0000, 0x8000_0000, 0x3F80_0000], 0) := by
  refine ⟨?_, ?_, ?_, ?_, ?_⟩ <;> decide +kernel

/-- A NaN, both infinities, one infinity, only zeros of one sign and of both, a sum that cancels, one that rounds, and no lane (O38). -/
theorem witness_Reductions :
    let s (l : List Nat) (m : Word) := vecState [(2, line32 l)] [(1, m)]
    let sum (l : List Nat) (m : Word) := (lanesAfter (.vrsum 5 2 1) (s l m) 5 1)
    sum [0x7FC0_0001, 0x7F80_0000] 0xFF = some ([0x7FC0_0000], 0) ∧ sum [0x7F80_0000, 0xFF80_0000] 0xFF = some ([0x7FC0_0000], INV.setWidth 64) ∧
    sum [0x7F80_0000, 1] 0xFF = some ([0x7F80_0000], 0) ∧ sum [0x8000_0000, 0x8000_0000] 0xFF = some ([0x8000_0000], 0) ∧
    sum [0x8000_0000, 0] 0xFF = some ([0], 0) ∧ sum [0x3F80_0000, 0xBF80_0000] 0xFF = some ([0], 0) ∧ sum [1] 0 = some ([0], 0) ∧
    sum [0x3F80_0000, 0x3380_0000] 0xFF = some ([0x3F80_0000], 0) ∧
    (lanesAfter (.vrmax 5 2 1) (s [1] 0) 5 2).map (·.1) = some [0xFFFF_FFFF, 0] ∧ (lanesAfter (.vrmin 5 2 1) (s [1] 0) 5 2).map (·.1) = some [0x7FFF_FFFF, 0] ∧
    (lanesAfter (.vrmin 5 2 1) (s [0, 0x8000_0000] 0xFF) 5 1).map (·.1) = some [0x8000_0000] := by
  refine ⟨?_, ?_, ?_, ?_, ?_, ?_, ?_, ?_, ?_, ?_, ?_⟩ <;> decide +kernel

/-- Codes at both ends of the decoder's set; a widening under a mask, a clamp and a cut of integers, a NaN and an infinity into
integers, and a stochastic rounding that draws for its active lanes (O39). -/
theorem witness_Vcvt :
    let s := vecState [(1, line32 [0x8081_7F01]), (2, line32 [0x7FC0_0001, 0xFF80_0000, 0x4380_0000, 0x3F80_0001]), (3, line32 [9, 9, 9])] [(1, 0xFF)]
    (1 ≤ (12 : BitVec 4).toNat ∧ (12 : BitVec 4).toNat ≤ 12 ∧ ¬ ((12 : BitVec 4) = 4 ∧ (2 : BitVec 2) = 2) ∧ ¬ ((4 : BitVec 4) = 4 ∧ (1 : BitVec 2) = 2)) ∧
    (lanesAfter (.vcvt 3 1 8 9 0 1 1) s 3 3).map (·.1) = some [1, 127, 9] ∧
    lanesAfter (.vcvt 3 2 9 7 0 1 0) s 3 2 = some ([0x01FF_0000, 0], (INV ||| ISAT).setWidth 64) ∧
    (lanesAfter (.vcvt 3 2 9 8 0 0 0) s 3 1).map (·.1) = some [0x0100_0001] ∧
    after (exec (.vcvt 3 2 6 7 2 0 1) s) (fun t => t.cl.srctr - s.cl.srctr) = some 4 := by
  refine ⟨?_, ?_, ?_, ?_, ?_⟩ <;> decide +kernel
/-- The device of `paged` with its vector cluster executing. -/
def vectors (l : List (Nat × Word)) : State :=
  let s := paged []
  { s.onMe fun k => k.onClu .v fun c => { c with g := file l } with cur := { core := s.cur.core, clu := .v } }

/-- Each check failing with none before it, a register of each kind at the two ends of its footprint, three unfinished forms and two,
an earlier form on the same bytes; and each form finishing, or held by an empty or a full queue (O40). -/
theorem witness_VectorMemory :
    let s := vectors [(1, 0x9000_0000_0000_0000), (2, 0x7000_0000_0000_0000), (3, 0x9000_0000_0000_0020), (4, 0x8000_0000_0000_0000), (5, 0xB000_0000_0000_0000)]
    let form (i : Instr) (a : Word) (n : Nat) : Form := { i := i, w0 := 0, w1 := 0, clu := .v, addr := a, mask := 1, data := 5, parts := 0, order := n, after := 0, handler := false }
    let w (fs : List Form) : State := s.onEn fun e => { e with forms := fs }
    let vld : Instr := .vld plain 2 1 0 0
    let q (qav qva : List Line) (fs : List Form) : State := (w fs).onSt fun t => { t with qav := qav, qva := qva, bufA := t.bufA.writeList 0 [7, 8] }
    let c (i : Instr) := causeAfter i s
    let count (i : Instr) (s : State) := after (exec i s) fun t => t.me.en.forms.length
    (c (.vld plain 2 2 0 0) = some 8 ∧ c (.vld plain 2 3 0 0) = some 9 ∧ c (.vld plain 2 1 1 0) = some 8 ∧ c (.vld plain 2 5 0 0) = some 0xA ∧
      c (.vst plain 2 4 0 0) = some 0xA ∧ c (.vld plain 2 0 0 0) = some 8) ∧
    (count vld s = some 1 ∧ count (.vld plain 2 4 0 0) s = some 1 ∧ count (.vst plain 2 1 0 0) s = some 1 ∧ count (.vqpop plain 2 0) s = some 1 ∧
      count (.vqpush plain 2 0) s = some 1) ∧
    (reportOf vld (w ((List.range 3).map fun n => form (.vqpop plain 2 0) 0 n)) = some .stalled ∧
      count vld (w ((List.range 2).map fun n => form (.vqpop plain 2 0) 0 n)) = some 3 ∧
      reportOf vld (w [form vld 0x9000_0000_0000_0000 0]) = some .stalled ∧ count vld (w [form vld 0x8000_0000_0000_0000 0]) = some 2) ∧
    (let u := q [0x0201] [] [form vld 0x9000_0000_0000_0000 0]
     reportOf (.vectorFormFinish 1 ⟨.v, 0⟩) u = some .idle ∧ reportOf (.vectorFormFinish 0 ⟨.c, 0⟩) u = some .idle ∧
      after (exec (.vectorFormFinish 0 ⟨.v, 0⟩) u) (fun t => (vget t.me.st.v 2, t.me.en.forms.length)) = some (7, 0) ∧
      after (exec (.watermarkRelease 0 .v) u) (fun t => vget t.me.st.v 2) = some 7) ∧
    (after (exec (.vectorFormFinish 0 ⟨.v, 0⟩) (q [] [] [form (.vst plain 2 1 0 0) 0x9000_0000_0000_0000 0])) (fun t => t.me.st.bufA.readList 0 2) = some [5, 8] ∧
      after (exec (.vectorFormFinish 0 ⟨.v, 0⟩) (q [0x0201] [] [form (.vqpop plain 2 0) 0 0])) (fun t => (vget t.me.st.v 2, t.me.st.qav)) = some (1, []) ∧
      after (exec (.vectorFormFinish 0 ⟨.v, 0⟩) (q [] [9] [form (.vqpush plain 2 0) 0 0])) (fun t => t.me.st.qva) = some [9, 5] ∧
      reportOf (.vectorFormFinish 0 ⟨.v, 0⟩) (q [] [] [form (.vqpop plain 2 0) 0 0]) = some .idle ∧
      reportOf (.vectorFormFinish 0 ⟨.v, 0⟩) (q [] (List.replicate 32 9) [form (.vqpush plain 2 0) 0 0]) = some .idle) := by
  refine ⟨?_, ?_, ?_, ?_, ?_⟩ <;> decide +kernel
/-- Core 0 with 4 KiB of A, two accumulators, 512 bytes of S, tile shapes, format words and registers; its matrix cluster executes. -/
def matrix (fq : List Word32) (l : List (Nat × Word)) : State :=
  let s := paged []
  let sh (r c t : Nat) : Word := BitVec.ofNat 64 (r + c * 2 ^ 7 + t * 2 ^ 16)
  let tsh := [sh 32 32 5, sh 32 32 5, sh 2 4 3, sh 4 2 3, sh 2 4 0, sh 2 4 9].zipIdx.foldl (fun v e => vset v (Fin.ofNat 16 e.2) e.1) Storage.reset.tsh
  let t := { placedTask with footW := 4096, footA := 4096, footC := 8192, footS := 512 }
  { s.onMe fun k => { k.onClu .m fun c => { c with g := file l } with task := some t, st := { k.st with tsh := tsh, fq := fq } } with
    cur := { core := s.cur.core, clu := .m } }

/-- Addresses of matrix forms. -/
def matrixRegs : List (Nat × Word) :=
  [(1, 0x9000_0000_0000_0000), (2, 0x4000_0000_0000_0000), (3, 0x9000_0000_0000_0020), (4, 0x9000_0000_0000_0FC0), (5, 0xB000_0000_0000_0000),
   (6, 0x2000_0700_0000_0000), (7, 0x100_0000_0100), (8, 0x1000_0100_0000_0100), (9, 0x100_0003_0000), (10, 0x100_0001_0000), (11, 512), (12, 8), (13, 6),
   (14, 0x8000_0000_0000_0000), (15, 0x9000_0000_0000_0040)]

/-- An oldest queued command on a core 0 like that of `matrix`. -/
def mcmd (i : Instr) (fmt : Word32) (g : Word) (order : Nat) : MCmd :=
  let s := matrix [] []
  { i := i, w0 := 0, w1 := 0, fmt := fmt, g := g, shA := vget s.me.st.tsh 2, shB := vget s.me.st.tsh 3, places := [], groups := 0, order := order, after := 0 }

/-- A full and a not full word queue; a guard, a stamp before and at its tick, a set, an empty queue; each check failing with none
before it; a full command queue, a stamped form behind a command; words of the three classes (O41). -/
theorem witness_MatrixForms :
    let s (w : Word32) := matrix [w] matrixRegs
    let e := matrix [] matrixRegs
    let z : Instr := .tzero plain 2
    let full (n : Nat) : State := e.onEn fun x => { x with mq := List.replicate n (mcmd z 0 0 0) }
    let c (i : Instr) := causeAfter i e
    let cw (i : Instr) (w : Word32) := causeAfter i (s w)
    let queued (i : Instr) (s : State) := after (exec i s) fun t => (t.me.en.mq.length, t.me.st.fq.length)
    (after (exec (.fmtw plain 12) (matrix (List.replicate 15 0) matrixRegs)) (fun t => t.me.st.fq.length) = some 16 ∧
      reportOf (.fmtw plain 12) (matrix (List.replicate 16 0) matrixRegs) = some .stalled) ∧
    (e.me.det = false ∧ e.me.en.emul = none ∧ queued (.tzero { plain with guard := 1 } 2) e = some (0, 0) ∧ reportOf (.tzero stamped 2) e = some .stalled ∧
      after (exec (.tzero stamped 2) { e with cadence := 1 }) (fun t => t.me.en.mrun.length) = some 1 ∧ reportOf (.tzero { plain with wait := 1 } 2) e = some .stalled ∧
      c (.tmma plain 0 0 1) = some 0xD) ∧
    (queued z (full 7) = some (8, 0) ∧ reportOf z (full 8) = some .stalled ∧ reportOf (.tzero stamped 2) { full 1 with cadence := 1 } = some .stalled) ∧
    (c (.tld plain 4 1) = some 0xF ∧ c (.tld plain 2 2) = some 8 ∧ c (.tld plain 2 3) = some 9 ∧ c (.tld plain 2 4) = some 8 ∧ c (.tld plain 2 5) = some 0xA ∧
      c (.tld plain 2 6) = some 8 ∧ (c (.tld plain 2 9)).isSome = true ∧ queued (.tld plain 2 7) e = some (1, 0) ∧ queued (.tld plain 2 1) e = some (1, 0)) ∧
    (c (.tst plain 2 14) = some 0xA ∧ c (.tst plain 2 6) = some 0xB ∧ c (.tst plain 2 8) = some 8 ∧ queued (.tst plain 2 15) e = some (1, 0) ∧
      c (.tqld plain 4) = some 0xF ∧ queued (.tqld plain 2) e = some (1, 0)) ∧
    (c (.ttrans plain 2 2) = some 0xF ∧ queued (.ttrans plain 2 3) e = some (1, 0) ∧ c (.tcvt plain 2 3 0) = some 0xF ∧ queued (.tcvt plain 2 2 2) e = some (1, 0)) ∧
    (mmaWord 0x5500_0000 false = .hard ∧ mmaWord 0x9900_0000 false = .emulated ∧ mmaWord 0x5500_0001 false = .invalid ∧
      cw (.tmma plain 0 0 2) 0x5500_0000 = some 0xF ∧ cw (.tmma plain 2 0 1) 0x5500_0000 = some 8 ∧ queued (.tmma plain 1 0 1) (s 0x5500_0000) = some (1, 0)) ∧
    (after (exec (.tmma plain 0 0 1) (s 0x5500_0001)) (fun t => (t.report, t.me.en.emul.isSome, t.me.pend.map fun p => p.2.cause)) =
      some (.trapped, true, [0x1C])) ∧
    (after (exec (.tcvt plain 2 5 0) e) (fun t => t.me.pend.map fun p => p.2.cause) = some [0x1C]) ∧
    (cw (.tmmas plain 0 0 1 11) 0x5500_0000 = some 8 ∧ queued (.tmmas plain 0 0 1 0) (s 0x5500_0000) = some (1, 0)) ∧
    (drainWord 0x0007_0000 = .hard ∧ cw (.tdrain plain 10 2) 0x0007_0000 = some 8 ∧ queued (.tdrain plain 1 0) (s 0x0007_0000) = some (1, 0) ∧
      cw (.tdrainadd plain 1 0 0) 0x0005_0000 = some 0xE ∧ cw (.tdrainadd plain 15 0 0) 0x0007_0000 = some 9 ∧
      cw (.tdrainadd plain 10 0 0) 0x0007_0000 = some 8 ∧ queued (.tdrainadd plain 1 0 0) (s 0x0007_0000) = some (1, 0)) ∧
    (queued (.hmrd plain 2 0) e = some (1, 0) ∧ queued (.hmclr plain 0) e = some (1, 0)) := by
  refine ⟨?_, ?_, ?_, ?_, ?_, ?_, ?_, ?_, ?_, ?_, ?_, ?_⟩ <;> decide +kernel

/-- A stamped form at its tick with an absent token or too few QAM entries, LATE clear and set; paths that R141's first check refuses
before alignment (O41). -/
theorem witness_LateForms :
    let e : State := { matrix [] (matrixRegs ++ [(16, 0xF000_0000_0000_0001), (17, 0xD000_0000_0000_0001)]) with cadence := 1 }
    let late : State := e.onMe fun k => { k with st := { k.st with stampc := 1 } }
    let waits : Instr := .tzero { stamped with wait := 1 } 2
    (e.me.det = false ∧ e.me.en.emul = none ∧ e.setsReady { stamped with wait := 1 } = false ∧ ¬ e.cadence < e.old.st.stampb + stamped.stamp.setWidth 64) ∧
    (let m := { e.onCl fun c => { c with stampSeen := some true } with cadence := 2 }
     m.missedStamp stamped = true ∧ e.missedStamp stamped = false ∧ causeAfter (.tzero stamped 2) m = some 0x10) ∧
    (causeAfter waits e = some 0x10 ∧ causeAfter (.tqld stamped 2) e = some 0x10) ∧
    (after (exec waits late) (fun t => (t.report, t.cl.stampSeen)) = some (.stalled, some true) ∧
      after (exec (.tqld stamped 2) late) (fun t => (t.report, t.cl.stampSeen)) = some (.stalled, some true)) ∧
    (causeAfter (.tld plain 2 16) e = some 8 ∧ causeAfter (.tld plain 2 17) e = some 8) := by
  refine ⟨?_, ?_, ?_, ?_, ?_⟩ <;> decide +kernel
/-- A run of a command that stands in a phase, over n words of zero. -/
def runOf (c : MCmd) (p : MPhase) (fP fS : Word) (n : Nat := 4) : MRun :=
  { cmd := c, phase := p, words := List.replicate n 0, scales := [], foldP := fP, foldS := fS, flags := 4, key := 0, ctr := 0, part := none }

/-- A core like that of `matrix` with one queued command and some stored bytes. -/
def queuedCmd (c : MCmd) : State :=
  (matrix [] []).onMe fun k => { k with en := { k.en with mq := [c] }
                                        st := { k.st with bufA := k.st.bufA.writeList 0 [1, 2, 3, 4], qam := [0x0807_0605, 3],
                                                          tiles := vset k.st.tiles 3 ((Memory.empty.writeList 0 [5, 6]).writeList 64 [7, 8]) } }

/-- No queued command, a core that does not run, a terminated one; a tile locked; and each command alone in the queue, able to start
with its bytes sound, and what it leaves (O42). -/
theorem witness_StartedMatrix :
    let go (c : MCmd) (f : State → List Byte) := after (exec (.matrixCommandStart 0 [] []) (queuedCmd c)) fun t => (t.report, f t)
    let tile (t : State) : List Byte := (vget t.me.st.tiles 2).readList 0 4
    let m (i : Instr) (g : Word) := mcmd i 0 g 0
    let can (c : MCmd) : Bool := ((queuedCmd c).at_ 0 .m).canStart 0 c && !(queuedCmd c).me.st.cmdPoisoned c && (queuedCmd c).running 0
    let z := m (.tzero plain 3) 0
    let locked := (queuedCmd (m (.tld plain 2 7) 0x100_0000_0100)).onEn fun e =>
      { e with mrun := [runOf (mcmd (.tdrain plain 7 0) 0 0x100_0000_0100 0) .held 0 0] }
    (reportOf (.matrixCommandStart 1 [] []) (queuedCmd z) = some .idle ∧ reportOf (.matrixCommandStart 0 [] []) (matrix [] []) = some .idle ∧
      reportOf (.matrixCommandStart 0 [] []) ((queuedCmd z).onMe fun k => { k with restoring := true }) = some .idle) ∧
    (can z && can (m (.ttrans plain 2 3) 0) && can (m (.tcvt plain 2 2 2) 0) && can (m (.tld plain 2 1) 0x9000_0000_0000_0000) &&
      can (m (.tst plain 3 1) 0x9000_0000_0000_0040) && can (m (.tqld plain 2) 0) && can (m (.hmrd plain 4 47) 0) && can (m (.hmclr plain 47) 0) &&
      can (m (.tmma plain 1 0 1) 0) && can (m (.tmmas plain 0 0 1 0) 0) && can (m (.tdrain plain 1 0) 0x9000_0000_0000_0000) &&
      can (m (.tdrainadd plain 1 0 0) 0x9000_0000_0000_0000)) = true ∧
    (shRows (vget (matrix [] []).me.st.tsh 3) ≤ 32 ∧ shBytes (vget (matrix [] []).me.st.tsh 3) ≤ 64) ∧
    (go z (fun t => (vget t.me.st.tiles 3).readList 0 2) = some (.issued, [0, 0]) ∧ go (m (.ttrans plain 2 3) 0) tile = some (.issued, [5, 7, 0, 0]) ∧
      go (m (.tld plain 2 1) 0x9000_0000_0000_0000) tile = some (.issued, [1, 2, 3, 4]) ∧
      go (m (.tst plain 3 1) 0x9000_0000_0000_0000) (fun t => t.me.st.bufA.readList 0 6) = some (.issued, [5, 6, 0, 0, 0, 0]) ∧
      go (m (.tqld plain 2) 0) tile = some (.issued, [5, 6, 7, 8])) ∧
    (after (exec (.matrixCommandStart 0 [] []) (queuedCmd (m (.hmrd plain 4 47) 0))) (fun t => ((t.me.clu .m).gReg 4, (t.me.clu .m).gReg 5)) =
        some (0xFFFF_FFFF_FFFF_FFFF, 0xFFFF_FFFF_FFFF_FFFF) ∧
      after (exec (.matrixCommandStart 0 [] []) (queuedCmd (m (.tdrain plain 1 0) 0x9000_0000_0000_0000))) (fun t => t.me.en.mrun.map (·.phase)) = some [.held]) ∧
    (((locked.at_ 0 .m).canStart 0 (m (.tld plain 2 7) 0x100_0000_0100)) = false ∧ reportOf (.matrixCommandStart 0 [] []) locked = some .idle) := by
  refine ⟨?_, ?_, ?_, ?_, ?_, ?_⟩ <;> decide +kernel

/-- A core like that of `matrix` with some runs. -/
def withRuns (l : List MRun) : State :=
  (matrix [] []).onEn fun e => { e with mrun := l, assays := (l.filter fun r => r.phase == .mismatch).map (·.cmd.order) }

/-- Folds that agree and that do not, a pending and a running assay, its verdict for either engine and for neither, a drain that is
ready, two converters that disagree with a third that agrees with neither, a finished command, and none of these (O43). -/
theorem witness_Certify :
    let c := { mcmd (.tzero plain 2) 0x3300_0000 0 0 with groups := 1 }
    let mma : MCmd := { c with i := .hmclr plain 5 }
    let dr := mcmd (.tdrain plain 1 5) 0x0047_0000 0x9000_0000_0000_0000 3
    let same := foldWords (List.replicate 4 (0 : Word32))
    let acc (p : MPhase) (a b : Word) := withRuns [runOf mma p a b, runOf dr .held 0 0]
    let aft (i : Instr) (s : State) := after (exec i s) fun t => (t.report, t.me.en.mrun.map (·.phase), t.me.rg.aflags)
    (mma.acc = 5 ∧ mma.tiles = [] ∧ dr.acc = 5) ∧
    (aft (.hallmarkCompare 0 5) (acc .uncompared 7 7) = some (.issued, [.done, .held], 4) ∧
      aft (.hallmarkCompare 0 5) (acc .uncompared 7 8) = some (.issued, [.mismatch, .held], 0) ∧
      reportOf (.hallmarkCompare 0 4) (acc .uncompared 7 7) = some .idle) ∧
    (aft (.assayStart 0) (acc .mismatch 7 8) = some (.issued, [.assay, .held], 0) ∧ reportOf (.assayStart 0) (acc .assay 7 8) = some .idle ∧
      reportOf (.assayStart 0) (withRuns [runOf mma .mismatch 7 8, runOf mma .assay 7 8]) = some .idle) ∧
    (aft (.assayVerdict 0 []) (acc .assay same 8) = some (.issued, [.done, .held], 4) ∧ reportOf (.assayVerdict 0 []) (acc .mismatch 7 8) = some .idle) ∧
    aft (.assayVerdict 0 []) (acc .assay 8 same) = some (.issued, [.done, .held], 4) ∧
    after (exec (.assayVerdict 0 []) (acc .assay 7 8)) (fun t => (t.me.en.mrun.length, t.me.term.isSome, t.me.rg.dpstat.toNat / 2 ^ 48)) =
      some (0, true, 0x8000 + 3 * 0x1000 + 5) ∧
    (aft (.matrixCommandFinish 0) (acc .done 7 7) = some (.issued, [.held], 4) ∧ reportOf (.matrixCommandFinish 0) (acc .uncompared 7 7) = some .idle) ∧
    (releasable [runOf dr .held 0 0] (runOf dr .held 0 0) = true ∧ releasable [runOf { mma with i := .tmma plain 5 0 1 } .uncompared 7 7] (runOf dr .held 0 0) = false) := by
  refine ⟨?_, ?_, ?_, ?_, ?_, ?_, ?_, ?_⟩ <;> decide +kernel

theorem upset_none (l : List Word32) : upsetWords l [] = l := rfl

/-- An accumulator's 1,024 words whose fold is the primary engine's, or is not (O43). -/
theorem witness_Verdict (c : MCmd) :
    let r (x : Word) := runOf c .assay (foldWords (List.replicate 1024 0) + x) 0 1024
    (r 0).words.length = 1024 ∧ foldWords (upsetWords (r 0).words []) = (r 0).foldP ∧ foldWords (upsetWords (r 1).words []) ≠ (r 1).foldP := by
  refine ⟨List.length_replicate, ?_, ?_⟩
  · rw [upset_none]
    exact (BitVec.add_zero _).symm
  · rw [upset_none]
    exact fun h => absurd (left_eq_add.mp h) (by decide)
/-! Events. -/

/-- A cluster's next bundle is one instruction that may issue, and a check of it holds. -/
def nextIs (s : State) (k : Fin 768) (x : Clu) (check : Part → State → Fetched → Bool) : Bool :=
  match (s.at_ k x).nextBundle with
  | .ok (v, f) =>
    match decodeBundle x f with
    | .ok [p] => (s.at_ k x).canIssue k x && wellFormed p.i && !(v.core k).interlocked x p.i && decide (∀ l, vget v.cl.lpc l = 0) && check p v f
    | _ => false
  | .error _ => false

theorem next_of {s : State} {k : Fin 768} {x : Clu} {check : Part → State → Fetched → Bool} (h : nextIs s k x check = true) :
    ∃ p v f, NextIs s k x p v f ∧ check p v f = true := by
  unfold nextIs at h
  split at h
  · next v f e =>
    split at h
    · next p e' =>
      simp only [Bool.and_eq_true, decide_eq_true_eq, Bool.not_eq_true'] at h
      exact ⟨p, v, f, ⟨h.1.1.1.1, e, e', h.1.1.1.2, h.1.1.2, h.1.2⟩, h.2⟩
    · cases h
  · cases h

/-- The words of an instruction as the only bundle of a chain. -/
def alone (i : Instr) (sync : Bool := false) : State := program (encode sync true i)

/-- The executing cluster of `alone` with some registers. -/
def aloneWith (i : Instr) (l : List (Nat × Word)) (f : Task → Task := id) : State :=
  let s := (alone i).onCl fun c => { c with g := file l }
  s.onMe fun k => { k with task := k.task.map f }

/-- A task with a strand of each role. -/
def strandTask (e : Word) (t : Task) : Task := { t with strands := vset (Vector.replicate 16 0) 3 e }

/-- A cluster that may not issue; a NOP, a SWFILL with and without a filled bead, a CLWAIT that passes and that does not, an LDGE at
its threshold and below it; and a charge that overdraws (O44). -/
theorem witness_HeldBundles :
    let n : Word := 0x0000_4204_0000_2000
    let fill (z : Strand) : State := (aloneWith (.swfill 3 5) [] (strandTask n)).onMe fun k => { k with st := { k.st with strands := vset k.st.strands 3 z } }
    let full : Strand := { claimed := 1, filled := 1, taken := 0, freed := 0 }
    let wait (c : Nat) : State := (aloneWith (.clwait 1 0) [(1, 255)]).onQuad 0 fun q => { q with clasps := vset q.clasps 255 { count := BitVec.ofNat 32 c, expect := 2 } }
    let ge (b : Word) : State := let s := aloneWith (.ldge 5 1 2) [(1, 0x2000_0700_0000_0008), (2, b)]; { s with lat := { s.lat with tables := [table 1] } }
    let plainNext (s : State) (x : Clu) (f : Part → Bool) : Prop := ∃ p v g, NextIs s 0 x p v g ∧ (f p && !g.sync && !v.overdraws 0 1) = true
    ((alone .nop).canIssue 0 .c = true ∧ (alone .nop).canIssue 0 .m = false ∧ reportOf (.stalledBundleIssue 0 .m) (alone .nop) = some .idle) ∧
    plainNext (alone .nop) .c (fun p => p.i = .nop) ∧ plainNext (fill full) (fill full).cur.clu (fun p => p.i = .swfill 3 5) ∧
    plainNext (wait 2) (wait 2).cur.clu (fun p => p.i = .clwait 1 0) ∧ plainNext (ge 0) (ge 0).cur.clu (fun p => p.i = .ldge 5 1 2) ∧
    (reportOf (.stalledBundleIssue 0 .c) (alone .nop) = some .issued ∧ reportOf (.strandWaitEnd 0 .c) (alone .nop) = some .idle ∧
      after (exec (.strandWaitEnd 0 (fill full).cur.clu) (fill full)) (fun t => (t.strand 0 3).taken) = some 1 ∧
      reportOf (.strandWaitEnd 0 (fill full).cur.clu) (fill { full with filled := 0 }) = some .idle ∧
      reportOf (.claspWaitPass 0 (wait 2).cur.clu) (wait 2) = some .issued ∧ reportOf (.claspWaitPass 0 (wait 2).cur.clu) (wait 1) = some .idle ∧
      after (exec (.latticeWaitPass 0 (ge 0).cur.clu) (ge 0)) (fun t => t.cl.gReg 5) = some 0 ∧ reportOf (.latticeWaitPass 0 (ge 0).cur.clu) (ge 1) = some .idle) ∧
    ((alone .nop).overdraws 0 (256 * (alone .nop).allowance 0) = false ∧ (alone .nop).overdraws 0 (256 * (alone .nop).allowance 0 + 1) = true) := by
  refine ⟨?_, next_of ?_, next_of ?_, next_of ?_, next_of ?_, ?_, ?_⟩ <;> decide +kernel

/-- A wait as old as its timeout and one tick older, with a timeout of zero, none; a clasp below and at its expectation; a cell
below and at its threshold (O45). -/
theorem witness_Timeouts :
    let aged (s : State) (tick : Nat) (limit : Word) : State := { s.onCl fun c => { c with waitSince := some (10, limit) } with cadence := BitVec.ofNat 64 tick }
    let wait (c tick : Nat) : State := aged ((aloneWith (.clwait 1 0) [(1, 255)]).onQuad 0 fun q =>
      { q with clasps := vset q.clasps 255 { count := BitVec.ofNat 32 c, expect := 2 } }) tick 5
    let ge (b : Word) (tick : Nat) : State := aged (let s := aloneWith (.ldge 5 1 2) [(1, 0x2000_0700_0000_0008), (2, b)]; { s with lat := { s.lat with tables := [table 1] } }) tick 5
    let is (s : State) (i : Instr) : Prop := ∃ p v g, NextIs s 0 s.cur.clu p v g ∧ (decide (p.i = i) && !g.sync) = true
    is (wait 1 16) (.clwait 1 0) ∧ is (ge 1 16) (.ldge 5 1 2) ∧
    (10 + (5 : Word).toNat < (wait 1 16).cadence.toNat ∧ ¬ 10 + (5 : Word).toNat < (wait 1 15).cadence.toNat) ∧
    (reportOf (.claspTimeout 0 (wait 1 16).cur.clu) (wait 1 15) = some .idle ∧ reportOf (.claspTimeout 0 (wait 1 16).cur.clu) (wait 2 16) = some .idle ∧
      (let kept (b : Word) := (wait 1 16).onCl fun c => { c with claspKept := some (b, 255) }
       reportOf (.claspTimeout 0 (wait 1 16).cur.clu) ((wait 1 16).onCl fun c => { c with claspWait := some (255, true) }) = some .idle ∧
        reportOf (.claspTimeout 0 (wait 1 16).cur.clu) (kept pc0) = some .idle ∧
        reportOf (.claspTimeout 0 (wait 1 16).cur.clu) (kept (pc0 + 4)) = some .trapped) ∧
      after (exec (.claspTimeout 0 (wait 1 16).cur.clu) (wait 1 16)) (fun t => (t.me.clu (wait 1 16).cur.clu).tcause.toNat % 256) = some 0x15) ∧
    (reportOf (.latticeTimeout 0 (ge 1 16).cur.clu) (ge 1 15) = some .idle ∧ reportOf (.latticeTimeout 0 (ge 1 16).cur.clu) (ge 0 16) = some .idle ∧
      after (exec (.latticeTimeout 0 (ge 1 16).cur.clu) (ge 1 16)) (fun t => (t.me.clu (ge 1 16).cur.clu).tcause.toNat % 256) = some 0x16) ∧
    (reportOf (.claspTimeout 0 (wait 1 16).cur.clu) (aged (wait 1 16) 16 0) = some .idle ∧ reportOf (.latticeTimeout 0 (wait 1 16).cur.clu) (wait 1 16) = some .idle) := by
  refine ⟨next_of ?_, next_of ?_, ?_, ?_, ?_, ?_⟩ <;> decide +kernel

/-- A stamped TZERO one tick before its stamp and at it; a true and a false guard; LATE clear and set; four clusters at sync bundles
and one that is not; a pending trap, in a handler and outside; a save request as old as HTMO and one tick older; a grant within
budget, beyond it, hot and short of current (O46). -/
theorem witness_StampsAndGrants :
    let z := alone (.tzero stamped 2)
    let at_ (s : State) (tick : Nat) (stampc : Word) : State := { s.onMe fun k => { k with st := { k.st with stampc := stampc } } with cadence := BitVec.ofNat 64 tick }
    let meeting (a v : Instr) : State :=
      let s := (alone .nop true).onQuad 0 fun q => { q with clasps := vset q.clasps 255 { count := 2, expect := 2 } }
      let is (j : Nat) : Instr := if j = 1 then a else if j = 2 then v else .nop
      let bytes := (List.range 4).flatMap fun j => leBytes (2 ^ 29 + j * 2 ^ 30) 4 ++ leBytes ((encode true true (is j)).headD 0) 4 ++ leBytes 0 56
      { s.onMe fun k => { k with cl := Vector.ofFn fun i : Fin 4 => { k.clu .c with g := file [(1, 255)], pc := pc0 + BitVec.ofNat 64 (64 * i.val) } } with
        ms := { s.ms with main := s.ms.main.writeList (8 * 65536) bytes } }
    let four := meeting .nop .nop
    -- CLINIT on A takes from CLWAIT on V what it waits for
    let cross := meeting (.clinit 1 0) (.clwait 1 0)
    let one : State := four.onMe fun k => k.onClu .v fun c => { c with pc := 0x100_0000_0040 }
    let is (s : State) (x : Clu) (i : Instr) (sync : Bool) : Prop := ∃ p v g, NextIs s 0 x p v g ∧ (decide (p.i = i) && g.sync == sync && !v.cl.inh && !v.overdraws 0 4) = true
    let tr : Trap := { clu := .c, cause := 0x1C, detail := 0, async := true, addr := 0, info := 0 }
    let pend : State := (alone .nop).onMe fun k => { k with pend := [(.v, tr), (.c, tr)] }
    let inh (s : State) : State := s.onMe fun k => { k.onClu .c fun c => { c with inh := true } with save := some { reason := 1, tick := 10 } }
    let h (tick : Nat) : State := { (inh (alone .nop)).setDev 0x821 5 with cadence := BitVec.ofNat 64 tick }
    let ask (l : BitVec 8) : State :=
      let s := alone .nop
      let q (x : Option (Clu × Bool)) (l : BitVec 8) : PowerReq := { core := 0, by_ := x, level := l }
      { s with plat := { s.plat with dies := vset s.plat.dies 0 { vget s.plat.dies 0 with waiting := [q (some (.c, false)) l, q (some (.v, false)) 9, q none 7] } } }
    let rich (s : State) : State := s.setDev 0xF50 (100 * 2 ^ 32)
    is z .m (.tzero stamped 2) false ∧ (is four .c .nop true ∧ is four .a .nop true ∧ is four .v .nop true ∧ is four .m .nop true) ∧
    (reportOf (.stampedIssue ⟨0, [], []⟩) z = some .idle ∧ reportOf (.scheduleMiss 0) (at_ z 1 0) = some .idle ∧ reportOf (.stampedIssue ⟨0, [], []⟩) (at_ z 1 0) = some .issued ∧
      reportOf (.scheduleMiss 0) (at_ (alone (.tzero { stamped with wait := 1 } 2)) 1 0) = some .trapped ∧
      reportOf (.scheduleMiss 0) ((at_ z 2 0).onMe fun k => k.onClu .m fun c => { c with stampSeen := some false }) = some .idle ∧
      after (exec (.scheduleMiss 0) (at_ z 2 0)) (fun t => (t.me.clu .m).tcause.toNat % 256) = some 0x10 ∧
      after (exec (.scheduleMiss 0) (at_ z 2 1)) (fun t => (t.report, t.me.st.stampc)) = some (.issued, 0x1_0000_0001) ∧
      reportOf (.stampedIssue ⟨0, [], []⟩) (at_ (alone (.tzero plain 2)) 1 0) = some .idle) ∧
    (after (exec (.syncRendezvous 0) four) (fun t => (t.report, (t.me.clu .m).syncs)) = some (.issued, 1) ∧ reportOf (.syncRendezvous 0) one = some .idle ∧
      reportOf (.syncRendezvous 0) State.reset = some .idle ∧
      (cross.syncNext 0 .a = true ∧ cross.syncNext 0 .v = true ∧ cross.syncNext 0 .c = true ∧ cross.syncNext 0 .m = true) ∧
      after (exec (.syncRendezvous 0) cross) (fun t => (t.report, (vget (vget t.quads 0).clasps 255).count, (t.me.clu .v).syncs)) = some (.issued, 0, 1) ∧
      after (exec (.syncRendezvous 0) (meeting .nop (.mts 0x818 1))) (fun t => (t.report, (t.me.clu .v).tcause.toNat % 256, (t.me.clu .c).syncs)) =
        some (.trapped, 3, 0)) ∧
    (after (exec (.trapDelivery 0 .c) pend) (fun t => (t.report, t.me.pend.length, (t.me.clu .c).tcause.toNat % 256)) = some (.trapped, 1, 0x1C) ∧
      reportOf (.trapDelivery 0 .a) pend = some .idle ∧ reportOf (.trapDelivery 0 .c) (inh pend) = some .idle) ∧
    (reportOf (.handlerTimeout 0 .c) (h 15) = some .idle ∧ after (exec (.handlerTimeout 0 .c) (h 16)) (fun t => (t.report, t.me.term.isSome)) = some (.trapped, true) ∧
      reportOf (.handlerTimeout 0 .c) (alone .nop) = some .idle) ∧
    (let u := rich (ask 5)
     after (exec (.powerGrant 0 true true) u) (fun t => (t.me.rg.pwrlvl, t.me.rg.pwrGot, (vget t.plat.dies 0).waiting.map (·.level))) = some (5, [(.c, false)], [9, 7]) ∧
      after (exec (.powerGrant 0 true true) (u.setDev 0xF50 0)) (fun t => (vget t.plat.islands (islandOf 0)).thr) = some 2 ∧
      after (exec (.powerGrant 0 false true) u) (fun t => (vget t.plat.islands (islandOf 0)).thr) = some 1 ∧
      after (exec (.powerGrant 0 true false) u) (fun t => (vget t.plat.islands (islandOf 0)).thr) = some 16 ∧ reportOf (.powerGrant 0 true true) (alone .nop) = some .idle) := by
  refine ⟨next_of ?_, ⟨next_of ?_, next_of ?_, next_of ?_, next_of ?_⟩, ?_, ?_, ?_, ?_, ?_⟩ <;> decide +kernel
/-! Tasks. -/

/-- A running launch of four units in class 1, or of another queue, with the identifier of `placedTask`. -/
def launch1 (queue : Nat) (st : LaunchState) : Launch := launchOf (record queue) [(0, 2), (1, 3), (0, 2)] 1 0 [] st

/-- The device with context 0 in slot 0 and some launches and saved tasks. -/
def walking (ls : List Launch) (vs : List Saved) : State :=
  let s := State.reset.setDev 0xC00 0x8000_0000_0000_0000
  { s with sch := { s.sch with launches := ls, saved := vs } }

/-- Core 0 with a task of `launch1` besides. -/
def withTask (s : State) (queue : Fin 32) (f : Core → Core := id) : State :=
  s.setCore 0 (f { tasked with task := some { placedTask with queue := queue } })

/-- A saved task of `launch1`. -/
def saved1 : Saved :=
  { slotN := 0, core := { tasked with task := some { placedTask with queue := 8 } }, lid := 1, queue := 8, reason := 1, ready := true,
    placed := false, from_ := 5, clasps := none, byDisposition := false, carried := [], passed := 0 }

/-- No launch; one with a unit left, at its last and beyond; a queue whose mask leaves one quad, one whose every core is taken by
another launch, and classes 0 and 1; a saved task, with and without a power level (O47). -/
theorem witness_Walker :
    let l := launch1 8 .running
    let none_ (s : State) : State := (List.range 3).foldl (fun s i => s.setDev (0x901 + 4 * 8 + i) 0) s
    let only (s : State) : State := (none_ s).setDev (0x901 + 4 * 8) 1
    let s := only (walking [l] [])
    (l.count = 4 ∧ l.next < l.count ∧ l.preds = [] ∧ l.gang = false ∧ l.coRes = false ∧ s.slotOf 0 = some 0 ∧ 0 < s.capacity 8 false) ∧
    ((s.fenced 3 = false ∧ s.quadAllowed 8 (quadOf 3) = true ∧ (s.core 3).task = none ∧ (vget s.quads 0).gang = false) ∧ s.quadAllowed 8 (quadOf 4) = false ∧
      s.dieOk l 0 (dieOf 3) = true) ∧
    (reportOf (.walkerPlace 0) (walking [] []) = some .idle ∧ reportOf (.walkerPlace 0) (only (walking [{ l with next := 4 }] [])) = some .idle) ∧
    (after (exec (.walkerPlace 3) s) (fun t => (t.report, t.sch.launches.map (·.next), ((List.range 4).filter fun i => (t.core (Fin.ofNat 768 i)).task.isSome).length)) =
      some (.issued, [1], 1)) ∧
    (l.indices 3 = [1, 0, 1] ∧ after (exec (.walkerPlace 0) (only (walking [{ l with next := 3 }] []))) (fun t =>
      (List.range 4).filterMap fun i => ((t.core (Fin.ofNat 768 i)).task.map fun k => k.ordinal)) = some [3]) ∧
    ((saved1.lid = l.lid ∧ saved1.ready = true ∧ saved1.placed = false ∧ saved1.gang = false) ∧
      after (exec (.walkerPlace 0) (only (walking [l] [saved1]))) (fun t => (t.report, t.sch.saved.map (·.placed), t.sch.launches.map (·.next))) =
        some (.issued, [true], [0]) ∧
      after (exec (.walkerPlace 0) (only (walking [l] [{ saved1 with core := { saved1.core with rg := { saved1.core.rg with pwrlvl := 5 } } }]))) (fun t =>
        (vget t.plat.dies 0).waiting.map fun r => (r.by_.isNone, r.level)) = some [(true, 5)]) := by
  refine ⟨?_, ?_, ?_, ?_, ?_, ?_⟩ <;> decide +kernel
/-! Save slots: the translation of a slot in mapped pages stands whatever has been written to them. -/

/-- A die's modified copy of a table line. -/
def tableLine (line : Nat) (data : List Byte) : DieLine :=
  { die := 0, line := line, coh := some .m, key := 0, home := 0, tag := (0, 0, 0), pte := 0, valid := 0, dirty := 0, data := bytesLine data, bad := false }

/-- The lines of a translation table of tensor 1, and of the entries of its sixteen pages: non-coherent, in frames from 8 on. -/
def slotLines : List DieLine :=
  let leaf (b : Nat) := (List.range 8).flatMap fun i => leBytes ((8 + 8 * b + i) * 2 ^ 24 + 35) 8
  [tableLine 0 (leBytes 0 16 ++ leBytes (2 ^ 63 + 2 ^ 32) 8 ++ leBytes 16 8 ++ leBytes 0 32), tableLine 512 (leaf 0), tableLine 513 (leaf 1)]

/-- Save slot 0 lies in the sixteen pages, whose table lines are held modified. -/
abbrev Slotted (s : State) : Prop :=
  s.dev 0xC00 = 0x8000_0000_0000_0000 ∧ s.dev 0xC50 = 0x100_0000_0000 ∧ s.ms.dieLines = slotLines ∧
  s.ms.keys = [(0, { state := 1, key := 0 })] ∧ s.ms.poison = [] ∧ s.lat.tables = [] ∧ s.ms.trans = []

/-- Where byte o of the slot stands. -/
def slotPlace (o : Nat) : Phys :=
  { addr := (8 + o / 65536) * 65536 + o % 65536, key := 0, mode := 1, home := Fin.ofNat 8 (8 + o / 65536), local_ := false, dead := false,
    pte := 32768 + o / 65536 * 8, tag := (0, 1, o / 65536) }

theorem tableWord_slotted {m n : MemSys} (hm : m.dieLines = n.dieLines) (ht : m.trans = n.trans) (a : Nat)
    (h : (n.newest (a / 64)).isSome = true) : m.tableWord a = n.tableWord a := by
  have e : m.newest (a / 64) = n.newest (a / 64) := by unfold MemSys.newest; rw [hm, ht]
  unfold MemSys.tableWord MemSys.lineBad MemSys.peek
  rw [e]
  cases d : n.newest (a / 64) with
  | none => rw [d] at h; cases h
  | some d => rfl

/-- Memory as reset has it, with the table lines of the slot. -/
def slotMem : MemSys := { State.reset.ms with dieLines := slotLines, keys := [(0, { state := 1, key := 0 })] }

theorem tableWord_of {s : State} (h : Slotted s) (a : Nat) (ha : a < 64 ∨ 32768 ≤ a ∧ a < 32896) : s.ms.tableWord a = slotMem.tableWord a := by
  have ht : slotMem.trans = [] := by decide +kernel
  refine tableWord_slotted (h.2.2.1.trans rfl) (h.2.2.2.2.2.2.trans ht.symm) a ?_
  have e : a / 64 = 0 ∨ a / 64 = 512 ∨ a / 64 = 513 := by omega
  obtain e | e | e := e <;> rw [e] <;> decide +kernel

theorem pageEntry_of {s : State} (h : Slotted s) {p : Nat} (hp : p < 16) : s.pageEntryAt 0 1 p = .ok (32768 + p * 8) := by
  have h1 : slotMem.tableWord 16 = some (2 ^ 63 + 2 ^ 32) := by decide +kernel
  have h2 : slotMem.tableWord 24 = some 16 := by decide +kernel
  unfold State.pageEntryAt
  have e : bits (s.dev (0xC00 + 0)) 12 32 * 65536 + 1 * 16 = 16 := by
    rw [show (0xC00 + 0 : Nat) = 0xC00 from rfl, h.1]; decide
  simp only [e, tableWord_of h 16 (by omega), tableWord_of h (16 + 8) (by omega), h1, h2, Option.elim, bind, Except.bind]
  rw [if_neg (by decide), if_neg (by omega)]
  rfl

theorem translate_of {s : State} (h : Slotted s) {o : Nat} (ho : o < 2 ^ 20) (w : Bool) : s.translate 0 1 o w = .ok (slotPlace o) := by
  have hp : o / 65536 < 16 := by omega
  have hw : slotMem.tableWord (32768 + o / 65536 * 8) = some ((8 + o / 65536) * 2 ^ 24 + 35) := by
    generalize o / 65536 = p at hp
    interval_cases p <;> decide +kernel
  have hk : (s.ms.keySlot 0).state = 1 := by unfold MemSys.keySlot; rw [h.2.2.2.1]; decide
  have ht := tableWord_of h (32768 + o / 65536 * 8) (Or.inr ⟨Nat.le_add_right .., by omega⟩)
  rw [hw] at ht
  have e := pageEntry_of h hp
  unfold State.translate slotPlace
  generalize o / 65536 = p at *
  simp only [e, ht, Option.elim, bind, Except.bind]
  have hm : s.pageMalformed ((8 + p) * 2 ^ 24 + 35) = false := by
    interval_cases p <;> simp [State.pageMalformed, State.frameInstalled, hbmFrames]
  have n1 : ¬ ((8 + p) * 2 ^ 24 + 35) % 2 = 0 := by omega
  have n2 : ¬ (w = true ∧ ((8 + p) * 2 ^ 24 + 35) / 2 % 2 = 0) := by omega
  have n3 : ((8 + p) * 2 ^ 24 + 35) / 2 ^ 11 % 2 ^ 10 = 0 := by omega
  have n4 : ((8 + p) * 2 ^ 24 + 35) / 2 ^ 24 % 2 ^ 32 = 8 + p := by omega
  have n5 : ((8 + p) * 2 ^ 24 + 35) / 2 ^ 10 % 2 = 0 := by omega
  have n6 : ((8 + p) * 2 ^ 24 + 35) / 2 ^ 3 % 4 = 0 := by omega
  have n7 : ((8 + p) * 2 ^ 24 + 35) / 2 ^ 5 % 4 = 1 := by omega
  have n8 : ((8 + p) * 2 ^ 24 + 35) / 4 % 2 = 0 := by omega
  rw [if_neg n1, hm, if_neg (by decide), if_neg n2, n3, if_neg (fun h => h.1 hk), n4, n5, n6, n7, n8]
  simp

theorem slot_reach {s : State} (h : Slotted s) {o : Nat} (ho : o < 2 ^ 20) (w : Bool) : s.reach 0 (BitVec.ofNat 64 (2 ^ 40 + o)) w = .ok (slotPlace o) := by
  have b1 : bits (BitVec.ofNat 64 (2 ^ 40 + o)) 40 16 = 1 := by simp only [bits, BitVec.toNat_ofNat]; omega
  have b2 : bits (BitVec.ofNat 64 (2 ^ 40 + o)) 0 40 = o := by simp only [bits, BitVec.toNat_ofNat]; omega
  unfold State.reach
  rw [b1, b2, translate_of h ho]
  have l : s.latticeFrame (slotPlace o) = false := by unfold State.latticeFrame; rw [h.2.2.2.2.2.1]; simp
  have f : s.frameLost (slotPlace o) = false := by
    unfold State.frameLost tier2 slotPlace
    simp only [Bool.and_eq_false_iff, decide_eq_false_iff_not]
    exact .inl (by omega)
  simp only [l, f, Bool.false_eq_true, ↓reduceIte]

theorem slotAddr_of {s : State} (h : Slotted s) (o : Nat) : s.slotAddr 0 o = BitVec.ofNat 64 (2 ^ 40 + o) := by
  unfold State.slotAddr
  rw [h.2.1, show (0x100_0000_0000 : Word) = BitVec.ofNat 64 (2 ^ 40) from rfl, ← BitVec.ofNat_add, Nat.zero_mul, Nat.zero_add]

theorem pieces_of {o : Nat} (h : o % 8 = 0) : piecesOf o 8 = [(o / 64, o % 64, 8)] := by
  have e : min 8 (64 - o % 64) = 8 := by omega
  simp [piecesOf, linePieces, e]

theorem and_high {o : Nat} (ho : o < 2 ^ 20) : BitVec.ofNat 64 (2 ^ 40 + o) &&& ~~~0xFF_FFFF_FFFF#64 = BitVec.ofNat 64 (2 ^ 40) := by
  apply BitVec.eq_of_getLsbD_eq
  intro i hi
  have h1 : (2 ^ 40 + o).testBit i = if i < 40 then o.testBit i else (1 : Nat).testBit (i - 40) := by
    have := Nat.testBit_two_pow_mul_add (i := 40) 1 (b := o) (by omega) i
    simpa using this
  have h2 : (2 ^ 40 : Nat).testBit i = if i < 40 then false else (1 : Nat).testBit (i - 40) := by
    have := Nat.testBit_two_pow_mul_add (i := 40) 1 (b := 0) (by omega) i
    simpa using this
  have h3 : (0xFF_FFFF_FFFF : Nat).testBit i = decide (i < 40) := by
    rw [show (0xFF_FFFF_FFFF : Nat) = 2 ^ 40 - 1 from rfl, Nat.testBit_two_pow_sub_one]
  rw [BitVec.getLsbD_and, BitVec.getLsbD_not, BitVec.getLsbD_ofNat, BitVec.getLsbD_ofNat, BitVec.getLsbD_ofNat, h1, h2, h3]
  by_cases h : i < 40 <;> simp [h, hi]

theorem piece_addr {o : Nat} (ho : o < 2 ^ 20) :
    (BitVec.ofNat 64 (2 ^ 40 + o) &&& ~~~0xFF_FFFF_FFFF#64) + BitVec.ofNat 64 (o / 64 * 64 + o % 64) = BitVec.ofNat 64 (2 ^ 40 + o) := by
  rw [show o / 64 * 64 + o % 64 = o by omega, and_high ho, ← BitVec.ofNat_add]

theorem bits_of {o : Nat} (ho : o < 2 ^ 20) : bits (BitVec.ofNat 64 (2 ^ 40 + o)) 0 40 = o := by
  simp only [bits, BitVec.toNat_ofNat]; omega

theorem readRange_of {s : State} (h : Slotted s) {o : Nat} (ho : o < 2 ^ 20) (h8 : o % 8 = 0) :
    ∃ bs, s.readRange 0 0 (BitVec.ofNat 64 (2 ^ 40 + o)) 8 = .ok bs := by
  unfold State.readRange
  rw [bits_of ho, if_neg (by omega), pieces_of h8]
  simp only [State.readPieces]
  rw [piece_addr ho, slot_reach h ho]
  have l : s.ms.lost 0 (slotPlace o) (rangeMask (o % 64) 8) = false := by
    simp [MemSys.lost, slotPlace, Phys.coherent, h.2.2.2.2.1]
  have u : decide (bits (BitVec.ofNat 64 (2 ^ 40 + o)) 60 4 = 3) = false := by
    rw [decide_eq_false_iff_not]; simp only [bits, BitVec.toNat_ofNat]; omega
  rw [u]
  simp only [l, Bool.false_eq_true, ↓reduceIte]
  exact ⟨_, rfl⟩

/-- No word of the slot is lost. -/
theorem slotLost_of {s : State} (h : Slotted s) {o : Nat} (ho : o < 2 ^ 20) (h8 : o % 8 = 0) : s.slotLost 0 o = false := by
  obtain ⟨bs, eb⟩ := readRange_of h ho h8
  unfold State.slotLost
  rw [slotAddr_of h, eb]

/-- A word put into a core adds no pending trap and no stopped command, and puts no cluster into its handler. -/
theorem imgPut_keeps (c : Core) (o x : Nat) : (c.imgPut o x).pend = c.pend ∧ (c.en.mstop = none → (c.imgPut o x).en.mstop = none) ∧
    ∀ y, ((c.imgPut o x).clu y).inh = (c.clu y).inh := by
  have rest : (c.imgPutRest o x).pend = c.pend ∧ (c.en.mstop = none → (c.imgPutRest o x).en.mstop = none) ∧ (c.imgPutRest o x).cl = c.cl := by
    refine ⟨?_, fun h => ?_, ?_⟩
    · simp only [Core.imgPutRest, Core.stopPut, apply_ite Core.pend, Core.onChan, ite_self]
      cases c.en.mstop <;> simp
    · simp only [Core.imgPutRest, Core.stopPut, apply_ite Core.en, apply_ite Engines.mstop, Core.onChan, h, ite_self]
    · simp only [Core.imgPutRest, Core.stopPut, apply_ite Core.cl, Core.onChan, ite_self]
      cases c.en.mstop <;> simp
  have clu (y : Clu) (f : Cluster → Cluster) (hf : ∀ u, (f u).inh = u.inh) (z : Clu) : ((c.onClu y f).clu z).inh = (c.clu z).inh := by
    cases y <;> cases z <;> simp [Core.onClu, Core.clu, cluCode, vget, vset, hf]
  unfold Core.imgPut
  dsimp only
  by_cases h1 : 0x200 ≤ o ∧ o < 0xA00
  · rw [if_pos h1]
    split
    · split <;> exact ⟨rfl, id, fun _ => rfl⟩
    · refine ⟨rfl, id, clu _ _ fun u => ?_⟩
      simp only [Cluster.imgPut, apply_ite Cluster.inh, ite_self]
  rw [if_neg h1]
  by_cases h2 : o = 0xA00
  · rw [if_pos h2]; exact ⟨rfl, id, clu _ _ fun _ => rfl⟩
  rw [if_neg h2]
  by_cases h3 : o = 0xA08
  · rw [if_pos h3]; exact ⟨rfl, id, clu _ _ fun _ => rfl⟩
  rw [if_neg h3]
  by_cases h4 : o = 0x1400
  · rw [if_pos h4]; exact ⟨rfl, id, clu _ _ fun _ => rfl⟩
  rw [if_neg h4]
  by_cases h5 : o = 0x1408
  · rw [if_pos h5]; exact ⟨rfl, id, clu _ _ fun _ => rfl⟩
  rw [if_neg h5]
  exact ⟨rest.1, rest.2.1, fun y => by unfold Core.clu; rw [rest.2.2]⟩

/-- What reading an image back leaves as it was. -/
theorem readImage_keeps (s : State) (n : Nat) (os : List Nat) : ∀ c : Core, (s.readImage n c os).pend = c.pend ∧
    (c.en.mstop = none → (s.readImage n c os).en.mstop = none) ∧ ∀ y, ((s.readImage n c os).clu y).inh = (c.clu y).inh := by
  induction os with
  | nil => exact fun c => ⟨rfl, id, fun _ => rfl⟩
  | cons o os ih =>
    intro c
    have one : (s.getImageWord n c o).pend = c.pend ∧ (c.en.mstop = none → (s.getImageWord n c o).en.mstop = none) ∧
        ∀ y, ((s.getImageWord n c o).clu y).inh = (c.clu y).inh := by
      unfold State.getImageWord
      split
      · exact ⟨rfl, id, fun _ => rfl⟩
      · exact imgPut_keeps ..
    have more := ih (s.getImageWord n c o)
    exact ⟨more.1.trans one.1, fun h => more.2.1 (one.2.1 h), fun y => (more.2.2 y).trans (one.2.2 y)⟩

theorem offsets_of (n : Nat) : ∀ o, o % 8 = 0 → ∀ x ∈ offsetsFrom o n, o ≤ x ∧ x < o + 8 * n ∧ x % 8 = 0 := by
  induction n with
  | zero => exact fun o _ x h => by cases h
  | succ n ih =>
    intro o ho x hx
    rcases List.mem_cons.mp hx with rfl | hx
    · omega
    · have := ih (o + 8) (by omega) x hx
      omega

theorem imageOffsets_of : ∀ o ∈ imageOffsets placedTask, o < 2 ^ 20 ∧ o % 8 = 0 := by
  intro o h
  unfold imageOffsets at h
  simp only [List.mem_append] at h
  obtain ((((h | h) | h) | h) | h) | h := h <;> have := offsets_of _ _ (by decide) _ h <;>
    simp only [placedTask, Nat.zero_div, Nat.mul_zero, Nat.add_zero, Nat.reduceDiv, Nat.reduceMul, Nat.reduceAdd] at this <;> omega

/-- The device with the save slot mapped, one launch, and core 0 with a task of it that is asked to save. -/
def saving (f : Core → Core) : State :=
  let s := (((withTask (walking [launch1 8 .running] []) 8 f).setDev 0xC50 0x100_0000_0000)).setDev 0xC51 1
  { s with ms := slotMem }

/-- The device with the save slot mapped, a word of its record of pending traps, and core 0 awaiting the restore of `saved1`. -/
def restoring (word : Nat) : State :=
  let s := saving fun c => { c with restoring := true }
  { s with sch := { s.sch with saved := [{ saved1 with placed := true }] }, ms := { s.ms with main := s.ms.main.writeLe (8 * 65536 + 0x28) 8 word } }

theorem restoring_found (word : Nat) (h : Slotted (restoring word)) (hc : (restoring word).catchUpLost 0 (dieOf saved1.from_) (dieOf 0) = false)
    (hk : ((restoring word).core 0).keepsClasps 0 = false) :
    (restoring word).restoreLost 0 { placedTask with queue := 8 } { saved1 with placed := true } = false := by
  unfold State.restoreLost
  have e : ({ placedTask with queue := 8 } : Task).ctx = 0 := rfl
  rw [e, show ({ saved1 with placed := true } : Saved).from_ = saved1.from_ from rfl, hc, Bool.false_or, List.any_eq_false]
  intro o ho
  rw [hk] at ho
  simp only [Bool.false_eq_true, ↓reduceIte, List.append_nil, List.mem_append] at ho
  have hb : o < 2 ^ 20 ∧ o % 8 = 0 := by
    obtain ho | ho := ho
    · have := offsets_of _ _ (by decide) _ ho
      omega
    · exact imageOffsets_of o (List.mem_of_mem_filter (List.mem_of_mem_filter ho))
  rw [show ({ saved1 with placed := true } : Saved).slotN = 0 from rfl, slotLost_of h hb.1 hb.2]
  exact Bool.false_ne_true

/-- A restore whose slot records no pending trap, one whose slot records a trap of the control cluster, and one whose slot has lost a
word, whatever offsets are read back (O48). -/
theorem witness_Restores :
    ∀ os : List Nat,
    let tk : Task := { placedTask with queue := 8 }
    let v : Saved := { saved1 with placed := true }
    let d (s : State) := s.readImage 0 (s.core 0) os
    let due (s : State) : Prop := s.recordOf 0 = some (tk, v) ∧ (s.core 0).restoring = true ∧ s.restoreWaits 0 = false ∧ s.running 0 = true ∧ (s.core 0).term = none
    let tr : Trap := { clu := .c, cause := 0, detail := 0, async := false, addr := 0, info := 0 }
    let lost : State := let s := restoring 0; { s with ms := { s.ms with poison := [8192] } }
    (due (restoring 0) ∧ (restoring 0).restoreLost 0 tk v = false ∧ (restoring 0).slotPend 0 (d (restoring 0)).pend = [] ∧ (d (restoring 0)).en.mstop = none) ∧
    (due (restoring 0x100) ∧ (restoring 0x100).restoreLost 0 tk v = false ∧ (restoring 0x100).slotPend 0 (d (restoring 0x100)).pend = [(.c, tr)] ∧
      ((d (restoring 0x100)).clu .c).inh = false) ∧
    (due lost ∧ lost.restoreLost 0 tk v = true) := by
  have h0 : Slotted (restoring 0) := by decide +kernel
  have h1 : Slotted (restoring 0x100) := by decide +kernel
  intro os tk v d due tr lost
  have k0 := readImage_keeps (restoring 0) 0 os ((restoring 0).core 0)
  have k1 := readImage_keeps (restoring 0x100) 0 os ((restoring 0x100).core 0)
  refine ⟨⟨by decide +kernel, restoring_found 0 h0 (by decide +kernel) (by decide +kernel), ?_, ?_⟩,
    ⟨by decide +kernel, restoring_found 0x100 h1 (by decide +kernel) (by decide +kernel), ?_, ?_⟩, by decide +kernel, ?_⟩
  · show (restoring 0).slotPend 0 (State.readImage _ _ _ _).pend = []
    rw [k0.1]; decide +kernel
  · have m : ((restoring 0).core 0).en.mstop = none := by decide +kernel
    exact k0.2.1 m
  · show (restoring 0x100).slotPend 0 (State.readImage _ _ _ _).pend = _
    rw [k1.1]; decide +kernel
  · have m : (((restoring 0x100).core 0).clu .c).inh = false := by decide +kernel
    exact (k1.2.2 .c).trans m
  · have e : State.slotLost (let s := restoring 0; { s with ms := { s.ms with poison := [8192] } }) 0 0x28 = true := by decide +kernel
    unfold State.restoreLost
    rw [Bool.or_eq_true, List.any_eq_true]
    exact .inr ⟨0x28, List.mem_append_left _ (List.mem_append_left _ (by decide)), e⟩
/-- A core with a task of `launch1`, and the launch with one unit placed. -/
def retiring (f : Core → Core) : State := withTask (walking [{ launch1 8 .running with next := 1 }] []) 8 f

/-- No task, a task that neither ends nor exits, one that terminates (settled, and with a command still started), one that exits
(settled, with a trap pending, in a handler that has ended and one that has not, with discards under DET), on a fenced core, on a stopped
island; saves that are ready, that are not and without a free slot; a restore without a grant; launches that have settled and that have not (O48). -/
theorem witness_TasksRetire :
    let e : ExitSeq := { live := 7, canc := 0, impl := false }
    let r : TermRec := { cause := 5, corrupt := false, killed := false }
    let run : MRun := runOf (mcmd (.tzero plain 2) 0 0 0) .done 0 0
    let quiet (c : Core) : Core := { c with exit := some e }
    let det : State := (retiring quiet).onMe fun c => { c with task := c.task.map fun t => { t with flags := 1 } }
    let save (n : Nat) : State := (retiring fun c => { c with save := some { reason := 1, tick := 0 } }).setDev 0xC51 (BitVec.ofNat 64 n)
    let full : State := let s := save 1; { s with sch := { s.sch with saved := [saved1] } }
    let done : State := walking [{ launch1 8 .running with next := 4, retired := 4 }, { launch1 9 .queued with lid := 2, preds := [1] }] []
    let lc (s : State) := after (exec (.launchComplete 1) s) fun t => (t.sch.launches.map (·.preds), t.sch.history.map (·.2.2))
    (reportOf (.taskRetire 0) (walking [] []) = some .idle ∧ reportOf (.taskRetire 0) (retiring id) = some .idle ∧
      (retiring id).launch? 1 = some { launch1 8 .running with next := 1 }) ∧
    (after (exec (.taskRetire 0) (retiring fun c => { c with term := some r })) (fun t => t.me.task.isNone && t.sch.launches.all fun l =>
        l.terminated == 1 && l.first == some 0 && l.next == 4) = some true ∧
      reportOf (.taskRetire 0) (retiring fun c => { c with term := some r, en := { c.en with mrun := [run] } }) = some .idle ∧
      (let f := retiring fun c => { c with term := some r }
       let due : State := { f with plat := { f.plat with fenceDue := [0, 5] } }
       let held : State := { f with plat := { f.plat with islands := vset f.plat.islands 0 { vget f.plat.islands 0 with stop := true } } }
       after (exec (.taskRetire 0) due) (fun t => (t.me.task.isNone, t.plat.fenceDue, t.plat.evHead, t.plat.evLost)) = some (true, [5], 0, 1) ∧
         held.running 0 = false ∧ reportOf (.taskRetire 0) held = some .idle)) ∧
    (after (exec (.taskRetire 0) (retiring quiet)) (fun t => t.me.task.isNone && t.sch.launches.all fun l =>
        l.retired == 1 && l.orstat == 0x700_0000_0000) = some true ∧
      reportOf (.taskRetire 0) (retiring fun c => { quiet c with pend := [(.v, { clu := .v, cause := 1, detail := 0, async := true, addr := 0, info := 0 })] }) = some .idle ∧
      reportOf (.taskRetire 0) (retiring fun c => (quiet c).onClu .v fun u => { u with inh := true }) = some .idle ∧
      after (exec (.taskRetire 0) (retiring fun c => (quiet c).onClu .v fun u => { u with inh := true, ended := true })) (fun t => t.me.task.isNone) = some true ∧
      after (exec (.taskRetire 0) det) (fun t => (t.me.clu .c).tcause.toNat % 256) = some 0x18) ∧
    (reportOf (.saveComplete ⟨0, [], [], []⟩) ((save 1).onMe fun c => c.onClu .a fun u => { u with inh := true }) = some .idle ∧
      reportOf (.saveComplete ⟨0, [], [], []⟩) (save 0) = some .idle ∧ reportOf (.saveComplete ⟨0, [], [], []⟩) full = some .idle ∧
      (save 1).saveReady 0 = true ∧ (save 1).freeSlot = some 0 ∧ ((save 1).core 0).pend = [] ∧ 0 ∉ (save 1).plat.fenceDue) ∧
    (reportOf (.restoreIssueStart ⟨0, [], []⟩) (retiring id) = some .idle ∧
      reportOf (.restoreIssueStart ⟨0, [], []⟩) (let s := restoring 0
        { s with plat := { s.plat with dies := vset s.plat.dies 0 { vget s.plat.dies 0 with waiting := [{ core := 0, by_ := none, level := 3 }] } } }) = some .idle ∧
      (((restoring 0).recordOf 0).map fun v => v.2.slotN) = some 0) ∧
    (lc done = some ([[]], [0x0100_0000_0000_0004]) ∧ lc (walking [{ launch1 8 .running with next := 3 }] []) = some ([[]], []) ∧
      lc (walking [{ launch1 8 (.ending 2) with status := 0x100_0000_0000 }] []) = some ([], [0x0201_0000_0000_0000]) ∧
      reportOf (.launchComplete 7) done = some .idle) := by
  refine ⟨?_, ?_, ?_, ?_, ?_, ?_⟩ <;> decide +kernel
/-! Memory events. -/

/-- The line of the first bundle's page that the directory tests use. -/
def line0 : Nat := 8192

/-- A die's copy of it. -/
def copyOf (d : Fin 8) (coh : Option Mesi) : DieLine :=
  { die := d, line := line0, coh := coh, key := 0, home := 0, tag := (0, 1, 0), pte := 32768, valid := 0xFFFF_FFFF_FFFF_FFFF, dirty := 3,
    data := 0xABCD, bad := false }

/-- The device of `paged` with some copies of the line, its directory entry and its transaction, and three bytes at its home. -/
def lined (copies : List DieLine) (st : Option DirState) (tr : Option DirTrans) : State :=
  let s := paged []
  { s with ms := { s.ms with
      main := s.ms.main.writeList (64 * line0) [1, 2, 3, 0, 0, 0, 0, 0], dieLines := copies, trans := tr.toList
      dir := (st.map fun x => { line := line0, home := 0, st := x : DirEntry }).toList } }

/-- A transaction of the line for die 1. -/
def transOf (req : DirReq) (toSend toAck : BitVec 8) (back : Option DieLine) : DirTrans :=
  { place := { placeAt (64 * line0) with pte := 32768 }, req := req, die := 1, cls := 0, toSend := toSend, toAck := toAck, back := back }

/-- The least recently used line of a full set of die 1's cache. -/
def fullSet (c : DieLine) : List DieLine :=
  ((List.range 15).map fun n => { copyOf 1 (some .s) with line := line0 + 16384 * (n + 1) }) ++ [c]

/-- Requests taken and not (a held line, the home itself, a copy, a page that is not coherent); the dies each kind of entry sends to;
probes right and wrong; an acknowledgement with a line and without; a grant for each request and entry, out of turn, into a full set,
and where no entry may leave it; caches giving up the oldest line of a full set, of each state; accesses at the home (O49). -/
theorem witness_Directory :
    let sent (i : Instr) (s : State) := after (exec i s) fun t => t.ms.trans.map (·.toSend)
    let aft (i : Instr) (s : State) := after (exec i s) fun t => ((t.ms.dieLine 1 line0).bind (·.coh), t.ms.dirState line0)
    let byte (i : Instr) (s : State) := after (exec i s) fun t => t.ms.main.readList (64 * line0) 3
    let sh := some (DirState.shared 6)
    let own := some (DirState.owned 2)
    let own1 := some (DirState.owned 1)
    let x : Word := 0x100_0000_0000
    let wait (r : DirReq) (st : Option DirState) := lined [copyOf 2 (some .m)] st (some (transOf r 4 0 none))
    let acked (r : DirReq) (back : Option DieLine) := lined [] own (some (transOf r 0 4 back))
    let ready (r : DirReq) (st : Option DirState) := lined [] st (some (transOf r 0 0 none))
    let full (tr : List DirTrans) : State := let s := ready .rds none
      { s with ms := { s.ms with trans := s.ms.trans ++ tr
                                 dir := (List.range 16).map fun n => { line := line0 + 65536 * (n + 1), home := 0, st := .shared 1 } } }
    let held : List DirTrans := (List.range 16).map fun n => openLine (line0 + 65536 * (n + 1))
    ((lined [] none none).requestPlace .rds 0 x 1).isSome = true ∧
    (((lined [] none none).requestPlace .rds 0 x 0).isNone = true ∧ ((lined [] none none).requestPlace .rds 0 (x + 65536) 1).isNone = true) ∧
    (reportOf (.rds ⟨0, x, 0⟩ 0) (lined [] none none) = some .idle ∧ reportOf (.rds ⟨0, x, 0⟩ 1) (ready .rds none) = some .idle ∧
      reportOf (.rds ⟨0, x, 0⟩ 1) (lined [copyOf 1 (some .s)] none none) = some .idle ∧ reportOf (.upg ⟨0, x, 0⟩ 1) (lined [] sh none) = some .idle) ∧
    (sent (.rds ⟨0, x, 0⟩ 1) (lined [] none none) = some [0] ∧ sent (.rds ⟨0, x, 0⟩ 1) (lined [] sh none) = some [0] ∧ sent (.rds ⟨0, x, 0⟩ 1) (lined [] own none) = some [4] ∧
      sent (.rdx ⟨0, x, 0⟩ 1) (lined [] sh none) = some [4] ∧ sent (.rdx ⟨0, x, 0⟩ 1) (lined [] own none) = some [4] ∧
      sent (.upg ⟨0, x, 0⟩ 1) (lined [copyOf 1 (some .s)] sh none) = some [4]) ∧
    (reportOf (.inv line0 2) (lined [] sh none) = some .idle ∧ reportOf (.inv line0 2) (wait .rdx own) = some .idle ∧
      reportOf (.inv line0 1) (wait .rdx sh) = some .idle ∧
      after (exec (.inv line0 2) (wait .rdx sh)) (fun t => (t.ms.dieLines.length, t.ms.trans.map (·.toAck))) = some (0, [4]) ∧
      after (exec (.recallS line0 2) (wait .rds own)) (fun t => (t.ms.dieLines.map (·.coh), t.ms.trans.map fun r => r.back.map (·.data))) =
        some ([some .s], [some 0xABCD]) ∧
      after (exec (.recallI line0 2) (wait .rdx own)) (fun t => t.ms.dieLines.length) = some 0 ∧ reportOf (.recallS line0 2) (wait .rdx own) = some .idle) ∧
    (byte (.directoryAck line0 2) (acked .rds none) = some [1, 2, 3] ∧
      byte (.directoryAck line0 2) (acked .rds (some (copyOf 2 (some .m)))) = some [0xCD, 0xAB, 0] ∧
      reportOf (.directoryAck line0 1) (acked .rds none) = some .idle) ∧
    (reportOf (.grant line0 1) (acked .rds none) = some .idle ∧ reportOf (.grant line0 2) (ready .rds none) = some .idle ∧
      aft (.grant line0 1) (ready .rds none) = some (some .e, own1) ∧ aft (.grant line0 1) (ready .rds (some (.shared 4))) = some (some .s, sh) ∧
      aft (.grant line0 1) (ready .rds own) = some (some .s, sh) ∧ aft (.grant line0 1) (ready .rdx none) = some (some .m, own1) ∧
      aft (.grant line0 1) (ready .upg sh) = some (some .m, own1) ∧ aft (.grant line0 1) (ready .rdx own) = some (some .m, own1) ∧
      after (exec (.grant line0 1) (full [])) (fun t => (t.ms.dir.length, t.ms.dirState (line0 + 65536 * 16))) = some (16, none) ∧
      reportOf (.grant line0 1) (full held) = some .idle) ∧
    (reportOf (.putc line0 1) (lined [copyOf 1 (some .e)] own1 none) = some .idle ∧
      aft (.putc line0 1) (lined (fullSet (copyOf 1 (some .e))) own1 none) = some (none, none) ∧
      aft (.putc line0 1) (lined (fullSet (copyOf 1 (some .s))) sh none) = some (none, sh) ∧
      byte (.putm line0 1) (lined (fullSet (copyOf 1 (some .m))) own1 none) = some [0xCD, 0xAB, 0] ∧
      byte (.putm line0 1) (lined (fullSet (copyOf 1 none)) none none) = some [0xCD, 0xAB, 3] ∧
      reportOf (.putm line0 1) (lined (fullSet (copyOf 1 (some .e))) none none) = some .idle ∧
      reportOf (.putc line0 1) (lined (fullSet (copyOf 1 (some .m))) none none) = some .idle) ∧
    (reportOf (.homeSliceAccess ⟨0, x + 4, 0⟩ none) (lined [] none none) = some .idle ∧ reportOf (.homeSliceAccess ⟨0, 0x6000_0000_0000_0000, 0⟩ none) (lined [] none none) = some .idle ∧
      reportOf (.homeSliceAccess ⟨0, x, 0⟩ none) (ready .rds none) = some .idle ∧
      aft (.homeSliceAccess ⟨0, x, 0⟩ none) (lined [copyOf 1 (some .s)] sh none) = some (some .s, sh) ∧
      after (exec (.homeSliceAccess ⟨0, x, 0⟩ (some 0x0807)) (lined [copyOf 1 (some .s)] (some (.shared 2)) none)) (fun t =>
        (t.ms.main.readList (64 * line0) 3, t.ms.dieLines.length)) = some ([7, 8, 0], 0) ∧
      aft (.homeSliceAccess ⟨0, x + 56, 0⟩ none) (lined [copyOf 1 (some .m)] own1 none) = some (some .s, some (.shared 2)) ∧
      byte (.homeSliceAccess ⟨0, x + 56, 0⟩ none) (lined [copyOf 1 (some .m)] own1 none) = some [0xCD, 0xAB, 0]) := by
  refine ⟨?_, ?_, ?_, ?_, ?_, ?_, ?_, ?_, ?_⟩ <;> decide +kernel

/-- A transaction ready for die 1 with a later request of die 2 behind it. -/
def queuedLine : State :=
  let s := lined [] none (some (transOf .rds 0 0 none))
  { s with ms := { s.ms with reqs := [{ transOf .upg 0 0 none with die := 2, cls := 3 }] } }

/-- A line's transaction of a class beside two of class 0 that are ready for every step. -/
def besideReady (cls : BitVec 2) (toSend toAck : BitVec 8) : State :=
  let s := lined [copyOf 2 (some .m)] (some (.owned 2)) (some { transOf .rds toSend toAck none with cls := cls })
  { s with ms := { s.ms with trans := { transOf .rds 4 4 none with place := placeAt (64 * (line0 + 1)) } :: openLine (line0 + 2) :: s.ms.trans } }

/-- The uncore of die 0 is stopped. -/
def stoppedUncore (s : State) : State :=
  { s with plat := { s.plat with islands := vset s.plat.islands 8 { vget s.plat.islands 8 with stop := true } } }

/-- A request that joins the queue and one that a grant takes up, steps that give way to class 0, and a stopped uncore (O49). -/
theorem witness_DirectoryQueues :
    let x : Word := 0x100_0000_0000
    after (exec (.rdx ⟨0, x, 3⟩ 2) (lined [] none (some (transOf .rds 0 0 none)))) (fun t => (t.ms.trans.length, t.ms.reqs.map fun r => (r.die, r.cls))) = some (1, [(2, 3)]) ∧
    after (exec (.grant line0 1) queuedLine) (fun t => (t.ms.reqs.length, t.ms.trans.map fun r => (r.die, r.toSend))) = some (0, [(2, 2)]) ∧
    after (exec (.grant line0 1) queuedLine) (fun t => t.ms.trans.map (·.req)) = some [.rdx] ∧
    (reportOf (.recallS line0 2) (besideReady 0 4 0) = some .issued ∧ reportOf (.recallS line0 2) (besideReady 1 4 0) = some .idle) ∧
    (reportOf (.directoryAck line0 2) (besideReady 0 0 4) = some .issued ∧ reportOf (.directoryAck line0 2) (besideReady 2 0 4) = some .idle) ∧
    (reportOf (.grant line0 1) (besideReady 0 0 0) = some .issued ∧ reportOf (.grant line0 1) (besideReady 3 0 0) = some .idle) ∧
    (reportOf (.grant line0 1) (stoppedUncore (lined [] none (some (transOf .rds 0 0 none)))) = some .idle ∧
      reportOf (.rds ⟨0, x, 0⟩ 1) (stoppedUncore (lined [] none none)) = some .idle) := by
  refine ⟨?_, ?_, ?_, ?_, ?_, ?_, ?_⟩ <;> decide +kernel

/-- A location at the end of each unit and one beyond; a clean read, a correction that is new, one that makes its location lasting,
and errors that cannot be corrected (O50). -/
theorem witness_Scrub :
    let s := State.reset
    let c : State := { s.setDev 0xC00 0 with plat := { s.plat with cxl := vset s.plat.cxl 1 { vget s.plat.cxl 1 with frames := 2 } } }
    let u := stoppedUncore s
    let at_ (core buf off : Nat) : BitVec 56 := BitVec.ofNat 56 (core * 2 ^ 46 + buf * 2 ^ 44 + off)
    let hot (u : BitVec 2) (l : BitVec 56) (n : Nat) : State := (List.range n).foldl (fun s _ => match exec (.patrolScrub 0 u l 1) s with
      | .next t => t
      | _ => s) s
    (reportOf (.patrolScrub 0 0 (at_ 95 0 393208) 0) s = some .issued ∧ reportOf (.patrolScrub 0 0 (at_ 95 0 393216) 0) s = some .idle ∧
      reportOf (.patrolScrub 0 0 (at_ 96 0 0) 0) s = some .idle ∧ reportOf (.patrolScrub 0 0 (at_ 0 3 16376) 0) s = some .issued ∧
      reportOf (.patrolScrub 0 0 (at_ 0 3 16384) 0) s = some .idle ∧ reportOf (.patrolScrub 0 1 (BitVec.ofNat 56 (63 * 2 ^ 50)) 0) s = some .issued ∧
      reportOf (.patrolScrub 0 1 (BitVec.ofNat 56 (48 * 2 ^ 50)) 0) s = some .idle ∧
      reportOf (.patrolScrub 7 2 (BitVec.ofNat 56 (12582911 * 1024)) 0) s = some .issued ∧
      reportOf (.patrolScrub 0 2 (BitVec.ofNat 56 (12582911 * 1024)) 0) s = some .idle ∧ reportOf (.patrolScrub 0 2 (BitVec.ofNat 56 (12582912 * 1024)) 0) s = some .idle ∧
      reportOf (.patrolScrub 1 3 (9 * 1024) 0) c = some .issued ∧ reportOf (.patrolScrub 0 3 (9 * 1024) 0) c = some .idle ∧ reportOf (.patrolScrub 1 3 (17 * 1024) 0) c = some .idle ∧
      reportOf (.patrolScrub 0 1 0 0) u = some .idle ∧ reportOf (.patrolScrub 0 0 0 0) u = some .issued) ∧
    (after (exec (.patrolScrub 0 0 (at_ 1 1 16) 2) s) (fun t => (t.core 1).st.bad) = some [(1, 2)] ∧
      after (exec (.patrolScrub 1 2 1030 2) s) (fun t => t.ms.poison) = some [1030] ∧ reportOf (.patrolScrub 0 1 0 2) s = some .idle) ∧
    (after (exec (.patrolScrub 0 0 (at_ 1 1 0) 1) s) (fun t => ((vget t.plat.dies 0).celoc.length, t.cfence 1)) = some (1, false) ∧
      (hot 0 (at_ 1 1 0) 3).cfence 1 = true ∧ (hot 1 (BitVec.ofNat 56 (63 * 2 ^ 50 + 5 * 2 ^ 34 + 2 * 2 ^ 30)) 3).ms.waysOff = [(0, 63, 5, 2)]) := by
  refine ⟨?_, ?_, ?_⟩ <;> decide +kernel
/-! Links. -/

/-- Link 0 changed. -/
def withLink (f : Link → Link) (s : State := State.reset) : State :=
  { s with plat := { s.plat with links := vset s.plat.links 0 (f (vget s.plat.links 0)) } }

/-- Direction 0 of link 0 changed. -/
def withDir (f : LinkDir → LinkDir) : State := withLink fun l => { l with dirs := vset l.dirs 0 (f (vget l.dirs 0)) }

/-- Direction 0 of link 0 after an event. -/
def dirAfter {α : Type} (i : Instr) (s : State) (f : LinkDir → α) : Option α := after (exec i s) fun t => f (vget (vget t.plat.links 0).dirs 0)

/-- A flit with a sequence number and a route. -/
def flitOf (n : Nat) (route : List (Fin 14 × Fin 2)) : Flit := { seq := n, msg := .piece 3 1, cls := 1, route := route }

/-- A bad flit, one out of sequence, the expected one at its end and on its way; a resend asked for and none; acknowledgements with
and without a flit waiting; a stop and its end; the last lane group and another; LKCTL values of every field; exchange instants at
and off a period; a unit that arrived (O51). -/
theorem witness_Links :
    let got (n : Nat) (route : List (Fin 14 × Fin 2)) := withDir fun y => { y with wire := [flitOf n route], replay := [flitOf n route] }
    let bad := withDir fun y => { y with bad := true, replay := [flitOf 0 [], flitOf 1 []], expect := 1 }
    let ack (w : List (Msg × BitVec 2 × List (Fin 14 × Fin 2))) := withDir fun y => { y with acks := 1, replay := [flitOf 0 [], flitOf 1 []], waiting := w }
    let stopped := withLink fun l => { l with stop := true, rateStop := true }
    let narrow := withDir fun y => { y with retired := 0xFFFF_FFFE }
    let rate : BitVec 64 := BitVec.ofNat 64 (2 ^ 31 + 2 * 2 ^ 24)
    let on : Word := BitVec.ofNat 64 (2 ^ 63 + 256)
    let sch : State := { State.reset.setDev 0xA08 on with lat := { State.reset.lat with inForce := vset State.reset.lat.inForce 0 on } }
    let arrive := { State.reset with ms := { State.reset.ms with keys := [(0, { state := 1, key := 0 })] }, lat := { State.reset.lat with tables := [table 1], arrived := [.piece 1 1, .exchange 0 2 0 (leBytes 5 8) []] } }
    (dirAfter (.flitReceive 0 0 false) (got 0 []) (fun y => (y.wire, y.bad, y.expect)) = some ([], true, 0) ∧
      dirAfter (.flitReceive 0 0 true) (got 1 []) (fun y => (y.wire, y.expect)) = some ([], 0) ∧
      after (exec (.flitReceive 0 0 true) (got 0 [])) (fun t => t.lat.arrived) = some [.piece 3 1] ∧
      after (exec (.flitReceive 0 0 true) (got 0 [(1, 0)])) (fun t => (vget (vget t.plat.links 1).dirs 0).wire.length) = some 1 ∧
      reportOf (.flitReceive 0 0 true) (withDir id) = some .idle) ∧
    (dirAfter (.flitReplay 0 0) bad (fun y => (y.bad, y.wire.map (·.seq))) = some (false, [1]) ∧ reportOf (.flitReplay 0 0) (withDir id) = some .idle) ∧
    (dirAfter (.flitAck 0 0) (ack []) (fun y => (y.acks, y.replay.map (·.seq))) = some (0, [1]) ∧
      dirAfter (.flitAck 0 0) (ack [(.piece 3 1, 1, [])]) (fun y => (y.waiting.length, y.wire.map (·.seq), y.nextSeq)) = some (0, [0], 1) ∧
      reportOf (.flitAck 0 0) (withDir id) = some .idle) ∧
    (after (exec (.linkStopEnd 0) stopped) (fun t => ((vget t.plat.links 0).stop, t.dev 0xD04)) = some (false, BitVec.ofNat 64 (1210 * 2 ^ 16 + 594))) ∧ reportOf (.linkStopEnd 0) (withLink id) = some .idle ∧
    (reportOf (.laneRetirement 0 0 0) narrow = some .issued ∧ dirAfter (.laneRetirement 0 0 0) narrow (·.retired) = some 0xFFFF_FFFE ∧
      dirAfter (.laneRetirement 0 0 5) (withDir id) (·.retired) = some 0x20) ∧
    (reportOf (.lkctlRateChange 0 0) (withLink id) = some .idle ∧ after (exec (.lkctlRateChange 0 rate) (withLink id)) (fun t => ((vget t.plat.links 0).stop, t.dev 0xD00)) =
        some (true, rate) ∧ after (exec (.lkctlRateChange 0 (rate + 0x300_0000)) (withLink id)) (fun t => (vget t.plat.links 0).stop) = some false ∧
      after (exec (.lkctlRateChange 0 rate) stopped) (fun t => (vget t.plat.links 0).pending) = some [rate] ∧
      dirAfter (.lkctlRetire 0 0x2000) (withLink id) (·.retired) = some 0x8000_0000 ∧ reportOf (.lkctlRetire1 0 0x2000) (withLink id) = some .idle) ∧
    (reportOf (.exchangeInstant 0) { sch with cadence := 256 } = some .issued ∧ reportOf (.exchangeInstant 0) { sch with cadence := 257 } = some .idle ∧
      reportOf (.exchangeInstant 1) { sch with cadence := 256 } = some .idle) ∧
    (after (exec .exchangeLineDelivery arrive) (fun t => (t.lat.arrived.length, t.latBytes (table 1) 2 0 8)) = some (1, leBytes 5 8) ∧
      reportOf .exchangeLineDelivery State.reset = some .idle) := by
  refine ⟨?_, ?_, ?_, ?_, ?_, ?_, ?_, ?_, ?_⟩ <;> decide +kernel
/-! Islands, governors and the outside. -/

/-- Island n after an event. -/
def islAfter {α : Type} (i : Instr) (s : State) (n : Fin 76) (f : Island → α) : Option α := after (exec i s) fun t => f (vget t.plat.islands n)

/-- Die 0 changed. -/
def withDie (f : Die → Die) (s : State := State.reset) : State := { s with plat := { s.plat with dies := vset s.plat.dies 0 (f (vget s.plat.dies 0)) } }

/-- A write of state 6, of GATED to an uncore island, of OFF to an I/O island and over a task; a change within P0 to P3 and one to
GATED; a stop and none; a margin above and at the warning level; a measured power at and above CAP; a fall at and above SLEW; a
ballast one tick before the end of its interval, at it, and none; the uncore and I/O islands stopped and not (O52). -/
theorem witness_Islands :
    let s := State.reset
    let busy := s.setCore 0 tasked
    let st (x : Island) := (x.state.toNat, x.stop, x.thr.toNat)
    let m (x : Island) := (x.margin.toNat, x.warn, x.stretch)
    let b := withDie fun d => { d with ballast := some 0 }
    let stopped (n : Fin 76) : State := { s with plat := { s.plat with islands := vset s.plat.islands n { vget s.plat.islands n with stop := true } } }
    (islAfter (.istateWrite 0 6) s 0 st = some (0, false, 0) ∧ islAfter (.istateWrite 8 4) s 8 st = some (0, false, 0) ∧
      islAfter (.istateWrite 75 5) s 75 st = some (0, false, 0) ∧ islAfter (.istateWrite 0 5) busy 0 st = some (0, false, 0)) ∧
    (islAfter (.istateWrite 0 1) s 0 st = some (1, true, 0) ∧ islAfter (.istateWrite 0 4) s 0 st = some (4, false, 0) ∧
      islAfter (.istateWrite 71 3) s 71 st = some (3, true, 0) ∧ s.sch.launches = []) ∧
    (reportOf (.islandStopEnd 0) s = some .idle ∧
      islAfter (.islandStopEnd 0) (stopped 0) 0 st =
        some (0, false, 0)) ∧
    (islAfter (.clockStretch 0 3) s 0 m = some (3, false, 0) ∧ islAfter (.clockStretch 0 2) s 0 m = some (2, true, 1)) ∧
    (islAfter (.capStretch 0 480) s 7 (fun x => (x.stretch, x.thr.toNat)) = some (0, 0) ∧
      islAfter (.capStretch 0 481) s 7 (fun x => (x.stretch, x.thr.toNat)) = some (1, 8) ∧
      islAfter (.capStretch 0 481) s 8 (fun x => (x.stretch, x.thr.toNat)) = some (0, 0)) ∧
    (islAfter (.ballastStart 0 200) s 0 st = some (0, false, 0) ∧ islAfter (.ballastStart 0 201) s 0 st = some (0, false, 4) ∧
      islAfter (.ballastStart 0 201) (withDie fun d => { d with power := 481 }) 0 st = some (0, false, 12) ∧ reportOf (.ballastStart 0 201) b = some .issued) ∧
    (reportOf (.ballastEnd 0) s = some .idle ∧ after (exec (.ballastEnd 0) b) (fun t => (vget t.plat.dies 0).ballast) = some none) ∧
    ((vget (b.advance 67499).plat.dies 0).ballast = some 0 ∧ (vget (b.advance 67500).plat.dies 0).ballast = none ∧ (∀ k : Fin 8, (vget b.lat.inForce k).getLsbD 63 = false)) ∧
    ((stopped 71).uncoreStops 7 = true ∧ s.uncoreStops 7 = false ∧ (stopped 73).ioStops true = true ∧ (stopped 73).ioStops false = false ∧
      (stopped 74).ioStops false = true ∧ (stopped 74).ioStops true = false) := by
  refine ⟨?_, ?_, ?_, ?_, ?_, ?_, ?_, ?_, ?_⟩ <;> decide +kernel

/-- The place an outside access reaches, and a check of it. -/
def reaches (s : State) (slot : Nat) (y : Word) (w : Bool) (f : Phys → Bool) : Bool :=
  match s.reach slot y w with
  | .ok p => f p
  | .error _ => false

theorem reach_ok {s : State} {slot : Nat} {y : Word} {w : Bool} {f : Phys → Bool} (h : reaches s slot y w f = true) :
    ∃ p, s.reach slot y w = .ok p ∧ f p = true := by
  unfold reaches at h
  split at h
  · next p e => exact ⟨p, e, h⟩
  · cases h

/-- The cause an outside access meets where it reaches nothing. -/
def reachCause (s : State) (slot : Nat) (y : Word) (w : Bool) : Nat :=
  match s.reach slot y w with
  | .ok _ => 0
  | .error e => e.1

/-- The device of `paged` with window 0 over five pages of tensor 1 from page 0, window 7 over bytes beyond 2^40, and tensor 1
exported with five pages. -/
def outside : State :=
  ((((paged []).setDev 0xE10 0x8000_0000_0001_0000).setDev 0xE11 0x0001_0000_0000_0005).setDev 0xE1E 0x8000_0000_0100_0000).setDev 0xE1F
    0x0001_FFFF_FF00_0002 |>.setDev 0xE3A 0x8000_0100_0000_0005

/-- Accesses beyond a line, of no bytes, misaligned, and with the I/O island stopped; addresses before the window, beyond it and beyond
2^40; a page without memory; a word of page 1 read, written, and changed by atomics where its page is system-atomic and where it is not;
a peer access turned away, beyond its pages, and done; reductions of four and of eight bytes, misaligned and of a form there is none of (O53). -/
theorem witness_OutsideAccesses :
    let s := outside
    let at_ (p : Phys) : Bool := !s.held p.home p && decide (p.off % 8 = 0) && !p.dead && !s.ms.poison.contains p.line && decide ((s.ms.keySlot p.key).state ≠ 0)
    let atomic : State := { s with ms := { s.ms with main := (s.ms.main.writeLe 32776 8 (9 * 2 ^ 24 + 67)).writeLe (9 * 65536 + 8) 8 7 } }
    let clean (p : Phys) : Prop := (∀ d ∈ s.ms.dieLines, d.line ≠ p.line) ∧ (alGet s.ms.lineKeys p.line = none ∨ alGet s.ms.lineKeys p.line = some (s.ms.keySlot p.key).key)
    let w (n : Nat) : HostReq := .write ((List.range 8).map fun j => BitVec.ofNat 8 (n / 256 ^ j))
    let answered (c : Option Completion) : Option (Bool × Nat) := c.map fun c => (c.ok, leNat c.data)
    let host (a : BitVec 64) (r : HostReq) (s : State) : Option (Nat × Option (Bool × Nat)) :=
      after (exec (.hostWindowAccess a r) s) fun t => (t.ms.main.readLe (9 * 65536 + 8) 8, answered t.plat.hostDone)
    let peer (i : Instr) (s : State) : Option (Nat × Option (Bool × Nat)) := after (exec i s) fun t => (t.ms.main.readLe (9 * 65536 + 8) 8, answered t.plat.peerDone)
    let still (n : Fin 76) (s : State) : State := { s with plat := { s.plat with islands := vset s.plat.islands n { vget s.plat.islands n with stop := true } } }
    (reportOf (.hostWindowAccess 0x1003C (.read 5)) s = some .idle ∧ reportOf (.hostWindowAccess 0x1003C (.read 4)) s = some .issued ∧
      reportOf (.hostWindowAccess 0x10000 (.read 0)) s = some .idle ∧ reportOf (.hostWindowAccess 0x10000 (.write [])) s = some .idle ∧
      reportOf (.hostWindowAccess 0x10004 (.atomic 0 1 1 0)) s = some .idle ∧ reportOf (.hostWindowAccess 0x20008 (w 5)) (still 72 s) = some .idle) ∧
    (host 0xFFF8 (w 5) s = some (0, some (false, 0)) ∧ host 0x60000 (w 5) s = some (0, some (false, 0)) ∧ host 0x101_0000 (w 5) s = some (0, some (false, 0))) ∧
    ((∃ p, s.reach 0 0x100_0001_0008 true = .ok p ∧ at_ p = true) ∧ (∃ p, s.reach 0 0x100_0001_0008 false = .ok p ∧ at_ p = true) ∧
      clean { addr := 9 * 65536 + 8, key := 0, mode := 1, home := 1, local_ := false, dead := false, pte := 32776, tag := (0, 1, 1) }) ∧
    (reachCause s 0 0x100_0003_0000 false ≠ 0 ∧ reachCause s 0 0x100_0003_0000 false ≠ 0xB) ∧
    (peer (.peerAccess 8 (.read 8)) State.reset = some (0, some (false, 0)) ∧ peer (.peerAccess 0x50000 (.read 8)) s = some (0, some (false, 0)) ∧
      reportOf (.peerAccess 60 (.read 5)) s = some .idle ∧ ((still 72 (still 75 s)).ioStops true = true ∧ (still 72 (still 75 s)).ioStops false = true) ∧
      reportOf (.reductionWrite 2 0 0 1) s = some .idle ∧ reportOf (.reductionWrite 8 8 1 1) s = some .idle ∧ (s.dev 0xC00).getLsbD 63 = true) ∧
    (host 0x20008 (w 5) s = some (5, some (true, 0)) ∧ host 0x20008 (.read 8) atomic = some (7, some (true, 7)) ∧
      host 0x20008 (.atomic 0 1 5 0) s = some (0, some (true, 0)) ∧ host 0x20008 (.atomic 0 1 5 0) atomic = some (12, some (true, 7))) ∧
    (host 0x20008 (.atomic 9 1 5 7) atomic = some (5, some (true, 7)) ∧ host 0x20008 (.atomic 9 1 5 8) atomic = some (7, some (true, 7)) ∧
      host 0x20008 (.atomic 0 0 0xFFFFFFFF 0) atomic = some (6, some (true, 7)) ∧ host 0x20009 (.write [1, 2]) s = some (0x20100, some (true, 0))) ∧
    (peer (.peerAccess 0x10008 (w 6)) s = some (6, some (true, 0)) ∧ peer (.peerAccess 0x10008 (.atomic 8 1 6 0)) s = some (6, some (true, 0)) ∧
      peer (.reductionWrite 0x1000C 4 0 (-3)) s = some ((2 ^ 32 - 3) * 2 ^ 32, some (true, 0)) ∧ peer (.reductionWrite 0x10008 7 1 9) s = some (9, some (true, 0))) := by
  refine ⟨?_, ?_, ⟨reach_ok ?_, reach_ok ?_, ?_⟩, ?_, ?_, ?_, ?_, ?_⟩ <;> decide +kernel

/-- Submissions before and after readiness; a history with an identifier and without; key operations; a port lost once and again; a
reset with two ports; each check of the boot load failing at the edge of its range, and a load (O53). -/
theorem witness_BringUp :
    let s := State.reset
    let phase (n : Nat) (s : State) : State := { s with plat := { s.plat with bootPhase := BitVec.ofNat 3 n } }
    let key (k : KeySlot) : State := { s with ms := { s.ms with keys := [(1023, k)] } }
    let slotAfter (i : Instr) (s : State) : Option (BitVec 2) := after (exec i s) fun t => (t.ms.keySlot 1023).state
    let up := phase 4 (launching [])
    let load := phase 2 { s with ms := { s.ms with keys := [(0, { state := 1, key := 0 })] } }
    let still : State := { load with plat := { load.plat with islands := vset load.plat.islands 72 { vget load.plat.islands 72 with stop := true } } }
    let boot (a n : BitVec 64) (sig rd : Bool) (s : State) : Option (Nat × Nat) :=
      after (exec (.bootLoad 1 2 sig rd) { s with plat := { s.plat with bootAddr := a, bootLen := n } }) fun t => (t.plat.bootPhase.toNat, t.plat.bootErr.toNat)
    let history (id : BitVec 16) : State := { s with sch := { s.sch with history := [(6, 0, 1), (7, 0, 2), (7, 0, 3)] }, plat := { s.plat with hqlid := id } }
    (after (exec (.submit 31 0) s) (fun t => vget t.plat.results 31) = some 2 ∧ pathOk 0x100_0000_0200 true true = true ∧ up.slotOf (up.queueCtx 0) = some 0 ∧
      (∃ bs, up.readRange 0 0 0x100_0000_0200 256 = .ok bs)) ∧
    (after (exec (.hqlid 7) s) (fun t => t.plat.hqlid) = some 7 ∧ after (exec (.hqlid 7) (history 6)) (fun t => t.hqout) = some 2 ∧
      (history 8).hqout = 0 ∧ (history 7).hqout = 2 ∧ reportOf (.hqlid 7) still = some .idle) ∧
    (slotAfter (.ksLoad 1023 5) s = some 1 ∧ slotAfter (.ksInvalidate 1023) (key { state := 1, key := 5 }) = some 2 ∧ slotAfter (.ksInvalidate 1023) s = some 0 ∧
      slotAfter (.ksErase 1023) (key { state := 2, key := 5 }) = some 0 ∧ slotAfter (.ksErase 1023) (key { state := 1, key := 5 }) = some 0 ∧
      after (exec (.ksLoad 1023 5) s) (fun t => (t.plat.ksslot, t.plat.ksdata)) = some (1023, 5) ∧ reportOf (.ksErase 1023) still = some .idle) ∧
    (after (exec (.ualinkPortLoss 15) s) (fun t => t.plat.ualLost.toNat) = some 32768 ∧
      reportOf (.ualinkPortLoss 15) { s with plat := { s.plat with ualLost := 32768 } } = some .idle ∧
      after (exec (.cxlPortError 7 true) s) (fun t => ((vget t.plat.cxl 7).err, (vget t.plat.cxl 7).lost, (vget t.plat.cxl 7).up)) = some (true, true, false)) ∧
    (after (exec (.deviceReset [3, 4]) s) (fun t => (t.plat.bootPhase.toNat, (vget t.plat.cxl 1).up, (vget t.plat.cxl 1).frames.toNat, (vget t.plat.cxl 2).up)) =
      some (1, true, 4, false) ∧ after (exec (.deviceReset [3, 4]) up) (fun t => (t.plat.bootPhase.toNat, (vget t.plat.cxl 1).up)) = some (0, false)) ∧
    (reportOf (.bootLoad 0 0x10000 true true) s = some .idle ∧ reportOf (.bootLoad 0 0x10000 true true) still = some .idle ∧
      after (exec (.bootLoad 3 4 true true) (phase 1 s)) (fun t => (t.plat.bootPhase.toNat, t.plat.bootAddr.toNat, t.plat.bootLen.toNat)) = some (2, 3, 4) ∧
      boot 0 0xFFFF true true load = some (5, 2) ∧ boot 0 0x1000_0001 true true load = some (5, 2) ∧
      boot 0 0x10000 true false load = some (5, 3) ∧ boot 1 0x10000 true true load = some (5, 3) ∧ boot (2 ^ 52 - 0x10000) 0x10001 true true load = some (5, 3) ∧
      boot 0 0x10000 false true load = some (5, 1) ∧ boot 0 0x10000 true true (phase 2 s) = some (5, 4) ∧ canonicalAbove devReset none load.regs = true) := by
  refine ⟨⟨?_, ?_, ?_, ok_of ?_⟩, ?_, ?_, ?_, ?_, ?_⟩ <;> decide +kernel
/-! Register rows and the privileged window. -/

/-- The words of a region table with one region of a type on schedule 0. -/
def tableBytes (type : Nat) : List Byte :=
  ((List.range 8).flatMap fun d => leBytes (64 + d) 8) ++ leBytes 0 8 ++ leBytes 1 8 ++ leBytes 0 48 ++ leBytes 0x2000_0700_0000_0000 8 ++ leBytes 128 8 ++
    leBytes 0 4 ++ leBytes type 12 ++ leBytes 0 2016

/-- The device of `paged` without a task, its table in page 0, schedule 0 enabled. -/
def tabled (type : Nat) : State :=
  let s := (paged []).setDev 0xA08 0x8000_0000_0000_0100
  let s := { s with ms := { s.ms with main := s.ms.main.writeList (8 * 65536 + 0x400) (tableBytes type) }, lat := State.reset.lat }
  s.setCore 0 Core.reset

/-- Masks of a wake; no held command, an open one and a finished one; a saved task under the save disposition and one that is not; a
launch with a running task; tests of a fenced core, of none, and with one under way (O54). -/
theorem witness_RegisterRows :
    let s := State.reset
    let emul (done : Bool) : State := s.setCore 0 { tasked with en := { tasked.en with emul := some (mcmd (.tzero plain 2) 0 0 0), emulDone := done } }
    let held : State := walking [] [{ saved1 with ready := false }]
    let run : State := withTask (walking [{ launch1 8 .running with next := 1 }] []) 8
    let fence : State := (s.setDev 0xA60 1)
    let testing : State := { fence with plat := { fence.plat with iftBusy := true, iftPass := true, fenced := [(0, 0)] } }
    let tested : State := { testing with plat := { testing.plat with iftBusy := false } }
    let ift (v : BitVec 64) (s : State) := after (exec (.iftStart v) s) fun t => t.plat.iftBusy
    let clear (n : Fin 12) (v : BitVec 64) (s : State) := after (exec (.cfenceClear n v) s) fun t => t.cfence 0
    (after (exec (.wake 0 8) s) (fun t => [Clu.c, .a, .v, .m].map fun x => ((t.core 0).clu x).wake) = some [false, false, false, true] ∨
      after (exec (.wake 0 8) s) (fun t => ([Clu.c, .a, .v, .m].filter fun x => ((t.core 0).clu x).wake).length) = some 1) ∧
    (after (exec (.emudoneFinish 0) s) (fun t => (t.core 0).en.emulDone) = some false ∧ after (exec (.emudoneFinish 0) (emul false)) (fun t => (t.core 0).en.emulDone) = some true ∧
      after (exec (.emudoneFault 0) (emul false)) (fun t => ((t.core 0).clu .m).tcause.toNat % 256) = some 0xE ∧
      after (exec (.emudoneFault 0) (s.setCore 0 { tasked with en := { tasked.en with emul := some { mcmd (.tcvt plain 2 3 0) 0 0 0 with shA := 0xC_0000 } } }))
        (fun t => ((t.core 0).clu .m).tcause.toNat % 256) = some 0xF ∧
      after (exec (.emudoneFault 0) (emul true)) (fun t => (t.core 0).en.emul.isSome) = some true) ∧
    (after (exec (.tresumePlace 0) held) (fun t => t.sch.saved.map (·.ready)) = some [true] ∧ after (exec (.tresumeKill 0) held) (fun t => t.sch.saved.length) = some 0 ∧
      after (exec (.tresumeKill 0) (walking [] [{ saved1 with byDisposition := true }])) (fun t => t.sch.saved.length) = some 0 ∧
      after (exec (.tresumeKill 0) (walking [] [saved1])) (fun t => t.sch.saved.length) = some 1 ∧
      after (exec (.tresumePlace 1) held) (fun t => t.sch.saved.map (·.ready)) = some [false] ∧
      after (exec (.tresumeKill 0) (walking [launch1 8 .running] [{ saved1 with ready := false }])) (fun t => t.sch.launches.map fun l => (l.terminated, l.next)) = some [(1, 4)]) ∧
    (after (exec (.lctlSave 1) run) (fun t => (t.core 0).save.map (·.reason)) = some (some 3) ∧ after (exec (.lctlSave 2) run) (fun t => (t.core 0).save.isSome) = some false ∧
      reportOf (.lctlKill 2) run = some .issued ∧ after (exec (.lctlKill 1) run) (fun t => ((t.core 0).term.isSome, t.sch.launches.map fun l => (l.state, l.next))) =
        some (true, [(.ending 4, 4)]) ∧
      after (exec (.lctlKill 1) (walking [{ launch1 8 (.ending 2) with next := 4 }] [])) (fun t => t.sch.launches.map (·.state)) = some [.ending 4] ∧
      after (exec (.lctlKill 1) (walking [{ launch1 8 (.ending 3) with next := 4 }] [])) (fun t => t.sch.launches.map (·.state)) = some [.ending 3]) ∧
    (ift 0x8000_0000_0000_0000 fence = some true ∧ ift 0x8000_0000_0000_0001 fence = some false ∧ ift 0 fence = some false ∧ ift 0x8000_0000_0000_0300 fence = some false ∧
      reportOf (.iftComplete true) s = some .idle ∧ after (exec (.iftComplete false) testing) (fun t => (t.plat.iftBusy, t.plat.iftPass)) = some (false, false)) ∧
    (clear 0 1 tested = some false ∧ clear 0 2 tested = some true ∧ clear 1 1 tested = some true ∧ clear 0 1 testing = some true ∧
      canonicalAbove devReset none tested.regs = true) := by
  refine ⟨?_, ?_, ?_, ?_, ?_, ?_⟩ <;> decide +kernel

/-- A change of an enabled schedule waits for its instant; a disabled one comes into force at once (O54). -/
theorem witness_ScheduleInForce :
    let on : State := { State.reset.setDev 0xA08 0x8000_0000_0000_0100 with
      lat := { State.reset.lat with inForce := vset State.reset.lat.inForce 0 0x8000_0000_0000_0100 } }
    let now (s : State) := after (exec (.xschWrite 0 0x8000_0000_0000_0200) s) fun t => ((vget t.lat.inForce 0).toNat % 2 ^ 32, (t.dev 0xA08).toNat % 2 ^ 32)
    now on = some (0x100, 0x200) ∧ now State.reset = some (0x200, 0x200) := by
  refine ⟨?_, ?_⟩ <;> decide +kernel

set_option maxRecDepth 100000 in
/-- A line of the range and one outside it, a write of another scope; a context in use, a table that loads, one that a check refuses, an
address off the paths; schedule periods at and below the least, a mode there is none of, and a schedule in use (O54). -/
theorem witness_TablesAndSchedules :
    let ln (page : Nat) : L1Line := { line := page, slot := 0, tid := 1, page := page, ro := false, valid := 0xFFFF_FFFF_FFFF_FFFF, data := 0 }
    let cached : State := State.reset.setCore 0 { tasked with en := { tasked.en with l1 := [ln 5, ln 6] } }
    let inUse (tag : Nat × Nat × Nat) : State := cached.onCore 0 fun k =>
      { k with en := { k.en with mq := [{ mcmd (.tst plain 2 7) 0 0 0 with places := [{ placeAt 0 with tag := tag }] }] } }
    let left (i : Instr) := after (exec i cached) fun t => (t.core 0).en.l1.map (·.page)
    let used : State := { State.reset with lat := { State.reset.lat with tables := [table 1] } }
    let sch (v : BitVec 64) (s : State) := after (exec (.xschWrite 0 v) s) fun t => (t.dev 0xA08).toNat
    let stat (i : Instr) (s : State) := after (exec i s) fun t => (t.lat.statDetail.toNat, t.lat.tables.length)
    (left (.shootdownPages 0x100_0005_0000) = some [6] ∧ left (.shootdownTensor 0x0100_0100_0000_0000) = some [] ∧ left (.shootdownContext 0x0200_0000_0000_0000) = some [] ∧
      reportOf (.shootdownTensor 0x100_0005_0000) cached = some .idle ∧
      reportOf (.shootdownPages 0x100_0005_0000) (inUse (0, 1, 5)) = some .idle ∧ reportOf (.shootdownPages 0x100_0005_0000) (inUse (0, 1, 6)) = some .issued) ∧
    ((paged []).ctxBusy 0 = true ∧ (tabled 1).ctxBusy 0 = false ∧ (tabled 1).slotOf 0 = some 0 ∧ stat .lrtUnload (paged []) = some (9, 1) ∧
      stat .lrtUnload { tabled 1 with lat := used.lat } = some (0, 0) ∧ reportOf (.lrtLoad 0) (tabled 1) = some .idle ∧
      stat (.lrtLoad 0x9000_0000_0000_0000) (tabled 1) = some (1, 0)) ∧
    (∃ bs, (tabled 1).readRange 0 0 0x100_0000_0400 2176 = .ok bs) ∧ pathOk 0x100_0000_0400 true false = true ∧
    ((tabled 1).tableFault (tableBytes 1) = none ∧ (tabled 0).tableFault (tableBytes 0) = some (3, 0) ∧ (tabled 1).tableFault (tableBytes 16) = some (2, 0)) ∧
    (sch 0x8000_0000_0000_00FF State.reset = some 0 ∧ sch 0x8000_0000_0000_0100 State.reset = some 0x8000_0000_0000_0100 ∧
      sch 0x8C00_0000_0000_0100 State.reset = some 0 ∧ sch 5 used = some 0 ∧ sch 5 State.reset = some 5) := by
  refine ⟨?_, ?_, ok_of ?_, ?_, ?_, ?_⟩ <;> decide +kernel

/-- A register a write reaches, one that only reads, the two that are rows of their own, and one there is none of (O54); user level, a
misaligned offset, offsets at both ends of each range, and registers that read and write, only read, or are absent (O55). -/
theorem witness_PrivilegedWindow :
    let s (x : Word) (c : Clu := .c) : State := (onCore0 c ((tasked.onClu .c fun y => { y with priv := true, g := file [(1, x), (2, 7)] }).onClu .v fun y =>
      { y with priv := true, g := file [(1, x), (2, 7)] }))
    let u (x : Word) : State := withRegs .c [(1, x)]
    let c (x : Word) := causeAfter (.ld 3 1 3 0) (s x)
    let w (n : Nat) : Word := BitVec.ofNat 64 (15 * 2 ^ 60 + 0x100_0000 + 8 * n)
    (regFault 0x900 .c true true = none ∧ (regFault 0x813 .c true true).isSome = true ∧ reportOf (.registerWrite 0 0x900 5) State.reset = some .issued ∧
      reportOf (.registerWrite 0 0xA00 5) State.reset = some .idle ∧ reportOf (.registerWrite 0 0xFFF 5) State.reset = some .idle) ∧
    (causeAfter (.ld 3 1 3 0) (u (w 0x900)) = some 3 ∧ c (w 0x900 + 4) = some 9 ∧ c (w 0x900 + 2 ^ 40) = some 8 ∧ c (w 0x7FF) = some 8 ∧ c (w 0x1000) = some 8 ∧
      causeAfter (.ld 3 1 2 0) (s (w 0x900)) = some 8) ∧
    (gAfter (.ld 3 1 3 0) (s (w 0x900)) 3 = gAfter (.mfs 3 0x900) (s (w 0x900)) 3 ∧ c (w 0xFFF) = some 8 ∧
      after (exec (.st 1 2 3 0) (s (w 0x821))) (fun t => t.dev 0x821) = some 7) := by
  refine ⟨?_, ?_, ?_⟩ <;> decide +kernel
/-! Steps. -/

/-- A well-formed instruction of a short and of a long major, with both values of S and E, and the words of each (O56). -/
theorem witness_Encoding :
    wellFormed (.li 5 2) = true ∧ decode 0x39280002 0 = .ok (.li 5 2) ∧ (encode false true (.li 5 2)).length = 1 ∧
    wellFormed (.tmma { plain with wait := 2, post := 2 } 5 1 2) = true ∧ decode 0xED121400 0x09000000 = .ok (.tmma { plain with wait := 2, post := 2 } 5 1 2) ∧
    encode false true (.tmma { plain with wait := 2, post := 2 } 5 1 2) = [0xED121400, 0x09000000] ∧ 0xED121400 < 2 ^ 32 ∧ 0x09000000 < 2 ^ 32 := by decide +kernel

/-- A step's report and a view of the state it leaves. -/
def stepped {α : Type} (s : State) (f : State → α) : Option (Report × α) := after (step s) fun t => (t.report, f t)

/-- Bundle turns: a cluster that may not issue, a fetch fault, a word that decodes to nothing, an instruction, a bundle of two, a sync bundle; an event turn of an event and of an instruction; host and peer bytes; an empty agenda
with a ready cluster and with none (O58). -/
theorem witness_Steps :
    let turn (s : State) (x : Clu) (dt : Nat := 1) : State := { s with agenda := [.bundle 0 x dt] }
    let go (ws : List Nat) : State := turn (program ws) (program ws).cur.clu
    let cause (t : State) : Nat := (t.me.clu t.cur.clu).tcause.toNat % 256
    let li : Nat := 0x39280002
    (stepped (turn State.reset .c) (·.cadence.toNat) = some (.idle, 1) ∧
      stepped { go [li] with agenda := [.event .exchangeLineDelivery 3] } (fun t => (t.cadence.toNat, t.agenda.length)) = some (.idle, 3, 0) ∧
      stepped { go [li] with agenda := [.event .nop 3] } (fun t => t.cadence.toNat) = some (.idle, 3)) ∧
    (stepped (go [2 ^ 24]) cause = some (.trapped, 1) ∧ stepped { go [li] with ms := { (go [li]).ms with keys := [] } } (fun t => decide (cause t ≠ 0)) = some (.trapped, true)) ∧
    (stepped (go [li]) (fun t => (t.cl.gReg 5, t.cl.pc)) = some (.issued, 2, 0x100_0000_0008) ∧ stepped (go [0x38280002, 0x39300003]) (fun t => (t.cl.gReg 5, t.cl.gReg 6)) =
      some (.issued, 2, 3) ∧ stepped (go [li + 2 ^ 25]) (fun t => t.cl.gReg 5) = some (.issued, 2)) ∧
    (stepped { State.reset with agenda := [.hostByte (2 ^ 52 - 1) 7 1] } (fun t => t.ms.host.read (2 ^ 52 - 1)) = some (.issued, 7) ∧
      stepped { go [li] with agenda := [.parity 0 (go [li]).cur.clu 1] } cause = some (.trapped, 0x21) ∧
      stepped { State.reset with agenda := [.parity 0 .c 1] } (fun t => t.cadence.toNat) = some (.idle, 1) ∧
      stepped { State.reset with agenda := [.peerByte (2 ^ 58 - 1) 7 1] } (fun t => t.ms.peer.read (2 ^ 58 - 1)) = some (.issued, 7)) ∧
    (State.reset.nextTurn = none ∧ stepped State.reset (fun t => t.cadence.toNat) = some (.idle, 1) ∧ (program [li]).nextTurn = some (0, (program [li]).cur.clu) ∧
      stepped (program [li]) (fun t => t.cl.gReg 5) = some (.issued, 2)) := by
  refine ⟨?_, ?_, ?_, ?_, ?_⟩ <;> decide +kernel

/-- The canonical form of O60's hypothesis stands at reset and in a state with a program, and both take a step that keeps it. -/
theorem witness_StepsKeep :
    State.reset.wf = true ∧ (program [0x39280002]).wf = true ∧ (after (step State.reset) State.wf) = some true ∧
    (after (step (program [0x39280002])) State.wf) = some true := by decide +kernel
/-! Further clauses. -/

/-- The device of `paged` with a cluster executing at privileged level and some registers. -/
def privOn (x : Clu) (l : List (Nat × Word)) : State :=
  let s := paged []
  { s.onMe fun k => k.onClu x fun c => { c with g := file l, priv := true } with cur := { core := s.cur.core, clu := x } }

/-- A command with a range and a staged run on a channel, and none; what a read clears: a late stamp, a verdict, a history, a link's and
an island's counts; registers of each cluster class and of the device that a read reaches (O9). -/
theorem witness_RegisterReads :
    let c := privOn .c []
    let a := privOn .a []
    let cmd := { command (.copy plain 2 1 2 3) 0x9000_0000_0000_0000 0x9000_0000_0000_0020 32 7 0 with range := some (1, 64, 32), filled := 16 }
    let run : ChCmd := { command (.seqrunCopy plain 2 3 1 0) 0x9000_0000_0000_0000 0 0 8 1 with depth := 2, prog := 3, range := none }
    let chan (l : List ChCmd) : State := a.onEn fun e => { e with chans := vset e.chans 2 { Channel.reset with cmds := l, wm := 77 } }
    let late : State := (privOn .m []).onSt fun t => { t with stampc := 0x5_0000_0001 }
    let kept : State := c.onRg fun r => { r with dpstat := 0x8000_0000_0000_0005, ecpri := { r.ecpri with total := 9 } }
    let lk : State := withLink (fun l => { l with crcerr := 3, replays := 4 }) c
    let isl : State := { c with plat := { c.plat with islands := vset c.plat.islands 9 { vget c.plat.islands 9 with stretch := 6, margin := 7 } } }
    (∀ n ∈ ([0, 2, 0x010, 0x030, 0x031, 0x032, 0x040, 0x060, 0x070, 0x0C0, 0x0C7, 0x0CB, 0x100, 0x111, 0x805, 0x80B, 0x840, 0x850, 0x856, 0x880, 0x8C7, 0x90F,
        0x97C, 0xA02, 0xA6B, 0xA71, 0xB00, 0xB3F, 0xB40, 0xC3F, 0xC52, 0xD00, 0xD6E, 0xE1F, 0xE47, 0xE61, 0xE74, 0xECB, 0xF4B, 0xF57, 0xF5F, 0xF72] : List Nat),
      regFault n .c true false = none ∧ c.regWaits n = false) ∧
    (∀ n ∈ ([0x080, 0x087, 0x090, 0x09F, 0x0A7, 0x0B0] : List Nat), regFault n .a true false = none ∧ a.regWaits n = false) ∧
    (∀ n ∈ ([0x011, 0x012, 0x050, 0x05F] : List Nat), regFault n .m true false = none ∧ late.regWaits n = false) ∧
    (gAfter (.mfs 1 0x082) (chan []) 1 = some 77 ∧ gAfter (.mfs 1 0x082) (chan [cmd, run]) 1 = some 0x9000_0000_0000_0050 ∧
      (run.staged = true ∧ cmd.staged = false) ∧ gAfter (.mfs 1 0x082) (chan [run]) 1 = some 3 ∧ gAfter (.mfs 1 0x0B0) (chan [cmd]) 1 = some 0 ∧
      run.runKind.isSome = true ∧ gAfter (.mfs 1 0x0B0) (chan [cmd, run]) 1 = run.runKind.map fun k => BitVec.ofNat 64 (2 ^ 63 + k * 2 ^ 56 + 3 * 2 ^ 52 + 2 * 2 ^ 48 + 3)) ∧
    (after (exec (.mfs 1 0x012) late) (fun t => (t.cl.gReg 1, t.me.st.stampc)) = some (0x5_0000_0001, 1) ∧
      after (exec (.mfs 1 0x850) kept) (fun t => (t.cl.gReg 1, t.me.rg.dpstat)) = some (0x8000_0000_0000_0005, 5) ∧
      after (exec (.mfs 1 0x851) kept) (fun t => (t.cl.gReg 1, t.me.rg.ecpri.total)) = some (9, 0)) ∧
    (after (exec (.mfs 1 0xD03) lk) (fun t => (t.cl.gReg 1, (vget t.plat.links 0).crcerr)) = some (0x3_0000_0004, 0) ∧
      after (exec (.mfs 1 0xE89) isl) (fun t => (t.cl.gReg 1, (vget t.plat.islands 9).stretch)) = some (0x0A8C_0700_0000_0006, 0)) := by
  refine ⟨?_, ?_, ?_, ?_, ?_, ?_⟩ <;> decide +kernel

/-- What an MTS of a value by the control cluster leaves. -/
def written {α : Type} (s : State) (n : BitVec 12) (x : Word) (f : State → α) : Option α :=
  after (exec (.mts n 1) (s.onCl fun c => { c with g := file [(1, x)] })) f

/-- Registers that ones clear, that take some bits, and that act; each write a rule has ignored beside the nearest that it does not (O10). -/
theorem witness_RegisterWrites :
    let s := privOn .c []
    let dev (n : BitVec 12) (x : Word) (s : State) := written s n x fun t => t.dev n.toNat
    let flags := s.onRg fun r => { r with aflags := 0xFF, ecshd := { r.ecshd with lasting := true } }
    let busy : State := { s with sch := { s.sch with launches := [launch1 8 .running] } }
    let saved : State := { s with sch := { s.sch with saved := [saved1] } }
    let two := (s.setDev 0xE10 0x8000_0000_0001_0000).setDev 0xE11 2
    let ev : State := { s with plat := { s.plat with evHead := 9 } }
    let err : State := { s with plat := { s.plat with cxl := vset s.plat.cxl 7 { vget s.plat.cxl 7 with err := true } } }
    (∀ n ∈ ([0x840, 0x850, 0x852, 0x820, 0x811, 0xC00, 0xC40, 0xC48, 0xC58, 0xE71, 0xF00, 0xF4B, 0xA6B] : List Nat),
      regFault n .c true true = none ∧ s.writeWaits n 0 = false) ∧
    (written flags 0x840 0x0F (fun t => t.me.rg.aflags) = some 0xF0 ∧ written flags 0x852 (2 ^ 63) (fun t => t.me.rg.ecshd.lasting) = some false ∧
      written flags 0x852 (2 ^ 62) (fun t => t.me.rg.ecshd.lasting) = some true ∧ written s 0x8C7 0xFFFF (fun t => vget t.me.rg.pmsel 7) = some 0xFFF ∧
      written s 0x856 (2 ^ 40 - 1) (fun t => t.me.rg.ewxfr) = some (2 ^ 36 - 1) ∧
      written (privOn .a []) 0x0A7 0xFFFF (fun t => (vget t.me.en.chans 7).pgdst) = some 0xFFC0 ∧
      written s 0x820 2 (fun t => ((t.me.clu .a).wake, (t.me.clu .v).wake, (t.me.clu .c).wake)) = some (true, false, false)) ∧
    (dev 0x97C 0x1_0000_0080 s = some 0x1_0000_0080 ∧ dev 0x97C 0x1_0000_0080 (s.setDev 0x97C 0x80) = some 0x80 ∧ dev 0x97C 0 (s.setDev 0x97C 0x80) = some 0) ∧
    (dev 0xC00 0x8000_0000_0000_1000 s = some (s.dev 0xC00) ∧ dev 0xC3F 0x8000_0000_0000_1005 s = some 0x8000_0000_0000_1005 ∧
      written { s with plat := { s.plat with enCtx := vset s.plat.enCtx 63 7 } } 0xC3F 0x8000_0000_0000_1005 (fun t => vget t.plat.enCtx 63) = some 0) ∧
    (dev 0xC51 0x1_0005 s = some 5 ∧ dev 0xC51 5 saved = some 0) ∧
    (dev 0xE13 1 (two.setDev 0xE12 0x8000_0000_0003_0000) = some 1 ∧ dev 0xE13 1 (two.setDev 0xE12 0x8000_0000_0002_0000) = some 0 ∧
      dev 0xE12 0x8000_0000_0001_0000 two = some 0x8000_0000_0001_0000) ∧
    (dev 0xE71 0x8000 s = some 0x8000 ∧ dev 0xE71 0x8001 s = some (s.dev 0xE71) ∧ dev 0xE73 9 ev = some 9 ∧ dev 0xE73 10 ev = some 0) ∧
    (dev 0xF57 199 s = some (s.dev 0xF57) ∧ dev 0xF57 200 s = some 200 ∧ dev 0xF57 0 (s.setDev 0xF57 200) = some 0 ∧
      written err 0xE47 (2 ^ 62) (fun t => (vget t.plat.cxl 7).err) = some false) ∧
    (written s 0xF00 1 (fun t => (vget t.plat.islands 0).state) = some 1 ∧ written s 0x811 1 (fun t => t.report) = some s.report ∧
      written busy 0xC58 (5 * 2 ^ 61 + 1) (fun t => t.sch.launches.map (·.state)) = some [.ending 4] ∧
      written busy 0xC58 (7 * 2 ^ 61 + 1) (fun t => t.sch.launches.map (·.state)) = some [.running]) := by
  refine ⟨?_, ?_, ?_, ?_, ?_, ?_, ?_, ?_, ?_⟩ <;> decide +kernel

/-- A load goes to a byte of peer memory, or an access to one of core k's A buffer. -/
def reachesPeer (s : State) (a : Word) (h : Nat) : Bool := (targetOf s a 8 .load).any fun
  | .peer x => x == h
  | _ => false

def reachesA (s : State) (a : Word) (kind : AccessKind) (k : Fin 768) (off : Nat) : Bool := (targetOf s a 8 kind).any fun
  | .buf j b o => j == k && b == 1 && o == off
  | _ => false

/-- PEER addresses with a bit of 59:58 and without, to a lost chip and to another; quad addresses with a bit of 59:42, to a core without
a task, of another launch and of the same, at both ends of the footprint (O15). -/
theorem witness_PeerAndQuadChecks :
    let s : State := let s := paged []; { s with plat := { s.plat with ualLost := 2 } }
    let with1 (lid : BitVec 16) : State := s.setCore 1 { tasked with task := some { placedTask with footA := 64, lid := lid } }
    let out (a : Word) (k : AccessKind) := trapOf (s.target a 8 k)
    (out 0x5400_0000_0000_0000 .load = some (8, 0, 0x5400_0000_0000_0000) ∧ out 0x5001_0000_0000_0000 .load = some (0x21, 0, 0x5001_0000_0000_0000) ∧
      out 0x5021_0000_0000_0000 .store = some (0x21, 0, 0x5021_0000_0000_0000) ∧
      reachesPeer s 0x5002_0000_0000_0010 (2 * 2 ^ 48 + 16) = true) ∧
    (out 0xC000_0400_0000_0000 .load = some (8, 0, 0xC000_0400_0000_0000) ∧ out 0xC000_0100_0000_0000 .load = some (8, 0, 0xC000_0100_0000_0000) ∧
      trapOf ((with1 2).target 0xC000_0100_0000_0038 8 .load) = some (8, 0, 0xC000_0100_0000_0038) ∧
      reachesA (with1 placedTask.lid) 0xC000_0100_0000_0038 .load 1 56 = true ∧
      trapOf ((with1 placedTask.lid).target 0xC000_0100_0000_0040 8 .load) = some (8, 0, 0xC000_0100_0000_0040) ∧
      reachesA s 0xC000_0000_0000_0038 .store 0 56 = true ∧ out 0xC000_0000_0000_0040 .store = some (8, 0, 0xC000_0000_0000_0040)) := by
  refine ⟨?_, ?_⟩ <;> decide +kernel

/-- Every atomic in the reduction window with a destination and with none, and through a stopped I/O die (O19). -/
theorem witness_ReductionWindow :
    let s := paged [(1, 0x4000_0000_0000_0FF8), (2, 0x5000_0000_0000_2000), (3, 7)]
    let r := (s.setDev 0xE38 0x2000).setDev 0xE39 0x100
    let r := { r with ms := { r.ms with peer := r.ms.peer.writeLe 0x2000 8 12 } }
    let io : State := { s with plat := { s.plat with islands := vset s.plat.islands 72 { vget s.plat.islands 72 with stop := true } } }
    let sized (d : Reg) : List Instr := [.aadd d 2 3 1 0 0, .aand d 2 3 1 0 0, .aor d 2 3 1 0 0, .axor d 2 3 1 0 0, .amin d 2 3 1 0 0, .amax d 2 3 1 0 0,
      .aminn d 2 3 1 0 0, .amaxn d 2 3 1 0 0]
    ((sized 4 ++ [Instr.afadd 4 2 3 0 0, .aswp 0 2 3 1 0 0, .acas 0 2 3 1 0 0]).all fun i => causeAfter i r == some 8) = true ∧
    (sized 0 ++ [Instr.afadd 0 2 3 0 0]).map (fun i => after (exec i r) fun t => t.ms.peer.readLe 0x2000 8) =
      [some 19, some 4, some 15, some 11, some 7, some 12, some 7, some 12, some (addF32 12 7 0 false 0).1] ∧
    (io.ioStops true = true ∧ reportOf (.aadd 4 1 3 1 0 0) io = some .stalled ∧ io.peerStops 7 = true ∧ io.peerStops 8 = false) := by
  refine ⟨?_, ?_, ?_⟩ <;> decide +kernel

/-- The device of `paged` with regions of another type, and an operand. -/
def cells (type : Nat) (op : Word) : State :=
  let s := paged [(1, 0x2000_0700_0000_0000), (2, op), (3, 0x2000_0700_0000_0008)]
  { s with lat := { s.lat with tables := [table type] } }

/-- The words of the first cell of a die after some joins in a row. -/
def cellAfter (type : Nat) (d : Fin 8) (ops : List Word) (n : Nat) : List Nat :=
  let t := ops.foldl (fun t op => match exec (.join 1 2) (t.onCl fun c => { c with g := vset c.g 2 op }) with
    | .next u => u
    | _ => t) (cells type 0)
  let l := t.latCell (table type) (region type) d 0x2000_0700_0000_0000
  (List.range n).map fun j => leNat ((l.drop (8 * j)).take 8)

set_option maxRecDepth 20000 in
/-- A join of each type and at the ends of signed order; a count that saturates and its sum; pairs ranked, repeated and beaten; a cell of
another die; assertions that hold and fail; a key slot that is not valid, and a stopped uncore (O23). -/
theorem witness_LatticeTypes :
    let lo : Word := 2 ^ 63
    let held (type : Nat) (op x : Word) : Bool :=
      assertOk type ((cells type 0).latJoin (table type) (region type) 0 0x2000_0700_0000_0000 x.toNat |>.latCell (table type) (region type) 0 0x2000_0700_0000_0000) op.toNat
    let keyed (b : BitVec 2) : State := let s := cells 1 5; { s with ms := { s.ms with keys := [(0, { state := b, key := 0 })] } }
    (table 1).dbase.toList.all (fun f => decide ((f % 8) < 8)) = true ∧ (∀ d : Fin 8, vget (table 1).dbase d % 8 = d.val) ∧
      (region 8).base.toNat % 128 = 0 ∧ (cells 8 0).ms.main.wf = true ∧
    (cellAfter 1 0 [5, 3] 1 = [5] ∧ cellAfter 2 0 [5, 3] 1 = [0] ∧ cellAfter 3 0 [5, lo] 1 = [5] ∧ cellAfter 4 0 [5, lo] 1 = [2 ^ 63] ∧
      cellAfter 5 0 [5, 3] 1 = [7] ∧ cellAfter 7 0 [0x3_0000_0009, 0x3_0000_0004, 0x2_0000_0001] 1 = [0x3_0000_0004]) ∧
    (cellAfter 6 0 [5, 2 ^ 64 - 6] 2 = [2 ^ 64 - 1, 0] ∧ cellAfter 6 0 [5, 2 ^ 64 - 1] 1 = [2 ^ 64 - 1] ∧ cellAfter 6 1 [5] 2 = [0, 0]) ∧
    (cellAfter 8 0 [0x3_0000_0009, 0x5_0000_0004, 0x3_0000_0009] 4 = [0x5_0000_0004, 0x3_0000_0009, 0, 0xFFFF_FFFF] ∧ cellAfter 8 1 [7] 1 = [0]) ∧
    (after (exec (.join 1 2) (cells 6 5)) (fun t => gAfter (.ldlat 6 3) t 6) = some (some 0) ∧
      after (exec (.join 1 2) (cells 6 5)) (fun t => gAfter (.ldlat 6 1) t 6) = some (some 5)) ∧
    (held 5 7 5 = true ∧ held 5 1 5 = false ∧ held 3 lo 5 = false ∧ held 4 lo 5 = true ∧ held 6 0 5 = true) ∧
    (reportOf (.join 1 2) (cells 1 5) = some (cells 1 5).report ∧ causeAfter (.joina 1 2) (cells 2 5) = some 0x17 ∧
      reportOf (.joina 1 2) (cells 1 5) = some (cells 1 5).report) ∧
    (causeAfter (.join 1 2) (keyed 0) = some 0xC ∧ causeAfter (.ldge 6 1 2) (keyed 2) = some 0xC ∧ (keyed 1).latKeyed (table 1) = true ∧
      reportOf (.join 1 2) (stoppedUncore (cells 1 5)) = some .stalled ∧ reportOf (.ldlat 6 1) (stoppedUncore (cells 1 5)) = some .stalled) := by
  refine ⟨?_, ?_, ?_, ?_, ?_, ?_, ?_, ?_, ?_, ?_, ?_⟩ <;> decide +kernel

/-- Peers of either I/O die, pages of HBM and one of the second tier, a page that does not translate, and a lattice cell; a request granted, one that stands in its queue already, and a version word behind a stopped I/O die (O27). -/
theorem witness_PlacesAndGrants :
    let s := paged [(1, 0x5007_0000_0000_0000), (2, 0x5008_0000_0000_0000), (3, pc0), (4, 0x100_0003_0000), (5, 0x2000_0700_0000_0000), (6, 0x100_0004_0000)]
    let far : State := { s with plat := { s.plat with cxl := vset s.plat.cxl 5 { vget s.plat.cxl 5 with up := true, frames := 4 } }
                                ms := { s.ms with main := s.ms.main.writeLe 32800 8 (5 * 2 ^ 24 + 9) } }
    let got : State := s.onRg fun r => { r with pwrGot := [(s.cur.clu, false)] }
    let q : PowerReq := { core := 0, by_ := some (s.cur.clu, false), level := 5 }
    let asked : State := { s with plat := { s.plat with dies := vset s.plat.dies 0 { vget s.plat.dies 0 with waiting := [q, { q with core := 1 }] } } }
    let levels (t : State) := (vget t.plat.dies 0).waiting.map fun r => (r.core, r.level)
    let io : State := { s.setDev 0xE30 0x100 with plat := { s.plat with islands := vset s.plat.islands 73 { vget s.plat.islands 73 with stop := true } } }
    (gAfter (.locq 7 1) s 7 = some 0x8000_0000_0000_0041 ∧ gAfter (.locq 7 2) s 7 = some 0x8000_0000_0000_0044 ∧
      gAfter (.locq 7 3) s 7 = some 0x8000_0000_0000_0010 ∧ gAfter (.locq 7 4) s 7 = some 0 ∧ gAfter (.locq 7 5) s 7 = some 0x8000_0000_0000_0050 ∧
      gAfter (.locq 7 6) s 7 = some 0x8000_0000_0000_0010 ∧ gAfter (.locq 7 6) far 7 = some 0x8000_0000_0000_0024) ∧
    (after (exec (.pwracq 200) got) (fun t => (t.report, t.me.rg.pwrGot)) = some (got.report, []) ∧
      after (exec (.pwracq 5) asked) levels = some [(0, 5), (1, 5)] ∧ after (exec (.pwracq 6) asked) levels = some [(1, 5), (0, 6)] ∧
      after (exec (.pwracq 4) (asked.onRg fun r => { r with pwrlvl := 4 })) levels = some [(1, 5)]) ∧
    (io.ioStops true = true ∧ reportOf .publ io = some .stalled) := by
  refine ⟨?_, ?_, ?_⟩ <;> decide +kernel

/-- A value at the middle of two numbers and beside it, past the largest with saturation and without, and draws below, at and above the
fraction (O36); a code that breaks its format, values on either side of each format's range, and NaN and infinities (O39). -/
theorem witness_RoundingAndConversion :
    (f16.round false 2049 0 0 false 0 = (0x6800, 0) ∧ f16.round false 2051 0 0 false 0 = (0x6802, 0) ∧ f16.round true 0 0 0 false 0 = (0x8000, 0) ∧
      f16.round false 65519 0 0 false 0 = (0x7BFF, 0) ∧ f16.round false 65520 0 0 false 0 = (0x7C00, OVF) ∧ f16.round true 65520 0 0 true 0 = (0xFBFF, OVF) ∧
      f16.round false 2051 0 1 false 0 = (0x6801, 0) ∧ f16.round false 70000 0 1 false 0 = (0x7BFF, OVF)) ∧
    (e4m3.round false 464 0 0 false 0 = (0x7E, 0) ∧ e4m3.round false 465 0 0 false 0 = (0x7F, OVF ||| INV) ∧ e2m1.round true 7 0 0 false 0 = (0xF, OVF)) ∧
    (f32.round false (2 ^ 24 + 1) 0 2 false (2 ^ 31 - 1) = (0x4B80_0000, 0) ∧ f32.round false (2 ^ 24 + 1) 0 2 false (2 ^ 31) = (0x4B80_0001, 0)) ∧
    (convert (.float e2m1) (.float f32) 16 0 false 0 = (0x7FC0_0000, FMTV) ∧ convert (.float f32) .log6 0x3F80_0000 0 false 0 = (16, 0) ∧
      convert (.float f32) .log6 0x7FC0_0000 0 false 0 = (32, 0) ∧ convert (.float f32) .log6 0xFF80_0000 0 true 0 = (63, INV) ∧
      convert (.float f32) .log6 0x4300_0000 1 false 0 = (31, OVF) ∧ convert (.int 32 true) (.int 8 true) 300 0 true 0 = (127, ISAT) ∧
      convert (.int 32 true) (.int 8 true) 300 0 false 0 = (44, 0) ∧ convert (.float f32) (.int 8 false) 0xBF80_0000 0 false 0 = (0, ISAT) ∧
      convert (.float f32) (.int 8 true) 0x7F80_0000 0 false 0 = (127, INV) ∧ convert (.float f32) (.float e4m3) 0x7F80_0000 0 false 0 = (0x7F, INV) ∧
      convert (.float f32) (.float e2m3) 0x7FC0_0000 0 false 0 = (0, INV)) := by
  refine ⟨?_, ?_, ?_, ?_⟩ <;> decide +kernel

/-- A word of each type pair that the engines take; a group of products, an I8 row and a LOG6 row that enter an accumulator (O42). -/
theorem witness_Groups :
    let w (a b m : Nat) : Word32 := BitVec.ofNat 32 (a * 2 ^ 28 + b * 2 ^ 24 + m * 2 ^ 22)
    (∀ x ∈ ([(1, 1, 0), (1, 2, 0), (2, 2, 0), (3, 3, 0), (3, 3, 1), (3, 3, 2), (4, 4, 0), (5, 6, 0), (6, 6, 0)] : List (Nat × Nat × Nat)),
      mmaWord (w x.1 x.2.1 x.2.2) false = .hard) ∧
    (groupStep (w 1 1 0) ((0x38, 0x38) :: List.replicate 15 (0, 0)) (some 0) 0x3F80_0000 = (0x4000_0000, 0) ∧
      groupStep (w 1 1 0) ((0x7F, 0) :: List.replicate 15 (0, 0)) (some 0) 0 = (0x7FC0_0000, 0) ∧
      groupStep (w 2 2 0) ((0x7C, 0) :: List.replicate 15 (0, 0)) (some 0) 0 = (0x7FC0_0000, INV) ∧
      groupStep (w 2 2 0) ((0x7C, 0x3C) :: List.replicate 15 (0, 0)) (some 0) 0xFF80_0000 = (0x7FC0_0000, INV) ∧
      groupStep (w 1 1 0) (List.replicate 16 (0, 0x80)) (some 0) 0x8000_0000 = (0x8000_0000, 0) ∧
      groupStep (w 1 1 0) (List.replicate 16 (0, 0)) none 0 = (0x7FC0_0000, 0)) ∧
    (groupStep (w 3 3 1) (List.replicate 64 (0x80, 0x80)) (some 0) 0x7FFF_FFFF = (0x800F_FFFF, 0) ∧
      groupStep (w 3 3 2) (List.replicate 64 (0x80, 0x80)) (some 0) 0x7FFF_FFFF = (0x7FFF_FFFF, ISAT) ∧
      groupStep (w 3 3 0) (List.replicate 64 (1, 0xFF)) (some 0) 0 = (0xC280_0000, 0)) ∧
    (groupStep (w 4 4 0) (List.replicate 64 (16, 16)) (some 0) 0 = (0x4280_0000, 0) ∧ groupStep (w 4 4 0) ((32, 0) :: List.replicate 63 (0, 0)) (some 0) 0 = (0x7FC0_0000, 0)) := by
  refine ⟨?_, ?_, ?_, ?_⟩ <;> decide +kernel

/-- What a load of a table records of its outcome. -/
def loadStat (i : Instr) (s : State) : Option (Nat × Nat) :=
  after (exec i s) fun t => (t.lat.statDetail.toNat, t.lat.statEntry.toNat)

/-- `tabled 1` with a lost line among the table's. -/
def lostTable : State :=
  let t := tabled 1
  { t with ms := { t.ms with poison := [(8 * 65536 + 0x400) / 64] } }

set_option maxRecDepth 100000 in
/-- A task that is placed and restoring, named by a kill and not; a translation that a copy's piece on its way uses and one that it does
not; a load of a table whose context is in use or in no slot (O54). -/
theorem witness_KillShootAndLoad :
    let wait : State := let s := walking [{ launch1 8 .running with next := 4 }] [{ saved1 with ready := false, placed := true }]
      withTask s 8 fun c => { c with restoring := true }
    let fly : State := withChannel { Channel.reset with
      cmds := [command (.copy plain 2 1 2 3) 0x100_0000_0000 0x9000_0000_0000_0020 32 7 0]
      flight := some { writes := [(0x100_0000_FFF8, List.replicate 16 0)], pieces := [], tries := 0 } } []
    (after (exec (.tresumeKill 0) wait) (fun t => ((t.core 0).term.isSome, t.sch.saved.length, t.sch.launches.map (·.terminated))) = some (true, 1, [0]) ∧
      after (exec (.tresumeKill 1) wait) (fun t => (t.core 0).term.isSome) = some false) ∧
    (reportOf (.shootdownPages 0x100_0000_0000) fly = some .idle ∧ reportOf (.shootdownPages 0x100_0001_0000) fly = some .idle ∧
      reportOf (.shootdownPages 0x100_0002_0000) fly = some .issued) ∧
    (loadStat (.lrtLoad 0x100_0000_0400) ((tabled 1).setCore 0 tasked) = some (9, 255) ∧ ((tabled 1).setDev 0xC00 0).slotOf 0 = none ∧
      loadStat (.lrtLoad 0x100_0000_0400) ((tabled 1).setDev 0xC00 0) = some (1, 255)) := by
  refine ⟨?_, ?_, ?_⟩ <;> decide +kernel

set_option maxRecDepth 100000 in
/-- A table whose bytes can be read (O54). -/
theorem witness_TableReads :
    (match (tabled 1).readRange 0 0 0x100_0000_0400 2176 with
      | .ok _ => true
      | .error _ => false) = true := by
  decide +kernel

set_option maxRecDepth 100000 in
/-- A table that has no fault (O54). -/
theorem witness_GoodTable : ((tabled 1).tableFault (tableBytes 1)).isNone = true := by
  decide +kernel

set_option maxRecDepth 100000 in
/-- A load of a table with a lost line records nothing (O54). -/
theorem witness_LostTable : loadStat (.lrtLoad 0x100_0000_0400) lostTable = some (lostTable.lat.statDetail.toNat, lostTable.lat.statEntry.toNat) ∧
    (match lostTable.readRange 0 0 0x100_0000_0400 2176 with
      | .ok _ => false
      | .error (c, _, _) => c == 0x21) = true := by
  refine ⟨?_, ?_⟩ <;> decide +kernel
/-! Decoding: for every instruction a word with its fields written out from the encoding tables of 02. -/

theorem test_decode_major_01 :
    decode 0x053D1A00 0 = .ok (.add 7 0x14 13) ∧
    decode 0x053D1A01 0 = .ok (.sub 7 0x14 13) ∧
    decode 0x053D1A02 0 = .ok (.addt 7 0x14 13) ∧
    decode 0x053D1A03 0 = .ok (.subt 7 0x14 13) ∧
    decode 0x053D1A04 0 = .ok (.mul 7 0x14 13) ∧
    decode 0x053D1A05 0 = .ok (.mulh 7 0x14 13) ∧
    decode 0x053D1A06 0 = .ok (.mulhn 7 0x14 13) ∧
    decode 0x053D1A07 0 = .ok (.mult 7 0x14 13) ∧
    decode 0x053D1A08 0 = .ok (.div 7 0x14 13) ∧
    decode 0x053D1A09 0 = .ok (.divn 7 0x14 13) ∧
    decode 0x053D1A0A 0 = .ok (.rem 7 0x14 13) ∧
    decode 0x053D1A0B 0 = .ok (.remn 7 0x14 13) ∧
    decode 0x053D1A0C 0 = .ok (.min 7 0x14 13) ∧
    decode 0x053D1A0D 0 = .ok (.max 7 0x14 13) ∧
    decode 0x053D1A0E 0 = .ok (.minn 7 0x14 13) ∧
    decode 0x053D1A0F 0 = .ok (.maxn 7 0x14 13) :=
  ⟨rfl, rfl, rfl, rfl, rfl, rfl, rfl, rfl, rfl, rfl, rfl, rfl, rfl, rfl, rfl, rfl⟩

theorem test_decode_major_02 :
    decode 0x093D1A00 0 = .ok (.and 7 0x14 13) ∧
    decode 0x093D1A01 0 = .ok (.or 7 0x14 13) ∧
    decode 0x093D1A02 0 = .ok (.xor 7 0x14 13) ∧
    decode 0x093D1A03 0 = .ok (.andn 7 0x14 13) ∧
    decode 0x093D1A04 0 = .ok (.orn 7 0x14 13) ∧
    decode 0x093D1A08 0 = .ok (.shl 7 0x14 13) ∧
    decode 0x093D1A09 0 = .ok (.shr 7 0x14 13) ∧
    decode 0x093D1A0A 0 = .ok (.sra 7 0x14 13) ∧
    decode 0x093D1A0B 0 = .ok (.rol 7 0x14 13) ∧
    decode 0x093D1A0C 0 = .ok (.ror 7 0x14 13) :=
  ⟨rfl, rfl, rfl, rfl, rfl, rfl, rfl, rfl, rfl, rfl⟩

theorem test_decode_major_03 :
    decode 0x0D3D0000 0 = .ok (.clz 7 0x14) ∧
    decode 0x0D3D0001 0 = .ok (.ctz 7 0x14) ∧
    decode 0x0D3D0002 0 = .ok (.popc 7 0x14) ∧
    decode 0x0D3D0003 0 = .ok (.brev 7 0x14) ∧
    decode 0x0D3D0004 0 = .ok (.bswap 7 0x14) ∧
    decode 0x0D3D0008 0 = .ok (.sextI8 7 0x14) ∧
    decode 0x0D3D0009 0 = .ok (.sextI16 7 0x14) ∧
    decode 0x0D3D000A 0 = .ok (.sextI32 7 0x14) ∧
    decode 0x0D3D000C 0 = .ok (.zextN8 7 0x14) ∧
    decode 0x0D3D000D 0 = .ok (.zextN16 7 0x14) ∧
    decode 0x0D3D000E 0 = .ok (.zextN32 7 0x14) :=
  ⟨rfl, rfl, rfl, rfl, rfl, rfl, rfl, rfl, rfl, rfl, rfl⟩

theorem test_decode_major_04 :
    decode 0x113D1A00 0 = .ok (.cmpeq 7 0x14 13) ∧
    decode 0x113D1A01 0 = .ok (.cmpne 7 0x14 13) ∧
    decode 0x113D1A02 0 = .ok (.cmplt 7 0x14 13) ∧
    decode 0x113D1A03 0 = .ok (.cmple 7 0x14 13) ∧
    decode 0x113D1A04 0 = .ok (.cmpltn 7 0x14 13) ∧
    decode 0x113D1A05 0 = .ok (.cmplen 7 0x14 13) ∧
    decode 0x113D1A06 0 = .ok (.tstnz 7 0x14 13) :=
  ⟨rfl, rfl, rfl, rfl, rfl, rfl, rfl⟩

theorem test_decode_major_05 :
    decode 0x15390A00 0 = .ok (.pand 7 4 5) ∧
    decode 0x15390A01 0 = .ok (.por 7 4 5) ∧
    decode 0x15390A02 0 = .ok (.pxor 7 4 5) ∧
    decode 0x15390A03 0 = .ok (.pandn 7 4 5) ∧
    decode 0x15390004 0 = .ok (.pnot 7 4) ∧
    decode 0x153D0008 0 = .ok (.pset 7 0x14) ∧
    decode 0x15390009 0 = .ok (.pget 7 4) ∧
    decode 0x153D1B05 0 = .ok (.sel 7 0x14 13 5) :=
  ⟨rfl, rfl, rfl, rfl, rfl, rfl, rfl, rfl⟩

theorem test_decode_major_06 :
    decode 0x193D1A03 0 = .ok (.lea 7 0x14 13 3) ∧
    decode 0x193D1A10 0 = .ok (.gaddr 7 0x14 13) :=
  ⟨rfl, rfl⟩

theorem test_decode_major_08 :
    decode 0x213D15A5 0 = .ok (.addi 7 0x14 0x15A5) :=
  rfl

theorem test_decode_major_09 :
    decode 0x253D15A5 0 = .ok (.andi 7 0x14 0x15A5) :=
  rfl

theorem test_decode_major_0A :
    decode 0x293D15A5 0 = .ok (.ori 7 0x14 0x15A5) :=
  rfl

theorem test_decode_major_0B :
    decode 0x2D3D15A5 0 = .ok (.xori 7 0x14 0x15A5) :=
  rfl

theorem test_decode_major_0C :
    decode 0x313D001B 0 = .ok (.shli 7 0x14 0x1B) ∧
    decode 0x313D101B 0 = .ok (.shri 7 0x14 0x1B) ∧
    decode 0x313D201B 0 = .ok (.srai 7 0x14 0x1B) ∧
    decode 0x313D301B 0 = .ok (.rori 7 0x14 0x1B) :=
  ⟨rfl, rfl, rfl, rfl⟩

theorem test_decode_major_0D :
    decode 0x353D05A5 0 = .ok (.cmpeqi 7 0x14 0x5A5) ∧
    decode 0x353D0DA5 0 = .ok (.cmpnei 7 0x14 0x5A5) ∧
    decode 0x353D15A5 0 = .ok (.cmplti 7 0x14 0x5A5) ∧
    decode 0x353D1DA5 0 = .ok (.cmplei 7 0x14 0x5A5) ∧
    decode 0x353D25A5 0 = .ok (.cmpgti 7 0x14 0x5A5) ∧
    decode 0x353D2DA5 0 = .ok (.cmpgei 7 0x14 0x5A5) ∧
    decode 0x353D35A5 0 = .ok (.cmpltni 7 0x14 0x5A5) ∧
    decode 0x353D3DA5 0 = .ok (.cmpgtni 7 0x14 0x5A5) :=
  ⟨rfl, rfl, rfl, rfl, rfl, rfl, rfl, rfl⟩

theorem test_decode_major_0E :
    decode 0x393955A5 0 = .ok (.li 7 0x155A5) :=
  rfl

theorem test_decode_major_0F :
    decode 0x3D3855A5 0 = .ok (.lix 7 0x55A5) :=
  rfl

theorem test_decode_major_10 :
    decode 0x41BB1A5B 0 = .ok (.b 5 1 11 0x1A5B) :=
  rfl

theorem test_decode_major_11 :
    decode 0x45BB1A5B 0 = .ok (.call 5 1 11 0x1A5B) :=
  rfl

theorem test_decode_major_12 :
    decode 0x49050000 0 = .ok (.jmpr 0x14) ∧
    decode 0x493D0001 0 = .ok (.callr 7 0x14) :=
  ⟨rfl, rfl⟩

theorem test_decode_major_13 :
    decode 0x4DA77A5B 0 = .ok (.loop 2 0x13 11 0x1A5B) :=
  rfl

theorem test_decode_major_14 :
    decode 0x51380A9B 0 = .ok (.mfs 7 0xA9B) :=
  rfl

theorem test_decode_major_15 :
    decode 0x55D00A9B 0 = .ok (.mts 0xA9B 0x1A) :=
  rfl

theorem test_decode_major_16 :
    decode 0x59D70695 0 = .ok (.tshape 13 7 13 0x15) :=
  rfl

theorem test_decode_major_17 :
    decode 0x5D056A00 0 = .ok (.trap 0x2B5) ∧
    decode 0x5D000001 0 = .ok .sret ∧
    decode 0x5D000002 0 = .ok .idle ∧
    decode 0x5D000003 0 = .ok .nop :=
  ⟨rfl, rfl, rfl, rfl⟩

theorem test_decode_major_18 :
    decode 0x613D2DB3 0 = .ok (.ld 7 0x14 5 0x5B3) :=
  rfl

theorem test_decode_major_19 :
    decode 0x65D525B3 0 = .ok (.st 0x14 0x1A 2 0x5B3) :=
  rfl

theorem test_decode_major_1A :
    decode 0x693D0054 0 = .ok (.lda 7 0x14 2 2 1) ∧
    decode 0x69051AD0 0 = .ok (.str 0x14 13 2 2) :=
  ⟨rfl, rfl⟩

theorem test_decode_major_1B :
    decode 0x6D000008 0 = .ok (.fence 2) ∧
    decode 0x6D000018 0 = .ok (.fencea 2) ∧
    decode 0x6D000028 0 = .ok (.fencer 2) ∧
    decode 0x6D051A40 0 = .ok (.wbr 0x14 13) ∧
    decode 0x6D051A50 0 = .ok (.invr 0x14 13) ∧
    decode 0x6D051A60 0 = .ok (.discard 0x14 13) ∧
    decode 0x6D051A70 0 = .ok (.pref 0x14 13) :=
  ⟨rfl, rfl, rfl, rfl, rfl, rfl, rfl⟩

theorem test_decode_major_1C :
    decode 0x713D1A16 0 = .ok (.aadd 7 0x14 13 1 1 2) ∧
    decode 0x713D1A36 0 = .ok (.aand 7 0x14 13 1 1 2) ∧
    decode 0x713D1A56 0 = .ok (.aor 7 0x14 13 1 1 2) ∧
    decode 0x713D1A76 0 = .ok (.axor 7 0x14 13 1 1 2) ∧
    decode 0x713D1A96 0 = .ok (.amin 7 0x14 13 1 1 2) ∧
    decode 0x713D1AB6 0 = .ok (.amax 7 0x14 13 1 1 2) ∧
    decode 0x713D1AD6 0 = .ok (.aminn 7 0x14 13 1 1 2) ∧
    decode 0x713D1AF6 0 = .ok (.amaxn 7 0x14 13 1 1 2) ∧
    decode 0x713D1B16 0 = .ok (.aswp 7 0x14 13 1 1 2) ∧
    decode 0x713D1B26 0 = .ok (.afadd 7 0x14 13 1 2) ∧
    decode 0x713D1B56 0 = .ok (.acas 7 0x14 13 1 1 2) :=
  ⟨rfl, rfl, rfl, rfl, rfl, rfl, rfl, rfl, rfl, rfl, rfl⟩

theorem test_decode_major_1D :
    decode 0x75051A00 0 = .ok (.join 0x14 13) ∧
    decode 0x75051A01 0 = .ok (.joina 0x14 13) ∧
    decode 0x753D0002 0 = .ok (.ldlat 7 0x14) ∧
    decode 0x753D1A03 0 = .ok (.ldge 7 0x14 13) :=
  ⟨rfl, rfl, rfl, rfl⟩

theorem test_decode_major_20 :
    decode 0x81000028 0 = .ok (.tkwait 5) ∧
    decode 0x81000045 0 = .ok (.tkpost 5) ∧
    decode 0x81050084 0 = .ok (.qpush 4 0x14) ∧
    decode 0x813800C3 0 = .ok (.qpop 7 3) :=
  ⟨rfl, rfl, rfl, rfl⟩

theorem test_decode_major_21 :
    decode 0x8538000D 0 = .ok (.sclaim 13 7) ∧
    decode 0x8505001D 0 = .ok (.sfill 13 0x14) ∧
    decode 0x8538002D 0 = .ok (.swfill 13 7) ∧
    decode 0x8505003D 0 = .ok (.srel 13 0x14) ∧
    decode 0x8505004D 0 = .ok (.swfree 13 0x14) :=
  ⟨rfl, rfl, rfl, rfl, rfl⟩

theorem test_decode_major_22 :
    decode 0x89050020 0 = .ok (.clinit 0x14 1) ∧
    decode 0x89051A60 0 = .ok (.clexpect 0x14 13 1) ∧
    decode 0x89051AA0 0 = .ok (.clarrive 0x14 13 1) ∧
    decode 0x890500E0 0 = .ok (.clwait 0x14 1) ∧
    decode 0x89050100 0 = .ok (.clbase 0x14) :=
  ⟨rfl, rfl, rfl, rfl, rfl⟩

theorem test_decode_major_23 :
    decode 0x8D000000 0 = .ok .publ ∧
    decode 0x8D380001 0 = .ok (.rdcad 7) ∧
    decode 0x8D3D0002 0 = .ok (.locq 7 0x14) ∧
    decode 0x8D3D0003 0 = .ok (.launch 7 0x14) :=
  ⟨rfl, rfl, rfl, rfl⟩

theorem test_decode_major_24 :
    decode 0x910000A6 0 = .ok (.pwracq 0xA6) ∧
    decode 0x91040000 0 = .ok .pwrrel :=
  ⟨rfl, rfl⟩

theorem test_decode_major_25 :
    decode 0x95000000 0 = .ok .exit ∧
    decode 0x95000001 0 = .ok .end_ :=
  ⟨rfl, rfl⟩

theorem test_decode_major_28 :
    let l : Long := { guard := 3, wait := 5, post := 6, stamp := 0 }
    decode 0xA1AA8000 0x7700000B = .ok (.tdesc l 11 0x15 10) :=
  rfl

theorem test_decode_major_29 :
    let l : Long := { guard := 3, wait := 5, post := 6, stamp := 0 }
    decode 0xA5AA9A00 0x77000005 = .ok (.seqcfg l 5 0x15 10 13) :=
  rfl

theorem test_decode_major_2A :
    let l : Long := { guard := 3, wait := 5, post := 6, stamp := 0 }
    decode 0xA9AA8140 0x7700000B = .ok (.seqrunCopy l 5 11 0x15 10) ∧
    decode 0xA9AA8141 0x7700000B = .ok (.seqrunGather l 5 11 0x15 10) ∧
    decode 0xA9AA8142 0x7700000B = .ok (.seqrunScatter l 5 11 0x15 10) ∧
    decode 0xA9AA8143 0x7700000B = .ok (.seqrunCpyscl l 5 11 0x15 10) :=
  ⟨rfl, rfl, rfl, rfl⟩

theorem test_decode_major_2B :
    let l : Long := { guard := 3, wait := 5, post := 6, stamp := 0 }
    decode 0xADAA9B40 0x77000000 = .ok (.copy l 5 0x15 10 13) ∧
    decode 0xADAA9B41 0x77000000 = .ok (.copyj l 5 0x15 10 13) :=
  ⟨rfl, rfl⟩

theorem test_decode_major_2C :
    let l : Long := { guard := 3, wait := 5, post := 6, stamp := 0 }
    decode 0xB1AA9B40 0x77000036 = .ok (.gather l 5 0x15 10 13 13 2) ∧
    decode 0xB1AA9B41 0x77000036 = .ok (.scatter l 5 0x15 10 13 13 2) :=
  ⟨rfl, rfl⟩

theorem test_decode_major_2D :
    let l : Long := { guard := 3, wait := 5, post := 6, stamp := 0 }
    decode 0xB5AA9B40 0x77000009 = .ok (.copymc l 5 0x15 10 13 9) :=
  rfl

theorem test_decode_major_2E :
    let l : Long := { guard := 3, wait := 5, post := 6, stamp := 0 }
    decode 0xB9AA9B40 0x77000000 = .ok (.cpyscl l 5 0x15 10 13) :=
  rfl

theorem test_decode_major_2F :
    let l : Long := { guard := 3, wait := 5, post := 6, stamp := 0 }
    decode 0xBDA80140 0x77000001 = .ok (.qsend l 5 0x15 1) ∧
    decode 0xBDA80141 0x77000000 = .ok (.qrecv l 5 0x15) ∧
    decode 0xBD000142 0x77000000 = .ok (.chwait l 5) ∧
    decode 0xBDA80142 0x77000000 = .ok (.chwaitStage l 5 0x15) :=
  ⟨rfl, rfl, rfl, rfl⟩

theorem test_decode_major_30 :
    decode 0xC14D8B60 0 = .ok (.vaddI 9 0x16 5 5 2) ∧
    decode 0xC14D8B61 0 = .ok (.vsubI 9 0x16 5 5 2) ∧
    decode 0xC14D8B62 0 = .ok (.vmulI 9 0x16 5 5 2) ∧
    decode 0xC14D8B63 0 = .ok (.vaddsI 9 0x16 5 5 2) ∧
    decode 0xC14D8B64 0 = .ok (.vsubsI 9 0x16 5 5 2) ∧
    decode 0xC14D8B65 0 = .ok (.vminI 9 0x16 5 5 2) ∧
    decode 0xC14D8B66 0 = .ok (.vmaxI 9 0x16 5 5 2) ∧
    decode 0xC14D8B67 0 = .ok (.vshlI 9 0x16 5 5 2) ∧
    decode 0xC14D8B68 0 = .ok (.vshrI 9 0x16 5 5 2) ∧
    decode 0xC1358B69 0 = .ok (.vcmpeqI 6 0x16 5 5 2) ∧
    decode 0xC1358B6A 0 = .ok (.vcmpltI 6 0x16 5 5 2) ∧
    decode 0xC1358B6B 0 = .ok (.vcmpleI 6 0x16 5 5 2) :=
  ⟨rfl, rfl, rfl, rfl, rfl, rfl, rfl, rfl, rfl, rfl, rfl, rfl⟩

theorem test_decode_major_31 :
    decode 0xC54D8B60 0 = .ok (.vaddN 9 0x16 5 5 2) ∧
    decode 0xC54D8B61 0 = .ok (.vsubN 9 0x16 5 5 2) ∧
    decode 0xC54D8B62 0 = .ok (.vmulN 9 0x16 5 5 2) ∧
    decode 0xC54D8B63 0 = .ok (.vaddsN 9 0x16 5 5 2) ∧
    decode 0xC54D8B64 0 = .ok (.vsubsN 9 0x16 5 5 2) ∧
    decode 0xC54D8B65 0 = .ok (.vminN 9 0x16 5 5 2) ∧
    decode 0xC54D8B66 0 = .ok (.vmaxN 9 0x16 5 5 2) ∧
    decode 0xC54D8B67 0 = .ok (.vshlN 9 0x16 5 5 2) ∧
    decode 0xC54D8B68 0 = .ok (.vshrN 9 0x16 5 5 2) ∧
    decode 0xC5358B69 0 = .ok (.vcmpeqN 6 0x16 5 5 2) ∧
    decode 0xC5358B6A 0 = .ok (.vcmpltN 6 0x16 5 5 2) ∧
    decode 0xC5358B6B 0 = .ok (.vcmpleN 6 0x16 5 5 2) :=
  ⟨rfl, rfl, rfl, rfl, rfl, rfl, rfl, rfl, rfl, rfl, rfl, rfl⟩

theorem test_decode_major_32 :
    decode 0xC94D8B40 0 = .ok (.vand 9 0x16 5 5) ∧
    decode 0xC94D8B41 0 = .ok (.vor 9 0x16 5 5) ∧
    decode 0xC94D8B42 0 = .ok (.vxor 9 0x16 5 5) ∧
    decode 0xC94D8B43 0 = .ok (.vandn 9 0x16 5 5) ∧
    decode 0xC94D8B44 0 = .ok (.vsel 9 0x16 5 5) ∧
    decode 0xC94D0545 0 = .ok (.vbcst 9 0x14 2 5) ∧
    decode 0xC94D8B46 0 = .ok (.vshuf 9 0x16 5 5) ∧
    decode 0xC94D8147 0 = .ok (.vmov 9 0x16 5) ∧
    decode 0xC930CA08 0 = .ok (.mand 6 3 5) ∧
    decode 0xC930CA09 0 = .ok (.mor 6 3 5) ∧
    decode 0xC930CA0A 0 = .ok (.mxor 6 3 5) ∧
    decode 0xC930CA0B 0 = .ok (.mandn 6 3 5) ∧
    decode 0xC930C00C 0 = .ok (.mnot 6 3) ∧
    decode 0xC93D920D 0 = .ok (.vlane 7 0x16 9) :=
  ⟨rfl, rfl, rfl, rfl, rfl, rfl, rfl, rfl, rfl, rfl, rfl, rfl, rfl, rfl⟩

theorem test_decode_major_33 :
    decode 0xCD4D8B60 0 = .ok (.vaddF 9 0x16 5 5 2) ∧
    decode 0xCD4D8B61 0 = .ok (.vsubF 9 0x16 5 5 2) ∧
    decode 0xCD4D8B62 0 = .ok (.vmulF 9 0x16 5 5 2) ∧
    decode 0xCD4D8B63 0 = .ok (.vfma 9 0x16 5 5 2) ∧
    decode 0xCD4D8B64 0 = .ok (.vminF 9 0x16 5 5 2) ∧
    decode 0xCD4D8B65 0 = .ok (.vmaxF 9 0x16 5 5 2) ∧
    decode 0xCD358B66 0 = .ok (.vcmpeqF 6 0x16 5 5 2) ∧
    decode 0xCD358B67 0 = .ok (.vcmpltF 6 0x16 5 5 2) ∧
    decode 0xCD358B68 0 = .ok (.vcmpleF 6 0x16 5 5 2) ∧
    decode 0xCD4D8169 0 = .ok (.vabs 9 0x16 5 2) ∧
    decode 0xCD4D816A 0 = .ok (.vneg 9 0x16 5 2) :=
  ⟨rfl, rfl, rfl, rfl, rfl, rfl, rfl, rfl, rfl, rfl, rfl⟩

theorem test_decode_major_34 :
    decode 0xD14D8140 0 = .ok (.vexp2 9 0x16 5) ∧
    decode 0xD14D8141 0 = .ok (.vlog2 9 0x16 5) ∧
    decode 0xD14D8142 0 = .ok (.vrcp 9 0x16 5) ∧
    decode 0xD14D8143 0 = .ok (.vrsq 9 0x16 5) ∧
    decode 0xD14D8144 0 = .ok (.vtanh 9 0x16 5) ∧
    decode 0xD14D8148 0 = .ok (.vrsum 9 0x16 5) ∧
    decode 0xD14D8149 0 = .ok (.vrmax 9 0x16 5) ∧
    decode 0xD14D814A 0 = .ok (.vrmin 9 0x16 5) ∧
    decode 0xD1351D50 0 = .ok (.vtopk 6 0x14 14 5) :=
  ⟨rfl, rfl, rfl, rfl, rfl, rfl, rfl, rfl, rfl⟩

theorem test_decode_major_35 :
    decode 0xD54DAD9D 0 = .ok (.vcvt 9 0x16 11 6 1 1 5) :=
  rfl

theorem test_decode_major_36 :
    let l : Long := { guard := 3, wait := 5, post := 6, stamp := 0 }
    decode 0xD9B2C028 0x7700004D = .ok (.vld l 0x16 11 0x4D 5) ∧
    decode 0xD9B2C068 0x7700004D = .ok (.vst l 0x16 11 0x4D 5) ∧
    decode 0xD9B000A8 0x77000000 = .ok (.vqpop l 0x16 5) ∧
    decode 0xD9B000E8 0x77000000 = .ok (.vqpush l 0x16 5) :=
  ⟨rfl, rfl, rfl, rfl⟩

theorem test_decode_major_38 :
    let l : Long := { guard := 3, wait := 5, post := 6, stamp := 0 }
    decode 0xE1000240 0x77000000 = .ok (.fmtw l 0x12) :=
  rfl

theorem test_decode_major_39 :
    let m : Long := { guard := 3, wait := 5, post := 6, stamp := 1234 }
    decode 0xE5D00240 0x77026900 = .ok (.tld m 13 0x12) ∧
    decode 0xE5D00241 0x77026900 = .ok (.tst m 13 0x12) ∧
    decode 0xE5D00002 0x77026900 = .ok (.tqld m 13) :=
  ⟨rfl, rfl, rfl⟩

theorem test_decode_major_3A :
    let m : Long := { guard := 3, wait := 5, post := 6, stamp := 1234 }
    decode 0xE9D00000 0x77026900 = .ok (.tzero m 13) ∧
    decode 0xE9D60001 0x77026900 = .ok (.ttrans m 13 6) ∧
    decode 0xE9D60012 0x77026900 = .ok (.tcvt m 13 6 2) :=
  ⟨rfl, rfl, rfl⟩

theorem test_decode_major_3B :
    let m : Long := { guard := 3, wait := 5, post := 6, stamp := 1234 }
    decode 0xEDD6AC00 0x77026900 = .ok (.tmma m 0x2B 13 6) :=
  rfl

theorem test_decode_major_3C :
    let m : Long := { guard := 3, wait := 5, post := 6, stamp := 1234 }
    decode 0xF1D6AE40 0x77026900 = .ok (.tmmas m 0x2B 13 6 0x12) :=
  rfl

theorem test_decode_major_3D :
    let m : Long := { guard := 3, wait := 5, post := 6, stamp := 1234 }
    decode 0xF500AE40 0x77026900 = .ok (.tdrain m 0x12 0x2B) ∧
    decode 0xF500AE51 0x77026900 = .ok (.tdrainadd m 0x12 0x2B 1) :=
  ⟨rfl, rfl⟩

theorem test_decode_major_3E :
    let m : Long := { guard := 3, wait := 5, post := 6, stamp := 1234 }
    decode 0xF900AE40 0x77026900 = .ok (.hmrd m 0x12 0x2B) ∧
    decode 0xF900AC01 0x77026900 = .ok (.hmclr m 0x2B) :=
  ⟨rfl, rfl⟩

end Sys2Proof.Tests
end

section
/-! Every memory stays canonical (R4, R8, R16, R20, R30, R45, R273): the combinators, and the shared operations of bundles. -/

namespace Sys2Proof.Machine

/-! Outcomes, results and optional states, branch by branch. -/

/-- The state of whatever an option gives stands in canonical form. -/
def OptKeeps {α : Type} (f : α → State) (o : Option α) : Prop := ∀ a, o = some a → (f a).wf = true

theorem optKeeps_none {α : Type} (f : α → State) : OptKeeps f none := fun _ e => by cases e
theorem optKeeps_some {α : Type} {f : α → State} {a : α} (h : (f a).wf = true) : OptKeeps f (some a) := fun _ e => by cases e; exact h

theorem optKeeps_ite {α : Type} {f : α → State} {x y : Option α} {c : Prop} [Decidable c] (hx : OptKeeps f x) (hy : OptKeeps f y) :
    OptKeeps f (if c then x else y) := by split <;> assumption

theorem optKeeps_map {α β : Type} {f : β → State} {g : α → β} {o : Option α} (h : ∀ a, o = some a → (f (g a)).wf = true) :
    OptKeeps f (o.map g) := by
  intro b e
  obtain ⟨a, ha, rfl⟩ := Option.map_eq_some_iff.mp e
  exact h a ha

theorem optKeeps_bind {α β : Type} {f : β → State} {g : α → Option β} {o : Option α} (h : ∀ a, o = some a → OptKeeps f (g a)) :
    OptKeeps f (o.bind g) := by
  intro b e
  obtain ⟨a, ha, hb⟩ := Option.bind_eq_some_iff.mp e
  exact h a ha b hb

theorem keeps_ite {x y : Out} {c : Prop} [Decidable c] (hx : Keeps x) (hy : Keeps y) : Keeps (if c then x else y) := by
  split <;> assumption

theorem keeps_fault_stop (r : Fault) : Keeps (.fault r) := fun _ e => by cases e
theorem keeps_refused (r : Refusal) : Keeps (.refused r) := fun _ e => by cases e

theorem Res.keeps_ok {α : Type} {a : α} {s : State} (h : s.wf = true) : (Res.ok a s).Keeps := fun _ _ e => by cases e; exact h
theorem Res.keeps_wait {α : Type} : (Res.wait : Res α).Keeps := fun _ _ e => by cases e
theorem Res.keeps_trap {α : Type} {c d : Nat} {a : Word} : (Res.trap c d a : Res α).Keeps := fun _ _ e => by cases e

theorem Res.keeps_ite {α : Type} {x y : Res α} {c : Prop} [Decidable c] (hx : x.Keeps) (hy : y.Keeps) : (if c then x else y).Keeps := by
  split <;> assumption

theorem Res.keeps_of_stays {α : Type} {s : State} {r : Res α} (h : s.wf = true) (hr : r.Stays s) : r.Keeps :=
  fun a t e => by rw [hr a t e]; exact h

theorem State.wf_ite {s t : State} {c : Prop} [Decidable c] (hs : s.wf = true) (ht : t.wf = true) : (if c then s else t : State).wf = true := by
  split <;> assumption

/-- A fold whose every step keeps the canonical form. -/
theorem State.foldl_wf {α : Type} {f : State → α → State} {l : List α} {s : State} (h : s.wf = true)
    (hf : ∀ s a, s.wf = true → (f s a).wf = true) : (l.foldl f s).wf = true := by
  induction l generalizing s with
  | nil => exact h
  | cons a l ih => exact ih (hf _ a h)

theorem MemSys.foldl_wf {α : Type} {f : MemSys → α → MemSys} {l : List α} {m : MemSys} (h : m.Wf)
    (hf : ∀ m a, m.Wf → (f m a).Wf) : (l.foldl f m).Wf := by
  induction l generalizing m with
  | nil => exact h
  | cons a l ih => exact ih (hf _ a h)

/-! Parts of the device that hold no byte store: an update of one of them alone keeps the form. -/

theorem State.report_wf {s : State} (h : s.wf = true) {r : Report} : ({ s with report := r } : State).wf = true :=
  State.wf_same h rfl rfl rfl rfl rfl

theorem State.plat_wf {s : State} (h : s.wf = true) {p : Platform} : ({ s with plat := p } : State).wf = true :=
  State.wf_same h rfl rfl rfl rfl rfl

theorem State.lat_wf {s : State} (h : s.wf = true) {l : Lattice} : ({ s with lat := l } : State).wf = true :=
  State.wf_same h rfl rfl rfl rfl rfl

theorem State.free_wf {s : State} (h : s.wf = true) {n : Nat} : ({ s with free := n } : State).wf = true :=
  State.wf_same h rfl rfl rfl rfl rfl

theorem State.quads_wf {s : State} (h : s.wf = true) {q : Vector Quad 192} : ({ s with quads := q } : State).wf = true :=
  State.wf_same h rfl rfl rfl rfl rfl

theorem State.saved_wf {s : State} (h : s.wf = true) {v : Saved} (hv : v ∈ s.sch.saved) : v.core.st.wf = true :=
  ((State.wf_iff s).mp h).2.2.2.1 v hv

theorem State.wf_ms {s : State} (h : s.wf = true) : s.ms.Wf := ((State.wf_iff s).mp h).1

/-- A launch unit whose saved tasks stand in canonical form. -/
theorem State.sch_wf {s : State} (h : s.wf = true) {d : Sched} (hd : ∀ v ∈ d.saved, v.core.st.wf = true) :
    ({ s with sch := d } : State).wf = true := by
  obtain ⟨ms, cores, regs, -, latch⟩ := (State.wf_iff s).mp h
  exact (State.wf_iff _).mpr ⟨ms, cores, regs, hd, latch⟩

/-- A change of the launch unit that leaves the saved tasks. -/
theorem State.sch_same_wf {s : State} (h : s.wf = true) {d : Sched} (hd : d.saved = s.sch.saved) : ({ s with sch := d } : State).wf = true :=
  State.wf_same h rfl rfl rfl hd rfl

theorem State.unlatch_wf {s : State} (h : s.wf = true) : ({ s with latch := none } : State).wf = true := by
  obtain ⟨ms, cores, regs, saved, -⟩ := (State.wf_iff s).mp h
  exact (State.wf_iff _).mpr ⟨ms, cores, regs, saved, fun _ e => by cases e⟩

theorem State.asClu_wf {s : State} (h : s.wf = true) {k : Fin 768} {x : Clu} :
    ({ s with cur := { core := k, clu := x }, latch := none } : State).wf = true := State.wf_same (State.unlatch_wf h) rfl rfl rfl rfl rfl

/-- Every part of the device may change but the memories, the cores, the device registers, the launch unit and the latched core. -/
theorem State.rest_wf {s : State} (h : s.wf = true) {cadence : Word} {quads : Vector Quad 192} {lat : Lattice} {plat : Platform}
    {agenda : List Turn} {cur : Cur} {ir : Ir} {report : Report} {free : Nat} :
    ({ cadence := cadence, cores := s.cores, quads := quads, ms := s.ms, lat := lat, sch := s.sch, plat := plat, regs := s.regs,
       agenda := agenda, cur := cur, latch := s.latch, ir := ir, report := report, free := free } : State).wf = true :=
  State.wf_same h rfl rfl rfl rfl rfl

/-! Cores whose byte stores stay as they are. -/

theorem State.onCore_wf_of_st {s : State} (h : s.wf = true) {k : Fin 768} {f : Core → Core} (hf : ∀ c, (f c).st = c.st) :
    (s.onCore k f).wf = true := State.onCore_wf h k f (by rw [hf]; exact State.core_wf h k)

theorem State.onMe_wf_of_st {s : State} (h : s.wf = true) {f : Core → Core} (hf : ∀ c, (f c).st = c.st) : (s.onMe f).wf = true :=
  State.onCore_wf_of_st h hf

/-- Every other part of a core may change. -/
theorem State.onCore_rest_wf {s : State} (h : s.wf = true) {k : Fin 768} {task : Core → Option Task} {cl : Core → Vector Cluster 4}
    {en : Core → Engines} {rg : Core → CoreRegs} {exit : Core → Option ExitSeq} {term : Core → Option TermRec} {save : Core → Option SaveReq}
    {pend : Core → List (Clu × Trap)} {restoring : Core → Bool} :
    (s.onCore k fun c => { task := task c, cl := cl c, st := c.st, en := en c, rg := rg c, exit := exit c, term := term c, save := save c,
                           pend := pend c, restoring := restoring c }).wf = true :=
  State.onCore_wf h k _ (State.core_wf h k)

theorem State.onMe_rest_wf {s : State} (h : s.wf = true) {task : Core → Option Task} {cl : Core → Vector Cluster 4}
    {en : Core → Engines} {rg : Core → CoreRegs} {exit : Core → Option ExitSeq} {term : Core → Option TermRec} {save : Core → Option SaveReq}
    {pend : Core → List (Clu × Trap)} {restoring : Core → Bool} :
    (s.onMe fun c => { task := task c, cl := cl c, st := c.st, en := en c, rg := rg c, exit := exit c, term := term c, save := save c,
                       pend := pend c, restoring := restoring c }).wf = true := State.onCore_rest_wf h

theorem State.onCore_wf_of_wf {s : State} (h : s.wf = true) {k : Fin 768} {f : Core → Core} (hf : ∀ c, c.st.wf = true → (f c).st.wf = true) :
    (s.onCore k f).wf = true := State.onCore_wf h k f (hf _ (State.core_wf h k))

theorem State.onMe_wf_of_wf {s : State} (h : s.wf = true) {f : Core → Core} (hf : ∀ c, c.st.wf = true → (f c).st.wf = true) :
    (s.onMe f).wf = true := State.onCore_wf_of_wf h hf

theorem State.mapCores_wf {s : State} (h : s.wf = true) {f : Core → Core} (hf : ∀ c, (f c).st = c.st) :
    ({ s with cores := vmap f s.cores } : State).wf = true := by
  obtain ⟨ms, cores, regs, saved, latch⟩ := (State.wf_iff s).mp h
  refine (State.wf_iff _).mpr ⟨ms, fun k => ?_, regs, saved, latch⟩
  rw [State.core, vmap_get, hf]
  exact cores k

theorem Core.ite_st {a b : Core} {t : Storage} {c : Prop} [Decidable c] (ha : a.st = t) (hb : b.st = t) :
    (if c then a else b : Core).st = t := by split <;> assumption

theorem State.onClu_wf {s : State} (h : s.wf = true) {k : Fin 768} {x : Clu} {f : Cluster → Cluster} :
    (s.onCore k fun c => c.onClu x f).wf = true := State.onCore_rest_wf h

theorem State.onCheck_wf {s : State} (h : s.wf = true) {f : Checker → Checker} : (s.onCheck f).wf = true :=
  State.onMe_wf_of_st h fun c => Core.onCheck_st c f

theorem State.machineCheck_wf {s : State} (h : s.wf = true) {k : Fin 768} {x : Clu} {c : Nat} {i : Word} : (s.machineCheck k x c i).wf = true :=
  State.deliver_wf h ..

/-! Typed buffers. -/

theorem Core.noteAccess_st (k : Core) (clk : Clock) (agent : Nat) (b : Fin 4) (off n : Nat) (w : Bool) (bh : List Nat) (cmd : Option Nat) :
    (k.noteAccess clk agent b off n w bh cmd).st = k.st := Core.onCheck_st ..

theorem State.orderAccess_keeps {s : State} (h : s.wf = true) {k : Fin 768} {b : Fin 4} {off n : Nat} {w : Bool} {a : Word} :
    (s.orderAccess k b off n w a).Keeps := by
  refine Res.keeps_ite Res.keeps_trap (Res.keeps_ok (State.onCore_wf_of_st ?_ fun c => Core.noteAccess_st ..))
  exact State.wf_ite (State.onMe_wf_of_st (State.onCheck_wf h) fun c => Core.count_st ..) (State.onCheck_wf h)

theorem State.bufGate_keeps {s : State} (h : s.wf = true) {k : Fin 768} {b : Fin 4} {off n : Nat} {w : Bool} {a : Word} :
    (s.bufGate k b off n w a).Keeps := Res.keeps_ite Res.keeps_wait (State.orderAccess_keeps h)

theorem State.bufRead_keeps {s : State} (h : s.wf = true) {k : Fin 768} {b : Fin 4} {off n : Nat} {a : Word} :
    (s.bufRead k b off n a).Keeps :=
  Res.keeps_bind (State.bufGate_keeps h) fun _ _ ht => Res.keeps_ite Res.keeps_trap (Res.keeps_ok ht)

theorem State.putBuf_wf {s : State} (h : s.wf = true) {k : Fin 768} {b : Fin 4} {off : Nat} {bs : List Byte} :
    (s.onCore k fun c => { c with st := c.st.putBuf b off bs }).wf = true :=
  State.onCore_wf_of_wf h fun _ hc => Storage.putBuf_wf hc ..

theorem State.bufWrite_keeps {s : State} (h : s.wf = true) {k : Fin 768} {b : Fin 4} {off n x : Nat} {a : Word} :
    (s.bufWrite k b off n x a).Keeps :=
  Res.keeps_bind (State.bufGate_keeps h) fun _ _ ht => Res.keeps_ok (State.putBuf_wf ht)

/-- The parts of a core's storage that are no byte store may change. -/
theorem Storage.rest_wf {t : Storage} (h : t.wf = true) {v : Vector Line 32} {m : Vector Word 8} {tsh : Vector Word 16} {bad : List (Nat × Nat)}
    {qav qam qva : List Line} {qac qca : List Word} {tok room : Vector Nat 16} {fq : List Word32} {hall : Vector (Word × Word) 48}
    {stampb stampc : Word} {strands : Vector Strand 16} :
    ({ v := v, m := m, tiles := t.tiles, tsh := tsh, bufW := t.bufW, bufA := t.bufA, bufC := t.bufC, bufS := t.bufS, bad := bad, qav := qav,
       qam := qam, qva := qva, qac := qac, qca := qca, tok := tok, room := room, fq := fq, hall := hall, stampb := stampb, stampc := stampc,
       strands := strands } : Storage).wf = true := h

/-! Token counts and the room reserved for them. -/

theorem Storage.foldl_wf {α : Type} {f : Storage → α → Storage} {l : List α} {t : Storage} (h : t.wf = true)
    (hf : ∀ t a, t.wf = true → (f t a).wf = true) : (l.foldl f t).wf = true := by
  induction l generalizing t with
  | nil => exact h
  | cons a l ih => exact ih (hf _ a h)

theorem Storage.reserve_wf {t : Storage} (h : t.wf = true) {x : Clu} {set : BitVec 3} : (t.reserve x set).wf = true := by
  unfold Storage.reserve
  exact Storage.foldl_wf h fun _ _ ht => Storage.rest_wf ht

theorem Storage.pushTokens_wf {t : Storage} (h : t.wf = true) {x : Clu} {set : BitVec 3} : (t.pushTokens x set).wf = true := by
  unfold Storage.pushTokens
  exact Storage.foldl_wf h fun _ _ ht => Storage.rest_wf ht

theorem Storage.post_wf {t : Storage} (h : t.wf = true) {x : Clu} {set : BitVec 3} : (t.post x set).wf = true := by
  unfold Storage.post
  exact Storage.foldl_wf h fun _ _ ht => Storage.rest_wf ht

theorem Storage.unreserve_wf {t : Storage} (h : t.wf = true) {x : Clu} {set : BitVec 3} : (t.unreserve x set).wf = true := by
  unfold Storage.unreserve
  exact Storage.foldl_wf h fun _ _ ht => Storage.rest_wf ht

/-! Bundles. -/

theorem State.settlePcs_wf {s : State} (h : s.wf = true) {k : Fin 768} : (s.settlePcs k).wf = true := State.onCore_rest_wf h

theorem State.charge_wf {s : State} (h : s.wf = true) {k : Fin 768} {n : Nat} : (s.charge k n).wf = true := State.onCore_rest_wf h

theorem State.endIdle_wf {s : State} (h : s.wf = true) {k : Fin 768} {x : Clu} : (s.endIdle k x).wf = true :=
  State.wf_ite (State.onClu_wf h) (State.wf_ite (State.onClu_wf h) h)

theorem State.settledPc_wf {s : State} (h : s.wf = true) {k : Fin 768} {x : Clu} : (s.settledPc k x).wf = true := by
  refine State.wf_ite h ?_
  cases s.normalise ((s.core k).fetcher k x) ((s.core k).clu x).pc ((s.core k).clu x).pcReg ((s.core k).clu x).lineRoom with
  | ok r => exact State.onClu_wf h
  | error e => exact h

/-- The latched core of a state is one whose byte stores are in canonical form already. -/
theorem State.latch_wf {s : State} (h : s.wf = true) {o : Core} (ho : o.st.wf = true) {i : Ir} :
    ({ s with latch := some o, ir := i } : State).wf = true := by
  obtain ⟨ms, cores, regs, saved, -⟩ := (State.wf_iff s).mp h
  exact (State.wf_iff _).mpr ⟨ms, cores, regs, saved, fun k e => by cases e; exact ho⟩

theorem State.nextBundle_wf {s t : State} {f : Fetched} (h : s.wf = true) (e : s.nextBundle = .ok (t, f)) : t.wf = true := by
  unfold State.nextBundle at e
  dsimp only at e
  split at e
  · cases e
  · cases hn : s.normalise (s.me.fetcher s.cur.core s.cur.clu) s.cl.pc s.cl.pcReg s.cl.lineRoom with
    | error x => rw [hn] at e; cases e
    | ok r =>
      rw [hn] at e
      dsimp only [bind, Except.bind] at e
      split at e
      · cases e
      · split at e
        · cases e
        · cases e; exact State.onCl_wf h _

section
variable {ex : Instr → State → Out} (hex : ∀ i s, s.wf = true → Keeps (ex i s))
include hex

theorem State.runPart_keeps {s : State} (h : s.wf = true) {p : Part} : Keeps (s.runPart ex p) :=
  hex _ _ (State.wf_same h rfl rfl rfl rfl rfl)

theorem State.runParts_keeps (ps : List Part) : ∀ {s : State}, s.wf = true → Keeps (s.runParts ex ps) := by
  induction ps with
  | nil => exact fun h => keeps_next h
  | cons p ps ih =>
    intro s h
    have first := State.runPart_keeps hex h (p := p)
    unfold State.runParts
    split
    · next t e =>
      have rest := ih (first t e)
      split
      · exact rest
      · split
        · next u e => exact keeps_report (rest u e) _
        · exact rest
      · exact keeps_next (first t e)
    · exact first

theorem firstRefuses_keeps {s : State} (h : s.wf = true) {ps : List Part} {o : Out} (e : firstRefuses ex s ps = some o) : Keeps o := by
  unfold firstRefuses at e
  split at e
  · next p _ _ =>
    have first := State.runPart_keeps hex h (p := p)
    split at e
    · next t et =>
      split at e
      · cases e; exact keeps_next (first t et)
      · cases e
    · cases e; exact first
  · cases e

theorem State.execBundle_keeps {s : State} (h : s.wf = true) {f : Fetched} {ps : List Part} {sync : Bool} :
    Keeps (s.execBundle ex f ps sync) := by
  refine keeps_ite (keeps_report (State.wf_ite (State.onCl_wf h _) h) _) ?_
  have ht : ((({ s with latch := some s.me, ir := { s.ir with bpc := f.addr, npc := f.npc, w0 := 0, w1 := 0 } } : State).onCl
      fun c => { c with pc := f.npc, pcReg := false, lineRoom := maxLines + 1 }).wf) = true :=
    State.onCl_wf (State.latch_wf h (State.core_wf h _)) _
  dsimp only
  split
  · next u e => exact keeps_next (State.unlatch_wf (firstRefuses_keeps hex ht e u rfl))
  · next o _ e => exact firstRefuses_keeps hex ht e
  · have run := State.runParts_keeps hex (orderParts ps) ht
    split
    · next u e =>
      refine keeps_ite (keeps_next (State.unlatch_wf (run u e))) (keeps_ite ?_ (keeps_next (State.endBundle_wf (run u e) ..)))
      split
      · exact keeps_refuseBundle h _ _ _ _ _
      · exact keeps_next h
    · exact run

theorem State.tryBundle_keeps {s : State} (h : s.wf = true) {k : Fin 768} {x : Clu} {meet : Bool} : Keeps (s.tryBundle ex k x meet) := by
  have hs := State.asClu_wf (State.endIdle_wf h (k := k) (x := x)) (k := k) (x := x)
  refine keeps_ite (keeps_report hs _) ?_
  dsimp only
  split
  · exact keeps_refuseBundle (State.settledPc_wf hs) _ _ _ _ _
  · next t f e =>
    have ht := State.nextBundle_wf hs e
    split
    · exact keeps_refuseBundle ht _ _ _ _ _
    · exact keeps_ite (keeps_report (State.onCl_wf ht _) _) (State.execBundle_keeps hex ht)

omit hex in
theorem Core.meetClocks_st (c : Core) : c.meetClocks.st = c.st := Core.onCheck_st ..

omit hex in
theorem State.trapOf_wf {s : State} (h : s.wf = true) {u : State} {k : Fin 768} {x : Clu} : (s.trapOf u k x).wf = true := by
  have ht : (s.onCore k fun d => { (d.onClu x fun _ => (u.core k).clu x) with term := (u.core k).term, pend := (u.core k).pend }).wf = true :=
    State.onCore_rest_wf h
  refine State.wf_same (State.ofFn_wf ht _ ?_) rfl rfl rfl rfl rfl
  exact fun i => State.core_wf ht i

theorem State.tryMeet_wf (k : Fin 768) (l : List Clu) : ∀ {s : State}, s.wf = true → ∀ ok : Bool,
    (∀ u, State.tryMeet ex k l s ok = .error u → u.wf = true) ∧ ∀ t b, State.tryMeet ex k l s ok = .ok (t, b) → t.wf = true := by
  induction l with
  | nil =>
    intro s h ok
    exact ⟨fun _ e => (by cases e), fun _ _ e => (by cases e; exact h)⟩
  | cons x xs ih =>
    intro s h ok
    have alone := State.tryBundle_keeps hex h (k := k) (x := x) (meet := true)
    unfold State.tryMeet
    split
    · split
      · exact ih h ok
      · exact ih h ok
      · refine ⟨fun v e => ?_, fun _ _ e => (by cases e)⟩
        cases e
        split
        · next v e => exact State.wf_ite (alone v e) (State.trapOf_wf h)
        · exact State.trapOf_wf h
      · refine ih ?_ false
        split
        · next v e => exact State.wf_ite (alone v e) h
        · exact h
    · exact ih h false

theorem State.meetOne_keeps {s t : State} (ht : t.wf = true) {k : Fin 768} {x : Clu} : Keeps (s.meetOne ex t k x) := by
  unfold State.meetOne
  split
  · exact keeps_report ht _
  · split
    · exact keeps_report ht _
    · exact State.execBundle_keeps hex (State.onCl_wf (State.asClu_wf ht) _)

theorem State.meetAll_keeps {s : State} (h : s.wf = true) {k : Fin 768} {l : List Clu} :
    ∀ {t : State}, t.wf = true → Keeps (s.meetAll ex k l t) := by
  induction l with
  | nil => exact fun ht => keeps_report ht _
  | cons x xs ih =>
    intro t ht
    have one := State.meetOne_keeps hex ht (s := s) (k := k) (x := x)
    unfold State.meetAll
    split
    · next u e =>
      split
      · exact ih (one u e)
      · exact ih (one u e)
      · exact keeps_next (State.trapOf_wf h)
      · exact keeps_report h _
    · exact one

theorem State.meetAny_keeps {s : State} (h : s.wf = true) {k : Fin 768} {live : List Clu} : Keeps (s.meetAny ex k live) :=
  State.meetAll_keeps hex h (State.onCore_wf_of_st h Core.meetClocks_st)

theorem State.rendezvous_keeps {s : State} (h : s.wf = true) {k : Fin 768} : Keeps (s.rendezvous ex k) := by
  refine keeps_ite (keeps_report h _) ?_
  split
  · next u e => exact keeps_next ((State.tryMeet_wf hex k _ h true).1 u e)
  · next t e => exact keeps_report ((State.tryMeet_wf hex k _ h true).2 t _ e) _
  · exact State.meetAny_keeps hex h

theorem State.runBundle_keeps {s : State} (h : s.wf = true) {k : Fin 768} {x : Clu} : Keeps (s.runBundle ex k x) := by
  have tried := State.tryBundle_keeps hex h (k := k) (x := x) (meet := false)
  unfold State.runBundle
  split
  · next t e =>
    refine keeps_ite ?_ (keeps_next (tried t e))
    have met := State.rendezvous_keeps hex (tried t e) (k := k)
    split
    · next u e => exact keeps_next (State.unlatch_wf (met u e))
    · exact met
  · exact tried

end

end Sys2Proof.Machine
end

section
/-! Every memory stays canonical: lattice cells, accesses of a cluster, and what the device does on its own. -/

namespace Sys2Proof.Machine

/-! Bytes written at their home. -/

theorem MemSys.shootKeys_wf {m : MemSys} (h : m.Wf) {slot scope tid first count : Nat} : (m.shootKeys slot scope tid first count).Wf := h

theorem homePut_wf (slot : Nat) (ps : List (Nat × Nat × Nat)) : ∀ {m : MemSys}, m.Wf → ∀ bs, (homePut slot m bs ps).Wf := by
  induction ps with
  | nil => exact fun h _ => h
  | cons p ps ih => exact fun h _ => ih (MemSys.homeWrite_wf h ..) _

theorem MemSys.homeBytesPut_wf {m : MemSys} (h : m.Wf) {a slot : Nat} {bs : List Byte} : (m.homeBytesPut a slot bs).Wf :=
  homePut_wf _ _ h _

theorem latWrite_wf (t : RegionTable) (d : Fin 8) (ps : List (Nat × Nat × Nat)) :
    ∀ {m : MemSys}, m.Wf → ∀ bs, (latWrite t d m bs ps).Wf := by
  induction ps with
  | nil => exact fun h _ => h
  | cons p ps ih => exact fun h _ => ih (MemSys.homeBytesPut_wf h) _

theorem State.latPut_wf {s : State} (h : s.wf = true) {t : RegionTable} {r : Region} {d : Fin 8} {o : Nat} {bs : List Byte} :
    (s.latPut t r d o bs).wf = true :=
  State.wf_same (State.ms_wf h (latWrite_wf t d (piecesOf o bs.length) (State.wf_ms h) bs)) rfl rfl rfl rfl rfl

theorem State.latJoin_wf {s : State} (h : s.wf = true) {t : RegionTable} {r : Region} {d : Fin 8} {a : Word} {op : Nat} :
    (s.latJoin t r d a op).wf = true := State.wf_ite h (State.latPut_wf h)

theorem State.joinReleases_wf {s : State} (h : s.wf = true) {t : RegionTable} {r : Region} {a : Word} : (s.joinReleases t r a).wf = true :=
  State.wf_ite (State.onCheck_wf (State.lat_wf h)) h

theorem State.latSeen_wf {s : State} (h : s.wf = true) {t : RegionTable} {r : Region} {a : Word} {n : Nat} : (s.latSeen t r a n).wf = true :=
  State.onCheck_wf h

/-! Lines of the L1 and translations. -/

theorem Core.l1Fill_st (k : Core) (l : L1Line) : (k.l1Fill l).st = k.st := by
  unfold Core.l1Fill
  dsimp only
  split <;> rfl

theorem Core.shot_st (k : Core) (slot scope tid first count : Nat) : (k.shot slot scope tid first count).st = k.st := rfl

theorem State.l1DropAll_wf {s : State} (h : s.wf = true) {f : L1Line → Bool} : (s.l1DropAll f).wf = true :=
  State.mapCores_wf h fun c => Core.l1Drop_st c f

theorem MemSys.flushLine_wf {m : MemSys} (h : m.Wf) {d : DieLine} : (m.flushLine d).Wf := by
  refine ite_wf (MemSys.dropLine_wf (MemSys.writeBack_wf h d) ..) ?_
  cases m.dir.find? fun e => e.line == d.line with
  | some e => exact MemSys.recallEntry_wf h e
  | none => exact MemSys.dropLine_wf (MemSys.returnLine_wf h d) ..

theorem State.shootdown_wf {s : State} (h : s.wf = true) {slot scope tid first count : Nat} : (s.shootdown slot scope tid first count).wf = true :=
  State.ms_wf (State.mapCores_wf h fun c => Core.shot_st c slot scope tid first count)
    (MemSys.shootKeys_wf (MemSys.foldl_wf (State.wf_ms h) fun _ _ hm => MemSys.flushLine_wf hm))

theorem State.shootOwed_wf {s : State} (h : s.wf = true) : s.shootOwed.wf = true := by
  unfold State.shootOwed
  refine State.foldl_wf (State.ms_wf h (State.wf_ms h)) ?_
  exact fun _ _ ht => State.shootdown_wf ht

theorem State.revived_wf {s : State} (h : s.wf = true) {p : Phys} : (s.revived p).wf = true :=
  State.wf_ite (State.shootdown_wf (State.ms_wf h (MemSys.revive_wf (State.wf_ms h) p))) h

theorem State.countHome_wf {s : State} (h : s.wf = true) {p : Phys} {c : Bool} {m : Word} : (s.countHome p c m).wf = true :=
  State.onMe_wf_of_st h fun k => Core.ite_st (by rw [Core.count_st, Core.count_st]) (Core.count_st ..)

theorem State.sawOutcome_wf {s : State} (h : s.wf = true) {p : Phys} {x : Nat} : (s.sawOutcome p x).wf = true :=
  State.wf_ite (State.acquire_wf h _) h

theorem State.l1Update_wf {s : State} (h : s.wf = true) {line : Nat} {m : Word} {d : Line} :
    (s.onMe fun k => k.l1Update line m d).wf = true := State.onMe_rest_wf h

/-! Accesses of a cluster. -/

theorem State.lineLoad_keeps {s : State} (h : s.wf = true) {p : Phys} {path : Nat} {mask : Word} : (s.lineLoad p path mask).Keeps := by
  have hc := State.countHome_wf h (p := p) (c := decide (path ≠ 3)) (m := mask)
  refine Res.keeps_ite (Res.keeps_ok h) (Res.keeps_ite Res.keeps_wait (Res.keeps_ite Res.keeps_trap (Res.keeps_ite ?_ ?_)))
  · exact Res.keeps_ok (State.ms_wf hc (ite_wf (MemSys.homeRead_wf (State.wf_ms hc) p) (MemSys.toHome_wf (State.wf_ms hc) ..)))
  · exact Res.keeps_ok (State.ms_wf hc (MemSys.load_wf (State.wf_ms hc) ..))

theorem State.memRead_keeps {s : State} (h : s.wf = true) {a : Word} {p : Phys} {path size : Nat} : (s.memRead a p path size).Keeps := by
  refine Res.keeps_ite ?_ (Res.keeps_ite (Res.keeps_ok h) ?_)
  · exact Res.keeps_bind (State.lineLoad_keeps h) fun _ _ ht => Res.keeps_ok (State.l1Update_wf ht)
  · cases s.me.l1Hit p.line (decide (path = 1)) (rangeMask p.off size) with
    | some l => exact Res.keeps_ok h
    | none =>
      exact Res.keeps_bind (State.lineLoad_keeps h) fun _ _ ht =>
        Res.keeps_ok (State.onMe_wf_of_st ht fun k => by rw [Core.l1Fill_st, Core.count_st])

theorem State.memLoad_keeps {s : State} (h : s.wf = true) {a : Word} {p : Phys} {path size : Nat} : (s.memLoad a p path size).Keeps :=
  Res.keeps_bind (State.memRead_keeps h) fun _ _ ht => Res.keeps_ok (State.sawOutcome_wf ht)

theorem State.lineStore_keeps {s : State} (h : s.wf = true) {p : Phys} {path : Nat} {mask : Word} {data : Line} :
    (s.lineStore p path mask data).Keeps := by
  have hu := State.l1Update_wf (State.countHome_wf (State.revived_wf h (p := p)) (p := p) (c := decide (path ≠ 3)) (m := 0))
    (line := p.line) (m := mask) (d := data)
  refine Res.keeps_ite Res.keeps_wait (Res.keeps_ok (State.ms_wf hu (ite_wf ?_ (MemSys.store_wf (State.wf_ms hu) ..))))
  exact MemSys.homeWrite_wf (MemSys.toHome_wf (State.wf_ms hu) ..) ..

theorem State.memStore_keeps {s : State} (h : s.wf = true) {p : Phys} {path size x : Nat} : (s.memStore p path size x).Keeps :=
  State.lineStore_keeps h

theorem State.host_wf {s : State} (h : s.wf = true) {m : Memory} (hm : m.wf = true) : ({ s with ms := { s.ms with host := m } } : State).wf = true :=
  State.ms_wf h ⟨(State.wf_ms h).1, hm, (State.wf_ms h).2.2⟩

theorem State.peer_wf {s : State} (h : s.wf = true) {m : Memory} (hm : m.wf = true) : ({ s with ms := { s.ms with peer := m } } : State).wf = true :=
  State.ms_wf h ⟨(State.wf_ms h).1, (State.wf_ms h).2.1, hm⟩

theorem State.loadAt_keeps {s : State} (h : s.wf = true) {a : Word} {t : Target} {size : Nat} : (s.loadAt a t size).Keeps := by
  cases t with
  | buf k b off => exact State.bufRead_keeps h
  | mem p path => exact State.memLoad_keeps h
  | lat rt r => exact Res.keeps_ite Res.keeps_wait (Res.keeps_ite Res.keeps_trap (Res.keeps_ok (State.acquire_wf (State.latSeen_wf h) _)))
  | host x => exact Res.keeps_ite Res.keeps_wait (Res.keeps_ok h)
  | peer x => exact Res.keeps_ite Res.keeps_wait (Res.keeps_ok h)
  | window x => exact Res.keeps_trap

theorem State.storeAt_keeps {s : State} (h : s.wf = true) {a : Word} {t : Target} {size x : Nat} : (s.storeAt a t size x).Keeps := by
  obtain ⟨-, hhost, hpeer⟩ := State.wf_ms h
  cases t with
  | buf k b off => exact State.bufWrite_keeps h
  | mem p path => exact State.memStore_keeps h
  | lat rt r => exact Res.keeps_trap
  | host y => exact Res.keeps_ite Res.keeps_wait (Res.keeps_ok (State.host_wf h (Memory.writeLe_wf hhost ..)))
  | peer y => exact Res.keeps_ite Res.keeps_wait (Res.keeps_ok (State.peer_wf h (Memory.writeLe_wf hpeer ..)))
  | window y => exact Res.keeps_trap

theorem State.stallAt_keeps {s : State} (h : s.wf = true) {t : Target} {size : Nat} : Keeps (s.stallAt t size) := by
  unfold State.stallAt
  split
  · exact keeps_ite (keeps_report (State.onCheck_wf (State.undo_wf h)) _) (keeps_stall h)
  · exact keeps_stall h

theorem Res.keeps_outAt {α : Type} {r : Res α} {s : State} {t : Target} {size : Nat} {f : α → State → Out} (h : s.wf = true) (hr : r.Keeps)
    (hf : ∀ a t, t.wf = true → Machine.Keeps (f a t)) : Machine.Keeps (r.outAt s t size f) := by
  cases r with
  | ok a u => exact hf _ _ (hr _ _ rfl)
  | wait => exact State.stallAt_keeps h
  | trap c d a => exact keeps_faultAt h _ _ _

theorem State.memAtomic_keeps {s : State} (h : s.wf = true) {p : Phys} {op : AOp} {size b cmp : Nat} : (s.memAtomic p op size b cmp).Keeps := by
  have hc := State.countHome_wf h (p := p) (c := false) (m := 0)
  have hm := MemSys.toHome_wf (State.wf_ms hc) (dieOf (s.countHome p false 0).cur.core) p
  refine Res.keeps_ite Res.keeps_wait (Res.keeps_ite ?_ (Res.keeps_ite Res.keeps_trap ?_))
  · cases op.apply (8 * size) 0 b cmp with
    | none => exact Res.keeps_ok h
    | some x => exact Res.keeps_bind (State.memStore_keeps h) fun _ _ ht => Res.keeps_ok ht
  · dsimp only
    split
    · exact Res.keeps_ok (State.l1Update_wf (State.ms_wf hc hm))
    · exact Res.keeps_ok (State.l1Update_wf (State.ms_wf hc (MemSys.homeWrite_wf hm ..)))

theorem atomicOn_wf {m : Memory} (h : m.wf = true) {a : Nat} {op : AOp} {size b cmp : Nat} : (atomicOn m a op size b cmp).2.wf = true := by
  unfold atomicOn
  dsimp only
  split
  · exact h
  · exact Memory.writeLe_wf h ..

theorem State.atomicAt_keeps {s : State} (h : s.wf = true) {a : Word} {t : Target} {op : AOp} {size b cmp : Nat} {n : Bool} :
    (s.atomicAt a t op size b cmp n).Keeps := by
  obtain ⟨-, hhost, hpeer⟩ := State.wf_ms h
  cases t with
  | mem p path => exact State.memAtomic_keeps h
  | host x => exact Res.keeps_ite Res.keeps_wait (Res.keeps_ok (State.host_wf h (atomicOn_wf hhost)))
  | peer x =>
    exact Res.keeps_ite Res.keeps_trap (Res.keeps_ite Res.keeps_wait (Res.keeps_ok (State.peer_wf h (atomicOn_wf hpeer))))
  | buf k b off => exact Res.keeps_trap
  | lat rt r => exact Res.keeps_trap
  | window x => exact Res.keeps_trap

theorem State.target_keeps {s : State} (h : s.wf = true) {a : Word} {size : Nat} {kind : AccessKind} : (s.target a size kind).Keeps :=
  Res.keeps_of_stays h (State.target_stays _ _ _ _)

/-! Writes of the device itself, and its notices. -/

theorem State.homePutLine_wf {s : State} (h : s.wf = true) {p : Phys} {mask : Word} {data : Line} : (s.homePutLine p mask data).wf = true :=
  have hr := State.revived_wf h
  State.ms_wf hr (ite_wf (MemSys.homeStore_wf (State.wf_ms hr) ..) (MemSys.homeWrite_wf (State.wf_ms hr) ..))

theorem State.writePieces_keeps (slot : Nat) (base : Word) (ps : List (Nat × Nat × Nat)) :
    ∀ {s : State}, s.wf = true → ∀ bs, OptKeeps id (State.writePieces slot base s bs ps) := by
  induction ps with
  | nil => exact fun h _ => optKeeps_some h
  | cons p ps ih =>
    intro s h bs
    unfold State.writePieces
    dsimp only
    split
    · exact optKeeps_none _
    · exact ih (State.homePutLine_wf h) _

theorem State.writeRange_keeps {s : State} (h : s.wf = true) {slot : Nat} {a : Word} {bs : List Byte} : OptKeeps id (s.writeRange slot a bs) :=
  optKeeps_ite (optKeeps_none _) (State.writePieces_keeps _ _ _ h _)

theorem State.wakeClu_wf {s : State} (h : s.wf = true) {k : Nat} {x : Clu} : (s.wakeClu k x).wf = true := by
  unfold State.wakeClu
  split
  · exact State.onClu_wf h
  · exact h

theorem State.noticeLost_wf {s : State} (h : s.wf = true) : s.noticeLost.wf = true := State.plat_wf h

theorem State.notice_wf {s : State} (h : s.wf = true) {code kind src detail loc : Nat} : (s.notice code kind src detail loc).wf = true := by
  unfold State.notice
  dsimp only
  split
  · exact State.noticeLost_wf h
  · split
    · exact State.noticeLost_wf h
    · next t e =>
      have ht : t.wf = true := State.writeRange_keeps h t e
      exact State.wf_ite (State.wakeClu_wf (State.plat_wf ht)) (State.plat_wf ht)

theorem State.onIsland_wf {s : State} (h : s.wf = true) {i : Fin 76} {f : Island → Island} : (s.onIsland i f).wf = true := State.plat_wf h

theorem State.setThr_wf {s : State} (h : s.wf = true) {i : Fin 76} {b : Nat} : (s.setThr i b).wf = true :=
  State.wf_ite h (State.notice_wf (State.onIsland_wf h))

/-! Launches and saved tasks. -/

theorem State.onLaunch_wf {s : State} (h : s.wf = true) {lid : BitVec 16} {f : Launch → Launch} : (s.onLaunch lid f).wf = true :=
  State.sch_same_wf h rfl

theorem State.writeTaskWord_wf {s : State} (h : s.wf = true) {l : Launch} {slot ord : Nat} {w : Word} : (s.writeTaskWord l slot ord w).wf = true := by
  refine State.wf_ite ?_ h
  split
  · next t e => exact State.writeRange_keeps h t e
  · exact State.onLaunch_wf h

/-- Saved tasks dropped from the pool. -/
theorem State.filterSaved_wf {s : State} (h : s.wf = true) {f : Saved → Bool} :
    ({ s with sch := { s.sch with saved := s.sch.saved.filter f } } : State).wf = true :=
  State.sch_wf h fun _ hv => State.saved_wf h (List.mem_of_mem_filter hv)

/-- Saved tasks marked, their cores kept. -/
theorem State.mapSaved_wf {s : State} (h : s.wf = true) {f : Saved → Saved} (hf : ∀ v, (f v).core = v.core) :
    ({ s with sch := { s.sch with saved := s.sch.saved.map f } } : State).wf = true := by
  refine State.sch_wf h fun w hw => ?_
  obtain ⟨v, hv, rfl⟩ := List.mem_map.mp hw
  rw [hf]
  exact State.saved_wf h hv

theorem State.dropSaved_wf {s : State} (h : s.wf = true) {cause : Word} {v : Saved} : (s.dropSaved cause v).wf = true := by
  have hs := State.filterSaved_wf h (f := fun u => u.slotN != v.slotN)
  unfold State.dropSaved
  dsimp only
  split
  · exact State.wf_ite hs (State.onLaunch_wf (State.writeTaskWord_wf hs))
  · exact hs

theorem State.stopTasks_wf {s : State} (h : s.wf = true) {lid : BitVec 16} {cause : Word} : (s.stopTasks lid cause).wf = true := by
  refine State.foldl_wf (State.mapCores_wf h fun k => ?_) fun _ v hs => State.dropSaved_wf hs
  exact Core.ite_st (Core.terminate_st ..) rfl

theorem State.draw_wf {s : State} (h : s.wf = true) : s.draw.2.wf = true := State.free_wf h

theorem State.endLaunch_wf {s : State} (h : s.wf = true) {lid : BitVec 16} {code : Nat} : (s.endLaunch lid code).wf = true := by
  unfold State.endLaunch
  split
  · exact State.wf_ite h (State.onLaunch_wf (State.stopTasks_wf (State.draw_wf h)))
  · exact h

theorem State.capCheck_wf {s : State} (h : s.wf = true) : s.capCheck.wf = true :=
  State.foldl_wf h fun _ _ ht => State.wf_ite (State.endLaunch_wf ht) ht

/-! Fenced cores and the events that are counted. -/

/-- A fenced core's task is saved, unless it terminates already. -/
theorem State.saveFenced_wf {s : State} (h : s.wf = true) {k : Fin 768} {r : Nat} :
    (if (s.core k).term.isSome then s else s.requestSave k r : State).wf = true := State.wf_ite h (State.requestSave_wf h k r)

theorem State.fenceCore_wf {s : State} (h : s.wf = true) {k : Fin 768} : (s.fenceCore k).wf = true := by
  unfold State.fenceCore
  refine State.wf_ite h (State.capCheck_wf (State.wf_ite (State.plat_wf ?_) (State.notice_wf ?_)))
  all_goals exact State.saveFenced_wf (State.plat_wf (State.setDev_wf h ..))

theorem State.fenceNotice_wf {s : State} (h : s.wf = true) {k : Fin 768} : (s.fenceNotice k).wf = true :=
  State.wf_ite (State.notice_wf (State.plat_wf h)) h

theorem State.primaryEvent_wf {s : State} (h : s.wf = true) {k : Fin 768} : (s.primaryEvent k).wf = true :=
  State.wf_ite (State.fenceCore_wf (State.onCore_rest_wf h)) (State.onCore_rest_wf h)

theorem State.shadowEvent_wf {s : State} (h : s.wf = true) {k : Fin 768} : (s.shadowEvent k).wf = true :=
  State.wf_ite (State.fenceCore_wf (State.onCore_rest_wf h)) (State.onCore_rest_wf h)

theorem State.transferEvent_wf {s : State} (h : s.wf = true) {k : Fin 768} : (s.transferEvent k).wf = true :=
  State.wf_ite (State.notice_wf (State.onCore_rest_wf h)) (State.onCore_rest_wf h)

theorem State.shootRequest_wf {s : State} (h : s.wf = true) {x : Word} : (s.shootRequest x).wf = true :=
  State.wf_ite h (State.shootdown_wf h)

end Sys2Proof.Machine
end

section
/-! Every memory stays canonical: tokens, tiles and the matrix engine. -/

namespace Sys2Proof.Machine

/-! Tokens of a core. -/

theorem Core.popTokens_wf {k : Core} (h : k.st.wf = true) (agent : Nat) (own : Clu) (set : BitVec 3) : (k.popTokens agent own set).st.wf = true := by
  rw [Core.popTokens, Core.onCheck_st]; exact Storage.popTokens_wf h own set

theorem Core.postOwn_wf {k : Core} (h : k.st.wf = true) {agents : List Nat} {own : Clu} {set : BitVec 3} :
    (k.postOwn agents own set).st.wf = true := by
  rw [Core.postOwn, Core.onCheck_st]; exact Storage.post_wf h

theorem Core.pushTokens_wf {k : Core} (h : k.st.wf = true) {agent : Nat} {own : Clu} {set : BitVec 3} :
    (k.pushTokens agent own set).st.wf = true := by
  rw [Core.pushTokens, Core.noteTokens, Core.onCheck_st]; exact Storage.pushTokens_wf h

theorem Core.postTokens_wf {k : Core} (h : k.st.wf = true) {agent : Nat} {own : Clu} {set : BitVec 3} :
    (k.postTokens agent own set).st.wf = true := by
  rw [Core.postTokens, Core.noteTokens, Core.onCheck_st]; exact Storage.post_wf h

theorem State.reserveSets_wf {s : State} (h : s.wf = true) {l : Long} : (s.reserveSets l).wf = true :=
  State.onMe_wf h _ (Storage.reserve_wf (State.core_wf h _))

theorem State.takeSets_wf {s : State} (h : s.wf = true) {l : Long} : (s.takeSets l).wf = true :=
  State.reserveSets_wf (State.popWait_wf h l)

theorem State.finishSets_wf {s : State} (h : s.wf = true) {l : Long} : (s.finishSets l).wf = true :=
  State.onMe_wf h _ (Core.pushTokens_wf (State.core_wf h _))

/-! Tiles. -/

theorem Memory.foldl_wf {α : Type} {f : Memory → α → Memory} {l : List α} {m : Memory} (h : m.wf = true)
    (hf : ∀ m a, m.wf = true → (f m a).wf = true) : (l.foldl f m).wf = true := by
  induction l generalizing m with
  | nil => exact h
  | cons a l ih => exact ih (hf _ a h)

theorem transposeTile_wf (src : Memory) (sh : Word) : (transposeTile src sh).wf = true := by
  refine Memory.foldl_wf Memory.empty_wf ?_
  exact fun _ _ hm => Memory.writeLe_wf hm ..

theorem convertTile_wf (src : Memory) (shS shD : Word) (rm : Nat) (key ctr : Word) : (convertTile src shS shD rm key ctr).1.wf = true := by
  unfold convertTile
  dsimp only
  generalize (shapeElems shS).mapIdx (fun n p => (n, p)) = l
  have all : ∀ r : Memory × BitVec 8, r.1.wf = true → (l.foldl (fun r e =>
      let c := convert (fmtOfR18 (shType shS)) (fmtOfR18 (shType shD)) (tileElem src (sizeOfR18 (shType shS)) e.2.1 e.2.2) rm true
        (if rm = 2 then drawBits key (ctr + BitVec.ofNat 64 e.1) else 0)
      (r.1.writeLe (64 * e.2.1 + sizeOfR18 (shType shD) * e.2.2) (sizeOfR18 (shType shD)) c.1, r.2 ||| c.2)) r).1.wf = true := by
    induction l with
    | nil => exact fun r h => h
    | cons e l ih => exact fun r h => ih _ (Memory.writeLe_wf h ..)
  exact all _ Memory.empty_wf

/-! Checks at issue. -/

theorem State.moveReach_keeps {s : State} (h : s.wf = true) {kind : MoveKind} {l : List Word} : (s.moveReach kind l).Keeps := by
  induction l with
  | nil => exact Res.keeps_ok h
  | cons a l ih =>
    refine Res.keeps_ite ih ?_
    split
    · exact Res.keeps_trap
    · exact Res.keeps_ite Res.keeps_trap ih

theorem State.raceCheck_keeps {s : State} (h : s.wf = true) {b : Fin 4} {off n : Nat} {w : Bool} {a : Word} : (s.raceCheck b off n w a).Keeps := by
  refine Res.keeps_ite Res.keeps_trap (Res.keeps_ok (State.onMe_wf_of_st h ?_))
  exact fun c => Core.ite_st (by rw [Core.noteAccess_st, Core.onCheck_st, Core.count_st]) rfl

theorem State.raceLines_keeps {w : Bool} {n : Nat} {l : List Word} : ∀ {s : State}, s.wf = true → (s.raceLines w n l).Keeps := by
  induction l with
  | nil => exact fun h => Res.keeps_ok h
  | cons a l ih =>
    exact fun h => Res.keeps_ite (Res.keeps_bind (State.raceCheck_keeps h) fun _ _ ht => ih ht) (ih h)

theorem State.moveCheck_keeps {s : State} (h : s.wf = true) {kind : MoveKind} {a : Word} {al n : Nat} {l : List Word} :
    (s.moveCheck kind a al n l).Keeps := by
  refine Res.keeps_ite Res.keeps_trap (Res.keeps_ite Res.keeps_trap (Res.keeps_ite Res.keeps_trap ?_))
  split
  · exact Res.keeps_trap
  · split
    · split <;> exact Res.keeps_trap
    · exact Res.keeps_trap
    · exact Res.keeps_bind (State.moveReach_keeps h) fun _ _ ht => State.raceLines_keeps ht

theorem Res.keeps_hard {r : Res Unit} (h : r.Keeps) : r.hard.Keeps := Res.keeps_bind h fun _ _ ht => Res.keeps_ok ht

/-! Issue. -/

theorem keeps_matrixFault {s : State} (h : s.wf = true) {c d : Nat} {a : Word} {f : Word32} : Keeps (s.matrixFault c d a f) := keeps_raise h _ _ _ _

theorem State.popFmt_wf {s : State} (h : s.wf = true) {p : Bool} : (s.popFmt p).wf = true :=
  State.wf_ite (State.onSt_wf h _ (State.core_wf h _)) h

theorem Core.count_wf {k : Core} (h : k.st.wf = true) {e n : Nat} {x : Clu} : (k.count e x n).st.wf = true := by
  rw [Core.count_st]; exact h

theorem Core.late_wf {k : Core} (h : k.st.wf = true) : k.late.st.wf = true := by
  unfold Core.late
  refine Core.count_wf ?_
  dsimp only
  exact Storage.rest_wf h

theorem State.late_wf {s : State} (h : s.wf = true) : (s.onMe Core.late).wf = true := State.onMe_wf h _ (Core.late_wf (State.core_wf h _))

theorem State.emulate_keeps {s : State} (h : s.wf = true) {l : Long} {pop late : Bool} {c : MCmd} : Keeps (s.emulate l pop late c) := by
  have hu := State.popFmt_wf (State.onSt_wf (State.undo_wf h) (fun t => t.reserve s.cur.clu l.post) (Storage.reserve_wf (State.core_wf (State.undo_wf h) _)))
    (p := pop)
  refine keeps_ite (keeps_fault h _ _) (keeps_report (State.charge_wf (State.onMe_rest_wf ?_)) _)
  exact State.wf_ite (State.late_wf hu) hu

theorem State.enqueue_wf {s : State} (h : s.wf = true) {p : Bool} {c : MCmd} : (s.enqueue p c).wf = true := State.onEn_wf (State.popFmt_wf h) _

/-! Lines of memory that a started command moves. -/

theorem Storage.setHall_wf {t : Storage} (h : t.wf = true) {acc : BitVec 6} {p q : Word} : (t.setHall acc p q).wf = true := h

theorem Storage.putAcc_wf {t : Storage} (h : t.wf = true) {acc : BitVec 6} {ws : List Word32} : (t.putAcc acc ws).wf = true :=
  Storage.putBuf_wf h ..

theorem Storage.wf_ite {t u : Storage} {c : Prop} [Decidable c] (ht : t.wf = true) (hu : u.wf = true) : (if c then t else u : Storage).wf = true := by
  split <;> assumption

theorem Storage.resetHall_wf {t : Storage} (h : t.wf = true) {off n : Nat} : (t.resetHall off n).wf = true := by
  refine Storage.foldl_wf h ?_
  exact fun _ _ ht => Storage.wf_ite (Storage.setHall_wf ht) ht

theorem State.putLineBytes_wf {s : State} (h : s.wf = true) {at_ : Spot} {n x : Nat} : (s.putLineBytes at_ n x).wf = true := by
  unfold State.putLineBytes
  dsimp only
  split
  · have hp := Storage.putBuf_wf (State.core_wf h s.cur.core) (Fin.ofNat 4 (bits at_.addr 60 4)) (bits at_.addr 0 40) (leBytes x n)
    exact State.onMe_wf h _ (Storage.wf_ite (Storage.resetHall_wf hp) hp)
  · refine State.wf_ite h ?_
    split
    · next t e => exact State.lineStore_keeps h _ _ e
    · exact h

theorem State.getLineBytes_keeps {s : State} (h : s.wf = true) {at_ : Spot} {n : Nat} : OptKeeps Prod.snd (s.getLineBytes at_ n) := by
  unfold State.getLineBytes
  dsimp only
  split
  · exact optKeeps_ite (optKeeps_none _) (optKeeps_some h)
  · refine optKeeps_ite (optKeeps_none _) ?_
    split
    · next t e => exact optKeeps_some (State.lineLoad_keeps h _ _ e)
    · exact optKeeps_none _

theorem State.loadRows_wf {n : Nat} {l : List Spot} : ∀ {s : State} {m : Memory} {i : Nat}, s.wf = true → m.wf = true →
    ∀ r, s.loadRows n m i l = some r → r.1.wf = true ∧ r.2.wf = true := by
  induction l with
  | nil => intro s m i h hm r e; cases e; exact ⟨hm, h⟩
  | cons p l ih =>
    intro s m i h hm r e
    unfold State.loadRows at e
    split at e
    · cases e
    · next x t g => exact ih (State.getLineBytes_keeps h _ g) (Memory.writeLe_wf hm ..) r e

theorem State.storeRows_wf {n : Nat} {m : Memory} {l : List Spot} : ∀ {s : State} {i : Nat}, s.wf = true → (s.storeRows n m i l).wf = true := by
  induction l with
  | nil => exact fun h => h
  | cons p l ih => exact fun h => ih (State.putLineBytes_wf h)

theorem State.storeBytes_wf {l : List Spot} : ∀ {s : State} {bs : List Byte}, s.wf = true → (s.storeBytes bs l).wf = true := by
  induction l with
  | nil => exact fun h => h
  | cons p l ih => exact fun h => ih (State.putLineBytes_wf h)

/-! Start. -/

theorem Core.startMma_wf {k : Core} (h : k.st.wf = true) {c : MCmd} {sc : List Byte} {p q : Upset} : (k.startMma c sc p q).st.wf = true :=
  Storage.putAcc_wf h

theorem Core.passMarks_st (k : Core) (c : MCmd) : (k.passMarks c).st = k.st := Core.onCheck_st ..

/-- A core's tile is replaced and a run noted. -/
theorem State.tileRun_wf {s : State} (h : s.wf = true) {ta : TReg} {x : Memory} (hx : x.wf = true) {r : MRun} :
    (s.onMe fun k => ({ k with st := k.st.setTile ta x } : Core).addRun r).wf = true :=
  State.onMe_wf h _ (Storage.setTile_wf (State.core_wf h _) ta hx)

theorem State.addRun_wf {s : State} (h : s.wf = true) {r : MRun} : (s.onMe fun k => k.addRun r).wf = true := State.onMe_rest_wf h

theorem State.startCmd_wf {s : State} (h : s.wf = true) {c : MCmd} {p q : Upset} : (s.startCmd c p q).wf = true := by
  have hs : (s.onMe fun k => (k.count 7 .m 1).passMarks c).wf = true :=
    State.onMe_wf_of_st h fun k => by rw [Core.passMarks_st, Core.count_st]
  unfold State.startCmd
  dsimp only
  split
  · exact State.addRun_wf (State.machineCheck_wf hs)
  · split
    · split
      · next x u e =>
        obtain ⟨hx, hu⟩ := State.loadRows_wf hs Memory.empty_wf _ e
        exact State.tileRun_wf hu hx
      · exact State.addRun_wf (State.machineCheck_wf hs)
    · exact State.addRun_wf (State.storeRows_wf hs)
    · refine State.onMe_wf hs _ ?_
      dsimp only [Core.addRun]
      rw [Core.onCheck_st]
      refine Storage.rest_wf (Storage.setTile_wf (State.core_wf hs _) _ ?_)
      refine Memory.foldl_wf Memory.empty_wf ?_
      exact fun _ _ hm => Memory.writeLe_wf hm ..
    · exact State.tileRun_wf hs Memory.empty_wf
    · exact State.onMe_wf hs _ (Storage.setTile_wf (State.core_wf hs _) _ (transposeTile_wf ..))
    · exact State.onMe_wf hs _ (Storage.setTile_wf (State.core_wf hs _) _ (convertTile_wf ..))
    · exact State.onMe_wf hs _ (Core.startMma_wf (State.core_wf hs _))
    · exact State.onMe_wf hs _ (Core.startMma_wf (State.core_wf hs _))
    · exact State.onMe_rest_wf hs
    · exact State.onMe_rest_wf hs
    · exact State.onMe_rest_wf hs
    · exact State.onMe_wf hs _ (State.core_wf hs _)
    · exact hs

theorem State.startHead_keeps {s : State} (h : s.wf = true) {p q : Upset} : OptKeeps id (s.startHead p q) := by
  unfold State.startHead
  split
  · exact optKeeps_none _
  · exact optKeeps_ite (optKeeps_some (State.startCmd_wf (State.onEn_wf h _))) (optKeeps_none _)

theorem keeps_stallHeld {s : State} (h : s.wf = true) : Keeps s.stallHeld := keeps_report (State.onCl_wf (State.undo_wf h) _) _
theorem keeps_stallOpen {s : State} (h : s.wf = true) : Keeps s.stallOpen := keeps_report (State.onCl_wf (State.undo_wf h) _) _
theorem keeps_missStamp {s : State} (h : s.wf = true) : Keeps s.missStamp :=
  keeps_ite (keeps_report (State.onCl_wf (State.undo_wf h) _) _) (keeps_matrixFault h)

theorem State.issueCmd_keeps {s t : State} (h : s.wf = true) (ht : t.wf = true) {l : Long} {pop late : Bool} {c : MCmd} :
    Keeps (s.issueCmd l pop late c t) := by
  refine keeps_ite (keeps_ite (keeps_stallHeld h) (keeps_next (State.enqueue_wf ht))) (keeps_ite (keeps_stallHeld h) ?_)
  split
  · next u e =>
    have hu : u.wf = true := State.startHead_keeps (State.enqueue_wf ht) u e
    exact keeps_next (State.wf_ite (State.late_wf hu) hu)
  · exact keeps_stallHeld h

theorem State.issueMatrix_keeps {s : State} (h : s.wf = true) {l : Long} {pop : Bool} {c : MCmd} {check : State → Res WordClass}
    (hc : ∀ {t : State}, t.wf = true → (check t).Keeps) : Keeps (s.issueMatrix l pop c check) := by
  refine keeps_ite (keeps_next h) (keeps_ite (keeps_next (State.onEn_wf h _)) (keeps_ite (keeps_stall h) ?_))
  refine keeps_ite (keeps_matrixFault h) (keeps_ite (keeps_ite (keeps_stallOpen h) (keeps_missStamp h)) (keeps_ite (keeps_matrixFault h) ?_))
  split
  · exact keeps_stall h
  · exact keeps_matrixFault h
  · next t e => exact State.issueCmd_keeps h (hc (State.takeSets_wf h) _ _ e)
  · exact State.emulate_keeps h

/-! The matrix instructions. -/

theorem execFmtw_keeps {s : State} (h : s.wf = true) {l : Long} {g : Reg} : Keeps (execFmtw l g s) :=
  keeps_guarded h l fun _ hu => keeps_ite (keeps_stall h) (keeps_next (State.finishSets_wf (State.onSt_wf hu _ (State.core_wf hu _))))

theorem execTld_keeps {s : State} (h : s.wf = true) {l : Long} {ta : TReg} {g : Reg} : Keeps (execTld l ta g s) :=
  State.issueMatrix_keeps h fun ht => Res.keeps_ite Res.keeps_trap (Res.keeps_hard (State.moveCheck_keeps ht))

theorem execTst_keeps {s : State} (h : s.wf = true) {l : Long} {ta : TReg} {g : Reg} : Keeps (execTst l ta g s) :=
  State.issueMatrix_keeps h fun ht => Res.keeps_ite Res.keeps_trap (Res.keeps_hard (State.moveCheck_keeps ht))

theorem execTqld_keeps {s : State} (h : s.wf = true) {l : Long} {ta : TReg} : Keeps (execTqld l ta s) :=
  State.issueMatrix_keeps h fun ht => Res.keeps_ite Res.keeps_trap (Res.keeps_ok ht)

theorem execTzero_keeps {s : State} (h : s.wf = true) {l : Long} {ta : TReg} : Keeps (execTzero l ta s) :=
  State.issueMatrix_keeps h fun ht => Res.keeps_ok ht

theorem execTtrans_keeps {s : State} (h : s.wf = true) {l : Long} {ta tb : TReg} : Keeps (execTtrans l ta tb s) :=
  State.issueMatrix_keeps h fun ht => Res.keeps_ite (Res.keeps_ok ht) Res.keeps_trap

theorem execTcvt_keeps {s : State} (h : s.wf = true) {l : Long} {ta tb : TReg} {rm : BitVec 2} : Keeps (execTcvt l ta tb rm s) :=
  State.issueMatrix_keeps h fun ht => Res.keeps_ite Res.keeps_trap (Res.keeps_ite Res.keeps_trap (Res.keeps_ok ht))

theorem State.mmaCheck_keeps {s : State} (h : s.wf = true) {w : Word32} {sc : Bool} {a b : Word} {acc : BitVec 6} {rest : State → Res Unit}
    (hr : ∀ {t : State}, t.wf = true → (rest t).Keeps) : (s.mmaCheck w sc a b acc rest).Keeps := by
  refine Res.keeps_ite (Res.keeps_ok h) (Res.keeps_ite Res.keeps_trap (Res.keeps_ite Res.keeps_trap ?_))
  exact Res.keeps_bind (hr h) fun _ _ ht => Res.keeps_bind (State.raceCheck_keeps ht) fun _ _ hu => Res.keeps_ok hu

theorem execTmma_keeps {s : State} (h : s.wf = true) {l : Long} {acc : BitVec 6} {ta tb : TReg} : Keeps (execTmma l acc ta tb s) :=
  State.issueMatrix_keeps h fun ht => State.mmaCheck_keeps ht fun hu => Res.keeps_ok hu

theorem State.scaleCheck_keeps {s : State} (h : s.wf = true) {w : Word32} {c : Word} : (s.scaleCheck w c).Keeps :=
  Res.keeps_ite Res.keeps_trap (State.raceCheck_keeps h)

theorem execTmmas_keeps {s : State} (h : s.wf = true) {l : Long} {acc : BitVec 6} {ta tb : TReg} {g : Reg} : Keeps (execTmmas l acc ta tb g s) := by
  unfold execTmmas
  dsimp only
  exact State.issueMatrix_keeps h fun ht => State.mmaCheck_keeps ht fun hu => State.scaleCheck_keeps hu

theorem State.drainCheck_keeps {s : State} (h : s.wf = true) {w : Word32} {kind : MoveKind} {acc : BitVec 6} {a : Word} {al n : Nat} :
    (s.drainCheck w kind acc a al n).Keeps :=
  Res.keeps_ite Res.keeps_trap (Res.keeps_bind (State.moveCheck_keeps h) fun _ _ ht =>
    Res.keeps_bind (State.raceCheck_keeps ht) fun _ _ hu => Res.keeps_ok hu)

theorem execTdrain_keeps {s : State} (h : s.wf = true) {l : Long} {g : Reg} {acc : BitVec 6} : Keeps (execTdrain l g acc s) :=
  State.issueMatrix_keeps h fun ht => Res.keeps_ite (Res.keeps_ok ht) (State.drainCheck_keeps ht)

theorem execTdrainadd_keeps {s : State} (h : s.wf = true) {l : Long} {g : Reg} {acc : BitVec 6} {k : BitVec 1} :
    Keeps (execTdrainadd l g acc k s) :=
  State.issueMatrix_keeps h fun ht => Res.keeps_ite (Res.keeps_ok ht) (Res.keeps_ite Res.keeps_trap (State.drainCheck_keeps ht))

theorem execHmrd_keeps {s : State} (h : s.wf = true) {l : Long} {g : Reg} {acc : BitVec 6} : Keeps (execHmrd l g acc s) :=
  State.issueMatrix_keeps h fun ht => Res.keeps_ok ht

theorem execHmclr_keeps {s : State} (h : s.wf = true) {l : Long} {acc : BitVec 6} : Keeps (execHmclr l acc s) :=
  State.issueMatrix_keeps h fun ht => Res.keeps_ok ht

end Sys2Proof.Machine
end

section
/-! Every memory stays canonical: comparison, assay and locket, the save area's layout, submission and region tables. -/

namespace Sys2Proof.Machine

/-! Events of an engine. -/

/-- An event of an engine happens in the state that its function gives, or changes nothing. -/
theorem State.engine_keeps {s : State} (h : s.wf = true) {k : Fin 768} {x : Clu} {f : State → Option State}
    (hf : ∀ {t : State}, t.wf = true → OptKeeps id (f t)) : Keeps (s.engine k x f) := by
  unfold State.engine
  dsimp only
  split
  · next u e => exact keeps_report (optKeeps_ite (hf (State.asClu_wf h)) (optKeeps_none id) u e) _
  · exact keeps_report h _

theorem State.setRuns_wf {s : State} (h : s.wf = true) {l : List MRun} : (s.setRuns l).wf = true := State.onEn_wf h _

theorem State.orFlags_wf {s : State} (h : s.wf = true) {f : BitVec 8} : (s.onMe fun k => k.orFlags f).wf = true := State.onMe_rest_wf h

theorem State.putAcc_wf {s : State} (h : s.wf = true) {acc : BitVec 6} {ws : List Word32} : (s.onSt fun t => t.putAcc acc ws).wf = true :=
  State.onSt_wf h _ (Storage.putAcc_wf (State.core_wf h _))

theorem State.compareHall_keeps {s : State} (h : s.wf = true) {acc : BitVec 6} : OptKeeps id (s.compareHall acc) := by
  unfold State.compareHall
  split
  · exact optKeeps_none _
  · next pre r post e =>
    have hs := State.onSt_wf h (fun t => t.setHall acc r.foldP r.foldS) (Storage.setHall_wf (State.core_wf h _))
    refine optKeeps_ite (optKeeps_some (State.orFlags_wf (State.setRuns_wf hs))) (optKeeps_some (State.onMe_wf_of_st (State.setRuns_wf hs) ?_))
    exact fun k => Core.count_st ..

theorem State.startAssay_keeps {s : State} (h : s.wf = true) : OptKeeps id s.startAssay := by
  unfold State.startAssay
  split
  · exact optKeeps_none _
  · exact optKeeps_ite (optKeeps_none _) (optKeeps_map fun _ _ => State.onEn_wf (State.setRuns_wf h) _)

theorem State.verdict_wf {s : State} (h : s.wf = true) {v k : Nat} {acc : BitVec 6} : (s.verdict v k acc).wf = true := State.onRg_wf h _

theorem State.corrupt_wf {s : State} (h : s.wf = true) {k : Nat} {acc : BitVec 6} : (s.corrupt k acc).wf = true :=
  State.fenceCore_wf (State.machineCheck_wf (State.onEn_wf (State.verdict_wf h) _))

theorem State.judge_wf {s : State} (h : s.wf = true) {v : Verdict} {k : Nat} {acc : BitVec 6} : (s.judge v k acc).wf = true := by
  cases v with
  | shadowWrong => exact State.shadowEvent_wf (State.verdict_wf h)
  | primaryWrong => exact State.primaryEvent_wf (State.verdict_wf h)
  | corruption => exact State.corrupt_wf h

theorem State.commandVerdict_wf {s : State} (h : s.wf = true) {pre post : List MRun} {r : MRun} {ws : List Word32} :
    (s.commandVerdict pre r post ws).wf = true := by
  refine State.judge_wf ?_
  cases verdictOf (foldWords ws) r.foldP r.foldS with
  | shadowWrong => exact State.orFlags_wf (State.setRuns_wf h)
  | primaryWrong => exact State.putAcc_wf (State.orFlags_wf (State.setRuns_wf h))
  | corruption => exact State.putAcc_wf (State.setRuns_wf h)

/-! Drains. -/

theorem State.ownLine_keeps {s : State} (h : s.wf = true) {p : Spot} : OptKeeps Prod.snd (s.ownLine p) := by
  unfold State.ownLine
  split
  · exact State.getLineBytes_keeps h
  · next q _ =>
    have ht := State.revived_wf h (p := s.fresh q)
    refine optKeeps_ite (optKeeps_none _) (optKeeps_some ?_)
    exact State.countHome_wf (State.ms_wf ht (MemSys.toHome_wf (State.wf_ms ht) _ q))

theorem State.putOwnLine_wf {s : State} (h : s.wf = true) {p : Spot} {bs : List Byte} : (s.putOwnLine p bs).wf = true := by
  unfold State.putOwnLine
  split
  · exact State.putLineBytes_wf h
  · exact State.wf_ite h (State.ms_wf (State.l1Update_wf h) (MemSys.homeWrite_wf (State.wf_ms h) ..))

theorem State.addRows_keeps {r : MRun} {k : Bool} (l : List Spot) : ∀ {s : State}, s.wf = true → ∀ ws n fl,
    OptKeeps Prod.fst (s.addRows r k ws n fl l) := by
  induction l using List.twoStepInduction with
  | nil => exact fun h _ _ _ => optKeeps_some h
  | singleton a => exact fun h _ _ _ => optKeeps_some h
  | cons_cons a b l ih _ =>
    intro s h ws n fl
    refine optKeeps_bind fun x hx => optKeeps_bind fun y hy => ?_
    exact ih (State.putOwnLine_wf (State.putOwnLine_wf (State.ownLine_keeps (State.ownLine_keeps h x hx) y hy))) _ _ _

theorem State.writeDrain_wf {s : State} (h : s.wf = true) {r : MRun} {ws : List Word32} {fl : BitVec 8} : (s.writeDrain r ws fl).wf = true := by
  unfold State.writeDrain
  split
  · split
    · next t f e =>
      have ht : t.wf = true := State.addRows_keeps _ h _ _ _ _ e
      exact State.onMe_rest_wf ht
    · exact State.addRun_wf (State.machineCheck_wf h)
  · exact State.onMe_rest_wf (State.storeBytes_wf h)

theorem State.releaseDrain_keeps {s : State} (h : s.wf = true) {acc : BitVec 6} {p q : Upset} : OptKeeps id (s.releaseDrain acc p q) := by
  unfold State.releaseDrain
  split
  · exact optKeeps_none _
  · refine optKeeps_ite (optKeeps_ite (optKeeps_some (State.writeDrain_wf (State.setRuns_wf h))) (optKeeps_none _)) (optKeeps_some ?_)
    exact State.onMe_rest_wf (State.setRuns_wf h)

theorem State.drainVerdict_keeps {s : State} (h : s.wf = true) {pre post : List MRun} {r : MRun} {ws : List Word32} :
    OptKeeps id (s.drainVerdict pre r post ws) := by
  unfold State.drainVerdict
  dsimp only
  split
  · exact optKeeps_some (State.judge_wf (State.setRuns_wf h))
  · exact optKeeps_ite (optKeeps_some (State.judge_wf (State.writeDrain_wf (State.setRuns_wf h)))) (optKeeps_none _)

theorem State.assayVerdict_keeps {s : State} (h : s.wf = true) {u : Upset} : OptKeeps id (s.assayVerdict u) := by
  unfold State.assayVerdict
  split
  · exact optKeeps_none _
  · exact optKeeps_ite (State.drainVerdict_keeps h) (optKeeps_some (State.commandVerdict_wf h))

theorem State.finishCmd_keeps {s : State} (h : s.wf = true) : OptKeeps id s.finishCmd := by
  refine optKeeps_map fun p _ => State.onMe_wf (State.setRuns_wf h) _ ?_
  exact Core.postOwn_wf (State.core_wf (State.setRuns_wf h) _)

/-! Group stops. -/

theorem State.stopGroups_wf {s : State} (h : s.wf = true) {pre post : List MRun} {r : MRun} {n : Nat} {p q a : Upset} :
    (s.stopGroups pre r post n p q a).wf = true := by
  have hacc : ∀ ws x y, ((s.me.st.putAcc r.cmd.acc ws).setHall r.cmd.acc x y).wf = true := fun _ _ _ =>
    Storage.setHall_wf (Storage.putAcc_wf (State.core_wf h _))
  unfold State.stopGroups
  dsimp only
  refine State.wf_ite (State.onMe_wf h _ ?_) ?_
  · exact hacc _ _ _
  split
  · refine State.judge_wf (State.onMe_wf h _ ?_)
    exact hacc _ _ _
  · refine State.judge_wf (State.onMe_wf h _ ?_)
    exact hacc _ _ _
  · exact State.judge_wf (State.putAcc_wf (State.setRuns_wf h))

theorem State.groupStop_wf {s : State} (h : s.wf = true) {n : Nat} {p q a : Upset} : (s.groupStop n p q a).wf = true := by
  unfold State.groupStop
  split
  · exact h
  · split
    · exact State.wf_ite (State.stopGroups_wf h) h
    · exact h

theorem Core.resumeGroups_wf {k : Core} (h : k.st.wf = true) {p q : Upset} : (k.resumeGroups p q).st.wf = true := by
  unfold Core.resumeGroups
  split
  · exact h
  · exact Core.startMma_wf (q := q) h

/-! The events of the matrix engine. -/

theorem execMatrixCommandStart_keeps {s : State} (h : s.wf = true) {k : Fin 768} {p q : Upset} : Keeps (execMatrixCommandStart k p q s) :=
  State.engine_keeps h fun ht => optKeeps_ite (optKeeps_none _) (State.startHead_keeps ht)

theorem execMatrixCommandFinish_keeps {s : State} (h : s.wf = true) {k : Fin 768} : Keeps (execMatrixCommandFinish k s) :=
  State.engine_keeps h fun ht => State.finishCmd_keeps ht

theorem execHallmarkCompare_keeps {s : State} (h : s.wf = true) {k : Fin 768} {acc : BitVec 6} : Keeps (execHallmarkCompare k acc s) :=
  State.engine_keeps h fun ht => State.compareHall_keeps ht

theorem execAssayStart_keeps {s : State} (h : s.wf = true) {k : Fin 768} : Keeps (execAssayStart k s) :=
  State.engine_keeps h fun ht => State.startAssay_keeps ht

theorem execAssayVerdict_keeps {s : State} (h : s.wf = true) {k : Fin 768} {u : Upset} : Keeps (execAssayVerdict k u s) :=
  State.engine_keeps h fun ht => State.assayVerdict_keeps ht

theorem execLocketRelease_keeps {s : State} (h : s.wf = true) {k : Fin 768} {acc : BitVec 6} {p q : Upset} : Keeps (execLocketRelease k acc p q s) :=
  State.engine_keeps h fun ht => State.releaseDrain_keeps ht

/-! The save area's layout: a word stored in a core changes at most one byte store, byte by byte. -/

theorem Core.wf_ite {a b : Core} {c : Prop} [Decidable c] (ha : a.st.wf = true) (hb : b.st.wf = true) : (if c then a else b : Core).st.wf = true := by
  split <;> assumption

theorem Storage.setTqcnt_wf {t : Storage} (h : t.wf = true) {x : Nat} : (t.setTqcnt x).wf = true := by
  unfold Storage.setTqcnt
  exact Storage.foldl_wf h fun _ _ ht => Storage.rest_wf ht

theorem Storage.setDqcnt_wf {t : Storage} (h : t.wf = true) {x : Nat} : (t.setDqcnt x).wf = true := by
  unfold Storage.setDqcnt
  exact Storage.rest_wf h

theorem Core.stopPut_st (k : Core) (o x : Nat) : (k.stopPut o x).st = k.st := by
  refine Core.ite_st (Core.ite_st rfl rfl) ?_
  split <;> rfl

theorem Core.imgPutRest_wf {k : Core} (h : k.st.wf = true) {o x : Nat} : (k.imgPutRest o x).st.wf = true := by
  obtain ⟨hw, ha, hc, hb, ht⟩ := (Storage.wf_iff _).mp h
  unfold Core.imgPutRest
  dsimp only
  -- masks, vector registers, stamps and shapes
  refine Core.wf_ite (Storage.rest_wf h) (Core.wf_ite (Storage.rest_wf h) (Core.wf_ite (Storage.rest_wf h) (Core.wf_ite (Storage.rest_wf h)
    (Core.wf_ite (Storage.rest_wf h) ?_))))
  -- the stopped and the queued matrix commands, and the tiles
  refine Core.wf_ite (by rw [Core.stopPut_st]; exact h) (Core.wf_ite h (Core.wf_ite (Storage.setTile_wf h _ (Memory.writeLe_wf (ht _) ..)) ?_))
  -- registers, queues and tokens
  refine Core.wf_ite h (Core.wf_ite h (Core.wf_ite (Storage.rest_wf h) (Core.wf_ite (Storage.setTqcnt_wf h) (Core.wf_ite (Storage.setDqcnt_wf h)
    (Core.wf_ite (Storage.rest_wf h) (Core.wf_ite h (Core.wf_ite h ?_)))))))
  -- strands, hallmarks, levels and shape records
  refine Core.wf_ite (Storage.rest_wf h) (Core.wf_ite (Storage.rest_wf h) (Core.wf_ite h (Core.wf_ite h (Core.wf_ite h ?_))))
  -- the contents of the queues, and the channels
  refine Core.wf_ite (Storage.rest_wf h) (Core.wf_ite (Storage.rest_wf h) (Core.wf_ite (Storage.rest_wf h) (Core.wf_ite (Storage.rest_wf h)
    (Core.wf_ite (Storage.rest_wf h) (Core.wf_ite h (Core.wf_ite h ?_))))))
  -- the typed buffers
  exact Core.wf_ite (Storage.setBuf_wf h 0 (Memory.writeLe_wf hw ..)) (Core.wf_ite (Storage.setBuf_wf h 1 (Memory.writeLe_wf ha ..))
    (Core.wf_ite (Storage.setBuf_wf h 2 (Memory.writeLe_wf hc ..)) (Core.wf_ite (Storage.setBuf_wf h 3 (Memory.writeLe_wf hb ..)) h)))

theorem Core.imgPut_wf {k : Core} (h : k.st.wf = true) {o x : Nat} : (k.imgPut o x).st.wf = true := by
  refine Core.wf_ite (Core.wf_ite ?_ h) (Core.wf_ite h (Core.wf_ite h (Core.wf_ite h (Core.wf_ite h (Core.imgPutRest_wf h)))))
  split <;> exact h

theorem State.imgPutClasp_wf {s : State} (h : s.wf = true) {k : Fin 768} {o x : Nat} : (s.imgPutClasp k o x).wf = true := State.quads_wf h

theorem Core.cleanWord_wf {k : Core} (h : k.st.wf = true) {o n : Nat} : (k.cleanWord o n).st.wf = true := by
  unfold Core.cleanWord
  split
  · exact Core.wf_ite (Storage.rest_wf h) h
  · exact h

theorem State.windowLoad_keeps {s : State} (h : s.wf = true) {o n : Nat} : OptKeeps Prod.snd (s.windowLoad o n) := by
  refine optKeeps_ite (optKeeps_none _) (optKeeps_some ?_)
  dsimp only
  split
  · exact h
  · exact State.draw_wf h

theorem State.windowStore_keeps {s : State} (h : s.wf = true) {o n x : Nat} : OptKeeps id (s.windowStore o n x) := by
  refine optKeeps_ite (optKeeps_none _) ?_
  split
  · exact optKeeps_some h
  · refine optKeeps_some (State.wf_ite h (State.wf_ite (State.imgPutClasp_wf h) (State.onMe_wf h _ ?_)))
    exact Core.cleanWord_wf (Core.imgPut_wf (State.core_wf h _))

/-! Submission. -/

theorem snd_wf_ite {α : Type} {x y : α × State} {c : Prop} [Decidable c] (hx : x.2.wf = true) (hy : y.2.wf = true) :
    (if c then x else y).2.wf = true := by split <;> assumption

theorem fst_wf_ite {α : Type} {x y : State × α} {c : Prop} [Decidable c] (hx : x.1.wf = true) (hy : y.1.wf = true) :
    (if c then x else y).1.wf = true := by split <;> assumption

theorem State.newLid_wf {s : State} (h : s.wf = true) : s.newLid.2.wf = true := State.draw_wf h

theorem State.accept_wf {s : State} (h : s.wf = true) {die : Fin 8} {ctx : BitVec 12} {slot : Nat} {bs : List Byte} {q : Option (Fin 32)} :
    (s.accept die ctx slot bs q).2.wf = true := by
  unfold State.accept
  dsimp only
  refine snd_wf_ite h (snd_wf_ite h (snd_wf_ite h (snd_wf_ite h ?_)))
  split
  · exact h
  · split
    · exact h
    · refine snd_wf_ite h (snd_wf_ite h (snd_wf_ite h (snd_wf_ite h (snd_wf_ite h (snd_wf_ite h ?_)))))
      exact State.sch_same_wf (State.newLid_wf h) rfl

/-! Region tables. -/

theorem State.tableStat_wf {s : State} (h : s.wf = true) {d e : Nat} : (s.tableStat d e).wf = true := State.lat_wf h

theorem State.uncache_wf {s : State} (h : s.wf = true) {t : RegionTable} : (s.uncache t).wf = true := by
  unfold State.uncache
  dsimp only
  have back : ∀ l : List DieLine, (l.foldl MemSys.returnLine s.ms).Wf := fun l =>
    MemSys.foldl_wf (State.wf_ms h) fun _ d hm => MemSys.returnLine_wf hm d
  have gone : ∀ (l : List DieLine) (m : MemSys), m.Wf → (l.foldl MemSys.replace m).Wf := fun l m hm =>
    MemSys.foldl_wf hm fun _ d hm => MemSys.replace_wf hm d
  exact State.ms_wf h (gone _ _ (back _))

theorem State.initRegion_wf {s : State} (h : s.wf = true) {t : RegionTable} {r : Region} : (s.initRegion t r).wf = true := by
  refine State.ms_wf h (MemSys.foldl_wf (State.wf_ms h) ?_)
  exact fun _ _ hm => latWrite_wf _ _ _ hm _

theorem State.putTable_wf {s : State} (h : s.wf = true) {ctx : BitVec 12} {t : Option RegionTable} : (s.putTable ctx t).wf = true :=
  State.rest_wf h

theorem State.markDiffering_wf {s : State} (h : s.wf = true) {t : RegionTable} {r : Region} : (s.markDiffering t r).wf = true := State.lat_wf h

theorem State.loadTable_wf {s : State} (h : s.wf = true) {die : Fin 8} {a : Word} : (s.loadTable die a).1.wf = true := by
  have fail : ∀ d e, (s.tableStat d e).wf = true := fun _ _ => State.tableStat_wf h
  unfold State.loadTable
  dsimp only
  refine fst_wf_ite (fst_wf_ite (fail ..) (State.tableStat_wf (State.putTable_wf h))) (fst_wf_ite (fail ..) ?_)
  split
  · exact fail ..
  · split
    · exact fst_wf_ite h (fail ..)
    · refine fst_wf_ite (fail ..) ?_
      split
      · exact fail ..
      · refine State.tableStat_wf (State.foldl_wf (State.putTable_wf (State.foldl_wf (State.uncache_wf h) ?_)) ?_)
        · exact fun _ _ hu => State.wf_ite (State.initRegion_wf hu) hu
        · exact fun _ _ hv => State.wf_ite hv (State.markDiffering_wf hv)

theorem State.writeSchedule_wf {s : State} (h : s.wf = true) {k : Fin 8} {x : Word} : (s.writeSchedule k x).wf = true :=
  State.wf_ite h (State.wf_ite h (State.wf_ite (State.setDev_wf h ..) (State.lat_wf (State.setDev_wf h ..))))

end Sys2Proof.Machine
end

section
/-! Every memory stays canonical: links, islands and governors, special registers, and the control instructions. -/

namespace Sys2Proof.Machine

/-! Links. -/

theorem State.onLink_wf {s : State} (h : s.wf = true) {l : Fin 14} {f : Link → Link} : (s.onLink l f).wf = true := State.plat_wf h

theorem State.sendMsg_wf {s : State} (h : s.wf = true) {m : Msg} {c : BitVec 2} {r : List (Fin 14 × Fin 2)} : (s.sendMsg m c r).wf = true := by
  cases r with
  | nil => exact State.lat_wf h
  | cons e r => exact State.onLink_wf h

theorem State.receiveFlit_wf {s : State} (h : s.wf = true) {l : Fin 14} {d : Fin 2} {ok : Bool} : (s.receiveFlit l d ok).wf = true := by
  unfold State.receiveFlit
  dsimp only
  split
  · exact h
  · exact State.wf_ite (State.onLink_wf h) (State.wf_ite (State.onLink_wf h) (State.sendMsg_wf (State.onLink_wf h)))

theorem State.replayFlits_wf {s : State} (h : s.wf = true) {l : Fin 14} {d : Fin 2} : (s.replayFlits l d).wf = true :=
  State.wf_ite h (State.wf_ite (State.notice_wf (State.onLink_wf h)) (State.onLink_wf h))

theorem State.ackFlits_wf {s : State} (h : s.wf = true) {l : Fin 14} {d : Fin 2} : (s.ackFlits l d).wf = true := State.onLink_wf h

theorem State.retireGroup_wf {s : State} (h : s.wf = true) {l : Fin 14} {d : Fin 2} {g : Nat} : (s.retireGroup l d g).wf = true :=
  State.wf_ite h (State.notice_wf (State.onLink_wf h))

theorem State.applyLkctl_wf {s : State} (h : s.wf = true) {l : Fin 14} {v : Word} : (s.applyLkctl l v).wf = true := by
  have group : ∀ {u : State} {c : Prop} [Decidable c] {d : Fin 2} {g : Nat}, u.wf = true → (if c then u else u.retireGroup l d g : State).wf = true :=
    fun hu => State.wf_ite hu (State.retireGroup_wf hu)
  unfold State.applyLkctl
  exact group (group (State.wf_ite (State.onLink_wf (State.setDev_wf h ..)) (State.setDev_wf h ..)))

theorem State.writeLkctl_wf {s : State} (h : s.wf = true) {l : Fin 14} {v : Word} : (s.writeLkctl l v).wf = true :=
  State.wf_ite h (State.wf_ite (State.onLink_wf h) (State.applyLkctl_wf h))

theorem State.applyPending_wf {l : Fin 14} (n : Nat) : ∀ {s : State}, s.wf = true → (s.applyPending l n).wf = true := by
  induction n with
  | zero => exact fun h => h
  | succ n ih =>
    intro s h
    unfold State.applyPending
    dsimp only
    split
    · exact h
    · exact ih (State.applyLkctl_wf (State.onLink_wf h))

theorem State.endLinkStop_wf {s : State} (h : s.wf = true) {l : Fin 14} : (s.endLinkStop l).wf = true := by
  have hs : ∀ {f n x}, ((s.onLink l f).setDev n x).wf = true := State.setDev_wf (State.onLink_wf h) _ _
  exact State.wf_ite h (State.onLink_wf (State.applyPending_wf _ (State.wf_ite (State.notice_wf hs) hs)))

/-! Islands and governors. -/

theorem State.endHold_wf {s : State} (h : s.wf = true) {k : Fin 768} : (s.endHold k).wf = true := State.onCore_rest_wf h

theorem Core.reset_wf : Core.reset.st.wf = true := by
  rw [Storage.wf_iff]
  exact ⟨rfl, rfl, rfl, rfl, fun i => by simp [Core.reset, Storage.reset, vget]⟩

theorem State.writeIstate_wf {s : State} (h : s.wf = true) {i : Fin 76} {v : Word} : (s.writeIstate i v).wf = true := by
  have held : ∀ {u : State} {c : Prop} [Decidable c] {l : List (Fin 768)}, u.wf = true → (if c then u else l.foldl State.endHold u : State).wf = true :=
    fun hu => State.wf_ite hu (State.foldl_wf hu fun _ _ ht => State.endHold_wf ht)
  have off : ∀ {u : State} {c : Prop} [Decidable c] {l : List (Fin 768)}, u.wf = true →
      (if c then l.foldl (fun s k => s.setCore k Core.reset) u else u : State).wf = true :=
    fun hu => State.wf_ite (State.foldl_wf hu fun _ _ ht => State.setCore_wf ht _ Core.reset_wf) hu
  unfold State.writeIstate
  exact State.wf_ite h (State.capCheck_wf (off (held (State.onIsland_wf h))))

theorem State.stretchIsland_wf {s : State} (h : s.wf = true) {i : Fin 76} {m : BitVec 3} : (s.stretchIsland i m).wf = true :=
  State.wf_ite (State.wf_ite (State.notice_wf (State.onIsland_wf h)) (State.onIsland_wf h)) (State.onIsland_wf h)

theorem State.onDie_wf {s : State} (h : s.wf = true) {d : Fin 8} {f : Die → Die} : (s.onDie d f).wf = true := State.plat_wf h

theorem State.withdraw_wf {s : State} (h : s.wf = true) {r : PowerReq} : (s.withdraw r).wf = true := State.onDie_wf h

theorem State.requestPower_wf {s : State} (h : s.wf = true) {r : PowerReq} : (s.requestPower r).wf = true :=
  State.wf_ite h (State.onDie_wf (State.withdraw_wf h))

theorem State.dropRequest_wf {s : State} (h : s.wf = true) {k : Fin 768} : (s.dropRequest k).wf = true := State.onDie_wf (State.onCore_rest_wf h)

theorem State.grant_wf {s : State} (h : s.wf = true) {r : PowerReq} : (s.grant r).wf = true := State.onCore_rest_wf (State.withdraw_wf h)

theorem State.examineHead_wf {s : State} (h : s.wf = true) {d : Fin 8} {t c : Bool} : (s.examineHead d t c).wf = true := by
  unfold State.examineHead
  split
  · exact h
  · exact State.wf_ite (State.setThr_wf h) (State.wf_ite (State.setThr_wf h) (State.wf_ite (State.setThr_wf h) (State.grant_wf h)))

theorem State.writeDiepwr_wf {s : State} (h : s.wf = true) {n : Nat} {v : Word} : (s.writeDiepwr n v).wf = true :=
  State.wf_ite h (State.setDev_wf h ..)

theorem State.capStretch_wf {s : State} (h : s.wf = true) {d : Fin 8} {p : BitVec 16} : (s.capStretch d p).wf = true := by
  refine State.wf_ite (State.foldl_wf (State.onDie_wf h) ?_) (State.onDie_wf h)
  exact fun _ _ ht => State.setThr_wf (State.onIsland_wf ht)

theorem State.ballastStart_wf {s : State} (h : s.wf = true) {d : Fin 8} {n : Nat} : (s.ballastStart d n).wf = true := by
  refine State.wf_ite h (State.foldl_wf (State.onDie_wf h) ?_)
  exact fun _ _ ht => State.wf_ite (State.setThr_wf (State.setThr_wf ht)) (State.setThr_wf ht)

/-! Special registers. -/

theorem State.readReg_wf {s : State} (h : s.wf = true) {n : Nat} : (s.readReg n).2.wf = true := by
  unfold State.readReg
  dsimp only
  refine snd_wf_ite h (snd_wf_ite h (snd_wf_ite h (snd_wf_ite (State.onSt_wf h _ (Storage.rest_wf (State.core_wf h _))) (snd_wf_ite h ?_))))
  refine snd_wf_ite (State.onRg_wf h _) (snd_wf_ite (State.onRg_wf h _) (snd_wf_ite (State.onRg_wf h _) (snd_wf_ite (State.onRg_wf h _) ?_)))
  refine snd_wf_ite (State.onLink_wf h) (snd_wf_ite (State.plat_wf h) (snd_wf_ite (State.onIsland_wf h) ?_))
  split
  · exact h
  · split <;> exact h

/-- A special register of a core is no byte store. -/
theorem Core.putSpecial_wf {k c : Core} {n : Nat} {x : Word} (h : k.st.wf = true) (e : k.putSpecial n x = some c) : c.st.wf = true := by
  have ite : ∀ {p : Prop} [Decidable p] {a b : Option Core}, (∀ d ∈ a, d.st.wf = true) → (∀ d ∈ b, d.st.wf = true) →
      ∀ d ∈ (if p then a else b), d.st.wf = true := fun ha hb => by split <;> assumption
  have one : ∀ {a : Core}, a.st.wf = true → ∀ d ∈ some a, d.st.wf = true := fun ha d hd => by cases hd; exact ha
  have all : ∀ d ∈ k.putSpecial n x, d.st.wf = true := by
    unfold Core.putSpecial
    dsimp only
    refine ite (one (Storage.rest_wf h)) (ite (one (Storage.rest_wf h)) (ite (one h) (ite (one h) ?_)))
    refine ite (one h) (ite (one h) (ite (one h) (ite (one h) (ite (one h) (ite (one h) (ite (one h) (ite (one h) (ite (one h) ?_))))))))
    exact fun d hd => by cases hd
  exact all c e

theorem State.emuDone_wf {s : State} (h : s.wf = true) {k : Fin 768} {n : Nat} : (s.emuDone k n).wf = true := by
  unfold State.emuDone
  dsimp only
  split
  · exact h
  · refine State.wf_ite (State.onCore_wf h k _ ?_) (State.wf_ite (State.deliver_wf (State.onCore_wf h k _ ?_) ..) h)
    · exact Core.postOwn_wf (Core.popTokens_wf (State.core_wf h k) ..)
    · exact Storage.unreserve_wf (State.core_wf h k)

theorem State.writeLqcfg_wf {s : State} (h : s.wf = true) {q : Nat} {x : Word} : (s.writeLqcfg q x).wf = true :=
  State.wf_ite h (State.setDev_wf h ..)

theorem State.writeCtxs_wf {s : State} (h : s.wf = true) {i : Nat} {x : Word} : (s.writeCtxs i x).wf = true := by
  unfold State.writeCtxs
  exact State.wf_ite h (State.wf_ite (State.plat_wf (State.setDev_wf h ..)) (State.setDev_wf h ..))

theorem State.readmit_wf {s : State} (h : s.wf = true) {k : Fin 768} : (s.readmit k).wf = true := State.onDie_wf (State.onCore_rest_wf h)

theorem State.writeCfence_wf {s : State} (h : s.wf = true) {n : Nat} {x : Word} : (s.writeCfence n x).wf = true := by
  refine State.foldl_wf h ?_
  exact fun _ _ ht => State.wf_ite (State.readmit_wf (State.setDev_wf ht ..)) ht

theorem State.writeIftctl_wf {s : State} (h : s.wf = true) {x : Word} : (s.writeIftctl x).wf = true :=
  State.wf_ite (State.plat_wf (State.setDev_wf h ..)) (State.setDev_wf h ..)

theorem State.writeHxw_wf {s : State} (h : s.wf = true) {n : Nat} {x : Word} : (s.writeHxw n x).wf = true := by
  unfold State.writeHxw
  dsimp only
  split
  · exact State.setDev_wf h ..
  · exact State.wf_ite h (State.setDev_wf h ..)

theorem State.killPlaced_wf {s : State} (h : s.wf = true) {v : Saved} {c : Word} : (s.killPlaced v c).wf = true :=
  State.mapCores_wf h fun _ => Core.ite_st (Core.terminate_st ..) rfl

theorem State.writeTresume_wf {s : State} (h : s.wf = true) {x : Word} : (s.writeTresume x).wf = true := by
  unfold State.writeTresume
  dsimp only
  split
  · exact h
  · refine State.wf_ite (State.wf_ite (State.killPlaced_wf (State.draw_wf h)) (State.dropSaved_wf (State.draw_wf h))) (State.mapSaved_wf h ?_)
    exact fun u => by split <;> rfl

theorem State.killLaunch_wf {s : State} (h : s.wf = true) {l : BitVec 16} : (s.killLaunch l).wf = true := State.endLaunch_wf h

theorem State.writeLctl_wf {s : State} (h : s.wf = true) {x : Word} : (s.writeLctl x).wf = true := by
  refine State.wf_ite h (State.wf_ite (State.mapCores_wf h ?_) (State.wf_ite (State.killLaunch_wf h) h))
  exact fun _ => Core.ite_st (Core.requestSave_st ..) rfl

theorem State.writeCeloc_wf {s : State} (h : s.wf = true) {d : Fin 8} {n : Nat} {x : Word} : (s.writeCeloc d n x).wf = true :=
  State.wf_ite (State.onDie_wf h) h

theorem State.putDevice_wf {s : State} (h : s.wf = true) {k : Fin 768} {n : Nat} {x : Word} : (s.putDevice k n x).wf = true := by
  have dev : ∀ {m y}, (s.setDev m y).wf = true := State.setDev_wf h _ _
  unfold State.putDevice
  dsimp only
  -- traps, launch queues, lattice, fences and tests
  refine State.wf_ite (State.emuDone_wf h) (State.wf_ite dev (State.wf_ite dev (State.wf_ite (State.wf_ite (State.writeLqcfg_wf h) dev)
    (State.wf_ite dev (State.wf_ite (State.writeSchedule_wf h) (State.wf_ite (State.writeCfence_wf h) (State.wf_ite (State.writeIftctl_wf h) ?_)))))))
  -- error locations, contexts, shootdowns, saved tasks and launches
  refine State.wf_ite (State.writeCeloc_wf h) (State.wf_ite (State.onDie_wf h) (State.wf_ite (State.writeCtxs_wf h)
    (State.wf_ite (State.shootRequest_wf h) (State.wf_ite dev (State.wf_ite (State.writeTresume_wf h) (State.wf_ite (State.wf_ite dev h)
    (State.wf_ite (State.wf_ite dev h) (State.wf_ite (State.writeLctl_wf h) ?_))))))))
  -- links
  refine State.wf_ite (State.wf_ite (State.writeLkctl_wf h) (State.wf_ite dev (State.wf_ite (State.onLink_wf h) h))) ?_
  -- the outside
  refine State.wf_ite dev (State.wf_ite (State.writeHxw_wf h) (State.wf_ite dev (State.wf_ite dev (State.wf_ite dev (State.wf_ite dev
    (State.wf_ite (State.wf_ite (State.plat_wf h) h) (State.wf_ite (State.wf_ite dev h) (State.wf_ite (State.wf_ite h dev) (State.wf_ite dev ?_)))))))))
  -- clocks and power
  exact State.wf_ite (State.wf_ite (State.onIsland_wf h) h) (State.wf_ite dev (State.wf_ite (State.writeIstate_wf h)
    (State.wf_ite (State.writeDiepwr_wf h) (State.wf_ite dev h))))

theorem State.writeReg_keeps {s : State} (h : s.wf = true) {n : Nat} {x : Word} : (s.writeReg n x).Keeps := by
  unfold State.writeReg
  split
  · exact Res.keeps_ok (State.onCl_wf h _)
  · split
    · next k e => exact Res.keeps_ok (State.onMe_wf h _ (Core.putSpecial_wf (State.core_wf h _) e))
    · exact Res.keeps_ok (State.putDevice_wf h)

theorem State.regTo_keeps {s : State} (h : s.wf = true) {d : Reg} {n : Nat} : Keeps (s.regTo d n) :=
  keeps_ite (keeps_stall h) (keeps_setG (State.readReg_wf h) _ _)

theorem State.regFrom_keeps {s : State} (h : s.wf = true) {n : Nat} {x : Word} : Keeps (s.regFrom n x) := by
  refine keeps_ite (keeps_stall h) (keeps_ite ?_ (Res.keeps_out h (State.writeReg_keeps h) fun _ _ ht => keeps_next ht))
  have loaded := State.loadTable_wf h (die := dieOf s.cur.core) (a := x)
  split
  · next t e => rw [e] at loaded; exact keeps_next loaded
  · next t c d y e => rw [e] at loaded; exact keeps_faultAt loaded _ _ _

theorem execMfs_keeps {s : State} (h : s.wf = true) {d : Reg} {n : BitVec 12} : Keeps (execMfs d n s) := by
  unfold execMfs
  split
  · exact keeps_fault h _ _
  · exact State.regTo_keeps h

theorem execMts_keeps {s : State} (h : s.wf = true) {n : BitVec 12} {g : Reg} : Keeps (execMts n g s) := by
  unfold execMts
  split
  · exact keeps_fault h _ _
  · exact State.regFrom_keeps h

theorem execTshape_keeps {s : State} (h : s.wf = true) {t : TReg} {ty : BitVec 4} {c : BitVec 7} {r : BitVec 6} : Keeps (execTshape t ty c r s) := by
  have hme := State.core_wf h s.cur.core
  refine keeps_ite (keeps_stallHeld h) (keeps_next (State.onSt_wf h _ ?_))
  exact Storage.rest_wf (Storage.setTile_wf hme t (clipTile_wf (((Storage.wf_iff _).mp hme).2.2.2.2 t) _))

/-! Branches, calls and loops. -/

theorem State.goTo_wf {s : State} (h : s.wf = true) {a : Word} {r : Bool} : (s.goTo a r).wf = true := State.report_wf (State.onCl_wf h _)

theorem keeps_fetchFault {s : State} (h : s.wf = true) {e : FetchError} : Keeps (s.fetchFault e) := keeps_faultAt h _ _ _

theorem State.branch_wf {s : State} (h : s.wf = true) {w : BitVec 4} {d : Int} : (s.branch w d).wf = true := by
  unfold State.branch
  split
  · exact State.goTo_wf h
  · exact State.report_wf (State.onCl_wf h _)

theorem execB_keeps {s : State} (h : s.wf = true) {p : Pred} {e : BitVec 1} {w : BitVec 4} {d : BitVec 16} : Keeps (execB p e w d s) :=
  keeps_next (State.wf_ite (State.branch_wf h) h)

theorem execCall_keeps {s : State} (h : s.wf = true) {p : Pred} {e : BitVec 1} {w : BitVec 4} {d : BitVec 16} : Keeps (execCall p e w d s) := by
  refine keeps_ite (keeps_next h) ?_
  split
  · exact keeps_fetchFault h
  · exact keeps_next (State.branch_wf (State.setG_wf h ..))

theorem execJmpr_keeps {s : State} (h : s.wf = true) {a : Reg} : Keeps (execJmpr a s) :=
  keeps_ite (keeps_next (State.goTo_wf h)) (keeps_faultAt h _ _ _)

theorem execCallr_keeps {s : State} (h : s.wf = true) {d a : Reg} : Keeps (execCallr d a s) := by
  refine keeps_ite (keeps_faultAt h _ _ _) ?_
  split
  · exact keeps_fetchFault h
  · exact keeps_next (State.goTo_wf (State.setG_wf h ..))

theorem execLoop_keeps {s : State} (h : s.wf = true) {l : BitVec 2} {c : Reg} {w : BitVec 4} {d : BitVec 13} : Keeps (execLoop l c w d s) := by
  refine keeps_ite (keeps_fault h _ _) ?_
  split
  · exact keeps_faultAt h _ _ _
  · refine keeps_ite ?_ ?_
    · split
      · exact keeps_fetchFault h
      · exact keeps_next (State.onCl_wf h _)
    · split
      · exact keeps_fetchFault h
      · exact keeps_next (State.onCl_wf h _)

/-! System instructions. -/

theorem Core.beginExit_st (k : Core) (i : Bool) : (k.beginExit i).st = k.st := by
  unfold Core.beginExit
  split <;> rfl

theorem execTrap_keeps {s : State} (h : s.wf = true) {c : BitVec 10} : Keeps (execTrap c s) :=
  keeps_report (State.deliver_wf (State.onCl_wf h _) ..) _

theorem Core.resumeChans_st (k : Core) : k.resumeChans.st = k.st := rfl

theorem execSret_keeps {s : State} (h : s.wf = true) : Keeps (execSret s) := by
  have left : ∀ {t : State}, t.wf = true → (if t.me.allEnded then t.onMe fun k => k.beginExit true else t : State).wf = true := fun ht =>
    State.wf_ite (State.onMe_wf_of_st ht fun k => Core.beginExit_st k true) ht
  have ht := left (State.onCl_wf h fun u => u.leave)
  refine keeps_ite (keeps_fault h _ _) (keeps_ite (keeps_fault h _ _) (keeps_report (State.wf_ite ?_ ht) _))
  exact State.onMe_wf_of_st ht Core.resumeChans_st

theorem execIdle_keeps {s : State} (h : s.wf = true) : Keeps (execIdle s) :=
  keeps_ite (keeps_fault h _ _) (keeps_ite (keeps_next (State.onCl_wf h _)) (keeps_next (State.onCl_wf h _)))

end Sys2Proof.Machine
end

section
/-! Every memory stays canonical: loads and stores, ranges, atomics, lattice instructions, tokens, strands, clasps and launches. -/

namespace Sys2Proof.Machine

/-! Loads and stores. -/

theorem keeps_loaded {s : State} (h : s.wf = true) {scope : Nat} {d : Reg} {x : Word} : Keeps (.next ((s.acquire scope).setG d x)) :=
  keeps_setG (State.acquire_wf h _) _ _

theorem State.windowTo_keeps {s : State} (h : s.wf = true) {d : Reg} {a : Word} {off n : Nat} {sg : Bool} {scope : Nat} :
    Keeps (s.windowTo d a off n sg scope) := by
  unfold State.windowTo
  split
  · exact keeps_ite (keeps_faultAt h _ _ _) (State.regTo_keeps (State.acquire_wf h _))
  · refine keeps_ite (keeps_faultAt h _ _ _) (keeps_ite (keeps_faultAt h _ _ _) ?_)
    split
    · next x t e =>
      have ht : t.wf = true := State.windowLoad_keeps h _ e
      exact keeps_loaded ht
    · exact keeps_faultAt h _ _ _

theorem State.windowFrom_keeps {s : State} (h : s.wf = true) {a : Word} {off n : Nat} {x : Word} : Keeps (s.windowFrom a off n x) := by
  unfold State.windowFrom
  split
  · exact keeps_ite (keeps_faultAt h _ _ _) (State.regFrom_keeps h)
  · refine keeps_ite (keeps_faultAt h _ _ _) ?_
    split
    · next t e => exact keeps_next (State.windowStore_keeps h t e)
    · exact keeps_faultAt h _ _ _

theorem State.loadTo_keeps {s : State} (h : s.wf = true) {d : Reg} {a : Word} {n : Nat} {sg : Bool} {scope : Nat} :
    Keeps (s.loadTo d a n sg scope) := by
  refine Res.keeps_out h (State.target_keeps h) fun t u hu => ?_
  split
  · exact State.windowTo_keeps hu
  · exact Res.keeps_outAt hu (State.loadAt_keeps hu) fun _ _ hv => keeps_loaded hv

theorem State.storeFrom_keeps {s : State} (h : s.wf = true) {a : Word} {n : Nat} {x : Word} : Keeps (s.storeFrom a n x) := by
  refine Res.keeps_out h (State.target_keeps h) fun t u hu => ?_
  split
  · exact State.windowFrom_keeps hu
  · exact Res.keeps_outAt hu (State.storeAt_keeps hu) fun _ _ hv => keeps_next hv

theorem State.fenceForms_wf {s : State} (h : s.wf = true) : s.fenceForms.wf = true := State.onCl_wf h _

theorem execFence_keeps {s : State} (h : s.wf = true) {scope : BitVec 2} : Keeps (execFence scope s) :=
  keeps_next (State.fenceForms_wf (State.acquire_wf h _))

/-! Ranges. -/

theorem State.overRange_keeps {s : State} (h : s.wf = true) {a l : Word} {al : Nat} {w : Bool} {f : List RangePage → State}
    (hf : ∀ ps, (f ps).wf = true) : Keeps (s.overRange a l al w f) := by
  refine keeps_ite (keeps_next h) ?_
  split
  · exact keeps_faultAt h _ _ _
  · exact keeps_ite (keeps_stall h) (keeps_next (hf _))

theorem MemSys.clean_wf {m : MemSys} (h : m.Wf) (d : DieLine) : (m.clean d).Wf := MemSys.writeBack_wf h d

theorem execWbr_keeps {s : State} (h : s.wf = true) {a b : Reg} : Keeps (execWbr a b s) := by
  refine State.overRange_keeps h fun ps => State.ms_wf h (MemSys.foldl_wf (State.wf_ms h) ?_)
  exact fun _ d hm => MemSys.clean_wf hm d

theorem execInvr_keeps {s : State} (h : s.wf = true) {a b : Reg} : Keeps (execInvr a b s) := by
  refine State.overRange_keeps h fun ps => State.ms_wf (State.onMe_rest_wf h) (MemSys.foldl_wf (State.wf_ms h) ?_)
  exact fun _ d hm => MemSys.dropLine_wf (MemSys.writeBack_wf hm d) ..

theorem execDiscard_keeps {s : State} (h : s.wf = true) {a b : Reg} : Keeps (execDiscard a b s) := by
  refine State.overRange_keeps h fun ps => State.ms_wf (State.l1DropAll_wf h) (MemSys.foldl_wf (State.wf_ms h) ?_)
  exact fun _ _ hm => MemSys.setDead_wf (MemSys.dropFrame_wf hm _) ..

theorem State.atomic_keeps {s : State} (h : s.wf = true) {op : AOp} {d a b : Reg} {n : Nat} {order scope : BitVec 2} :
    Keeps (s.atomic op d a b n order scope) :=
  Res.keeps_out h (State.target_keeps h) fun _ _ hu => Res.keeps_out hu (State.atomicAt_keeps hu) fun _ _ hv =>
    keeps_setG (State.wf_ite (State.acquire_wf hv _) hv) _ _

/-! Lattice instructions. -/

theorem State.latTarget_keeps {s : State} (h : s.wf = true) {a : Word} : (s.latTarget a).Keeps := Res.keeps_of_stays h (State.latTarget_stays s a)

theorem State.lattice_keeps {s : State} (h : s.wf = true) {a : Word} {j : Bool} {f : RegionTable → Region → State → Out}
    (hf : ∀ {t r} {u : State}, u.wf = true → Keeps (f t r u)) : Keeps (s.lattice a j f) := by
  refine keeps_ite (keeps_faultAt h _ _ _) (Res.keeps_out h (State.latTarget_keeps h) fun t u hu => ?_)
  split
  · exact keeps_ite (keeps_faultAt hu _ _ _) (keeps_ite (keeps_faultAt hu _ _ _) (keeps_ite (keeps_stall hu)
      (keeps_ite (keeps_faultAt hu _ _ _) (hf hu))))
  · exact keeps_faultAt hu _ _ _

theorem execJoin_keeps {s : State} (h : s.wf = true) {a b : Reg} : Keeps (execJoin a b s) :=
  State.lattice_keeps h fun hu => keeps_next (State.joinReleases_wf (State.latJoin_wf hu))

theorem execJoina_keeps {s : State} (h : s.wf = true) {a b : Reg} : Keeps (execJoina a b s) :=
  State.lattice_keeps h fun hu => keeps_ite (keeps_next (State.joinReleases_wf (State.latJoin_wf hu))) (keeps_fault hu _ _)

theorem execLdlat_keeps {s : State} (h : s.wf = true) {d a : Reg} : Keeps (execLdlat d a s) :=
  State.lattice_keeps h fun hu => keeps_loaded (State.latSeen_wf hu)

theorem keeps_stallTimed {s : State} (h : s.wf = true) {t : Word} : Keeps (s.stallTimed t) := keeps_report (State.onCl_wf (State.undo_wf h) _) _

theorem State.endWait_wf {s : State} (h : s.wf = true) : s.endWait.wf = true := State.onCl_wf h _

theorem execLdge_keeps {s : State} (h : s.wf = true) {d a b : Reg} : Keeps (execLdge d a b s) :=
  State.lattice_keeps h fun hu =>
    keeps_ite (keeps_setG (State.endWait_wf (State.acquire_wf (State.latSeen_wf hu) _)) _ _) (keeps_stallTimed hu)

/-! Tokens and short queues. -/

theorem execTkwait_keeps {s : State} (h : s.wf = true) {set : BitVec 3} : Keeps (execTkwait set s) :=
  keeps_ite (keeps_next (State.onMe_wf h _ (Core.popTokens_wf (State.core_wf h _) _ _ _))) (keeps_stall h)

theorem execTkpost_keeps {s : State} (h : s.wf = true) {set : BitVec 3} : Keeps (execTkpost set s) :=
  keeps_ite (keeps_next (State.onMe_wf h _ (Core.pushTokens_wf (State.core_wf h _)))) (keeps_stall h)

theorem State.setShortQueue_wf {s : State} (h : s.wf = true) {q : BitVec 3} {l : List Word} : (s.onSt fun t => t.setShortQueue q l).wf = true :=
  have hm := State.core_wf h s.cur.core
  State.onSt_wf h _ (Storage.wf_ite (Storage.rest_wf hm) (Storage.rest_wf hm))

theorem execQpush_keeps {s : State} (h : s.wf = true) {q : BitVec 3} {a : Reg} : Keeps (execQpush q a s) :=
  keeps_ite (keeps_stall h) (keeps_next (State.onCheck_wf (State.setShortQueue_wf h)))

theorem execQpop_keeps {s : State} (h : s.wf = true) {d : Reg} {q : BitVec 3} : Keeps (execQpop d q s) := by
  unfold execQpop
  split
  · exact keeps_stall h
  · exact keeps_ite (keeps_stall h) (keeps_setG (State.onCheck_wf (State.setShortQueue_wf h)) _ _)

/-! Strands. -/

theorem State.setStrand_wf {s : State} (h : s.wf = true) {k : Fin 768} {st : BitVec 4} {x : Strand} : (s.setStrand k st x).wf = true :=
  State.onCore_wf h k _ (Storage.rest_wf (State.core_wf h k))

theorem State.atStrand_keeps {s : State} (h : s.wf = true) {st : BitVec 4} {p : Bool} {f : Word → Fin 768 → Option Nat → Out}
    (hf : ∀ e k q, Keeps (f e k q)) : Keeps (s.atStrand st p f) :=
  keeps_ite (keeps_fault h _ _) (keeps_ite (keeps_ite (hf _ _ _) (keeps_faultAt h _ _ _)) (hf _ _ _))

theorem State.setCarried_wf {s : State} (h : s.wf = true) {k : Fin 768} {o : Nat} {l : List Clock} : (s.setCarried k o l).wf = true :=
  State.onCore_wf_of_st h fun _ => Core.onCheck_st ..

theorem State.acquireClock_wf {s : State} (h : s.wf = true) {c : Clock} : (s.acquireClock c).wf = true := State.onCheck_wf h
theorem State.released_wf {s : State} (h : s.wf = true) : s.released.wf = true := State.onCheck_wf h

theorem State.takeClock_wf {s : State} (h : s.wf = true) {k : Fin 768} {o : Nat} : (s.takeClock k o).wf = true := by
  unfold State.takeClock
  split
  · exact h
  · exact State.acquireClock_wf (State.setCarried_wf h)

theorem execSclaim_keeps {s : State} (h : s.wf = true) {st : BitVec 4} {d : Reg} : Keeps (execSclaim st d s) :=
  State.atStrand_keeps h fun _ _ _ =>
    keeps_ite (keeps_stall h) (keeps_setG (State.setStrand_wf (State.acquire_wf (State.wf_ite (State.takeClock_wf h) h) _)) _ _)

theorem execSfill_keeps {s : State} (h : s.wf = true) {st : BitVec 4} {a : Reg} : Keeps (execSfill st a s) :=
  State.atStrand_keeps h fun _ _ _ => keeps_ite (keeps_fault h _ _) (keeps_next (State.released_wf (State.setStrand_wf (State.setCarried_wf h))))

theorem execSwfill_keeps {s : State} (h : s.wf = true) {st : BitVec 4} {d : Reg} : Keeps (execSwfill st d s) :=
  State.atStrand_keeps h fun _ _ _ =>
    keeps_ite (keeps_stall h) (keeps_setG (State.setStrand_wf (State.acquire_wf (State.takeClock_wf h) _)) _ _)

theorem execSrel_keeps {s : State} (h : s.wf = true) {st : BitVec 4} {a : Reg} : Keeps (execSrel st a s) :=
  State.atStrand_keeps h fun _ _ _ =>
    keeps_ite (keeps_fault h _ _) (keeps_next (State.released_wf (State.setStrand_wf (State.setCarried_wf (State.setCarried_wf h)))))

theorem execSwfree_keeps {s : State} (h : s.wf = true) {st : BitVec 4} {a : Reg} : Keeps (execSwfree st a s) := by
  refine State.atStrand_keeps h fun _ _ _ => keeps_ite (keeps_fault h _ _) (keeps_ite (keeps_stall h) (keeps_next (State.acquire_wf ?_ _)))
  exact State.foldl_wf h fun _ _ ht => State.acquireClock_wf ht

/-! Clasps. -/

theorem State.onQuad_wf {s : State} (h : s.wf = true) {u : Fin 192} {f : Quad → Quad} : (s.onQuad u f).wf = true := State.quads_wf h

theorem State.setClasp_wf {s : State} (h : s.wf = true) {i : Fin 256} {c : Clasp} : (s.setClasp i c).wf = true := by
  refine State.wf_ite (State.foldl_wf (State.onQuad_wf h) ?_) (State.onQuad_wf h)
  exact fun _ _ ht => State.onCore_rest_wf ht

theorem State.atClasp_keeps {s : State} (h : s.wf = true) {a : Reg} {r : BitVec 1} {f : Fin 256 → Out} (hf : ∀ i, Keeps (f i)) :
    Keeps (s.atClasp a r f) := by
  unfold State.atClasp
  split
  · exact keeps_fault h _ _
  · exact hf _

theorem execClinit_keeps {s : State} (h : s.wf = true) {a : Reg} {r : BitVec 1} : Keeps (execClinit a r s) :=
  State.atClasp_keeps h fun _ => keeps_next (State.onQuad_wf (State.setClasp_wf h))

theorem execClexpect_keeps {s : State} (h : s.wf = true) {a b : Reg} {r : BitVec 1} : Keeps (execClexpect a b r s) :=
  State.atClasp_keeps h fun _ => keeps_next (State.setClasp_wf h)

theorem execClarrive_keeps {s : State} (h : s.wf = true) {a b : Reg} {r : BitVec 1} : Keeps (execClarrive a b r s) :=
  State.atClasp_keeps h fun _ =>
    keeps_next (State.wf_ite (State.onQuad_wf (State.released_wf (State.setClasp_wf h))) (State.released_wf (State.setClasp_wf h)))

theorem State.waitClasp_wf {s : State} (h : s.wf = true) {i : Fin 256} : (s.waitClasp i).wf = true := State.onCl_wf h _

theorem execClwait_keeps {s : State} (h : s.wf = true) {a : Reg} {r : BitVec 1} : Keeps (execClwait a r s) := by
  refine State.atClasp_keeps h fun i => keeps_ite (keeps_next (State.acquire_wf (State.acquireClock_wf (State.endWait_wf h)) _)) ?_
  split
  · next t e => exact keeps_next (State.waitClasp_wf (keeps_stallTimed h t e))
  · exact keeps_stallTimed h

theorem execClbase_keeps {s : State} (h : s.wf = true) {a : Reg} : Keeps (execClbase a s) :=
  keeps_ite (keeps_ite (keeps_fault h _ _) (keeps_next (State.onCl_wf h _))) (keeps_ite (keeps_next (State.onCl_wf h _)) (keeps_fault h _ _))

/-! Publishing, launches, power and the end of a task. -/

theorem execPubl_keeps {s : State} (h : s.wf = true) : Keeps (execPubl s) := by
  refine keeps_ite (keeps_next (State.fenceForms_wf (State.acquire_wf h _))) (keeps_ite (keeps_stall h) (keeps_next ?_))
  exact State.host_wf (State.setDev_wf h ..) (Memory.writeLe_wf (State.wf_ms h).2.1 ..)

theorem execLaunch_keeps {s : State} (h : s.wf = true) {d a : Reg} : Keeps (execLaunch d a s) := by
  refine keeps_ite (keeps_faultAt h _ _ _) (keeps_ite (keeps_faultAt h _ _ _) (keeps_ite (keeps_faultAt h _ _ _) ?_))
  split
  · exact keeps_faultAt h _ _ _
  · exact keeps_faultAt h _ _ _
  · exact keeps_setG (State.accept_wf h) _ _

theorem execPwracq_keeps {s : State} (h : s.wf = true) {l : BitVec 8} : Keeps (execPwracq l s) :=
  keeps_ite (keeps_next (State.onRg_wf h _)) (keeps_ite (keeps_next (State.onRg_wf (State.withdraw_wf h) _))
    (keeps_report (State.requestPower_wf (State.undo_wf h)) _))

theorem execExit_keeps {s : State} (h : s.wf = true) : Keeps (execExit s) :=
  keeps_report (State.onMe_wf_of_st h fun k => by rw [Core.beginExit_st, Core.onClu_st]) _

theorem execEnd_keeps {s : State} (h : s.wf = true) : Keeps (execEnd s) := by
  refine keeps_next (State.wf_ite (State.onMe_wf_of_st (State.onCl_wf h _) ?_) (State.onCl_wf h _))
  exact fun k => Core.beginExit_st k true

end Sys2Proof.Machine
end

section
/-! Every memory stays canonical: the issue of channel commands. -/

namespace Sys2Proof.Machine

theorem State.enterChan_wf {s : State} (h : s.wf = true) {l : Long} {ch : Fin 8} {c : ChCmd} : (s.enterChan l ch c).wf = true :=
  State.onMe_rest_wf (State.onCheck_wf (State.reserveSets_wf h))

/-- A command enters its channel whatever its check has looked at; a check that fails stops it. -/
theorem State.issueChan_keeps {s : State} (h : s.wf = true) {l : Long} {ch : BitVec 3} {check : Res Unit} {c : ChCmd} :
    Keeps (s.issueChan l ch check c) := by
  refine keeps_guarded h l fun u hu => keeps_ite (keeps_stall h) ?_
  cases check with
  | ok _ _ => exact keeps_next (State.enterChan_wf hu)
  | wait => exact keeps_stall h
  | trap c d a => exact keeps_faultAt h _ _ _

theorem execCopymc_keeps {s : State} (h : s.wf = true) {l : Long} {ch : BitVec 3} {a b c : Reg} {m : BitVec 4} : Keeps (execCopymc l ch a b c m s) := by
  unfold execCopymc
  dsimp only
  split <;> exact State.issueChan_keeps h

theorem State.recBytes_keeps {s : State} (h : s.wf = true) {a : Word} : (s.recBytes a).Keeps := by
  refine Res.keeps_ite (Res.keeps_ite (Res.keeps_ite Res.keeps_trap ?_) Res.keeps_trap) (Res.keeps_ite (Res.keeps_ite Res.keeps_trap ?_) Res.keeps_trap)
  · exact Res.keeps_bind (State.bufRead_keeps h) fun _ _ ht => Res.keeps_ok ht
  · split
    · exact Res.keeps_trap
    · refine Res.keeps_ite Res.keeps_trap (Res.keeps_ite ?_ (Res.keeps_ok h))
      exact Res.keeps_bind (State.lineLoad_keeps h) fun _ _ ht => Res.keeps_ok ht
    · exact Res.keeps_trap

theorem execTdesc_keeps {s : State} (h : s.wf = true) {l : Long} {st : BitVec 4} {a b : Reg} : Keeps (execTdesc l st a b s) := by
  refine keeps_guarded h l fun u hu => Res.keeps_outAt h (State.recBytes_keeps hu) fun bs t ht => ?_
  dsimp only
  split
  · exact keeps_faultAt h _ _ _
  · exact keeps_next (State.finishSets_wf (State.onEn_wf ht _))

theorem execSeqcfg_keeps {s : State} (h : s.wf = true) {l : Long} {lv : BitVec 3} {a b c : Reg} : Keeps (execSeqcfg l lv a b c s) :=
  keeps_guarded h l fun _ hu => keeps_next (State.finishSets_wf (State.onEn_wf hu _))

theorem State.popElem_wf {s : State} (h : s.wf = true) {ch : Fin 8} : (s.popElem ch).wf = true := State.onCheck_wf (State.onMe_rest_wf h)

theorem State.addForm_wf {s : State} (h : s.wf = true) {l : Long} {i : Instr} {a m : Word} {d : Line} : (s.addForm l i a m d).wf = true :=
  State.onEn_wf (State.reserveSets_wf h) _

theorem execChwait_keeps {s : State} (h : s.wf = true) {l : Long} {ch : BitVec 3} : Keeps (execChwait l ch s) :=
  keeps_guarded h l fun _ hu => keeps_ite (keeps_next (State.finishSets_wf (State.popElem_wf hu))) (keeps_ite (keeps_fault h _ _)
    (keeps_ite (keeps_stall h) (keeps_next (State.addForm_wf hu))))

theorem State.nameStage_wf {s : State} (h : s.wf = true) {ch : Fin 8} {o q : Nat} : (s.nameStage ch o q).wf = true :=
  State.onCheck_wf (State.onMe_rest_wf h)

theorem State.acquireRun_wf {s : State} (h : s.wf = true) {o q : Nat} : (s.acquireRun o q).wf = true := State.onCheck_wf h

theorem execChwaitStage_keeps {s : State} (h : s.wf = true) {l : Long} {ch : BitVec 3} {a : Reg} : Keeps (execChwaitStage l ch a s) := by
  refine keeps_guarded h l fun u hu => ?_
  dsimp only
  split
  · exact keeps_fault h _ _
  · exact keeps_ite (keeps_fault h _ _) (keeps_ite (keeps_next (State.finishSets_wf (State.acquireRun_wf (State.nameStage_wf hu))))
      (keeps_ite (keeps_stall h) (keeps_next (State.addForm_wf (State.nameStage_wf hu)))))

end Sys2Proof.Machine
end

section
/-! Every memory stays canonical: the copy engine's units, what they read and write, and the sequencer's emissions. -/

namespace Sys2Proof.Machine

/-- A fold over results whose every step keeps the canonical form. -/
theorem Res.foldl_keeps {α β : Type} {f : Res α → β → Res α} {l : List β} {r : Res α} (hr : r.Keeps)
    (hf : ∀ r b, r.Keeps → (f r b).Keeps) : (l.foldl f r).Keeps := by
  induction l generalizing r with
  | nil => exact hr
  | cons b l ih => exact ih (hf _ b hr)

theorem State.onSt_wf_of_wf {s : State} (h : s.wf = true) {f : Storage → Storage} (hf : ∀ t, t.wf = true → (f t).wf = true) :
    (s.onSt f).wf = true := State.onSt_wf h f (hf _ (State.core_wf h _))

/-! Reads of a command. -/

theorem State.gateAs_keeps {s : State} (h : s.wf = true) {c : ChCmd} {ag time : Nat} {k : Fin 768} {b : Fin 4} {off n : Nat} {w : Bool}
    {a : Word} : (s.gateAs c ag time k b off n w a).Keeps := by
  refine Res.keeps_ite Res.keeps_wait (Res.keeps_ite Res.keeps_trap (Res.keeps_ok (State.onCore_wf_of_st ?_ ?_)))
  · refine State.wf_ite (State.onMe_wf_of_st (State.onCheck_wf h) ?_) (State.onCheck_wf h)
    exact fun _ => Core.count_st ..
  · exact fun _ => Core.noteAccess_st ..

theorem State.chanGate_keeps {s : State} (h : s.wf = true) {c : ChCmd} {k : Fin 768} {b : Fin 4} {off n : Nat} {w : Bool} {a : Word} :
    (s.chanGate c k b off n w a).Keeps := State.gateAs_keeps h

theorem State.copyLine_keeps {s : State} (h : s.wf = true) {p : Phys} {path : Nat} {m : Word} : (s.copyLine p path m).Keeps := by
  refine Res.keeps_ite (State.lineLoad_keeps h) (Res.keeps_ite (Res.keeps_ok h) (Res.keeps_ite Res.keeps_wait (Res.keeps_ite Res.keeps_trap ?_)))
  have hc := State.countHome_wf h (p := p) (c := true) (m := m)
  exact Res.keeps_ok (State.ms_wf hc (MemSys.copyLoad_wf (State.wf_ms hc) ..))

theorem State.copyLines_keeps (slot : Nat) (base : Word) (ps : List (Nat × Nat × Nat)) :
    ∀ {s : State}, s.wf = true → (s.copyLines slot base ps).Keeps := by
  induction ps with
  | nil => exact fun h => Res.keeps_ok h
  | cons p ps ih =>
    intro s h
    unfold State.copyLines
    dsimp only
    split
    · exact Res.keeps_trap
    · exact Res.keeps_bind (State.copyLine_keeps h) fun _ _ ht => Res.keeps_bind (ih ht) fun _ _ hu => Res.keeps_ok hu

theorem State.copyLattice_keeps {s : State} (h : s.wf = true) (f : Nat) : ∀ {a : Word} {n : Nat}, (s.copyLattice a n f).Keeps := by
  induction f with
  | zero => exact Res.keeps_ok h
  | succ f ih =>
    intro a n
    unfold State.copyLattice
    refine Res.keeps_ite (Res.keeps_ok h) ?_
    split
    · exact Res.keeps_trap
    · refine Res.keeps_ite Res.keeps_trap (Res.keeps_ite Res.keeps_wait (Res.keeps_ite Res.keeps_trap ?_))
      exact Res.keeps_bind ih fun _ _ hu => Res.keeps_ok hu

theorem State.chanRead_keeps {s : State} (h : s.wf = true) {c : ChCmd} {a : Word} {n : Nat} : (s.chanRead c a n).Keeps := by
  refine Res.keeps_ite (Res.keeps_ite Res.keeps_trap (State.copyLines_keeps _ _ _ h)) (Res.keeps_ite (State.copyLattice_keeps h _) ?_)
  refine Res.keeps_ite (Res.keeps_ite Res.keeps_trap (Res.keeps_ite Res.keeps_wait (Res.keeps_ok h))) ?_
  refine Res.keeps_ite (Res.keeps_ite Res.keeps_trap (Res.keeps_ite Res.keeps_wait (Res.keeps_ok h))) ?_
  split
  · exact Res.keeps_trap
  · exact Res.keeps_bind (State.chanGate_keeps h) fun _ _ ht => Res.keeps_ite Res.keeps_trap (Res.keeps_ok ht)

/-! Writes of a command. -/

theorem State.putLines_keeps (slot : Nat) (base : Word) (ps : List (Nat × Nat × Nat)) :
    ∀ {s : State}, s.wf = true → ∀ bs, (State.putLines slot base s bs ps).Keeps := by
  induction ps with
  | nil => exact fun h _ => Res.keeps_ok h
  | cons p ps ih =>
    intro s h bs
    unfold State.putLines
    dsimp only
    split
    · exact Res.keeps_trap
    · next q _ =>
      have hc {b m} := State.countHome_wf (State.revived_wf h (p := q)) (p := q) (c := b) (m := m)
      refine Res.keeps_ite Res.keeps_wait (ih (State.onMe_wf_of_st (State.ms_wf hc (ite_wf ?_ (MemSys.copyStore_wf (State.wf_ms hc) ..))) ?_) _)
      · exact MemSys.homeWrite_wf (MemSys.toHome_wf (State.wf_ms hc) ..) ..
      · exact fun k => Core.l1Drop_st k _

theorem State.joinCells_keeps (f : Nat) : ∀ {s : State}, s.wf = true → ∀ {a bs}, (s.joinCells a bs f).Keeps := by
  induction f with
  | zero => exact fun h => Res.keeps_ok h
  | succ f ih =>
    intro s h a bs
    unfold State.joinCells
    refine Res.keeps_ite (Res.keeps_ok h) ?_
    split
    · exact Res.keeps_trap
    · refine Res.keeps_ite Res.keeps_trap (Res.keeps_ite Res.keeps_wait (Res.keeps_ite Res.keeps_trap (ih ?_)))
      exact State.wf_ite (State.wf_ite h (State.latPut_wf h)) (State.latJoin_wf h)

theorem State.chanWrite_keeps {s : State} (h : s.wf = true) {c : ChCmd} {a : Word} {bs : List Byte} : (s.chanWrite c a bs).Keeps := by
  obtain ⟨-, hhost, hpeer⟩ := State.wf_ms h
  refine Res.keeps_ite (Res.keeps_ite Res.keeps_trap (State.putLines_keeps _ _ _ h _)) (Res.keeps_ite (State.joinCells_keeps _ h) ?_)
  refine Res.keeps_ite (Res.keeps_ite Res.keeps_trap (Res.keeps_ite Res.keeps_wait ?_)) ?_
  · exact Res.keeps_ok (State.host_wf h (Memory.writeList_wf bs hhost _))
  refine Res.keeps_ite (Res.keeps_ite Res.keeps_trap (Res.keeps_ite Res.keeps_wait ?_)) ?_
  · exact Res.keeps_ok (State.peer_wf h (Memory.writeList_wf bs hpeer _))
  split
  · exact Res.keeps_trap
  · exact Res.keeps_bind (State.chanGate_keeps h) fun _ _ ht => Res.keeps_ok (State.putBuf_wf ht)

/-! Emissions of a run. -/

theorem State.loadTile_keeps {c : ChCmd} {t x1 : Nat → Int} (n : Nat) : ∀ {s : State}, s.wf = true → ∀ {r}, (s.loadTile c t x1 r n).Keeps := by
  induction n with
  | zero => exact fun h => Res.keeps_ok h
  | succ n ih =>
    intro s h r
    unfold State.loadTile
    dsimp only
    split
    · exact Res.keeps_bind (ih h) fun _ _ hu => Res.keeps_ok hu
    · refine Res.keeps_ite (Res.keeps_bind (State.chanRead_keeps h) fun _ _ _ => Res.keeps_trap) ?_
      exact Res.keeps_bind (State.chanRead_keeps h) fun _ _ hu => Res.keeps_bind (ih hu) fun _ _ hv => Res.keeps_ok hv

theorem State.storeTile_keeps {c : ChCmd} {t x1 : Nat → Int} {b : Word} (n : Nat) :
    ∀ {s : State}, s.wf = true → ∀ {r}, (s.storeTile c t x1 b r n).Keeps := by
  induction n with
  | zero => exact fun h => Res.keeps_ok h
  | succ n ih =>
    intro s h r
    unfold State.storeTile
    dsimp only
    split
    · exact ih h
    · refine Res.keeps_ite Res.keeps_trap ?_
      exact Res.keeps_bind (State.chanRead_keeps h) fun _ _ hu => Res.keeps_bind (ih hu) fun _ _ hv => Res.keeps_ok hv

theorem State.readEmission_keeps {s : State} (h : s.wf = true) {c : ChCmd} {kind : Nat} : (s.readEmission c kind).Keeps := by
  refine Res.keeps_ite Res.keeps_wait (Res.keeps_ite ?_ ?_)
  · exact Res.keeps_bind (State.storeTile_keeps _ h) fun _ _ hu => Res.keeps_ok hu
  · exact Res.keeps_bind (State.loadTile_keeps _ h) fun _ _ hu => Res.keeps_ok hu

/-! Elements of GATHER and SCATTER. -/

theorem State.readElem_keeps {s : State} (h : s.wf = true) {c : ChCmd} {z : Nat} {sc : Bool} {i : Nat} : (s.readElem c z sc i).Keeps := by
  refine Res.keeps_bind (State.chanRead_keeps h) fun x t ht => ?_
  split
  · exact Res.keeps_trap
  · exact Res.keeps_ite Res.keeps_trap (Res.keeps_bind (State.chanRead_keeps ht) fun _ _ hu => Res.keeps_ok hu)

theorem State.readElems_wf {c : ChCmd} {z : Nat} {sc : Bool} (n : Nat) :
    ∀ {s : State}, s.wf = true → ∀ {i}, (s.readElems c z sc i n).2.1.wf = true := by
  induction n with
  | zero => exact fun h => h
  | succ n ih =>
    intro s h i
    have elem := State.readElem_keeps h (c := c) (z := z) (sc := sc) (i := i)
    unfold State.readElems
    split
    · exact h
    · exact h
    · next e t et => exact ih (elem e t et)

theorem State.readGroup_keeps {s : State} (h : s.wf = true) {c : ChCmd} {z : Nat} {sc : Bool} : (s.readGroup c z sc).Keeps := by
  have hr {i n} := State.readElems_wf n h (c := c) (z := z) (sc := sc) (i := i)
  unfold State.readGroup
  dsimp only
  split
  · exact Res.keeps_wait
  · exact Res.keeps_ite Res.keeps_wait (Res.keeps_ok hr)
  · exact Res.keeps_trap
  · exact Res.keeps_ok hr

theorem State.readUnit_keeps {s : State} (h : s.wf = true) {c : ChCmd} : (s.readUnit c).Keeps := by
  unfold State.readUnit
  dsimp only
  split
  · exact State.readGroup_keeps h
  · exact State.readGroup_keeps h
  · exact Res.keeps_bind (State.chanRead_keeps h) fun _ _ hu => Res.keeps_ok hu
  · split
    · exact Res.keeps_wait
    · exact Res.keeps_ok h
  · split
    · exact State.readEmission_keeps h
    · exact Res.keeps_bind (State.chanRead_keeps h) fun _ _ hu => Res.keeps_ok hu

/-! Placing a unit, and the words of a multicast. -/

theorem State.countArrival_wf {s : State} (h : s.wf = true) {i : BitVec 8} {n : Nat} {clk : Clock} : (s.countArrival i n clk).wf = true :=
  State.wf_ite (State.setClasp_wf h) (State.onQuad_wf (State.setClasp_wf h))

theorem State.gateParts_keeps {c : ChCmd} {ag done : Nat} {k : Fin 768} {a : Word} (ps : List (Nat × Nat)) :
    ∀ {s : State}, s.wf = true → (s.gateParts c ag done k a ps).Keeps := by
  induction ps with
  | nil => exact fun h => Res.keeps_ok h
  | cons p ps ih => exact fun h => Res.keeps_bind (State.gateAs_keeps h) fun _ _ ht => ih ht

theorem State.multicast_keeps {s : State} (h : s.wf = true) {c : ChCmd} {m : BitVec 4} {a : Word} {bs : List Byte} :
    (s.multicast c m a bs).Keeps := by
  refine Res.foldl_keeps (Res.keeps_ok h) fun r q hr => Res.keeps_bind hr fun _ t ht => ?_
  refine Res.keeps_ite (Res.keeps_ok ht) (Res.keeps_ite (Res.keeps_ok ht) ?_)
  refine Res.keeps_bind (State.gateParts_keeps _ ht) fun _ u hu => Res.keeps_ite (Res.keeps_ok ?_) (Res.keeps_ok (State.onEn_wf hu _))
  dsimp only
  split
  · exact State.countArrival_wf (State.putBuf_wf hu)
  · exact State.putBuf_wf hu

theorem State.landWord_keeps {s : State} (h : s.wf = true) : OptKeeps id s.landWord := by
  unfold State.landWord
  split
  · exact optKeeps_none _
  · refine optKeeps_ite (optKeeps_some (State.onEn_wf h _)) (optKeeps_some ?_)
    dsimp only
    split
    · exact State.countArrival_wf (State.putBuf_wf (State.onEn_wf h _))
    · exact State.putBuf_wf (State.onEn_wf h _)

/-- A list of writes, one after the other. -/
theorem State.eachWrite_keeps {c : ChCmd} {ws : List (Word × List Byte)} {r : Res Unit} (hr : r.Keeps) :
    (ws.foldl (fun r w => r.bind fun _ t => t.chanWrite c w.1 w.2) r).Keeps :=
  Res.foldl_keeps hr fun _ _ h => Res.keeps_bind h fun _ _ ht => State.chanWrite_keeps ht

theorem State.placeUnit_keeps {s : State} (h : s.wf = true) {c : ChCmd} {ws : List (Word × List Byte)} : (s.placeUnit c ws).Keeps := by
  unfold State.placeUnit
  dsimp only
  split
  · split
    · exact State.multicast_keeps h
    · exact Res.keeps_ok h
  · refine Res.keeps_ite Res.keeps_wait (Res.keeps_ok (State.onCheck_wf (State.onSt_wf h _ ?_)))
    exact Storage.wf_ite (Storage.rest_wf (State.core_wf h _)) (Storage.rest_wf (State.core_wf h _))
  · refine State.eachWrite_keeps (Res.keeps_ok (State.onCheck_wf (State.onSt_wf_of_wf h ?_)))
    exact fun _ ht => Storage.rest_wf ht
  · exact State.eachWrite_keeps (Res.keeps_ok h)

theorem State.onHead_wf {s : State} (h : s.wf = true) {ch : Fin 8} {f : ChCmd → ChCmd} : (s.onHead ch f).wf = true := State.onMe_rest_wf h

theorem State.takeRows_wf {s : State} (h : s.wf = true) {ch : Fin 8} {c : ChCmd} : (s.takeRows ch c).wf = true := by
  unfold State.takeRows
  split
  · refine State.wf_ite h (State.onCheck_wf (State.onHead_wf (State.onSt_wf_of_wf h ?_)))
    exact fun _ ht => Storage.rest_wf ht
  · exact h

theorem State.readAhead_keeps {s : State} (h : s.wf = true) {ch : Fin 8} {a : Word} : OptKeeps id (s.readAhead ch a) :=
  optKeeps_map fun _ _ => State.onHead_wf h

theorem State.keepChunks_wf {s : State} (h : s.wf = true) {ch : Fin 8} {c : ChCmd} {m : Moved} : (s.keepChunks ch c m).wf = true := by
  refine State.onHead_wf (State.foldl_wf h fun t a ht => ?_)
  cases e : t.readAhead ch a with
  | none => exact ht
  | some u => exact State.readAhead_keeps ht u e

theorem State.notePage_wf {s : State} (h : s.wf = true) {ch : Fin 8} {c : ChCmd} {w : Bool} {a : Word} : (s.notePage ch c w a).wf = true :=
  State.onMe_rest_wf h

theorem State.notePages_wf {s : State} (h : s.wf = true) {ch : Fin 8} {c : ChCmd} {m : Moved} : (s.notePages ch c m).wf = true :=
  State.foldl_wf h fun _ _ ht => State.notePage_wf ht

theorem State.onChan_wf {s : State} (h : s.wf = true) {ch : Fin 8} {f : Channel → Channel} : (s.onMe fun k => k.onChan ch f).wf = true :=
  State.onMe_rest_wf h

theorem State.completeUnit_keeps {s : State} (h : s.wf = true) {ch : Fin 8} {c : ChCmd} {ws : List (Word × List Byte)} :
    (s.completeUnit ch c ws).Keeps :=
  Res.keeps_bind (State.placeUnit_keeps h) fun _ _ ht => Res.keeps_ok (State.onChan_wf (State.onHead_wf ht))

theorem State.chanFault_wf {s : State} (h : s.wf = true) {ch : Fin 8} {c : ChCmd} {cause detail : Nat} {a : Word} :
    (s.chanFault ch c cause detail a).wf = true := by
  unfold State.chanFault
  dsimp only
  generalize hu : (if cause = 0x11 then s.onMe fun k => k.count 0x10 .a 1 else s : State) = u
  have hs : u.wf = true := by
    subst hu
    refine State.wf_ite (State.onMe_wf_of_st h ?_) h
    exact fun _ => Core.count_st ..
  exact State.wf_ite (State.deliver_wf (State.onChan_wf hs) ..) (State.onMe_rest_wf (State.onChan_wf hs))

theorem Res.engine_keeps {r : Res Unit} (hr : r.Keeps) {s : State} (h : s.wf = true) {ch : Fin 8} {c : ChCmd} : OptKeeps id (r.engine s ch c) := by
  cases r with
  | ok a t => exact optKeeps_some (hr a t rfl)
  | wait => exact optKeeps_none _
  | trap cause d a => exact optKeeps_some (State.chanFault_wf h)

theorem State.sendPiece_wf {s : State} (h : s.wf = true) {ch : Fin 8} {f : Flight} : (s.sendPiece ch f).wf = true :=
  State.sendMsg_wf (State.onChan_wf h)

theorem State.sendUnit_keeps {s : State} (h : s.wf = true) {ch : Fin 8} {c : ChCmd} {ws : List (Word × List Byte)} {ps : List Piece} :
    (s.sendUnit ch c ws ps).Keeps := by
  refine Res.keeps_bind (State.completeUnit_keeps h) fun _ _ _ => Res.keeps_ok (State.sendPiece_wf (State.onMe_wf_of_st h ?_))
  exact fun _ => Core.count_st ..

theorem State.moveUnit_keeps {s : State} (h : s.wf = true) {ch : Fin 8} {early : Option Nat} {run : Bool} :
    OptKeeps id (s.moveUnit ch early run) := by
  have hu {c} := State.takeRows_wf h (ch := ch) (c := c)
  unfold State.moveUnit
  dsimp only
  split
  · exact optKeeps_none _
  · refine optKeeps_ite (optKeeps_none _) ?_
    split
    · split
      · exact optKeeps_bind fun _ _ => State.readAhead_keeps h
      · exact optKeeps_none _
    · split
      · exact optKeeps_ite (optKeeps_none _) (optKeeps_some hu)
      · exact optKeeps_some (State.chanFault_wf hu)
      · next m t e =>
        have ht {k n ch c} := State.notePages_wf (State.keepChunks_wf (State.charge_wf (State.readUnit_keeps hu m t e) (k := k) (n := n)) (ch := ch)
          (c := c) (m := m)) (ch := ch) (c := c) (m := m)
        exact optKeeps_ite (optKeeps_none _) (Res.engine_keeps (Res.keeps_ite (State.completeUnit_keeps ht) (State.sendUnit_keeps ht)) hu)

theorem State.arriveUnit_keeps {s : State} (h : s.wf = true) {ch : Fin 8} {u : BitVec 32} : OptKeeps id (s.arriveUnit ch u) := by
  unfold State.arriveUnit
  dsimp only
  split
  · refine optKeeps_ite (optKeeps_none _) ?_
    have ht : ({ s with lat := { s.lat with arrived := s.lat.arrived.erase (.piece s.cur.core ch) } } : State).wf = true := State.lat_wf h
    split
    · exact optKeeps_none _
    · refine optKeeps_ite (optKeeps_ite (Res.engine_keeps (State.completeUnit_keeps ht) ht) (optKeeps_some (State.sendPiece_wf ht))) ?_
      exact optKeeps_ite (optKeeps_some (State.sendPiece_wf (State.transferEvent_wf ht))) (optKeeps_some (State.chanFault_wf ht))
  · exact optKeeps_none _

/-! Start and finish of a command, and the forms that wait for one. -/

theorem State.startChan_keeps {s : State} (h : s.wf = true) {ch : Fin 8} : OptKeeps id (s.startChan ch) := by
  unfold State.startChan
  dsimp only
  split
  · exact optKeeps_none _
  · exact optKeeps_ite (optKeeps_none _) (optKeeps_some (State.onHead_wf h))

theorem State.arrivalHall_wf {s : State} (h : s.wf = true) {l : List (Nat × List Byte)} : (s.arrivalHall l).2.wf = true :=
  snd_wf_ite (State.draw_wf h) h

theorem State.finishChan_keeps {s : State} (h : s.wf = true) {ch : Fin 8} : OptKeeps id (s.finishChan ch) := by
  unfold State.finishChan
  dsimp only
  split
  · exact optKeeps_none _
  · refine optKeeps_ite (optKeeps_none _) (optKeeps_some (State.onCheck_wf (State.onMe_wf_of_wf (State.arrivalHall_wf h) ?_)))
    intro k hk
    refine Core.postOwn_wf ?_
    exact Core.wf_ite hk hk

theorem State.endForm_wf {s : State} (h : s.wf = true) {f : Form} : (s.endForm f).wf = true := by
  refine State.onMe_wf_of_wf (State.onEn_wf h _) ?_
  exact fun _ hk => Core.postTokens_wf hk

theorem State.passForm_keeps {s : State} (h : s.wf = true) {f : Form} : OptKeeps id (s.passForm f) := by
  unfold State.passForm
  split
  · exact optKeeps_ite (optKeeps_none _) (optKeeps_some (State.endForm_wf (State.popElem_wf h)))
  · split
    · exact optKeeps_none _
    · exact optKeeps_ite (optKeeps_some (State.endForm_wf (State.acquireRun_wf h))) (optKeeps_none _)
  · exact optKeeps_none _

/-- The first of a list whose function gives a state. -/
theorem optKeeps_findSome {α β : Type} {f : β → State} {g : α → Option β} {l : List α} (hg : ∀ a, OptKeeps f (g a)) :
    OptKeeps f (l.findSome? g) := by
  intro b e
  obtain ⟨a, -, ha⟩ := List.exists_of_findSome?_eq_some e
  exact hg a b ha

theorem State.passChwait_keeps {s : State} (h : s.wf = true) : OptKeeps id s.passChwait :=
  optKeeps_findSome fun _ => optKeeps_ite (State.passForm_keeps h) (optKeeps_none _)

/-! The events of the copy engine and the sequencer. -/

theorem execChannelCommandStart_keeps {s : State} (h : s.wf = true) {k : Fin 768} {ch : Fin 8} : Keeps (execChannelCommandStart k ch s) :=
  State.engine_keeps h fun ht => State.startChan_keeps ht

theorem execCopyPiece_keeps {s : State} (h : s.wf = true) {k : Fin 768} {t : ChanTurn} : Keeps (execCopyPiece k t s) :=
  State.engine_keeps h fun ht => State.moveUnit_keeps ht

theorem execSequencerEmission_keeps {s : State} (h : s.wf = true) {k : Fin 768} {t : ChanTurn} : Keeps (execSequencerEmission k t s) :=
  State.engine_keeps h fun ht => State.moveUnit_keeps ht

theorem execPieceArrival_keeps {s : State} (h : s.wf = true) {k : Fin 768} {ch : Fin 8} {u : BitVec 32} : Keeps (execPieceArrival k ch u s) :=
  State.engine_keeps h fun ht => State.arriveUnit_keeps ht

theorem execMulticastArrival_keeps {s : State} (h : s.wf = true) {k : Fin 768} : Keeps (execMulticastArrival k s) :=
  State.engine_keeps h fun ht => State.landWord_keeps ht

theorem execChannelCommandFinish_keeps {s : State} (h : s.wf = true) {k : Fin 768} {ch : Fin 8} : Keeps (execChannelCommandFinish k ch s) :=
  State.engine_keeps h fun ht => State.finishChan_keeps ht

theorem execChwaitFinish_keeps {s : State} (h : s.wf = true) {k : Fin 768} : Keeps (execChwaitFinish k s) :=
  State.engine_keeps h fun ht => State.passChwait_keeps ht

end Sys2Proof.Machine
end

section
/-! Every memory stays canonical: the vector unit. -/

namespace Sys2Proof.Machine

/-! Lanes: a form writes vector registers, masks and flags, none of which is a byte store. -/

theorem State.setVF_wf {s : State} (h : s.wf = true) {vd : VReg} {r : Line × BitVec 8} : (s.setVF vd r).wf = true :=
  State.orAflags_wf (State.setV_wf h ..) _

theorem keeps_setVF {s : State} (h : s.wf = true) {vd : VReg} {r : Line × BitVec 8} : Keeps (.next (s.setVF vd r)) :=
  keeps_next (State.setVF_wf h)

theorem keeps_setV {s : State} (h : s.wf = true) (v : VReg) (x : Line) : Keeps (.next (s.setV v x)) := keeps_next (State.setV_wf h v x)

theorem keeps_setMask {s : State} (h : s.wf = true) (m : MReg) (x : Word) : Keeps (.next (s.setMask m x)) := keeps_next (State.setMask_wf h m x)

theorem execVtopk_keeps {s : State} (h : s.wf = true) {vd va vb : VReg} {mk : MReg} : Keeps (execVtopk vd va vb mk s) :=
  keeps_next (State.setV_wf (State.setV_wf h ..) ..)

theorem execVcvt_keeps {s : State} (h : s.wf = true) {vd va : VReg} {dt st : BitVec 4} {rm : BitVec 2} {sa : BitVec 1} {mk : MReg} :
    Keeps (execVcvt vd va dt st rm sa mk s) := keeps_next (State.onCl_wf (State.setVF_wf h) _)

/-! Forms that access buffers and queues: issue and finish. -/

theorem State.vecCheck_keeps {s : State} (h : s.wf = true) {a : Word} {w : Bool} : (s.vecCheck a w).Keeps := by
  refine Res.keeps_ite Res.keeps_trap (Res.keeps_ite Res.keeps_trap (Res.keeps_ite Res.keeps_trap (Res.keeps_bind ?_ ?_)))
  · exact Res.keeps_of_stays h (stays_ite (stays_ite (stays_ok _ _) (stays_trap _ _ _ _)) (stays_ite (stays_ok _ _) (stays_trap _ _ _ _)))
  · exact fun _ _ ht => Res.keeps_ite Res.keeps_trap (State.orderAccess_keeps ht)

theorem State.vecIssue_keeps {s : State} (h : s.wf = true) {l : Long} {i : Instr} {a m : Word} {d : Line} {check : State → Res Unit}
    (hc : ∀ u, u.wf = true → (check u).Keeps) : Keeps (s.vecIssue l i a m d check) := by
  refine keeps_guarded h l fun u hu => ?_
  split
  · exact keeps_faultAt h _ _ _
  · exact keeps_stall h
  · next x t e => exact keeps_ite (keeps_stall h) (keeps_next (State.addForm_wf (hc u hu x t e)))

theorem execVld_keeps {s : State} (h : s.wf = true) {l : Long} {v : VReg} {a : Reg} {o : BitVec 7} {mk : MReg} : Keeps (execVld l v a o mk s) :=
  State.vecIssue_keeps h fun _ hu => State.vecCheck_keeps hu

theorem execVst_keeps {s : State} (h : s.wf = true) {l : Long} {v : VReg} {a : Reg} {o : BitVec 7} {mk : MReg} : Keeps (execVst l v a o mk s) :=
  State.vecIssue_keeps h fun _ hu => State.vecCheck_keeps hu

theorem execVqpop_keeps {s : State} (h : s.wf = true) {l : Long} {v : VReg} {mk : MReg} : Keeps (execVqpop l v mk s) :=
  State.vecIssue_keeps h fun _ hu => Res.keeps_ok hu

theorem execVqpush_keeps {s : State} (h : s.wf = true) {l : Long} {v : VReg} {mk : MReg} : Keeps (execVqpush l v mk s) :=
  State.vecIssue_keeps h fun _ hu => Res.keeps_ok hu

theorem Storage.mergeV_wf {t : Storage} (h : t.wf = true) {v : VReg} {x : Line} {m : Word} : (t.mergeV v x m).wf = true := Storage.rest_wf h

theorem Storage.putWord_wf {t : Storage} (h : t.wf = true) {b : Fin 4} {off x : Nat} {m : BitVec 8} : (t.putWord b off x m).wf = true := by
  refine Storage.wf_ite (Storage.putBuf_wf h ..) (Storage.setBuf_wf h b (Memory.foldl_wf (Storage.buf_wf h b) fun m i hm => ?_))
  split
  · exact Memory.write_wf hm ..
  · exact hm

theorem Storage.putWords_wf {t : Storage} (h : t.wf = true) {b : Fin 4} {off : Nat} {x : Line} {m : Word} {w : BitVec 8} :
    (t.putWords b off x m w).wf = true := Storage.foldl_wf h fun _ _ ht => Storage.wf_ite (Storage.putWord_wf ht) ht

theorem State.putWords_wf {s : State} (h : s.wf = true) {k : Fin 768} {b : Fin 4} {off : Nat} {x : Line} {m : Word} {w : BitVec 8} :
    (s.onCore k fun c => { c with st := c.st.putWords b off x m w }).wf = true :=
  State.onCore_wf_of_wf h fun _ hc => Storage.putWords_wf hc

theorem State.performForm_keeps {s : State} (h : s.wf = true) {f : Form} {w : BitVec 8} : OptKeeps id (s.performForm f w) := by
  unfold State.performForm
  dsimp only
  split
  · refine optKeeps_ite (optKeeps_none _) (optKeeps_ite (optKeeps_some (State.machineCheck_wf h)) (optKeeps_some (State.onCheck_wf ?_)))
    refine State.onSt_wf_of_wf h ?_
    exact fun _ ht => Storage.mergeV_wf ht
  · exact optKeeps_ite (optKeeps_none _) (optKeeps_some (State.onCheck_wf (State.putWords_wf h)))
  · split
    · exact optKeeps_none _
    · refine optKeeps_some (State.onCheck_wf (State.onSt_wf_of_wf h ?_))
      exact fun _ ht => Storage.rest_wf (Storage.mergeV_wf ht)
  · refine optKeeps_ite (optKeeps_none _) (optKeeps_some (State.onCheck_wf (State.onSt_wf_of_wf h ?_)))
    exact fun _ ht => Storage.rest_wf ht
  · exact optKeeps_none _

theorem State.formTurn_keeps {s : State} (h : s.wf = true) {f : Form} {w : BitVec 8} : OptKeeps id (s.formTurn f w) := by
  refine optKeeps_ite (optKeeps_none _) (optKeeps_map fun t e => ?_)
  have ht : t.wf = true := State.performForm_keeps h t e
  exact State.wf_ite (State.endForm_wf ht) (State.onEn_wf ht _)

theorem State.finishForm_keeps {s : State} (h : s.wf = true) {w : BitVec 8} : OptKeeps id (s.finishForm w) :=
  optKeeps_findSome fun _ => optKeeps_ite (State.formTurn_keeps h) (optKeeps_none _)

theorem execVectorFormFinish_keeps {s : State} (h : s.wf = true) {k : Fin 768} {t : FormTurn} : Keeps (execVectorFormFinish k t s) :=
  State.engine_keeps h fun ht => State.finishForm_keeps ht

end Sys2Proof.Machine
end

section
/-! Every memory stays canonical: the launch walker, and tasks that retire, are saved and are restored. -/

namespace Sys2Proof.Machine

/-! Tasks placed on cores. -/

theorem State.startTask_wf {s : State} (h : s.wf = true) {k : Fin 768} {l : Launch} {ord slot : Nat} : (s.startTask k l ord slot).wf = true := by
  refine State.sch_same_wf (State.onQuad_wf (State.setCore_wf h k ?_)) rfl
  exact Core.reset_wf

theorem State.leaveQuad_wf {s : State} (h : s.wf = true) {u : Fin 192} : (s.leaveQuad u).wf = true := State.wf_ite (State.onQuad_wf h) h

theorem State.leaveCore_wf {s : State} (h : s.wf = true) {k : Fin 768} : (s.leaveCore k).wf = true := by
  refine State.fenceNotice_wf (State.leaveQuad_wf (State.onCore_wf_of_wf (State.dropRequest_wf h) ?_))
  exact fun _ _ => Core.reset_wf

theorem State.placeOne_keeps {s : State} (h : s.wf = true) {l : Launch} {slot ord choice : Nat} :
    OptKeeps Prod.fst (s.placeOne l slot ord choice) := optKeeps_map fun _ _ => State.startTask_wf h

theorem State.startGang_wf {s : State} (h : s.wf = true) {l : Launch} {slot ord : Nat} {u : Fin 192} : (s.startGang l slot ord u).wf = true := by
  refine State.foldl_wf h ?_
  exact fun _ _ ht => State.wf_ite (State.startTask_wf ht) ht

theorem State.placeGang_keeps {s : State} (h : s.wf = true) {l : Launch} {slot ord choice : Nat} :
    OptKeeps Prod.fst (s.placeGang l slot ord choice) := optKeeps_map fun _ _ => State.startGang_wf h

theorem State.placeUnits_keeps {l : Launch} {slot : Nat} (n : Nat) :
    ∀ {s : State}, s.wf = true → ∀ {ord choice}, OptKeeps Prod.fst (s.placeUnits l slot ord choice n) := by
  induction n with
  | zero => exact fun h => optKeeps_some h
  | succ n ih =>
    intro s h ord choice
    have one := optKeeps_ite (c := l.gang = true) (State.placeGang_keeps h (l := l) (slot := slot) (ord := ord) (choice := choice))
      (State.placeOne_keeps h (l := l) (slot := slot) (ord := ord) (choice := choice))
    unfold State.placeUnits
    split
    · next t c e => exact ih (one _ e)
    · exact optKeeps_none _

theorem State.placeNext_keeps {s : State} (h : s.wf = true) {l : Launch} {choice : Nat} : OptKeeps id (s.placeNext l choice) := by
  unfold State.placeNext
  split
  · exact optKeeps_none _
  · exact optKeeps_map fun p e => State.onLaunch_wf (State.placeUnits_keeps _ h p e)

/-! Saved tasks placed again: what stands above the footprint is dropped. -/

theorem Memory.upTo_wf {m : Memory} (h : m.wf = true) {n : Nat} : (m.upTo n).wf = true := Memory.filter_wf h _

theorem Storage.within_wf {t : Storage} (h : t.wf = true) {k : Option Task} : (t.within k).wf = true := by
  obtain ⟨hw, ha, hc, hb, ht⟩ := (Storage.wf_iff t).mp h
  cases k with
  | none => exact h
  | some x => exact (Storage.wf_iff _).mpr ⟨Memory.upTo_wf hw, Memory.upTo_wf ha, Memory.upTo_wf hc, Memory.upTo_wf hb, ht⟩

theorem Core.adopt_wf {k there : Core} (h : k.st.wf = true) : (k.adopt there).st.wf = true := Storage.within_wf h

theorem State.placeSaved_wf {s : State} (h : s.wf = true) {v : Saved} (hv : v.core.st.wf = true) {k : Fin 768} : (s.placeSaved v k).wf = true := by
  refine State.mapSaved_wf (State.wf_ite ?_ (State.requestPower_wf ?_)) fun u => ?_
  iterate 2 exact State.onQuad_wf (State.setCore_wf h k (Core.adopt_wf hv))
  split <;> rfl

/-- What the walker may place holds canonical cores. -/
def Item.Wf : Item → Prop
  | .saved _ vs => ∀ v ∈ vs, v.core.st.wf = true
  | .head _ => True

theorem State.foldSaved_wf {f : Saved → Fin 768} {vs : List Saved} (hv : ∀ v ∈ vs, v.core.st.wf = true) :
    ∀ {s : State}, s.wf = true → (vs.foldl (fun s v => s.placeSaved v (f v)) s).wf = true := by
  induction vs with
  | nil => exact fun h => h
  | cons v vs ih =>
    obtain ⟨first, rest⟩ := List.forall_mem_cons.mp hv
    exact fun h => ih rest (State.placeSaved_wf h first)

theorem State.placeSavedUnit_keeps {s : State} (h : s.wf = true) {q : Fin 32} {vs : List Saved} (hv : ∀ v ∈ vs, v.core.st.wf = true)
    {choice : Nat} : OptKeeps id (s.placeSavedUnit q vs choice) := by
  unfold State.placeSavedUnit
  split
  · exact optKeeps_none _
  · next v rest =>
    exact optKeeps_ite (optKeeps_map fun _ _ => State.foldSaved_wf hv h) (optKeeps_map fun _ _ => State.placeSaved_wf h (hv v List.mem_cons_self))

theorem State.placeItem_keeps {s : State} (h : s.wf = true) {choice : Nat} {i : Item} (hi : i.Wf) : OptKeeps id (s.placeItem choice i) := by
  cases i with
  | saved q vs => exact State.placeSavedUnit_keeps h hi
  | head l => exact State.placeNext_keeps h

theorem State.waiting_wf {s : State} (h : s.wf = true) {lid : BitVec 16} : ∀ v ∈ s.waiting lid, v.core.st.wf = true :=
  fun _ hv => State.saved_wf h (List.mem_of_mem_filter hv)

theorem State.unitOf_wf {s : State} (h : s.wf = true) {v : Saved} (hv : v.core.st.wf = true) : ∀ u ∈ s.unitOf v, u.core.st.wf = true := by
  intro u hu
  unfold State.unitOf at hu
  split at hu
  · exact State.saved_wf h (List.mem_of_mem_filter hu)
  · rw [List.mem_singleton.mp hu]
    exact hv

/-- The saved task with the lowest ordinal is one of the list. -/
theorem lowestSaved_mem (vs : List Saved) : ∀ v : Saved, vs.foldl (fun a b => if b.ordinal < a.ordinal then b else a) v ∈ v :: vs := by
  induction vs with
  | nil => exact fun v => List.mem_cons_self
  | cons u vs ih =>
    intro v
    rw [List.foldl_cons]
    split
    · exact List.mem_cons_of_mem _ (ih u)
    · rcases List.mem_cons.mp (ih v) with e | e
      · rw [e]; exact List.mem_cons_self
      · exact List.mem_cons_of_mem _ (List.mem_cons_of_mem _ e)

theorem State.savedItems_wf {s : State} (h : s.wf = true) {q : Fin 32} : ∀ i ∈ s.savedItems q, i.Wf := by
  intro i hi
  obtain ⟨l, -, e⟩ := List.mem_filterMap.mp hi
  have waits := State.waiting_wf h (lid := l.lid)
  dsimp only at e
  split at e
  · cases e
  · split at e
    · cases e
    · next v rest ew =>
      split at e
      · cases e
        exact State.unitOf_wf h (waits _ (ew ▸ lowestSaved_mem rest v))
      · cases e

theorem State.headItem_wf {s : State} {q : Fin 32} {i : Item} (e : s.headItem q = some i) : i.Wf := by
  unfold State.headItem at e
  split at e
  · cases e
  · split at e
    · cases e; trivial
    · cases e

theorem State.promote_wf {s : State} (h : s.wf = true) : s.promote.wf = true := by
  refine State.foldl_wf h fun s q ht => ?_
  split
  · exact State.wf_ite (State.onLaunch_wf ht) ht
  · exact ht

theorem State.pass_wf {s : State} (h : s.wf = true) {i : Item} : (s.pass i).wf = true := by
  cases i with
  | saved q vs =>
    refine State.mapSaved_wf h fun v => ?_
    split <;> rfl
  | head l => exact State.onLaunch_wf h

theorem State.placedFor_wf {s t : State} (h : t.wf = true) {q : Fin 32} : (s.placedFor t q).wf = true := by
  refine State.sch_same_wf (State.foldl_wf h ?_) rfl
  exact fun _ _ ht => State.pass_wf ht

theorem State.serve_keeps {s : State} (h : s.wf = true) {choice : Nat} (l : List Item) : (∀ i ∈ l, i.Wf) → OptKeeps id (s.serve choice l) := by
  induction l with
  | nil => exact fun _ => optKeeps_none _
  | cons i l ih =>
    intro hl
    obtain ⟨first, rest⟩ := List.forall_mem_cons.mp hl
    unfold State.serve
    split
    · next t e => exact optKeeps_some (State.placedFor_wf (State.placeItem_keeps h first t e))
    · exact ih rest

theorem State.serveClass_placed_wf {s t : State} (h : s.wf = true) {c choice : Nat} (e : s.serveClass c choice = .placed t) : t.wf = true := by
  have items : ∀ i ∈ (s.turnOrder c).flatMap s.savedItems ++ (s.turnOrder c).filterMap s.headItem, i.Wf := by
    intro i hi
    rcases List.mem_append.mp hi with hi | hi
    · obtain ⟨q, -, hq⟩ := List.mem_flatMap.mp hi
      exact State.savedItems_wf h i hq
    · obtain ⟨q, -, hq⟩ := List.mem_filterMap.mp hi
      exact State.headItem_wf hq
  unfold State.serveClass at e
  dsimp only at e
  split at e
  · split at e
    · next u eu => cases e; exact State.serve_keeps h _ items _ eu
    · cases e
  · split at e
    · next u eu => cases e; exact State.serve_keeps h _ (fun i hi => items i (List.mem_of_mem_filter hi)) _ eu
    · cases e

theorem State.preemptFor_keeps {s : State} (h : s.wf = true) {l : Launch} : OptKeeps id (s.preemptFor l) := by
  unfold State.preemptFor
  dsimp only
  split
  · exact optKeeps_none _
  · refine optKeeps_ite (optKeeps_none _) (optKeeps_some (State.foldl_wf h ?_))
    exact fun _ k ht => State.requestSave_wf ht k 1

theorem State.preempt_keeps {s : State} (h : s.wf = true) : OptKeeps id s.preempt :=
  optKeeps_findSome fun i => by
    cases i with
    | saved q vs => exact optKeeps_none _
    | head l => exact optKeeps_ite (optKeeps_none _) (State.preemptFor_keeps h)

theorem State.serveClasses_keeps {s : State} (h : s.wf = true) {choice : Nat} (cs : List Nat) : OptKeeps id (s.serveClasses choice cs) := by
  induction cs with
  | nil => exact optKeeps_none _
  | cons c cs ih =>
    have pre := optKeeps_ite (c := c = 0) (State.preempt_keeps h) (optKeeps_none id)
    unfold State.serveClasses
    split
    · next t e => exact optKeeps_some (State.serveClass_placed_wf h e)
    · exact pre
    · split
      · next t e => exact optKeeps_some (pre t e)
      · exact ih

theorem execWalkerPlace_keeps {s : State} (h : s.wf = true) {choice : Nat} : Keeps (execWalkerPlace choice s) := by
  have ht := State.capCheck_wf (State.promote_wf h)
  unfold execWalkerPlace
  dsimp only
  split
  · next t e => exact keeps_report (State.serveClasses_keeps ht _ t e) _
  · exact keeps_report ht _

/-! Events of tasks. -/

/-- An event happens in the state that is given, or changes nothing. -/
theorem State.event_keeps {s : State} (h : s.wf = true) {r : Option State} (hr : OptKeeps id r) : Keeps (s.event r) := by
  cases r with
  | some t => exact keeps_report (hr t rfl) _
  | none => exact keeps_report h _

theorem State.retireTask_wf {s : State} (h : s.wf = true) {k : Fin 768} {t : Task} {e : ExitSeq} : (s.retireTask k t e).wf = true := by
  unfold State.retireTask
  dsimp only
  refine State.leaveCore_wf (State.onLaunch_wf ?_)
  split
  · exact State.writeTaskWord_wf h
  · exact h

theorem Core.cancelChan_wf {k : Core} (h : k.st.wf = true) {ch : Fin 8} : (k.cancelChan ch).st.wf = true := by
  unfold Core.cancelChan
  split
  · exact Core.wf_ite (Storage.unreserve_wf h) h
  · exact h

theorem Core.cancelMatrix_wf {k : Core} (h : k.st.wf = true) : k.cancelMatrix.st.wf = true := by
  unfold Core.cancelMatrix
  split
  · exact Core.wf_ite (Storage.unreserve_wf h) h
  · exact h

theorem Core.foldl_wf {α : Type} {f : Core → α → Core} {l : List α} {k : Core} (h : k.st.wf = true)
    (hf : ∀ k a, k.st.wf = true → (f k a).st.wf = true) : (l.foldl f k).st.wf = true := by
  induction l generalizing k with
  | nil => exact h
  | cons a l ih => exact ih (hf _ a h)

theorem Core.cancelStuck_wf {k : Core} (h : k.st.wf = true) : k.cancelStuck.st.wf = true :=
  Core.foldl_wf (Core.cancelMatrix_wf h) fun _ _ hk => Core.cancelChan_wf hk

theorem State.exitStep_keeps {s : State} (h : s.wf = true) {k : Fin 768} {t : Task} {e : ExitSeq} : OptKeeps id (s.exitStep k t e) := by
  have retired := optKeeps_some (f := id) (State.retireTask_wf h (k := k) (t := t) (e := e))
  refine optKeeps_ite (optKeeps_none _) (optKeeps_ite (optKeeps_ite (optKeeps_none _) (optKeeps_ite ?_ retired)) (optKeeps_ite ?_
    (optKeeps_ite retired (optKeeps_none _))))
  · exact optKeeps_some (State.deliver_wf h ..)
  · refine optKeeps_some (State.onCore_wf_of_wf h ?_)
    exact fun _ hc => Core.cancelStuck_wf hc

theorem State.terminateTask_wf {s : State} (h : s.wf = true) {k : Fin 768} {t : Task} {r : TermRec} : (s.terminateTask k t r).wf = true := by
  unfold State.terminateTask
  dsimp only
  refine State.leaveCore_wf (State.onLaunch_wf (State.filterSaved_wf ?_))
  split
  · exact State.writeTaskWord_wf h
  · exact h

theorem State.endTerm_keeps {s : State} (h : s.wf = true) {k : Fin 768} {t : Task} {r : TermRec} : OptKeeps id (s.endTerm k t r) :=
  optKeeps_ite (optKeeps_some (State.terminateTask_wf h)) (optKeeps_none _)

theorem execTaskRetire_keeps {s : State} (h : s.wf = true) {k : Fin 768} : Keeps (execTaskRetire k s) := by
  refine State.event_keeps h ?_
  split
  · exact State.endTerm_keeps h
  · exact State.exitStep_keeps h
  · exact optKeeps_none _

/-! Saves. -/

theorem State.putImageWord_wf {s t : State} (h : t.wf = true) {k : Fin 768} {n reason o : Nat} : (s.putImageWord k n reason t o).wf = true := by
  unfold State.putImageWord
  split
  · exact h
  · next x _ =>
    cases e : t.writeRange 0 (s.slotAddr n o) (leBytes x 8) with
    | none => exact h
    | some u => exact State.writeRange_keeps h u e

theorem State.writeImage_wf {s t : State} (h : t.wf = true) {k : Fin 768} {n reason : Nat} {os : List Nat} :
    (s.writeImage k n reason t os).wf = true := State.foldl_wf h fun _ _ ht => State.putImageWord_wf ht

theorem State.settleMatrix_wf {s : State} (h : s.wf = true) {k : Fin 768} {d : Nat} {p q a : Upset} : (s.settleMatrix k d p q a).wf = true := by
  unfold State.settleMatrix
  split
  · exact State.wf_ite h (State.groupStop_wf (State.asClu_wf h))
  · exact h

/-- A saved task enters the pool. -/
theorem State.addSaved_wf {s : State} (h : s.wf = true) {v : Saved} (hv : v.core.st.wf = true) :
    ({ s with sch := { s.sch with saved := s.sch.saved ++ [v] } } : State).wf = true := by
  refine State.sch_wf h fun u hu => ?_
  rcases List.mem_append.mp hu with hu | hu
  · exact State.saved_wf h hu
  · rw [List.mem_singleton.mp hu]
    exact hv

theorem State.saveOne_keeps {s : State} (h : s.wf = true) {k : Fin 768} : OptKeeps id (s.saveOne k) := by
  unfold State.saveOne
  dsimp only
  split
  · refine optKeeps_some (State.addSaved_wf (State.writeImage_wf (State.settlePcs_wf (State.onCore_rest_wf h))) ?_)
    exact State.core_wf (State.settlePcs_wf (State.onCore_rest_wf h)) k
  · exact optKeeps_none _

theorem State.saveAll_keeps (ks : List (Fin 768)) : ∀ {s : State}, s.wf = true → OptKeeps id (s.saveAll ks) := by
  induction ks with
  | nil => exact fun h => optKeeps_some h
  | cons k ks ih => exact fun h => optKeeps_bind fun t e => ih (State.saveOne_keeps h t e)

theorem execSaveComplete_keeps {s : State} (h : s.wf = true) {on : Stopping} : Keeps (execSaveComplete on s) := by
  unfold execSaveComplete
  dsimp only
  generalize ht : List.foldl (fun t k => if !t.saveWanted k then t else if k = on.core then
    t.settleMatrix k s.draw.1.toNat on.upsetP on.upsetS on.upsetA else t.settleMatrix k s.draw.1.toNat [] [] []) s.draw.2 (s.savedWith on.core) = t
  have hw : t.wf = true := by
    subst ht
    refine State.foldl_wf (State.draw_wf h) ?_
    exact fun _ _ hu => State.wf_ite hu (State.wf_ite (State.settleMatrix_wf hu) (State.settleMatrix_wf hu))
  refine keeps_ite (keeps_report hw _) (keeps_ite (keeps_report h _) ?_)
  split
  · exact keeps_report h _
  · next u e =>
    refine keeps_report (State.foldl_wf (State.saveAll_keeps _ hw u e) ?_) _
    exact fun _ _ hv => State.leaveCore_wf hv

/-! Restores. -/

theorem State.absorbCells_wf {t : RegionTable} {r : Region} {d : Fin 8} (n : Nat) :
    ∀ {s : State}, s.wf = true → ∀ {o bs}, (s.absorbCells t r d o bs n).wf = true := by
  induction n with
  | zero => exact fun h => h
  | succ n ih => exact fun h => ih (State.wf_ite h (State.latPut_wf h))

theorem State.catchUp_wf {s : State} (h : s.wf = true) {ctx : BitVec 12} {a b : Fin 8} : (s.catchUp ctx a b).wf = true := by
  unfold State.catchUp
  split
  · exact h
  · refine State.lat_wf (State.foldl_wf h ?_)
    exact fun _ _ ht => State.absorbCells_wf _ ht

theorem State.readImage_wf {s : State} {n : Nat} {c : Core} (h : c.st.wf = true) {os : List Nat} : (s.readImage n c os).st.wf = true :=
  Core.foldl_wf h fun _ _ hk => Core.wf_ite hk (Core.imgPut_wf hk)

theorem State.readClasps_wf {s : State} (h : s.wf = true) {n : Nat} {k : Fin 768} {os : List Nat} : (s.readClasps n k os).wf = true := by
  refine State.foldl_wf h ?_
  exact fun _ _ ht => State.imgPutClasp_wf ht

theorem Core.begin_wf {c : Core} (h : c.st.wf = true) {level : BitVec 8} {p q : Upset} : (c.begin level p q).st.wf = true :=
  Core.resumeGroups_wf (k := { c with rg := { c.rg with pwrlvl := level }, cl := vmap (fun (u : Cluster) => { u with halted := false }) c.cl,
                                      restoring := false }) h

theorem Core.events_wf {c : Core} (h : c.st.wf = true) {en : Engines} {pend : List (Clu × Trap)} :
    ({ c with en := en, pend := pend } : Core).st.wf = true := h

theorem State.deliverPend_wf {s : State} (h : s.wf = true) {k : Fin 768} : (s.deliverPend k).wf = true := by
  refine State.foldl_wf (State.onCore_rest_wf h) ?_
  exact fun _ _ ht => State.wf_ite (State.onCore_rest_wf ht) (State.deliver_wf ht ..)

theorem State.restoreOne_wf {s : State} (h : s.wf = true) {k : Fin 768} {p q : Upset} {t : Task} {v : Saved} : (s.restoreOne k p q t v).wf = true := by
  have hd := State.readImage_wf (s := s) (n := v.slotN) (State.core_wf h k) (os := restoreOffsets t)
  unfold State.restoreOne
  dsimp only
  refine State.wf_ite (State.machineCheck_wf ?_) (State.deliverPend_wf ?_)
  all_goals
    refine State.filterSaved_wf (State.catchUp_wf (State.wf_ite (State.readClasps_wf ?_) ?_))
    all_goals exact State.setCore_wf h k (Core.begin_wf (Core.events_wf hd))

theorem State.restoreAll_keeps {named : Fin 768} {p q : Upset} (ks : List (Fin 768)) :
    ∀ {s : State}, s.wf = true → OptKeeps id (s.restoreAll named p q ks) := by
  induction ks with
  | nil => exact fun h => optKeeps_some h
  | cons k ks ih =>
    intro s h
    unfold State.restoreAll
    split
    · exact optKeeps_none _
    · exact ih (State.restoreOne_wf h)

theorem execRestoreIssueStart_keeps {s : State} (h : s.wf = true) {on : Struck} : Keeps (execRestoreIssueStart on s) := by
  unfold execRestoreIssueStart
  dsimp only
  split
  · exact keeps_report h _
  · next t e => exact keeps_report (optKeeps_ite (State.restoreAll_keeps _ h) (optKeeps_none id) t e) _

/-! Launches that are complete. -/

theorem State.writeStatus_keeps {s : State} (h : s.wf = true) {l : Launch} {w : Word} : OptKeeps id (s.writeStatus l w) := by
  unfold State.writeStatus
  split
  · exact optKeeps_none _
  · refine optKeeps_map fun t e => ?_
    have ht : t.wf = true := optKeeps_bind (fun u eu => State.writeRange_keeps (State.writeRange_keeps h u eu)) t e
    dsimp only
    split
    · exact State.ms_wf ht (State.wf_ms ht)
    · exact ht

theorem State.complete_wf {s : State} (h : s.wf = true) {l : Launch} : (s.complete l).wf = true := by
  unfold State.complete
  dsimp only
  generalize hr : (if l.status = 0 then _ else _ : State × Word) = r
  have hw : r.1.wf = true := by
    subst hr
    refine fst_wf_ite h ?_
    split
    · next t e => exact State.writeStatus_keeps h t e
    · exact h
  exact State.wf_same hw rfl rfl rfl rfl rfl

theorem execLaunchComplete_keeps {s : State} (h : s.wf = true) {lid : BitVec 16} : Keeps (execLaunchComplete lid s) := by
  unfold execLaunchComplete
  split
  · exact keeps_report h _
  · exact keeps_ite (keeps_report (State.complete_wf h) _) (keeps_report h _)

end Sys2Proof.Machine
end

section
/-! Every memory stays canonical: the device's outside, its links, and its directory. -/

namespace Sys2Proof.Machine

/-! Accesses from outside. -/

/-- The state that an outside access leaves stands in canonical form. -/
def Outside.Keeps (o : Outside) : Prop := ∀ t bs, o = .performed t bs → t.wf = true

theorem Outside.keeps_performed {s : State} (h : s.wf = true) {bs : List Byte} : (Outside.performed s bs).Keeps := fun _ _ e => by cases e; exact h
theorem Outside.keeps_lattice : Outside.lattice.Keeps := fun _ _ e => by cases e
theorem Outside.keeps_error : Outside.error.Keeps := fun _ _ e => by cases e
theorem Outside.keeps_held : Outside.held.Keeps := fun _ _ e => by cases e

theorem Outside.keeps_ite {x y : Outside} {c : Prop} [Decidable c] (hx : x.Keeps) (hy : y.Keeps) : (if c then x else y).Keeps := by
  split <;> assumption

/-- Where no place is found, nothing is performed. -/
theorem State.outsidePlace_error {s : State} {slot : Nat} {a : Word} {w : Bool} {e : Outside} (he : s.outsidePlace slot a w = .error e) :
    e.Keeps := by
  unfold State.outsidePlace at he
  split at he
  · cases he; exact Outside.keeps_error
  · split at he
    · cases he; exact Outside.keeps_ite Outside.keeps_lattice Outside.keeps_error
    · split at he
      · cases he; exact Outside.keeps_held
      · cases he

theorem State.outsideRead_keeps {s : State} (h : s.wf = true) {slot : Nat} {a : Word} {n : Nat} : (s.outsideRead slot a n).Keeps := by
  unfold State.outsideRead
  split
  · next e he => exact State.outsidePlace_error he
  · next p _ =>
    refine Outside.keeps_ite (Outside.keeps_performed h) (Outside.keeps_ite Outside.keeps_error (Outside.keeps_performed ?_))
    exact State.ms_wf h (ite_wf (MemSys.homeRead_wf (State.wf_ms h) p) (State.wf_ms h))

theorem State.outsideWrite_keeps {s : State} (h : s.wf = true) {slot : Nat} {a : Word} {bs : List Byte} : (s.outsideWrite slot a bs).Keeps := by
  unfold State.outsideWrite
  split
  · next e he => exact State.outsidePlace_error he
  · exact Outside.keeps_performed (State.homePutLine_wf h)

theorem State.outsideAtomic_keeps {s : State} (h : s.wf = true) {slot : Nat} {a : Word} {op : AOp} {size b cmp : Nat} :
    (s.outsideAtomic slot a op size b cmp).Keeps := by
  unfold State.outsideAtomic
  split
  · next e he => exact State.outsidePlace_error he
  · next p _ =>
    have own := ite_wf (c := p.coherent = true) (MemSys.homeOwn_wf (State.wf_ms h) p.line) (State.wf_ms h)
    refine Outside.keeps_ite ?_ (Outside.keeps_ite Outside.keeps_error ?_)
    · split
      · exact Outside.keeps_performed h
      · exact Outside.keeps_performed (State.homePutLine_wf h)
    · dsimp only
      split
      · exact Outside.keeps_performed (State.ms_wf h own)
      · exact Outside.keeps_performed (State.ms_wf h (MemSys.homeWrite_wf own ..))

theorem State.outsideReq_keeps {s : State} (h : s.wf = true) {slot : Nat} {a : Word} {req : HostReq} {host : Bool} :
    (s.outsideReq slot a req host).Keeps := by
  cases req with
  | read n => exact State.outsideRead_keeps h
  | write bs => exact State.outsideWrite_keeps h
  | atomic o sz x cmp =>
    unfold State.outsideReq
    dsimp only
    split
    · next e he => exact State.outsidePlace_error he
    · exact Outside.keeps_ite (State.outsideRead_keeps h) (State.outsideAtomic_keeps h)

theorem State.outsideEvent_keeps {s : State} (h : s.wf = true) {o : Outside} (ho : o.Keeps) {kind src : Nat} {answer : Completion → State → State}
    (ha : ∀ c t, t.wf = true → (answer c t).wf = true) : Keeps (s.outsideEvent o kind src answer) := by
  cases o with
  | performed t bs => exact State.event_keeps h (optKeeps_some (ha _ _ (ho t bs rfl)))
  | lattice => exact State.event_keeps h (optKeeps_some (ha _ _ (State.notice_wf h)))
  | error => exact State.event_keeps h (optKeeps_some (ha _ _ h))
  | held => exact keeps_report h _

theorem answerHost_wf (c : Completion) (s : State) (h : s.wf = true) : (answerHost c s).wf = true := State.plat_wf h
theorem answerPeer_wf (c : Completion) (s : State) (h : s.wf = true) : (answerPeer c s).wf = true := State.plat_wf h

theorem State.keeps_idleOut {s : State} (h : s.wf = true) : Keeps s.idleOut := keeps_report h _

theorem State.keeps_some {s t : State} (h : t.wf = true) : Keeps (s.event (some t)) := keeps_report h _

theorem execHostWindowAccess_keeps {s : State} (h : s.wf = true) {a : BitVec 64} {req : HostReq} : Keeps (execHostWindowAccess a req s) := by
  refine keeps_ite (State.keeps_idleOut h) ?_
  split
  · exact State.outsideEvent_keeps h Outside.keeps_error answerHost_wf
  · exact keeps_ite (State.outsideEvent_keeps h Outside.keeps_error answerHost_wf)
      (State.outsideEvent_keeps h (State.outsideReq_keeps h) answerHost_wf)

theorem State.peerEvent_keeps {s : State} (h : s.wf = true) {off : BitVec 48} {f : State → Nat → Word → Outside}
    (hf : ∀ t n a, t.wf = true → (f t n a).Keeps) : Keeps (s.peerEvent off f) := by
  have hd := State.draw_wf h
  unfold State.peerEvent
  dsimp only
  split
  · exact State.keeps_idleOut h
  · exact State.outsideEvent_keeps hd (Outside.keeps_ite Outside.keeps_held (Outside.keeps_ite Outside.keeps_error (hf _ _ _ hd))) answerPeer_wf

theorem execPeerAccess_keeps {s : State} (h : s.wf = true) {off : BitVec 48} {req : HostReq} : Keeps (execPeerAccess off req s) :=
  keeps_ite (State.keeps_idleOut h) (State.peerEvent_keeps h fun _ _ _ ht => State.outsideReq_keeps ht)

theorem Outside.mute_keeps {o : Outside} (h : o.Keeps) : o.mute.Keeps := by
  cases o with
  | performed t bs => exact Outside.keeps_performed (h t bs rfl)
  | lattice => exact Outside.keeps_lattice
  | error => exact Outside.keeps_error
  | held => exact Outside.keeps_held

theorem execReductionWrite_keeps {s : State} (h : s.wf = true) {off : BitVec 48} {op : Fin 9} {sz : BitVec 1} {x : BitVec 64} :
    Keeps (execReductionWrite off op sz x s) :=
  keeps_ite (State.keeps_idleOut h) (State.peerEvent_keeps h fun _ _ _ ht => Outside.mute_keeps (State.outsideAtomic_keeps ht))

/-! The control pages. -/

theorem State.pageEvent_keeps {s t : State} (h : s.wf = true) (ht : t.wf = true) : Keeps (s.pageEvent t) :=
  keeps_ite (State.keeps_idleOut h) (State.keeps_some ht)

theorem State.submitAt_wf {s : State} (h : s.wf = true) {q : Nat} {a : Word} : (s.submitAt q a).2.wf = true := by
  unfold State.submitAt
  dsimp only
  split
  · exact h
  · refine snd_wf_ite h ?_
    split
    · exact h
    · exact State.accept_wf h

theorem execSubmit_keeps {s : State} (h : s.wf = true) {q : Fin 32} {a : BitVec 64} : Keeps (execSubmit q a s) := by
  unfold execSubmit
  exact State.pageEvent_keeps h (State.plat_wf (snd_wf_ite (State.submitAt_wf h) h))

theorem execHqlid_keeps {s : State} (h : s.wf = true) {l : BitVec 16} : Keeps (execHqlid l s) := State.pageEvent_keeps h (State.plat_wf h)

theorem MemSys.putKey_wf {m : MemSys} (h : m.Wf) {n : Nat} {k : KeySlot} : (m.putKey n k).Wf := h

theorem State.putKey_wf {s : State} (h : s.wf = true) {n : Nat} {k : KeySlot} : ({ s with ms := s.ms.putKey n k } : State).wf = true :=
  State.ms_wf h (MemSys.putKey_wf (State.wf_ms h))

theorem State.keyEvent_keeps {s : State} (h : s.wf = true) {slot : BitVec 10} {f : State → State} (hf : ∀ t, t.wf = true → (f t).wf = true) :
    Keeps (s.keyEvent slot f) := State.pageEvent_keeps h (hf _ (State.plat_wf h))

theorem State.endKey_wf {s : State} (h : s.wf = true) {n : Nat} {k : KeySlot} : (s.endKey n k).wf = true := State.free_wf (State.putKey_wf h)

theorem execKsLoad_keeps {s : State} (h : s.wf = true) {slot : BitVec 10} {keys : BitVec 512} : Keeps (execKsLoad slot keys s) := by
  unfold execKsLoad
  refine State.keyEvent_keeps h ?_
  exact fun _ ht => State.plat_wf (State.putKey_wf ht)

theorem execKsInvalidate_keeps {s : State} (h : s.wf = true) {slot : BitVec 10} : Keeps (execKsInvalidate slot s) := by
  unfold execKsInvalidate
  refine State.keyEvent_keeps h ?_
  exact fun _ ht => State.wf_ite (State.endKey_wf ht) ht

theorem execKsErase_keeps {s : State} (h : s.wf = true) {slot : BitVec 10} : Keeps (execKsErase slot s) := by
  unfold execKsErase
  refine State.keyEvent_keeps h ?_
  exact fun _ ht => State.wf_ite (State.endKey_wf ht) (State.putKey_wf ht)

theorem execUalinkPortLoss_keeps {s : State} (h : s.wf = true) {p : Fin 16} : Keeps (execUalinkPortLoss p s) :=
  keeps_ite (State.keeps_idleOut h) (State.keeps_some (State.notice_wf (State.plat_wf h)))

theorem execCxlPortError_keeps {s : State} (h : s.wf = true) {p : Fin 8} {l : Bool} : Keeps (execCxlPortError p l s) :=
  State.keeps_some (s := s) (State.notice_wf (State.plat_wf h))

/-! Reset and boot. -/

theorem State.agenda_wf {s : State} (h : s.wf = true) {l : List Turn} : ({ s with agenda := l } : State).wf = true := State.rest_wf h

theorem State.deviceReset_wf {s : State} (h : s.wf = true) : s.deviceReset.wf = true := by
  have hm : ({ MemSys.reset with main := s.ms.main, host := s.ms.host, peer := s.ms.peer, lineKeys := s.ms.lineKeys, poison := s.ms.poison }
    : MemSys).Wf := State.wf_ms h
  exact State.wf_same (State.ms_wf reset_wf hm) rfl rfl rfl rfl rfl

theorem execDeviceReset_keeps {s : State} (h : s.wf = true) {l : List (BitVec 40)} : Keeps (execDeviceReset l s) :=
  State.keeps_some (s := s) (State.wf_ite (State.plat_wf h) (State.deviceReset_wf h))

theorem MemSys.installImage_wf {m : MemSys} (h : m.Wf) {bs : List Byte} : (m.installImage bs).Wf := by
  unfold MemSys.installImage
  dsimp only
  refine MemSys.homeBytesPut_wf (MemSys.homeBytesPut_wf (MemSys.homeBytesPut_wf (MemSys.foldl_wf h ?_)))
  exact fun _ f hm => MemSys.zeroFrame_wf hm f

theorem State.bootFailed_wf {s : State} (h : s.wf = true) {n : Nat} : (s.bootFailed n).wf = true := State.plat_wf h

theorem State.bootLaunch_wf {s : State} (h : s.wf = true) : s.bootLaunch.wf = true :=
  State.wf_ite (State.plat_wf (State.submitAt_wf h)) (State.bootFailed_wf h)

theorem State.endBootLoad_wf {s : State} (h : s.wf = true) {a b : Bool} : (s.endBootLoad a b).wf = true := by
  have failed {n} := State.bootFailed_wf h (n := n)
  unfold State.endBootLoad
  dsimp only
  refine State.wf_ite failed (State.wf_ite failed (State.wf_ite failed (State.wf_ite failed (State.bootLaunch_wf (State.setDev_wf ?_ _ _)))))
  exact State.ms_wf h (MemSys.installImage_wf (State.wf_ms h))

theorem execBootLoad_keeps {s : State} (h : s.wf = true) {a n : BitVec 64} {x y : Bool} : Keeps (execBootLoad a n x y s) :=
  keeps_ite (State.pageEvent_keeps h (State.plat_wf h)) (keeps_ite (State.pageEvent_keeps h (State.endBootLoad_wf h)) (State.keeps_idleOut h))

/-! Exchanges of lattice replicas. -/

theorem State.sendReplica_wf {s : State} (h : s.wf = true) {k d : Fin 8} {u : Nat × Nat} : (s.sendReplica k d u).wf = true := by
  unfold State.sendReplica
  dsimp only
  split
  · exact h
  · split
    · exact h
    · refine State.wf_ite h (State.lat_wf (State.foldl_wf h ?_))
      exact fun _ _ ht => State.sendMsg_wf ht

theorem State.exchange_wf {s : State} (h : s.wf = true) {k : Fin 8} {n : Nat} : (s.exchange k n).wf = true := by
  unfold State.exchange
  refine State.foldl_wf (State.lat_wf h) fun t d ht => State.wf_ite ht (State.foldl_wf ht ?_)
  exact fun _ _ hu => State.sendReplica_wf hu

theorem State.exchanges_wf {k : Fin 8} {hi : Nat} (n : Nat) : ∀ {s : State}, s.wf = true → ∀ {lo}, (s.exchanges k lo hi n).wf = true := by
  induction n with
  | zero => exact fun h => h
  | succ n ih => exact fun h => State.wf_ite (ih (State.exchange_wf h)) h

theorem State.exchangesOver_wf {s : State} (h : s.wf = true) {dt : Nat} : (s.exchangesOver dt).wf = true := by
  refine State.foldl_wf h ?_
  exact fun _ _ ht => State.wf_ite (State.exchanges_wf _ ht) ht

theorem execExchangeInstant_keeps {s : State} (h : s.wf = true) {k : Fin 8} : Keeps (execExchangeInstant k s) :=
  keeps_ite (State.keeps_idleOut h) (State.keeps_some (State.exchange_wf h))

theorem execExchangeLineDelivery_keeps {s : State} (h : s.wf = true) : Keeps (execExchangeLineDelivery s) := by
  unfold execExchangeLineDelivery
  split
  · refine State.keeps_some ?_
    split
    · exact State.lat_wf h
    · split
      · exact State.lat_wf h
      · exact State.absorbCells_wf _ (State.lat_wf h)
  · exact State.keeps_idleOut h

/-! Links, islands and dies. -/

theorem execFlitReceive_keeps {s : State} (h : s.wf = true) {l : Fin 14} {d : Fin 2} {ok : Bool} : Keeps (execFlitReceive l d ok s) :=
  keeps_ite (State.keeps_idleOut h) (State.keeps_some (State.receiveFlit_wf h))

theorem execFlitReplay_keeps {s : State} (h : s.wf = true) {l : Fin 14} {d : Fin 2} : Keeps (execFlitReplay l d s) :=
  keeps_ite (State.keeps_idleOut h) (State.keeps_some (State.replayFlits_wf h))

theorem execFlitAck_keeps {s : State} (h : s.wf = true) {l : Fin 14} {d : Fin 2} : Keeps (execFlitAck l d s) :=
  keeps_ite (State.keeps_idleOut h) (State.keeps_some (State.ackFlits_wf h))

theorem execLinkStopEnd_keeps {s : State} (h : s.wf = true) {l : Fin 14} : Keeps (execLinkStopEnd l s) :=
  keeps_ite (State.keeps_some (State.endLinkStop_wf h)) (State.keeps_idleOut h)

theorem execIslandStopEnd_keeps {s : State} (h : s.wf = true) {i : Fin 76} : Keeps (execIslandStopEnd i s) :=
  keeps_ite (State.keeps_some (State.onIsland_wf h)) (State.keeps_idleOut h)

theorem execBallastEnd_keeps {s : State} (h : s.wf = true) {d : Fin 8} : Keeps (execBallastEnd d s) :=
  keeps_ite (State.keeps_some (State.onDie_wf h)) (State.keeps_idleOut h)

/-! Directory transactions. -/

/-- The memory system of whatever an option gives stands in canonical form. -/
def MemSys.OptWf (r : Option MemSys) : Prop := ∀ m, r = some m → m.Wf

theorem MemSys.optWf_none : MemSys.OptWf none := fun _ e => by cases e
theorem MemSys.optWf_some {m : MemSys} (h : m.Wf) : MemSys.OptWf (some m) := fun _ e => by cases e; exact h

theorem MemSys.optWf_ite {x y : Option MemSys} {c : Prop} [Decidable c] (hx : MemSys.OptWf x) (hy : MemSys.OptWf y) :
    MemSys.OptWf (if c then x else y) := by split <;> assumption

theorem MemSys.optWf_map {α : Type} {o : Option α} {f : α → MemSys} (hf : ∀ a, (f a).Wf) : MemSys.OptWf (o.map f) := by
  intro m e
  obtain ⟨a, -, rfl⟩ := Option.map_eq_some_iff.mp e
  exact hf a

theorem State.memEvent_keeps {s : State} (h : s.wf = true) {r : Option MemSys} (hr : MemSys.OptWf r) : Keeps (s.memEvent r) :=
  State.event_keeps h (optKeeps_map fun m e => State.ms_wf h (hr m e))

theorem State.atDie_keeps {s : State} (h : s.wf = true) {d : Fin 8} {r : Option MemSys} (hr : MemSys.OptWf r) : Keeps (s.atDie d r) :=
  State.memEvent_keeps h (MemSys.optWf_ite MemSys.optWf_none hr)

theorem State.atHome_keeps {s : State} (h : s.wf = true) {line : Nat} {r : Option MemSys} (hr : MemSys.OptWf r) : Keeps (s.atHome line r) := by
  unfold State.atHome
  split
  · exact State.atDie_keeps h hr
  · exact State.memEvent_keeps h MemSys.optWf_none

theorem execHomeSliceAccess_keeps {s : State} (h : s.wf = true) {p : MemRef} {x : Option (BitVec 64)} : Keeps (execHomeSliceAccess p x s) := by
  unfold execHomeSliceAccess
  refine keeps_ite (State.keeps_idleOut h) ?_
  split
  · next t bs e =>
    refine State.keeps_some ?_
    cases x with
    | none => exact State.outsideRead_keeps h t bs e
    | some y => exact State.outsideWrite_keeps h t bs e
  · exact State.keeps_idleOut h

/-! Transactions and requests are no part of the form. -/

theorem MemSys.orders_wf {m : MemSys} (h : m.Wf) {trans reqs : List DirTrans} : ({ m with trans := trans, reqs := reqs } : MemSys).Wf := h

theorem State.takeUp_wf {s : State} (h : s.wf = true) {q : DirReq} {p : MemRef} {d : Fin 8} : MemSys.OptWf (s.takeUp q p d) := by
  unfold State.takeUp
  split
  · exact MemSys.optWf_none
  · refine MemSys.optWf_ite MemSys.optWf_none (MemSys.optWf_some (ite_wf ?_ ?_))
    all_goals exact MemSys.orders_wf (State.wf_ms h)

theorem MemSys.takeQueued_wf {m : MemSys} (h : m.Wf) : m.takeQueued.Wf := by
  refine MemSys.foldl_wf (MemSys.orders_wf h) ?_
  exact fun _ _ hm => ite_wf (MemSys.orders_wf hm) (MemSys.orders_wf hm)

theorem MemSys.putTrans_wf {m : MemSys} (h : m.Wf) {t : DirTrans} : (m.putTrans t).Wf := h

theorem MemSys.dieLines_wf {m : MemSys} (h : m.Wf) {l : List DieLine} : ({ m with dieLines := l } : MemSys).Wf := h

theorem MemSys.probe_wf {m : MemSys} (h : m.Wf) {x : Probe} {line : Nat} {d : Fin 8} : MemSys.OptWf (m.probe x line d) := by
  unfold MemSys.probe
  dsimp only
  split
  · exact MemSys.optWf_none
  · refine MemSys.optWf_ite MemSys.optWf_none (MemSys.optWf_some (MemSys.putTrans_wf ?_))
    split
    · exact MemSys.dieLines_wf h
    · exact MemSys.dropLine_wf h ..
    · exact h

theorem MemSys.acked_wf {m : MemSys} (h : m.Wf) {line : Nat} {d : Fin 8} : MemSys.OptWf (m.acked line d) := by
  unfold MemSys.acked
  split
  · exact MemSys.optWf_none
  · refine MemSys.optWf_ite MemSys.optWf_none (MemSys.optWf_some (MemSys.putTrans_wf ?_))
    split
    · exact MemSys.returnLine_wf h _
    · exact h

theorem MemSys.granted_wf {m : MemSys} (h : m.Wf) {line : Nat} {d : Fin 8} : MemSys.OptWf (m.granted line d) := by
  have ho {l} := MemSys.orders_wf h (trans := l) (reqs := m.reqs)
  unfold MemSys.granted
  dsimp only
  split
  · exact MemSys.optWf_none
  · refine MemSys.optWf_ite MemSys.optWf_none (MemSys.optWf_some (MemSys.takeQueued_wf ?_))
    split
    · exact MemSys.rdS_wf ho ..
    · exact MemSys.putLine_wf (MemSys.rdX_wf ho ..) _

theorem execRds_keeps {s : State} (h : s.wf = true) {p : MemRef} {d : Fin 8} : Keeps (execRds p d s) := State.memEvent_keeps h (State.takeUp_wf h)
theorem execRdx_keeps {s : State} (h : s.wf = true) {p : MemRef} {d : Fin 8} : Keeps (execRdx p d s) := State.memEvent_keeps h (State.takeUp_wf h)
theorem execUpg_keeps {s : State} (h : s.wf = true) {p : MemRef} {d : Fin 8} : Keeps (execUpg p d s) := State.memEvent_keeps h (State.takeUp_wf h)

theorem execInv_keeps {s : State} (h : s.wf = true) {line : Nat} {d : Fin 8} : Keeps (execInv line d s) :=
  State.atDie_keeps h (MemSys.probe_wf (State.wf_ms h))

theorem execRecallS_keeps {s : State} (h : s.wf = true) {line : Nat} {d : Fin 8} : Keeps (execRecallS line d s) :=
  State.atDie_keeps h (MemSys.probe_wf (State.wf_ms h))

theorem execRecallI_keeps {s : State} (h : s.wf = true) {line : Nat} {d : Fin 8} : Keeps (execRecallI line d s) :=
  State.atDie_keeps h (MemSys.probe_wf (State.wf_ms h))

theorem execDirectoryAck_keeps {s : State} (h : s.wf = true) {line : Nat} {d : Fin 8} : Keeps (execDirectoryAck line d s) :=
  State.atHome_keeps h (MemSys.acked_wf (State.wf_ms h))

theorem execGrant_keeps {s : State} (h : s.wf = true) {line : Nat} {d : Fin 8} : Keeps (execGrant line d s) :=
  State.atHome_keeps h (MemSys.granted_wf (State.wf_ms h))

theorem execPutc_keeps {s : State} (h : s.wf = true) {line : Nat} {d : Fin 8} : Keeps (execPutc line d s) :=
  State.atDie_keeps h (MemSys.optWf_map fun x => MemSys.replace_wf (State.wf_ms h) x)

theorem execPutm_keeps {s : State} (h : s.wf = true) {line : Nat} {d : Fin 8} : Keeps (execPutm line d s) :=
  State.atDie_keeps h (MemSys.optWf_map fun x => MemSys.replace_wf (State.wf_ms h) x)

/-! The patrol. -/

theorem MemSys.disableWay_wf {m : MemSys} (h : m.Wf) {d : Fin 8} {l : BitVec 56} : (m.disableWay d l).Wf := by
  have hu {w} : ({ m with waysOff := w } : MemSys).Wf := h
  exact ite_wf h (ite_wf (MemSys.trim_wf hu ..) hu)

theorem State.corrected_wf {s : State} (h : s.wf = true) {d : Fin 8} {u : BitVec 2} {l : BitVec 56} : (s.corrected d u l).wf = true := by
  have hd {f} := State.onDie_wf h (d := d) (f := f)
  unfold State.corrected
  dsimp only
  refine State.wf_ite hd (State.wf_ite (State.fenceCore_wf hd) (State.wf_ite (State.notice_wf ?_) (State.notice_wf hd)))
  exact State.ms_wf hd (MemSys.disableWay_wf (State.wf_ms hd))

theorem State.poisoned_keeps {s : State} (h : s.wf = true) {u : BitVec 2} {l : BitVec 56} : OptKeeps id (s.poisoned u l) := by
  refine optKeeps_ite (optKeeps_some (State.onCore_wf_of_wf h ?_)) (optKeeps_ite (optKeeps_none _) (optKeeps_some (State.ms_wf h ?_)))
  · exact fun _ hc => Storage.rest_wf hc
  · exact State.wf_ms h

theorem execPatrolScrub_keeps {s : State} (h : s.wf = true) {d : Fin 8} {u : BitVec 2} {l : BitVec 56} {n : Fin 3} :
    Keeps (execPatrolScrub d u l n s) :=
  keeps_ite (State.keeps_idleOut h) (keeps_ite (State.keeps_some h) (keeps_ite (State.keeps_some (State.corrected_wf h))
    (State.event_keeps h (State.poisoned_keeps h))))

end Sys2Proof.Machine
end

section
/-! Every memory stays canonical: every instruction of a bundle. -/

namespace Sys2Proof.Machine

theorem State.flatCopy_keeps {s : State} (h : s.wf = true) {l : Long} {ch : BitVec 3} {i : Instr} {a b c : Reg} {n : Nat}
    {f : Nat → Option Nat} {e : Bool} : Keeps (s.flatCopy l ch i a b c n f e) := by
  unfold State.flatCopy
  exact State.issueChan_keeps h

theorem execCopyj_keeps {s : State} (h : s.wf = true) {l : Long} {ch : BitVec 3} {a b c : Reg} : Keeps (execCopyj l ch a b c s) := by
  unfold execCopyj
  exact State.flatCopy_keeps h

theorem execGather_keeps {s : State} (h : s.wf = true) {l : Long} {ch : BitVec 3} {a b c : Reg} {n : BitVec 5} {z : BitVec 2} :
    Keeps (execGather l ch a b c n z s) := by
  unfold execGather
  exact State.issueChan_keeps h

theorem execScatter_keeps {s : State} (h : s.wf = true) {l : Long} {ch : BitVec 3} {a b c : Reg} {n : BitVec 5} {z : BitVec 2} :
    Keeps (execScatter l ch a b c n z s) := by
  unfold execScatter
  exact State.issueChan_keeps h

theorem State.seqrun_keeps {s : State} (h : s.wf = true) {l : Long} {ch : BitVec 3} {slot : BitVec 4} {a b : Reg} {i : Instr} {k : Nat} :
    Keeps (s.seqrun l ch slot a b i k) := by
  unfold State.seqrun
  exact State.issueChan_keeps h

/-- Every instruction of a bundle keeps the form; what is none changes nothing here. -/
theorem issueInstr_keeps (i : Instr) (s : State) (h : s.wf = true) : Keeps (issueInstr i s) := by
  cases i with
  | add | sub | mul | mulh | mulhn | div | divn | rem | remn | min | max | minn | maxn | and | or | xor | andn | orn | shl
  | shr | sra | rol | ror | clz | ctz | popc | brev | bswap | sextI8 | sextI16 | sextI32 | zextN8 | zextN16 | zextN32 | pget
  | sel | lea | gaddr | addi | andi | ori | xori | shli | shri | srai | rori | li | lix | rdcad | locq | vlane => exact keeps_setG h _ _
  | addt | subt | mult => exact keeps_ite (keeps_setG h _ _) (keeps_fault h _ _)
  | cmpeq | cmpne | cmplt | cmple | cmpltn | cmplen | tstnz | pand | por | pxor | pandn | pnot | pset | cmpeqi | cmpnei
  | cmplti | cmplei | cmpgti | cmpgei | cmpltni | cmpgtni => exact keeps_setP h _ _
  | b => exact execB_keeps h
  | call => exact execCall_keeps h
  | jmpr => exact execJmpr_keeps h
  | callr => exact execCallr_keeps h
  | loop => exact execLoop_keeps h
  | mfs => exact execMfs_keeps h
  | mts => exact execMts_keeps h
  | tshape => exact execTshape_keeps h
  | trap => exact execTrap_keeps h
  | sret => exact execSret_keeps h
  | idle => exact execIdle_keeps h
  | nop | pref => exact keeps_next h
  | ld | lda => exact State.loadTo_keeps h
  | st | str => exact State.storeFrom_keeps h
  | fence => exact execFence_keeps h
  | fencea => exact keeps_next (State.fenceForms_wf (State.acquire_wf h _))
  | fencer => exact keeps_next (State.fenceForms_wf h)
  | wbr => exact execWbr_keeps h
  | invr => exact execInvr_keeps h
  | discard => exact execDiscard_keeps h
  | aadd | aand | aor | axor | amin | amax | aminn | amaxn | aswp | afadd | acas => exact State.atomic_keeps h
  | join => exact execJoin_keeps h
  | joina => exact execJoina_keeps h
  | ldlat => exact execLdlat_keeps h
  | ldge => exact execLdge_keeps h
  | tkwait => exact execTkwait_keeps h
  | tkpost => exact execTkpost_keeps h
  | qpush => exact execQpush_keeps h
  | qpop => exact execQpop_keeps h
  | sclaim => exact execSclaim_keeps h
  | sfill => exact execSfill_keeps h
  | swfill => exact execSwfill_keeps h
  | srel => exact execSrel_keeps h
  | swfree => exact execSwfree_keeps h
  | clinit => exact execClinit_keeps h
  | clexpect => exact execClexpect_keeps h
  | clarrive => exact execClarrive_keeps h
  | clwait => exact execClwait_keeps h
  | clbase => exact execClbase_keeps h
  | publ => exact execPubl_keeps h
  | launch => exact execLaunch_keeps h
  | pwracq => exact execPwracq_keeps h
  | pwrrel => exact keeps_next (State.onRg_wf h _)
  | exit => exact execExit_keeps h
  | end_ => exact execEnd_keeps h
  | tdesc => exact execTdesc_keeps h
  | seqcfg => exact execSeqcfg_keeps h
  | seqrunCopy | seqrunGather | seqrunScatter | seqrunCpyscl => exact State.seqrun_keeps h
  | copy | cpyscl => exact State.flatCopy_keeps h
  | copyj => exact execCopyj_keeps h
  | gather => exact execGather_keeps h
  | scatter => exact execScatter_keeps h
  | copymc => exact execCopymc_keeps h
  | qsend | qrecv => exact State.issueChan_keeps h
  | chwait => exact execChwait_keeps h
  | chwaitStage => exact execChwaitStage_keeps h
  | vaddI | vsubI | vmulI | vaddsI | vsubsI | vminI | vmaxI | vshlI | vshrI | vaddN | vsubN | vmulN | vaddsN | vsubsN | vminN
  | vmaxN | vshlN | vshrN | vbcst | vshuf | vaddF | vsubF | vmulF | vfma | vminF | vmaxF | vabs | vneg | vexp2 | vlog2 | vrcp
  | vrsq | vtanh | vrsum | vrmax | vrmin => exact keeps_setVF h
  | vcmpeqI | vcmpltI | vcmpleI | vcmpeqN | vcmpltN | vcmpleN | vcmpeqF | vcmpltF | vcmpleF | mand | mor | mxor | mandn
  | mnot => exact keeps_setMask h _ _
  | vand | vor | vxor | vandn | vsel | vmov => exact keeps_setV h _ _
  | vtopk => exact execVtopk_keeps h
  | vcvt => exact execVcvt_keeps h
  | vld => exact execVld_keeps h
  | vst => exact execVst_keeps h
  | vqpop => exact execVqpop_keeps h
  | vqpush => exact execVqpush_keeps h
  | fmtw => exact execFmtw_keeps h
  | tld => exact execTld_keeps h
  | tst => exact execTst_keeps h
  | tqld => exact execTqld_keeps h
  | tzero => exact execTzero_keeps h
  | ttrans => exact execTtrans_keeps h
  | tcvt => exact execTcvt_keeps h
  | tmma => exact execTmma_keeps h
  | tmmas => exact execTmmas_keeps h
  | tdrain => exact execTdrain_keeps h
  | tdrainadd => exact execTdrainadd_keeps h
  | hmrd => exact execHmrd_keeps h
  | hmclr => exact execHmclr_keeps h
  | _ => exact keeps_next h

/-- The device's own dispatch agrees with that of a bundle on every instruction. -/
theorem issueInstr_eq (i : Instr) (s : State) : issueInstr i s = if majorOfInstr i = 0 then .next s else exec i s := by
  cases i <;> rfl

theorem exec_keeps_of_instr {i : Instr} (hi : majorOfInstr i ≠ 0) {s : State} (h : s.wf = true) : Keeps (exec i s) := by
  have issued := issueInstr_keeps i s h
  rwa [issueInstr_eq, if_neg hi] at issued

end Sys2Proof.Machine
end

section
/-! Every memory stays canonical: the events of the device, and the step (R4, R8, R16, R20, R30, R45, R273). -/

namespace Sys2Proof.Machine

/-! Bundles that the device issues again. -/

theorem State.unlessStalled_keeps {s : State} (h : s.wf = true) {o : Out} (ho : Keeps o) : Keeps (s.unlessStalled o) := by
  cases o with
  | next t => exact keeps_ite (State.keeps_idleOut h) (keeps_next (ho t rfl))
  | fault r => exact keeps_fault_stop r
  | refused r => exact keeps_refused r

theorem State.reissue_keeps {s : State} (h : s.wf = true) {k : Fin 768} {x : Clu} {f : Part → Bool} : Keeps (s.reissue k x f) :=
  keeps_ite (State.unlessStalled_keeps h (State.tryBundle_keeps issueInstr_keeps h)) (State.keeps_idleOut h)

theorem execSyncRendezvous_keeps {s : State} (h : s.wf = true) {k : Fin 768} : Keeps (execSyncRendezvous k s) :=
  State.unlessStalled_keeps h (State.rendezvous_keeps issueInstr_keeps h)

theorem State.ir_wf {s : State} (h : s.wf = true) {ir : Ir} : ({ s with ir := ir } : State).wf = true := State.rest_wf h

theorem calmed_keeps {o : Out} (h : Keeps o) : Keeps (calmed o) := by
  cases o with
  | next t => exact keeps_next (State.ir_wf (h t rfl))
  | fault r => exact keeps_fault_stop r
  | refused r => exact keeps_refused r

theorem execStampedIssue_keeps {s : State} (h : s.wf = true) {on : Struck} : Keeps (execStampedIssue on s) :=
  keeps_ite (State.unlessStalled_keeps h (calmed_keeps (State.runBundle_keeps issueInstr_keeps (State.ir_wf h)))) (State.keeps_idleOut h)

theorem execScheduleMiss_keeps {s : State} (h : s.wf = true) {k : Fin 768} : Keeps (execScheduleMiss k s) := by
  have ht : (s.asClu k .m).wf = true := State.asClu_wf h
  unfold execScheduleMiss
  dsimp only
  split
  · exact State.keeps_idleOut h
  · refine keeps_ite (State.keeps_idleOut h) (keeps_ite ?_ ?_)
    · exact State.unlessStalled_keeps h (State.runBundle_keeps issueInstr_keeps (State.onCl_wf ht _))
    · split
      · next u f e => exact keeps_refuseBundle (State.nextBundle_wf ht e) _ _ _ _ _
      · exact State.keeps_idleOut h

theorem execWatermarkRelease_keeps {s : State} (h : s.wf = true) {k : Fin 768} {x : Clu} : Keeps (execWatermarkRelease k x s) := by
  unfold execWatermarkRelease
  split
  · next t e => exact keeps_report (optKeeps_ite (State.finishForm_keeps (State.asClu_wf h)) (optKeeps_none id) t e) _
  · exact State.reissue_keeps h

theorem State.timeOut_keeps {s : State} (h : s.wf = true) {k : Fin 768} {x : Clu} {f : Part → Bool} {c : Nat} : Keeps (s.timeOut k x f c) := by
  have ht : (s.asClu k x).wf = true := State.asClu_wf h
  have tried := State.tryBundle_keeps issueInstr_keeps ht (k := k) (x := x) (meet := true)
  unfold State.timeOut
  dsimp only
  split
  · refine keeps_ite (State.keeps_idleOut h) ?_
    split
    · split
      · next v g _ e => exact keeps_refuseBundle (State.nextBundle_wf ht e) _ _ _ _ _
      · exact State.keeps_idleOut h
    · exact tried
  · exact State.keeps_idleOut h

/-! Power, traps and registers. -/

theorem execPowerGrant_keeps {s : State} (h : s.wf = true) {d : Fin 8} {a b : Bool} : Keeps (execPowerGrant d a b s) :=
  keeps_ite (State.keeps_idleOut h) (keeps_report (State.examineHead_wf h) _)

theorem execTrapDelivery_keeps {s : State} (h : s.wf = true) {k : Fin 768} {x : Clu} : Keeps (execTrapDelivery k x s) := by
  refine keeps_ite (State.keeps_idleOut h) ?_
  split
  · exact State.keeps_idleOut h
  · exact keeps_report (State.deliver_wf (State.onCore_rest_wf h) ..) _

theorem execHandlerTimeout_keeps {s : State} (h : s.wf = true) {k : Fin 768} {x : Clu} : Keeps (execHandlerTimeout k x s) := by
  unfold execHandlerTimeout
  dsimp only
  split
  · exact State.keeps_idleOut h
  · exact keeps_ite (State.keeps_idleOut h) (keeps_report (State.machineCheck_wf h) _)

theorem State.putRegister_keeps {s : State} (h : s.wf = true) {k : Fin 768} {n : Nat} {v : Word} : Keeps (s.putRegister k n v) := by
  refine keeps_ite (State.keeps_idleOut h) ?_
  split
  · exact State.keeps_idleOut h
  · exact State.unlessStalled_keeps h (State.regFrom_keeps (State.report_wf (State.asClu_wf h)))

theorem execWake_keeps {s : State} (h : s.wf = true) {k : Fin 768} {m : BitVec 4} : Keeps (execWake k m s) := State.putRegister_keeps h

theorem execRegisterWrite_keeps {s : State} (h : s.wf = true) {k : Fin 768} {n : BitVec 12} {v : BitVec 64} :
    Keeps (execRegisterWrite k n v s) := State.putRegister_keeps h

theorem execIftComplete_keeps {s : State} (h : s.wf = true) {p : Bool} : Keeps (execIftComplete p s) :=
  keeps_ite (State.keeps_idleOut h) (keeps_report (State.notice_wf (State.plat_wf h)) _)

theorem State.shootEvent_keeps {s : State} (h : s.wf = true) {n : Nat} {v : Word} : Keeps (s.shootEvent n v) :=
  keeps_ite (keeps_report (State.shootRequest_wf h) _) (State.keeps_idleOut h)

theorem execLrtLoad_keeps {s : State} (h : s.wf = true) {a : BitVec 64} : Keeps (execLrtLoad a s) :=
  keeps_ite (State.keeps_idleOut h) (keeps_report (State.loadTable_wf h) _)

/-! Every instruction and event. -/

theorem exec_keeps (i : Instr) (s : State) (h : s.wf = true) : Keeps (exec i s) := by
  by_cases hi : majorOfInstr i = 0
  · cases i with
    | vectorFormFinish => exact execVectorFormFinish_keeps h
    | syncRendezvous => exact execSyncRendezvous_keeps h
    | stalledBundleIssue | strandWaitEnd | claspWaitPass | latticeWaitPass => exact State.reissue_keeps h
    | stampedIssue => exact execStampedIssue_keeps h
    | scheduleMiss => exact execScheduleMiss_keeps h
    | matrixCommandStart => exact execMatrixCommandStart_keeps h
    | matrixCommandFinish => exact execMatrixCommandFinish_keeps h
    | hallmarkCompare => exact execHallmarkCompare_keeps h
    | assayStart => exact execAssayStart_keeps h
    | assayVerdict => exact execAssayVerdict_keeps h
    | locketRelease => exact execLocketRelease_keeps h
    | channelCommandStart => exact execChannelCommandStart_keeps h
    | copyPiece => exact execCopyPiece_keeps h
    | pieceArrival => exact execPieceArrival_keeps h
    | sequencerEmission => exact execSequencerEmission_keeps h
    | multicastArrival => exact execMulticastArrival_keeps h
    | watermarkRelease => exact execWatermarkRelease_keeps h
    | channelCommandFinish => exact execChannelCommandFinish_keeps h
    | chwaitFinish => exact execChwaitFinish_keeps h
    | claspTimeout | latticeTimeout => exact State.timeOut_keeps h
    | powerGrant => exact execPowerGrant_keeps h
    | trapDelivery => exact execTrapDelivery_keeps h
    | handlerTimeout => exact execHandlerTimeout_keeps h
    | taskRetire => exact execTaskRetire_keeps h
    | walkerPlace c => exact execWalkerPlace_keeps h (choice := c)
    | saveComplete => exact execSaveComplete_keeps h
    | restoreIssueStart => exact execRestoreIssueStart_keeps h
    | launchComplete => exact execLaunchComplete_keeps h
    | homeSliceAccess => exact execHomeSliceAccess_keeps h
    | rds => exact execRds_keeps h
    | rdx => exact execRdx_keeps h
    | upg => exact execUpg_keeps h
    | putc => exact execPutc_keeps h
    | putm => exact execPutm_keeps h
    | directoryAck => exact execDirectoryAck_keeps h
    | inv => exact execInv_keeps h
    | recallS => exact execRecallS_keeps h
    | recallI => exact execRecallI_keeps h
    | grant => exact execGrant_keeps h
    | exchangeInstant => exact execExchangeInstant_keeps h
    | exchangeLineDelivery => exact execExchangeLineDelivery_keeps h
    | flitReceive => exact execFlitReceive_keeps h
    | flitReplay => exact execFlitReplay_keeps h
    | flitAck => exact execFlitAck_keeps h
    | linkStopEnd => exact execLinkStopEnd_keeps h
    | laneRetirement => exact keeps_report (State.retireGroup_wf h) _
    | lkctlRateChange | lkctlRetire | lkctlRetire1 => exact keeps_ite (State.keeps_idleOut h) (keeps_report (State.writeLkctl_wf h) _)
    | clockStretch => exact keeps_report (State.stretchIsland_wf h) _
    | istateWrite => exact keeps_report (State.writeIstate_wf h) _
    | islandStopEnd => exact execIslandStopEnd_keeps h
    | capStretch => exact keeps_report (State.capStretch_wf h) _
    | ballastStart => exact keeps_report (State.ballastStart_wf h) _
    | ballastEnd => exact execBallastEnd_keeps h
    | hostWindowAccess => exact execHostWindowAccess_keeps h
    | submit => exact execSubmit_keeps h
    | hqlid => exact execHqlid_keeps h
    | ksLoad => exact execKsLoad_keeps h
    | ksInvalidate => exact execKsInvalidate_keeps h
    | ksErase => exact execKsErase_keeps h
    | peerAccess => exact execPeerAccess_keeps h
    | reductionWrite => exact execReductionWrite_keeps h
    | ualinkPortLoss => exact execUalinkPortLoss_keeps h
    | cxlPortError => exact execCxlPortError_keeps h
    | deviceReset => exact execDeviceReset_keeps h
    | bootLoad => exact execBootLoad_keeps h
    | lrtLoad => exact execLrtLoad_keeps h
    | lrtUnload => exact keeps_report (State.loadTable_wf h) _
    | xschWrite => exact keeps_report (State.writeSchedule_wf h) _
    | shootdownPages | shootdownTensor | shootdownContext => exact State.shootEvent_keeps h
    | tresumePlace | tresumeKill => exact keeps_report (State.writeTresume_wf h) _
    | lctlSave | lctlKill => exact keeps_report (State.writeLctl_wf h) _
    | iftStart => exact keeps_report (State.writeIftctl_wf h) _
    | iftComplete => exact execIftComplete_keeps h
    | cfenceClear => exact keeps_report (State.writeCfence_wf h) _
    | emudoneFinish | emudoneFault => exact keeps_report (State.emuDone_wf h) _
    | wake => exact execWake_keeps h
    | registerWrite => exact execRegisterWrite_keeps h
    | patrolScrub => exact execPatrolScrub_keeps h
    | _ => exact absurd hi (Nat.succ_ne_zero _)
  · exact exec_keeps_of_instr hi h

/-! Turns: time that passes, and what acts then. -/

theorem Core.tick_st (now dt : Nat) (k : Core) : (k.tick now dt).st = k.st := by
  unfold Core.tick
  split
  · rfl
  · exact Core.ite_st rfl rfl

theorem State.count_wf {s : State} (h : s.wf = true) {dt : Nat} : (s.count dt).wf = true :=
  State.wf_same (State.mapCores_wf h fun k => Core.tick_st s.cadence.toNat dt k) rfl rfl rfl rfl rfl

theorem State.govern_wf {s : State} (h : s.wf = true) {n : Nat} : (s.govern n).wf = true := State.plat_wf h

theorem State.markMiss_wf {s : State} (h : s.wf = true) {dt : Nat} {k : Fin 768} : (s.markMiss dt k).wf = true := by
  unfold State.markMiss
  split
  · exact h
  · exact State.wf_ite (State.onClu_wf h) h

theorem State.markMisses_wf {s : State} (h : s.wf = true) {dt : Nat} : (s.markMisses dt).wf = true := by
  refine State.foldl_wf h ?_
  exact fun _ _ ht => State.markMiss_wf ht

theorem State.advance_wf {s : State} (h : s.wf = true) {dt : Nat} : (s.advance dt).wf = true := by
  have ht := State.count_wf (State.exchangesOver_wf (State.markMisses_wf h (dt := dt)) (dt := dt)) (dt := dt)
  exact State.wf_ite ht (State.govern_wf ht)

theorem State.hostPut_wf {s : State} (h : s.wf = true) {a : Nat} {b : Byte} : (s.hostPut a b).wf = true := by
  refine State.wf_ite (State.report_wf (State.host_wf h (Memory.write_wf ?_ a b))) (State.report_wf h)
  exact (State.wf_ms h).2.1

theorem State.peerPut_wf {s : State} (h : s.wf = true) {a : Nat} {b : Byte} : (s.peerPut a b).wf = true := by
  refine State.wf_ite (State.report_wf (State.peer_wf h (Memory.write_wf ?_ a b))) (State.report_wf h)
  exact (State.wf_ms h).2.2

theorem State.parityError_wf {s : State} (h : s.wf = true) {k : Fin 768} {x : Clu} : (s.parityError k x).wf = true :=
  State.wf_ite (State.report_wf (State.machineCheck_wf h)) (State.report_wf h)

theorem runTurn_keeps {s : State} (h : s.wf = true) (t : Turn) : Keeps (runTurn t s) := by
  cases t with
  | bundle k x dt => exact State.runBundle_keeps exec_keeps (State.advance_wf h)
  | event i dt => exact keeps_ite (exec_keeps i _ (State.advance_wf h)) (keeps_report (State.advance_wf h) _)
  | hostByte a b dt => exact keeps_next (State.hostPut_wf (State.advance_wf h))
  | peerByte a b dt => exact keeps_next (State.peerPut_wf (State.advance_wf h))
  | parity k x dt => exact keeps_next (State.parityError_wf (State.advance_wf h))

theorem shotAfter_keeps {o : Out} (h : Keeps o) : Keeps (shotAfter o) := by
  cases o with
  | next t => exact keeps_next (State.wf_ite (h t rfl) (State.shootOwed_wf (h t rfl)))
  | fault r => exact keeps_fault_stop r
  | refused r => exact keeps_refused r

theorem step_keeps {s : State} (h : s.wf = true) : Keeps (step s) := by
  unfold step
  split
  · exact shotAfter_keeps (runTurn_keeps (State.agenda_wf h) _)
  · split
    · exact shotAfter_keeps (runTurn_keeps h _)
    · exact keeps_report (State.advance_wf h) _

/-- Settles O60: each instruction, event and turn keeps the canonical form (`exec_keeps`, `runTurn_keeps`), so the step does. -/
theorem stepsKeepMemoriesCanonical : Obligations.StepsKeepMemoriesCanonical :=
  fun _ t h e => step_keeps h t e

end Sys2Proof.Machine
end

section
/-! Special registers: the checks of R34. -/

namespace Sys2Proof.Machine

/-! The two instructions, by what the check of R34 answers. -/

theorem execMfs_refused {s : State} {d : Reg} {n : BitVec 12} {c : Nat}
    (h : regFault n.toNat s.cur.clu (s.old.clu s.cur.clu).priv false = some c) : exec (.mfs d n) s = s.fault c 0 := by
  simp only [exec, execMfs, h]

theorem execMts_refused {s : State} {gs : Reg} {n : BitVec 12} {c : Nat}
    (h : regFault n.toNat s.cur.clu (s.old.clu s.cur.clu).priv true = some c) : exec (.mts n gs) s = s.fault c 0 := by
  simp only [exec, execMts, h]

theorem execMfs_allowed {s : State} {d : Reg} {n : BitVec 12}
    (h : regFault n.toNat s.cur.clu (s.old.clu s.cur.clu).priv false = none) : exec (.mfs d n) s = s.regTo d n.toNat := by
  simp only [exec, execMfs, h]

theorem execMts_allowed {s : State} {gs : Reg} {n : BitVec 12}
    (h : regFault n.toNat s.cur.clu (s.old.clu s.cur.clu).priv true = none) : exec (.mts n gs) s = s.regFrom n.toNat (s.g gs) := by
  simp only [exec, execMts, h]

/-! The check, case by case. -/

theorem regFault_privileged {n : Nat} (h : 0x800 ≤ n) (x : Clu) (write : Bool) : regFault n x false write = some 3 := by
  simp [regFault, h]

theorem regFault_absent {n : Nat} {priv : Bool} (hp : ¬ (0x800 ≤ n ∧ priv = false)) (hk : regKind n = .absent) (x : Clu) (write : Bool) :
    regFault n x priv write = some 1 := by
  simp [regFault, hp, hk]

theorem regFault_readOnly {n : Nat} {priv : Bool} (hp : ¬ (0x800 ≤ n ∧ priv = false)) (hk : regKind n = .ro) (x : Clu) :
    regFault n x priv true = some 1 := by
  simp [regFault, hp, hk]

/-- Past the checks of level and kind, the cluster decides. -/
theorem regFault_listed {n : Nat} {priv write : Bool} (hp : ¬ (0x800 ≤ n ∧ priv = false)) (ha : regKind n ≠ .absent)
    (hw : write = true → regKind n = .rw) (x : Clu) : regFault n x priv write = if regOnCluster n x then none else some 2 := by
  have hk : ¬ (regKind n = .absent ∨ (write = true ∧ regKind n = .ro)) := by
    rintro (h | ⟨w, h⟩)
    · exact ha h
    · rw [hw w] at h; cases h
  have hp' : ¬ (0x800 ≤ n ∧ (!priv) = true) := by simpa using hp
  unfold regFault
  rw [if_neg hp', if_neg hk]
  cases regOnCluster n x <;> rfl

/-- Settles O8: the check answers by level, then kind, then cluster, and a refused instruction is its fault. -/
theorem specialRegisterAccessIsCheckedByR34 : Obligations.SpecialRegisterAccessIsCheckedByR34 := by
  intro s d gs n c kind
  refine ⟨fun hn hc => ?_, fun hp hk => ?_, fun hp hk => ?_, fun hp hk hx => ⟨?_, fun hw => ?_⟩, fun hp hk hx => ⟨?_, fun hw => ?_⟩⟩
  · have low := fun write => hc ▸ regFault_privileged hn s.cur.clu write
    exact ⟨execMfs_refused (low false), execMts_refused (low true)⟩
  · exact ⟨execMfs_refused (regFault_absent hp hk _ _), execMts_refused (regFault_absent hp hk _ _)⟩
  · exact execMts_refused (regFault_readOnly hp hk _)
  · exact execMfs_refused (by rw [regFault_listed hp hk (by simp), hx]; rfl)
  · exact execMts_refused (by rw [regFault_listed hp hk fun _ => hw, hx]; rfl)
  · rw [regFault_listed hp hk (by simp), hx]; rfl
  · rw [regFault_listed hp hk fun _ => hw, hx]; rfl

end Sys2Proof.Machine
end

section
/-! Tile shapes, and the state after reset. -/

namespace Sys2Proof.Machine

/-! The fields of a shape register (R17). -/

/-- A shape register of a type, columns and rows (R17). -/
def shapeWord (ty : BitVec 4) (cols : BitVec 7) (rows : BitVec 6) : Word :=
  BitVec.ofNat 64 (ty.toNat * 2 ^ 16 + cols.toNat * 2 ^ 7 + rows.toNat)

theorem shapeWord_toNat (ty : BitVec 4) (cols : BitVec 7) (rows : BitVec 6) :
    (shapeWord ty cols rows).toNat = ty.toNat * 2 ^ 16 + cols.toNat * 2 ^ 7 + rows.toNat := by
  simp only [shapeWord, BitVec.toNat_ofNat]
  omega

theorem shRows_shapeWord (ty : BitVec 4) (cols : BitVec 7) (rows : BitVec 6) : shRows (shapeWord ty cols rows) = rows.toNat := by
  simp only [shRows, bits, shapeWord_toNat]
  omega

theorem shBytes_shapeWord (ty : BitVec 4) (cols : BitVec 7) (rows : BitVec 6) :
    shBytes (shapeWord ty cols rows) = cols.toNat * sizeOfR18 ty.toNat := by
  have hc : shCols (shapeWord ty cols rows) = cols.toNat := by
    simp only [shCols, bits, shapeWord_toNat]
    omega
  have ht : shType (shapeWord ty cols rows) = ty.toNat := by
    simp only [shType, bits, shapeWord_toNat]
    omega
  rw [shBytes, hc, ht]

/-- A clipped tile reads zero outside the shape and as before inside (R19). -/
theorem read_clipTile {m : Memory} (h : m.wf = true) (sh : Word) (a : Nat) :
    (clipTile m sh).read a = if a / 64 < shRows sh ∧ a % 64 < shBytes sh then m.read a else 0 := by
  have key := lookup_filter_key (fun a => decide (a / 64 < shRows sh) && decide (a % 64 < shBytes sh)) m.cells none h a
  simp only [Bool.and_eq_true, decide_eq_true_eq] at key
  exact key

/-! Changes of the executing core's storage. -/

theorem sameButStorage_onSt (s : State) (f : Storage → Storage) : sameButStorage s (s.onSt f) :=
  ⟨sameMemory_of_ms rfl, sameOutside_setCore _ _, rfl, by rw [State.onSt_me]⟩

/-- A bundle held by its own engine leaves the core as the bundle found it, but for the record of the hold (R175). -/
theorem State.stallHeld_latched {s : State} {k : Core} (h : s.latch = some k) :
    s.stallHeld = .next { (s.setCore s.cur.core (k.onClu s.cur.clu fun c => c.holdOn s.cadence.toNat)) with report := .stalled } := by
  simp only [State.stallHeld, State.undo, h, State.onCl, State.onMe, State.onCore, State.setCore_cur, State.setCore_core_same]
  simp [State.setCore, vset]

theorem State.stallHeld_unlatched {s : State} (h : s.latch = none) :
    s.stallHeld = .next { (s.onCl fun c => c.holdOn s.cadence.toNat) with report := .stalled } := by
  simp only [State.stallHeld, State.undo, h]

/-- Settles O11: a busy tile holds the instruction, and on a free one the shape is written and the tile clipped (`read_clipTile`). -/
theorem tshapeSetsTheShapeAndClearsOutside : Obligations.TshapeSetsTheShapeAndClearsOutside := by
  intro s n ty cols rows i busy
  refine ⟨fun hb => ?_, fun hb hm => ?_⟩
  · have held : exec i s = s.stallHeld := if_pos hb
    refine ⟨held, ?_⟩
    rw [held]
    cases hl : s.latch with
    | none => exact ⟨_, State.stallHeld_unlatched hl, rfl, sameMemory_of_ms rfl, fun k e => by cases e⟩
    | some k =>
      refine ⟨_, State.stallHeld_latched hl, rfl, sameMemory_of_ms rfl, fun k0 e => ?_⟩
      obtain rfl := Option.some.inj e
      have me := State.setCore_core_same s s.cur.core (k.onClu s.cur.clu fun c => c.holdOn s.cadence.toNat)
      have at_ : ({ (s.setCore s.cur.core (k.onClu s.cur.clu fun c => c.holdOn s.cadence.toNat)) with report := .stalled } : State).me =
        k.onClu s.cur.clu fun c => c.holdOn s.cadence.toNat := me
      rw [at_, Core.onClu_same]
      rfl
  · refine ⟨_, if_neg (Bool.eq_false_iff.mp hb), sameButStorage_onSt _ _, ?_, fun m h => ?_, ?_, fun a => ?_⟩
    · rw [State.onSt_me]
    · simp only [State.onSt_me, vget_vset, if_neg h, and_self]
    · simp only [State.onSt_me, vget_vset, if_true]
    · simp only [State.onSt_me, vget_vset, if_true]
      have read := read_clipTile hm (shapeWord ty cols rows) a
      rwa [shRows_shapeWord, shBytes_shapeWord] at read

/-! Reset. -/

@[simp] theorem reset_core (k : Fin 768) : State.reset.core k = Core.reset := Vector.getElem_replicate _

@[simp] theorem coreReset_clu (x : Clu) : Core.reset.clu x = Cluster.reset := Vector.getElem_replicate _

@[simp] theorem clusterReset_gReg (r : Reg) : Cluster.reset.gReg r = 0 := by
  have zero : vget Cluster.reset.g r = 0 := Vector.getElem_replicate _
  rw [Cluster.gReg, zero, ite_self]

/-- No device register is listed at reset: each reads its reset value. -/
@[simp] theorem reset_dev (n : Nat) : State.reset.dev n = devReset n := rfl

theorem devReset_diepwr : ∀ d : Fin 8, devReset (0xF50 + d.val) = 0x01E0_5FA0_4000_00C8 := by decide

/-- Settles O59: every register file is one value throughout, and no device register is listed. -/
theorem resetLeavesTheStatedValues : Obligations.ResetLeavesTheStatedValues := by
  refine ⟨reset_wf, rfl, rfl, rfl, rfl, rfl, rfl, fun k => ?_, rfl, rfl, rfl, rfl, fun d => ?_, fun i => ?_, fun l => ?_, rfl, rfl⟩
  · rw [reset_core]
    exact ⟨rfl, rfl, rfl, rfl, rfl, rfl, rfl, rfl, rfl, rfl, rfl, rfl, rfl, rfl,
      fun _ => ⟨Vector.getElem_replicate _, Vector.getElem_replicate _⟩, fun _ => Vector.getElem_replicate _, fun x => by
        rw [coreReset_clu]
        exact ⟨rfl, rfl, rfl, rfl, rfl, rfl, rfl, rfl, rfl, clusterReset_gReg⟩⟩
  · have die : vget State.reset.plat.dies d = Die.reset := Vector.getElem_replicate _
    rw [reset_dev, devReset_diepwr, die]
    exact ⟨rfl, rfl, rfl, rfl, rfl⟩
  · have island : vget State.reset.plat.islands i = Island.reset := Vector.getElem_replicate _
    rw [island]
    exact ⟨rfl, rfl, rfl, rfl, rfl, rfl⟩
  · have link : vget State.reset.plat.links l = Link.reset := Vector.getElem_replicate _
    rw [link]
    exact ⟨rfl, rfl, rfl⟩

end Sys2Proof.Machine
end

section
/-! Updates of the executing core, composed: every one is the state with one core replaced. -/

namespace Sys2Proof.Machine

/-! One core replaced. -/

@[simp] theorem State.setCore_setCore (s : State) (k : Fin 768) (c d : Core) : (s.setCore k c).setCore k d = s.setCore k d := by
  simp [State.setCore, vset]

/-- A core replaced by itself. -/
@[simp] theorem State.setCore_core (s : State) (k : Fin 768) : s.setCore k (s.core k) = s := by
  simp [State.setCore, State.core, vset, vget]

@[simp] theorem State.setCore_me (s : State) : s.setCore s.cur.core s.me = s := State.setCore_core s s.cur.core

@[simp] theorem State.me_setCore (s : State) (c : Core) : (s.setCore s.cur.core c).me = c := State.setCore_core_same s s.cur.core c

@[simp] theorem State.cl_setCore (s : State) (c : Core) : (s.setCore s.cur.core c).cl = c.clu s.cur.clu :=
  congrArg (Core.clu · s.cur.clu) (State.me_setCore s c)

theorem State.onMe_eq (s : State) (f : Core → Core) : s.onMe f = s.setCore s.cur.core (f s.me) := rfl

@[simp] theorem State.onMe_setCore (s : State) (c : Core) (f : Core → Core) :
    (s.setCore s.cur.core c).onMe f = s.setCore s.cur.core (f c) := by
  rw [State.onMe_eq, State.setCore_cur, State.me_setCore, State.setCore_setCore]

/-! A general register of a cluster of a core. -/

/-- The core with a general register of one cluster written; g0 discards it (R10). -/
def Core.putG (k : Core) (x : Clu) (d : Reg) (w : Word) : Core :=
  if d = 0 then k else k.onClu x fun c => { c with g := vset c.g d w }

theorem State.setG_eq (s : State) (d : Reg) (w : Word) : s.setG d w = s.setCore s.cur.core (s.me.putG s.cur.clu d w) := by
  unfold State.setG Core.putG
  split
  · exact (State.setCore_me s).symm
  · rfl

@[simp] theorem State.setG_setCore (s : State) (c : Core) (d : Reg) (w : Word) :
    (s.setCore s.cur.core c).setG d w = s.setCore s.cur.core (c.putG s.cur.clu d w) := by
  rw [State.setG_eq, State.setCore_cur, State.me_setCore, State.setCore_setCore]

/-- A register written in a core leaves the core's storage, engines and records. -/
theorem Core.putG_frame (k : Core) (x : Clu) (d : Reg) (w : Word) : k.putG x d w = { k with cl := (k.putG x d w).cl } := by
  unfold Core.putG
  split <;> rfl

@[simp] theorem Core.putG_st (k : Core) (x : Clu) (d : Reg) (w : Word) : (k.putG x d w).st = k.st := by rw [Core.putG_frame]
@[simp] theorem Core.putG_en (k : Core) (x : Clu) (d : Reg) (w : Word) : (k.putG x d w).en = k.en := by rw [Core.putG_frame]
@[simp] theorem Core.putG_rg (k : Core) (x : Clu) (d : Reg) (w : Word) : (k.putG x d w).rg = k.rg := by rw [Core.putG_frame]
@[simp] theorem Core.putG_task (k : Core) (x : Clu) (d : Reg) (w : Word) : (k.putG x d w).task = k.task := by rw [Core.putG_frame]

theorem Core.putG_ne (k : Core) {x y : Clu} (h : y ≠ x) (d : Reg) (w : Word) : (k.putG x d w).clu y = k.clu y := by
  unfold Core.putG
  split
  · rfl
  · exact Core.onClu_ne _ _ h

/-- Every register of the cluster but the one written reads as before; g0 reads zero. -/
theorem Core.putG_gReg (k : Core) (x : Clu) (d : Reg) (w : Word) (r : Reg) :
    ((k.putG x d w).clu x).gReg r = if r = d ∧ d ≠ 0 then w else (k.clu x).gReg r := by
  unfold Core.putG
  split
  · next h => simp [h]
  · rw [Core.onClu_same]
    simp only [Cluster.gReg, vget_vset]
    split <;> split <;> simp_all

/-- One register of the executing cluster written in a core that has kept its clusters. -/
theorem onlyG_putG {s : State} {c : Core} (h : c.cl = s.me.cl) (d : Reg) (w : Word) :
    onlyG s (s.setCore s.cur.core (c.putG s.cur.clu d w)) d w := by
  intro r
  have before : c.clu s.cur.clu = s.cl := by simp only [Core.clu, State.cl, h]
  rw [State.cl_setCore, Core.putG_gReg, before]

/-! The checker of deterministic mode: the model's own record. -/

theorem Core.onCheck_frame (k : Core) (f : Checker → Checker) :
    k.onCheck f = { k with en := { k.en with check := (k.onCheck f).en.check } } := by
  unfold Core.onCheck
  split <;> rfl

@[simp] theorem Core.onCheck_cl (k : Core) (f : Checker → Checker) : (k.onCheck f).cl = k.cl := by rw [Core.onCheck_frame]
@[simp] theorem Core.onCheck_rg (k : Core) (f : Checker → Checker) : (k.onCheck f).rg = k.rg := by rw [Core.onCheck_frame]
@[simp] theorem Core.onCheck_task (k : Core) (f : Checker → Checker) : (k.onCheck f).task = k.task := by rw [Core.onCheck_frame]

/-- Outside deterministic mode the checker is not kept. -/
theorem Core.onCheck_of_not_det {k : Core} (h : k.det = false) (f : Checker → Checker) : k.onCheck f = k := by
  simp [Core.onCheck, h]

end Sys2Proof.Machine
end

section
/-! Tokens and short queues (R24, R25, R217, R224). -/

namespace Sys2Proof.Machine

/-! The peers of a set. -/

/-- The bit of a peer set that names a cluster counts the other clusters in increasing code (R52). -/
theorem mem_peerSet_iff (own x : Clu) (set : BitVec 3) : x ∈ peerSet own set ↔
    x ≠ own ∧ set.getLsbD (if (cluCode x).val < (cluCode own).val then (cluCode x).val else (cluCode x).val - 1) = true := by
  cases own <;> cases x <;> revert set <;> decide

theorem peerSet_nodup (own : Clu) (set : BitVec 3) : (peerSet own set).Nodup := by
  cases own <;> revert set <;> decide

theorem tokIdx_val (x y : Clu) : (tokIdx x y).val = 4 * (cluCode x).val + (cluCode y).val :=
  Nat.mod_eq_of_lt (by omega)

/-- Every pair of clusters has a queue of its own. -/
theorem tokIdx_inj {x y x' y' : Clu} : tokIdx x y = tokIdx x' y' ↔ x = x' ∧ y = y' := by
  refine ⟨fun h => ?_, fun ⟨hx, hy⟩ => hx ▸ hy ▸ rfl⟩
  have e := congrArg Fin.val h
  rw [tokIdx_val, tokIdx_val] at e
  exact ⟨cluCode_inj (Fin.ext (by omega)), cluCode_inj (Fin.ext (by omega))⟩

/-! Token counts, one queue after another. -/

/-- The count of one queue replaced. -/
def Storage.onTok (t : Storage) (i : Fin 16) (g : Nat → Nat) : Storage := { t with tok := vset t.tok i (g (vget t.tok i)) }

theorem Storage.popTokens_eq (t : Storage) (own : Clu) (set : BitVec 3) :
    t.popTokens own set = ((peerSet own set).map (tokIdx · own)).foldl (fun u i => u.onTok i (· - 1)) t := by
  rw [List.foldl_map]; rfl

theorem Storage.pushTokens_eq (t : Storage) (own : Clu) (set : BitVec 3) :
    t.pushTokens own set = ((peerSet own set).map (tokIdx own ·)).foldl (fun u i => u.onTok i (· + 1)) t := by
  rw [List.foldl_map]; rfl

/-- A fold over distinct queues changes each of their counts once and no other. -/
theorem foldl_onTok_tok (g : Nat → Nat) (is : List (Fin 16)) (h : is.Nodup) : ∀ (t : Storage) (j : Fin 16),
    vget (is.foldl (fun u i => u.onTok i g) t).tok j = if j ∈ is then g (vget t.tok j) else vget t.tok j := by
  induction is with
  | nil => intro t j; simp
  | cons i is ih =>
    intro t j
    obtain ⟨hi, his⟩ := List.nodup_cons.mp h
    rw [List.foldl_cons, ih his]
    simp only [Storage.onTok, vget_vset, List.mem_cons]
    by_cases e : j = i
    · subst e; simp [hi]
    · simp [e]

theorem foldl_onTok_frame (g : Nat → Nat) (is : List (Fin 16)) : ∀ t : Storage,
    is.foldl (fun u i => u.onTok i g) t = { t with tok := (is.foldl (fun u i => u.onTok i g) t).tok } := by
  induction is with
  | nil => intro t; rfl
  | cons i is ih => intro t; rw [List.foldl_cons, ih]; rfl

theorem Storage.popTokens_frame (t : Storage) (own : Clu) (set : BitVec 3) :
    t.popTokens own set = { t with tok := (t.popTokens own set).tok } := by
  rw [Storage.popTokens_eq]; exact foldl_onTok_frame _ _ t

theorem Storage.pushTokens_frame (t : Storage) (own : Clu) (set : BitVec 3) :
    t.pushTokens own set = { t with tok := (t.pushTokens own set).tok } := by
  rw [Storage.pushTokens_eq]; exact foldl_onTok_frame _ _ t

/-- One token leaves each queue from a peer of the set to the cluster, and no other queue (R25). -/
theorem Storage.popTokens_tok (t : Storage) (own x y : Clu) (set : BitVec 3) : vget (t.popTokens own set).tok (tokIdx x y) =
    if y = own ∧ x ∈ peerSet own set then vget t.tok (tokIdx x y) - 1 else vget t.tok (tokIdx x y) := by
  have nodup := (peerSet_nodup own set).map (f := (tokIdx · own)) fun _ _ e => (tokIdx_inj.mp e).1
  rw [Storage.popTokens_eq, foldl_onTok_tok _ _ nodup]
  refine if_congr ?_ rfl rfl
  simp only [List.mem_map, tokIdx_inj]
  grind

/-- One token enters each queue from the cluster to a peer of the set, and no other queue (R25). -/
theorem Storage.pushTokens_tok (t : Storage) (own x y : Clu) (set : BitVec 3) : vget (t.pushTokens own set).tok (tokIdx x y) =
    if x = own ∧ y ∈ peerSet own set then vget t.tok (tokIdx x y) + 1 else vget t.tok (tokIdx x y) := by
  have nodup := (peerSet_nodup own set).map (f := (tokIdx own ·)) fun _ _ e => (tokIdx_inj.mp e).2
  rw [Storage.pushTokens_eq, foldl_onTok_tok _ _ nodup]
  refine if_congr ?_ rfl rfl
  simp only [List.mem_map, tokIdx_inj]
  grind

theorem Storage.hasTokens_iff (t : Storage) (own : Clu) (set : BitVec 3) :
    t.hasTokens own set = true ↔ ∀ x, x ∈ peerSet own set → 0 < vget t.tok (tokIdx x own) := by
  simp only [Storage.hasTokens, List.all_eq_true, decide_eq_true_eq]

theorem Storage.hasRoom_iff (t : Storage) (own : Clu) (set : BitVec 3) : t.hasRoom own set = true ↔
    ∀ x, x ∈ peerSet own set → vget t.tok (tokIdx own x) + vget t.room (tokIdx own x) < 15 := by
  simp only [Storage.hasRoom, List.all_eq_true, decide_eq_true_eq]

/-! The token instructions. -/

/-- The executing core with other token counts and another record of the checker. -/
theorem tokens_frame {s : State} {t : Storage} (h : t = { s.me.st with tok := t.tok }) (f : Checker → Checker) :
    let u := s.setCore s.cur.core (({ s.me with st := t } : Core).onCheck f)
    sameMemory s u ∧ sameOutside s u ∧ u.report = s.report ∧
      u.me = { s.me with st := { s.me.st with tok := u.me.st.tok }, en := { s.me.en with check := u.me.en.check } } := by
  refine ⟨sameMemory_of_ms rfl, sameOutside_setCore _ _, rfl, ?_⟩
  rw [State.me_setCore, Core.onCheck_st]
  dsimp only
  rw [← h]
  exact Core.onCheck_frame _ f

theorem tkwait_of_tokens {s : State} {set : BitVec 3} (h : s.me.st.hasTokens s.cur.clu set = true) :
    exec (.tkwait set) s = .next (s.setCore s.cur.core (({ s.me with st := s.me.st.popTokens s.cur.clu set } : Core).onCheck fun c =>
      (peerSet s.cur.clu set).foldl (fun c p => c.take s.agent (objTok (tokIdx p s.cur.clu))) c)) := if_pos h

theorem tkpost_of_room {s : State} {set : BitVec 3} (h : s.me.st.hasRoom s.cur.clu set = true) :
    exec (.tkpost set) s = .next (s.setCore s.cur.core (({ s.me with st := s.me.st.pushTokens s.cur.clu set } : Core).onCheck fun c =>
      (peerSet s.cur.clu set).foldl (fun c p => c.release s.agent (objTok (tokIdx s.cur.clu p))) c)) := if_pos h

/-! The short queues. -/

theorem setShortQueue_same (t : Storage) (q : BitVec 3) (l : List Word) : (t.setShortQueue q l).shortQueue q = l := by
  unfold Storage.setShortQueue Storage.shortQueue
  split <;> rfl

theorem setShortQueue_other (t : Storage) (q : BitVec 3) (l : List Word) :
    (if q = 3 then (t.setShortQueue q l).qca else (t.setShortQueue q l).qac) = if q = 3 then t.qca else t.qac := by
  unfold Storage.setShortQueue
  split <;> rfl

theorem setShortQueue_frame (t : Storage) (q : BitVec 3) (l : List Word) :
    t.setShortQueue q l = { t with qac := (t.setShortQueue q l).qac, qca := (t.setShortQueue q l).qca } := by
  unfold Storage.setShortQueue
  split <;> rfl

theorem qpush_of_room {s : State} {q : BitVec 3} {a : Reg} (h : ¬ 32 ≤ (s.me.st.shortQueue q).length) :
    exec (.qpush q a) s = .next (s.setCore s.cur.core (({ s.me with st := s.me.st.setShortQueue q (s.me.st.shortQueue q ++ [s.g a]) } : Core).onCheck
      fun c => c.release s.agent (objQueue q.toNat))) := by
  simp only [exec, execQpush, if_neg h, State.onSt, State.onCheck, State.onMe_eq, State.setCore_setCore, State.me_setCore, State.setCore_cur]

theorem qpop_of_entry {s : State} {d : Reg} {q : BitVec 3} {x : Word} {rest : List Word} (e : s.me.st.shortQueue q = x :: rest)
    (h : ¬ (q ≠ 3 ∧ s.me.runPops = true)) :
    exec (.qpop d q) s = .next (s.setCore s.cur.core ((({ s.me with st := s.me.st.setShortQueue q rest } : Core).onCheck
      fun c => c.take s.agent (objQueue q.toNat)).putG s.cur.clu d x)) := by
  simp only [exec, execQpop, e, if_neg h, State.onSt, State.onCheck, State.onMe_eq, State.setCore_setCore, State.me_setCore, State.setCore_cur,
    State.setG_setCore]

/-- One short queue of the executing core replaced, with another record of the checker and other registers of clusters. -/
theorem shortQueue_frame (s : State) (q : BitVec 3) (l : List Word) (f : Checker → Checker) {c : Core}
    (h : c = { ({ s.me with st := s.me.st.setShortQueue q l } : Core).onCheck f with cl := c.cl }) :
    let u := s.setCore s.cur.core c
    (sameMemory s u ∧ sameOutside s u ∧ u.report = s.report ∧
      (if q = 3 then u.me.st.qca else u.me.st.qac) = (if q = 3 then s.me.st.qca else s.me.st.qac) ∧
      u.me.st = { s.me.st with qac := u.me.st.qac, qca := u.me.st.qca } ∧ u.me.rg = s.me.rg ∧ u.me.task = s.me.task ∧
      u.me.en = { s.me.en with check := u.me.en.check }) ∧ u.me.st.shortQueue q = l := by
  have hst : c.st = s.me.st.setShortQueue q l := by rw [h]; exact Core.onCheck_st _ f
  have hrg : c.rg = s.me.rg := by rw [h]; exact Core.onCheck_rg _ f
  have htask : c.task = s.me.task := by rw [h]; exact Core.onCheck_task _ f
  have hen : c.en = { s.me.en with check := c.en.check } := by
    rw [h]; exact congrArg Core.en (Core.onCheck_frame { s.me with st := s.me.st.setShortQueue q l } f)
  simp only [State.me_setCore, hst]
  exact ⟨⟨sameMemory_of_ms rfl, sameOutside_setCore _ _, rfl, setShortQueue_other .., setShortQueue_frame .., hrg, htask, hen⟩,
    setShortQueue_same ..⟩

theorem qpush_stalls {s : State} {q : BitVec 3} {a : Reg} (h : 32 ≤ (s.me.st.shortQueue q).length) : exec (.qpush q a) s = s.stall := if_pos h

theorem qpop_stalls_empty {s : State} {d : Reg} {q : BitVec 3} (h : s.me.st.shortQueue q = []) : exec (.qpop d q) s = s.stall := by
  simp only [exec, execQpop, h]

/-- Entries that a sequencer run has still to pop come first (R213). -/
theorem qpop_stalls_run {s : State} {d : Reg} {q : BitVec 3} (hq : q ≠ 3) (h : s.me.runPops = true) : exec (.qpop d q) s = s.stall := by
  simp only [exec, execQpop]
  split
  · rfl
  · exact if_pos ⟨hq, h⟩

/-- Settles O24: the sets act on all their queues (`popTokens_tok`, `pushTokens_tok`), the short forms on the queue they name. -/
theorem tokensAndShortQueuesKeepOrder : Obligations.TokensAndShortQueuesKeepOrder := by
  refine ⟨fun s set => ?_, fun s d a q hq => ?_⟩
  · have waits := Storage.hasTokens_iff s.me.st s.cur.clu set
    have posts := Storage.hasRoom_iff s.me.st s.cur.clu set
    refine ⟨fun x => mem_peerSet_iff _ _ _, fun h => ?_, fun h => ?_, fun h => ?_, fun h => ?_⟩
    · refine ⟨_, tkwait_of_tokens (waits.mpr h), tokens_frame (Storage.popTokens_frame ..) _, fun x y => ?_⟩
      dsimp only
      rw [State.me_setCore, Core.onCheck_st]
      exact Storage.popTokens_tok ..
    · exact if_neg fun e => h (waits.mp e)
    · refine ⟨_, tkpost_of_room (posts.mpr h), tokens_frame (Storage.pushTokens_frame ..) _, fun x y => ?_⟩
      dsimp only
      rw [State.me_setCore, Core.onCheck_st]
      exact Storage.pushTokens_tok ..
    · exact if_neg fun e => h (posts.mp e)
  · have named : q ≠ 3 ↔ q = 4 := by rcases hq with rfl | rfl <;> decide
    refine ⟨fun h => ?_, qpush_stalls, fun x rest e h => ?_, fun h => ?_⟩
    · let after := ({ s.me with st := s.me.st.setShortQueue q (s.me.st.shortQueue q ++ [s.g a]) } : Core).onCheck
        fun c => c.release s.agent (objQueue q.toNat)
      obtain ⟨frame, queue⟩ := shortQueue_frame s q (s.me.st.shortQueue q ++ [s.g a]) (fun c => c.release s.agent (objQueue q.toNat)) (c := after) rfl
      refine ⟨_, qpush_of_room (Nat.not_le.mpr h), frame, ?_, queue⟩
      rw [State.me_setCore, Core.onCheck_cl]
    · have pops : ¬ (q ≠ 3 ∧ s.me.runPops = true) := fun ⟨h3, hr⟩ => by simp [h (named.mp h3)] at hr
      obtain ⟨frame, queue⟩ := shortQueue_frame s q rest (fun c => c.take s.agent (objQueue q.toNat)) (Core.putG_frame _ s.cur.clu d x)
      exact ⟨_, qpop_of_entry e pops, frame, onlyG_putG (by rw [Core.onCheck_cl]) d x, queue⟩
    · rcases h with empty | ⟨h4, hr⟩
      · exact qpop_stalls_empty empty
      · exact qpop_stalls_run (named.mpr h4) hr

end Sys2Proof.Machine
end

section
/-! Vector registers: lanes of a line, bytes merged under a mask, and the logic forms (R15, R179, R180, R184). -/

namespace Sys2Proof.Machine

/-! Lanes of a line. -/

theorem pow256 (n : Nat) : (256 : Nat) ^ n = 2 ^ (8 * n) := by rw [Nat.pow_mul]

/-- The two readings of a lane agree: by bytes and by bits. -/
theorem lane_eq_part (l : Line) (w i : Nat) : lane l w i = Line.part l w i := by
  rw [lane, linePart, Line.part, pow256, pow256, Nat.mul_assoc]

theorem Line.part_lt (l : Line) (w j : Nat) : Line.part l w j < 2 ^ (8 * w) := Nat.mod_lt _ (Nat.two_pow_pos _)

theorem Line.testBit_part (l : Line) (w j b : Nat) : (Line.part l w j).testBit b = (decide (b < 8 * w) && l.getLsbD (8 * w * j + b)) := by
  rw [Line.part, Nat.testBit_mod_two_pow, Nat.testBit_div_two_pow, BitVec.getLsbD, Nat.add_comm]

/-- A byte of a line is known by its bits. -/
theorem Line.part_one_eq {l : Line} {j n : Nat} (hn : n < 256) (h : ∀ b, b < 8 → l.getLsbD (8 * j + b) = n.testBit b) :
    Line.part l 1 j = n := by
  apply Nat.eq_of_testBit_eq
  intro b
  rw [Line.testBit_part]
  by_cases hb : b < 8
  · simpa [hb] using h b hb
  · have : n.testBit b = false := Nat.testBit_lt_two_pow (Nat.lt_of_lt_of_le hn (Nat.pow_le_pow_right (n := 2) (by decide) (Nat.le_of_not_lt hb)))
    simp [hb, this]

theorem Line.getLsbD_part_one (l : Line) (j : Nat) {b : Nat} (hb : b < 8) : (Line.part l 1 j).testBit b = l.getLsbD (8 * j + b) := by
  simp [Line.testBit_part, hb]

theorem Line.part_and (x y : Line) (j : Nat) : Line.part (x &&& y) 1 j = Line.part x 1 j &&& Line.part y 1 j := by
  apply Nat.eq_of_testBit_eq
  intro b
  simp only [Nat.testBit_and, Line.testBit_part, BitVec.getLsbD_and]
  cases decide (b < 8 * 1) <;> simp

theorem Line.part_or (x y : Line) (j : Nat) : Line.part (x ||| y) 1 j = Line.part x 1 j ||| Line.part y 1 j := by
  apply Nat.eq_of_testBit_eq
  intro b
  simp only [Nat.testBit_or, Line.testBit_part, BitVec.getLsbD_or]
  cases decide (b < 8 * 1) <;> simp

theorem Line.part_xor (x y : Line) (j : Nat) : Line.part (x ^^^ y) 1 j = Line.part x 1 j ^^^ Line.part y 1 j := by
  apply Nat.eq_of_testBit_eq
  intro b
  simp only [Nat.testBit_xor, Line.testBit_part, BitVec.getLsbD_xor]
  cases decide (b < 8 * 1) <;> simp

theorem Line.part_not (x : Line) {j : Nat} (hj : j < 64) : Line.part (~~~x) 1 j = 255 - Line.part x 1 j := by
  have hx : Line.part x 1 j < 2 ^ 8 := Line.part_lt x 1 j
  refine Line.part_one_eq (by omega) fun b hb => ?_
  rw [show 255 - Line.part x 1 j = 2 ^ 8 - (Line.part x 1 j + 1) by omega, Nat.testBit_two_pow_sub_succ hx, Line.getLsbD_part_one x j hb]
  simp [hb, show 8 * j + b < 512 by omega]

/-! Bytes under a mask. -/

theorem expandMask_lt (m : Word) (n : Nat) : expandMask m n < 2 ^ (8 * n) := by
  induction n with
  | zero => simp [expandMask]
  | succ n ih =>
    have split : (2 : Nat) ^ (8 * (n + 1)) = 256 * 2 ^ (8 * n) := by rw [Nat.mul_succ, Nat.pow_add, Nat.mul_comm]
    rw [expandMask, pow256, split]
    cases bit m n <;> simp <;> omega

/-- Bit i of the expanded mask is the mask's bit for the byte it lies in. -/
theorem testBit_expandMask (m : Word) (n i : Nat) : (expandMask m n).testBit i = (decide (i < 8 * n) && m.getLsbD (i / 8)) := by
  induction n with
  | zero => simp [expandMask]
  | succ n ih =>
    rw [expandMask, pow256, Nat.mul_comm _ (2 ^ (8 * n)), Nat.add_comm, Nat.testBit_two_pow_mul_add _ (expandMask_lt m n)]
    split
    · rw [ih]
      simp [show i < 8 * n by assumption, show i < 8 * (n + 1) by omega]
    · by_cases hi : i < 8 * (n + 1)
      · have hn : i / 8 = n := by omega
        have ones : (255 : Nat).testBit (i - 8 * n) = true := by
          rw [show (255 : Nat) = 2 ^ 8 - 1 by decide, Nat.testBit_two_pow_sub_one]
          exact decide_eq_true (by omega)
        cases hb : bit m n <;> simp [hi, hn, ones, show m.getLsbD n = _ from hb]
      · have zeros : (255 : Nat).testBit (i - 8 * n) = false := by
          rw [show (255 : Nat) = 2 ^ 8 - 1 by decide, Nat.testBit_two_pow_sub_one]
          exact decide_eq_false (by omega)
        cases bit m n <;> simp [hi, zeros]

theorem getLsbD_mergeLine (old new : Line) (mask : Word) {i : Nat} (hi : i < 512) :
    (mergeLine old new mask).getLsbD i = if mask.getLsbD (i / 8) then new.getLsbD i else old.getLsbD i := by
  simp only [mergeLine, BitVec.getLsbD_or, BitVec.getLsbD_and, BitVec.getLsbD_not, BitVec.getLsbD_ofNat, testBit_expandMask, hi]
  cases mask.getLsbD (i / 8) <;> simp

/-- A byte of a merged line is the new one where the mask is set, else the old one. -/
theorem Line.part_mergeLine (old new : Line) (mask : Word) {j : Nat} (hj : j < 64) :
    Line.part (mergeLine old new mask) 1 j = if mask.getLsbD j then Line.part new 1 j else Line.part old 1 j := by
  have byte (b : Nat) (hb : b < 8) : (8 * j + b) / 8 = j := by omega
  refine Line.part_one_eq (by split <;> exact Line.part_lt _ 1 j) fun b hb => ?_
  rw [getLsbD_mergeLine _ _ _ (by omega), byte b hb]
  split <;> rw [Line.getLsbD_part_one _ _ hb]

/-! Lanes put side by side. -/

theorem ofLanes_lt (w : Nat) (xs : List Nat) : ofLanes w xs < 2 ^ (8 * w * xs.length) := by
  induction xs with
  | nil => simp [ofLanes]
  | cons x xs ih =>
    have split : (2 : Nat) ^ (8 * w * (xs.length + 1)) = 2 ^ (8 * w) * 2 ^ (8 * w * xs.length) := by rw [Nat.mul_succ, Nat.pow_add, Nat.mul_comm]
    have low : x % 2 ^ (8 * w) < 2 ^ (8 * w) := Nat.mod_lt _ (Nat.two_pow_pos _)
    calc ofLanes w (x :: xs) = x % 2 ^ (8 * w) + 2 ^ (8 * w) * ofLanes w xs := by rw [← pow256]; rfl
      _ < 2 ^ (8 * w) + 2 ^ (8 * w) * ofLanes w xs := Nat.add_lt_add_right low _
      _ = 2 ^ (8 * w) * (ofLanes w xs + 1) := by rw [Nat.mul_succ, Nat.add_comm]
      _ ≤ 2 ^ (8 * w) * 2 ^ (8 * w * xs.length) := Nat.mul_le_mul_left _ ih
      _ = _ := split.symm

theorem ofLanes_lane (w : Nat) (xs : List Nat) : ∀ j, ofLanes w xs / 2 ^ (8 * w * j) % 2 ^ (8 * w) = xs.getD j 0 % 2 ^ (8 * w) := by
  induction xs with
  | nil => intro j; simp [ofLanes]
  | cons x xs ih =>
    have step : ofLanes w (x :: xs) = x % 2 ^ (8 * w) + 2 ^ (8 * w) * ofLanes w xs := by rw [← pow256]; rfl
    intro j
    cases j with
    | zero => simp [step]
    | succ j =>
      rw [step, Nat.mul_succ, Nat.add_comm (8 * w * j), Nat.pow_add, ← Nat.div_div_eq_div_mul, Nat.add_mul_div_left _ _ (Nat.two_pow_pos _),
        Nat.div_eq_of_lt (Nat.mod_lt _ (Nat.two_pow_pos _)), Nat.zero_add, ih, List.getD_cons_succ]

/-- Lanes that fill a line at most read back, cut to their width. -/
theorem Line.part_ofLanes {w : Nat} {xs : List Nat} (h : w * xs.length ≤ 64) (j : Nat) :
    Line.part (BitVec.ofNat 512 (ofLanes w xs)) w j = xs.getD j 0 % 2 ^ (8 * w) := by
  have bits : 8 * w * xs.length ≤ 512 := by rw [Nat.mul_assoc]; omega
  have fits := Nat.lt_of_lt_of_le (ofLanes_lt w xs) (Nat.pow_le_pow_right Nat.zero_lt_two bits)
  rw [Line.part, BitVec.toNat_ofNat, Nat.mod_eq_of_lt fits, ofLanes_lane]

/-- What a lane form leaves in lane i, with its flags. -/
def laneResult (w : Nat) (mk : Word) (d : Line) (f : Nat → Nat × BitVec 8) (i : Nat) : Nat × BitVec 8 :=
  if laneOn mk w i then f i else (lane d w i, 0)

theorem mapLanes_eq (w : Nat) (mk : Word) (d : Line) (f : Nat → Nat × BitVec 8) : mapLanes w mk d f =
    (BitVec.ofNat 512 (ofLanes w (((List.range (64 / w)).map (laneResult w mk d f)).map (·.1))),
      ((List.range (64 / w)).map (laneResult w mk d f)).foldl (fun fl x => fl ||| x.2) 0) := rfl

theorem Line.part_mapLanes (w : Nat) (mk : Word) (d : Line) (f : Nat → Nat × BitVec 8) {j : Nat} (hj : j < 64 / w) :
    Line.part (mapLanes w mk d f).1 w j = (laneResult w mk d f j).1 % 2 ^ (8 * w) := by
  rw [mapLanes_eq, Line.part_ofLanes (by simpa using Nat.mul_div_le 64 w)]
  simp [List.getD_eq_getElem?_getD, hj]

/-- The flags of a list of lanes are those of its members. -/
theorem getLsbD_foldl_or (xs : List (Nat × BitVec 8)) (b : Nat) : ∀ fl : BitVec 8,
    (xs.foldl (fun fl x => fl ||| x.2) fl).getLsbD b = true ↔ fl.getLsbD b = true ∨ ∃ x ∈ xs, x.2.getLsbD b = true := by
  induction xs with
  | nil => intro fl; simp
  | cons x xs ih =>
    intro fl
    rw [List.foldl_cons, ih, BitVec.getLsbD_or, Bool.or_eq_true]
    simp only [List.mem_cons, exists_eq_or_imp, or_assoc]

/-! Forms that write lanes. -/

theorem wroteV_setVF (s : State) (d : VReg) (r : Line × BitVec 8) :
    wroteV s (s.setVF d r) d r.2 ∧ vget (s.setVF d r).me.st.v d = r.1 := by
  have me : (s.setVF d r).me =
      { s.me with st := { s.me.st with v := vset s.me.st.v d r.1 }, rg := { s.me.rg with aflags := s.me.rg.aflags ||| r.2.setWidth 64 } } := by
    simp [State.setVF, State.orAflags, State.setV, zext]
  have core : s.setVF d r = s.setCore s.cur.core (s.setVF d r).me := by
    rw [me]
    simp only [State.setVF, State.orAflags, State.setV, State.onRg, State.onSt, State.onMe_eq, State.setCore_setCore, State.me_setCore,
      State.setCore_cur, zext]
  refine ⟨⟨?_, ?_, ?_, ?_, fun r h => ?_⟩, ?_⟩
  · rw [core]; exact sameMemory_of_ms rfl
  · rw [core]; exact sameOutside_setCore _ _
  · rw [core]; rfl
  · rw [me]
  · rw [me]; exact vget_vset_ne _ _ h
  · rw [me]; exact vget_vset_same ..

/-- A form over lanes completes with the lanes it computes where the mask is set (R179). -/
theorem vecLanes_of_mapLanes {i : Instr} {s : State} {w : Nat} {vd : VReg} {mk : MReg} {g : Nat → Nat × BitVec 8}
    {res : Nat → Nat → BitVec 8 → Prop} (h : exec i s = .next (s.setVF vd (mapLanes w (s.mask mk) (s.v vd) g)))
    (hg : ∀ j, j < 64 / w → res j ((g j).1 % 2 ^ (8 * w)) (g j).2) : VecLanes i s vd mk w res := by
  obtain ⟨wrote, value⟩ := wroteV_setVF s vd (mapLanes w (s.mask mk) (s.v vd) g)
  refine ⟨_, _, h, wrote, fun j => (laneResult w (s.mask mk) (s.v vd) g j).2, fun j hj => ?_, fun b => ?_⟩
  · rw [value, Line.part_mapLanes _ _ _ _ hj]
    dsimp only
    by_cases on : (s.mask mk).getLsbD (w * j) = true
    · have r : laneResult w (s.mask mk) (s.v vd) g j = g j := if_pos on
      rw [if_pos on, r]
      exact hg j hj
    · have r : laneResult w (s.mask mk) (s.v vd) g j = (lane (s.v vd) w j, 0) := if_neg on
      rw [if_neg on, r]
      exact ⟨by rw [lane_eq_part, Nat.mod_eq_of_lt (Line.part_lt ..)], rfl⟩
  · rw [mapLanes_eq, getLsbD_foldl_or]
    simp

/-- A bytewise form completes with the bytes of a line where the mask is set (R180, R184). -/
theorem vecLanes_of_bytes {i : Instr} {s : State} {vd : VReg} {mk : MReg} {x : Line} {f : Nat → Nat} (h : exec i s = s.bytes vd mk x)
    (hf : ∀ j, j < 64 → Line.part x 1 j = f j) : VecLanes i s vd mk 1 fun j r fl => r = f j ∧ fl = 0 := by
  obtain ⟨wrote, value⟩ := wroteV_setV s vd (mergeLine (s.v vd) x (s.mask mk))
  refine ⟨_, _, h, wrote, fun _ => 0, fun j hj => ?_, fun b => by simp⟩
  have hj' : j < 64 := by simpa using hj
  rw [value, Line.part_mergeLine _ _ _ hj', Nat.one_mul]
  by_cases on : (s.mask mk).getLsbD j = true
  · simp only [on, if_true]; exact ⟨hf j hj', trivial⟩
  · simp only [on, Bool.false_eq_true, if_false]; exact ⟨trivial, trivial⟩

/-- Settles O35: the bytewise forms by their bytes, VBCST and VSHUF by their lanes, the mask forms and VLANE by the register they write. -/
theorem vectorLogicMovesAndMasksActAsGiven : Obligations.VectorLogicMovesAndMasksActAsGiven := by
  intro s vd va vb md ma mb mk d a sz ln
  refine ⟨?_, ?_, ?_, ?_, ?_, ?_, ?_, ?_, ⟨_, rfl, wroteM_setMask ..⟩, ⟨_, rfl, wroteM_setMask ..⟩, ⟨_, rfl, wroteM_setMask ..⟩,
    ⟨_, rfl, wroteM_setMask ..⟩, ⟨_, rfl, wroteM_setMask ..⟩, State.mask_zero s, ?_⟩
  · exact vecLanes_of_bytes rfl fun j _ => Line.part_and ..
  · exact vecLanes_of_bytes rfl fun j _ => Line.part_or ..
  · exact vecLanes_of_bytes rfl fun j _ => Line.part_xor ..
  · exact vecLanes_of_bytes rfl fun j hj => by rw [Line.part_and, Line.part_not _ hj]
  · exact vecLanes_of_bytes rfl fun j _ => rfl
  · obtain ⟨wrote, value⟩ := wroteV_setV s vd (mergeLine (s.v vb) (s.v va) (s.mask mk))
    exact ⟨_, rfl, wrote, fun j hj => by rw [value, Line.part_mergeLine _ _ _ hj]⟩
  · refine vecLanes_of_mapLanes rfl fun j _ => ⟨?_, rfl⟩
    rw [pow256, Nat.mod_mod]
  · refine vecLanes_of_mapLanes rfl fun j _ => ⟨?_, rfl⟩
    rw [lane_eq_part, lane_eq_part]
    dsimp only
    split
    · rfl
    · rw [lane_eq_part, Nat.mod_eq_of_lt (Line.part_lt ..)]
  · rw [← lane_eq_part]
    exact ⟨_, rfl, wroteG_setG ..⟩

end Sys2Proof.Machine
end

section
/-! Where an address leads: the checks of R141, path by path. -/

namespace Sys2Proof.Machine

/-! Bits of an address, as numbers. -/

theorem bits_path (a : Word) : bits a 60 4 = a.toNat / 2 ^ 60 := Nat.mod_eq_of_lt (by have := a.isLt; omega)

theorem bits_low {w : Nat} (a : BitVec w) (n : Nat) : bits a 0 n = a.toNat % 2 ^ n := by rw [bits, Nat.pow_zero, Nat.div_one]

/-- The form of a GEN, RO, UC or LAT address fails for a set bit in 59:56 or for tensor 0 (R141). -/
theorem genForm_eq_false_iff (a : Word) : genForm a = false ↔ a.toNat / 2 ^ 56 % 16 ≠ 0 ∨ a.toNat / 2 ^ 40 % 2 ^ 16 = 0 := by
  rw [genForm, Bool.and_eq_false_iff, decide_eq_false_iff_not, decide_eq_false_iff_not, not_not]
  rfl

/-! The checks before the path decides. -/

variable (s : State) {a : Word} {size : Nat} {kind : AccessKind}

theorem target_unassigned (h : bits a 60 4 = 6 ∨ bits a 60 4 = 7 ∨ bits a 60 4 = 0xD) : s.target a size kind = .trap 8 0 a := if_pos h

theorem target_userWindow (h : bits a 60 4 = 0xF) (hu : (s.old.clu s.cur.clu).priv = false) : s.target a size kind = .trap 3 0 a := by
  simp [State.target, h, hu]

theorem target_misaligned (hp : ¬ (bits a 60 4 = 6 ∨ bits a 60 4 = 7 ∨ bits a 60 4 = 0xD))
    (hu : ¬ (bits a 60 4 = 0xF ∧ (s.old.clu s.cur.clu).priv = false)) (ha : a.toNat % size ≠ 0) : s.target a size kind = .trap 9 0 a := by
  have hu' : ¬ (bits a 60 4 = 0xF ∧ (!(s.old.clu s.cur.clu).priv) = true) := by simpa using hu
  rw [State.target, if_neg hp, if_neg hu', if_pos ha]

/-! Aligned accesses, by their path. -/

section
variable (ha : a.toNat % size = 0)
include ha

theorem target_gen (h : bits a 60 4 = 0 ∨ bits a 60 4 = 3) :
    s.target a size kind = if genForm a then s.memTarget a (bits a 60 4) (kind != .load) else .trap 8 0 a := by
  rcases h with h | h <;> simp [State.target, h, ha]

theorem target_ro (h : bits a 60 4 = 1) :
    s.target a size kind = if genForm a && kind == .load then s.memTarget a 1 false else .trap 8 0 a := by
  simp [State.target, h, ha]

theorem target_lat (h : bits a 60 4 = 2) :
    s.target a size kind = (s.latTarget a).bind fun t u => if kind = .load then u.latPage t a else .trap 0xB 0 a := by
  simp [State.target, h, ha]

theorem target_host (h : bits a 60 4 = 4) : s.target a size kind =
    if bits a 52 8 = 0 ∧ bits a 0 52 < (s.dev 0xE00).toNat then .ok (.host (bits a 0 52)) s else .trap 8 0 a := by
  simp [State.target, h, ha]

theorem target_peer (h : bits a 60 4 = 5) : s.target a size kind = if bits a 58 2 ≠ 0 then .trap 8 0 a
    else if s.peerLost (bits a 48 10) then .trap 0x21 0 a else .ok (.peer (bits a 0 58)) s := by
  simp [State.target, h, ha]

theorem target_own (h : bits a 60 4 = 8 ∨ bits a 60 4 = 9 ∨ bits a 60 4 = 0xA ∨ bits a 60 4 = 0xB) : s.target a size kind =
    (s.ownBuf a size).bind fun t u => if kind = .load ∨ (kind = .store ∧ bits a 60 4 = 9) then .ok t u
      else .trap (if kind = .store then 0xA else 8) 0 a := by
  rcases h with h | h | h | h <;> simp [State.target, h, ha]

theorem target_quad (h : bits a 60 4 = 0xC) :
    s.target a size kind = (s.quadBuf a size).bind fun t u => if kind = .atomic then .trap 8 0 a else .ok t u := by
  simp [State.target, h, ha]

theorem target_reserved (h : bits a 60 4 = 0xE) : s.target a size kind = .trap 8 0 a := by
  simp [State.target, h, ha]

theorem target_window (h : bits a 60 4 = 0xF) (hu : (s.old.clu s.cur.clu).priv = true) : s.target a size kind =
    if bits a 40 20 = 0 ∧ kind ≠ .atomic then .ok (.window (bits a 0 40)) s else .trap 8 0 a := by
  simp [State.target, h, ha, hu]

end

/-! The typed buffers (R20, R21, R37). -/

/-- The buffer a path of 8 to 11 names is its low two bits. -/
theorem bufOfPath (b : Fin 4) : Fin.ofNat 4 (8 + b.val) = b := by
  have := b.isLt
  exact Fin.ext (by rw [Fin.val_ofNat]; omega)

theorem ownBuf_inside {b : Fin 4} (hb : bits a 60 4 = 8 + b.val) (hz : bits a 40 20 = 0) (hf : s.me.inFoot b (bits a 0 40) size = true) :
    s.ownBuf a size = .ok (.buf s.cur.core b (bits a 0 40)) s := by
  have path : Fin.ofNat 4 (bits a 60 4) = b := by rw [hb]; exact bufOfPath b
  rw [State.ownBuf, path, if_pos ⟨hz, hf⟩]

theorem ownBuf_outside {b : Fin 4} (hb : bits a 60 4 = 8 + b.val) (h : bits a 40 20 ≠ 0 ∨ s.me.inFoot b (bits a 0 40) size = false) :
    s.ownBuf a size = .trap 8 0 a := by
  have path : Fin.ofNat 4 (bits a 60 4) = b := by rw [hb]; exact bufOfPath b
  rw [State.ownBuf, path, if_neg (by rintro ⟨hz, hf⟩; rcases h with h | h <;> simp_all)]

theorem sameLaunch_iff (j k : Fin 768) :
    s.sameLaunch j k = true ↔ ∃ x y, (s.core j).task = some x ∧ (s.core k).task = some y ∧ x.lid = y.lid := by
  unfold State.sameLaunch
  cases (s.core j).task <;> cases (s.core k).task <;> simp

theorem Core.inFoot_iff (c : Core) (b : Fin 4) (off n : Nat) : c.inFoot b off n = true ↔ ∃ t, c.task = some t ∧ off + n ≤ t.foot b := by
  unfold Core.inFoot
  cases c.task <;> simp

/-- The A buffer of a quad peer is reached where the peer runs a task of the launch and the bytes lie in its footprint (R37). -/
theorem quadBuf_eq {k : Fin 768} (hk : quadCore s.cur.core (bits a 40 2) = k) (hz : bits a 42 18 = 0) : s.quadBuf a size =
    if (k = s.cur.core ∨ s.sameLaunch s.cur.core k = true) ∧ (s.core k).inFoot 1 (bits a 0 40) size = true
    then .ok (.buf k 1 (bits a 0 40)) s else .trap 8 0 a := by
  simp only [State.quadBuf, hk, hz, true_and]

/-! The faults of the instructions. -/

theorem loadTo_trap {c det : Nat} (d : Reg) (signed : Bool) (scope : Nat) (h : s.target a size .load = .trap c det a) :
    s.loadTo d a size signed scope = s.faultAt c det a := by rw [State.loadTo, h, Res.out_trap]

theorem storeFrom_trap {c det : Nat} (x : Word) (h : s.target a size .store = .trap c det a) :
    s.storeFrom a size x = s.faultAt c det a := by rw [State.storeFrom, h, Res.out_trap]

theorem atomic_trap {c det : Nat} (op : AOp) (d ra rb : Reg) (order scope : BitVec 2)
    (h : s.target (s.g ra) size .atomic = .trap c det (s.g ra)) : s.atomic op d ra rb size order scope = s.faultAt c det (s.g ra) := by
  rw [State.atomic, h, Res.out_trap]

/-! The region of a LAT address. -/

theorem latTarget_badForm (h : genForm a = false) : s.latTarget a = .trap 8 0 a := by
  cases e : s.me.task <;> simp [State.latTarget, e, h]

theorem latTarget_noRegion (h : ∀ t, s.me.task = some t → s.regionAt t.ctx a = none) : s.latTarget a = .trap 8 0 a := by
  cases e : s.me.task with
  | none => simp [State.latTarget, e]
  | some t => simp [State.latTarget, e, h t e]

theorem latTarget_region {t : Task} {r : RegionTable × Region} (hf : genForm a = true) (ht : s.me.task = some t)
    (hr : s.regionAt t.ctx a = some r) : s.latTarget a = .ok (.lat r.1 r.2) s := by
  simp [State.latTarget, ht, hr, hf]

/-- Paths 0 to 3 with a bad form raise the address fault. -/
theorem target_badForm (ha : a.toNat % size = 0) (hp : bits a 60 4 = 0 ∨ bits a 60 4 = 1 ∨ bits a 60 4 = 2 ∨ bits a 60 4 = 3)
    (hf : genForm a = false) : s.target a size kind = .trap 8 0 a := by
  rcases hp with h | h | h | h
  · rw [target_gen s ha (.inl h), hf]; rfl
  · rw [target_ro s ha h, hf]; rfl
  · rw [target_lat s ha h, latTarget_badForm s hf]; rfl
  · rw [target_gen s ha (.inr h), hf]; rfl

theorem quadBuf_form (hz : bits a 42 18 ≠ 0) : s.quadBuf a size = .trap 8 0 a := if_neg fun h => hz h.1

theorem quadBuf_ok_or_trap : s.quadBuf a size = .trap 8 0 a ∨ ∃ t, s.quadBuf a size = .ok t s := by
  rw [State.quadBuf]
  split
  · exact .inr ⟨_, rfl⟩
  · exact .inl rfl

theorem peerLost_eq : s.peerLost (bits a 48 10) = s.plat.ualLost.getLsbD (a.toNat / 2 ^ 48 % 16) := by
  rw [State.peerLost, bits, Nat.mod_mod_of_dvd _ (by decide : 16 ∣ 2 ^ 10)]; rfl

/-- The core a quad-peer address names runs a task of the launch, or is the executing core. -/
theorem quad_reachable_iff (k : Fin 768) : (k = s.cur.core ∨ s.sameLaunch s.cur.core k = true) ↔
    (k = s.cur.core ∨ ∃ x y, s.me.task = some x ∧ (s.core k).task = some y ∧ x.lid = y.lid) := by
  rw [sameLaunch_iff]; rfl

/-- Settles O15: each clause is the check of its path. -/
theorem addressChecksComeInOrder : Obligations.AddressChecksComeInOrder := by
  intro s a size kind _
  dsimp only
  rw [← bits_path, ← bits_low a 40, ← bits_low a 52, ← bits_low a 58, ← genForm_eq_false_iff]
  refine ⟨target_unassigned s, target_userWindow s, fun h6 h7 hd => target_misaligned s (by omega),
    target_badForm s, fun ha h hk => ?_, fun ha h hf hr => ?_, fun ha h hf hk t r ht hr => ?_, fun ha h hw => ?_,
    fun b ha h => ⟨fun ho => ?_, fun hz hi => ⟨fun hk hb => ?_, fun hk => ?_, fun hk => ?_⟩⟩,
    fun ha h hz hw => ?_, fun ha h hz => ?_, fun ha h hz => ⟨fun hl => ?_, fun hl => ?_⟩, fun ha h hk => ?_, fun ha h hz => ?_,
    fun k hk ha h hz => ?_, target_reserved s, fun ha h hu hk => ?_, ?_⟩
  · simp [target_ro s ha h, hk]
  · rw [target_lat s ha h, latTarget_noRegion s hr]; rfl
  · rw [target_lat s ha h, latTarget_region s (by simpa using hf) ht hr]
    exact if_neg hk
  · rw [target_host s ha h]
    exact if_neg fun hin => hw.elim (absurd hin.1) (Nat.not_le_of_lt hin.2)
  · rw [target_own s ha (by omega), ownBuf_outside s h ho]; rfl
  · have : bits a 60 4 ≠ 9 := fun h9 => hb (Fin.ext (by rw [h9] at h; omega))
    simp [target_own s ha (by omega), ownBuf_inside s h hz hi, Res.bind, hk, this]
  · simp [target_own s ha (by omega), ownBuf_inside s h hz hi, Res.bind, hk]
  · have hk : kind = .load ∨ kind = .store ∧ bits a 60 4 = 9 := hk.imp_right fun hs => ⟨hs.1, by rw [h, hs.2]; rfl⟩
    rw [target_own s ha (by omega), ownBuf_inside s h hz hi]
    exact if_pos hk
  · rw [target_host s ha h]
    exact if_pos ⟨hz, hw⟩
  · rw [target_peer s ha h]
    exact if_pos hz
  · rw [target_peer s ha h, if_neg (fun h => h hz : ¬ bits a 58 2 ≠ 0), peerLost_eq, hl]; rfl
  · rw [target_peer s ha h, if_neg (fun h => h hz : ¬ bits a 58 2 ≠ 0), peerLost_eq, hl]; rfl
  · rw [target_quad s ha h]
    obtain e | ⟨t, e⟩ := quadBuf_ok_or_trap s (a := a) (size := size) <;> rw [e]
    · rfl
    · exact if_pos hk
  · rw [target_quad s ha h, quadBuf_form s hz]; rfl
  · have hk : quadCore s.cur.core (bits a 40 2) = k := Fin.ext (by rw [hk, quadCore]; simp [bits])
    rw [target_quad s ha h, quadBuf_eq s hk hz]
    refine ⟨fun hr => ?_, fun hf => ?_, fun y hy hr hf hk => ?_⟩
    · rw [if_neg fun both => hr ((quad_reachable_iff s k).1 both.1)]; rfl
    · have out : (s.core k).inFoot 1 (bits a 0 40) size ≠ true := fun hin => by
        obtain ⟨y, hy, hin⟩ := (Core.inFoot_iff ..).1 hin
        exact absurd (hf y hy) (Nat.not_lt_of_le hin)
      rw [if_neg fun both => out both.2]; rfl
    · rw [if_pos ⟨(quad_reachable_iff s k).2 hr, (Core.inFoot_iff ..).2 ⟨y, hy, hf⟩⟩]
      exact if_neg hk
  · simp [target_window s ha h (by simpa using hu), hk]
  · intro d ra rb ty sz sc od sg s1 o11 o12 c det
    refine ⟨loadTo_trap s d _ _, loadTo_trap s d _ _, storeFrom_trap s _, storeFrom_trap s _, atomic_trap s .fadd d ra rb od sc, ?_⟩
    rintro h i (rfl | rfl | rfl | rfl | rfl | rfl | rfl | rfl | rfl | rfl) <;> exact atomic_trap s _ d ra rb od sc h

end Sys2Proof.Machine
end

section
/-! A step: its turn, its bundle, and what the bundle's instruction answers. -/

namespace Sys2Proof.Machine

/-! What the passing of time leaves: memory, the registers of the device, the scheduler. -/

/-- The two states agree in what no tick touches but the cadence counter. -/
def SameWhilePassing (s t : State) : Prop :=
  t.cadence = s.cadence ∧ t.ms = s.ms ∧ t.regs = s.regs ∧ t.sch = s.sch

namespace SameWhilePassing

theorem refl (s : State) : SameWhilePassing s s := ⟨rfl, rfl, rfl, rfl⟩

theorem trans {s t u : State} (h : SameWhilePassing s t) (k : SameWhilePassing t u) : SameWhilePassing s u := by
  obtain ⟨hc, hm, hr, hs⟩ := h
  obtain ⟨kc, km, kr, ks⟩ := k
  exact ⟨kc.trans hc, km.trans hm, kr.trans hr, ks.trans hs⟩

theorem ite {c : Prop} [Decidable c] {s t u : State} (h : SameWhilePassing s t) (k : SameWhilePassing s u) :
    SameWhilePassing s (if c then t else u) := by
  split
  · exact h
  · exact k

theorem foldl {α : Type} {f : State → α → State} (hf : ∀ s a, SameWhilePassing s (f s a)) (l : List α) (s : State) :
    SameWhilePassing s (l.foldl f s) := by
  induction l generalizing s with
  | nil => exact refl s
  | cons a l ih => exact (hf s a).trans (ih (f s a))

end SameWhilePassing

open SameWhilePassing in
theorem State.markMisses_passing (s : State) (dt : Nat) : SameWhilePassing s (s.markMisses dt) := by
  refine foldl (fun t e => ?_) _ s
  unfold State.markMiss
  split
  · exact refl t
  · exact ite ⟨rfl, rfl, rfl, rfl⟩ (refl t)

theorem State.sendMsg_passing (s : State) (m : Msg) (cls : BitVec 2) (r : List (Fin 14 × Fin 2)) : SameWhilePassing s (s.sendMsg m cls r) := by
  cases r <;> exact ⟨rfl, rfl, rfl, rfl⟩

open SameWhilePassing in
theorem State.sendReplica_passing (s : State) (k d : Fin 8) (u : Nat × Nat) : SameWhilePassing s (s.sendReplica k d u) := by
  unfold State.sendReplica
  dsimp only
  split
  · exact refl s
  · split
    · exact refl s
    · exact ite (refl s) ((foldl (fun t p => t.sendMsg_passing _ _ _) _ s).trans ⟨rfl, rfl, rfl, rfl⟩)

open SameWhilePassing in
theorem State.exchange_passing (s : State) (k : Fin 8) (tick : Nat) : SameWhilePassing s (s.exchange k tick) := by
  unfold State.exchange
  refine trans ?_ (foldl (fun t d => ?_) _ _)
  · exact ⟨rfl, rfl, rfl, rfl⟩
  · exact ite (refl t) (foldl (fun v u => v.sendReplica_passing k d u) _ t)

open SameWhilePassing in
theorem State.exchanges_passing (k : Fin 8) (hi n : Nat) : ∀ (s : State) (lo : Nat), SameWhilePassing s (s.exchanges k lo hi n) := by
  induction n with
  | zero => exact fun s _ => refl s
  | succ n ih => exact fun s _ => ite ((s.exchange_passing k _).trans (ih _ _)) (refl s)

open SameWhilePassing in
theorem State.exchangesOver_passing (s : State) (dt : Nat) : SameWhilePassing s (s.exchangesOver dt) :=
  foldl (fun t _ => ite (State.exchanges_passing _ _ _ t _) (refl t)) _ s

/-- Time passes: the cadence counter moves on, and memory, device registers and the scheduler stay. -/
theorem State.advance_passing (s : State) (dt : Nat) : (s.advance dt).cadence = s.cadence + BitVec.ofNat 64 dt ∧
    (s.advance dt).ms = s.ms ∧ (s.advance dt).regs = s.regs ∧ (s.advance dt).sch = s.sch := by
  obtain ⟨hc, hm, hr, hs⟩ := (s.markMisses_passing dt).trans ((s.markMisses dt).exchangesOver_passing dt)
  have count : ((s.markMisses dt).exchangesOver dt |>.count dt).cadence = s.cadence + BitVec.ofNat 64 dt := by rw [← hc]; rfl
  unfold State.advance
  dsimp only
  split
  · exact ⟨count, hm, hr, hs⟩
  · exact ⟨count, hm, hr, hs⟩

/-! A bundle of one instruction. -/

theorem decodeBundle_single {x : Clu} {f : Fetched} (h : f.second = none) :
    (∀ i, decodeChecked x f.first = .ok i → decodeBundle x f = .ok [⟨i, f.first.1, f.first.2⟩]) ∧
      ∀ c, decodeChecked x f.first = .error c → decodeBundle x f = .error (c, f.first.1, f.first.2) := by
  constructor <;> intro r hr <;> simp only [decodeBundle, h, hr] <;> rfl

/-- The state in which a bundle's instructions execute: registers latched, pc past the bundle. -/
def State.inBundle (v : State) (f : Fetched) : State :=
  State.onCl { v with latch := some v.me, ir := { v.ir with bpc := f.addr, npc := f.npc, w0 := 0, w1 := 0 } }
    fun c => { c with pc := f.npc, pcReg := false, lineRoom := maxLines + 1 }

theorem runPart_inBundle (v : State) (p : Part) (f : Fetched) (ex : Instr → State → Out) :
    (v.inBundle f).runPart ex p = ex p.i (v.entering p f) := rfl

theorem chargeOf_inBundle (v : State) (p : Part) (f : Fetched) : (v.inBundle f).chargeOf p.i = (v.entering p f).chargeOf p.i := rfl

theorem runParts_single_next {ex : Instr → State → Out} {s w : State} {p : Part} (h : s.runPart ex p = .next w) :
    s.runParts ex [p] = .next w := by
  simp only [State.runParts, h]
  cases hr : w.report with
  | branched =>
    have same : ({ w with report := .branched } : State) = w := by rw [← hr]
    exact congrArg Host.Outcome.next same
  | _ => rfl

/-- What the one instruction of a bundle answers, before the bundle's own end. -/
theorem runParts_single (ex : Instr → State → Out) (s : State) (p : Part) : s.runParts ex [p] = s.runPart ex p := by
  cases h : s.runPart ex p with
  | next w => exact runParts_single_next h
  | fault e => simp only [State.runParts, h]
  | refused e => simp only [State.runParts, h]

section
variable {ex : Instr → State → Out} {v : State} {p : Part} {f : Fetched} {sync : Bool}

theorem execBundle_held (h : v.me.interlocked v.cur.clu p.i = true) : v.execBundle ex f [p] sync =
    .next { (if v.cur.clu = .m then v.onCl fun c => c.holdOn v.cadence.toNat else v) with report := .stalled } := by
  simp [State.execBundle, h]

/-- A bundle of one instruction that nothing holds does what the instruction answers, and ends where that issues. -/
theorem execBundle_free (h : v.me.interlocked v.cur.clu p.i = false) : v.execBundle ex f [p] sync =
    match ex p.i (v.entering p f) with
    | .next u =>
      if u.report = .stalled ∨ u.report = .trapped ∨ u.report = .idle then .next { u with latch := none }
      else
        let charge := max 1 ((v.entering p f).chargeOf p.i)
        if v.overdraws v.cur.core charge then v.refuseBundle 0x1B 0 0 p.w0 p.w1 else .next (u.endBundle v.me [p] sync charge)
    | out => out := by
  have free : ¬ ([p].any fun p => v.me.interlocked v.cur.clu p.i) = true := by simp [h]
  have whole : v.execBundle ex f [p] sync = match (v.inBundle f).runParts ex [p] with
      | .next u =>
        if u.report = .stalled ∨ u.report = .trapped ∨ u.report = .idle then .next { u with latch := none }
        else
          let charge := max 1 (0 + (v.inBundle f).chargeOf p.i)
          if v.overdraws v.cur.core charge then v.refuseBundle 0x1B 0 0 p.w0 p.w1 else .next (u.endBundle v.me [p] sync charge)
      | out => out := if_neg free
  rw [whole, runParts_single, runPart_inBundle, Nat.zero_add, chargeOf_inBundle]

end

/-! The turn. -/

/-- What a turn does after its cluster's bundle has answered a state: the rendezvous the cluster waits for. -/
def State.meetAfter (ex : Instr → State → Out) (k : Fin 768) (x : Clu) (w : State) : Out :=
  if ((w.core k).clu x).atSync && w.syncNext k x then
    (match w.rendezvous ex k with
    | .next z => .next { z with latch := none }
    | o => o)
  else .next w

theorem runBundle_eq (ex : Instr → State → Out) (s : State) (k : Fin 768) (x : Clu) :
    s.runBundle ex k x = match s.tryBundle ex k x false with
      | .next t => t.meetAfter ex k x
      | o => o := rfl

/-- The state in which a cluster attempts its bundle. -/
def State.atTurn (s : State) (k : Fin 768) (x : Clu) : State :=
  { (s.endIdle k x) with cur := { core := k, clu := x }, latch := none }

/-- A fetched bundle leaves the state with the pc at the bundle. -/
theorem nextBundle_ok {s v : State} {f : Fetched} (h : s.nextBundle = .ok (v, f)) :
    ∃ a n, v = s.onCl fun c => { c with pc := a, pcReg := false, lineRoom := n } := by
  unfold State.nextBundle at h
  dsimp only at h
  split at h
  · cases h
  · cases hn : s.normalise (s.me.fetcher s.cur.core s.cur.clu) s.cl.pc s.cl.pcReg s.cl.lineRoom with
    | error x => rw [hn] at h; cases h
    | ok r =>
      rw [hn] at h
      dsimp only [bind, Except.bind] at h
      split at h
      · cases h
      · split at h
        · cases h
        · cases h; exact ⟨_, _, rfl⟩

theorem nextBundle_cur {s v : State} {f : Fetched} (h : s.nextBundle = .ok (v, f)) : v.cur = s.cur := by
  obtain ⟨a, n, rfl⟩ := nextBundle_ok h
  rfl

/-! A cluster's attempt, by what holds it, what it fetches and what that decodes to. -/

section
variable {ex : Instr → State → Out} {s v : State} {k : Fin 768} {x : Clu} {f : Fetched} {meet : Bool}

theorem tryBundle_idle (h : (s.atTurn k x).canIssue k x = false) :
    s.tryBundle ex k x meet = .next { s.atTurn k x with report := .idle } := by
  have held : (!(s.atTurn k x).canIssue k x) = true := by rw [h]; rfl
  exact if_pos held

theorem tryBundle_free (h : (s.atTurn k x).canIssue k x = true) : s.tryBundle ex k x meet =
    match (s.atTurn k x).nextBundle with
    | .error e => ((s.atTurn k x).settledPc k x).refuseBundle e.cause e.detail e.addr e.w0 e.w1
    | .ok (t, f) =>
      match decodeBundle x f with
      | .error (c, w0, w1) => t.refuseBundle c 0 0 w0 w1
      | .ok ps =>
        if (f.sync && !t.cl.inh) && !meet then .next { (t.onCl fun c => { c with atSync := true }) with report := .stalled }
        else t.execBundle ex f ps (f.sync && !t.cl.inh) := by
  have free : ¬ (!(s.atTurn k x).canIssue k x) = true := by rw [h]; simp
  exact if_neg free

theorem tryBundle_unfetched {e : FetchError} (h : (s.atTurn k x).canIssue k x = true) (he : (s.atTurn k x).nextBundle = .error e) :
    s.tryBundle ex k x meet = ((s.atTurn k x).settledPc k x).refuseBundle e.cause e.detail e.addr e.w0 e.w1 := by
  rw [tryBundle_free h, he]

theorem tryBundle_undecoded {c w0 w1 : Nat} (h : (s.atTurn k x).canIssue k x = true) (hv : (s.atTurn k x).nextBundle = .ok (v, f))
    (hd : decodeBundle x f = .error (c, w0, w1)) : s.tryBundle ex k x meet = v.refuseBundle c 0 0 w0 w1 := by
  rw [tryBundle_free h, hv]
  simp only [hd]

/-- A sync bundle outside a handler waits at its rendezvous (R48). -/
theorem tryBundle_sync {ps : List Part} (h : (s.atTurn k x).canIssue k x = true) (hv : (s.atTurn k x).nextBundle = .ok (v, f))
    (hd : decodeBundle x f = .ok ps) (hs : f.sync = true) (hi : v.cl.inh = false) :
    s.tryBundle ex k x false = .next { (v.onCl fun c => { c with atSync := true }) with report := .stalled } := by
  rw [tryBundle_free h, hv]
  simp only [hd, hs, hi, Bool.not_false, Bool.and_true, if_true]

theorem tryBundle_runs {ps : List Part} (h : (s.atTurn k x).canIssue k x = true) (hv : (s.atTurn k x).nextBundle = .ok (v, f))
    (hd : decodeBundle x f = .ok ps) (hs : f.sync = false ∨ v.cl.inh = true) : s.tryBundle ex k x meet = v.execBundle ex f ps false := by
  have alone : (f.sync && !v.cl.inh) = false := by rcases hs with h | h <;> simp [h]
  rw [tryBundle_free h, hv]
  simp only [hd, alone, Bool.false_and, Bool.false_eq_true, if_false]

end

/-! Turns. -/

theorem step_turn {s : State} {t : Turn} {rest : List Turn} (h : s.agenda = t :: rest) :
    step s = shotAfter (runTurn t { s with agenda := rest }) := by
  rw [step, h]

theorem parityError_task {s : State} {k : Fin 768} (h : (s.core k).task ≠ none) (x : Clu) :
    s.parityError k x = { s.machineCheck k x 0x21 0 with report := .trapped } := if_pos (Option.isSome_iff_ne_none.mpr h)

theorem parityError_noTask {s : State} {k : Fin 768} (h : (s.core k).task = none) (x : Clu) :
    s.parityError k x = { s with report := .idle } := by
  rw [State.parityError, h]; rfl

/-- Settles O58: the turn runs the attempt, and the attempt is decided by fetch, decoding and the instruction's answer. -/
theorem aStepRunsTheDecodedBundle : Obligations.AStepRunsTheDecodedBundle := by
  refine ⟨fun s k x dt rest hs => ?_, fun s t rest hs => ?_, fun s hs => ⟨fun hn => ?_, fun k x hn => ?_⟩⟩
  · intro u y settle
    obtain ⟨hc, hm, hr, hsch⟩ := State.advance_passing { s with agenda := rest } dt
    refine ⟨hc, hm, hr, hsch, ?_⟩
    have whole : step s = shotAfter (u.runBundle exec k x) := step_turn hs
    rw [runBundle_eq] at whole
    have turn : ∀ w, u.tryBundle exec k x false = .next w → step s = settle w := fun w hw => by rw [whole, hw]; rfl
    clear_value settle
    refine ⟨fun hi => turn _ (tryBundle_idle hi), fun hi => ⟨fun e he => ⟨_, rfl, turn _ (tryBundle_unfetched hi he)⟩, fun v f hv => ?_⟩⟩
    have cur : v.cur = { core := k, clu := x } := nextBundle_cur hv
    refine ⟨fun c w0 w1 hd => ⟨_, rfl, turn _ (tryBundle_undecoded hi hv hd)⟩, decodeBundle_single,
      fun ps hd hs hin => turn _ (tryBundle_sync hi hv hd hs hin), fun ps hd hs => ?_⟩
    have runs := tryBundle_runs (ex := exec) (meet := false) hi hv hd hs
    refine ⟨fun w hw => turn w (runs.trans hw), fun e he => ?_, fun e he => ?_, ?_⟩
    · rw [whole, show u.tryBundle exec k x false = _ from runs, he]; rfl
    · rw [whole, show u.tryBundle exec k x false = _ from runs, he]; rfl
    · rintro p rfl
      have me : v.core k = v.me := by rw [State.me, cur]
      have clu : v.cur.clu = x := by rw [cur]
      have core : v.cur.core = k := by rw [cur]
      refine ⟨fun hh => ?_, fun hh => ?_⟩
      · rw [me, ← clu] at hh
        rw [execBundle_held hh, clu]
      · rw [me, ← clu] at hh
        rw [execBundle_free hh, core]
        refine ⟨fun w hw => ⟨fun hrep => ?_, fun hrep => ⟨fun ho => ?_, fun ho => ?_⟩⟩, fun e he => by rw [he], fun e he => by rw [he]⟩
        · rw [hw]; exact if_pos hrep
        · have issued : ¬ (w.report = .stalled ∨ w.report = .trapped ∨ w.report = .idle) := by rcases hrep with h | h <;> simp [h]
          rw [hw]; simp only [if_neg issued, ho, if_true]
        · have issued : ¬ (w.report = .stalled ∨ w.report = .trapped ∨ w.report = .idle) := by rcases hrep with h | h <;> simp [h]
          rw [hw]; simp only [if_neg issued, ho, Bool.false_eq_true, if_false]
  · intro u
    refine ⟨?_, fun a b dt ht ha hw => ?_, fun a b dt ht ha hw => ?_, ?_⟩
    · rintro i dt rfl
      rw [step_turn hs]
      exact ⟨fun h => by rw [runTurn, if_pos h], fun h => by rw [runTurn, if_neg h]⟩
    · obtain rfl := ht
      have ms : (u dt).ms = s.ms := (State.advance_passing _ dt).2.1
      refine ⟨(u dt).hostPut a b, step_turn hs, fun j => ?_, ?_⟩
      · rw [State.hostPut, if_pos ha, ms]; exact Memory.read_write hw a b j
      · rw [State.hostPut, if_pos ha, ms]
    · obtain rfl := ht
      have ms : (u dt).ms = s.ms := (State.advance_passing _ dt).2.1
      refine ⟨(u dt).peerPut a b, step_turn hs, fun j => ?_, ?_⟩
      · rw [State.peerPut, if_pos ha, ms]; exact Memory.read_write hw a b j
      · rw [State.peerPut, if_pos ha, ms]
    · rintro k x dt rfl
      rw [step_turn hs]
      exact ⟨fun h => by rw [runTurn, parityError_noTask h], fun h => by rw [runTurn, parityError_task h]⟩
  · rw [step, hs, hn]
  · rw [step, hs, hn]; rfl

end Sys2Proof.Machine
end

section
/-! Held bundles: what an issue event runs, and what an instruction that only reads and waits leaves behind. -/

namespace Sys2Proof.Machine

/-! Changes of the executing core's engines: the L1 and the checker. -/

/-- Nothing changes but the engines of the executing core. -/
def onlyEngines (s t : State) : Prop := ∃ e, t = s.onEn fun _ => e

theorem onlyEngines.refl (s : State) : onlyEngines s s := ⟨s.me.en, (State.setCore_me s).symm⟩

theorem onlyEngines.trans {s t u : State} (h : onlyEngines s t) (k : onlyEngines t u) : onlyEngines s u := by
  obtain ⟨e, rfl⟩ := h
  obtain ⟨e', rfl⟩ := k
  refine ⟨e', ?_⟩
  simp only [State.onEn, State.onMe_eq, State.setCore_cur, State.me_setCore, State.setCore_setCore]

theorem State.acquire_onlyEngines (s : State) (scope : Nat) : onlyEngines s (s.acquire scope) := by
  unfold State.acquire
  split
  · exact .refl s
  · exact ⟨_, rfl⟩

theorem State.onCheck_onlyEngines (s : State) (f : Checker → Checker) : onlyEngines s (s.onCheck f) :=
  ⟨{ s.me.en with check := (s.me.onCheck f).en.check }, by rw [State.onCheck, State.onMe_eq, Core.onCheck_frame]; rfl⟩

theorem State.takeClock_onlyEngines (s : State) (obj : Nat) : onlyEngines s (s.takeClock s.cur.core obj) := by
  unfold State.takeClock
  split
  · exact .refl s
  · exact (s.onCheck_onlyEngines _).trans (State.onCheck_onlyEngines _ _)

theorem State.latSeen_onlyEngines (s : State) (t : RegionTable) (r : Region) (a : Word) (n : Nat) : onlyEngines s (s.latSeen t r a n) :=
  s.onCheck_onlyEngines _

/-! Instructions that change registers, the records of waits, storage and engines, and nothing else. -/

/-- Of the executing cluster only general registers and the records of waits change, and nothing of the core's other clusters or of
the rest of the device does. -/
def actedAlone (s t : State) : Prop :=
  ∃ c, t = s.setCore s.cur.core c ∧ (∀ y, y ≠ s.cur.clu → c.clu y = s.me.clu y) ∧
    c.clu s.cur.clu = { s.cl with g := (c.clu s.cur.clu).g, waitSince := (c.clu s.cur.clu).waitSince, claspWait := (c.clu s.cur.clu).claspWait }

theorem actedAlone.refl (s : State) : actedAlone s s := ⟨s.me, (State.setCore_me s).symm, fun _ _ => rfl, rfl⟩

theorem actedAlone.trans {s t u : State} (h : actedAlone s t) (k : actedAlone t u) : actedAlone s u := by
  obtain ⟨c, rfl, hc, hx⟩ := h
  obtain ⟨d, rfl, hd, hy⟩ := k
  rw [State.setCore_cur, State.cl_setCore, hx] at hy
  rw [State.setCore_cur, State.me_setCore] at hd
  refine ⟨d, by rw [State.setCore_cur, State.setCore_setCore], fun y h => (hd y h).trans (hc y h), ?_⟩
  rw [hy]

theorem actedAlone_of_cl {s : State} {c : Core} (h : c.cl = s.me.cl) : actedAlone s (s.setCore s.cur.core c) := by
  have same : ∀ y, c.clu y = s.me.clu y := fun y => by rw [Core.clu, h, Core.clu]
  exact ⟨c, rfl, fun y _ => same y, by rw [same]; rfl⟩

theorem onlyEngines.actedAlone {s t : State} (h : onlyEngines s t) : actedAlone s t := by
  obtain ⟨e, rfl⟩ := h
  exact actedAlone_of_cl rfl

theorem actedAlone_setG (s : State) (d : Reg) (x : Word) : actedAlone s (s.setG d x) := by
  rw [State.setG_eq]
  refine ⟨_, rfl, fun y h => Core.putG_ne _ h _ _, ?_⟩
  unfold Core.putG
  split
  · rfl
  · rw [Core.onClu_same]; rfl

theorem actedAlone_endWait (s : State) : actedAlone s s.endWait :=
  ⟨_, rfl, fun _ h => Core.onClu_ne _ _ h, by rw [Core.onClu_same]; rfl⟩

/-! The end of a bundle at which no loop ends. -/

theorem onCl_id (s : State) : (s.onCl fun c => c) = s := by
  have same : (s.me.onClu s.cur.clu fun c => c) = s.me := by 
    simp [Core.onClu, vset, Core.clu, vget]
  rw [State.onCl, State.onMe_eq, same, State.setCore_me]

theorem loopEnd_idle {o : Cluster} (h : ∀ l, vget o.lpc l = 0) (bpc : Word) (wrote : Option Nat) (c : Cluster) (n : Nat) :
    loopEnd o bpc wrote c n = c := by
  induction n with
  | zero => rfl
  | succ n ih =>
    have done : ¬ (vget o.lpc (Fin.ofNat 4 n) ≠ 0 ∧ vget o.lpe (Fin.ofNat 4 n) = bpc) := fun e => e.1 (h _)
    exact (if_neg done).trans ih

theorem Core.count_frame (k : Core) (e : Nat) (x : Clu) (n : Nat) : k.count e x n = { k with rg := (k.count e x n).rg } := by
  unfold Core.count
  split
  · rfl
  · dsimp only
    split <;> rfl

/-- The cluster of a bundle that has issued, and is no sync bundle. -/
def Cluster.issued (c : Cluster) (inh : Bool) (now : Nat) : Cluster :=
  { c.holdOff now with stampSeen := none, atSync := false, claspKept := if inh then c.claspKept else none }

/-- A change of the executing cluster, and then of the core's registers. -/
theorem onCl_regs (w : State) (f : Cluster → Cluster) {g h : Core → Core} (hg : ∀ k, g k = { k with rg := (g k).rg })
    (hh : ∀ k, h k = { k with rg := (h k).rg }) : ∃ rg, ((w.onCl f).onMe g).onCore w.cur.core h =
      w.setCore w.cur.core { (w.me.onClu w.cur.clu f) with rg := rg } := by
  refine ⟨(h (g (w.me.onClu w.cur.clu f))).rg, ?_⟩
  rw [State.onCl, State.onMe_eq w, State.onMe_setCore, State.onCore, State.setCore_core_same, State.setCore_setCore, hh, hg]

/-- The bundle's end counts, charges and closes the records of the cluster. -/
theorem endBundle_issued {w : State} {o : Core} (hr : w.report = .issued) (hl : ∀ l, vget (o.clu w.cur.clu).lpc l = 0) (ps : List Part)
    (n : Nat) : ∃ d, w.endBundle o ps false n = { (w.setCore w.cur.core d) with latch := none } ∧
      (∀ y, d.clu y = (w.me.onClu w.cur.clu fun c => c.issued (o.clu w.cur.clu).inh w.cadence.toNat).clu y) ∧ d.st = w.me.st := by
  have loops : (w.onCl fun c => loopEnd (o.clu w.cur.clu) w.ir.bpc (ps.findSome? fun p => writesLpc p.i) c 4) = w := by
    simp only [loopEnd_idle hl]
    exact onCl_id w
  have stays : ¬ w.report = .branched := by rw [hr]; exact Report.noConfusion
  obtain ⟨rg, h⟩ := onCl_regs w (fun c => c.issued (o.clu w.cur.clu).inh w.cadence.toNat)
    (fun k => k.count_frame 3 w.cur.clu 1) (h := fun c => { c with rg := { c.rg with charges :=
      (w.cadence.toNat, n) :: (c.rg.charges.filter fun e => decide (w.cadence.toNat < e.1 + 256)) } }) fun _ => rfl
  refine ⟨{ (w.me.onClu w.cur.clu fun c => c.issued (o.clu w.cur.clu).inh w.cadence.toNat) with rg := rg }, ?_, fun _ => rfl, rfl⟩
  rw [← h]
  unfold State.endBundle
  dsimp only
  rw [if_neg stays, loops]
  rfl

theorem endBundle_report (w : State) (o : Core) (ps : List Part) (sync : Bool) (n : Nat) : (w.endBundle o ps sync n).report = w.report := by
  unfold State.endBundle
  dsimp only
  split <;> rfl

/-! The issue events. -/

theorem atTurn_of_canIssue {s : State} {k : Fin 768} {x : Clu} (h : (s.at_ k x).canIssue k x = true) : s.atTurn k x = s.at_ k x := by
  have awake : ((s.core k).clu x).idle = false := by
    unfold State.canIssue at h
    simp only [Bool.and_eq_true, Bool.not_eq_true'] at h
    obtain ⟨⟨⟨⟨⟨-, idle⟩, -⟩, -⟩, -⟩, -⟩ := h
    exact idle
  have still : s.endIdle k x = s := by simp [State.endIdle, awake]
  rw [State.atTurn, still]; rfl

theorem reissue_of_shut {s : State} {k : Fin 768} {x : Clu} (h : (s.at_ k x).canIssue k x = false) (g : Part → Bool) :
    s.reissue k x g = s.idleOut := by
  have none_ : s.nextParts k x = [] := by
    have held : (!(s.asClu k x).canIssue k x) = true := by rw [show (s.asClu k x).canIssue k x = false from h]; rfl
    exact if_pos held
  rw [State.reissue, none_]; rfl

section
variable {s v : State} {k : Fin 768} {x : Clu} {p : Part} {f : Fetched} (h : NextIs s k x p v f)
include h

theorem nextIs_cur : v.cur = { core := k, clu := x } := nextBundle_cur h.2.1

theorem nextParts_of_next : s.nextParts k x = [p] := by
  obtain ⟨hi, hv, hd, -⟩ := h
  have free : ¬ (!(s.asClu k x).canIssue k x) = true := by rw [show (s.asClu k x).canIssue k x = true from hi]; simp
  have whole : s.nextParts k x = _ := if_neg free
  rw [whole, show (s.asClu k x).nextBundle = _ from hv]
  simp only [hd]

/-- The event tries the bundle where its instruction is one of the event's. -/
theorem reissue_of_next (hs : f.sync = false ∨ v.cl.inh = true) (g : Part → Bool) : s.reissue k x g =
    if g p then s.unlessStalled (v.execBundle issueInstr f [p] false) else s.idleOut := by
  have tried := nextParts_of_next h
  obtain ⟨hi, hv, hd, -⟩ := h
  have turn := atTurn_of_canIssue hi
  rw [State.reissue, tried, tryBundle_runs (turn ▸ hi) (turn ▸ hv) hd hs]
  simp only [List.any_cons, List.any_nil, Bool.or_false]

theorem stalledIssue_of_next (hs : f.sync = false ∨ v.cl.inh = true) :
    exec (.stalledBundleIssue k x) s = s.unlessStalled (v.execBundle issueInstr f [p] false) :=
  (reissue_of_next h hs fun _ => true).trans (if_pos rfl)

theorem execBundle_of_next {w : State} (hw : exec p.i (v.entering p f) = .next w) : v.execBundle issueInstr f [p] false =
    if w.report = .stalled ∨ w.report = .trapped ∨ w.report = .idle then .next { w with latch := none }
    else
      let charge := max 1 ((v.entering p f).chargeOf p.i)
      if v.overdraws k charge then v.refuseBundle 0x1B 0 0 p.w0 p.w1 else .next (w.endBundle v.me [p] false charge) := by
  have cur := nextIs_cur h
  obtain ⟨-, -, -, wf, free, -⟩ := h
  have me : v.core k = v.me := by rw [State.me, cur]
  have clu : v.cur.clu = x := by rw [cur]
  have core : v.cur.core = k := by rw [cur]
  rw [me, ← clu] at free
  rw [execBundle_free free, issueInstr_eq_exec wf, hw, core]

end

theorem unlessStalled_held (s : State) {w : State} (h : w.report = .stalled ∨ w.report = .idle) : s.unlessStalled (.next w) = s.idleOut :=
  if_pos h

theorem unlessStalled_done (s : State) {w : State} (h : ¬ (w.report = .stalled ∨ w.report = .idle)) : s.unlessStalled (.next w) = .next w :=
  if_neg h

theorem stalledIssue_stalls {s v w : State} {k : Fin 768} {x : Clu} {p : Part} {f : Fetched} (h : NextIs s k x p v f)
    (hs : f.sync = false ∨ v.cl.inh = true) (hw : exec p.i (v.entering p f) = .next w) (hr : w.report = .stalled) :
    Idles (.stalledBundleIssue k x) s := by
  rw [Idles, stalledIssue_of_next h hs, execBundle_of_next h hw, if_pos (.inl hr)]
  exact unlessStalled_held s (.inl hr)

theorem stalledIssue_traps {s v w : State} {k : Fin 768} {x : Clu} {p : Part} {f : Fetched} (h : NextIs s k x p v f)
    (hs : f.sync = false ∨ v.cl.inh = true) (hw : exec p.i (v.entering p f) = .next w) (hr : w.report = .trapped) :
    exec (.stalledBundleIssue k x) s = .next { w with latch := none } := by
  rw [stalledIssue_of_next h hs, execBundle_of_next h hw, if_pos (.inr (.inl hr))]
  exact unlessStalled_done s (by rw [hr]; simp)

theorem stalledIssue_issues {s v w : State} {k : Fin 768} {x : Clu} {p : Part} {f : Fetched} (h : NextIs s k x p v f)
    (hs : f.sync = false ∨ v.cl.inh = true) (hw : exec p.i (v.entering p f) = .next w) (hr : w.report = .issued ∨ w.report = .branched) :
    exec (.stalledBundleIssue k x) s = if v.overdraws k (max 1 ((v.entering p f).chargeOf p.i)) then v.refuseBundle 0x1B 0 0 p.w0 p.w1
      else .next (w.endBundle v.me [p] false (max 1 ((v.entering p f).chargeOf p.i))) := by
  have issued : ¬ (w.report = .stalled ∨ w.report = .trapped ∨ w.report = .idle) := by rcases hr with h | h <;> simp [h]
  rw [stalledIssue_of_next h hs, execBundle_of_next h hw, if_neg issued]
  dsimp only
  split
  · exact unlessStalled_done s (by simp)
  · exact unlessStalled_done s (by rw [endBundle_report]; rcases hr with h | h <;> simp [h])

/-! A bundle that issues alone. -/

/-- A cluster with its pc moved past a bundle. -/
def Cluster.past (c : Cluster) (npc : Word) : Cluster := { c with pc := npc, pcReg := false, lineRoom := maxLines + 1 }

/-- The device in the middle of a bundle of one cluster, whose core stands as given. -/
def State.within (s : State) (k : Fin 768) (x : Clu) (c : Core) (l : Option Core) (i : Ir) : State :=
  { (s.setCore k c) with cur := { core := k, clu := x }, latch := l, ir := i, report := .issued }

section
variable (s : State) (k : Fin 768) (x : Clu) (c : Core) (l : Option Core) (i : Ir)

@[simp] theorem State.within_core : (s.within k x c l i).core k = c := State.setCore_core_same s k c
@[simp] theorem State.within_me : (s.within k x c l i).me = c := State.setCore_core_same s k c
@[simp] theorem State.within_cl : (s.within k x c l i).cl = c.clu x := congrArg (Core.clu · x) (State.within_me s k x c l i)
@[simp] theorem State.within_cur : (s.within k x c l i).cur = { core := k, clu := x } := rfl

@[simp] theorem State.within_setCore (d : Core) : (s.within k x c l i).setCore k d = s.within k x d l i :=
  congrArg (fun u : State => { u with cur := { core := k, clu := x }, latch := l, ir := i, report := .issued }) (State.setCore_setCore s k c d)

end

/-- The state a bundle executes in is the device with the core's pc moved past the bundle. -/
theorem entering_eq {s v : State} {k : Fin 768} {x : Clu} {f : Fetched} (hv : (s.at_ k x).nextBundle = .ok (v, f)) (p : Part) :
    ∃ i, v.entering p f = s.within k x ((s.core k).onClu x fun c => c.past f.npc) (some v.me) i := by
  have moved : (v.onCl fun c => c.past f.npc) = (s.at_ k x).setCore k ((s.core k).onClu x fun c => c.past f.npc) := by
    obtain ⟨a, n, rfl⟩ := nextBundle_ok hv
    have twice : (((s.core k).onClu x fun c => { c with pc := a, pcReg := false, lineRoom := n }).onClu x fun c => c.past f.npc) =
        (s.core k).onClu x fun c => c.past f.npc := by
      simp [Core.onClu, Core.clu, vset, vget, Cluster.past]
    rw [← twice]
    exact State.onMe_setCore (s.at_ k x) _ _
  have start : v.entering p f = { (v.onCl fun c => c.past f.npc) with latch := some v.me, ir := (v.entering p f).ir, report := .issued } := rfl
  exact ⟨_, by rw [start, moved]; rfl⟩

/-- Cluster c with what an instruction that acts alone, and the end of its bundle, may leave as in cluster d. -/
def Cluster.afterAlone (c d : Cluster) (npc : Word) : Cluster :=
  { c with
    g := d.g, pc := npc, pcReg := false, lineRoom := d.lineRoom, atSync := false, waitSince := d.waitSince, claspWait := d.claspWait
    claspKept := d.claspKept, stampSeen := none, hold := d.hold }

/-- The cluster of a bundle that has issued alone. -/
theorem issuedPast_within {s : State} {k : Fin 768} {x : Clu} {c : Core} {npc : Word} (i : Ir) (ho : ∀ y, y ≠ x → c.clu y = (s.core k).clu y)
    (hx : c.clu x = ((s.core k).clu x).afterAlone (c.clu x) npc) : issuedPast s (s.within k x c none i) k (· = x) fun _ => npc := by
  refine ⟨sameMemory_of_ms rfl, rfl, rfl, rfl, rfl, rfl, rfl, rfl, rfl, fun j hj => State.setCore_core_ne _ _ hj, rfl, fun y => ?_⟩
  rw [State.within_core]
  refine ⟨ho y, ?_⟩
  rintro rfl
  rw [hx]
  rfl

theorem issuedPast_of_actedAlone {s v w : State} {k : Fin 768} {x : Clu} {p : Part} {f : Fetched} (h : NextIs s k x p v f)
    (ha : actedAlone (v.entering p f) w) (n : Nat) : ∃ t, w.endBundle v.me [p] false n = t ∧
      issuedPast s t k (· = x) (fun _ => f.npc) ∧ t.cur = { core := k, clu := x } ∧ ((t.core k).clu x).syncs = ((s.core k).clu x).syncs ∧
      ((t.core k).clu x).g = w.cl.g ∧ ((t.core k).clu x).waitSince = w.cl.waitSince ∧ (t.core k).st = w.me.st := by
  have cur := nextIs_cur h
  obtain ⟨-, hv, -, -, -, hl⟩ := h
  obtain ⟨i, enter⟩ := entering_eq hv p
  rw [enter] at ha
  obtain ⟨c, rfl, hc, hx⟩ := ha
  rw [State.within_cur, State.within_me] at hc
  rw [State.within_cur, State.within_cl, Core.onClu_same] at hx
  rw [State.within_cur, State.within_setCore]
  have loops : ∀ l, vget (v.me.clu x).lpc l = 0 := fun l => by rw [← hl l, State.cl, cur]
  obtain ⟨d, done, hd, st⟩ := endBundle_issued (w := s.within k x c (some v.me) i) rfl loops [p] n
  rw [State.within_cur, State.within_me] at hd
  rw [State.within_cur, State.within_setCore] at done
  rw [State.within_me] at st
  have mine : d.clu x = (c.clu x).issued (v.me.clu x).inh s.cadence.toNat := (hd x).trans (Core.onClu_same _ _ _)
  refine ⟨_, done, issuedPast_within i (fun y hy => ?_) ?_, rfl, ?_, ?_, ?_, ?_⟩
  · exact ((hd y).trans (Core.onClu_ne _ _ hy)).trans ((hc y hy).trans (Core.onClu_ne _ _ hy))
  · rw [mine, hx]; rfl
  · exact (congrArg (fun e : Core => (e.clu x).syncs) (State.within_core ..)).trans (by rw [mine, hx]; rfl)
  · exact (congrArg (fun e : Core => (e.clu x).g) (State.within_core ..)).trans (by rw [mine, State.within_cl]; rfl)
  · exact (congrArg (fun e : Core => (e.clu x).waitSince) (State.within_core ..)).trans (by rw [mine, State.within_cl]; rfl)
  · exact (congrArg Core.st (State.within_core ..)).trans (by rw [st, State.within_me])

/-- An instruction that acts alone and costs nothing issues where it can, with the marks of issue on its cluster. -/
theorem stalledIssue_alone {s v w : State} {k : Fin 768} {x : Clu} {p : Part} {f : Fetched} (h : NextIs s k x p v f)
    (hs : f.sync = false ∨ v.cl.inh = true) (ho : v.overdraws k 1 = false) (hc : (v.entering p f).chargeOf p.i = 0)
    (hw : exec p.i (v.entering p f) = .next w) (ha : actedAlone (v.entering p f) w) :
    ∃ t, exec (.stalledBundleIssue k x) s = .next t ∧
      (issuedPast s t k (· = x) (fun _ => f.npc) ∧ t.cur = { core := k, clu := x } ∧ ((t.core k).clu x).syncs = ((s.core k).clu x).syncs) ∧
      ((t.core k).clu x).g = w.cl.g ∧ ((t.core k).clu x).waitSince = w.cl.waitSince ∧ (t.core k).st = w.me.st := by
  have issued : w.report = .issued := by
    obtain ⟨c, rfl, -⟩ := ha
    rfl
  have one : max 1 ((v.entering p f).chargeOf p.i) = 1 := by rw [hc]; rfl
  obtain ⟨t, done, past, cur, syncs, g, wait, st⟩ := issuedPast_of_actedAlone h ha 1
  refine ⟨t, ?_, ⟨past, cur, syncs⟩, g, wait, st⟩
  rw [stalledIssue_issues h hs hw (.inl issued), one, ho, done]
  rfl

/-! The registers and the core that the instruction of the bundle finds. -/

section
variable {s v : State} {k : Fin 768} {x : Clu} {p : Part} {f : Fetched} (h : NextIs s k x p v f)
include h

theorem entering_g (r : Reg) : (v.entering p f).g r = ((s.core k).clu x).gReg r := by
  have latched : v.cl.g = ((s.core k).clu x).g := by
    obtain ⟨-, hv, -⟩ := h
    obtain ⟨a, n, rfl⟩ := nextBundle_ok hv
    rw [State.onCl_cl]; rfl
  have reads : (v.entering p f).g r = v.cl.gReg r := rfl
  rw [reads, Cluster.gReg, latched, Cluster.gReg]

theorem entering_me : (v.entering p f).me = (s.core k).onClu x fun c => c.past f.npc := by
  obtain ⟨i, e⟩ := entering_eq h.2.1 p
  rw [e, State.within_me]

theorem entering_cl : (v.entering p f).cl = ((s.core k).clu x).past f.npc := by
  obtain ⟨i, e⟩ := entering_eq h.2.1 p
  rw [e, State.within_cl, Core.onClu_same]

theorem entering_cur : (v.entering p f).cur = { core := k, clu := x } := by
  obtain ⟨i, e⟩ := entering_eq h.2.1 p
  rw [e]; rfl

theorem entering_strand (st : BitVec 4) : (v.entering p f).strand k st = s.strand k st := by
  obtain ⟨i, e⟩ := entering_eq h.2.1 p
  rw [e, State.strand, State.within_core]; rfl

end

/-! SWFILL, CLWAIT and LDGE where nothing holds them. -/

theorem onlyEngines.me {s t : State} (h : onlyEngines s t) : ∃ e, t.me = { s.me with en := e } := by
  obtain ⟨e, rfl⟩ := h
  exact ⟨e, State.onEn_me _ _⟩

theorem onlyEngines.cur {s t : State} (h : onlyEngines s t) : t.cur = s.cur := by
  obtain ⟨e, rfl⟩ := h
  rfl

theorem onlyEngines.cl {s t : State} (h : onlyEngines s t) : t.cl = s.cl := by
  obtain ⟨e, me⟩ := h.me
  rw [State.cl, me, h.cur]; rfl

theorem onlyEngines.strand {s t : State} (h : onlyEngines s t) (k : Fin 768) (st : BitVec 4) : t.strand k st = s.strand k st := by
  obtain ⟨e, rfl⟩ := h
  rw [State.strand, State.onEn, State.onMe_eq]
  by_cases hk : k = s.cur.core
  · rw [hk, State.setCore_core_same]; rfl
  · rw [State.setCore_core_ne _ _ hk]; rfl

theorem Cluster.gReg_of_g {c d : Cluster} (h : c.g = d.g) (r : Reg) : c.gReg r = d.gReg r := by
  rw [Cluster.gReg, h, Cluster.gReg]

/-- The strand entry of a task. -/
theorem execSwfill_takes {s : State} {st : BitVec 4} {tk : Task} (d : Reg) (ht : s.me.task = some tk)
    (hr : strandRole (vget tk.strands (Fin.ofNat 16 st.toNat)) ≠ 0) (hf : (s.strand s.cur.core st).filled ≠ (s.strand s.cur.core st).taken) :
    ∃ u, onlyEngines s u ∧ exec (.swfill st d) s = .next ((u.setStrand s.cur.core st
      { s.strand s.cur.core st with taken := (s.strand s.cur.core st).taken + 1 }).setG d
        (beadAddr (vget tk.strands (Fin.ofNat 16 st.toNat)) none (s.strand s.cur.core st).taken.toNat)) := by
  refine ⟨_, (s.takeClock_onlyEngines (objFill st.toNat)).trans (State.acquire_onlyEngines _ 1), ?_⟩
  have at_ : ∀ g, s.atStrand st false g = g (vget tk.strands (Fin.ofNat 16 st.toNat)) s.cur.core none := fun g => by
    simp only [State.atStrand, ht, if_neg hr, Bool.false_eq_true, and_false, if_false]
  have here : exec (.swfill st d) s = execSwfill st d s := rfl
  rw [here, execSwfill, at_, if_neg hf]

theorem execClwait_passes {s : State} {a : Reg} {i : Nat} (ha : s.g a = BitVec.ofNat 64 i) (hi : i < 256)
    (hc : (s.clasp (Fin.ofNat 256 i)).expect.toNat ≤ (s.clasp (Fin.ofNat 256 i)).count.toNat) :
    ∃ u, onlyEngines s.endWait u ∧ exec (.clwait a 0) s = .next u := by
  have index : ∀ clb, claspIndex clb (s.g a) false = .ok (Fin.ofNat 256 i) := fun clb => by
    have small : (BitVec.ofNat 64 i).toNat = i := by rw [BitVec.toNat_ofNat]; omega
    have low : ¬ i / 256 ≠ 0 := by omega
    rw [claspIndex, ha, small, if_neg low]; rfl
  have here : exec (.clwait a 0) s = execClwait a 0 s := rfl
  refine ⟨(s.endWait.acquireClock ((vget s.quads (quadOf s.cur.core)).claspClock (Fin.ofNat 256 i))).acquire 1,
    (State.onCheck_onlyEngines _ _).trans (State.acquire_onlyEngines _ 1), ?_⟩
  rw [here, execClwait, State.atClasp, show ((0 : BitVec 1) == 1) = false from rfl, index]
  exact if_pos (.inl hc)

/-- A lattice read at a keyed region whose die runs and whose cell is whole. -/
theorem lattice_read {s : State} {a : Word} {tk : Task} {rt : RegionTable} {r : Region} (hp : bits a 60 4 = 2) (hf : genForm a = true)
    (ht : s.me.task = some tk) (hr : s.regionAt tk.ctx a = some (rt, r)) (ha : a.toNat % latReadSize r = 0) (hk : s.latKeyed rt = true)
    (hu : s.uncoreStops (dieOf s.cur.core) = false) (hl : s.latLost rt r (dieOf s.cur.core) a = false)
    (g : RegionTable → Region → State → Out) : s.lattice a false g = g rt r s := by
  have target := latTarget_region s hf ht hr
  have size : (if r.type = 8 ∧ (!false) = true then 8 else cellSize r.type) = latReadSize r := by
    unfold cellSize latReadSize
    split
    · next h => rw [if_neg (by omega)]
    · next h => rw [if_neg (by simpa using h)]
  rw [State.lattice, if_neg (by simp [hp]), target, Res.out_ok]
  simp only [size, ha, hk, hu, hl, ne_eq, not_true_eq_false, if_false, Bool.not_true, Bool.false_eq_true]

theorem execLdge_passes {s : State} {a b : Reg} (d : Reg) {tk : Task} {rt : RegionTable} {r : Region} (hp : bits (s.g a) 60 4 = 2)
    (hf : genForm (s.g a) = true) (ht : s.me.task = some tk) (hr : s.regionAt tk.ctx (s.g a) = some (rt, r))
    (ha : (s.g a).toNat % latReadSize r = 0) (hk : s.latKeyed rt = true) (hu : s.uncoreStops (dieOf s.cur.core) = false)
    (hl : s.latLost rt r (dieOf s.cur.core) (s.g a) = false)
    (hv : atOrAbove r.type (s.latLoad rt r (s.g a) (latReadSize r)) (latOperand r (s.g b)) = true) :
    ∃ u, onlyEngines s u ∧ exec (.ldge d a b) s = .next (u.endWait.setG d (BitVec.ofNat 64 (s.latLoad rt r (s.g a) (latReadSize r)))) := by
  refine ⟨_, (s.latSeen_onlyEngines rt r (s.g a) (latReadSize r)).trans (State.acquire_onlyEngines _ 2), ?_⟩
  have here : exec (.ldge d a b) s = execLdge d a b s := rfl
  rw [here, execLdge, lattice_read hp hf ht hr ha hk hu hl]
  exact if_pos hv

/-- The operand of a lattice read is as wide as the read. -/
theorem latOperand_eq (r : Region) (z : Word) : latOperand r z = z.toNat % 256 ^ latReadSize r := by
  have := z.isLt
  unfold latOperand latReadSize
  split
  · rfl
  · exact (Nat.mod_eq_of_lt (by omega)).symm

/-- The address of a bead of the core's own ring, its offset written out (R226). -/
theorem beadAddr_own (e : Word) (n : Nat) : beadAddr e none n = BitVec.ofNat 64 ((if e.getLsbD 32 then 8 else 9) * 2 ^ 60 + e.toNat % 2 ^ 19 +
    n % (e.toNat / 2 ^ 33 % 128) * (64 * 2 ^ (e.toNat / 2 ^ 40 % 16))) := by
  rw [Nat.add_assoc, ← bits_low]; rfl

theorem actedAlone_setStrand {s : State} {k : Fin 768} (h : s.cur.core = k) (st : BitVec 4) (z : Strand) : actedAlone s (s.setStrand k st z) := by
  subst h
  exact actedAlone_of_cl (c := _) rfl

theorem setStrand_cl {s : State} {k : Fin 768} (h : s.cur.core = k) (st : BitVec 4) (z : Strand) : (s.setStrand k st z).cl = s.cl := by
  subst h
  simp [State.cl, State.me, State.setStrand, Core.clu]

theorem setG_me_st (s : State) (d : Reg) (x : Word) : (s.setG d x).me.st = s.me.st := by
  rw [State.setG_eq, State.me_setCore, Core.putG_st]

theorem setG_cl_waitSince (s : State) (d : Reg) (x : Word) : (s.setG d x).cl.waitSince = s.cl.waitSince := by
  rw [(wroteG_setG s d x).2.2.1]

theorem setStrand_strand (s : State) (k : Fin 768) (st o : BitVec 4) (z : Strand) :
    (s.setStrand k st z).strand k o = if o = st then z else s.strand k o := by
  have index : (Fin.ofNat 16 o.toNat = Fin.ofNat 16 st.toNat) ↔ o = st := by
    constructor
    · intro e
      have := congrArg Fin.val e
      simp only [Fin.val_ofNat] at this
      exact BitVec.eq_of_toNat_eq (by omega)
    · rintro rfl; rfl
  simp only [State.strand, State.setStrand, State.onCore_core_same, vget_vset, index]

/-- Settles O44: the event tries the bundle, and the bundle runs the instruction. -/
theorem heldBundlesIssueOnceTheyCan : Obligations.HeldBundlesIssueOnceTheyCan := by
  intro s k x u stalled
  refine ⟨fun hi => ?_, fun p v f h hs => ?_⟩
  · have shut := fun g => reissue_of_shut (s := s) hi g
    exact ⟨shut _, shut _, shut _, shut _⟩
  intro strand clasp lattice past same
  have own : ∀ g : Part → Bool, g p = true → s.reissue k x g = exec stalled s := fun g hg => by
    rw [reissue_of_next h hs, if_pos hg, stalledIssue_of_next h hs]
  have other : ∀ g : Part → Bool, g p = false → s.reissue k x g = s.idleOut := fun g hg => by
    rw [reissue_of_next h hs, hg]; rfl
  have strandWait : strand → exec (.strandWaitEnd k x) s = exec stalled s := fun ⟨st, r, hp⟩ =>
    own _ (by rcases hp with e | e | e <;> rw [e])
  have claspWait : clasp → exec (.claspWaitPass k x) s = exec stalled s := fun ⟨a, r, hp⟩ => own _ (by rw [Part.isClwait, hp])
  have latticeWait : lattice → exec (.latticeWaitPass k x) s = exec stalled s := fun ⟨d, a, b, hp⟩ => own _ (by rw [Part.isLdge, hp])
  refine ⟨strandWait, fun hn => other _ ?_, claspWait, fun hn => other _ ?_, latticeWait, fun hn => other _ ?_,
    fun w hw => ⟨stalledIssue_stalls h hs hw, stalledIssue_traps h hs hw, fun hr => ⟨fun ho => ?_, fun ho => ?_⟩⟩,
    fun ho => ⟨fun hp => ?_, fun st d tk hp ht hr hf => ?_, fun a i hp ha hi hc => ?_, fun d a b tk rt r hp ht hpath hform hreg hal hkey hstop hlost hv => ?_⟩⟩
  · split
    · next e => exact absurd ⟨_, _, .inl e⟩ hn
    · next e => exact absurd ⟨_, _, .inr (.inl e)⟩ hn
    · next e => exact absurd ⟨_, _, .inr (.inr e)⟩ hn
    · rfl
  · unfold Part.isClwait
    split
    · next e => exact absurd ⟨_, _, e⟩ hn
    · rfl
  · unfold Part.isLdge
    split
    · next e => exact absurd ⟨_, _, _, e⟩ hn
    · rfl
  · rw [stalledIssue_issues h hs hw hr, if_pos ho]
  · rw [stalledIssue_issues h hs hw hr, ho]; rfl
  · obtain ⟨t, done, past, g, -, st⟩ := stalledIssue_alone h hs ho (by rw [hp]; exact ite_self 0) (by rw [hp]; rfl) (.refl _)
    rw [entering_cl h] at g
    rw [entering_me h] at st
    exact ⟨t, done, past, g, st⟩
  · have cur := entering_cur h
    have core : (v.entering p f).cur.core = k := by rw [cur]
    have strand := entering_strand h st
    have role : strandRole (vget tk.strands (Fin.ofNat 16 st.toNat)) = 1 ∨ strandRole (vget tk.strands (Fin.ofNat 16 st.toNat)) = 2 := hr
    obtain ⟨w, eng, run⟩ := execSwfill_takes (s := v.entering p f) (st := st) d (by rw [entering_me h]; exact ht) (by omega)
      (by rw [core, strand]; exact hf)
    rw [core, strand, beadAddr_own] at run
    have wcore : w.cur.core = k := by rw [eng.cur, core]
    have acted := fun a => (eng.actedAlone.trans (actedAlone_setStrand wcore st { s.strand k st with taken := (s.strand k st).taken + 1 })).trans
      (actedAlone_setG _ d a)
    obtain ⟨t, done, past, g, -, mem⟩ := stalledIssue_alone h hs ho (by rw [hp]; exact ite_self 0) (by rw [hp]; exact run) (acted _)
    have strands : ∀ o, t.strand k o = (w.setStrand k st { s.strand k st with taken := (s.strand k st).taken + 1 }).strand k o := fun o => by
      have zcore : ∀ z, (w.setStrand k st z).me = (w.setStrand k st z).core k := fun z => congrArg (w.setStrand k st z).core wcore
      rw [State.strand, mem, setG_me_st, zcore]; rfl
    refine ⟨t, (strandWait ⟨st, d, .inr (.inl hp)⟩).trans done, past, ?_, fun o hne => ?_, fun r => ?_⟩
    · rw [strands, setStrand_strand, if_pos rfl]; rfl
    · rw [strands, setStrand_strand, if_neg hne, eng.strand, entering_strand h]
    · rw [Cluster.gReg_of_g g, State.setG_cl_gReg, setStrand_cl wcore, eng.cl, entering_cl h]; rfl
  · have clasps : (v.entering p f).clasp (Fin.ofNat 256 i) = vget (vget s.quads (quadOf k)).clasps (Fin.ofNat 256 i) := by
      obtain ⟨j, e⟩ := entering_eq h.2.1 p
      rw [e]; rfl
    obtain ⟨w, eng, run⟩ := execClwait_passes ((entering_g h a).trans ha) hi (by rw [clasps]; exact hc)
    obtain ⟨t, done, past, g, wait, mem⟩ := stalledIssue_alone h hs ho (by rw [hp]; exact ite_self 0) (by rw [hp]; exact run)
      ((actedAlone_endWait _).trans eng.actedAlone)
    have cl : (v.entering p f).endWait.cl = { ((s.core k).clu x).past f.npc with waitSince := none, claspWait := none } := by
      rw [State.endWait, State.onCl_cl, entering_cl h]
    rw [eng.cl, cl] at g wait
    refine ⟨t, (claspWait ⟨a, 0, hp⟩).trans done, ⟨past, g, ?_⟩, wait⟩
    obtain ⟨e, me⟩ := eng.me
    rw [mem, me, State.endWait, State.onCl, State.onMe_me, Core.onClu_st, entering_me h]; rfl
  · have g := entering_g h
    have task : (v.entering p f).me.task = some tk := by rw [entering_me h]; exact ht
    have cl := entering_cl h
    have me := entering_me h
    obtain ⟨j, e⟩ := entering_eq h.2.1 p
    obtain ⟨w, eng, run⟩ := execLdge_passes (s := v.entering p f) (a := a) (b := b) d (by rw [g, bits_path]; exact hpath) (by rw [g]; exact hform)
      task (rt := rt) (r := r) (by rw [g, e]; exact hreg) (by rw [g]; exact hal) (by rw [e]; exact hkey) (by rw [e]; exact hstop)
      (by rw [g, e]; exact hlost) (by rw [g, g, latOperand_eq, e]; exact hv)
    have acted := fun y => (eng.actedAlone.trans (actedAlone_endWait w)).trans (actedAlone_setG _ d y)
    obtain ⟨t, done, past, gs, wait, mem⟩ := stalledIssue_alone h hs ho (by rw [hp]; exact ite_self 0) (by rw [hp]; exact run) (acted _)
    have wcl : w.endWait.cl = { ((s.core k).clu x).past f.npc with waitSince := none, claspWait := none } := by
      rw [State.endWait, State.onCl_cl, eng.cl, cl]
    refine ⟨t, (latticeWait ⟨d, a, b, hp⟩).trans done, past, ?_, ?_, fun q => ?_⟩
    · obtain ⟨en, wme⟩ := eng.me
      rw [mem, setG_me_st, State.endWait, State.onCl, State.onMe_me, Core.onClu_st, wme, me]; rfl
    · rw [wait, setG_cl_waitSince, wcl]
    · rw [Cluster.gReg_of_g gs, State.setG_cl_gReg, wcl, g, e]; rfl

end Sys2Proof.Machine
end

section
/-! Loads: what the value is, and what else a load changes. -/

namespace Sys2Proof.Machine

/-! The value, extended. -/

theorem pow_bytes (n : Nat) : 256 ^ n = 2 ^ (8 * n) := by rw [Nat.pow_mul]

/-- The value of a load of `size` bytes (R142). -/
theorem extendLoad_eq {size : Nat} (h : 0 < size) (signed : Bool) (x : Nat) : extendLoad size signed x =
    if signed then (BitVec.ofNat (8 * size) x).signExtend 64 else BitVec.ofNat 64 (x % 256 ^ size) := by
  cases signed with
  | false =>
    simp only [extendLoad, intOf, Bool.false_eq_true, false_and, if_false, pow_bytes]
    exact BitVec.ofInt_natCast ..
  | true =>
    have half : 2 ^ (8 * size) = 2 * 2 ^ (8 * size - 1) := by
      rw [← Nat.pow_succ']
      congr 1
      omega
    simp only [extendLoad, intOf, true_and, if_true]
    rw [BitVec.signExtend, BitVec.toInt, BitVec.toNat_ofNat]
    congr 1
    by_cases low : 2 ^ (8 * size - 1) ≤ x % 2 ^ (8 * size)
    · rw [if_pos low, if_neg (by omega)]; rfl
    · rw [if_neg low, if_pos (by omega)]

/-! What an acquire does to a core. -/

/-- The core after an acquire at a scope (R143, R272). -/
def Core.acquired (k : Core) (scope : Nat) : Core := if scope = 0 then k else k.l1Drop fun l => !l.ro

theorem State.acquire_eq (s : State) (scope : Nat) : s.acquire scope = s.setCore s.cur.core (s.me.acquired scope) := by
  unfold State.acquire Core.acquired
  split
  · exact (State.setCore_me s).symm
  · rfl

theorem Core.acquired_en (k : Core) (scope : Nat) :
    k.acquired scope = { k with en := { k.en with l1 := if scope ≠ 0 then k.en.l1.filter fun l => l.ro else k.en.l1 } } := by
  unfold Core.acquired
  by_cases h : scope = 0
  · simp [h]
  · simp [h, Core.l1Drop]

@[simp] theorem Core.acquired_cl (k : Core) (scope : Nat) : (k.acquired scope).cl = k.cl := by rw [Core.acquired_en]
@[simp] theorem Core.acquired_st (k : Core) (scope : Nat) : (k.acquired scope).st = k.st := by rw [Core.acquired_en]
@[simp] theorem Core.acquired_rg (k : Core) (scope : Nat) : (k.acquired scope).rg = k.rg := by rw [Core.acquired_en]

/-- A second acquire finds nothing left to drop. -/
theorem Core.acquired_acquired (k : Core) {n : Nat} (h : n ≠ 0) (m : Nat) : (k.acquired n).acquired m = k.acquired n := by
  rw [Core.acquired_en, Core.acquired_en]
  simp [h]

/-! The end of a load: the acquire and the register. -/

/-- A load of a value into a register, with what an acquire at a scope does. -/
def State.loaded (s : State) (d : Reg) (scope : Nat) (x : Word) : State := (s.acquire scope).setG d x

theorem State.loaded_eq (s : State) (d : Reg) (scope : Nat) (x : Word) :
    s.loaded d scope x = s.setCore s.cur.core ((s.me.acquired scope).putG s.cur.clu d x) := by
  rw [State.loaded, State.acquire_eq, State.setG_setCore]

theorem State.loaded_ms (s : State) (d : Reg) (scope : Nat) (x : Word) : (s.loaded d scope x).ms = s.ms := by rw [State.loaded_eq]; rfl

theorem State.loaded_st (s : State) (d : Reg) (scope : Nat) (x : Word) : (s.loaded d scope x).me.st = s.me.st := by
  rw [State.loaded_eq, State.me_setCore, Core.putG_st, Core.acquired_st]

theorem State.loaded_en (s : State) (d : Reg) (scope : Nat) (x : Word) : (s.loaded d scope x).me.en = (s.me.acquired scope).en := by
  rw [State.loaded_eq, State.me_setCore, Core.putG_en]

/-- Of the executing cluster only the register is written, whatever the core's engines did before. -/
theorem onlyG_loaded {s v : State} (hc : v.me.cl = s.me.cl) (hx : v.cur = s.cur) (d : Reg) (scope : Nat) (x : Word) :
    onlyG s (v.loaded d scope x) d x := by
  have same : v.cl = s.cl := by simp only [State.cl, Core.clu, hc, hx]
  rw [State.loaded_eq]
  intro r
  rw [← same]
  exact onlyG_putG (s := v) (c := v.me.acquired scope) (Core.acquired_cl ..) d x r

/-- A load that changes nothing else: the whole frame. -/
theorem loaded_frame (s : State) (d : Reg) (scope : Nat) (x : Word) : onlyG s (s.loaded d scope x) d x ∧ sameMemory s (s.loaded d scope x) ∧
    sameOutside s (s.loaded d scope x) ∧ (s.loaded d scope x).report = s.report ∧ (s.loaded d scope x).me.st = s.me.st ∧
    (s.loaded d scope x).me.rg = s.me.rg ∧ (∀ y, y ≠ s.cur.clu → (s.loaded d scope x).me.clu y = s.me.clu y) ∧
    (s.loaded d scope x).me.en = { s.me.en with l1 := if scope ≠ 0 then s.me.en.l1.filter fun l => l.ro else s.me.en.l1 } := by
  refine ⟨onlyG_loaded rfl rfl _ _ _, sameMemory_of_ms (State.loaded_ms ..), ?_, ?_, State.loaded_st .., ?_, fun y hy => ?_, ?_⟩
  · rw [State.loaded_eq]; exact sameOutside_setCore _ _
  · rw [State.loaded_eq]; rfl
  · rw [State.loaded_eq, State.me_setCore, Core.putG_rg, Core.acquired_rg]
  · rw [State.loaded_eq, State.me_setCore, Core.putG_ne _ hy, Core.clu, Core.acquired_cl]; rfl
  · rw [State.loaded_en, Core.acquired_en]

/-- An acquire before a load at any scope is the load at a scope that acquires. -/
theorem State.acquire_loaded (s : State) {n : Nat} (h : n ≠ 0) (d : Reg) (scope : Nat) (x : Word) :
    (s.acquire n).loaded d scope x = s.loaded d n x := by
  rw [State.loaded_eq, State.loaded_eq, State.acquire_eq, State.me_setCore, State.setCore_cur, State.setCore_setCore, Core.acquired_acquired _ h]

/-! Deterministic mode off: accesses keep no record. -/

theorem State.onCheck_of_not_det {s : State} (h : s.me.det = false) (f : Checker → Checker) : s.onCheck f = s := by
  rw [State.onCheck, State.onMe_eq, Core.onCheck_of_not_det h, State.setCore_me]

theorem State.orderAccess_of_not_det {s : State} {k : Fin 768} (hm : s.me.det = false) (hk : (s.core k).det = false) (b : Fin 4)
    (off n : Nat) (write : Bool) (a : Word) : s.orderAccess k b off n write a = .ok () s := by
  have note : ∀ clk ag behind, (s.onCore k fun c => c.noteAccess clk ag b off n write behind none) = s := fun clk ag behind => by
    rw [State.onCore, Core.noteAccess, Core.onCheck_of_not_det hk, State.setCore_core]
  simp [State.orderAccess, Core.races, hk, State.onCheck_of_not_det hm, note]

theorem State.bufRead_plain {s : State} {k : Fin 768} {b : Fin 4} {off n : Nat} (hm : s.me.det = false) (hk : (s.core k).det = false)
    (hw : s.bufWaits k b off n (s.core k).en.issued = false) (hp : (s.core k).st.poisoned b off n = false) (a : Word) :
    s.bufRead k b off n a = .ok (((s.core k).st.buf b).readLe off n) s := by
  simp [State.bufRead, State.bufGate, hw, State.orderAccess_of_not_det hm hk, hp]

/-! A load at its target. -/

section
variable {s : State} {a : Word} {t : Target} {size scope x : Nat} {signed : Bool} (d : Reg)

theorem loadTo_at (h : s.target a size .load = .ok t s) (hw : ∀ off, t ≠ .window off) : s.loadTo d a size signed scope =
    (s.loadAt a t size).outAt s t size fun x v => .next (v.loaded d scope (extendLoad size signed x)) := by
  rw [State.loadTo, h, Res.out_ok]
  cases t <;> first | exact absurd rfl (hw _) | rfl

theorem loadTo_gives {v : State} (h : s.target a size .load = .ok t s) (hw : ∀ off, t ≠ .window off) (hl : s.loadAt a t size = .ok x v) :
    s.loadTo d a size signed scope = .next (v.loaded d scope (extendLoad size signed x)) := by
  rw [loadTo_at d h hw, hl]; rfl

theorem loadTo_waits (h : s.target a size .load = .ok t s) (hw : ∀ off, t ≠ .window off) (hb : s.stallAt t size = s.stall)
    (hl : s.loadAt a t size = .wait) : s.loadTo d a size signed scope = s.stall := by
  rw [loadTo_at d h hw, hl]; exact hb

theorem loadTo_faults {c det : Nat} {b : Word} (h : s.target a size .load = .ok t s) (hw : ∀ off, t ≠ .window off)
    (hl : s.loadAt a t size = .trap c det b) : s.loadTo d a size signed scope = s.faultAt c det b := by
  rw [loadTo_at d h hw, hl]; rfl

end

/-! Device memory behind the L1. -/

theorem Core.count_cl (k : Core) (e : Nat) (x : Clu) (n : Nat) : (k.count e x n).cl = k.cl := by rw [Core.count_frame]

theorem Core.l1Fill_cl (k : Core) (l : L1Line) : (k.l1Fill l).cl = k.cl := by
  unfold Core.l1Fill
  dsimp only
  split <;> rfl

/-- Counting where an access was homed changes performance counters alone. -/
theorem State.countHome_eq (s : State) (p : Phys) (cached : Bool) (mask : Word) :
    ∃ rg, s.countHome p cached mask = s.setCore s.cur.core { s.me with rg := rg } := by
  unfold State.countHome
  dsimp only
  rw [State.onMe_eq]
  split
  · rw [Core.count_frame, Core.count_frame]; exact ⟨_, rfl⟩
  · rw [Core.count_frame]; exact ⟨_, rfl⟩

/-- The executing core keeps its registers and storage; memory becomes m. -/
def readFrom (s : State) (m : MemSys) (v : State) : Prop := v.me.cl = s.me.cl ∧ v.cur = s.cur ∧ v.me.st = s.me.st ∧ v.ms = m

theorem readFrom_counted (s : State) (rg : CoreRegs) (m : MemSys) :
    readFrom s m { (s.setCore s.cur.core { s.me with rg := rg }) with ms := m } := by
  have me : ({ (s.setCore s.cur.core { s.me with rg := rg }) with ms := m } : State).me = { s.me with rg := rg } := State.me_setCore s _
  exact ⟨by rw [me], rfl, by rw [me], rfl⟩

section
variable {s : State} {p : Phys} {path size : Nat} {mask : Word}

theorem lineLoad_held (hd : p.dead = false) (hh : s.held (dieOf s.cur.core) p = true) : s.lineLoad p path mask = .wait := by
  simp [State.lineLoad, hd, hh]

theorem lineLoad_lost (hd : p.dead = false) (hh : s.held (dieOf s.cur.core) p = false)
    (hl : (if path = 3 then s.ms.lostHome (dieOf s.cur.core) p else s.ms.lost (dieOf s.cur.core) p mask) = true) :
    s.lineLoad p path mask = .trap 0x21 0 0 := by
  rw [State.lineLoad, if_neg (by simp [hd]), if_neg (by simp [hh]), if_pos hl]

/-- A line behind the L1 comes from the die cache and the directory. -/
theorem lineLoad_cached (hd : p.dead = false) (hp : path ≠ 3) (hh : s.held (dieOf s.cur.core) p = false)
    (hl : s.ms.lost (dieOf s.cur.core) p mask = false) : ∃ v, s.lineLoad p path mask = .ok (s.ms.load (dieOf s.cur.core) p mask).1 v ∧
      readFrom s (s.ms.load (dieOf s.cur.core) p mask).2 v := by
  obtain ⟨rg, count⟩ := s.countHome_eq p (decide (path ≠ 3)) mask
  refine ⟨{ (s.setCore s.cur.core { s.me with rg := rg }) with ms := (s.ms.load (dieOf s.cur.core) p mask).2 }, ?_, ?_⟩
  · rw [State.lineLoad, if_neg (by simp [hd]), if_neg (by simp [hh]), if_neg (by simp [hp, hl]), count]
    exact if_neg hp
  · exact readFrom_counted s rg _

/-- The memories as an uncached read of a place leaves them: every other copy has come home (R283). -/
def MemSys.fetchedHome (m : MemSys) (die : Fin 8) (p : Phys) : MemSys := if p.coherent then (m.homeRead p).2 else m.toHome die p

theorem lineLoad_home (hd : p.dead = false) (hh : s.held (dieOf s.cur.core) p = false) (hl : s.ms.lostHome (dieOf s.cur.core) p = false) :
    ∃ v, s.lineLoad p 3 mask = .ok ((s.ms.fetchedHome (dieOf s.cur.core) p).homeLine p.line p.key) v ∧
      readFrom s (s.ms.fetchedHome (dieOf s.cur.core) p) v := by
  obtain ⟨rg, count⟩ := s.countHome_eq p (decide ((3 : Nat) ≠ 3)) mask
  refine ⟨{ (s.setCore s.cur.core { s.me with rg := rg }) with ms := s.ms.fetchedHome (dieOf s.cur.core) p }, ?_, ?_⟩
  · rw [State.lineLoad, if_neg (by simp [hd]), if_neg (by simp [hh]), if_neg (by simp [hl]), count]
    rfl
  · exact readFrom_counted s rg _

variable (a : Word)

theorem memRead_dead (hd : p.dead = true) (hp : path ≠ 3) : s.memRead a p path size = .ok 0 s := by
  simp [State.memRead, hp, hd]

theorem memRead_hit {l : L1Line} (hd : p.dead = false) (hp : path ≠ 3)
    (hl : s.me.l1Hit p.line (decide (path = 1)) (rangeMask p.off size) = some l) :
    s.memRead a p path size = .ok (linePart l.data p.off size) s := by
  simp [State.memRead, hp, hd, hl]

/-- A load that the L1 does not serve. -/
theorem memRead_miss (hd : p.dead = false) (hp : path = 3 ∨ s.me.l1Hit p.line (decide (path = 1)) (rangeMask p.off size) = none) :
    (s.lineLoad p path (rangeMask p.off size) = .wait → s.memRead a p path size = .wait) ∧
    (∀ c d b, s.lineLoad p path (rangeMask p.off size) = .trap c d b → s.memRead a p path size = .trap c d b) ∧
    ∀ l m u, s.lineLoad p path (rangeMask p.off size) = .ok l u → readFrom s m u →
      ∃ v, s.memRead a p path size = .ok (linePart l p.off size) v ∧ readFrom s m v := by
  by_cases h3 : path = 3
  · have whole : s.memRead a p path size = (s.lineLoad p path (rangeMask p.off size)).bind fun l t =>
        .ok (linePart l p.off size) (t.onMe fun k => k.l1Update p.line (rangeMask p.off size) l) := if_pos h3
    refine ⟨fun e => by rw [whole, e]; rfl, fun c d b e => by rw [whole, e]; rfl, fun l m u e hu => ?_⟩
    obtain ⟨cl, cur, st, ms⟩ := hu
    have read := whole
    rw [e, Res.bind_ok] at read
    refine ⟨_, read, ?_, cur, ?_, ms⟩
    · rw [State.onMe_me]; exact cl
    · rw [State.onMe_me]; exact st
  · have whole : s.memRead a p path size = (s.lineLoad p path (rangeMask p.off size)).bind fun l t =>
        .ok (linePart l p.off size) (t.onMe fun k => (k.count 9 s.cur.clu 1).l1Fill
          { line := p.line, slot := s.old.slotFor s.cur.clu, tid := bits a 40 16, page := bits a 16 24,
            ro := decide (path = 1), valid := t.ms.atHand (dieOf s.cur.core) p, data := l }) := by
      simp only [State.memRead, if_neg h3, hd, hp.resolve_left h3, Bool.false_eq_true, if_false]
    refine ⟨fun e => by rw [whole, e]; rfl, fun c d b e => by rw [whole, e]; rfl, fun l m u e hu => ?_⟩
    obtain ⟨cl, cur, st, ms⟩ := hu
    have read := whole
    rw [e, Res.bind_ok] at read
    refine ⟨_, read, ?_, cur, ?_, ms⟩
    · rw [State.onMe_me, Core.l1Fill_cl, Core.count_cl]; exact cl
    · rw [State.onMe_me, Core.l1Fill_st, Core.count_st]; exact st

end

theorem linePart_zero (off n : Nat) : linePart 0 off n = 0 := by
  rw [linePart, show (0 : Line).toNat = 0 from BitVec.toNat_zero, Nat.zero_div, Nat.zero_mod]

/-- An uncached load of a dead page finds zeros, and puts them in the L1's line (R362). -/
theorem memRead_deadHome {s : State} {p : Phys} (hd : p.dead = true) (a : Word) (size : Nat) :
    s.memRead a p 3 size = .ok 0 (s.onMe fun k => k.l1Update p.line (rangeMask p.off size) 0) := by
  have line : s.lineLoad p 3 (rangeMask p.off size) = .ok 0 s := if_pos hd
  have whole : s.memRead a p 3 size = (s.lineLoad p 3 (rangeMask p.off size)).bind fun l t =>
      .ok (linePart l p.off size) (t.onMe fun k => k.l1Update p.line (rangeMask p.off size) l) := by rw [State.memRead]; exact if_pos rfl
  rw [whole, line, Res.bind_ok, linePart_zero]

/-- A load after the L1's line has been updated. -/
theorem l1Update_loaded (s : State) (line : Nat) (mask : Word) (l : Line) (d : Reg) (n : Nat) (y : Word) :
    onlyG s ((s.onMe fun k => k.l1Update line mask l).loaded d n y) d y ∧ sameMemory s ((s.onMe fun k => k.l1Update line mask l).loaded d n y) ∧
    sameOutside s ((s.onMe fun k => k.l1Update line mask l).loaded d n y) ∧
    ((s.onMe fun k => k.l1Update line mask l).loaded d n y).me.st = s.me.st := by
  have me : (s.onMe fun k => k.l1Update line mask l).me = s.me.l1Update line mask l := State.onMe_me ..
  refine ⟨onlyG_loaded (s := s) (v := s.onMe _) (by rw [me]; rfl) rfl d n y, sameMemory_of_ms (State.loaded_ms ..), ?_, ?_⟩
  · rw [State.loaded_eq, State.onMe_eq, State.setCore_cur, State.setCore_setCore]
    exact sameOutside_setCore _ _
  · rw [State.loaded_st, me]; rfl

/-! The acquire of a completion record (R265, R293). -/

/-- A load has returned a nonzero OUTCOME. -/
def sawNonzero (m : MemSys) (p : Phys) (x : Nat) : Prop := x ≠ 0 ∧ m.outcomes.contains (p.addr / 8 * 8) = true

theorem sawOutcome_loaded_of_not {v : State} {p : Phys} {x : Nat} (h : ¬ sawNonzero v.ms p x) : v.sawOutcome p x = v := if_neg h

theorem sawOutcome_of {v : State} {p : Phys} {x : Nat} (h : sawNonzero v.ms p x) : v.sawOutcome p x = v.acquire 2 := if_pos h

/-- What stands after a load of device memory: gD alone is written, and where an acquire is due only RO lines stay in the L1. -/
def loadedFrom (s : State) (p : Phys) (d : Reg) (scope x : Nat) (y : Word) (m : MemSys) (t : State) : Prop :=
  onlyG s t d y ∧ t.ms = m ∧ t.me.st = s.me.st ∧
    (scope ≠ 0 ∨ (x ≠ 0 ∧ t.ms.outcomes.contains (p.addr / 8 * 8) = true) → ∀ l, l ∈ t.me.en.l1 → l.ro = true)

theorem sawOutcome_loaded {s v : State} {m : MemSys} (h : readFrom s m v) (p : Phys) (d : Reg) (scope x : Nat) (y : Word) :
    loadedFrom s p d scope x y m ((v.sawOutcome p x).loaded d scope y) := by
  obtain ⟨cl, cur, st, ms⟩ := h
  have kept : ∀ n, n ≠ 0 → ∀ l, l ∈ (v.loaded d n y).me.en.l1 → l.ro = true := fun n hn l hl => by
    rw [State.loaded_en, Core.acquired_en] at hl
    simp only [ne_eq, hn, not_false_eq_true, if_true, List.mem_filter] at hl
    exact hl.2
  by_cases saw : sawNonzero v.ms p x
  · rw [sawOutcome_of saw, State.acquire_loaded _ (by decide)]
    exact ⟨onlyG_loaded cl cur d 2 y, (State.loaded_ms ..).trans ms, (State.loaded_st ..).trans st, fun _ => kept 2 (by decide)⟩
  · rw [sawOutcome_loaded_of_not saw]
    refine ⟨onlyG_loaded cl cur d scope y, (State.loaded_ms ..).trans ms, (State.loaded_st ..).trans st, fun due => ?_⟩
    rw [State.loaded_ms] at due
    exact due.elim (kept scope · ) fun h => absurd h saw

/-- The two loads, as one access. -/
theorem exec_load {s : State} {d ra : Reg} {i : Instr} {a : Word} {size scope : Nat} {signed : Bool}
    (h : (∃ ty o, i = .ld d ra ty o ∧ size = ldSize ty ∧ signed = (decide (4 ≤ ty.toNat) : Bool) ∧ scope = 0 ∧
          a = s.g ra + o.signExtend 64 * BitVec.ofNat 64 size) ∨
       (∃ sc sz sg, i = .lda d ra sc sz sg ∧ size = 2 ^ sz.toNat ∧ signed = (sg == 1 : Bool) ∧ scope = sc.toNat ∧ a = s.g ra)) :
    exec i s = s.loadTo d a size signed scope ∧ 0 < size := by
  rcases h with ⟨ty, o, rfl, rfl, rfl, rfl, rfl⟩ | ⟨sc, sz, sg, rfl, rfl, rfl, rfl, rfl⟩
  · refine ⟨rfl, ?_⟩
    unfold ldSize
    split <;> exact Nat.two_pow_pos _
  · exact ⟨rfl, Nat.two_pow_pos _⟩

/-- A load that acquires after the checker has noted what it read. -/
theorem onCheck_loaded (s : State) (f : Checker → Checker) (d : Reg) (y : Word) : onlyG s ((s.onCheck f).loaded d 2 y) d y ∧
    sameMemory s ((s.onCheck f).loaded d 2 y) ∧ sameOutside s ((s.onCheck f).loaded d 2 y) ∧ ((s.onCheck f).loaded d 2 y).me.st = s.me.st ∧
    ((s.onCheck f).loaded d 2 y).me.en.l1 = s.me.en.l1.filter fun l => l.ro := by
  have me : (s.onCheck f).me = s.me.onCheck f := State.onMe_me ..
  refine ⟨onlyG_loaded (s := s) (v := s.onCheck f) (by rw [me, Core.onCheck_cl]) rfl d 2 y, sameMemory_of_ms (State.loaded_ms ..), ?_, ?_, ?_⟩
  · rw [State.loaded_eq, State.onCheck, State.onMe_eq, State.setCore_cur, State.setCore_setCore]
    exact sameOutside_setCore _ _
  · rw [State.loaded_st, me, Core.onCheck_frame]
  · rw [State.loaded_en, me, Core.acquired_en, Core.onCheck_frame]; rfl

theorem memLoad_of_read {s v : State} {a : Word} {p : Phys} {path size x : Nat} (h : s.memRead a p path size = .ok x v) :
    s.memLoad a p path size = .ok x (v.sawOutcome p x) := by rw [State.memLoad, h]; rfl

theorem loadTo_memory {s v : State} {a : Word} {p : Phys} {path size x : Nat} {m : MemSys} (d : Reg) (scope : Nat) (signed : Bool)
    (h : s.target a size .load = .ok (.mem p path) s) (hr : s.memRead a p path size = .ok x v) (hv : readFrom s m v) :
    ∃ t, s.loadTo d a size signed scope = .next t ∧ loadedFrom s p d scope x (extendLoad size signed x) m t :=
  ⟨_, loadTo_gives d h nofun (memLoad_of_read hr), sawOutcome_loaded hv p d scope x _⟩

/-- Settles O16: each target's load is its value, and what follows it is the acquire and the register (`loaded_frame`). -/
theorem loadsReturnTheBytesExtended : Obligations.LoadsReturnTheBytesExtended := by
  intro s d ra ext i a size signed scope hi
  obtain ⟨run, pos⟩ := exec_load hi
  have value : ∀ x, extendLoad size signed x = ext size signed x := extendLoad_eq pos signed
  clear_value ext
  intro givesIf gives outcome
  have frame : ∀ x, s.loadTo d a size signed scope = .next (s.loaded d scope (extendLoad size signed x)) → gives x := fun x e =>
    ⟨_, run.trans e, value x ▸ loaded_frame s d scope _⟩
  have zero : ext size signed 0 = 0 := by
    rw [← value, extendLoad_eq pos]
    cases signed <;> simp [BitVec.signExtend]
  rw [run]
  refine ⟨fun h ht => ⟨fun hs => frame _ (loadTo_gives d ht nofun (if_neg (Bool.eq_false_iff.mp hs))), fun hs => loadTo_waits d ht nofun rfl (if_pos hs)⟩,
    fun h ht => ⟨fun hs => frame _ (loadTo_gives d ht nofun (if_neg (Bool.eq_false_iff.mp hs))), fun hs => loadTo_waits d ht nofun rfl (if_pos hs)⟩,
    fun k b off ht hm hk hw hp => frame _ (loadTo_gives d ht nofun (State.bufRead_plain hm hk hw hp a)),
    fun rt r ht hs => loadTo_waits d ht nofun rfl (if_pos hs), fun rt r ht hs hl => ?_, fun p path ht hd hp => ?_, fun p ht hd => ?_,
    fun p path l ht hd hp hl => ⟨fun hx => ?_, fun hx => ?_⟩, fun p path ht hd hp hl hh hlost => ?_, fun p ht hd hh hlost => ?_,
    fun p path ht hd hp hh => ?_, fun p path ht hd hp hh hlost => ?_⟩
  · have lat : s.loadAt a (.lat rt r) size = .ok (s.latLoad rt r a size) ((s.latSeen rt r a size).acquire 2) := by
      simp only [State.loadAt, hs, hl, Bool.false_eq_true, if_false]
    have done := loadTo_gives (scope := scope) (signed := signed) d ht nofun lat
    rw [State.acquire_loaded _ (by decide), value] at done
    exact ⟨_, done, onCheck_loaded s _ d _⟩
  · have load : s.memLoad a p path size = .ok 0 s := (memLoad_of_read (memRead_dead a hd hp)).trans (by
      rw [sawOutcome_loaded_of_not fun h => h.1 rfl])
    exact frame 0 (loadTo_gives d ht nofun load)
  · have done := loadTo_gives (scope := scope) (signed := signed) d ht nofun (memLoad_of_read (memRead_deadHome hd a size))
    rw [sawOutcome_loaded_of_not fun h => h.1 rfl, value, zero] at done
    exact ⟨_, done, l1Update_loaded s _ _ _ d scope 0⟩
  · have load : s.memLoad a p path size = .ok _ s := (memLoad_of_read (memRead_hit a hd hp hl)).trans (by
      rw [sawOutcome_loaded_of_not hx])
    exact frame _ (loadTo_gives d ht nofun load)
  · have load : s.memLoad a p path size = .ok _ (s.acquire 2) := (memLoad_of_read (memRead_hit a hd hp hl)).trans (by rw [sawOutcome_of hx])
    have done := loadTo_gives (scope := scope) (signed := signed) d ht nofun load
    rw [State.acquire_loaded _ (by decide), value] at done
    exact ⟨_, run.trans done, loaded_frame s d 2 _⟩
  · obtain ⟨u, line, hu⟩ := lineLoad_cached (mask := rangeMask p.off size) hd hp hh hlost
    obtain ⟨v, read, hv⟩ := (memRead_miss a hd (.inr hl)).2.2 _ _ _ line hu
    have done := loadTo_memory d scope signed ht read hv
    rw [value] at done
    exact done
  · obtain ⟨u, line, hu⟩ := lineLoad_home (mask := rangeMask p.off size) hd hh hlost
    obtain ⟨v, read, hv⟩ := (memRead_miss a hd (.inl rfl)).2.2 _ _ _ line hu
    have done := loadTo_memory d scope signed ht read hv
    rw [value] at done
    exact done
  · have wait := (memRead_miss (size := size) a hd hp).1 (lineLoad_held hd hh)
    exact loadTo_waits d ht nofun rfl (by rw [State.loadAt, State.memLoad, wait]; rfl)
  · have trap := (memRead_miss (size := size) a hd hp).2.1 _ _ _ (lineLoad_lost hd hh hlost)
    exact loadTo_faults d ht nofun (by rw [State.loadAt, State.memLoad, trap]; rfl)

end Sys2Proof.Machine
end

section
/-! Stores: which bytes they write, and what else they change. -/

namespace Sys2Proof.Machine

/-- The two stores, as one access. -/
theorem exec_store {s : State} {ra rb : Reg} {i : Instr} {a : Word} {size : Nat}
    (h : (∃ sz o, i = .st ra rb sz o ∧ size = 2 ^ sz.toNat ∧ a = s.g ra + o.signExtend 64 * BitVec.ofNat 64 size) ∨
       (∃ sc sz, i = .str ra rb sc sz ∧ size = 2 ^ sz.toNat ∧ a = s.g ra)) : exec i s = s.storeFrom a size (s.g rb) := by
  rcases h with ⟨sz, o, rfl, rfl, rfl⟩ | ⟨sc, sz, rfl, rfl, rfl⟩ <;> rfl

/-! A store at its target. -/

section
variable {s : State} {a : Word} {t : Target} {size : Nat} {x : Word}

theorem storeFrom_at (h : s.target a size .store = .ok t s) (hw : ∀ off, t ≠ .window off) : s.storeFrom a size x =
    (s.storeAt a t size x.toNat).outAt s t size fun _ v => .next v := by
  rw [State.storeFrom, h, Res.out_ok]
  cases t <;> first | exact absurd rfl (hw _) | rfl

theorem storeFrom_writes {v : State} (h : s.target a size .store = .ok t s) (hw : ∀ off, t ≠ .window off)
    (hl : s.storeAt a t size x.toNat = .ok () v) : s.storeFrom a size x = .next v := by
  rw [storeFrom_at h hw, hl]; rfl

theorem storeFrom_waits (h : s.target a size .store = .ok t s) (hw : ∀ off, t ≠ .window off) (hb : s.stallAt t size = s.stall)
    (hl : s.storeAt a t size x.toNat = .wait) : s.storeFrom a size x = s.stall := by
  rw [storeFrom_at h hw, hl]; exact hb

end

/-! The places a store reaches. -/

theorem State.bufWrite_plain {s : State} {k : Fin 768} {b : Fin 4} {off n : Nat} (hm : s.me.det = false) (hk : (s.core k).det = false)
    (hw : s.bufWaits k b off n (s.core k).en.issued = false) (x : Nat) (a : Word) : s.bufWrite k b off n x a =
    .ok () (s.onCore k fun c => { c with st := c.st.putBuf b off (leBytes x n) }) := by
  simp [State.bufWrite, State.bufGate, hw, State.orderAccess_of_not_det hm hk]

/-- A change of host memory alone. -/
theorem sameOutside_withMs (s : State) (m : MemSys) : sameOutside s { s with ms := m } :=
  ⟨rfl, rfl, rfl, rfl, rfl, rfl, rfl, rfl, rfl, rfl, rfl, fun _ _ => rfl⟩

/-- A page revived leaves the executing core's registers and storage. -/
theorem State.revived_me (s : State) (p : Phys) : (s.revived p).me.cl = s.me.cl ∧ (s.revived p).me.st = s.me.st ∧ (s.revived p).cur = s.cur := by
  unfold State.revived
  split
  · have me : ∀ (u : State) slot scope tid first n, (u.shootdown slot scope tid first n).me = u.me.shot slot scope tid first n :=
      fun u slot scope tid first n => vmap_get _ _ _
    rw [me]
    exact ⟨rfl, rfl, rfl⟩
  · exact ⟨rfl, rfl, rfl⟩

theorem lineStore_held {s : State} {p : Phys} (h : s.held (dieOf s.cur.core) p = true) (path : Nat) (mask : Word) (data : Line) :
    s.lineStore p path mask data = .wait := if_pos h

/-- The memories after masked bytes of a line are stored at their home, or through the die cache. -/
def MemSys.storedBy (m : MemSys) (die : Fin 8) (p : Phys) (path : Nat) (mask : Word) (data : Line) : MemSys :=
  if path = 3 then (m.toHome die p).homeWrite p.line p.key mask data else m.store die p mask data

/-- A store of a line reaches the memories once its page is alive, and no register. -/
theorem lineStore_free {s : State} {p : Phys} (h : s.held (dieOf s.cur.core) p = false) (path : Nat) (mask : Word) (data : Line) :
    ∃ v, s.lineStore p path mask data = .ok () v ∧ v.me.cl = s.me.cl ∧ v.me.st = s.me.st ∧
      v.ms = (s.revived p).ms.storedBy (dieOf s.cur.core) p path mask data := by
  obtain ⟨cl, st, cur⟩ := s.revived_me p
  obtain ⟨rg, count⟩ := (s.revived p).countHome_eq p (decide (path ≠ 3)) 0
  have free : ¬ s.held (dieOf s.cur.core) p = true := Bool.eq_false_iff.mp h
  have updated : ((s.revived p).countHome p (decide (path ≠ 3)) 0).onMe (fun k => k.l1Update p.line mask data) =
      (s.revived p).setCore (s.revived p).cur.core (({ (s.revived p).me with rg := rg } : Core).l1Update p.line mask data) := by
    rw [count, State.onMe_setCore]
  have me : (((s.revived p).countHome p (decide (path ≠ 3)) 0).onMe fun k => k.l1Update p.line mask data).me =
      ({ (s.revived p).me with rg := rg } : Core).l1Update p.line mask data := by rw [updated, State.me_setCore]
  have kept : (((s.revived p).countHome p (decide (path ≠ 3)) 0).onMe fun k => k.l1Update p.line mask data).me.cl = s.me.cl ∧
      (((s.revived p).countHome p (decide (path ≠ 3)) 0).onMe fun k => k.l1Update p.line mask data).me.st = s.me.st := by
    rw [me]; exact ⟨cl, st⟩
  refine ⟨_, if_neg free, kept.1, kept.2, ?_⟩
  rw [← cur]; rfl

/-- Settles O17: each target's store, by where it lands. -/
theorem storesWriteTheLowBytesOfTheirSource : Obligations.StoresWriteTheLowBytesOfTheirSource := by
  intro s ra rb i a size hi byte stored
  rw [exec_store hi]
  have memory : ∀ p path, s.target a size .store = .ok (.mem p path) s → s.held (dieOf s.cur.core) p = false →
      ∃ t, s.storeFrom a size (s.g rb) = .next t ∧ t.me.cl = s.me.cl ∧ t.me.st = s.me.st ∧ t.ms = (s.revived p).ms.storedBy (dieOf s.cur.core) p
        path (rangeMask p.off size) (placeInLine ((s.g rb).toNat % 256 ^ size) p.off) := fun p path ht hh => by
    obtain ⟨v, done, frame⟩ := lineStore_free hh path (rangeMask p.off size) (placeInLine ((s.g rb).toNat % 256 ^ size) p.off)
    exact ⟨v, storeFrom_writes ht nofun done, frame⟩
  have alive : ∀ p : Phys, p.dead = false → s.revived p = s := fun p hd => by rw [State.revived, hd]; rfl
  refine ⟨fun h ht hs => storeFrom_waits ht nofun rfl (if_pos hs), fun h ht hs => storeFrom_waits ht nofun rfl (if_pos hs),
    fun h ht hs hm => ⟨_, storeFrom_writes ht nofun (if_neg (Bool.eq_false_iff.mp hs)), fun b => Memory.read_writeLe hm h size _ b, rfl,
      sameOutside_withMs s _, rfl, rfl⟩,
    fun h ht hs hm => ⟨_, storeFrom_writes ht nofun (if_neg (Bool.eq_false_iff.mp hs)), fun b => Memory.read_writeLe hm h size _ b, rfl,
      sameOutside_withMs s _, rfl, rfl⟩,
    fun k off ht hm hk hw hwf => ?_, fun p path ht hh hd hp => ?_, fun p path ht hh hd hp => ?_, fun p ht hh hd => ?_,
    fun p path ht hh => storeFrom_waits ht nofun rfl (lineStore_held hh path _ _)⟩
  · have core := State.onCore_core_same s k fun c => { c with st := c.st.putBuf 1 off (leBytes (s.g rb).toNat size) }
    refine ⟨_, storeFrom_writes ht nofun (State.bufWrite_plain hm hk hw _ a), fun b => ?_, sameMemory_of_ms rfl, ?_,
      fun j hj => State.onCore_core_ne _ _ hj, rfl, rfl, rfl, rfl, rfl, rfl, rfl, rfl⟩
    · rw [core]; exact Memory.read_writeLe hwf off size _ b
    · rw [core]; rfl
  · obtain ⟨t, done, cl, st, ms⟩ := memory p path ht hh
    rw [alive p hd] at ms
    exact ⟨t, done, cl, st, ms.trans (if_neg hp)⟩
  · obtain ⟨t, done, cl, st, ms⟩ := memory p path ht hh
    exact ⟨t, done, cl, st, ms.trans (if_neg hp)⟩
  · obtain ⟨t, done, cl, st, ms⟩ := memory p 3 ht hh
    rw [alive p hd] at ms
    exact ⟨t, done, cl, st, ms⟩

end Sys2Proof.Machine
end

section
/-! Special registers read: the value of each number, layer by layer. -/

namespace Sys2Proof.Machine

/-! Numbers and ranges. -/

theorem within_in {n lo hi : Nat} (h : lo ≤ n ∧ n ≤ hi) : within n lo hi = true := by simp [within, h.1, h.2]

theorem within_out {n lo hi : Nat} (h : n < lo ∨ hi < n) : within n lo hi = false := by
  unfold within
  rcases h with h | h <;> simp <;> omega

/-- An entry of an array by the number of its register, where the array starts at a multiple of its length. -/
theorem ofNat_base_add {k : Nat} [NeZero k] {b : Nat} (h : b % k = 0) (i : Fin k) : Fin.ofNat k (b + i.val) = i := by
  apply Fin.ext
  rw [Fin.val_ofNat, Nat.add_mod, h, Nat.zero_add, Nat.mod_mod, Nat.mod_eq_of_lt i.isLt]

theorem ofNat_val {k : Nat} [NeZero k] (i : Fin k) : Fin.ofNat k i.val = i := by
  apply Fin.ext
  rw [Fin.val_ofNat, Nat.mod_eq_of_lt i.isLt]

/-- A sum by a running total. -/
theorem foldl_add_eq_sum {α : Type} (f : α → Nat) (l : List α) (a : Nat) : l.foldl (fun n x => n + f x) a = a + (l.map f).sum := by
  induction l generalizing a with
  | nil => rfl
  | cons x l ih => rw [List.foldl_cons, ih, List.map_cons, List.sum_cons, Nat.add_assoc]

/-! The layers of a read. -/

/-- The numbers whose read is composed or clears something. -/
def composedReg (n : Nat) : Prop :=
  n = 0 ∨ n = 1 ∨ n = 0x010 ∨ n = 0x012 ∨ n = 0x111 ∨ n = 0x850 ∨ n = 0x851 ∨ n = 0x852 ∨ n = 0x855 ∨
    (0xD00 ≤ n ∧ n ≤ 0xD6F ∧ n % 8 = 3) ∨ n = 0xE74 ∨ (0xE80 ≤ n ∧ n ≤ 0xECB)

/-- Any other number: the cluster's register, else the core's, else the device's. -/
theorem readReg_plain (s : State) {n : Nat} (h : ¬ composedReg n) :
    s.readReg n = ((s.cl.special n).getD ((s.me.special n).getD (s.devSpecial s.cur.core n)), s) := by
  have link : (within n 0xD00 0xD6F && n % 8 == 3) = false := by
    simp only [within, Bool.and_eq_false_iff, decide_eq_false_iff_not, beq_eq_false_iff_ne, composedReg] at h ⊢
    omega
  have island : within n 0xE80 0xECB = false := within_out (by unfold composedReg at h; omega)
  simp only [composedReg, not_or] at h
  obtain ⟨h0, h1, h2, h3, h4, h5, h6, h7, h8, -, h9, -⟩ := h
  unfold State.readReg
  simp only [h0, h1, h2, h3, h4, h5, h6, h7, h8, h9, link, island, if_false, Bool.false_eq_true]
  cases s.cl.special n with
  | some x => rfl
  | none => cases s.me.special n <;> rfl

theorem Cluster.special_none (c : Cluster) {n : Nat} (h : 0x811 ≤ n) : c.special n = none := by
  simp (disch := omega) only [Cluster.special, within_out, if_neg, Bool.false_eq_true, if_false]

theorem Core.special_none (k : Core) {n : Nat} (h : 0x8C8 ≤ n) : k.special n = none := by
  simp (disch := omega) only [Core.special, within_out, if_neg, Bool.false_eq_true, if_false]

theorem readReg_cluster {s : State} {n : Nat} {x : Word} (h : ¬ composedReg n) (hx : s.cl.special n = some x) : s.readReg n = (x, s) := by
  rw [readReg_plain s h, hx]; rfl

theorem readReg_core {s : State} {n : Nat} {x : Word} (h : ¬ composedReg n) (hc : s.cl.special n = none) (hx : s.me.special n = some x) :
    s.readReg n = (x, s) := by
  rw [readReg_plain s h, hc, hx]; rfl

theorem readReg_device {s : State} {n : Nat} {x : Word} (h : ¬ composedReg n) (hn : 0x8C8 ≤ n) (hx : s.devSpecial s.cur.core n = x) :
    s.readReg n = (x, s) := by
  rw [readReg_plain s h, Cluster.special_none _ (by omega), Core.special_none _ hn, hx]; rfl

/-! Arrays of registers. -/

theorem composedReg_low {n : Nat} (h : 0x013 ≤ n ∧ n < 0x850 ∧ n ≠ 0x111) : ¬ composedReg n := by unfold composedReg; omega

theorem readReg_loops (s : State) (i : Fin 4) :
    s.readReg (0x0C0 + i.val) = (vget s.cl.lps i, s) ∧ s.readReg (0x0C4 + i.val) = (vget s.cl.lpe i, s) ∧
    s.readReg (0x0C8 + i.val) = (vget s.cl.lpc i, s) ∧ s.readReg (0x808 + i.val) = (vget s.cl.hkeep i, s) := by
  have hi := i.isLt
  refine ⟨?_, ?_, ?_, ?_⟩ <;> refine readReg_cluster (composedReg_low (by omega)) ?_ <;>
    simp (disch := omega) only [Cluster.special, within_in, within_out, ↓if_neg, ↓reduceIte, Bool.false_eq_true, ofNat_base_add]

theorem readReg_shapes (s : State) (i : Fin 16) : s.readReg (0x050 + i.val) = (vget s.me.st.tsh i, s) := by
  have hi := i.isLt
  refine readReg_core (composedReg_low (by omega)) ?_ ?_ <;>
    simp (disch := omega) only [Cluster.special, Core.special, within_in, within_out, ↓if_neg, ↓reduceIte, Bool.false_eq_true, ofNat_base_add]

theorem readReg_channels (s : State) (i : Fin 8) :
    s.readReg (0x080 + i.val) = ((vget s.me.en.chans i).watermark, s) ∧ s.readReg (0x090 + i.val) = ((vget s.me.en.chans i).pgnow, s) ∧
    s.readReg (0x098 + i.val) = ((vget s.me.en.chans i).pgnxt, s) ∧ s.readReg (0x0A0 + i.val) = ((vget s.me.en.chans i).pgdst, s) := by
  have hi := i.isLt
  refine ⟨?_, ?_, ?_, ?_⟩ <;> refine readReg_core (composedReg_low (by omega)) ?_ ?_ <;>
    simp (disch := omega) only [Cluster.special, Core.special, within_in, within_out, ↓if_neg, ↓reduceIte, Bool.false_eq_true, ofNat_base_add]

theorem readReg_counters (s : State) (i : Fin 8) :
    s.readReg (0x880 + i.val) = ((vget s.me.en.chans i).ahm, s) ∧ s.readReg (0x100 + i.val) = (vget s.me.rg.pmc i, s) ∧
    s.readReg (0x8C0 + i.val) = (vget s.me.rg.pmsel i, s) := by
  have hi := i.isLt
  refine ⟨?_, ?_, ?_⟩ <;> refine readReg_core (by unfold composedReg; omega) ?_ ?_ <;>
    simp (disch := omega) only [Cluster.special, Core.special, within_in, within_out, ↓if_neg, ↓reduceIte, Bool.false_eq_true, ofNat_base_add]

/-! Registers of the device. -/

/-- The numbers of the device's registers whose value is composed. -/
def composedDev (n : Nat) : Prop :=
  n ∈ [0x811, 0x820, 0xA00, 0xC40, 0xC42, 0xC48, 0xC58, 0xA02, 0xA71, 0xB40, 0xC52, 0xE61, 0xE72, 0xF71, 0xF72] ∨
    (0x900 ≤ n ∧ n ≤ 0x97F ∧ n % 4 = 0) ∨ (0xB00 ≤ n ∧ n ≤ 0xB3F) ∨
    (0xD00 ≤ n ∧ n ≤ 0xD6F ∧ (n % 8 = 1 ∨ n % 8 = 2 ∨ n % 8 = 6)) ∨ (0xE40 ≤ n ∧ n ≤ 0xE47) ∨ (0xF00 ≤ n ∧ n ≤ 0xF4B) ∨
    (0xF58 ≤ n ∧ n ≤ 0xF5F)

theorem within_and_beq {n lo hi m a : Nat} (h : ¬ (lo ≤ n ∧ n ≤ hi ∧ n % m = a)) : (within n lo hi && n % m == a) = false := by
  simp only [within, Bool.and_eq_false_iff, decide_eq_false_iff_not, beq_eq_false_iff_ne]
  omega

theorem devSpecial_plain (s : State) (k : Fin 768) {n : Nat} (h : ¬ composedDev n) : s.devSpecial k n = s.dev n := by
  simp only [composedDev, List.mem_cons, List.not_mem_nil, or_false, not_or] at h
  obtain ⟨⟨h1, h2, h3, h4, h5, h6, h7, h8, h9, h10, h11, h12, h13, h14, h15⟩, hq, hb, hd, he, hf, hp⟩ := h
  have q := within_and_beq hq
  have l1 := within_and_beq (n := n) (lo := 0xD00) (hi := 0xD6F) (m := 8) (a := 1) (by omega)
  have l2 := within_and_beq (n := n) (lo := 0xD00) (hi := 0xD6F) (m := 8) (a := 2) (by omega)
  have l6 := within_and_beq (n := n) (lo := 0xD00) (hi := 0xD6F) (m := 8) (a := 6) (by omega)
  have b := within_out (n := n) (lo := 0xB00) (hi := 0xB3F) (by omega)
  have e := within_out (n := n) (lo := 0xE40) (hi := 0xE47) (by omega)
  have f := within_out (n := n) (lo := 0xF00) (hi := 0xF4B) (by omega)
  have p := within_out (n := n) (lo := 0xF58) (hi := 0xF5F) (by omega)
  simp only [State.devSpecial, h1, h2, h3, h4, h5, h6, h7, h8, h9, h10, h11, h12, h13, h14, h15, q, l1, l2, l6, b, e, f, p, or_self,
    Bool.false_eq_true, ↓reduceIte]

/-- A register that reads as it was written. -/
theorem readReg_stored (s : State) {n : Nat} (h : ¬ composedReg n) (hd : ¬ composedDev n) (hn : 0x8C8 ≤ n) : s.readReg n = (s.dev n, s) :=
  readReg_device h hn (devSpecial_plain s _ hd)

theorem readReg_queueConfig (s : State) (q : Fin 32) :
    s.readReg (0x900 + 4 * q.val) = (s.dev (0x900 + 4 * q.val) ||| BitVec.ofNat 64 (s.queueCount q % 128), s) := by
  have hq := q.isLt
  refine readReg_device (by unfold composedReg; omega) (by omega) ?_
  have e : (0x900 + 4 * q.val - 0x900) / 4 = q.val := by omega
  simp (disch := omega) only [State.devSpecial, within_in, beq_of_eq, ↓if_neg, ↓reduceIte, Bool.and_self, e, State.lqcfg, ofNat_val]

theorem readReg_celoc (s : State) {i : Nat} (h : i < 64) :
    s.readReg (0xB00 + i) = ((vget s.plat.dies (dieOf s.cur.core)).celocWord i, s) := by
  refine readReg_device (by unfold composedReg; omega) (by omega) ?_
  simp (disch := omega) only [State.devSpecial, within_in, within_out, ↓if_neg, ↓reduceIte, Bool.false_and, Bool.false_eq_true,
    Nat.add_sub_cancel_left]

/-- The number of a link from that of one of its registers. -/
theorem linkOf_reg (i : Fin 14) {j : Nat} (h : j < 8) : Fin.ofNat 14 ((0xD00 + 8 * i.val + j - 0xD00) / 8) = i := by
  rw [show (0xD00 + 8 * i.val + j - 0xD00) / 8 = i.val by omega, ofNat_val]

theorem readReg_link (s : State) (i : Fin 14) :
    s.readReg (0xD00 + 8 * i.val + 1) = ((vget s.plat.links i).status, s) ∧
    s.readReg (0xD00 + 8 * i.val + 2) = ((vget s.plat.links i).map, s) ∧
    s.readReg (0xD00 + 8 * i.val + 6) = ((vget s.plat.links i).evt, s) := by
  have hi := i.isLt
  refine ⟨?_, ?_, ?_⟩ <;> refine readReg_device (by unfold composedReg; omega) (by omega) ?_ <;>
    simp (disch := omega) only [State.devSpecial, within_in, within_out, beq_of_eq, beq_false_of_ne, ↓if_neg, ↓reduceIte, Bool.and_false,
      Bool.and_self, Bool.false_eq_true, linkOf_reg]

theorem readReg_ports (s : State) (i : Fin 8) :
    s.readReg (0xE40 + i.val) = ((vget s.plat.cxl i).word, s) ∧ s.readReg (0xF58 + i.val) = (s.diegov i, s) := by
  have hi := i.isLt
  refine ⟨?_, ?_⟩ <;> refine readReg_device (by unfold composedReg; omega) (by omega) ?_ <;>
    simp (disch := omega) only [State.devSpecial, within_in, within_out, ↓if_neg, ↓reduceIte, Bool.false_and, Bool.false_eq_true,
      ofNat_base_add]

theorem readReg_islandState (s : State) (i : Fin 76) : s.readReg (0xF00 + i.val) = ((vget s.plat.islands i).word, s) := by
  have hi := i.isLt
  refine readReg_device (by unfold composedReg; omega) (by omega) ?_
  simp (disch := omega) only [State.devSpecial, within_in, within_out, ↓if_neg, ↓reduceIte, Bool.false_and, Bool.false_eq_true,
    Nat.add_sub_cancel_left, ofNat_val]

/-! Reads that clear a field of a link or an island. -/

theorem readReg_linkCounts (s : State) (i : Fin 14) :
    s.readReg (0xD00 + 8 * i.val + 3) = (BitVec.ofNat 64 ((vget s.plat.links i).crcerr * 2 ^ 32 + (vget s.plat.links i).replays),
      s.onLink i fun x => { x with crcerr := 0, replays := 0 }) := by
  have hi := i.isLt
  simp (disch := omega) only [State.readReg, within_in, beq_of_eq, ↓if_neg, ↓reduceIte, Bool.and_self, linkOf_reg]

theorem readReg_clock (s : State) (i : Fin 76) :
    s.readReg (0xE80 + i.val) = ((vget s.plat.islands i).clk, s.onIsland i fun d => { d with stretch := 0 }) := by
  have hi := i.isLt
  simp (disch := omega) only [State.readReg, within_in, within_out, ↓if_neg, ↓reduceIte, Bool.false_and, Bool.false_eq_true,
    Nat.add_sub_cancel_left, ofNat_val]

end Sys2Proof.Machine
end

section
/-! Special registers read: the composed values, and `MFS`. -/

namespace Sys2Proof.Machine

/-! Token and data queue counts (R38). -/

/-- A number written in four-bit digits: it is below its first free power, and each of its digits stands in its place. -/
theorem digits_of_sum (d : Nat → Nat) (h : ∀ i, d i < 16) (n : Nat) :
    (List.range n).foldl (fun a i => a + d i * 16 ^ i) 0 < 16 ^ n ∧
    ∀ j, j < n → (List.range n).foldl (fun a i => a + d i * 16 ^ i) 0 / 2 ^ (4 * j) % 16 = d j := by
  induction n with
  | zero => exact ⟨Nat.one_pos, fun j hj => absurd hj (Nat.not_lt_zero j)⟩
  | succ n ih =>
    rw [List.range_succ, List.foldl_append, List.foldl_cons, List.foldl_nil]
    generalize (List.range n).foldl (fun a i => a + d i * 16 ^ i) 0 = a at ih ⊢
    obtain ⟨small, digit⟩ := ih
    have hd := h n
    refine ⟨?_, fun j hj => ?_⟩
    · calc a + d n * 16 ^ n < 1 * 16 ^ n + d n * 16 ^ n := by omega
        _ = (1 + d n) * 16 ^ n := (Nat.add_mul ..).symm
        _ ≤ 16 * 16 ^ n := Nat.mul_le_mul_right _ (by omega)
        _ = 16 ^ (n + 1) := Nat.pow_succ'.symm
    · rw [Nat.pow_mul, show 2 ^ 4 = 16 from rfl]
      rcases Nat.lt_succ_iff_lt_or_eq.mp hj with lt | rfl
      · have low := digit j lt
        rw [Nat.pow_mul, show 2 ^ 4 = 16 from rfl] at low
        obtain ⟨m, rfl⟩ : ∃ m, n = j + 1 + m := ⟨n - (j + 1), by omega⟩
        have e : d (j + 1 + m) * 16 ^ (j + 1 + m) = 16 ^ j * (16 * (d (j + 1 + m) * 16 ^ m)) := by ring
        rw [e, Nat.add_mul_div_left _ _ (Nat.pow_pos (by decide)), Nat.add_mul_mod_self_left, low]
      · rw [Nat.add_mul_div_right _ _ (Nat.pow_pos (by decide)), Nat.div_eq_of_lt small, Nat.zero_add, Nat.mod_eq_of_lt hd]

theorem tqcnt_digits (t : Storage) : t.tqcnt < 2 ^ 48 ∧
    ∀ e ∈ ([(Clu.c, Clu.a, 0), (.c, .v, 4), (.c, .m, 8), (.a, .c, 12), (.a, .v, 16), (.a, .m, 20), (.v, .c, 24), (.v, .a, 28), (.v, .m, 32),
      (.m, .c, 36), (.m, .a, 40), (.m, .v, 44)] : List (Clu × Clu × Nat)),
      t.tqcnt / 2 ^ e.2.2 % 16 = vget t.tok (tokIdx e.1 e.2.1) % 16 := by
  obtain ⟨small, digit⟩ := digits_of_sum (fun i => vget t.tok (tokIdx (cluOf (i / 3)) (peerOf (cluOf (i / 3)) (i % 3))) % 16)
    (fun _ => Nat.mod_lt _ (by decide)) 12
  rw [← Storage.tqcnt] at small digit
  refine ⟨small, ?_⟩
  simp only [List.forall_mem_cons, List.not_mem_nil, false_imp_iff, implies_true, and_true]
  exact ⟨digit 0 (by decide), digit 1 (by decide), digit 2 (by decide), digit 3 (by decide), digit 4 (by decide), digit 5 (by decide),
    digit 6 (by decide), digit 7 (by decide), digit 8 (by decide), digit 9 (by decide), digit 10 (by decide), digit 11 (by decide)⟩

/-! Watermarks and sequencer runs (R214 to R216). -/

/-- The first element that a test accepts, when those before it fail the test. -/
theorem find?_of_first {α : Type} {p : α → Bool} {pre : List α} {x : α} (post : List α) (h : ∀ y ∈ pre, p y = false) (hx : p x = true) :
    (pre ++ x :: post).find? p = some x := by
  rw [List.find?_append, List.find?_eq_none.mpr fun y hy => by simp [h y hy], List.find?_cons, hx]
  rfl

/-- A command that WMn follows: a copy or load with a range, or a staged run. -/
def ChCmd.ranged (x : ChCmd) : Bool := x.range.isSome || x.staged

theorem ChCmd.ranged_iff (x : ChCmd) : x.ranged = true ↔ x.range ≠ none ∨ x.staged = true := by
  rw [ChCmd.ranged, Bool.or_eq_true, Option.isSome_iff_ne_none]

theorem ChCmd.not_ranged {x : ChCmd} (h : ¬ (x.range ≠ none ∨ x.staged = true)) : x.ranged = false :=
  Bool.eq_false_iff.mpr fun e => h (x.ranged_iff.mp e)

theorem watermark_idle {ch : Channel} (h : ∀ x ∈ ch.cmds, ¬ (x.range ≠ none ∨ x.staged = true)) : ch.watermark = ch.wm := by
  have none : ch.cmds.find? ChCmd.ranged = none := List.find?_eq_none.mpr fun x hx => by simp [ChCmd.not_ranged (h x hx)]
  unfold Channel.watermark
  rw [show (fun d : ChCmd => d.range.isSome || d.staged) = ChCmd.ranged from rfl, none]

theorem watermark_oldest {ch : Channel} {pre post : List ChCmd} {x : ChCmd} (hc : ch.cmds = pre ++ x :: post)
    (h : ∀ y ∈ pre, ¬ (y.range ≠ none ∨ y.staged = true)) :
    (∀ b lo len, x.range = some (b, lo, len) → ch.watermark = BitVec.ofNat 64 ((8 + b.val) * 2 ^ 60 + (lo + x.filled) % 2 ^ 60)) ∧
    (x.range = none → x.staged = true → ch.watermark = BitVec.ofNat 64 x.prog) := by
  have found (hx : x.ranged = true) : ch.cmds.find? ChCmd.ranged = some x :=
    hc ▸ find?_of_first post (fun y hy => ChCmd.not_ranged (h y hy)) hx
  unfold Channel.watermark
  rw [show (fun d : ChCmd => d.range.isSome || d.staged) = ChCmd.ranged from rfl]
  refine ⟨fun b lo len e => ?_, fun e hs => ?_⟩
  · simp only [found (by rw [ChCmd.ranged, e]; rfl), e]
    rfl
  · simp only [found (by rw [ChCmd.ranged, hs, Bool.or_true]), e]

/-- The other numbered command, if there is one, is later. -/
def LaterThan (x : Nat × ChCmd) (o : Option (Nat × ChCmd)) : Prop := ∀ y, o = some y → x.2.order < y.2.order

theorem olderCmd_left {x : Nat × ChCmd} {o : Option (Nat × ChCmd)} (h : o = some x ∨ LaterThan x o) : olderCmd (some x) o = some x := by
  cases o with
  | none => rfl
  | some y =>
    refine if_pos ?_
    rcases h with h | h
    · rw [Option.some.inj h]
    · exact Nat.le_of_lt (h y rfl)

theorem olderCmd_right {x : Nat × ChCmd} {o : Option (Nat × ChCmd)} (h : LaterThan x o) : olderCmd o (some x) = some x := by
  cases o with
  | none => rfl
  | some y => exact if_neg (Nat.not_le.mpr (h y rfl))

theorem olderCmd_later {x : Nat × ChCmd} {o p : Option (Nat × ChCmd)} (ho : LaterThan x o) (hp : LaterThan x p) :
    LaterThan x (olderCmd o p) := by
  cases o with
  | none => exact hp
  | some y =>
    cases p with
    | none => exact ho
    | some z =>
      intro w hw
      simp only [olderCmd] at hw
      split at hw <;> cases hw
      · exact ho _ rfl
      · exact hp _ rfl

theorem foldl_olderCmd_held {f : Nat → Option (Nat × ChCmd)} {x : Nat × ChCmd} {l : List Nat} (h : ∀ j ∈ l, f j = some x ∨ LaterThan x (f j)) :
    l.foldl (fun o j => olderCmd o (f j)) (some x) = some x := by
  induction l with
  | nil => rfl
  | cons j l ih =>
    rw [List.foldl_cons, olderCmd_left (h j List.mem_cons_self)]
    exact ih fun k hk => h k (List.mem_cons_of_mem _ hk)

/-- The oldest of numbered commands: the one before which no other of them was issued. -/
theorem foldl_olderCmd {f : Nat → Option (Nat × ChCmd)} {x : Nat × ChCmd} {i : Nat} {l : List Nat} {o : Option (Nat × ChCmd)}
    (hi : i ∈ l) (hx : f i = some x) (h : ∀ j ∈ l, j ≠ i → LaterThan x (f j)) (ho : LaterThan x o) :
    l.foldl (fun o j => olderCmd o (f j)) o = some x := by
  have all : ∀ j ∈ l, f j = some x ∨ LaterThan x (f j) := fun j hj => by
    by_cases e : j = i
    · exact .inl (e ▸ hx)
    · exact .inr (h j hj e)
  induction l generalizing o with
  | nil => cases hi
  | cons j l ih =>
    have rest := fun k (hk : k ∈ l) => all k (List.mem_cons_of_mem _ hk)
    rw [List.foldl_cons]
    by_cases e : j = i
    · rw [e, hx, olderCmd_right ho]
      exact foldl_olderCmd_held rest
    · refine ih ?_ (fun k hk => h k (List.mem_cons_of_mem _ hk)) (olderCmd_later ho (h j List.mem_cons_self e)) rest
      exact (List.mem_cons.mp hi).resolve_left fun q => e q.symm

/-- The oldest run of one channel, with the channel's number. -/
def Core.runOf (k : Core) (i : Nat) : Option (Nat × ChCmd) :=
  ((vget k.en.chans (Fin.ofNat 8 i)).cmds.find? fun c => c.runKind.isSome).map fun c => (i, c)

theorem runOf_mem {k : Core} {i : Nat} {y : Nat × ChCmd} (h : k.runOf i = some y) :
    y.2 ∈ (vget k.en.chans (Fin.ofNat 8 i)).cmds ∧ y.2.runKind ≠ none := by
  obtain ⟨c, hc, rfl⟩ := Option.map_eq_some_iff.mp h
  refine ⟨List.mem_of_find?_eq_some hc, ?_⟩
  have := List.find?_some hc
  exact Option.isSome_iff_ne_none.mp this

theorem seqstat_idle {k : Core} (h : ∀ (i : Fin 8), ∀ x ∈ (vget k.en.chans i).cmds, x.runKind = none) : k.seqstat = k.en.seqstat := by
  have no (i : Nat) : k.runOf i = none := by
    cases e : k.runOf i with
    | none => rfl
    | some y => exact absurd (h _ _ (runOf_mem e).1) (runOf_mem e).2
  have none : k.oldestRun = none := by
    change (List.range 8).foldl (fun o i => olderCmd o (k.runOf i)) none = none
    simp only [no]
    rfl
  rw [Core.seqstat, none]

theorem seqstat_oldest {k : Core} {i : Fin 8} {pre post : List ChCmd} {x : ChCmd} {kind : Nat} (hc : (vget k.en.chans i).cmds = pre ++ x :: post)
    (hx : x.runKind = some kind) (hpre : ∀ y ∈ pre, y.runKind = none)
    (hold : ∀ (j : Fin 8), j ≠ i → ∀ y ∈ (vget k.en.chans j).cmds, y.runKind ≠ none → x.order < y.order) :
    k.seqstat = BitVec.ofNat 64 (2 ^ 63 + kind * 2 ^ 56 + x.recSlot * 2 ^ 52 + i.val * 2 ^ 48 + x.prog % 2 ^ 48) := by
  have mine : k.runOf i.val = some (i.val, x) := by
    unfold Core.runOf
    rw [ofNat_val, hc, find?_of_first post (fun y hy => by simp [hpre y hy]) (by simp [hx])]
    rfl
  have later : ∀ j ∈ List.range 8, j ≠ i.val → LaterThan (i.val, x) (k.runOf j) := fun j hj hne y hy => by
    have lt := List.mem_range.mp hj
    have ne : Fin.ofNat 8 j ≠ i := fun e => hne (by rw [← e, Fin.val_ofNat, Nat.mod_eq_of_lt lt])
    exact hold _ ne _ (runOf_mem hy).1 (runOf_mem hy).2
  have oldest : k.oldestRun = some (i.val, x) :=
    foldl_olderCmd (f := k.runOf) (List.mem_range.mpr i.isLt) mine later fun _ h => nomatch h
  rw [Core.seqstat, oldest]
  simp only [ChCmd.seqstat, hx, Bool.toNat_true, Nat.one_mul, Option.getD_some]

/-! The locket (R29). -/

theorem lkstat_eq (k : Core) :
    let held := k.en.mrun.filter fun r => r.cmd.isDrain && r.phase != .done
    k.lkstat = BitVec.ofNat 64 (held.length * 2 ^ 48 + (32 - (held.map fun r => sizeOfR18 (wD r.cmd.fmt)).sum) * 2 ^ 40 +
       k.en.mrun.countP MRun.isOpen * 2 ^ 32 + ((List.finRange 16).map fun i => if k.tileLocked i then 2 ^ (16 + i.val) else 0).sum +
       (match held with | r :: _ => r.cmd.acc.toNat | [] => 0x3F) * 2 ^ 8 + if k.en.mrun.any fun r => r.phase == .assay then 1 else 0) := by
  intro held
  have used : held.foldl (fun n r => n + r.cmd.drainSize / 1024) 0 = (held.map fun r => sizeOfR18 (wD r.cmd.fmt)).sum := by
    rw [foldl_add_eq_sum (fun r : MRun => r.cmd.drainSize / 1024), Nat.zero_add]
    refine congrArg List.sum (List.map_congr_left fun r _ => ?_)
    rw [MCmd.drainSize, Nat.mul_div_cancel_left _ (by decide)]
  have locks : (List.range 16).foldl (fun n i => n + (k.tileLocked (Fin.ofNat 16 i)).toNat * 2 ^ i) 0 * 2 ^ 16 =
      ((List.finRange 16).map fun i => if k.tileLocked i then 2 ^ (16 + i.val) else 0).sum := by
    have r : List.range 16 = (List.finRange 16).map Fin.val := (List.map_coe_finRange_eq_range).symm
    rw [foldl_add_eq_sum (fun i => (k.tileLocked (Fin.ofNat 16 i)).toNat * 2 ^ i), Nat.zero_add, r, List.map_map, ← List.sum_map_mul_right]
    refine congrArg List.sum (List.map_congr_left fun i _ => ?_)
    rw [Function.comp, ofNat_val]
    cases k.tileLocked i
    · simp
    · simp only [Bool.toNat_true, Nat.one_mul, if_true, Nat.pow_add, Nat.mul_comm]
  have assay : (k.en.mrun.any fun r => r.phase == .assay).toNat = if k.en.mrun.any fun r => r.phase == .assay then 1 else 0 := by
    cases k.en.mrun.any fun r => r.phase == .assay <;> rfl
  rw [← used, ← locks, ← assay]
  rfl

/-! Registers of the device. -/

theorem diegov_eq (s : State) (d : Fin 8) : s.diegov d = BitVec.ofNat 64
    (((List.range 96).map fun j => s.contribution (Fin.ofNat 768 (96 * d.val + j))).sum % 2 ^ 16 * 2 ^ 32 +
      (vget s.plat.dies d).waiting.length % 2 ^ 16 * 2 ^ 16 + (vget s.plat.dies d).power.toNat) := by
  have sum := foldl_add_eq_sum (fun j => s.contribution (Fin.ofNat 768 (96 * d.val + j))) (List.range 96) 0
  rw [Nat.zero_add] at sum
  rw [← sum]
  rfl

theorem tableOf_isSome (s : State) (ctx : BitVec 12) : (s.tableOf ctx).isSome = s.lat.tables.any fun t => t.ctx.toNat == ctx.toNat := by
  rw [State.tableOf, List.isSome_find?]
  refine congrArg (List.any s.lat.tables) (funext fun t => ?_)
  rw [Bool.eq_iff_iff, beq_iff_eq, beq_iff_eq, BitVec.toNat_inj]

theorem tableStatus_eq (s : State) (k : Fin 768) : s.devSpecial k 0xA02 = BitVec.ofNat 64
    (s.lat.statEntry.toNat * 256 + s.lat.statDetail.toNat * 16 +
      if s.lat.tables.any fun t => t.ctx.toNat == (s.dev 0xA01).toNat % 4096 then 1 else 0) := by
  have loaded := tableOf_isSome s (BitVec.ofNat 12 (bits (s.dev 0xA01) 0 12))
  have e : (BitVec.ofNat 12 (bits (s.dev 0xA01) 0 12)).toNat = (s.dev 0xA01).toNat % 4096 := by
    rw [BitVec.toNat_ofNat, bits_low]; omega
  rw [e] at loaded
  have value : s.devSpecial k 0xA02 = s.lat.statEntry.setWidth 64 * 256 + s.lat.statDetail.setWidth 64 * 16 +
      BitVec.ofNat 64 (s.tableOf (BitVec.ofNat 12 (bits (s.dev 0xA01) 0 12))).isSome.toNat := rfl
  rw [value, loaded, BitVec.ofNat_add, BitVec.ofNat_add, BitVec.ofNat_mul, BitVec.ofNat_mul, BitVec.ofNat_toNat, BitVec.ofNat_toNat]
  cases s.lat.tables.any fun t => t.ctx.toNat == (s.dev 0xA01).toNat % 4096 <;> rfl

end Sys2Proof.Machine
end

section
/-! Special registers read: O9. -/

namespace Sys2Proof.Machine

/-! `MFS` by what the read answers. -/

theorem execMfs_read {s : State} {d : Reg} {n : BitVec 12} {w : Word} {t : State}
    (h : regFault n.toNat s.cur.clu (s.old.clu s.cur.clu).priv false = none) (hw : s.regWaits n.toNat = false) (hr : s.readReg n.toNat = (w, t)) :
    exec (.mfs d n) s = .next (t.setG d w) := by
  rw [execMfs_allowed h, State.regTo, hw, hr]
  rfl

/-- A read that clears nothing writes the register's value and does nothing else. -/
theorem writesG_of_readReg {s : State} {d : Reg} {n : BitVec 12} (h : regFault n.toNat s.cur.clu (s.old.clu s.cur.clu).priv false = none)
    (hw : s.regWaits n.toNat = false) {m : Nat} {w : Word} (hr : s.readReg m = (w, s)) (hn : n.toNat = m) : WritesG (.mfs d n) s d w :=
  ⟨_, execMfs_read h hw (hn ▸ hr), wroteG_setG s d w⟩

/-- A read that changes the executing core. -/
theorem mfs_changesCore {s : State} {d : Reg} {n : BitVec 12} (h : regFault n.toNat s.cur.clu (s.old.clu s.cur.clu).priv false = none)
    (hw : s.regWaits n.toNat = false) {c : Core} (hc : c.cl = s.me.cl) {m : Nat} {w : Word} (hr : s.readReg m = (w, s.setCore s.cur.core c))
    (hn : n.toNat = m) : ∃ t, exec (.mfs d n) s = .next t ∧ onlyG s t d w ∧ sameMemory s t ∧ sameOutside s t ∧ t.report = s.report ∧
      t.me = { c with cl := t.me.cl } := by
  refine ⟨_, execMfs_read h hw (hn ▸ hr), ?_⟩
  rw [State.setG_setCore]
  refine ⟨onlyG_putG hc d w, sameMemory_of_ms rfl, sameOutside_setCore .., rfl, ?_⟩
  rw [State.me_setCore]
  exact Core.putG_frame ..

/-- A read that changes registers of the executing core. -/
theorem mfs_takes {s : State} {d : Reg} {n : BitVec 12} (h : regFault n.toNat s.cur.clu (s.old.clu s.cur.clu).priv false = none)
    (hw : s.regWaits n.toNat = false) {f : CoreRegs → CoreRegs} {m : Nat} {w : Word} (hr : s.readReg m = (w, s.onRg f)) (hn : n.toNat = m) :
    ∃ t, exec (.mfs d n) s = .next t ∧ onlyG s t d w ∧ sameMemory s t ∧ sameOutside s t ∧ t.report = s.report ∧
      t.me = { s.me with cl := t.me.cl, rg := f s.me.rg } :=
  mfs_changesCore (c := { s.me with rg := f s.me.rg }) h hw rfl hr hn

/-- A read that changes the platform. -/
theorem mfs_takesDevice {s : State} {d : Reg} {n : BitVec 12} (h : regFault n.toNat s.cur.clu (s.old.clu s.cur.clu).priv false = none)
    (hw : s.regWaits n.toNat = false) {p : Platform} {m : Nat} {w : Word} (hr : s.readReg m = (w, { s with plat := p })) (hn : n.toNat = m) :
    ∃ t, exec (.mfs d n) s = .next t ∧ onlyG s t d w ∧ t = { s with cores := t.cores, plat := p } ∧ t.me = { s.me with cl := t.me.cl } ∧
      ∀ j, j ≠ s.cur.core → t.core j = s.core j := by
  refine ⟨_, execMfs_read h hw (hn ▸ hr), ?_⟩
  rw [State.setG_eq]
  refine ⟨onlyG_putG (s := { s with plat := p }) rfl d w, rfl, ?_, fun j hj => ?_⟩
  · rw [State.me_setCore]
    exact Core.putG_frame ..
  · exact State.setCore_core_ne _ _ hj

/-! Reads that clear, and what they read. -/

theorem report_of_ite {p : Prop} [Decidable p] {a b : Word × State} {r : Report} (ha : a.2.report = r) (hb : b.2.report = r) :
    (if p then a else b).2.report = r := by
  split
  · exact ha
  · exact hb

/-- No read reports anything. -/
theorem readReg_report (s : State) (n : Nat) : (s.readReg n).2.report = s.report := by
  unfold State.readReg
  iterate 12 refine report_of_ite rfl ?_
  cases s.cl.special n with
  | some x => rfl
  | none => cases s.me.special n <;> rfl

theorem setG_report (s : State) (d : Reg) (w : Word) : (s.setG d w).report = s.report := by
  rw [State.setG_eq]; rfl

theorem mfs_completes {s : State} {d : Reg} {n : BitVec 12} (h : regFault n.toNat s.cur.clu (s.old.clu s.cur.clu).priv false = none)
    (hw : s.regWaits n.toNat = false) : ∃ t, exec (.mfs d n) s = .next t ∧ t.report = s.report :=
  ⟨_, execMfs_read h hw (Prod.eta _).symm, by rw [setG_report, readReg_report]⟩

theorem readReg_dpstat (s : State) :
    s.readReg 0x850 = (s.me.rg.dpstat, s.onRg fun r => { r with dpstat := BitVec.ofNat 64 (s.me.rg.dpstat.toNat % 2 ^ 63) }) := by
  have cleared : s.me.rg.dpstat &&& 0x7FFF_FFFF_FFFF_FFFF = BitVec.ofNat 64 (s.me.rg.dpstat.toNat % 2 ^ 63) := by
    apply BitVec.eq_of_toNat_eq
    rw [BitVec.toNat_and, BitVec.toNat_ofNat, show (0x7FFF_FFFF_FFFF_FFFF : Word).toNat = 2 ^ 63 - 1 from rfl, Nat.and_two_pow_sub_one_eq_mod]
    omega
  have r : s.readReg 0x850 = (s.me.rg.dpstat, s.onRg fun r => { r with dpstat := s.me.rg.dpstat &&& 0x7FFF_FFFF_FFFF_FFFF }) := rfl
  rw [r, cleared]

/-- The core after a read of STAMPC. -/
def Core.stampRead (k : Core) : Core := { k with st := { k.st with stampc := k.st.stampc &&& 1 } }

theorem readReg_stampc (s : State) : s.readReg 0x012 = (s.me.st.stampc, s.setCore s.cur.core s.me.stampRead) := rfl

/-- The read of STAMPC keeps LATE and clears LCOUNT (R31). -/
theorem mfs_stampc {s : State} {d : Reg} {n : BitVec 12} (h : regFault n.toNat s.cur.clu (s.old.clu s.cur.clu).priv false = none)
    (hw : s.regWaits n.toNat = false) (hn : n.toNat = 0x012) :
    ∃ t, exec (.mfs d n) s = .next t ∧ onlyG s t d s.me.st.stampc ∧ sameMemory s t ∧ sameOutside s t ∧
      t.me.st = { s.me.st with stampc := t.me.st.stampc } ∧ t.me.st.stampc.toNat = s.me.st.stampc.toNat % 2 := by
  obtain ⟨t, ht, hg, hm, ho, -, hme⟩ := mfs_changesCore (d := d) (c := s.me.stampRead) h hw rfl (readReg_stampc s) hn
  refine ⟨t, ht, hg, hm, ho, ?_, ?_⟩
  · rw [hme]
    rfl
  · rw [hme]
    exact (BitVec.toNat_and ..).trans (Nat.and_one_is_mod _)

/-- A register of the task, as its launch gave it. -/
theorem taskWord_of_task {k : Core} {t : Task} (h : k.task = some t) (f : Task → Nat) : k.taskWord f = BitVec.ofNat 64 (f t) := by
  rw [Core.taskWord, h]

/-- The frequency of an island's level (R382). -/
theorem stateFreq_eq (z : BitVec 3) :
    stateFreq z.toNat = if z = 0 then 2700 else if z = 1 then 2300 else if z = 2 then 1800 else if z = 3 then 1200 else 0 := by
  revert z
  decide

theorem celocWord_none {x : Die} {i : Nat} (h : alGet x.celoc i = none) : x.celocWord i = 0 := by
  rw [Die.celocWord, h]

theorem celocWord_some {x : Die} {i : Nat} {u : BitVec 2} {l : BitVec 56} {h : History} (e : alGet x.celoc i = some (u, l, h)) :
    x.celocWord i = BitVec.ofNat 64 (2 ^ 63 + h.lasting.toNat * 2 ^ 62 + h.inwin * 2 ^ 58 + u.toNat * 2 ^ 56 + l.toNat) := by
  rw [Die.celocWord, e]

/-- Settles O9: layer by layer, the read of each number gives its register's value, and `MFS` writes that value. -/
theorem readingASpecialRegisterWritesItsValue : Obligations.ReadingASpecialRegisterWritesItsValue := by
  intro s d n hf hw num reads c k die takes takesDev history
  have rd {m : Nat} {x : Word} (h : s.readReg m = (x, s)) : reads m x := writesG_of_readReg hf hw h
  have tk {m : Nat} {x : Word} {f : CoreRegs → CoreRegs} (h : s.readReg m = (x, s.onRg f)) : takes m x f := mfs_takes hf hw h
  have tkDev {m : Nat} {x : Word} {f : Platform → Platform} (h : s.readReg m = (x, { s with plat := f s.plat })) : takesDev m x f :=
    mfs_takesDevice hf hw h
  have stored {m : Nat} (h : ¬ composedReg m) (hd : ¬ composedDev m) (hm : 0x8C8 ≤ m) : reads m (s.dev m) := rd (readReg_stored s h hd hm)
  refine ⟨mfs_completes hf hw, rd rfl, rd rfl, fun t ht => ?_, rd rfl, rd rfl, rd rfl, rd rfl, rd rfl, fun i => rd (readReg_shapes s i),
    rd rfl, rd rfl, rd rfl, fun i => ?_, rd rfl, rd rfl, rd rfl, rd rfl, rd rfl, rd rfl, rd rfl, rd rfl, mfs_stampc hf hw, fun hn => ?_,
    rd rfl, ?_, fun i => ?_, fun idle => ?_, fun i pre x post kind hc hx hpre hold => ?_, rd rfl, rd rfl, rd rfl, rd rfl, rd rfl, fun i => ?_,
    tk (readReg_dpstat s), tk (f := fun r => { r with ecpri := r.ecpri.taken }) rfl,
    tk (f := fun r => { r with ecshd := r.ecshd.taken }) rfl, tk (f := fun r => { r with ecxfr := r.ecxfr.taken }) rfl, ?_, ?_,
    fun i => ⟨fun hi => ⟨?_, ?_⟩, fun hi => ?_, fun hi => ?_, fun hi => ?_, fun hi h4 => ?_⟩,
    fun q => rd (readReg_queueConfig s q), rd ?_, rd rfl, fun i hi => ?_, rd rfl, rd rfl, fun i => ?_, fun i => ?_, rd rfl, rd rfl,
    tkDev (f := fun p => { p with evLost := 0 }) rfl,
    fun i => ?_, rd rfl, rd rfl⟩
  · refine ⟨rd ?_, rd ?_, rd ?_, rd ?_, rd ?_, rd ?_⟩ <;> refine readReg_core (by unfold composedReg; omega) rfl ?_
    · exact congrArg some (taskWord_of_task ht fun t => t.lid.toNat * 2 ^ 48 + t.ordinal % 2 ^ 48)
    · exact congrArg some ((taskWord_of_task ht fun t => t.flags.toNat).trans (BitVec.ofNat_toNat ..))
    · exact congrArg some (taskWord_of_task ht Task.footW)
    · exact congrArg some (taskWord_of_task ht Task.footA)
    · exact congrArg some (taskWord_of_task ht Task.footC)
    · exact congrArg some (taskWord_of_task ht Task.footS)
  · obtain ⟨lps, lpe, lpc, hkeep⟩ := readReg_loops s i
    exact ⟨rd lps, rd lpe, rd lpc, rd hkeep⟩
  · obtain ⟨small, digits⟩ := tqcnt_digits s.me.st
    have value : (BitVec.ofNat 64 s.me.st.tqcnt).toNat = s.me.st.tqcnt := by rw [BitVec.toNat_ofNat]; omega
    refine ⟨BitVec.ofNat 64 s.me.st.tqcnt, writesG_of_readReg hf hw rfl hn, ?_⟩
    rw [value]
    exact ⟨small, digits⟩
  · exact rd (readReg_core (by unfold composedReg; omega) rfl (congrArg some (lkstat_eq s.me)))
  · obtain ⟨wm, pgnow, pgnxt, pgdst⟩ := readReg_channels s i
    obtain ⟨ahm, -, -⟩ := readReg_counters s i
    refine ⟨rd pgnow, rd pgnxt, rd pgdst, rd ahm, fun idle => rd (wm.trans ?_), fun pre x post hc hpre => ⟨fun b lo len hr => ?_, fun hr hs => ?_⟩⟩
    · rw [watermark_idle idle]
    · exact rd (wm.trans (by rw [(watermark_oldest hc hpre).1 b lo len hr]))
    · exact rd (wm.trans (by rw [(watermark_oldest hc hpre).2 hr hs]))
  · exact rd (readReg_core (by unfold composedReg; omega) rfl (congrArg some (seqstat_idle idle)))
  · exact rd (readReg_core (by unfold composedReg; omega) rfl (congrArg some (seqstat_oldest hc hx hpre hold)))
  · obtain ⟨-, pmc, pmsel⟩ := readReg_counters s i
    exact ⟨rd pmc, rd pmsel⟩
  · simp only [List.forall_mem_cons, List.not_mem_nil, false_imp_iff, implies_true, and_true]
    exact ⟨rd rfl, rd rfl, rd rfl, rd rfl, rd rfl, rd rfl, rd rfl⟩
  · simp only [List.forall_mem_cons, List.not_mem_nil, false_imp_iff, implies_true, and_true]
    exact ⟨rd rfl, rd rfl, rd rfl, rd rfl, rd rfl, rd rfl, rd rfl, rd rfl, rd rfl, rd rfl, rd rfl, rd rfl, rd rfl, rd rfl, rd rfl, rd rfl,
      rd rfl, rd rfl, rd rfl, rd rfl, rd rfl⟩
  iterate 6
    · refine stored ?_ ?_ (by omega)
      · unfold composedReg; omega
      · simp only [composedDev, List.mem_cons, List.not_mem_nil, or_false]; omega
  · exact readReg_device (by unfold composedReg; omega) (by omega) (tableStatus_eq s _)
  · refine ⟨fun h => rd ?_, fun u l x h => rd ?_⟩
    · rw [readReg_celoc s hi, celocWord_none h]
    · rw [readReg_celoc s hi, celocWord_some h]
  · obtain ⟨status, map, evt⟩ := readReg_link s i
    have plain {j : Nat} (h : j = 0 ∨ j = 4 ∨ j = 5) : reads (0xD00 + 8 * i.val + j) (s.dev (0xD00 + 8 * i.val + j)) := by
      have hi := i.isLt
      refine stored ?_ ?_ (by omega)
      · unfold composedReg; omega
      · simp only [composedDev, List.mem_cons, List.not_mem_nil, or_false]; omega
    exact ⟨plain (.inl rfl), plain (.inr (.inl rfl)), plain (.inr (.inr rfl)), rd status, rd map, rd evt,
      tkDev (f := fun p => { p with links := vset p.links i { vget s.plat.links i with crcerr := 0, replays := 0 } }) (readReg_linkCounts s i)⟩
  · obtain ⟨port, power⟩ := readReg_ports s i
    exact ⟨rd port, rd (power.trans (by rw [diegov_eq]))⟩
  · refine ⟨rd (readReg_islandState s i),
      tkDev (f := fun p => { p with islands := vset p.islands i { vget s.plat.islands i with stretch := 0 } }) ?_⟩
    rw [readReg_clock, Island.clk, stateFreq_eq]
    rfl

end Sys2Proof.Machine
end

section
/-! Special registers written: the writable bits, and the write of each number. -/

namespace Sys2Proof.Machine

/-! Writable bits as arithmetic. -/

theorem and_lowMask (x : Word) (k : Nat) : x &&& BitVec.ofNat 64 (2 ^ k - 1) = BitVec.ofNat 64 (x.toNat % 2 ^ k) := by
  apply BitVec.eq_of_getLsbD_eq
  intro i hi
  simp only [BitVec.getLsbD_and, BitVec.getLsbD_ofNat, Nat.testBit_two_pow_sub_one, Nat.testBit_mod_two_pow, hi, decide_true, Bool.true_and]
  rw [Bool.and_comm]
  rfl

theorem and_not_lowMask (x : Word) (k : Nat) : x &&& ~~~(BitVec.ofNat 64 (2 ^ k - 1)) = BitVec.ofNat 64 (x.toNat / 2 ^ k * 2 ^ k) := by
  apply BitVec.eq_of_getLsbD_eq
  intro i hi
  simp only [BitVec.getLsbD_and, BitVec.getLsbD_not, BitVec.getLsbD_ofNat, Nat.testBit_two_pow_sub_one, Nat.testBit_mul_two_pow,
    Nat.testBit_div_two_pow, hi, decide_true, Bool.true_and]
  by_cases h : k ≤ i
  · rw [decide_eq_true h, decide_eq_false (Nat.not_lt.mpr h), Nat.sub_add_cancel h]
    exact Bool.and_true _
  · rw [decide_eq_false h, decide_eq_true (Nat.lt_of_not_le h)]
    exact Bool.and_false _

/-- The upper bits of one word and lower bits of another. -/
theorem or_split (x y : Word) (k j : Nat) (hj : j ≤ k) :
    (x &&& ~~~(BitVec.ofNat 64 (2 ^ k - 1))) ||| (y &&& BitVec.ofNat 64 (2 ^ j - 1)) =
      BitVec.ofNat 64 (x.toNat / 2 ^ k * 2 ^ k + y.toNat % 2 ^ j) := by
  have small : y.toNat % 2 ^ j < 2 ^ k := Nat.lt_of_lt_of_le (Nat.mod_lt _ (Nat.two_pow_pos j)) (Nat.pow_le_pow_right (by decide) hj)
  rw [and_not_lowMask, and_lowMask, Nat.mul_comm, Nat.two_pow_add_eq_or_of_lt small]
  apply BitVec.eq_of_getLsbD_eq
  intro i hi
  simp only [BitVec.getLsbD_or, BitVec.getLsbD_ofNat, Nat.testBit_or, hi, decide_true, Bool.true_and]

/-- A bit of a word as a digit of its number. -/
theorem bit_iff {x : Word} {i : Nat} : bit x i = true ↔ x.toNat / 2 ^ i % 2 = 1 := by
  rw [bit, BitVec.getLsbD, Nat.testBit_eq_decide_div_mod_eq, decide_eq_true_iff]

/-! The layers of a write. -/

/-- The state after a register is written. -/
def State.putReg (s : State) (n : Nat) (x : Word) : State :=
  match s.cl.putSpecial n x with
  | some c => s.onCl fun _ => c
  | none =>
    match s.me.putSpecial n x with
    | some k => s.onMe fun _ => k
    | none => s.putDevice s.cur.core n x

theorem writeReg_eq (s : State) (n : Nat) (x : Word) : s.writeReg n x = .ok () (s.putReg n x) := by
  unfold State.writeReg State.putReg
  cases s.cl.putSpecial n x with
  | some c => rfl
  | none => cases s.me.putSpecial n x <;> rfl

theorem execMts_written {s : State} {gs : Reg} {n : BitVec 12} (h : regFault n.toNat s.cur.clu (s.old.clu s.cur.clu).priv true = none)
    (hw : s.writeWaits n.toNat (s.g gs) = false) (hn : n.toNat ≠ 0xA00) : exec (.mts n gs) s = .next (s.putReg n.toNat (s.g gs)) := by
  rw [execMts_allowed h, State.regFrom, hw, if_neg hn, writeReg_eq]
  rfl

theorem putReg_cluster {s : State} {n : Nat} {x : Word} {c : Cluster} (h : s.cl.putSpecial n x = some c) : s.putReg n x = s.onCl fun _ => c := by
  rw [State.putReg, h]

theorem putReg_core {s : State} {n : Nat} {x : Word} {k : Core} (hc : s.cl.putSpecial n x = none) (h : s.me.putSpecial n x = some k) :
    s.putReg n x = s.setCore s.cur.core k := by
  rw [State.putReg, hc, h]
  rfl

theorem Cluster.putSpecial_none (c : Cluster) (x : Word) {n : Nat} (h : 0x811 ≤ n) : c.putSpecial n x = none := by
  simp (disch := omega) only [Cluster.putSpecial, within_out, ↓if_neg, ↓reduceIte, Bool.false_eq_true]

theorem Core.putSpecial_none (k : Core) (x : Word) {n : Nat} (h : 0x8C8 ≤ n) : k.putSpecial n x = none := by
  simp (disch := omega) only [Core.putSpecial, within_out, ↓if_neg, ↓reduceIte, Bool.false_eq_true]

theorem putReg_device {s : State} {n : Nat} {x : Word} (h : 0x8C8 ≤ n) : s.putReg n x = s.putDevice s.cur.core n x := by
  rw [State.putReg, Cluster.putSpecial_none _ _ (by omega), Core.putSpecial_none _ _ h]

/-! Arrays of registers. -/

theorem putReg_loops (s : State) (i : Fin 4) (x : Word) :
    s.putReg (0x0C0 + i.val) x = (s.onCl fun _ => { s.cl with lps := vset s.cl.lps i x }) ∧
    s.putReg (0x0C4 + i.val) x = (s.onCl fun _ => { s.cl with lpe := vset s.cl.lpe i x }) ∧
    s.putReg (0x0C8 + i.val) x = (s.onCl fun _ => { s.cl with lpc := vset s.cl.lpc i x }) ∧
    s.putReg (0x808 + i.val) x = (s.onCl fun _ => { s.cl with hkeep := vset s.cl.hkeep i x }) := by
  have hi := i.isLt
  refine ⟨?_, ?_, ?_, ?_⟩ <;> refine putReg_cluster ?_ <;>
    simp (disch := omega) only [Cluster.putSpecial, within_in, within_out, ↓if_neg, ↓reduceIte, Bool.false_eq_true, ofNat_base_add]

theorem putReg_channel (s : State) (i : Fin 8) (x : Word) :
    s.putReg (0x0A0 + i.val) x = s.setCore s.cur.core (s.me.onChan i fun c => { c with pgdst := x &&& 0xFFC0 }) ∧
    s.putReg (0x8C0 + i.val) x = s.setCore s.cur.core { s.me with rg := { s.me.rg with pmsel := vset s.me.rg.pmsel i (x &&& 0xFFF) } } := by
  have hi := i.isLt
  refine ⟨?_, ?_⟩ <;> refine putReg_core ?_ ?_ <;>
    simp (disch := omega) only [Cluster.putSpecial, Core.putSpecial, within_in, within_out, ↓if_neg, ↓reduceIte, Bool.false_eq_true,
      ofNat_base_add]

theorem putReg_queue (s : State) (x : Word) :
    (∀ q : Fin 32, s.putReg (0x900 + 4 * q.val) x = s.writeLqcfg q.val x) ∧
    ∀ q, q < 128 → q % 4 ≠ 0 → s.putReg (0x900 + q) x = s.setDev (0x900 + q) x := by
  refine ⟨fun q => ?_, fun q hq h4 => ?_⟩
  · have hq := q.isLt
    have e : (0x900 + 4 * q.val - 0x900) / 4 = q.val := by omega
    rw [putReg_device (by omega)]
    simp (disch := omega) only [State.putDevice, within_in, within_out, ↓if_neg, ↓if_pos, ↓reduceIte, Bool.false_eq_true, e]
  · rw [putReg_device (by omega)]
    simp (disch := omega) only [State.putDevice, within_in, within_out, ↓if_neg, ↓reduceIte, Bool.false_eq_true]

theorem putReg_schedule (s : State) (i : Fin 8) (x : Word) : s.putReg (0xA08 + i.val) x = s.writeSchedule i x := by
  have hi := i.isLt
  rw [putReg_device (by omega)]
  simp (disch := omega) only [State.putDevice, within_in, within_out, ↓if_neg, ↓reduceIte, Bool.false_eq_true, ofNat_base_add]

theorem putReg_fence (s : State) (i : Fin 12) (x : Word) : s.putReg (0xA60 + i.val) x = s.writeCfence i.val x := by
  have hi := i.isLt
  rw [putReg_device (by omega)]
  simp (disch := omega) only [State.putDevice, within_in, within_out, ↓if_neg, ↓reduceIte, Bool.false_eq_true, Nat.add_sub_cancel_left]

theorem putReg_celoc (s : State) {i : Nat} (h : i < 64) (x : Word) : s.putReg (0xB00 + i) x = s.writeCeloc (dieOf s.cur.core) i x := by
  rw [putReg_device (by omega)]
  simp (disch := omega) only [State.putDevice, within_in, within_out, ↓if_neg, ↓reduceIte, Bool.false_eq_true, Nat.add_sub_cancel_left]

theorem putReg_slot (s : State) (i : Fin 64) (x : Word) : s.putReg (0xC00 + i.val) x = s.writeCtxs i.val x := by
  have hi := i.isLt
  rw [putReg_device (by omega)]
  simp (disch := omega) only [State.putDevice, within_in, within_out, ↓if_neg, ↓reduceIte, Bool.false_eq_true, Nat.add_sub_cancel_left]

theorem putReg_link (s : State) (l : Fin 14) (x : Word) :
    s.putReg (0xD00 + 8 * l.val) x = s.writeLkctl l x ∧ s.putReg (0xD00 + 8 * l.val + 3) x = s ∧
    s.putReg (0xD00 + 8 * l.val + 5) x = s.setDev (0xD00 + 8 * l.val + 5) (windowBits x) ∧
    s.putReg (0xD00 + 8 * l.val + 6) x = s.onLink l fun d => { d with hist := d.hist.wipe x } := by
  have hl := l.isLt
  have base : Fin.ofNat 14 ((0xD00 + 8 * l.val - 0xD00) / 8) = l := linkOf_reg l (j := 0) (by decide)
  refine ⟨?_, ?_, ?_, ?_⟩ <;> rw [putReg_device (by omega)] <;>
    simp (disch := omega) only [State.putDevice, within_in, within_out, ↓if_neg, ↓if_pos, ↓reduceIte, Bool.false_eq_true, linkOf_reg, base]

theorem putReg_window (s : State) {j : Nat} (h : j < 16) (x : Word) : s.putReg (0xE10 + j) x = s.writeHxw (0xE10 + j) x := by
  rw [putReg_device (by omega)]
  simp (disch := omega) only [State.putDevice, within_in, within_out, ↓if_neg, ↓reduceIte, Bool.false_eq_true]

theorem putReg_port (s : State) (i : Fin 8) (x : Word) :
    s.putReg (0xE40 + i.val) x = (if bit x 62 then
      { s with plat := { s.plat with cxl := vset s.plat.cxl i { vget s.plat.cxl i with err := false } } } else s) ∧
    s.putReg (0xF50 + i.val) x = s.writeDiepwr (0xF50 + i.val) x := by
  have hi := i.isLt
  refine ⟨?_, ?_⟩ <;> rw [putReg_device (by omega)] <;>
    simp (disch := omega) only [State.putDevice, within_in, within_out, ↓if_neg, ↓reduceIte, Bool.false_eq_true, ofNat_base_add]

theorem putReg_island (s : State) (i : Fin 76) (x : Word) :
    s.putReg (0xF00 + i.val) x = s.writeIstate i x ∧
    s.putReg (0xE80 + i.val) x = if bit x 43 then s.onIsland i fun d => { d with warn := false } else s := by
  have hi := i.isLt
  refine ⟨?_, ?_⟩ <;> rw [putReg_device (by omega)] <;>
    simp (disch := omega) only [State.putDevice, within_in, within_out, ↓if_neg, ↓reduceIte, Bool.false_eq_true, Nat.add_sub_cancel_left,
      ofNat_val]

end Sys2Proof.Machine
end

section
/-! What the device does by itself leaves in the cores and in the report: status words, ended launches, notices, traps. -/

namespace Sys2Proof.Machine

/-! Tasks kept: at most their end is begun, and cached lines and page registers are lost. -/

/-- The core's task is as it was, but that it may be ending, and that L1 lines and page registers may be lost. -/
def KeptCore (c d : Core) : Prop :=
  d = { c with term := d.term, en := d.en } ∧ d.en = { c.en with l1 := d.en.l1, chans := d.en.chans }

theorem KeptCore.refl (c : Core) : KeptCore c c := ⟨rfl, rfl⟩

theorem KeptCore.trans {c d e : Core} (h : KeptCore c d) (k : KeptCore d e) : KeptCore c e := by
  obtain ⟨hd, hen⟩ := h
  obtain ⟨kd, ken⟩ := k
  refine ⟨?_, ?_⟩
  · rw [kd, hd]
  · rw [ken, hen]

theorem KeptCore.terminate (c : Core) (cause : Word) (corrupt killed : Bool) : KeptCore c (c.terminate cause corrupt killed) := by
  unfold Core.terminate
  split <;> exact ⟨rfl, rfl⟩

theorem KeptCore.ite {p : Prop} [Decidable p] {c d e : Core} (h : KeptCore c d) (k : KeptCore c e) : KeptCore c (if p then d else e) := by
  split
  · exact h
  · exact k

/-- Every core keeps its task, and neither the report nor the cadence changes. -/
def KeepsTasks (s t : State) : Prop := t.report = s.report ∧ t.cadence = s.cadence ∧ ∀ k, KeptCore (s.core k) (t.core k)

theorem core_vmap (s : State) (f : Core → Core) (t : State) (h : t.cores = vmap f s.cores) (k : Fin 768) : t.core k = f (s.core k) := by
  simp [State.core, h, vmap, vget]

namespace KeepsTasks

theorem refl (s : State) : KeepsTasks s s := ⟨rfl, rfl, fun _ => .refl _⟩

theorem trans {s t u : State} (h : KeepsTasks s t) (k : KeepsTasks t u) : KeepsTasks s u := by
  obtain ⟨hr, hc, hk⟩ := h
  obtain ⟨kr, kc, kk⟩ := k
  exact ⟨kr.trans hr, kc.trans hc, fun i => (hk i).trans (kk i)⟩

theorem of_cores {s t : State} (hr : t.report = s.report) (hc : t.cadence = s.cadence) (hk : t.cores = s.cores) : KeepsTasks s t :=
  ⟨hr, hc, fun k => by rw [show t.core k = s.core k by rw [State.core, hk]; rfl]; exact .refl _⟩

theorem of_vmap {s t : State} {f : Core → Core} (hr : t.report = s.report) (hc : t.cadence = s.cadence) (hk : t.cores = vmap f s.cores)
    (hf : ∀ c, KeptCore c (f c)) : KeepsTasks s t :=
  ⟨hr, hc, fun k => by rw [core_vmap s f t hk]; exact hf _⟩

theorem ite {p : Prop} [Decidable p] {s t u : State} (h : KeepsTasks s t) (k : KeepsTasks s u) : KeepsTasks s (if p then t else u) := by
  split
  · exact h
  · exact k

theorem foldl {α : Type} {f : State → α → State} (hf : ∀ s a, KeepsTasks s (f s a)) (l : List α) (s : State) : KeepsTasks s (l.foldl f s) := by
  induction l generalizing s with
  | nil => exact refl s
  | cons a l ih => exact (hf s a).trans (ih (f s a))

end KeepsTasks

/-! Status words in memory. -/

theorem KeptCore.shot (c : Core) (slot scope tid first count : Nat) : KeptCore c (c.shot slot scope tid first count) := ⟨rfl, rfl⟩

theorem State.shootdown_keeps (s : State) (slot scope tid first count : Nat) : KeepsTasks s (s.shootdown slot scope tid first count) :=
  .of_vmap rfl rfl rfl fun c => .shot c slot scope tid first count

theorem State.revived_keeps (s : State) (p : Phys) : KeepsTasks s (s.revived p) :=
  .ite ((KeepsTasks.of_cores (t := { s with ms := s.ms.revive p }) rfl rfl rfl).trans (State.shootdown_keeps _ _ _ _ _ _)) (.refl s)

theorem State.homePutLine_keeps (s : State) (p : Phys) (mask : Word) (data : Line) : KeepsTasks s (s.homePutLine p mask data) :=
  (State.revived_keeps s p).trans (.of_cores rfl rfl rfl)

theorem State.writePieces_keepsTasks (slot : Nat) (base : Word) (ps : List (Nat × Nat × Nat)) (s t : State) (bs : List Byte)
    (h : State.writePieces slot base s bs ps = some t) : KeepsTasks s t := by
  induction ps generalizing s bs with
  | nil => cases h; exact .refl _
  | cons p ps ih =>
    obtain ⟨l, o, n⟩ := p
    unfold State.writePieces at h
    simp only at h
    split at h
    · cases h
    · next p _ => exact (State.homePutLine_keeps s p _ _).trans (ih _ _ h)

theorem State.writeRange_keepsTasks {s t : State} {slot : Nat} {a : Word} {bs : List Byte} (h : s.writeRange slot a bs = some t) :
    KeepsTasks s t := by
  unfold State.writeRange at h
  split at h
  · cases h
  · exact State.writePieces_keepsTasks _ _ _ _ _ _ h

theorem State.onLaunch_keepsTasks (s : State) (lid : BitVec 16) (f : Launch → Launch) : KeepsTasks s (s.onLaunch lid f) := .of_cores rfl rfl rfl

theorem State.writeTaskWord_keepsTasks (s : State) (l : Launch) (slot ord : Nat) (w : Word) : KeepsTasks s (s.writeTaskWord l slot ord w) := by
  unfold State.writeTaskWord
  split
  · split
    · next h => exact State.writeRange_keepsTasks h
    · exact State.onLaunch_keepsTasks s _ _
  · exact .refl s

/-! Launches ended (R255, R357). -/

theorem State.dropSaved_keepsTasks (s : State) (cause : Word) (v : Saved) : KeepsTasks s (s.dropSaved cause v) := by
  have freed : KeepsTasks s { s with sch := { s.sch with saved := s.sch.saved.filter fun u => u.slotN != v.slotN } } := .of_cores rfl rfl rfl
  unfold State.dropSaved
  simp only
  split
  · exact freed.trans (.ite (.refl _) ((State.writeTaskWord_keepsTasks _ _ _ _ _).trans (State.onLaunch_keepsTasks _ _ _)))
  · exact freed

theorem State.stopTasks_keepsTasks (s : State) (lid : BitVec 16) (cause : Word) : KeepsTasks s (s.stopTasks lid cause) := by
  have ended : KeepsTasks s { s with cores := vmap (fun (k : Core) => if k.runs lid then k.terminate cause false true else k) s.cores } :=
    .of_vmap rfl rfl rfl fun c => .ite (.terminate c _ _ _) (.refl c)
  exact ended.trans (.foldl (fun t v => State.dropSaved_keepsTasks t cause v) _ _)

theorem State.endLaunch_keepsTasks (s : State) (lid : BitVec 16) (code : Nat) : KeepsTasks s (s.endLaunch lid code) := by
  have drawn : KeepsTasks s s.draw.2 := .of_cores rfl rfl rfl
  unfold State.endLaunch
  split
  · exact .ite (.refl s) (drawn.trans ((State.stopTasks_keepsTasks _ _ _).trans (State.onLaunch_keepsTasks _ _ _)))
  · exact .refl s

theorem State.capCheck_keepsTasks (s : State) : KeepsTasks s s.capCheck :=
  .foldl (f := fun t l => if t.capLost l then t.endLaunch l.lid 5 else t) (fun t _ => .ite (State.endLaunch_keepsTasks t _ _) (.refl t)) _ _

/-! Reports kept by notices, traps and the writes that act. -/

/-- The pending report is as before. -/
def KeepsReport (s t : State) : Prop := t.report = s.report

namespace KeepsReport

theorem ite {p : Prop} [Decidable p] {s t u : State} (h : KeepsReport s t) (k : KeepsReport s u) : KeepsReport s (if p then t else u) := by
  split
  · exact h
  · exact k

theorem foldl {α : Type} {f : State → α → State} (hf : ∀ s a, KeepsReport s (f s a)) (l : List α) (s : State) : KeepsReport s (l.foldl f s) := by
  induction l generalizing s with
  | nil => rfl
  | cons a l ih => exact Eq.trans (ih (f s a)) (hf s a)

end KeepsReport

theorem State.wakeClu_report (s : State) (k : Nat) (x : Clu) : KeepsReport s (s.wakeClu k x) := by
  unfold State.wakeClu
  split <;> rfl

theorem State.notice_report (s : State) (code kind src detail loc : Nat) : KeepsReport s (s.notice code kind src detail loc) := by
  unfold State.notice
  simp only
  split
  · rfl
  · split
    · rfl
    · next t h =>
      have kept := (State.writeRange_keepsTasks h).1
      split
      · exact (State.wakeClu_report _ _ _).trans kept
      · exact kept

theorem State.retireGroup_report (s : State) (l : Fin 14) (d : Fin 2) (g : Nat) : KeepsReport s (s.retireGroup l d g) :=
  .ite rfl (State.notice_report _ _ _ _ _ _)

theorem State.applyLkctl_report (s : State) (l : Fin 14) (v : Word) : KeepsReport s (s.applyLkctl l v) := by
  unfold State.applyLkctl
  simp only
  have rate (t : State) (p : Bool) : KeepsReport t (if p then t.onLink l fun x => { x with stop := true, rateStop := true } else t) :=
    .ite rfl rfl
  have group (t : State) (d : Fin 2) (n : Nat) : KeepsReport t (if n = 0 then t else t.retireGroup l d (n - 1)) :=
    .ite rfl (State.retireGroup_report _ _ _ _)
  exact (group _ 1 _).trans ((group _ 0 _).trans (rate (s.setDev _ _) _))

theorem State.writeLkctl_report (s : State) (l : Fin 14) (v : Word) : KeepsReport s (s.writeLkctl l v) :=
  .ite rfl (.ite rfl (State.applyLkctl_report s l v))

theorem State.writeIstate_report (s : State) (i : Fin 76) (v : Word) : KeepsReport s (s.writeIstate i v) := by
  have hold (t : State) (ks : List (Fin 768)) : KeepsReport t (ks.foldl State.endHold t) := .foldl (f := State.endHold) (fun _ _ => rfl) ks t
  have off (t : State) (ks : List (Fin 768)) : KeepsReport t (ks.foldl (fun s k => s.setCore k Core.reset) t) :=
    .foldl (f := fun s k => s.setCore k Core.reset) (fun _ _ => rfl) ks t
  refine .ite rfl (((State.capCheck_keepsTasks _).1).trans ?_)
  refine Eq.trans (KeepsReport.ite (off _ _) rfl) ?_
  exact Eq.trans (KeepsReport.ite rfl (hold _ _)) rfl

theorem State.requestSave_report (s : State) (k : Fin 768) (reason : Nat) : KeepsReport s (s.requestSave k reason) := by
  unfold State.requestSave
  simp only
  split
  · rfl
  · exact .ite rfl rfl

theorem State.deliver_report (s : State) (k : Fin 768) (x : Clu) (t : Trap) (tpc : Word) : KeepsReport s (s.deliver k x t tpc) := by
  unfold State.deliver
  simp only
  split
  · rfl
  · split
    · rfl
    · exact State.requestSave_report _ _ _
    · rfl

theorem State.emuDone_report (s : State) (k : Fin 768) (act : Nat) : KeepsReport s (s.emuDone k act) := by
  unfold State.emuDone
  simp only
  split
  · rfl
  · exact .ite rfl (.ite (State.deliver_report _ _ _ _ _) rfl)

theorem State.writeSchedule_report (s : State) (k : Fin 8) (x : Word) : KeepsReport s (s.writeSchedule k x) :=
  .ite rfl (.ite rfl (.ite rfl rfl))

theorem State.writeCfence_report (s : State) (n : Nat) (x : Word) : KeepsReport s (s.writeCfence n x) := by
  unfold State.writeCfence
  generalize List.range 64 = l
  induction l generalizing s with
  | nil => rfl
  | cons i l ih => exact Eq.trans (ih _) (KeepsReport.ite rfl rfl)

theorem State.writeIftctl_report (s : State) (x : Word) : KeepsReport s (s.writeIftctl x) :=
  .ite (p := bit x 63 ∧ _ ∧ _) rfl rfl

theorem State.shootRequest_report (s : State) (x : Word) : KeepsReport s (s.shootRequest x) := .ite rfl rfl

theorem State.writeTresume_report (s : State) (x : Word) : KeepsReport s (s.writeTresume x) := by
  unfold State.writeTresume
  simp only
  split
  · rfl
  · exact .ite (.ite rfl (State.dropSaved_keepsTasks _ _ _).1) rfl

theorem State.writeLctl_report (s : State) (x : Word) : KeepsReport s (s.writeLctl x) :=
  .ite rfl (.ite rfl (.ite (State.endLaunch_keepsTasks _ _ _).1 rfl))

end Sys2Proof.Machine
end

section
/-! Special registers written: writes that a rule has ignored, and writes that act. -/

namespace Sys2Proof.Machine

theorem vset_vget {α : Type} {n : Nat} (v : Vector α n) (i : Fin n) : vset v i (vget v i) = v := by
  simp [vset, vget]

/-- A device register written: it takes the value, and the other registers and the rest of the state stay. -/
theorem setDev_only {s : State} (h : canonicalAbove devReset none s.regs = true) (m : Nat) (v : Word) :
    s.setDev m v = { s with regs := (s.setDev m v).regs } ∧ (s.setDev m v).dev m = v ∧ ∀ j, j ≠ m → (s.setDev m v).dev j = s.dev j := by
  refine ⟨rfl, ?_, fun j hj => ?_⟩
  · rw [State.dev_setDev h, if_pos rfl]
  · rw [State.dev_setDev h, if_neg hj]

/-! Histories, wake latches, stamps. -/

theorem wipe_eq (h : History) (x : Word) : h.wipe x = { h with lasting := h.lasting && !x.getLsbD 63 } := by
  unfold History.wipe bit
  cases x.getLsbD 63 <;> simp

theorem windowBits_eq (x : Word) : windowBits x = BitVec.ofNat 64 (x.toNat % 2 ^ 36) := and_lowMask x 36

/-- The latches of the clusters of a mask set (R347). -/
def Core.woken (k : Core) (x : Word) : Core :=
  { k with cl := Vector.ofFn fun i : Fin 4 => { vget k.cl i with wake := (vget k.cl i).wake || bit x i.val } }

theorem Core.woken_clu (k : Core) (x : Word) (y : Clu) :
    (k.woken x).clu y = if x.getLsbD (cluCode y).val then { k.clu y with wake := true } else k.clu y := by
  have at_ : (k.woken x).clu y = { k.clu y with wake := (k.clu y).wake || x.getLsbD (cluCode y).val } := by
    simp [Core.clu, Core.woken, vget, bit]
  rw [at_]
  cases x.getLsbD (cluCode y).val <;> simp

theorem stampc_written (c x : Word) :
    (c &&& 0xFFFF_FFFF_0000_0000) ||| (x &&& 1) = BitVec.ofNat 64 (c.toNat / 2 ^ 32 * 2 ^ 32 + x.toNat % 2) :=
  or_split c x 32 1 (by decide)

theorem pgdst_written (x : Word) : x &&& 0xFFC0 = BitVec.ofNat 64 (x.toNat % 2 ^ 16 / 64 * 64) := by
  have mask : (0xFFC0 : Word) = BitVec.ofNat 64 (2 ^ 16 - 1) &&& ~~~(BitVec.ofNat 64 (2 ^ 6 - 1)) := by decide
  have small : (BitVec.ofNat 64 (x.toNat % 2 ^ 16)).toNat = x.toNat % 2 ^ 16 := by rw [BitVec.toNat_ofNat]; omega
  rw [mask, ← BitVec.and_assoc, and_lowMask, and_not_lowMask, small]
  rfl

/-! Queue configurations and context slots. -/

theorem writeLqcfg_bad {s : State} {q : Fin 32} {x : Word}
    (h : (s.dev (0x900 + 4 * q.val)).toNat / 2 ^ 32 % 2 ^ 12 ≠ x.toNat / 2 ^ 32 % 2 ^ 12 ∧
      ((s.dev (0x900 + 4 * q.val)).toNat / 2 ^ 7 % 2 = 1 ∨ s.queueCount q ≠ 0)) : s.writeLqcfg q.val x = s := by
  refine if_pos ⟨h.1, ?_⟩
  rw [bit_iff, ofNat_val]
  exact h.2

theorem writeLqcfg_good {s : State} {q : Fin 32} {x : Word}
    (h : ¬ ((s.dev (0x900 + 4 * q.val)).toNat / 2 ^ 32 % 2 ^ 12 ≠ x.toNat / 2 ^ 32 % 2 ^ 12 ∧
      ((s.dev (0x900 + 4 * q.val)).toNat / 2 ^ 7 % 2 = 1 ∨ s.queueCount q ≠ 0))) :
    s.writeLqcfg q.val x = s.setDev (0x900 + 4 * q.val) (x &&& 0xFFF_0000_0080) := by
  refine if_neg fun g => h ⟨g.1, ?_⟩
  have g2 := g.2
  rw [bit_iff, ofNat_val] at g2
  exact g2

theorem ctxsHeld_iff (s : State) (i : Fin 64) : s.ctxsHeld i.val = true ↔
    (∃ (k : Fin 768) (t : Task), (s.core k).task = some t ∧ t.slot = i.val) ∨
      ((s.dev (0xC00 + i.val)).getLsbD 63 = true ∧ ∃ l ∈ s.sch.launches, l.ctx.toNat = (s.dev (0xC00 + i.val)).toNat % 2 ^ 12) := by
  unfold State.ctxsHeld
  rw [Bool.or_eq_true, Bool.and_eq_true, List.any_eq_true, List.any_eq_true]
  refine or_congr ?_ (and_congr Iff.rfl ?_)
  · constructor
    · rintro ⟨c, hc, h⟩
      obtain ⟨j, hj, rfl⟩ := List.mem_iff_getElem.mp hc
      simp only [Vector.length_toList] at hj
      refine ⟨⟨j, hj⟩, ?_⟩
      have e : s.core ⟨j, hj⟩ = s.cores.toList[j] := by simp [State.core, vget]
      rw [e]
      revert h
      cases s.cores.toList[j].task with
      | none => exact fun h => nomatch h
      | some t => exact fun h => ⟨t, rfl, of_decide_eq_true h⟩
    · rintro ⟨k, t, ht, hi⟩
      refine ⟨s.core k, by simp [State.core, vget], ?_⟩
      rw [ht]
      exact decide_eq_true hi
  · simp only [decide_eq_true_iff, bits_low]

/-- The bits of CTXSi that a write takes: CTX of slot 0 is fixed (R358). -/
theorem ctxs_written (i : Fin 64) (x : Word) :
    (if i.val = 0 then (x &&& 0x8000_0FFF_FFFF_FFFF) &&& ~~~0xFFF else x &&& 0x8000_0FFF_FFFF_FFFF) =
      if i = 0 then x &&& 0x8000_0FFF_FFFF_F000 else x &&& 0x8000_0FFF_FFFF_FFFF := by
  have mask : (0x8000_0FFF_FFFF_F000 : Word) = 0x8000_0FFF_FFFF_FFFF &&& ~~~0xFFF := by decide
  rw [mask, ← BitVec.and_assoc]
  by_cases h : i = 0
  · rw [if_pos h, if_pos (by rw [h]; rfl)]
  · rw [if_neg h, if_neg fun e : i.val = 0 => h (Fin.ext e)]

theorem writeCtxs_held {s : State} {i : Fin 64} {x v : Word} (hv : (if i = 0 then x &&& 0x8000_0FFF_FFFF_F000 else x &&& 0x8000_0FFF_FFFF_FFFF) = v)
    (hne : v ≠ s.dev (0xC00 + i.val)) (h : s.ctxsHeld i.val = true) : s.writeCtxs i.val x = s := by
  rw [← hv, ← ctxs_written] at hne
  exact if_pos ⟨hne, h⟩

/-- The energy of a slot's context starts afresh when the slot becomes valid (R399). -/
def State.slotEnergy (s : State) (i : Fin 64) (v : Word) : Vector Word 64 :=
  if v.getLsbD 63 = true ∧ (s.dev (0xC00 + i.val)).getLsbD 63 = false then vset s.plat.enCtx i 0 else s.plat.enCtx

theorem writeCtxs_taken {s : State} {i : Fin 64} {x v : Word} (hv : (if i = 0 then x &&& 0x8000_0FFF_FFFF_F000 else x &&& 0x8000_0FFF_FFFF_FFFF) = v)
    (h : v = s.dev (0xC00 + i.val) ∨ ¬ s.ctxsHeld i.val = true) :
    s.writeCtxs i.val x = { s.setDev (0xC00 + i.val) v with plat := { s.plat with enCtx := s.slotEnergy i v } } := by
  have free : ¬ (v ≠ s.dev (0xC00 + i.val) ∧ s.ctxsHeld i.val = true) := by tauto
  rw [← hv, ← ctxs_written] at free
  have fresh : (decide (i.val < 64) && bit v 63 && !bit (s.dev (0xC00 + i.val)) 63) = true ↔
      v.getLsbD 63 = true ∧ (s.dev (0xC00 + i.val)).getLsbD 63 = false := by
    simp [bit, i.isLt]
  refine (if_neg free).trans ?_
  rw [ctxs_written, hv, State.slotEnergy]
  split
  · next f => rw [if_pos (fresh.mp f), ofNat_val]
  · next f => rw [if_neg fun g => f (fresh.mpr g)]; rfl

/-! Host windows (R386). -/

/-- A window register after the write of another value to one of them. -/
def State.windowReg (s : State) (m : Nat) (v : Word) (a : Nat) : Nat := if a = m then v.toNat else (s.dev a).toNat

theorem windowReg_setDev {s : State} (h : canonicalAbove devReset none s.regs = true) (m : Nat) (v : Word) (a : Nat) :
    ((s.setDev m v).dev a).toNat = s.windowReg m v a := by
  rw [State.dev_setDev h, State.windowReg]
  split <;> rfl

/-- The range of a window, by its two registers. -/
theorem hxwRange_eq (s : State) (w : Nat) :
    s.hxwRange w = if (s.dev (0xE10 + 2 * w)).toNat / 2 ^ 63 = 1 then
      some ((s.dev (0xE10 + 2 * w)).toNat % 2 ^ 52 / 65536 * 65536, (s.dev (0xE11 + 2 * w)).toNat % 2 ^ 24 * 65536) else none := by
  have small := (s.dev (0xE10 + 2 * w)).isLt
  have open_ : bit (s.dev (0xE10 + 2 * w)) 63 = true ↔ (s.dev (0xE10 + 2 * w)).toNat / 2 ^ 63 = 1 := by rw [bit_iff]; omega
  have lo : bits (s.dev (0xE10 + 2 * w)) 16 36 = (s.dev (0xE10 + 2 * w)).toNat % 2 ^ 52 / 65536 := by unfold bits; omega
  unfold State.hxwRange
  simp only [open_, lo, bits_low]

/-- A window is open and overlaps an open one. -/
def State.windowClash (s : State) (w : Nat) : Prop :=
  ∃ lo len, s.hxwRange w = some (lo, len) ∧ ∃ i, i < 8 ∧ i ≠ w ∧ ∃ a m, s.hxwRange i = some (a, m) ∧ a < lo + len ∧ lo < a + m

theorem writeHxw_eq (s : State) (n : Nat) (x : Word) [Decidable (State.windowClash
      (s.setDev n (if n % 2 = 0 then x &&& 0xBF0F_FFFF_FFFF_FFFF else x)) ((n - 0xE10) / 2))] :
    s.writeHxw n x = if (s.setDev n (if n % 2 = 0 then x &&& 0xBF0F_FFFF_FFFF_FFFF else x)).windowClash ((n - 0xE10) / 2) then s
      else s.setDev n (if n % 2 = 0 then x &&& 0xBF0F_FFFF_FFFF_FFFF else x) := by
  have shape : s.writeHxw n x =
      match (s.setDev n (if n % 2 = 0 then x &&& 0xBF0F_FFFF_FFFF_FFFF else x)).hxwRange ((n - 0xE10) / 2) with
      | none => s.setDev n (if n % 2 = 0 then x &&& 0xBF0F_FFFF_FFFF_FFFF else x)
      | some (lo, len) =>
        if (List.range 8).any fun i => i != (n - 0xE10) / 2 &&
            (match (s.setDev n (if n % 2 = 0 then x &&& 0xBF0F_FFFF_FFFF_FFFF else x)).hxwRange i with
            | some (a, m) => overlap a m lo len
            | none => false)
        then s else s.setDev n (if n % 2 = 0 then x &&& 0xBF0F_FFFF_FFFF_FFFF else x) := rfl
  rw [shape]
  generalize s.setDev n (if n % 2 = 0 then x &&& 0xBF0F_FFFF_FFFF_FFFF else x) = t at *
  generalize (n - 0xE10) / 2 = w at *
  cases hw : t.hxwRange w with
  | none =>
    refine (if_neg ?_).symm
    rintro ⟨lo, len, h, -⟩
    rw [hw] at h
    cases h
  | some r =>
    obtain ⟨lo, len⟩ := r
    have clash : ((List.range 8).any fun i => i != w && (match t.hxwRange i with
        | some (a, m) => overlap a m lo len
        | none => false)) = true ↔ t.windowClash w := by
      unfold State.windowClash
      simp only [List.any_eq_true, List.mem_range, Bool.and_eq_true, bne_iff_ne, hw, Option.some.injEq, Prod.mk.injEq]
      constructor
      · rintro ⟨i, hi, hne, h⟩
        refine ⟨lo, len, ⟨rfl, rfl⟩, i, hi, hne, ?_⟩
        cases hr : t.hxwRange i with
        | none => rw [hr] at h; cases h
        | some p =>
          rw [hr] at h
          obtain ⟨a, m⟩ := p
          simp only [overlap, Bool.and_eq_true, decide_eq_true_iff] at h
          exact ⟨a, m, rfl, h⟩
      · rintro ⟨_, _, ⟨rfl, rfl⟩, i, hi, hne, a, m, hr, h⟩
        refine ⟨i, hi, hne, ?_⟩
        rw [hr]
        simpa only [overlap, Bool.and_eq_true, decide_eq_true_iff] using h
    simp only [clash]

end Sys2Proof.Machine
end

section
/-! Special registers written: windows, links, actions, and O10. -/

namespace Sys2Proof.Machine

/-! Host windows, by the numbers of their registers. -/

theorem hxwRange_some_iff {t : State} {r : Nat → Nat} (h : ∀ a, (t.dev a).toNat = r a) (w lo len : Nat) :
    t.hxwRange w = some (lo, len) ↔
      r (0xE10 + 2 * w) / 2 ^ 63 = 1 ∧ r (0xE10 + 2 * w) % 2 ^ 52 / 65536 * 65536 = lo ∧ r (0xE11 + 2 * w) % 2 ^ 24 * 65536 = len := by
  rw [hxwRange_eq, h, h]
  split
  · next o =>
    rw [Option.some.injEq, Prod.mk.injEq]
    exact ⟨fun g => ⟨o, g⟩, And.right⟩
  · next o => exact ⟨fun g => (nomatch g), fun g => absurd g.1 o⟩

theorem windowClash_iff {t : State} {r : Nat → Nat} (h : ∀ a, (t.dev a).toNat = r a) (w : Nat) :
    let open_ (w : Nat) : Prop := r (0xE10 + 2 * w) / 2 ^ 63 = 1
    let lo (w : Nat) : Nat := r (0xE10 + 2 * w) % 2 ^ 52 / 65536 * 65536
    let len (w : Nat) : Nat := r (0xE11 + 2 * w) % 2 ^ 24 * 65536
    t.windowClash w ↔ open_ w ∧ ∃ i, i < 8 ∧ i ≠ w ∧ open_ i ∧ lo i < lo w + len w ∧ lo w < lo i + len i := by
  intro open_ lo len
  unfold State.windowClash
  simp only [hxwRange_some_iff h]
  constructor
  · rintro ⟨_, _, ⟨ho, rfl, rfl⟩, i, hi, hne, _, _, ⟨hoi, rfl, rfl⟩, h1, h2⟩
    exact ⟨ho, i, hi, hne, hoi, h1, h2⟩
  · rintro ⟨ho, i, hi, hne, hoi, h1, h2⟩
    exact ⟨_, _, ⟨ho, rfl, rfl⟩, i, hi, hne, _, _, ⟨hoi, rfl, rfl⟩, h1, h2⟩

/-- The bits of HXWnA and HXWnB that a write takes. -/
def windowValue (j : Nat) (x : Word) : Word := if j % 2 = 0 then x &&& 0xBF0F_FFFF_FFFF_FFFF else x

open Classical in
theorem writeHxw_window (s : State) (j : Nat) (x : Word) : s.writeHxw (0xE10 + j) x =
    if (s.setDev (0xE10 + j) (windowValue j x)).windowClash (j / 2) then s else s.setDev (0xE10 + j) (windowValue j x) := by
  have parity : (0xE10 + j) % 2 = j % 2 := by omega
  have number : (0xE10 + j - 0xE10) / 2 = j / 2 := by omega
  rw [writeHxw_eq, parity, number, ← windowValue]

/-! Bits of a port and of an island that are cleared by ones (R382, R390). -/

/-- ERR of a port after a write. -/
def CxlPort.clearErr (p : CxlPort) (b : Bool) : CxlPort := { p with err := p.err && !b }

theorem putReg_portErr (s : State) (i : Fin 8) (x : Word) : s.putReg (0xE40 + i.val) x =
    { s with plat := { s.plat with cxl := vset s.plat.cxl i ((vget s.plat.cxl i).clearErr (x.getLsbD 62)) } } := by
  have kept (p : CxlPort) : p.clearErr false = p := by simp [CxlPort.clearErr]
  have cleared (p : CxlPort) : p.clearErr true = { p with err := false } := by simp [CxlPort.clearErr]
  rw [(putReg_port s i x).1, bit]
  cases x.getLsbD 62
  · rw [kept, vset_vget]; rfl
  · rw [cleared]; rfl

/-- WARN of an island after a write. -/
def Island.clearWarn (z : Island) (b : Bool) : Island := { z with warn := z.warn && !b }

theorem putReg_islandWarn (s : State) (i : Fin 76) (x : Word) : s.putReg (0xE80 + i.val) x =
    { s with plat := { s.plat with islands := vset s.plat.islands i ((vget s.plat.islands i).clearWarn (x.getLsbD 43)) } } := by
  have kept (z : Island) : z.clearWarn false = z := by simp [Island.clearWarn]
  have cleared (z : Island) : z.clearWarn true = { z with warn := false } := by simp [Island.clearWarn]
  rw [(putReg_island s i x).2, bit]
  cases x.getLsbD 43
  · rw [kept, vset_vget]; rfl
  · rw [cleared]; rfl

theorem alDel_eq {α : Type} (l : List (Nat × α)) (i : Nat) : alDel l i = l.filter fun e => e.1 ≠ i :=
  List.filter_congr fun e _ => by rw [Bool.eq_iff_iff, bne_iff_ne, decide_eq_true_iff]

/-! Links (R371). -/

/-- What R371 makes of a value that LKCTL may not take. -/
def lkctlBad (x : Word) : Prop :=
  (x.toNat / 2 ^ 24 % 16 ≠ 0 ∧ x.getLsbD 31 = false) ∨ 4 < x.toNat / 2 ^ 24 % 16 ∨ 32 < x.toNat / 2 ^ 16 % 64 ∨ 32 < x.toNat / 2 ^ 8 % 64 ∨
    32 < x.toNat % 64

theorem lkctlBad_iff (x : Word) : lkctlBad x ↔
    (bits x 24 4 ≠ 0 ∧ (!bit x 31) = true) ∨ 4 < bits x 24 4 ∨ 32 < bits x 16 6 ∨ 32 < bits x 8 6 ∨ 32 < bits x 0 6 := by
  rw [Bool.not_eq_true', bits_low]
  rfl

theorem writeLkctl_bad {s : State} {l : Fin 14} {x : Word} (h : lkctlBad x) : s.writeLkctl l x = s := if_pos ((lkctlBad_iff x).mp h)

theorem writeLkctl_stopped {s : State} {l : Fin 14} {x : Word} (h : ¬ lkctlBad x) (hs : (vget s.plat.links l).stop = true) :
    s.writeLkctl l x = s.onLink l fun y => { y with pending := y.pending ++ [x] } :=
  (if_neg fun g => h ((lkctlBad_iff x).mpr g)).trans (if_pos hs)

/-- A write that changes neither the rate nor the groups only sets the register. -/
theorem writeLkctl_same {s : State} {l : Fin 14} {x : Word} (h : ¬ lkctlBad x) (hs : (vget s.plat.links l).stop = false)
    (rate : x.toNat / 2 ^ 24 % 16 = (s.dev (0xD00 + 8 * l.val)).toNat / 2 ^ 24 % 16) (g0 : x.toNat / 2 ^ 8 % 64 = 0) (g1 : x.toNat % 64 = 0) :
    s.writeLkctl l x = s.setDev (0xD00 + 8 * l.val) (x &&& 0x8F3F_0000) := by
  have r : decide (bits x 24 4 ≠ bits (s.dev (0xD00 + 8 * l.val)) 24 4) = false := decide_eq_false fun g => g rate
  have a : bits x 8 6 = 0 := g0
  have b : bits x 0 6 = 0 := (bits_low x 6).trans g1
  refine (if_neg fun g => h ((lkctlBad_iff x).mpr g)).trans ((if_neg (by rw [hs]; exact Bool.false_ne_true)).trans ?_)
  simp only [State.applyLkctl, r, a, b, Bool.false_eq_true, if_false, if_true]

/-! Actions: the event row of an action, and the write that takes it. -/

theorem event_some (s t : State) : s.event (some t) = .next { t with report := .issued } := rfl

theorem emuDone_idle (s : State) (k : Fin 768) {act : Nat} (h1 : act ≠ 1) (h2 : act ≠ 2) : s.emuDone k act = s := by
  unfold State.emuDone
  simp only [h1, h2, if_false]
  split <;> rfl

theorem execLkctl_rows {s : State} {l : Fin 14} {x : Word} :
    (x.toNat / 2 ^ 24 % 16 ≠ (s.dev (0xD00 + 8 * l.val)).toNat / 2 ^ 24 % 16 →
      exec (.lkctlRateChange l x) s = .next { s.writeLkctl l x with report := .issued }) ∧
    (x.toNat / 2 ^ 8 % 64 ≠ 0 → exec (.lkctlRetire l x) s = .next { s.writeLkctl l x with report := .issued }) ∧
    (x.toNat % 64 ≠ 0 → exec (.lkctlRetire1 l x) s = .next { s.writeLkctl l x with report := .issued }) :=
  ⟨fun h => if_neg h, fun h => if_neg h, fun h => if_neg (by rw [bits_low]; exact h)⟩

theorem shootEvent_taken {s : State} {x : Word} {scope : Nat} (h : x.toNat / 2 ^ 56 % 4 = scope) (hw : s.shootWaits x = false) :
    s.shootEvent scope x = .next { s.shootRequest x with report := .issued } :=
  if_pos ⟨h, by rw [hw]; rfl⟩

/-- The slot or launch of a request word whose upper bits are those of m. -/
theorem bits_request (id : BitVec 16) (m : Word) (hm : m.toNat % 2 ^ 16 = 0) :
    bits (zext id ||| m) 0 16 = id.toNat ∧ bit (zext id ||| m) 63 = bit m 63 ∧ bits (zext id ||| m) 61 2 = bits m 61 2 := by
  have small := id.isLt
  have value : (zext id).toNat = id.toNat := by rw [zext, BitVec.toNat_setWidth]; omega
  refine ⟨?_, ?_, ?_⟩
  · rw [bits_low, BitVec.toNat_or, value, Nat.or_mod_two_pow, hm, Nat.or_zero, Nat.mod_eq_of_lt small]
  · have top : (zext id).getLsbD 63 = false := by rw [zext, BitVec.getLsbD_setWidth, BitVec.getLsbD_of_ge id 63 (by decide)]; rfl
    rw [bit, BitVec.getLsbD_or, top, Bool.false_or, bit]
  · rw [bits, BitVec.toNat_or, value, Nat.or_div_two_pow, Nat.div_eq_of_lt (by omega), Nat.zero_or, bits]

theorem writeTresume_congr (s : State) {x y : Word} (h : bits x 0 16 = bits y 0 16) (hb : bit x 63 = bit y 63) :
    s.writeTresume x = s.writeTresume y := by
  unfold State.writeTresume
  rw [h, hb]

theorem writeLctl_congr (s : State) {x y : Word} (h : bits x 0 16 = bits y 0 16) (hb : bit x 63 = bit y 63) (ha : bits x 61 2 = bits y 61 2) :
    s.writeLctl x = s.writeLctl y := by
  unfold State.writeLctl
  rw [h, hb, ha]

theorem request_id (x : Word) : bits x 0 16 = (x.setWidth 16).toNat := by
  rw [bits_low, BitVec.toNat_setWidth]

/-- TRESUME written places or kills a task as the two event rows do (R357). -/
theorem tresume_rows (s : State) (x : Word) :
    (x.getLsbD 63 = false → exec (.tresumePlace (x.setWidth 16)) s = .next { s.writeTresume x with report := .issued }) ∧
    (x.getLsbD 63 = true → exec (.tresumeKill (x.setWidth 16)) s = .next { s.writeTresume x with report := .issued }) := by
  refine ⟨fun h => ?_, fun h => ?_⟩
  · obtain ⟨lo, hi, -⟩ := bits_request (x.setWidth 16) 0#64 rfl
    rw [BitVec.or_zero] at lo hi
    rw [writeTresume_congr s ((request_id x).trans lo.symm) (h.trans hi.symm)]
    rfl
  · obtain ⟨lo, hi, -⟩ := bits_request (x.setWidth 16) 0x8000_0000_0000_0000 rfl
    rw [writeTresume_congr s ((request_id x).trans lo.symm) (h.trans hi.symm)]
    rfl

/-- The action field of LCTL, with its request bit. -/
theorem lctl_action (x : Word) : x.toNat / 2 ^ 61 = (if bit x 63 then 4 else 0) + bits x 61 2 := by
  have small := x.isLt
  have top := bit_iff (x := x) (i := 63)
  unfold bits
  split <;> next h => rw [top] at h; omega

/-- LCTL written saves or kills a launch as the two event rows do (R357). -/
theorem lctl_rows (s : State) (x : Word) :
    (x.toNat / 2 ^ 61 = 4 → exec (.lctlSave (x.setWidth 16)) s = .next { s.writeLctl x with report := .issued }) ∧
    (x.toNat / 2 ^ 61 = 5 → exec (.lctlKill (x.setWidth 16)) s = .next { s.writeLctl x with report := .issued }) := by
  have action := lctl_action x
  have field : bits x 61 2 < 4 := Nat.mod_lt _ (by decide)
  refine ⟨fun h => ?_, fun h => ?_⟩
  · have top : bit x 63 = true := by by_contra g; rw [if_neg g] at action; omega
    rw [if_pos top] at action
    obtain ⟨lo, hi, act⟩ := bits_request (x.setWidth 16) 0x8000_0000_0000_0000 rfl
    have none : bits (0x8000_0000_0000_0000 : Word) 61 2 = 0 := rfl
    rw [writeLctl_congr s ((request_id x).trans lo.symm) (top.trans hi.symm) (Eq.trans (by omega) (none.symm.trans act.symm))]
    rfl
  · have top : bit x 63 = true := by by_contra g; rw [if_neg g] at action; omega
    rw [if_pos top] at action
    obtain ⟨lo, hi, act⟩ := bits_request (x.setWidth 16) 0xA000_0000_0000_0000 rfl
    have one : bits (0xA000_0000_0000_0000 : Word) 61 2 = 1 := rfl
    rw [writeLctl_congr s ((request_id x).trans lo.symm) (top.trans hi.symm) (Eq.trans (by omega) (one.symm.trans act.symm))]
    rfl

/-- LCTL written with its request bit clear, or with another action, does nothing. -/
theorem writeLctl_idle {s : State} {x : Word} (h : x.getLsbD 63 = false ∨ 6 ≤ x.toNat / 2 ^ 61) : s.writeLctl x = s := by
  have action := lctl_action x
  unfold State.writeLctl
  rcases h with h | h
  · exact if_pos (by rw [bit, h]; rfl)
  · have top : bit x 63 = true := by
      by_contra g
      have field : bits x 61 2 < 4 := Nat.mod_lt _ (by decide)
      rw [if_neg g] at action
      omega
    rw [if_pos top] at action
    rw [if_neg (by rw [top]; exact Bool.false_ne_true), if_neg (by omega), if_neg (by omega)]

end Sys2Proof.Machine
end

section
/-! Special registers written: O10. -/

namespace Sys2Proof.Machine

/-- Settles O10: layer by layer, the write of each number sets its writable bits, is ignored, or acts as its event row does. -/
theorem writingASpecialRegisterSetsItsField : Obligations.WritingASpecialRegisterSetsItsField := by
  intro s gs n hf hw hn x low sets setsCore setsRg setsPlat device nothing acts die
  have put := execMts_written hf hw hn
  have at_ {m : Nat} (h : n.toNat = m) : exec (.mts n gs) s = .next (s.putReg m x) := h ▸ put
  have st {m : Nat} (f : Cluster → Cluster) (h : s.putReg m x = s.onCl fun _ => f s.cl) : sets m f := fun e =>
    ⟨_, (at_ e).trans (congrArg Host.Outcome.next h), sameButCluster_onCl s _, rfl, State.onCl_cl s _⟩
  have sc {m : Nat} (f : Core → Core) (h : s.putReg m x = s.setCore s.cur.core (f s.me)) : setsCore m f := fun e =>
    ⟨_, (at_ e).trans (congrArg Host.Outcome.next h), sameMemory_of_ms rfl, sameOutside_setCore s _, rfl, State.me_setCore s _⟩
  have sg {m : Nat} (f : CoreRegs → CoreRegs) (h : s.putReg m x = s.setCore s.cur.core { s.me with rg := f s.me.rg }) : setsRg m f :=
    sc (fun k => { k with rg := f k.rg }) h
  have sp {m : Nat} (f : Platform → Platform) (h : s.putReg m x = { s with plat := f s.plat }) : setsPlat m f := fun e =>
    (at_ e).trans (congrArg Host.Outcome.next h)
  have dv {m : Nat} {v : Word} (h : s.putReg m x = s.setDev m v) : device m v := fun e hc =>
    ⟨_, (at_ e).trans (congrArg Host.Outcome.next h), setDev_only hc m v⟩
  have no {m : Nat} (h : s.putReg m x = s) : nothing m := fun e => (at_ e).trans (congrArg Host.Outcome.next h)
  have lo {m : Word} (k : Nat) (h : m = BitVec.ofNat 64 (2 ^ k - 1)) : x &&& m = low k := h ▸ and_lowMask x k
  have win : windowBits x = low 36 := windowBits_eq x
  have ac {m : Nat} {i : Instr} {t : State} (hi : exec i s = .next { t with report := .issued }) (hr : KeepsReport s t) (h : s.putReg m x = t) :
      acts m i := fun e => ⟨_, hi, (at_ e).trans (congrArg Host.Outcome.next (by rw [h, ← hr]))⟩
  refine ⟨⟨_, put⟩, st (fun c => { c with srkey := x }) rfl, st (fun c => { c with srctr := x }) rfl, st (fun c => { c with lgtmo := x }) rfl,
    st (fun c => { c with cltmo := x }) rfl, fun i => ?_, ?_, st (fun c => { c with tpc := x, tpcReg := true }) rfl,
    st (fun c => { c with taddr := x }) rfl, ?_, ?_, fun e => ?_, fun e => ?_,
    fun i => ?_, fun e => ?_, ?_, no ?_, ?_, ?_, ?_, ?_, ?_, ?_, ?_, dv ?_, dv ?_, dv ?_, dv ?_, dv ?_, dv ?_,
    dv rfl, dv ?_, dv ?_, dv rfl, dv ?_, dv ?_, fun q hq h4 => dv ((putReg_queue s x).2 q hq h4), fun q => ?_, fun i => ?_, fun h => ?_, fun h => ?_,
    fun j hj => ?_, fun h => ?_, fun h => ?_, fun h => ?_, fun h => ?_, fun i => ?_, ?_, fun i hi => ?_, fun l => ?_, fun i => ?_,
    fun h => ?_, fun h => ?_, fun h => ?_, fun i => ?_, fun i => ?_, ?_, ?_, ?_⟩
  · obtain ⟨lps, lpe, lpc, hkeep⟩ := putReg_loops s i x
    exact ⟨st (fun c => { c with lps := vset c.lps i x }) lps, st (fun c => { c with lpe := vset c.lpe i x }) lpe,
      st (fun c => { c with lpc := vset c.lpc i x }) lpc, st (fun c => { c with hkeep := vset c.hkeep i x }) hkeep⟩
  · have e : x &&& ~~~63 = BitVec.ofNat 64 (x.toNat / 64 * 64) := and_not_lowMask x 6
    exact st (fun c => { c with tvec := BitVec.ofNat 64 (x.toNat / 64 * 64) }) (by rw [← e]; rfl)
  · have e : (s.cl.tstat &&& ~~~3) ||| (x &&& 3) = BitVec.ofNat 64 (s.cl.tstat.toNat / 4 * 4 + x.toNat % 4) := or_split _ x 2 2 le_rfl
    exact st (fun c => { c with tstat := BitVec.ofNat 64 (c.tstat.toNat / 4 * 4 + x.toNat % 4) }) (by rw [← e]; rfl)
  · have e : x &&& 0x7F = BitVec.ofNat 64 (x.toNat % 128) := and_lowMask x 7
    exact st (fun c => { c with pctx := BitVec.ofNat 64 (x.toNat % 128) }) (by rw [← e]; rfl)
  · exact ⟨_, at_ e, sameButStorage_onSt s fun t => { t with stampb := x }, congrArg Core.st (State.me_setCore s _)⟩
  · refine ⟨_, at_ e, sameButStorage_onSt s fun t => { t with stampc := (t.stampc &&& 0xFFFF_FFFF_0000_0000) ||| (x &&& 1) }, ?_⟩
    rw [← stampc_written]
    exact congrArg Core.st (State.me_setCore s _)
  · obtain ⟨pgdst, pmsel⟩ := putReg_channel s i x
    refine ⟨sc (fun k => k.onChan i fun c => { c with pgdst := BitVec.ofNat 64 (x.toNat % 2 ^ 16 / 64 * 64) }) ?_,
      sg (fun r => { r with pmsel := vset r.pmsel i (low 12) }) ?_⟩
    · rw [← pgdst_written]; exact pgdst
    · rw [← lo 12 (m := 0xFFF) rfl]; exact pmsel
  · refine ⟨_, at_ e, sameMemory_of_ms rfl, sameOutside_setCore s (s.me.woken x), ?_, fun y => ?_⟩
    · exact (State.me_setCore s (s.me.woken x)).trans (congrArg (fun k => { s.me with cl := Core.cl k }) (State.me_setCore s (s.me.woken x)).symm)
    · exact (congrArg (Core.clu · y) (State.me_setCore s (s.me.woken x))).trans (s.me.woken_clu x y)
  · exact sg (fun r => { r with aflags := r.aflags &&& ~~~x }) rfl
  · exact State.setCore_me s
  · refine sg (fun r => { r with ecpri := { r.ecpri with lasting := r.ecpri.lasting && !x.getLsbD 63 } }) ?_
    rw [← wipe_eq]; rfl
  · refine sg (fun r => { r with ecshd := { r.ecshd with lasting := r.ecshd.lasting && !x.getLsbD 63 } }) ?_
    rw [← wipe_eq]; rfl
  · refine sg (fun r => { r with ecxfr := { r.ecxfr with lasting := r.ecxfr.lasting && !x.getLsbD 63 } }) ?_
    rw [← wipe_eq]; rfl
  · exact sg (fun r => { r with ewpri := low 36 }) (by rw [← win]; rfl)
  · exact sg (fun r => { r with ewshd := low 36 }) (by rw [← win]; rfl)
  · exact sg (fun r => { r with ewxfr := low 36 }) (by rw [← win]; rfl)
  · simp only [List.forall_mem_cons, List.not_mem_nil, false_imp_iff, implies_true, and_true]
    exact ⟨dv rfl, dv rfl, dv rfl, dv rfl, dv rfl⟩
  · exact congrArg (s.setDev 0x821) (lo 32 rfl)
  · exact congrArg (s.setDev 0xA01) (lo 12 rfl)
  · exact congrArg (s.setDev 0xC41) (lo 25 rfl)
  · exact congrArg (s.setDev 0xE30) (and_not_lowMask x 3)
  · exact congrArg (s.setDev 0xE38) (lo 48 rfl)
  · exact congrArg (s.setDev 0xE39) (lo 48 rfl)
  · exact congrArg (s.setDev 0xE3B) (lo 10 rfl)
  · exact congrArg (s.setDev 0xE60) (lo 10 rfl)
  · exact congrArg (s.setDev 0xECF) (lo 3 rfl)
  · exact congrArg (s.setDev 0xF70) (lo 6 rfl)
  · have cfg := (putReg_queue s x).1 q
    exact ⟨fun h => no (cfg.trans (writeLqcfg_bad h)), fun h => dv (cfg.trans (writeLqcfg_good h))⟩
  · refine ⟨fun hne h => no ((putReg_slot s i x).trans (writeCtxs_held rfl hne ((ctxsHeld_iff s i).mpr h))), fun h e hc => ?_⟩
    have taken := writeCtxs_taken (s := s) (i := i) (x := x) rfl (h.imp_right fun g k => g ((ctxsHeld_iff s i).mp k))
    obtain ⟨-, this, others⟩ := setDev_only hc (0xC00 + i.val) (if i = 0 then x &&& 0x8000_0FFF_FFFF_F000 else x &&& 0x8000_0FFF_FFFF_FFFF)
    exact ⟨_, (at_ e).trans (congrArg Host.Outcome.next ((putReg_slot s i x).trans taken)), rfl, rfl, this, others⟩
  · have empty : s.slotsUsed = 0 := by rw [State.slotsUsed, h]; rfl
    exact ⟨dv (if_pos empty), dv ((if_pos empty).trans (congrArg (s.setDev 0xC51) (lo 16 rfl)))⟩
  · have used : s.slotsUsed ≠ 0 := fun e => h (List.length_eq_zero_iff.mp e)
    exact ⟨no (if_neg used), no (if_neg used)⟩
  · have window := (putReg_window s hj x).trans (writeHxw_window s j x)
    refine ⟨fun hc h => no ?_, fun h e hc => ?_⟩
    · exact window.trans (if_pos ((windowClash_iff (windowReg_setDev hc _ _) _).mpr h))
    · exact dv (window.trans (if_neg fun g => h ((windowClash_iff (windowReg_setDev hc _ _) _).mp g))) e hc
  · refine dv (Eq.trans (if_pos ?_) (congrArg (s.setDev 0xE71) (lo 16 rfl)))
    obtain ⟨i, hi, e⟩ := h
    exact List.any_eq_true.mpr ⟨i, List.mem_range.mpr hi, decide_eq_true ((bits_low x 16).trans e)⟩
  · refine no (if_neg fun g => ?_)
    obtain ⟨i, hi, e⟩ := List.any_eq_true.mp g
    exact h i (List.mem_range.mp hi) ((bits_low x 16).symm.trans (of_decide_eq_true e))
  · exact dv (if_neg (BitVec.not_lt.mpr h))
  · exact no (if_pos h)
  · obtain ⟨-, power⟩ := putReg_port s i x
    have slew := bits_low x 16
    refine ⟨fun h1 h2 => no (power.trans (if_pos ?_)), fun h => dv (power.trans (if_neg ?_)),
      sp (fun p => { p with cxl := vset p.cxl i ((vget p.cxl i).clearErr (x.getLsbD 62)) }) (putReg_portErr s i x)⟩
    · rw [slew]; exact ⟨h1, h2⟩
    · rw [slew]; omega
  · exact sp (fun p => { p with dies := vset p.dies die { vget p.dies die with ewmem := low 36 } }) (by rw [← win]; rfl)
  · have entry := putReg_celoc s hi x
    refine ⟨fun h => no (entry.trans (if_neg (by rw [bit, h]; exact Bool.false_ne_true))), fun h =>
      sp (fun p => { p with dies := vset p.dies die { vget p.dies die with celoc := (vget p.dies die).celoc.filter fun e => e.1 ≠ i } })
        (entry.trans ((if_pos h).trans ?_))⟩
    rw [← alDel_eq]
    rfl
  · intro m y
    obtain ⟨ctl, counts, window, evt⟩ := putReg_link s l x
    obtain ⟨rate, retire, retire1⟩ := execLkctl_rows (s := s) (l := l) (x := x)
    have kept := State.writeLkctl_report s l x
    refine ⟨fun h => ac (rate h) kept ctl, fun h => ac (retire h) kept ctl, fun h => ac (retire1 h) kept ctl,
      fun h => no (ctl.trans (writeLkctl_bad h)), fun h hb hs => dv (ctl.trans (writeLkctl_same hb hs h.1 h.2.1 h.2.2)),
      fun hb hs => sp (fun p => { p with links := vset p.links l { y with pending := y.pending ++ [x] } })
        (ctl.trans (writeLkctl_stopped hb hs)), no counts, dv (window.trans (by rw [win])),
      sp (fun p => { p with links := vset p.links l { y with hist := { y.hist with lasting := y.hist.lasting && !x.getLsbD 63 } } })
        (evt.trans ?_)⟩
    rw [← wipe_eq]
    rfl
  · exact ⟨ac rfl (State.writeIstate_report s i x) (putReg_island s i x).1,
      sp (fun p => { p with islands := vset p.islands i ((vget s.plat.islands i).clearWarn (x.getLsbD 43)) }) (putReg_islandWarn s i x)⟩
  · have act : bits x 0 2 = 1 := (bits_low x 2).trans h
    exact ac rfl (State.emuDone_report s _ 1) (congrArg (s.emuDone s.cur.core) act)
  · have act : bits x 0 2 = 2 := (bits_low x 2).trans h
    exact ac rfl (State.emuDone_report s _ 2) (congrArg (s.emuDone s.cur.core) act)
  · have act : bits x 0 2 = x.toNat % 4 := bits_low x 2
    exact no (emuDone_idle s s.cur.core (act := bits x 0 2) (by omega) (by omega))
  · exact ac rfl (State.writeSchedule_report s i x) (putReg_schedule s i x)
  · exact ac rfl (State.writeCfence_report s i.val x) (putReg_fence s i x)
  · exact ac rfl (State.writeIftctl_report s x) rfl
  · intro scope
    have ready (e : n.toNat = 0xC40) : s.shootWaits x = false := by
      rw [e] at hw
      exact (Bool.or_eq_false_iff.mp hw).2
    have kept := State.shootRequest_report s x
    exact ⟨fun h e => ac (shootEvent_taken h (ready e)) kept rfl e, fun h e => ac (shootEvent_taken h (ready e)) kept rfl e,
      fun h e => ac (shootEvent_taken h (ready e)) kept rfl e, fun h => no (if_pos h)⟩
  · obtain ⟨place, kill⟩ := tresume_rows s x
    obtain ⟨save, stop⟩ := lctl_rows s x
    have kept := State.writeTresume_report s x
    have kept' := State.writeLctl_report s x
    exact ⟨fun h => ⟨ac (place h) kept rfl, no (writeLctl_idle (.inl h))⟩,
      fun h => ⟨ac (kill h) kept rfl, fun g => ac (save g) kept' rfl, fun g => ac (stop g) kept' rfl, fun g => no (writeLctl_idle (.inr g))⟩⟩

end Sys2Proof.Machine
end

section
/-! The walker: indices of an ordinal, and what it leaves of the tasks that hold a core. -/

namespace Sys2Proof.Machine

/-! Indices of an ordinal (R252, R259). -/

/-- The extent of a level among the ordinals: a T level has one. -/
def levelExtent (e : Nat × Nat) : Nat := if e.1 = 1 then 1 else e.2

theorem foldl_levels (l : List (Nat × Nat)) (n : Nat) :
    l.foldl (fun n e => if e.1 = 1 then n else n * e.2) n = n * (l.map levelExtent).prod := by
  induction l generalizing n with
  | nil => rw [List.foldl_nil, List.map_nil, List.prod_nil, Nat.mul_one]
  | cons e l ih =>
    rw [List.foldl_cons, ih, List.map_cons, List.prod_cons, levelExtent]
    split
    · rw [Nat.one_mul]
    · rw [Nat.mul_assoc]

theorem count_eq (l : Launch) : l.count = (l.levels.reverse.map levelExtent).prod := by
  rw [Launch.count, foldl_levels, Nat.one_mul, List.map_reverse, List.prod_reverse]

theorem indicesRev_length (l : List (Nat × Nat)) (o : Nat) : (indicesRev l o).length = l.length := by
  induction l generalizing o with
  | nil => rfl
  | cons e l ih =>
    unfold indicesRev
    split <;> rw [List.length_cons, List.length_cons, ih]

/-- One level of the innermost-first ordinal: its index, and the ordinal of the levels around it. -/
theorem indicesRev_cons (e : Nat × Nat) (l : List (Nat × Nat)) (o : Nat) :
    indicesRev (e :: l) o = (if e.1 = 1 then 0 else o % e.2) :: indicesRev l (if e.1 = 1 then o else o / e.2) := by
  rw [indicesRev]
  split <;> rfl

theorem outer_lt {e : Nat × Nat} {l : List (Nat × Nat)} {o : Nat} (h : o < ((e :: l).map levelExtent).prod) :
    (if e.1 = 1 then o else o / e.2) < (l.map levelExtent).prod := by
  rw [List.map_cons, List.prod_cons, levelExtent] at h
  split at h
  · next one => rwa [if_pos one, ← Nat.one_mul (List.prod _)]
  · next many => rw [if_neg many]; exact Nat.div_lt_of_lt_mul h

/-- Each index of a C or D level is below the level's extent. -/
theorem indicesRev_lt {l : List (Nat × Nat)} {o : Nat} (h : o < (l.map levelExtent).prod) :
    ∀ e ∈ l.zip (indicesRev l o), e.1.1 ≠ 1 → e.2 < e.1.2 := by
  induction l generalizing o with
  | nil => exact fun e he => nomatch he
  | cons x l ih =>
    rw [indicesRev_cons, List.zip_cons_cons]
    intro e he hk
    rcases List.mem_cons.mp he with rfl | he
    · rw [List.map_cons, List.prod_cons, levelExtent, if_neg hk] at h
      simp only [if_neg hk]
      exact Nat.mod_lt _ (Nat.pos_of_ne_zero fun z => by rw [z, Nat.zero_mul] at h; exact Nat.not_lt_zero _ h)
    · exact ih (outer_lt h) e he hk

/-- The indices are the digits of the ordinal. -/
theorem indicesRev_value {l : List (Nat × Nat)} {o : Nat} (h : o < (l.map levelExtent).prod) :
    (l.zip (indicesRev l o)).foldr (fun e o => if e.1.1 = 1 then o else o * e.1.2 + e.2) 0 = o := by
  induction l generalizing o with
  | nil => exact (Nat.lt_one_iff.mp h).symm
  | cons x l ih =>
    rw [indicesRev_cons, List.zip_cons_cons, List.foldr_cons, ih (outer_lt h)]
    by_cases one : x.1 = 1
    · simp only [one, if_true]
    · simp only [one, if_false]
      exact Nat.div_add_mod' o x.2

theorem zip_reverse_of_length {α β : Type} {l : List α} {m : List β} (h : l.length = m.length) : l.reverse.zip m.reverse = (l.zip m).reverse := by
  induction l generalizing m with
  | nil => rfl
  | cons a l ih =>
    cases m with
    | nil => cases h
    | cons b m =>
      have e : l.length = m.length := Nat.succ.inj h
      rw [List.reverse_cons, List.reverse_cons, List.zip_append (by rw [List.length_reverse, List.length_reverse, e]), ih e,
        List.zip_cons_cons (as := l), List.reverse_cons]
      rfl

theorem indices_zip (l : Launch) (ord : Nat) :
    l.levels.zip (l.indices ord) = (l.levels.reverse.zip (indicesRev l.levels.reverse ord)).reverse := by
  rw [← zip_reverse_of_length (indicesRev_length _ _).symm, List.reverse_reverse]
  rfl

theorem indices_digits {l : Launch} {ord : Nat} (h : ord < l.count) :
    (l.indices ord).length = l.levels.length ∧ (∀ e ∈ l.levels.zip (l.indices ord), e.1.1 ≠ 1 → e.2 < e.1.2) ∧
    (l.levels.zip (l.indices ord)).foldl (fun o e => if e.1.1 = 1 then o else o * e.1.2 + e.2) 0 = ord := by
  rw [count_eq] at h
  refine ⟨?_, ?_, ?_⟩
  · rw [Launch.indices, List.length_reverse, indicesRev_length, List.length_reverse]
  · intro e he
    rw [indices_zip] at he
    exact indicesRev_lt h e (List.mem_reverse.mp he)
  · rw [indices_zip, List.foldl_reverse]
    exact indicesRev_value h

/-! Placing leaves every task that holds a core. -/

/-- Every core that holds a task is as it was. -/
def Spares (s t : State) : Prop := ∀ k, (s.core k).task ≠ none → t.core k = s.core k

namespace Spares

theorem refl (s : State) : Spares s s := fun _ _ => rfl

theorem trans {s t u : State} (h : Spares s t) (k : Spares t u) : Spares s u := fun i hi =>
  (k i (by rw [h i hi]; exact hi)).trans (h i hi)

theorem of_cores {s t : State} (h : t.cores = s.cores) : Spares s t := fun k _ => congrArg (vget · k) h

theorem ite {p : Prop} [Decidable p] {s t u : State} (h : Spares s t) (k : Spares s u) : Spares s (if p then t else u) := by
  split
  · exact h
  · exact k

theorem setCore {s t : State} (h : Spares s t) {k : Fin 768} (hk : (s.core k).task = none) (c : Core) : Spares s (t.setCore k c) := fun j hj =>
  (State.setCore_core_ne t c (fun e : j = k => hj (by rw [e, hk]))).trans (h j hj)

end Spares

theorem State.startTask_spares {s t : State} (h : Spares s t) {k : Fin 768} (hk : (s.core k).task = none) (l : Launch) (ord slot : Nat) :
    Spares s (t.startTask k l ord slot) := fun j hj => Spares.setCore h hk (t.core k |>.start l ord slot t.sch.starts) j hj

theorem State.openCore_task {s : State} {q : Fin 32} {lid : BitVec 16} {k : Fin 768} (h : s.openCore q lid k = true) : (s.core k).task = none := by
  unfold State.openCore State.coreFree at h
  simp only [Bool.and_eq_true, Bool.not_eq_true', Core.busy, Option.isSome_eq_false_iff, Option.isNone_iff_eq_none] at h
  exact h.1.1.2.1

theorem mem_of_pick {α : Type} {l : List α} {choice : Nat} {p : α × Nat} (h : pick l choice = some p) : p.1 ∈ l := by
  unfold pick at h
  split at h
  · next x e => cases h; exact List.mem_of_getElem? e
  · cases h

theorem mem_quadCores {u : Fin 192} {k : Fin 768} : k ∈ quadCores u ↔ k.val / 4 = u.val := by
  unfold quadCores
  have hu := u.isLt
  have hk := k.isLt
  simp only [List.mem_map, List.mem_range]
  constructor
  · rintro ⟨i, hi, rfl⟩
    rw [Fin.val_ofNat, Nat.mod_eq_of_lt (by omega)]
    omega
  · intro h
    refine ⟨k.val % 4, Nat.mod_lt _ (by decide), Fin.ext ?_⟩
    rw [Fin.val_ofNat, Nat.mod_eq_of_lt (by omega)]
    omega

/-- A core of an open quad is free. -/
theorem State.openQuad_task {s : State} {q : Fin 32} {lid : BitVec 16} {u : Fin 192} (h : s.openQuad q lid u = true) {i : Nat} (hi : i < 4) :
    (s.core (Fin.ofNat 768 (4 * u.val + i))).task = none := by
  unfold State.openQuad at h
  rw [Bool.and_eq_true, List.all_eq_true] at h
  have hm : Fin.ofNat 768 (4 * u.val + i) ∈ quadCores u := List.mem_map.mpr ⟨i, List.mem_range.mpr hi, rfl⟩
  exact State.openCore_task (Bool.and_eq_true_iff.mp (h.2 _ hm)).1

theorem State.placeOne_spares {s t : State} {l : Launch} {slot ord choice c : Nat} (h : s.placeOne l slot ord choice = some (t, c)) : Spares s t := by
  obtain ⟨p, hp, e⟩ := Option.map_eq_some_iff.mp h
  cases e
  have free := (List.mem_filter.mp (mem_of_pick hp)).2
  exact State.startTask_spares (.refl s) (State.openCore_task (Bool.and_eq_true_iff.mp free).1) l ord slot

theorem State.placeGang_spares {s t : State} {l : Launch} {slot ord choice c : Nat} (h : s.placeGang l slot ord choice = some (t, c)) :
    Spares s t := by
  obtain ⟨p, hp, e⟩ := Option.map_eq_some_iff.mp h
  cases e
  have free := (Bool.and_eq_true_iff.mp (List.mem_filter.mp (mem_of_pick hp)).2).1
  have each : ∀ (is : List Nat) (u : State), (∀ i ∈ is, i < 4) → Spares s u →
      Spares s (is.foldl (fun s i => if ord + i < l.count then s.startTask (Fin.ofNat 768 (4 * p.1.val + i)) l (ord + i) slot else s) u) := by
    intro is
    induction is with
    | nil => exact fun u _ hu => hu
    | cons i is ih =>
      intro u hi hu
      exact ih _ (fun j hj => hi j (List.mem_cons_of_mem _ hj))
        (.ite (State.startTask_spares hu (State.openQuad_task free (hi i List.mem_cons_self)) l _ _) hu)
  exact each _ s (fun i hi => List.mem_range.mp hi) (.refl s)

theorem State.placeUnits_spares {l : Launch} {slot : Nat} (n : Nat) {s t : State} {ord choice c : Nat}
    (h : s.placeUnits l slot ord choice n = some (t, c)) : Spares s t := by
  induction n generalizing s ord choice with
  | zero => cases h; exact .refl _
  | succ n ih =>
    unfold State.placeUnits at h
    split at h
    · next u d e =>
      refine Spares.trans ?_ (ih h)
      split at e
      · exact State.placeGang_spares e
      · exact State.placeOne_spares e
    · cases h

theorem State.placeNext_spares {s t : State} {l : Launch} {choice : Nat} (h : s.placeNext l choice = some t) : Spares s t := by
  unfold State.placeNext at h
  split at h
  · cases h
  · obtain ⟨p, hp, rfl⟩ := Option.map_eq_some_iff.mp h
    exact (State.placeUnits_spares (t := p.1) (c := p.2) _ hp).trans (.of_cores rfl)

theorem State.requestPower_cores (s : State) (r : PowerReq) : (s.requestPower r).cores = s.cores := by
  unfold State.requestPower
  split <;> rfl

theorem State.placeSaved_spares {s t : State} (h : Spares s t) {k : Fin 768} (hk : (s.core k).task = none) (v : Saved) :
    Spares s (t.placeSaved v k) := by
  have placed := Spares.setCore h hk (v.core.adopt (t.core k))
  refine fun j hj => Eq.trans ?_ (placed j hj)
  refine congrArg (vget · j) ?_
  unfold State.placeSaved
  simp only
  split
  · rfl
  · exact State.requestPower_cores ..

theorem State.placeSavedUnit_spares {s t : State} {q : Fin 32} {vs : List Saved} {choice : Nat} (h : s.placeSavedUnit q vs choice = some t) :
    Spares s t := by
  unfold State.placeSavedUnit at h
  split at h
  · cases h
  · next v _ =>
    split at h
    · obtain ⟨p, hp, rfl⟩ := Option.map_eq_some_iff.mp h
      have free := (List.mem_filter.mp (mem_of_pick hp)).2
      have each : ∀ (vs : List Saved) (u : State), Spares s u →
          Spares s (vs.foldl (fun s v => s.placeSaved v (Fin.ofNat 768 (4 * p.1.val + qposOf v.from_))) u) := by
        intro vs
        induction vs with
        | nil => exact fun u hu => hu
        | cons v vs ih =>
          exact fun u hu => ih _ (State.placeSaved_spares hu (State.openQuad_task free (Nat.mod_lt _ (by decide))) v)
      exact each _ s (.refl s)
    · obtain ⟨p, hp, rfl⟩ := Option.map_eq_some_iff.mp h
      exact State.placeSaved_spares (.refl s) (State.openCore_task (List.mem_filter.mp (mem_of_pick hp)).2) v

theorem State.placeItem_spares {s t : State} {choice : Nat} {i : Item} (h : s.placeItem choice i = some t) : Spares s t := by
  cases i with
  | saved q vs => exact State.placeSavedUnit_spares h
  | head l => exact State.placeNext_spares h

theorem State.pass_cores (s : State) (i : Item) : (s.pass i).cores = s.cores := by
  cases i <;> rfl

theorem State.placedFor_cores (s t : State) (q : Fin 32) : (s.placedFor t q).cores = t.cores := by
  have passed : ∀ (is : List Item) (u : State), (is.foldl State.pass u).cores = u.cores := by
    intro is
    induction is with
    | nil => exact fun u => rfl
    | cons i is ih => exact fun u => (ih _).trans (State.pass_cores u i)
  exact passed _ t

theorem State.serve_spares {s t : State} {choice : Nat} {is : List Item} (h : s.serve choice is = some t) : Spares s t := by
  induction is with
  | nil => cases h
  | cons i is ih =>
    unfold State.serve at h
    split at h
    · next u e =>
      cases h
      exact (State.placeItem_spares e).trans (.of_cores (State.placedFor_cores ..))
    · exact ih h

theorem State.serveClass_spares {s t : State} {c choice : Nat} (h : s.serveClass c choice = .placed t) : Spares s t := by
  unfold State.serveClass at h
  simp only at h
  split at h <;> split at h <;> cases h <;> next e => exact State.serve_spares e

end Sys2Proof.Machine
end

section
/-! The walker: saves asked for by class 0, and what one event leaves of the tasks that hold a core. -/

namespace Sys2Proof.Machine

/-! A save requested of a core (R351). -/

theorem Core.requestSave_frame (c : Core) (reason tick : Nat) : c.requestSave reason tick = { c with save := (c.requestSave reason tick).save } := by
  unfold Core.requestSave
  split <;> rfl

theorem Core.requestSave_save (c : Core) (reason tick : Nat) :
    (c.requestSave reason tick).save = c.save ∨
      ∃ t, c.task = some t ∧ (c.requestSave reason tick).save = some { reason := reason, tick := tick } := by
  unfold Core.requestSave
  split
  · next t _ ht => exact .inr ⟨t, ht, rfl⟩
  · exact .inl rfl

theorem core_withCores (s : State) (f : Fin 768 → Core) (k : Fin 768) : ({ s with cores := Vector.ofFn f } : State).core k = f k := by
  simp [State.core, vget]

/-- Another core is asked to save with reason 5, where it runs a task of the same launch. -/
theorem State.requestSave_core (s : State) (k : Fin 768) (reason : Nat) (j : Fin 768) :
    let c := if j = k then (s.core k).requestSave reason s.cadence.toNat else s.core j
    (s.requestSave k reason).core j = c ∨ ((s.requestSave k reason).core j = c.requestSave 5 s.cadence.toNat ∧
      ∀ x, c.task = some x → ∃ t, (s.core k).task = some t ∧ t.lid = x.lid) := by
  intro c
  have first : (s.onCore k fun c => c.requestSave reason s.cadence.toNat).core j = c := by
    by_cases e : j = k
    · rw [e]
      exact (State.onCore_core_same s k _).trans (by simp only [c, e, if_true])
    · exact (State.onCore_core_ne s _ e).trans (by simp only [c, e, if_false])
  unfold State.requestSave
  simp only
  split
  · exact .inl first
  · next t ht =>
    split
    · rw [core_withCores]
      split
      · next m =>
        refine .inr ⟨by rw [first], fun x hx => ⟨t, ht, ?_⟩⟩
        rw [first, hx, Bool.and_eq_true] at m
        exact (beq_iff_eq.mp m.2).symm
      · exact .inl first
    · exact .inl first

/-- Every core is as it was but for its save, and a save asked for is one of reason 1 of a task of classes 1 to 3, or of reason 5 beside a
task of its launch that may be asked so. -/
def Asked (s t : State) : Prop :=
  t.cadence = s.cadence ∧ ∀ k, t.core k = { s.core k with save := (t.core k).save } ∧
    ((t.core k).save = (s.core k).save ∨
      (∃ x, (s.core k).task = some x ∧ 8 ≤ x.queue.val ∧ (t.core k).save = some { reason := 1, tick := s.cadence.toNat }) ∨
      ((t.core k).save = some { reason := 5, tick := s.cadence.toNat } ∧
        ∃ x, (s.core k).task = some x ∧ ∃ j y, (s.core j).task = some y ∧ y.lid = x.lid ∧ 8 ≤ y.queue.val))

theorem Asked.refl (s : State) : Asked s s := ⟨rfl, fun _ => ⟨rfl, .inl rfl⟩⟩

theorem Core.weak_queue {c : Core} (h : c.weak = true) : ∃ t, c.task = some t ∧ 8 ≤ t.queue.val := by
  unfold Core.weak classOfQueue at h
  split at h
  · next t ht => exact ⟨t, ht, by have := of_decide_eq_true h; omega⟩
  · cases h

theorem State.requestSave_cadence (s : State) (k : Fin 768) (reason : Nat) : (s.requestSave k reason).cadence = s.cadence := by
  unfold State.requestSave
  simp only
  split
  · rfl
  · split <;> rfl

theorem Asked.requestSave {s u : State} (h : Asked s u) {k : Fin 768} (hk : (s.core k).weak = true) : Asked s (u.requestSave k 1) := by
  obtain ⟨hc, hu⟩ := h
  obtain ⟨y, hy, hq⟩ := Core.weak_queue hk
  have task (j : Fin 768) : (u.core j).task = (s.core j).task := by rw [(hu j).1]
  refine ⟨(State.requestSave_cadence u k 1).trans hc, fun j => ?_⟩
  -- the core itself, asked with reason 1 where it is the one
  obtain ⟨c, hcore, hfirst⟩ : ∃ c : Core, c = (if j = k then (u.core k).requestSave 1 u.cadence.toNat else u.core j) ∧
      c = { s.core j with save := c.save } ∧ (c.save = (u.core j).save ∨
        ∃ x, (s.core j).task = some x ∧ 8 ≤ x.queue.val ∧ c.save = some { reason := 1, tick := s.cadence.toNat }) := by
    refine ⟨_, rfl, ?_⟩
    by_cases e : j = k
    · rw [if_pos e, e]
      refine ⟨?_, ?_⟩
      · rw [Core.requestSave_frame, (hu k).1]
      · rcases Core.requestSave_save (u.core k) 1 u.cadence.toNat with same | ⟨t, -, asked⟩
        · exact .inl same
        · exact .inr ⟨y, hy, hq, by rw [asked, hc]⟩
    · rw [if_neg e]
      exact ⟨(hu j).1, .inl rfl⟩
  obtain ⟨frame, saved⟩ := hfirst
  have before : c.save = (s.core j).save ∨
      (∃ x, (s.core j).task = some x ∧ 8 ≤ x.queue.val ∧ c.save = some { reason := 1, tick := s.cadence.toNat }) ∨
      (c.save = some { reason := 5, tick := s.cadence.toNat } ∧
        ∃ x, (s.core j).task = some x ∧ ∃ j y, (s.core j).task = some y ∧ y.lid = x.lid ∧ 8 ≤ y.queue.val) := by
    rcases saved with same | asked
    · rw [same]; exact (hu j).2
    · exact .inr (.inl asked)
  have ctask : c.task = (s.core j).task := by rw [frame]
  have second := State.requestSave_core u k 1 j
  simp only at second
  rw [← hcore] at second
  rcases second with same | ⟨asked, member⟩
  · rw [same]; exact ⟨frame, before⟩
  · rw [asked]
    refine ⟨by rw [Core.requestSave_frame, frame], ?_⟩
    rcases Core.requestSave_save c 5 u.cadence.toNat with same | ⟨x, hx, five⟩
    · rw [same]; exact before
    · obtain ⟨t, ht, hl⟩ := member x hx
      rw [task k, hy] at ht
      cases ht
      exact .inr (.inr ⟨by rw [five, hc], x, ctask ▸ hx, k, y, hy, hl, hq⟩)

/-! The sets of tasks that class 0 may ask to leave (R257). -/

theorem State.bestSet_mem {s : State} {sets : List (List (Fin 768))} {ks : List (Fin 768)} (h : s.bestSet sets = some ks) : ks ∈ sets := by
  have best : ∀ (l : List (List (Fin 768))) (a : List (Fin 768)), l.foldl (fun a b => if s.betterSet b a then b else a) a ∈ a :: l := by
    intro l
    induction l with
    | nil => exact fun a => List.mem_singleton.mpr rfl
    | cons b l ih =>
      intro a
      rw [List.foldl_cons]
      split
      · exact List.mem_cons_of_mem _ (ih b)
      · rcases List.mem_cons.mp (ih a) with e | m
        · exact List.mem_cons.mpr (.inl e)
        · exact List.mem_cons_of_mem _ (List.mem_cons_of_mem _ m)
  cases sets with
  | nil => cases h
  | cons a rest =>
    cases h
    exact best rest a

theorem State.quadSet_weak {s : State} {l : Launch} {u : Fin 192} {ks : List (Fin 768)} (h : s.quadSet l u = some ks) :
    ∀ k ∈ ks, (s.core k).weak = true := by
  unfold State.quadSet at h
  simp only at h
  split at h
  · next w => cases h; exact List.all_eq_true.mp w
  · cases h

theorem State.coresSets_weak {s : State} {l : Launch} {ks : List (Fin 768)} (h : ks ∈ s.coresSets l) : ∀ k ∈ ks, (s.core k).weak = true := by
  unfold State.coresSets at h
  obtain ⟨g, hg, rfl⟩ := List.mem_map.mp (List.mem_of_mem_filter h)
  intro k hk
  obtain ⟨a, ha, hka⟩ := List.mem_flatten.mp (List.mem_eraseDups.mp hk)
  have group := List.mem_eraseDups.mp ((List.mem_sublists.mp hg).subset ha)
  exact List.all_eq_true.mp (List.mem_filter.mp group).2 k hka

theorem State.preemptFor_asked {s t : State} {l : Launch} (h : s.preemptFor l = some t) : Asked s t := by
  unfold State.preemptFor at h
  simp only at h
  split at h
  · cases h
  · next ks e =>
    split at h
    · cases h
    · cases h
      have weak : ∀ k ∈ ks, (s.core k).weak = true := by
        have m := State.bestSet_mem e
        split at m
        · exact State.coresSets_weak m
        · obtain ⟨u, -, hu⟩ := List.mem_filterMap.mp m
          exact State.quadSet_weak hu
      have each : ∀ (go : List (Fin 768)) (u : State), (∀ k ∈ go, (s.core k).weak = true) → Asked s u →
          Asked s (go.foldl (fun s k => s.requestSave k 1) u) := by
        intro go
        induction go with
        | nil => exact fun u _ hu => hu
        | cons k go ih =>
          exact fun u hw hu => ih _ (fun j hj => hw j (List.mem_cons_of_mem _ hj)) (hu.requestSave (hw k List.mem_cons_self))
      exact each _ s (fun k hk => weak k (List.mem_of_mem_filter hk)) (.refl s)

theorem State.preempt_asked {s t : State} (h : s.preempt = some t) : Asked s t := by
  unfold State.preempt at h
  obtain ⟨i, -, hi⟩ := List.exists_of_findSome?_eq_some h
  cases i with
  | saved q vs => cases hi
  | head l =>
    simp only at hi
    split at hi
    · cases hi
    · exact State.preemptFor_asked hi

/-! One event of the walker. -/

theorem State.serveClasses_touch {s t : State} {choice : Nat} {cs : List Nat} (h : s.serveClasses choice cs = some t) : Spares s t ∨ Asked s t := by
  induction cs with
  | nil => cases h
  | cons c cs ih =>
    unfold State.serveClasses at h
    split at h
    · next u e =>
      cases h
      exact .inl (State.serveClass_spares e)
    · split at h
      · exact .inr (State.preempt_asked h)
      · cases h
    · split at h
      · next u e =>
        cases h
        split at e
        · exact .inr (State.preempt_asked e)
        · cases e
      · exact ih h

/-- The head of one queue begins placing. -/
def State.promoteQueue (s : State) (q : Fin 32) : State :=
  match s.headOf q with
  | some l => if l.preds = [] ∧ l.state = .queued ∧ l.count ≠ 0 then s.onLaunch l.lid fun x => { x with state := .running } else s
  | none => s

theorem State.promote_eq (s : State) : s.promote = (List.finRange 32).foldl State.promoteQueue s := rfl

theorem State.promote_keepsTasks (s : State) : KeepsTasks s s.promote := by
  rw [State.promote_eq]
  refine .foldl (fun t q => ?_) _ s
  unfold State.promoteQueue
  split
  · exact .ite (State.onLaunch_keepsTasks t _ _) (.refl t)
  · exact .refl t

theorem KeepsTasks.task {s t : State} (h : KeepsTasks s t) (k : Fin 768) : (t.core k).task = (s.core k).task := by
  obtain ⟨-, -, hk⟩ := h
  rw [(hk k).1]

/-- What the walker may do to a core that holds a task. -/
def WalkerLeaves (s t : State) (k : Fin 768) (tk : Task) : Prop :=
  t.core k = { s.core k with save := (t.core k).save, term := (t.core k).term, en := (t.core k).en } ∧
  (t.core k).en = { (s.core k).en with l1 := (t.core k).en.l1, chans := (t.core k).en.chans } ∧
  ((t.core k).save = (s.core k).save ∨ (8 ≤ tk.queue.val ∧ (t.core k).save = some { reason := 1, tick := s.cadence.toNat }) ∨
    ((t.core k).save = some { reason := 5, tick := s.cadence.toNat } ∧ ∃ j tj, (s.core j).task = some tj ∧ tj.lid = tk.lid ∧ 8 ≤ tj.queue.val))

theorem walkerLeaves_of {s w t : State} (kept : KeepsTasks s w) (rest : Spares w t ∨ Asked w t) {k : Fin 768} {tk : Task}
    (htk : (s.core k).task = some tk) : WalkerLeaves s t k tk := by
  have task (j : Fin 768) : (w.core j).task = (s.core j).task := kept.task j
  obtain ⟨-, cadence, cores⟩ := kept
  obtain ⟨frame, engines⟩ := cores k
  have saved : (w.core k).save = (s.core k).save := by rw [frame]
  rcases rest with spared | ⟨-, asked⟩
  · rw [WalkerLeaves, spared k (by rw [task k, htk]; exact Option.some_ne_none _)]
    exact ⟨by rw [frame], engines, .inl saved⟩
  · obtain ⟨only, cause⟩ := asked k
    refine ⟨by rw [only, frame], by rw [only]; exact engines, ?_⟩
    rcases cause with same | ⟨x, hx, hq, one⟩ | ⟨five, x, hx, j, y, hy, hl, hq⟩
    · exact .inl (same.trans saved)
    · rw [task k, htk] at hx
      cases hx
      exact .inr (.inl ⟨hq, by rw [one, cadence]⟩)
    · rw [task k, htk] at hx
      cases hx
      exact .inr (.inr ⟨by rw [five, cadence], j, y, task j ▸ hy, hl, hq⟩)

/-- The walker's event, with heads begun and lost capacity settled. -/
def State.readied (s : State) : State := s.promote.capCheck

theorem State.readied_keepsTasks (s : State) : KeepsTasks s s.readied := s.promote_keepsTasks.trans (State.capCheck_keepsTasks _)

/-- What a state answers to the walker once it is readied. -/
def State.walked (s : State) (choice : Nat) : Out :=
  match s.serveClasses choice [0, 1, 2, 3] with
  | some t => .next { t with report := .issued }
  | none => .next { s with report := .idle }

theorem execWalkerPlace_eq (s : State) (choice : Nat) : exec (.walkerPlace choice) s = s.readied.walked choice := by
  have run : exec (.walkerPlace choice) s = execWalkerPlace choice s := rfl
  rw [run]
  unfold execWalkerPlace State.walked State.readied
  generalize s.promote.capCheck = w
  cases e : w.serveClasses choice [0, 1, 2, 3] <;> simp only [e]

theorem walked_touch {w t : State} {choice : Nat} (h : w.walked choice = .next t) : Spares w t ∨ Asked w t := by
  unfold State.walked at h
  split at h
  · next u e =>
    have touch := State.serveClasses_touch e
    cases h
    exact touch
  · cases h
    exact .inl (.refl _)

theorem walkerPlace_leaves {s t : State} {choice : Nat} (h : exec (.walkerPlace choice) s = .next t) {k : Fin 768} {tk : Task}
    (htk : (s.core k).task = some tk) : WalkerLeaves s t k tk :=
  walkerLeaves_of s.readied_keepsTasks (walked_touch (execWalkerPlace_eq s choice ▸ h)) htk

end Sys2Proof.Machine
end

section
/-! The walker with one unit waiting: which class serves it, and what serving it leaves (R250, R251, R255). -/

namespace Sys2Proof.Machine

/-! Nothing to begin, nothing to end. -/

theorem State.headOf_mem {s : State} {q : Fin 32} {l : Launch} (h : s.headOf q = some l) : l ∈ s.sch.launches := List.mem_of_find?_eq_some h

theorem State.promote_of_started {s : State} (h : ∀ l ∈ s.sch.launches, l.state ≠ .queued) : s.promote = s := by
  have each (q : Fin 32) : s.promoteQueue q = s := by
    unfold State.promoteQueue
    split
    · next l e => exact if_neg fun g => h l (State.headOf_mem e) g.2.1
    · rfl
  rw [State.promote_eq]
  exact List.foldl_fixed' each _

theorem State.capCheck_of_kept {s : State} (h : ∀ l ∈ s.sch.launches, s.capLost l = false) : s.capCheck = s := by
  have each : ∀ ls : List Launch, (∀ l ∈ ls, s.capLost l = false) →
      ls.foldl (fun t l => if t.capLost l then t.endLaunch l.lid 5 else t) s = s := by
    intro ls
    induction ls with
    | nil => exact fun _ => rfl
    | cons l ls ih =>
      intro hl
      rw [List.foldl_cons, hl l List.mem_cons_self]
      exact ih fun m hm => hl m (List.mem_cons_of_mem _ hm)
  exact each _ h

/-! The queues of a class, in turn. -/

theorem mem_turnOrder {s : State} {c : Nat} (hc : c < 4) {q : Fin 32} : q ∈ s.turnOrder c ↔ classOfQueue q = c := by
  unfold State.turnOrder classOfQueue
  have hq := q.isLt
  generalize vget s.sch.pointer (Fin.ofNat 4 c) = p
  simp only [List.mem_map, List.mem_range, Fin.ext_iff, Fin.val_ofNat]
  constructor
  · rintro ⟨i, hi, e⟩
    omega
  · intro e
    exact ⟨(q.val % 8 + 8 - p % 8) % 8, Nat.mod_lt _ (by decide), by omega⟩

theorem nodup_turnOrder (s : State) (c : Nat) : (s.turnOrder c).Nodup := by
  unfold State.turnOrder
  generalize vget s.sch.pointer (Fin.ofNat 4 c) = p
  refine List.Nodup.map_on (fun i hi j hj e => ?_) List.nodup_range
  rw [List.mem_range] at hi hj
  rw [Fin.ext_iff, Fin.val_ofNat, Fin.val_ofNat] at e
  omega

/-- A list in which one element has something to give. -/
theorem flatMap_single {α β : Type} [DecidableEq α] {f : α → List β} {a : α} {x : β} (h : ∀ b, f b = if b = a then [x] else []) {l : List α}
    (hl : l.Nodup) : l.flatMap f = if a ∈ l then [x] else [] := by
  induction l with
  | nil => rfl
  | cons b l ih =>
    obtain ⟨hb, hl⟩ := List.nodup_cons.mp hl
    rw [List.flatMap_cons, h, ih hl]
    by_cases e : b = a
    · subst e
      rw [if_pos rfl, if_neg hb, if_pos List.mem_cons_self]
      rfl
    · rw [if_neg e, List.nil_append]
      refine if_congr ?_ rfl rfl
      rw [List.mem_cons, or_iff_right fun g => e g.symm]

/-! A state in which one item waits. -/

/-- What a queue serves: its saved units, and then its head. -/
def State.served (s : State) (c : Nat) : List Item := (s.turnOrder c).flatMap s.savedItems ++ (s.turnOrder c).filterMap s.headItem

/-- One item waits, in its queue. -/
def State.waitsFor (s : State) (it : Item) : Prop :=
  (∀ c, c < 4 → s.served c = if classOfQueue it.queue = c then [it] else []) ∧ ∀ i ∈ s.items, i = it

/-- The item is the head of its queue. -/
theorem waitsFor_head {s : State} {it : Item} (hs : ∀ q, s.savedItems q = []) (hh : ∀ q, s.headItem q = if q = it.queue then some it else none) :
    s.waitsFor it := by
  have single (q : Fin 32) : (s.headItem q).toList = if q = it.queue then [it] else [] := by
    rw [hh]; split <;> rfl
  have none (qs : List (Fin 32)) : qs.flatMap s.savedItems = [] := List.flatMap_eq_nil_iff.mpr fun q _ => hs q
  refine ⟨fun c hc => ?_, fun i hi => ?_⟩
  · rw [State.served, none, List.nil_append, List.filterMap_eq_flatMap_toList, flatMap_single single (nodup_turnOrder s c)]
    exact if_congr (mem_turnOrder hc) rfl rfl
  · rw [State.items, none, List.nil_append, List.mem_filterMap] at hi
    obtain ⟨q, -, e⟩ := hi
    rw [hh] at e
    split at e
    · exact (Option.some.inj e).symm
    · cases e

/-- The item is a saved unit. -/
theorem waitsFor_saved {s : State} {it : Item} (hs : ∀ q, s.savedItems q = if q = it.queue then [it] else []) (hh : ∀ q, s.headItem q = none) :
    s.waitsFor it := by
  have none (qs : List (Fin 32)) : qs.filterMap s.headItem = [] := List.filterMap_eq_nil_iff.mpr fun q _ => hh q
  refine ⟨fun c hc => ?_, fun i hi => ?_⟩
  · rw [State.served, none, List.append_nil, flatMap_single hs (nodup_turnOrder s c)]
    exact if_congr (mem_turnOrder hc) rfl rfl
  · rw [State.items, none, List.append_nil, List.mem_flatMap] at hi
    obtain ⟨q, -, e⟩ := hi
    rw [hs] at e
    split at e
    · exact List.mem_singleton.mp e
    · cases e

/-- With one item waiting, serving it moves its class's pointer past its queue, and passes nothing. -/
def State.moved (t : State) (q : Fin 32) : State :=
  { t with sch := { t.sch with pointer := vset t.sch.pointer (Fin.ofNat 4 (classOfQueue q)) ((q.val + 1) % 8) } }

theorem placedFor_eq {s : State} {it : Item} (h : s.waitsFor it) (t : State) : s.placedFor t it.queue = t.moved it.queue := by
  have none : (s.items.filter fun i => decide (classOfQueue i.queue ≤ classOfQueue it.queue) && decide (i.queue ≠ it.queue) &&
      (s.placeItem 0 i).isNone) = [] := by
    refine List.filter_eq_nil_iff.mpr fun i hi => ?_
    rw [h.2 i hi]
    simp
  unfold State.placedFor
  simp only [none, List.foldl_nil]
  rfl

/-! Classes served. -/

theorem serve_single (s : State) (choice : Nat) (it : Item) :
    s.serve choice [it] = (s.placeItem choice it).map fun t => s.placedFor t it.queue := by
  unfold State.serve
  cases s.placeItem choice it <;> rfl

theorem serveClass_idle {s : State} {c choice : Nat} (h : s.served c = []) : s.serveClass c choice = .nothing := by
  unfold State.served at h
  unfold State.serveClass
  simp only [h, List.filter_nil, List.isEmpty_nil, if_true, State.serve]

/-- The one item of a class, by whether it has been passed so often that it holds back what is below it. -/
theorem serveClass_eq {s : State} {c choice : Nat} {it : Item} (h : s.served c = [it]) :
    (∀ t, s.placeItem choice it = some t → s.serveClass c choice = .placed (s.placedFor t it.queue)) ∧
    (s.placeItem choice it = none → s.serveClass c choice = if it.urgent then .blocked else .nothing) := by
  unfold State.served at h
  unfold State.serveClass
  simp only [h]
  cases u : it.urgent <;> refine ⟨fun t e => ?_, fun e => ?_⟩ <;>
    simp only [List.filter_cons, u, List.filter_nil, List.isEmpty_nil, List.isEmpty_cons, if_true, serve_single, Bool.false_eq_true, if_false, e,
      Option.map_some, Option.map_none]

theorem preempt_none {s : State} (h : (s.turnOrder 0).filterMap s.headItem = []) : s.preempt = none := by
  unfold State.preempt
  rw [h]
  rfl

theorem served_heads {s : State} {c : Nat} (h : s.served c = []) : (s.turnOrder c).filterMap s.headItem = [] := (List.append_eq_nil_iff.mp h).2

/-- The item's class is served after those above it, which have nothing. -/
theorem serveClasses_placed {s t : State} {choice : Nat} {it : Item} (h : s.waitsFor it) (hp : s.placeItem choice it = some t) {cs : List Nat}
    (hc : ∀ c ∈ cs, c < 4) (hm : classOfQueue it.queue ∈ cs) : s.serveClasses choice cs = some (t.moved it.queue) := by
  induction cs with
  | nil => cases hm
  | cons c cs ih =>
    have served := h.1 c (hc c List.mem_cons_self)
    unfold State.serveClasses
    by_cases e : classOfQueue it.queue = c
    · rw [if_pos e] at served
      rw [(serveClass_eq served).1 t hp, placedFor_eq h]
    · rw [if_neg e] at served
      have rest := ih (fun d hd => hc d (List.mem_cons_of_mem _ hd)) ((List.mem_cons.mp hm).resolve_left e)
      rw [serveClass_idle served]
      by_cases z : c = 0
      · subst z
        simp only [if_true, preempt_none (served_heads served), rest]
      · simp only [z, if_false, rest]

/-- Nothing is placed where no class has anything it can place, and class 0 has no head. -/
theorem serveClasses_none {s : State} {choice : Nat} (hp : s.preempt = none) {cs : List Nat}
    (h : ∀ c ∈ cs, ∀ t, s.serveClass c choice ≠ .placed t) : s.serveClasses choice cs = none := by
  induction cs with
  | nil => rfl
  | cons c cs ih =>
    have rest := ih fun d hd => h d (List.mem_cons_of_mem _ hd)
    unfold State.serveClasses
    split
    · next t e => exact absurd e (h c List.mem_cons_self t)
    · rw [hp, ite_self]
    · simp only [hp, ite_self, rest]

theorem serveClasses_blocked {s : State} {choice : Nat} {it : Item} (h : s.waitsFor it) (hp : s.placeItem choice it = none)
    (hq : classOfQueue it.queue ≠ 0) {cs : List Nat} (hc : ∀ c ∈ cs, c < 4) : s.serveClasses choice cs = none := by
  refine serveClasses_none (preempt_none (served_heads (by rw [h.1 0 (by decide), if_neg hq]))) fun c hm t e => ?_
  have served := h.1 c (hc c hm)
  split at served
  · rw [(serveClass_eq served).2 hp] at e
    split at e <;> cases e
  · rw [serveClass_idle served] at e
    cases e

/-! The walker's event. -/

theorem walked_none {s : State} {choice : Nat} (h : s.serveClasses choice [0, 1, 2, 3] = none) : s.walked choice = .next { s with report := .idle } := by
  rw [State.walked, h]

theorem walked_some {s t : State} {choice : Nat} (h : s.serveClasses choice [0, 1, 2, 3] = some t) :
    s.walked choice = .next { t with report := .issued } := by
  rw [State.walked, h]

/-- With no launch and no saved task the walker does nothing. -/
theorem walkerPlace_nothing {s : State} (hl : s.sch.launches = []) (choice : Nat) : Idles (.walkerPlace choice) s := by
  have none : ∀ l ∈ s.sch.launches, False := by rw [hl]; exact fun l hm => nomatch hm
  have ready : s.readied = s := by
    rw [State.readied, State.promote_of_started fun l hm => (none l hm).elim, State.capCheck_of_kept fun l hm => (none l hm).elim]
  have saved (q : Fin 32) : s.savedItems q = [] := by rw [State.savedItems, hl]; rfl
  have head (q : Fin 32) : s.headItem q = Option.none := by
    have h : s.headOf q = Option.none := by rw [State.headOf, hl]; rfl
    rw [State.headItem, h]
  have heads (c : Nat) : (s.turnOrder c).filterMap s.headItem = [] := List.filterMap_eq_nil_iff.mpr fun q _ => head q
  have served (c : Nat) : s.served c = [] := by
    rw [State.served, heads, List.append_nil]
    exact List.flatMap_eq_nil_iff.mpr fun q _ => saved q
  rw [Idles, execWalkerPlace_eq, ready]
  exact walked_none (serveClasses_none (preempt_none (heads 0)) fun c _ t e => by rw [serveClass_idle (served c)] at e; cases e)

end Sys2Proof.Machine
end

section
/-! The walker with one plain launch: the cores it may take, the task as it starts, and O47. -/

namespace Sys2Proof.Machine

/-! The one launch. -/

/-- One plain launch is being placed, and its queue has capacity. -/
structure OneLaunch (s : State) (l : Launch) (slot : Nat) : Prop where
  only : s.sch.launches = [l]
  running : l.state = .running
  preds : l.preds = []
  gang : l.gang = false
  coRes : l.coRes = false
  slot : s.slotOf l.ctx = some slot
  capacity : 0 < s.capacity l.queue false

theorem OneLaunch.mem {s : State} {l m : Launch} {slot : Nat} (h : OneLaunch s l slot) (hm : m ∈ s.sch.launches) : m = l := by
  rw [h.only] at hm
  exact List.mem_singleton.mp hm

theorem OneLaunch.readied {s : State} {l : Launch} {slot : Nat} (h : OneLaunch s l slot) : s.readied = s := by
  have begun : s.promote = s := State.promote_of_started fun m hm => by
    rw [h.mem hm, h.running]
    exact LaunchState.noConfusion
  have kept : s.capCheck = s := State.capCheck_of_kept fun m hm => by
    rw [h.mem hm]
    have enough : ¬ s.capacity l.queue false < 1 := Nat.not_lt.mpr h.capacity
    simp only [State.capLost, h.running, h.gang, h.coRes, Bool.false_eq_true, if_false, enough, decide_false, Bool.false_and]
  rw [State.readied, begun, kept]

/-- The core may take the next unit of the launch's queue (R255). -/
def State.eligible (s : State) (l : Launch) (k : Fin 768) : Prop :=
  s.fenced k = false ∧ s.quadAllowed l.queue (quadOf k) = true ∧ (s.core k).task = none ∧
    ¬ ((vget s.quads (quadOf k)).gang = true ∧ (vget s.quads (quadOf k)).lid.isSome) ∧
    ∀ j, j.val / 4 = k.val / 4 → (∀ w ∈ (s.core j).en.mc, w.receiver ≠ k) ∧ ∀ tk, (s.core j).task = some tk → tk.lid = l.lid

theorem openCore_iff (s : State) (l : Launch) (k : Fin 768) : s.openCore l.queue l.lid k = true ↔ s.eligible l k := by
  have task (j : Fin 768) : (match (s.core j).task with | some t => t.lid == l.lid | none => true) = true ↔
      ∀ tk, (s.core j).task = some tk → tk.lid = l.lid := by
    cases (s.core j).task <;> simp
  have quad (j : Fin 768) : j ∈ quadCores (quadOf k) ↔ j.val / 4 = k.val / 4 := mem_quadCores
  unfold State.openCore State.usable State.coreFree State.eligible
  simp only [Bool.and_eq_true, Bool.not_eq_true', Core.busy, Option.isSome_eq_false_iff, Option.isNone_iff_eq_none, List.any_eq_false,
    List.all_eq_true, quad, beq_iff_eq, List.any_eq_true, Bool.and_eq_false_iff, not_and, not_exists]
  constructor
  · rintro ⟨⟨⟨⟨hf, hq⟩, hb, hm⟩, hg⟩, ht⟩
    refine ⟨hf, hq, hb, fun g => ?_, fun j hj => ⟨fun w hw => hm j hj w hw, (task j).mp (ht j hj)⟩⟩
    rcases hg with hg | hg
    · rw [hg] at g; cases g
    · rw [hg]; exact Bool.false_ne_true
  · rintro ⟨hf, hq, hb, hg, hj⟩
    refine ⟨⟨⟨⟨hf, hq⟩, hb, fun j h w hw => (hj j h).1 w hw⟩, ?_⟩, fun j h => (task j).mpr (hj j h).2⟩
    cases e : (vget s.quads (quadOf k)).gang
    · exact .inl rfl
    · have := hg e
      rw [Option.not_isSome_iff_eq_none] at this
      exact .inr this

/-! Choosing a core. -/

theorem pick_some {α : Type} {l : List α} (h : l ≠ []) (choice : Nat) : ∃ x c, pick l choice = some (x, c) ∧ x ∈ l := by
  have lt : choice % l.length < l.length := Nat.mod_lt _ (List.length_pos_iff.mpr h)
  refine ⟨l[choice % l.length], choice / l.length, ?_, List.getElem_mem lt⟩
  rw [pick, List.getElem?_eq_getElem lt]

theorem pick_of_mem {α : Type} {l : List α} {x : α} (h : x ∈ l) : ∃ choice c, pick l choice = some (x, c) := by
  obtain ⟨i, hi, rfl⟩ := List.mem_iff_getElem.mp h
  refine ⟨i, i / l.length, ?_⟩
  rw [pick, Nat.mod_eq_of_lt hi, List.getElem?_eq_getElem hi]

theorem pick_nil {α : Type} (choice : Nat) : pick ([] : List α) choice = none := rfl

/-- The cores that the next ordinal may start on. -/
def State.candidates (s : State) (l : Launch) : List (Fin 768) :=
  (List.finRange 768).filter fun k => s.openCore l.queue l.lid k && s.dieOk l l.next (dieOf k)

theorem mem_candidates {s : State} {l : Launch} {k : Fin 768} : k ∈ s.candidates l ↔ s.eligible l k ∧ s.dieOk l l.next (dieOf k) = true := by
  rw [State.candidates, List.mem_filter, Bool.and_eq_true, openCore_iff]
  exact and_iff_right (List.mem_finRange k)

/-! The next ordinal placed. -/

/-- The state after the launch's next ordinal is placed on a core. -/
def State.started (s : State) (l : Launch) (slot : Nat) (k : Fin 768) : State :=
  (s.startTask k l l.next slot).onLaunch l.lid fun x => { x with next := min x.count (x.next + 1 * 1), passed := 0 }

theorem placeNext_eq {s : State} {l : Launch} {slot : Nat} (h : OneLaunch s l slot) (choice : Nat) :
    s.placeNext l choice = (pick (s.candidates l) choice).map fun p => s.started l slot p.1 := by
  unfold State.placeNext
  simp only [h.slot, h.gang, h.coRes, Bool.false_eq_true, if_false, State.placeUnits, State.placeOne, State.candidates]
  cases pick ((List.finRange 768).filter fun k => s.openCore l.queue l.lid k && s.dieOk l l.next (dieOf k)) choice <;> rfl

theorem headItem_eq {s : State} {l : Launch} {slot : Nat} (h : OneLaunch s l slot) (hs : s.sch.saved = []) (hn : l.next < l.count) (q : Fin 32) :
    s.headItem q = if q = (Item.head l).queue then some (.head l) else none := by
  have head : s.headOf q = if q = l.queue then some l else none := by
    have test : (l.queue == q) = true ↔ q = l.queue := by rw [beq_iff_eq, eq_comm]
    rw [State.headOf, h.only, List.find?_singleton, h.running]
    simp only [decide_eq_true hn, Bool.true_or, Bool.and_true, test]
  have none : s.waiting l.lid = [] := by rw [State.waiting, hs]; rfl
  unfold State.headItem
  rw [head]
  by_cases e : q = l.queue
  · rw [if_pos e]
    simp only [h.running, h.preds, hn, h.slot, none, Option.isSome_some, and_self, if_true]
    exact (if_pos e).symm
  · rw [if_neg e]
    exact (if_neg e).symm

theorem waitsFor_next {s : State} {l : Launch} {slot : Nat} (h : OneLaunch s l slot) (hs : s.sch.saved = []) (hn : l.next < l.count) :
    s.waitsFor (.head l) := by
  refine waitsFor_head (fun q => ?_) (headItem_eq h hs hn)
  have none (lid : BitVec 16) : s.waiting lid = [] := by rw [State.waiting, hs]; rfl
  unfold State.savedItems
  simp only [none]
  exact List.filterMap_eq_nil_iff.mpr fun m _ => ite_self _

/-! The task as it starts (R13, R32, R33). -/

/-- What the walker leaves beside a core and its quad. -/
def WalkerFrame (s t : State) (k : Fin 768) : Prop :=
  t.ms = s.ms ∧ t.regs = s.regs ∧ t.lat = s.lat ∧ t.cadence = s.cadence ∧ t.agenda = s.agenda ∧
    (∀ j, j ≠ k → t.core j = s.core j) ∧ (∀ u, u ≠ quadOf k → vget t.quads u = vget s.quads u)

/-- A cluster as the task of an ordinal starts on it. -/
def StartedCluster (l : Launch) (u : Cluster) (x : Clu) : Prop :=
  u.pc = vget l.entries (cluCode x) ∧ (∀ r, u.gReg r = if r.val = 25 then BitVec.ofNat 64 (l.lid.toNat * 2 ^ 48 + l.next)
    else if 26 ≤ r.val then BitVec.ofNat 64 ((l.indices l.next).getD (r.val - 26) 0) else 0) ∧
  (∀ q, q ≠ 0 → u.pReg q = false) ∧ (∀ i, vget u.lpc i = 0) ∧ u.clb = 0 ∧ u.lgtmo = l.lgtmo ∧ u.cltmo = l.cltmo ∧
  u.priv = decide (l.ctx = 0) ∧ u.inh = false ∧ u.ended = false ∧ u.halted = false ∧ u.stopped = false ∧ u.idle = false ∧
  u.srkey = (if x = .v ∨ x = .m then l.seed else 0) ∧
  u.srctr = (if x = .v then BitVec.ofNat 64 (l.next * 2 ^ 32 + 2 ^ 31) else if x = .m then BitVec.ofNat 64 (l.next * 2 ^ 32) else 0)

theorem start_clu (k : Core) (l : Launch) (slot n : Nat) (x : Clu) :
    (k.start l l.next slot n).clu x = l.cluster l.next (k.clu x) (cluCode x) := by
  simp [Core.clu, Core.start, vget]

theorem startedCluster (l : Launch) (old : Cluster) (x : Clu) : StartedCluster l (l.cluster l.next old (cluCode x)) x := by
  have regs (r : Reg) : vget (l.regs l.next) r = if r.val = 25 then BitVec.ofNat 64 (l.lid.toNat * 2 ^ 48 + l.next)
      else if 26 ≤ r.val then BitVec.ofNat 64 ((l.indices l.next).getD (r.val - 26) 0) else 0 := by
    simp [Launch.regs, vget]
  refine ⟨rfl, fun r => ?_, fun q hq => ?_, fun i => ?_, rfl, rfl, rfl, rfl, rfl, rfl, rfl, rfl, rfl, ?_, ?_⟩
  · by_cases z : r = 0
    · subst z
      rw [if_neg (by decide), if_neg (by decide)]
      rfl
    · exact (if_neg z).trans (regs r)
  · rw [Cluster.pReg, if_neg hq]
    simp [Launch.cluster, Cluster.keep, Cluster.reset, vget]
  · simp [Launch.cluster, Cluster.keep, Cluster.reset, vget]
  · cases x <;> simp [Launch.cluster, Cluster.keep, cluCode]
  · cases x <;> simp [Launch.cluster, Cluster.keep, cluCode]

/-- The state after the next ordinal is placed on a core, and its class's pointer has moved. -/
def Started (s : State) (l : Launch) (slot : Nat) (t : State) (k : Fin 768) : Prop :=
  let c := t.core k
  WalkerFrame s t k ∧ t.plat = s.plat ∧ t.sch = { s.sch with
    launches := [{ l with next := l.next + 1, passed := 0 }], starts := s.sch.starts + 1
    pointer := vset s.sch.pointer (Fin.ofNat 4 (l.queue.val / 8)) ((l.queue.val + 1) % 8) } ∧
  c.task = some { lid := l.lid, ordinal := l.next, ctx := l.ctx, slot := slot, queue := l.queue, flags := l.flags.setWidth 4,
                  footW := l.footW, footA := l.footA, footC := l.footC, footS := l.footS, strands := l.strands, start := s.sch.starts } ∧
  c.st = Storage.reset ∧ c.en = Engines.reset ∧ c.exit = none ∧ c.term = none ∧ c.save = none ∧ c.pend = [] ∧ c.restoring = false ∧
  c.rg.aflags = 0 ∧ c.rg.pwrlvl = 0 ∧ (∀ i, vget c.rg.pmc i = 0) ∧ (∀ x, StartedCluster l (c.clu x) x) ∧
  (vget t.quads (quadOf k)).lid = some l.lid ∧ ((vget s.quads (quadOf k)).lid ≠ some l.lid → ∀ i,
    vget (vget t.quads (quadOf k)).clasps i = { count := 0, expect := 0 })

theorem Quad.enter_lid (q : Quad) (lid : BitVec 16) (gang : Bool) : (q.enter lid gang).lid = some lid := by
  unfold Quad.enter
  split
  · next h => exact h
  · rfl

theorem Quad.enter_clasps {q : Quad} {lid : BitVec 16} (h : q.lid ≠ some lid) (gang : Bool) (i : Fin 256) :
    vget (q.enter lid gang).clasps i = { count := 0, expect := 0 } := by
  rw [Quad.enter, if_neg h]
  simp [Quad.reset, vget]

theorem startTask_core (s : State) (k : Fin 768) (l : Launch) (slot : Nat) :
    (s.startTask k l l.next slot).core k = (s.core k).start l l.next slot s.sch.starts := State.setCore_core_same s k _

theorem startTask_quads (s : State) (k : Fin 768) (l : Launch) (slot : Nat) (u : Fin 192) : vget (s.startTask k l l.next slot).quads u =
    if u = quadOf k then (vget s.quads (quadOf k)).enter l.lid l.gang else vget s.quads u := vget_vset ..

theorem started_moved {s : State} {l : Launch} {slot : Nat} (h : OneLaunch s l slot) (hn : l.next < l.count) (k : Fin 768) (r : Report) :
    Started s l slot { (s.started l slot k).moved l.queue with report := r } k := by
  have core : ({ (s.started l slot k).moved l.queue with report := r } : State).core k = (s.core k).start l l.next slot s.sch.starts :=
    startTask_core s k l slot
  have quads (u : Fin 192) := startTask_quads s k l slot u
  have launches : [l].map (fun x => if x.lid = l.lid then { x with next := min x.count (x.next + 1 * 1), passed := 0 } else x) =
      [{ l with next := l.next + 1, passed := 0 }] := by
    rw [List.map_singleton, if_pos rfl, Nat.mul_one, Nat.min_eq_right hn]
  refine ⟨⟨rfl, rfl, rfl, rfl, rfl, fun j hj => State.setCore_core_ne s _ hj, fun u hu => (quads u).trans (if_neg hu)⟩, rfl, ?_, ?_⟩
  · rw [← launches, ← h.only]
    rfl
  · rw [core]
    refine ⟨rfl, rfl, rfl, rfl, rfl, rfl, rfl, rfl, rfl, rfl, fun i => ?_, fun x => ?_, ?_, fun hq i => ?_⟩
    · simp [Core.start, Core.vacate, CoreRegs.keep, CoreRegs.reset, vget]
    · rw [start_clu]
      exact startedCluster l _ x
    · exact (congrArg Quad.lid ((quads (quadOf k)).trans (if_pos rfl))).trans (Quad.enter_lid ..)
    · exact (congrArg (fun q => vget (Quad.clasps q) i) ((quads (quadOf k)).trans (if_pos rfl))).trans (Quad.enter_clasps hq _ i)

end Sys2Proof.Machine
end

section
/-! The walker with one saved task, and O47. -/

namespace Sys2Proof.Machine

/-! One saved task of the one launch. -/

/-- One task of the launch is saved, and it awaits a core by itself. -/
structure OneSaved (s : State) (l : Launch) (v : Saved) : Prop where
  only : s.sch.saved = [v]
  lid : v.lid = l.lid
  ready : v.ready = true
  unplaced : v.placed = false
  alone : v.gang = false

theorem OneSaved.waiting {s : State} {l : Launch} {v : Saved} (h : OneSaved s l v) : s.waiting l.lid = [v] := by
  have unit : s.unitOf v = [v] := by simp only [State.unitOf, h.alone, Bool.false_eq_true, if_false]
  have test : (v.lid == l.lid && s.awaits v && (s.unitOf v).all fun u => u.ready) = true := by
    rw [unit]
    simp only [State.awaits, h.lid, h.ready, h.unplaced, h.alone, BEq.rfl, List.all_cons, List.all_nil, Bool.false_and, Bool.not_false,
      Bool.and_self]
  rw [State.waiting, h.only, List.filter_cons, if_pos test, List.filter_nil]

theorem waitsFor_savedTask {s : State} {l : Launch} {slot : Nat} {v : Saved} (h : OneLaunch s l slot) (hv : OneSaved s l v) :
    s.waitsFor (.saved l.queue [v]) := by
  have unit : s.unitOf v = [v] := by simp only [State.unitOf, hv.alone, Bool.false_eq_true, if_false]
  refine waitsFor_saved (fun q => ?_) fun q => ?_
  · have own : (Item.saved l.queue [v]).queue = l.queue := rfl
    unfold State.savedItems
    rw [h.only, own]
    by_cases e : q = l.queue
    · simp only [List.filterMap_cons, List.filterMap_nil, e, ne_eq, not_true_eq_false, if_false, if_true, hv.waiting, List.foldl_nil, h.slot,
        Option.isSome_some, unit]
    · have other : ¬ l.queue = q := fun g => e g.symm
      simp only [List.filterMap_cons, List.filterMap_nil, ne_eq, other, not_false_eq_true, if_true, e, if_false]
  · unfold State.headItem
    split
    · rfl
    · next m e =>
      refine if_neg fun g => ?_
      obtain ⟨-, -, -, -, none⟩ := g
      rw [h.mem (State.headOf_mem e), hv.waiting] at none
      cases none

theorem placeSavedUnit_eq (s : State) {l : Launch} {v : Saved} (hv : OneSaved s l v) (choice : Nat) :
    s.placeItem choice (.saved l.queue [v]) =
      (pick ((List.finRange 768).filter fun k => s.openCore l.queue l.lid k) choice).map fun p => s.placeSaved v p.1 := by
  unfold State.placeItem
  simp only [State.placeSavedUnit, hv.alone, hv.lid, Bool.false_eq_true, if_false]

/-! The saved task on its new core (R355). -/

/-- The state after the saved task is placed on a core. -/
def Restored (s : State) (v : Saved) (t : State) (k : Fin 768) : Prop :=
  WalkerFrame s t k ∧ (t.core k).task = v.core.task ∧ (t.core k).st = v.core.st.within v.core.task ∧
    (t.core k).en = { v.core.en with l1 := [] } ∧ (t.core k).restoring = true ∧ (t.core k).pend = v.core.pend ∧
    t.sch.saved = [{ v with placed := true, passed := 0 }] ∧
    (∀ x, ((t.core k).clu x).g = (v.core.clu x).g ∧ ((t.core k).clu x).p = (v.core.clu x).p ∧ ((t.core k).clu x).pc = (v.core.clu x).pc) ∧
    (t.core k).rg.pwrlvl = 0 ∧ (t.core k).rg.pwrGot = [] ∧ (v.core.rg.pwrlvl = 0 → t.plat = s.plat) ∧
    (v.core.rg.pwrlvl ≠ 0 → { core := k, by_ := none, level := v.core.rg.pwrlvl } ∈ (vget t.plat.dies (dieOf k)).waiting)

theorem requestPower_waits (s : State) (r : PowerReq) : r ∈ (vget (s.requestPower r).plat.dies (dieOf r.core)).waiting := by
  unfold State.requestPower
  split
  · next h => exact List.contains_iff_mem.mp h
  · simp only [State.onDie, vget_vset_same]
    exact List.mem_append_right _ (List.mem_singleton.mpr rfl)

theorem requestPower_frame (s : State) (r : PowerReq) : s.requestPower r = { s with plat := (s.requestPower r).plat } := by
  unfold State.requestPower
  split <;> rfl

theorem adopt_clu (saved there : Core) (x : Clu) : (saved.adopt there).clu x = (saved.clu x).adopt (there.clu x) := by
  simp [Core.clu, Core.adopt, vget]

/-- A saved task placed: its core, its quad, its record, and its request for power. -/
theorem placeSaved_parts (s : State) (v : Saved) (k : Fin 768) :
    (s.placeSaved v k).core k = v.core.adopt (s.core k) ∧ WalkerFrame s (s.placeSaved v k) k ∧
    (s.placeSaved v k).sch = { s.sch with saved := s.sch.saved.map fun u => if u.slotN = v.slotN then { u with placed := true, passed := 0 } else u } ∧
    (v.core.rg.pwrlvl = 0 → (s.placeSaved v k).plat = s.plat) ∧
    (v.core.rg.pwrlvl ≠ 0 → { core := k, by_ := none, level := v.core.rg.pwrlvl } ∈ (vget (s.placeSaved v k).plat.dies (dieOf k)).waiting) := by
  obtain ⟨q, shape⟩ : ∃ q : Quad, s.placeSaved v k =
      let u : State := { s.setCore k (v.core.adopt (s.core k)) with quads := vset s.quads (quadOf k) q }
      let w := if v.core.rg.pwrlvl = 0 then u else u.requestPower { core := k, by_ := none, level := v.core.rg.pwrlvl }
      { w with sch := { w.sch with saved := w.sch.saved.map fun u => if u.slotN = v.slotN then { u with placed := true, passed := 0 } else u } } :=
    ⟨_, rfl⟩
  rw [shape]
  have core := State.setCore_core_same s k (v.core.adopt (s.core k))
  have others (j : Fin 768) (hj : j ≠ k) := State.setCore_core_ne s (v.core.adopt (s.core k)) hj
  have quads (u : Fin 192) (hu : u ≠ quadOf k) : vget (vset s.quads (quadOf k) q) u = vget s.quads u := vget_vset_ne _ _ hu
  by_cases z : v.core.rg.pwrlvl = 0
  · simp only [if_pos z]
    exact ⟨core, ⟨rfl, rfl, rfl, rfl, rfl, others, quads⟩, rfl, fun _ => rfl, fun g => absurd z g⟩
  · simp only [if_neg z]
    have asks := requestPower_waits { s.setCore k (v.core.adopt (s.core k)) with quads := vset s.quads (quadOf k) q }
      { core := k, by_ := none, level := v.core.rg.pwrlvl }
    rw [requestPower_frame] at asks ⊢
    exact ⟨core, ⟨rfl, rfl, rfl, rfl, rfl, others, quads⟩, rfl, fun g => absurd g z, fun _ => asks⟩

theorem restored_moved {s : State} {l : Launch} {v : Saved} (hv : OneSaved s l v) (k : Fin 768) (r : Report) :
    Restored s v { (s.placeSaved v k).moved l.queue with report := r } k := by
  obtain ⟨core, frame, sch, still, asks⟩ := placeSaved_parts s v k
  have at_ : ({ (s.placeSaved v k).moved l.queue with report := r } : State).core k = v.core.adopt (s.core k) := core
  have saved : (s.placeSaved v k).sch.saved = [{ v with placed := true, passed := 0 }] := by
    rw [sch, hv.only, List.map_singleton, if_pos rfl]
  refine ⟨frame, ?_⟩
  rw [at_]
  refine ⟨rfl, rfl, rfl, rfl, rfl, saved, fun x => ?_, rfl, rfl, still, asks⟩
  rw [adopt_clu]
  exact ⟨rfl, rfl, rfl⟩

/-! O47. -/

/-- The class of a queue is one that the walker serves. -/
theorem classOfQueue_mem (q : Fin 32) : classOfQueue q ∈ [0, 1, 2, 3] := by
  have := q.isLt
  simp only [classOfQueue, List.mem_cons, List.not_mem_nil, or_false]
  omega

theorem classes_lt : ∀ c ∈ [0, 1, 2, 3], c < 4 := by decide

/-- The event places what waits alone, when it can be placed. -/
theorem walkerPlace_single {s t : State} {l : Launch} {slot : Nat} {it : Item} (h : OneLaunch s l slot) (hw : s.waitsFor it) {choice : Nat}
    (hp : s.placeItem choice it = some t) : exec (.walkerPlace choice) s = .next { t.moved it.queue with report := .issued } := by
  rw [execWalkerPlace_eq, h.readied]
  exact walked_some (serveClasses_placed hw hp classes_lt (classOfQueue_mem _))

/-- Settles O47: what is readied for one launch is the state itself, one item waits there, and its class places it where a core is open. -/
theorem walkerPlacesOneUnitAtATime : Obligations.WalkerPlacesOneUnitAtATime := by
  refine ⟨fun s choice hl _ => walkerPlace_nothing hl choice, fun l ord h => indices_digits h,
    fun s choice t h k tk htk => walkerPlace_leaves h htk, fun s l slot only running preds gang coRes hslot capacity => ?_⟩
  have one : OneLaunch s l slot := ⟨only, running, preds, gang, coRes, hslot, capacity⟩
  refine ⟨fun hs hn => ⟨fun hq none choice => ?_, fun some_ choice => ?_, fun k hk hd => ?_⟩, fun v only lid ready unplaced alone some_ choice => ?_⟩
  · have waits := waitsFor_next one hs hn
    have empty : s.candidates l = [] := List.eq_nil_iff_forall_not_mem.mpr fun k hm => by
      obtain ⟨hk, hd⟩ := mem_candidates.mp hm
      rw [none k hk] at hd
      cases hd
    have unplaced : s.placeItem choice (.head l) = Option.none := by
      rw [State.placeItem, placeNext_eq one, empty, pick_nil]
      rfl
    have low : classOfQueue (Item.head l).queue ≠ 0 := by
      have own : (Item.head l).queue = l.queue := rfl
      rw [own, classOfQueue]
      omega
    rw [Idles, execWalkerPlace_eq, one.readied]
    exact walked_none (serveClasses_blocked waits unplaced low classes_lt)
  · have waits := waitsFor_next one hs hn
    obtain ⟨k, hk, hd⟩ := some_
    obtain ⟨x, c, hp, hx⟩ := pick_some (List.ne_nil_of_mem (mem_candidates.mpr ⟨hk, hd⟩)) choice
    obtain ⟨hk, hd⟩ := mem_candidates.mp hx
    have placed : s.placeItem choice (.head l) = some (s.started l slot x) := by
      rw [State.placeItem, placeNext_eq one, hp]
      rfl
    exact ⟨_, walkerPlace_single one waits placed, rfl, x, hk, hd, started_moved one hn x .issued⟩
  · have waits := waitsFor_next one hs hn
    obtain ⟨choice, c, hp⟩ := pick_of_mem (mem_candidates.mpr ⟨hk, hd⟩)
    have placed : s.placeItem choice (.head l) = some (s.started l slot k) := by
      rw [State.placeItem, placeNext_eq one, hp]
      rfl
    exact ⟨choice, _, walkerPlace_single one waits placed, rfl, started_moved one hn k .issued⟩
  · have hv : OneSaved s l v := ⟨only, lid, ready, unplaced, alone⟩
    obtain ⟨k, hk⟩ := some_
    have open_ {j : Fin 768} : j ∈ (List.finRange 768).filter (fun k => s.openCore l.queue l.lid k) ↔ s.eligible l j := by
      rw [List.mem_filter, openCore_iff]
      exact and_iff_right (List.mem_finRange j)
    obtain ⟨x, c, hp, hx⟩ := pick_some (List.ne_nil_of_mem (open_.mpr hk)) choice
    have placed : s.placeItem choice (.saved l.queue [v]) = some (s.placeSaved v x) := by
      rw [placeSavedUnit_eq s hv, hp]
      rfl
    obtain ⟨frame, rest⟩ := restored_moved hv x .issued
    exact ⟨_, walkerPlace_single one (waitsFor_savedTask one hv) placed, rfl, x, open_.mp hx, frame, rest⟩

end Sys2Proof.Machine
end

section
/-! Fields of a word that stand side by side, and the operands read from them (R49, R50). -/

namespace Sys2Proof.Machine

theorem fld_lt (w lo wd : Nat) : fld w lo wd < 2 ^ wd := Nat.mod_lt _ (Nat.two_pow_pos wd)

theorem fld_split (w lo a b : Nat) : fld w lo (a + b) = fld w lo a + 2 ^ a * fld w (lo + a) b := by
  unfold fld
  rw [Nat.pow_add 2 lo, Nat.pow_add 2 a, ← Nat.div_div_eq_div_mul, Nat.mod_mul]

/-- Values side by side from bit 0 on, lowest first, each with its width. -/
def sideBySide : List (Nat × Nat) → Nat
  | [] => 0
  | (n, v) :: l => v + 2 ^ n * sideBySide l

/-- Each value fits its width. -/
def Fits : List (Nat × Nat) → Prop
  | [] => True
  | (n, v) :: l => v < 2 ^ n ∧ Fits l

/-- The fields of a word that follow each other from a bit on hold the values. -/
def Tiles (w : Nat) : Nat → List (Nat × Nat) → Prop
  | _, [] => True
  | lo, (n, v) :: l => fld w lo n = v ∧ Tiles w (lo + n) l

theorem fld_eq_sideBySide_iff {w : Nat} {l : List (Nat × Nat)} (h : Fits l) :
    ∀ lo, fld w lo (l.map Prod.fst).sum = sideBySide l ↔ Tiles w lo l := by
  induction l with
  | nil => intro lo; simp [fld, sideBySide, Tiles, Nat.mod_one]
  | cons e l ih =>
    intro lo
    obtain ⟨n, v⟩ := e
    obtain ⟨hv, hl⟩ := h
    rw [List.map_cons, List.sum_cons, fld_split, sideBySide, Tiles, ← ih hl]
    refine ⟨fun h => ?_, fun ⟨hf, hr⟩ => by rw [hf, hr]⟩
    have low := congrArg (· % 2 ^ n) h
    simp only [Nat.add_mul_mod_self_left, Nat.mod_eq_of_lt (fld_lt ..), Nat.mod_eq_of_lt hv] at low
    exact ⟨low, Nat.eq_of_mul_eq_mul_left (Nat.two_pow_pos n) (by rw [low] at h; exact Nat.add_left_cancel h)⟩

/-- The low bits of a first word are given by the fields that they are cut into. -/
theorem low_iff {w x : Nat} (l : List (Nat × Nat)) (hs : (l.map Prod.fst).sum = 24) (hx : x = sideBySide l) (h : Fits l) :
    w % 2 ^ 24 = x ↔ Tiles w 0 l := by
  rw [hx, ← fld_eq_sideBySide_iff h, hs]
  simp [fld]

/-! An operand read from its field. -/

theorem ofNat_eq_iff {n v : Nat} [NeZero n] {x : Fin n} (h : v < n) : Fin.ofNat n v = x ↔ v = x.val := by
  rw [Fin.ext_iff, Fin.val_ofNat, Nat.mod_eq_of_lt h]

theorem ofNat32_fld (w lo : Nat) (x : Fin 32) : Fin.ofNat 32 (fld w lo 5) = x ↔ fld w lo 5 = x.val := ofNat_eq_iff (fld_lt ..)
theorem ofNat16_fld (w lo : Nat) (x : Fin 16) : Fin.ofNat 16 (fld w lo 4) = x ↔ fld w lo 4 = x.val := ofNat_eq_iff (fld_lt ..)
theorem ofNat8_fld (w lo : Nat) (x : Fin 8) : Fin.ofNat 8 (fld w lo 3) = x ↔ fld w lo 3 = x.val := ofNat_eq_iff (fld_lt ..)

theorem ofNatBv_fld (w lo n : Nat) (x : BitVec n) : BitVec.ofNat n (fld w lo n) = x ↔ fld w lo n = x.toNat := by
  rw [← BitVec.toNat_inj, BitVec.toNat_ofNat, Nat.mod_eq_of_lt (fld_lt ..)]

/-! Second words. -/

theorem longWord_lt (l : Long) {x : Nat} (h : x < 2 ^ 7) : longWord l x < 2 ^ 32 := by
  unfold longWord sl
  omega

theorem longWord_eq_iff {l : Long} {w x : Nat} (hw : w < 2 ^ 32) (hx : x < 2 ^ 7) : longWord l x = w ↔ longOf w = l ∧ fld w 0 7 = x := by
  obtain ⟨guard, wait, post, stamp⟩ := l
  have whole : fld w 0 32 = w := by rw [fld, Nat.pow_zero, Nat.div_one, Nat.mod_eq_of_lt hw]
  have sum : longWord ⟨guard, wait, post, stamp⟩ x =
      sideBySide [(7, x), (16, stamp.toNat), (3, post.toNat), (3, wait.toNat), (3, guard.val)] := by
    simp only [longWord, sl, sideBySide]
    omega
  have tiles := fld_eq_sideBySide_iff (w := w) (l := [(7, x), (16, stamp.toNat), (3, post.toNat), (3, wait.toNat), (3, guard.val)])
    ⟨hx, stamp.isLt, post.isLt, wait.isLt, guard.isLt, trivial⟩ 0
  rw [sum, eq_comm, ← whole]
  refine tiles.trans ?_
  rw [whole]
  simp only [Tiles, longOf, Long.mk.injEq, ofNat8_fld, ofNatBv_fld, Nat.reduceAdd, and_true]
  exact ⟨fun ⟨hx, hs, hp, hw, hg⟩ => ⟨⟨hg, hw, hp, hs⟩, hx⟩, fun ⟨⟨hg, hw, hp, hs⟩, hx⟩ => ⟨hx, hs, hp, hw, hg⟩⟩

theorem longOf_longWord {l : Long} {w x : Nat} (h : some (longWord l x) = some w) (hx : x < 2 ^ 7) : longOf w = l ∧ fld w 0 7 = x := by
  cases h
  exact (longWord_eq_iff (longWord_lt l hx) hx).mp rfl

/-- A value in the low bits of the seven that a second word leaves to its form. -/
theorem slot_iff {w n m : Nat} {x : BitVec n} (h : n + m = 7) :
    fld w 0 7 = x.toNat ↔ BitVec.ofNat n (fld w 0 n) = x ∧ fld w n m = 0 := by
  have tiles := fld_eq_sideBySide_iff (w := w) (l := [(n, x.toNat), (m, 0)]) ⟨x.isLt, Nat.two_pow_pos m, trivial⟩ 0
  simpa [Tiles, sideBySide, ofNatBv_fld, h] using tiles

/-- A count and an element size in a second word (R205). -/
theorem count_iff {w : Nat} {cnt : BitVec 5} {esz : BitVec 2} :
    fld w 0 7 = sl cnt.toNat 2 + esz.toNat ↔ BitVec.ofNat 5 (fld w 2 5) = cnt ∧ BitVec.ofNat 2 (fld w 0 2) = esz := by
  have tiles := fld_eq_sideBySide_iff (w := w) (l := [(2, esz.toNat), (5, cnt.toNat)]) ⟨esz.isLt, cnt.isLt, trivial⟩ 0
  have sum : sl cnt.toNat 2 + esz.toNat = sideBySide [(2, esz.toNat), (5, cnt.toNat)] := by
    simp only [sl, sideBySide]
    omega
  rw [sum]
  refine tiles.trans ?_
  simp only [Tiles, ofNatBv_fld, Nat.reduceAdd, and_true]
  exact and_comm

theorem count_lt (cnt : BitVec 5) (esz : BitVec 2) : sl cnt.toNat 2 + esz.toNat < 2 ^ 7 := by
  unfold sl
  omega

/-! What the words of an instruction hold. -/

/-- The words hold an instruction: its limits, its major, the low bits of its first word, and its second word. -/
def Holds (w0 w1 : Nat) (i : Instr) : Prop :=
  wellFormed i = true ∧ majorOf w0 = majorOfInstr i ∧ w0 % 2 ^ 24 = encodeLow i ∧
    encodeSecond i = if isLongMajor (majorOf w0) then some w1 else none

theorem second_of_short {w0 w1 m : Nat} (hm : majorOf w0 = m) (hl : isLongMajor m = false) :
    none = if isLongMajor (majorOf w0) then some w1 else none := by
  rw [hm, hl]
  rfl

theorem second_of_long {w0 w1 m x : Nat} (hm : majorOf w0 = m) (hl : isLongMajor m = true) (h : w1 < 2 ^ 32) (hx : x = fld w1 0 7) :
    some (longWord (longOf w1) x) = if isLongMajor (majorOf w0) then some w1 else none := by
  rw [hm, if_pos hl, (longWord_eq_iff h (hx ▸ fld_lt ..)).mpr ⟨rfl, hx.symm⟩]

theorem holds_of_checked {w0 w1 : Nat} {i j : Instr} (h : checked j = .ok i) (hj : wellFormed j = true → Holds w0 w1 j) :
    Holds w0 w1 i := by
  unfold checked at h
  split at h
  · next hf => cases h; exact hj hf
  · cases h

theorem holds_of_form {w0 w1 : Nat} {c : Prop} [Decidable c] {i j : Instr} {r : Except DecodeError Instr}
    (h : (if c then checked j else r) = .ok i) (hj : c → wellFormed j = true → Holds w0 w1 j) (hr : r = .ok i → Holds w0 w1 i) :
    Holds w0 w1 i := by
  split at h
  · next hc => exact holds_of_checked h (hj hc)
  · exact hr h

theorem form_skip {α : Type} {c : Prop} [Decidable c] {a r x : α} (h : ¬ c) (hr : r = x) : (if c then a else r) = x := by rw [if_neg h, hr]

theorem form_take {α : Type} {c : Prop} [Decidable c] {a r x : α} (h : c) (ha : a = x) : (if c then a else r) = x := by rw [if_pos h, ha]

end Sys2Proof.Machine
end

section
/-! The formats of first words (R51): the low bits of a word are an instruction's fields at their places when the word's fields hold the
operands and the opcode bits. -/

namespace Sys2Proof.Machine

theorem threeRegs_iff {w op : Nat} {ga gb gc : Fin 32} (ho : op < 2 ^ 9) :
    w % 2 ^ 24 = sl ga.val 19 + sl gb.val 14 + sl gc.val 9 + op ↔
      fld w 0 9 = op ∧ Fin.ofNat 32 (fld w 9 5) = gc ∧ Fin.ofNat 32 (fld w 14 5) = gb ∧ Fin.ofNat 32 (fld w 19 5) = ga := by
  refine (low_iff [(9, op), (5, gc.val), (5, gb.val), (5, ga.val)] rfl
    (by simp only [sl, sideBySide]; omega) ⟨ho, gc.isLt, gb.isLt, ga.isLt, trivial⟩).trans ?_
  simp only [Tiles, ofNat32_fld, Nat.reduceAdd, and_true]

theorem twoRegs_iff {w op : Nat} {ga gb : Fin 32} (ho : op < 2 ^ 14) :
    w % 2 ^ 24 = sl ga.val 19 + sl gb.val 14 + op ↔
      fld w 0 14 = op ∧ Fin.ofNat 32 (fld w 14 5) = gb ∧ Fin.ofNat 32 (fld w 19 5) = ga := by
  refine (low_iff [(14, op), (5, gb.val), (5, ga.val)] rfl
    (by simp only [sl, sideBySide]; omega) ⟨ho, gb.isLt, ga.isLt, trivial⟩).trans ?_
  simp only [Tiles, ofNat32_fld, Nat.reduceAdd, and_true]

theorem compare_iff {w op : Nat} {a b : Fin 32} {d : Fin 8} (ho : op < 2 ^ 9) :
    w % 2 ^ 24 = sl d.val 19 + sl a.val 14 + sl b.val 9 + op ↔
      fld w 0 9 = op ∧ Fin.ofNat 32 (fld w 9 5) = b ∧ Fin.ofNat 32 (fld w 14 5) = a ∧ Fin.ofNat 8 (fld w 19 3) = d ∧ fld w 22 2 = 0 := by
  refine (low_iff [(9, op), (5, b.val), (5, a.val), (3, d.val), (2, 0)] rfl
    (by simp only [sl, sideBySide]; omega) ⟨ho, b.isLt, a.isLt, d.isLt, (by decide), trivial⟩).trans ?_
  simp only [Tiles, ofNat32_fld, ofNat8_fld, Nat.reduceAdd, and_true]

theorem threePreds_iff {w op : Nat} {md ma mb : Fin 8} (ho : op < 2 ^ 9) :
    w % 2 ^ 24 = sl md.val 19 + sl ma.val 14 + sl mb.val 9 + op ↔
      fld w 0 9 = op ∧ Fin.ofNat 8 (fld w 9 3) = mb ∧ fld w 12 2 = 0 ∧ Fin.ofNat 8 (fld w 14 3) = ma ∧ fld w 17 2 = 0 ∧
        Fin.ofNat 8 (fld w 19 3) = md ∧ fld w 22 2 = 0 := by
  refine (low_iff [(9, op), (3, mb.val), (2, 0), (3, ma.val), (2, 0), (3, md.val), (2, 0)] rfl
    (by simp only [sl, sideBySide]; omega) ⟨ho, mb.isLt, (by decide), ma.isLt, (by decide), md.isLt, (by decide), trivial⟩).trans ?_
  simp only [Tiles, ofNat8_fld, Nat.reduceAdd, and_true]

theorem twoPreds_iff {w op : Nat} {md ma : Fin 8} (ho : op < 2 ^ 14) :
    w % 2 ^ 24 = sl md.val 19 + sl ma.val 14 + op ↔
      fld w 0 14 = op ∧ Fin.ofNat 8 (fld w 14 3) = ma ∧ fld w 17 2 = 0 ∧ Fin.ofNat 8 (fld w 19 3) = md ∧ fld w 22 2 = 0 := by
  refine (low_iff [(14, op), (3, ma.val), (2, 0), (3, md.val), (2, 0)] rfl
    (by simp only [sl, sideBySide]; omega) ⟨ho, ma.isLt, (by decide), md.isLt, (by decide), trivial⟩).trans ?_
  simp only [Tiles, ofNat8_fld, Nat.reduceAdd, and_true]

theorem regToPred_iff {w op : Nat} {a : Fin 32} {d : Fin 8} (ho : op < 2 ^ 14) :
    w % 2 ^ 24 = sl d.val 19 + sl a.val 14 + op ↔
      fld w 0 14 = op ∧ Fin.ofNat 32 (fld w 14 5) = a ∧ Fin.ofNat 8 (fld w 19 3) = d ∧ fld w 22 2 = 0 := by
  refine (low_iff [(14, op), (5, a.val), (3, d.val), (2, 0)] rfl
    (by simp only [sl, sideBySide]; omega) ⟨ho, a.isLt, d.isLt, (by decide), trivial⟩).trans ?_
  simp only [Tiles, ofNat32_fld, ofNat8_fld, Nat.reduceAdd, and_true]

theorem predToReg_iff {w op : Nat} {a : Fin 8} {d : Fin 32} (ho : op < 2 ^ 14) :
    w % 2 ^ 24 = sl d.val 19 + sl a.val 14 + op ↔
      fld w 0 14 = op ∧ Fin.ofNat 8 (fld w 14 3) = a ∧ fld w 17 2 = 0 ∧ Fin.ofNat 32 (fld w 19 5) = d := by
  refine (low_iff [(14, op), (3, a.val), (2, 0), (5, d.val)] rfl
    (by simp only [sl, sideBySide]; omega) ⟨ho, a.isLt, (by decide), d.isLt, trivial⟩).trans ?_
  simp only [Tiles, ofNat8_fld, ofNat32_fld, Nat.reduceAdd, and_true]

theorem select_iff {w op : Nat} {p : Fin 8} {d a b : Fin 32} (ho : op % 2 ^ 3 = 0 ∧ op < 2 ^ 9) :
    w % 2 ^ 24 = sl d.val 19 + sl a.val 14 + sl b.val 9 + p.val + op ↔
      Fin.ofNat 8 (fld w 0 3) = p ∧ fld w 3 6 = op / 2 ^ 3 ∧ Fin.ofNat 32 (fld w 9 5) = b ∧ Fin.ofNat 32 (fld w 14 5) = a ∧
        Fin.ofNat 32 (fld w 19 5) = d := by
  refine (low_iff [(3, p.val), (6, op / 2 ^ 3), (5, b.val), (5, a.val), (5, d.val)] rfl
    (by simp only [sl, sideBySide]; omega) ⟨p.isLt, (by omega), b.isLt, a.isLt, d.isLt, trivial⟩).trans ?_
  simp only [Tiles, ofNat8_fld, ofNat32_fld, Nat.reduceAdd, and_true]

theorem shiftedSum_iff {w : Nat} {sh : BitVec 2} {d a b : Fin 32} :
    w % 2 ^ 24 = sl d.val 19 + sl a.val 14 + sl b.val 9 + sh.toNat ↔
      BitVec.ofNat 2 (fld w 0 2) = sh ∧ fld w 2 7 = 0 ∧ Fin.ofNat 32 (fld w 9 5) = b ∧ Fin.ofNat 32 (fld w 14 5) = a ∧
        Fin.ofNat 32 (fld w 19 5) = d := by
  refine (low_iff [(2, sh.toNat), (7, 0), (5, b.val), (5, a.val), (5, d.val)] rfl
    (by simp only [sl, sideBySide]; omega) ⟨sh.isLt, (by decide), b.isLt, a.isLt, d.isLt, trivial⟩).trans ?_
  simp only [Tiles, ofNatBv_fld, ofNat32_fld, Nat.reduceAdd, and_true]

theorem regImm_iff {w : Nat} {imm : BitVec 14} {d a : Fin 32} :
    w % 2 ^ 24 = sl d.val 19 + sl a.val 14 + imm.toNat ↔
      BitVec.ofNat 14 (fld w 0 14) = imm ∧ Fin.ofNat 32 (fld w 14 5) = a ∧ Fin.ofNat 32 (fld w 19 5) = d := by
  refine (low_iff [(14, imm.toNat), (5, a.val), (5, d.val)] rfl
    (by simp only [sl, sideBySide]; omega) ⟨imm.isLt, a.isLt, d.isLt, trivial⟩).trans ?_
  simp only [Tiles, ofNatBv_fld, ofNat32_fld, Nat.reduceAdd, and_true]

theorem shiftImm_iff {w op : Nat} {n : BitVec 6} {d a : Fin 32} (ho : op % 2 ^ 6 = 0 ∧ op < 2 ^ 14) :
    w % 2 ^ 24 = sl d.val 19 + sl a.val 14 + n.toNat + op ↔
      BitVec.ofNat 6 (fld w 0 6) = n ∧ fld w 6 8 = op / 2 ^ 6 ∧ Fin.ofNat 32 (fld w 14 5) = a ∧ Fin.ofNat 32 (fld w 19 5) = d := by
  refine (low_iff [(6, n.toNat), (8, op / 2 ^ 6), (5, a.val), (5, d.val)] rfl
    (by simp only [sl, sideBySide]; omega) ⟨n.isLt, (by omega), a.isLt, d.isLt, trivial⟩).trans ?_
  simp only [Tiles, ofNatBv_fld, ofNat32_fld, Nat.reduceAdd, and_true]

theorem compareImm_iff {w op : Nat} {imm : BitVec 11} {a : Fin 32} {d : Fin 8} (ho : op % 2 ^ 11 = 0 ∧ op < 2 ^ 14) :
    w % 2 ^ 24 = sl d.val 19 + sl a.val 14 + imm.toNat + op ↔
      BitVec.ofNat 11 (fld w 0 11) = imm ∧ fld w 11 3 = op / 2 ^ 11 ∧ Fin.ofNat 32 (fld w 14 5) = a ∧ Fin.ofNat 8 (fld w 19 3) = d ∧
        fld w 22 2 = 0 := by
  refine (low_iff [(11, imm.toNat), (3, op / 2 ^ 11), (5, a.val), (3, d.val), (2, 0)] rfl
    (by simp only [sl, sideBySide]; omega) ⟨imm.isLt, (by omega), a.isLt, d.isLt, (by decide), trivial⟩).trans ?_
  simp only [Tiles, ofNatBv_fld, ofNat32_fld, ofNat8_fld, Nat.reduceAdd, and_true]

theorem loadImm_iff {w : Nat} {imm : BitVec 19} {d : Fin 32} :
    w % 2 ^ 24 = sl d.val 19 + imm.toNat ↔
      BitVec.ofNat 19 (fld w 0 19) = imm ∧ Fin.ofNat 32 (fld w 19 5) = d := by
  refine (low_iff [(19, imm.toNat), (5, d.val)] rfl
    (by simp only [sl, sideBySide]; omega) ⟨imm.isLt, d.isLt, trivial⟩).trans ?_
  simp only [Tiles, ofNatBv_fld, ofNat32_fld, Nat.reduceAdd, and_true]

theorem extendImm_iff {w : Nat} {imm : BitVec 16} {d : Fin 32} :
    w % 2 ^ 24 = sl d.val 19 + imm.toNat ↔
      BitVec.ofNat 16 (fld w 0 16) = imm ∧ fld w 16 3 = 0 ∧ Fin.ofNat 32 (fld w 19 5) = d := by
  refine (low_iff [(16, imm.toNat), (3, 0), (5, d.val)] rfl
    (by simp only [sl, sideBySide]; omega) ⟨imm.isLt, (by decide), d.isLt, trivial⟩).trans ?_
  simp only [Tiles, ofNatBv_fld, ofNat32_fld, Nat.reduceAdd, and_true]

theorem branch_iff {w : Nat} {delta : BitVec 16} {word : BitVec 4} {sense : BitVec 1} {p : Fin 8} :
    w % 2 ^ 24 = sl p.val 21 + sl sense.toNat 20 + sl word.toNat 16 + delta.toNat ↔
      BitVec.ofNat 16 (fld w 0 16) = delta ∧ BitVec.ofNat 4 (fld w 16 4) = word ∧ BitVec.ofNat 1 (fld w 20 1) = sense ∧
        Fin.ofNat 8 (fld w 21 3) = p := by
  refine (low_iff [(16, delta.toNat), (4, word.toNat), (1, sense.toNat), (3, p.val)] rfl
    (by simp only [sl, sideBySide]; omega) ⟨delta.isLt, word.isLt, sense.isLt, p.isLt, trivial⟩).trans ?_
  simp only [Tiles, ofNatBv_fld, ofNat8_fld, Nat.reduceAdd, and_true]

theorem oneSource_iff {w op : Nat} {a : Fin 32} (ho : op < 2 ^ 14) :
    w % 2 ^ 24 = sl a.val 14 + op ↔
      fld w 0 14 = op ∧ Fin.ofNat 32 (fld w 14 5) = a ∧ fld w 19 5 = 0 := by
  refine (low_iff [(14, op), (5, a.val), (5, 0)] rfl
    (by simp only [sl, sideBySide]; omega) ⟨ho, a.isLt, (by decide), trivial⟩).trans ?_
  simp only [Tiles, ofNat32_fld, Nat.reduceAdd, and_true]

theorem loopForm_iff {w : Nat} {delta : BitVec 13} {word : BitVec 4} {c : Fin 32} {lv : BitVec 2} :
    w % 2 ^ 24 = sl lv.toNat 22 + sl c.val 17 + sl word.toNat 13 + delta.toNat ↔
      BitVec.ofNat 13 (fld w 0 13) = delta ∧ BitVec.ofNat 4 (fld w 13 4) = word ∧ Fin.ofNat 32 (fld w 17 5) = c ∧
        BitVec.ofNat 2 (fld w 22 2) = lv := by
  refine (low_iff [(13, delta.toNat), (4, word.toNat), (5, c.val), (2, lv.toNat)] rfl
    (by simp only [sl, sideBySide]; omega) ⟨delta.isLt, word.isLt, c.isLt, lv.isLt, trivial⟩).trans ?_
  simp only [Tiles, ofNatBv_fld, ofNat32_fld, Nat.reduceAdd, and_true]

theorem specialReg_iff {w : Nat} {n : BitVec 12} {s : Fin 32} :
    w % 2 ^ 24 = sl s.val 19 + n.toNat ↔
      BitVec.ofNat 12 (fld w 0 12) = n ∧ fld w 12 7 = 0 ∧ Fin.ofNat 32 (fld w 19 5) = s := by
  refine (low_iff [(12, n.toNat), (7, 0), (5, s.val)] rfl
    (by simp only [sl, sideBySide]; omega) ⟨n.isLt, (by decide), s.isLt, trivial⟩).trans ?_
  simp only [Tiles, ofNatBv_fld, ofNat32_fld, Nat.reduceAdd, and_true]

theorem shapeForm_iff {w : Nat} {rows : BitVec 6} {cols : BitVec 7} {ty : BitVec 4} {t : Fin 16} :
    w % 2 ^ 24 = sl t.val 20 + sl ty.toNat 16 + sl cols.toNat 7 + rows.toNat ↔
      BitVec.ofNat 6 (fld w 0 6) = rows ∧ fld w 6 1 = 0 ∧ BitVec.ofNat 7 (fld w 7 7) = cols ∧ fld w 14 2 = 0 ∧
        BitVec.ofNat 4 (fld w 16 4) = ty ∧ Fin.ofNat 16 (fld w 20 4) = t := by
  refine (low_iff [(6, rows.toNat), (1, 0), (7, cols.toNat), (2, 0), (4, ty.toNat), (4, t.val)] rfl
    (by simp only [sl, sideBySide]; omega) ⟨rows.isLt, (by decide), cols.isLt, (by decide), ty.isLt, t.isLt, trivial⟩).trans ?_
  simp only [Tiles, ofNatBv_fld, ofNat16_fld, Nat.reduceAdd, and_true]

theorem trapForm_iff {w : Nat} {code : BitVec 10} :
    w % 2 ^ 24 = sl code.toNat 9 ↔
      fld w 0 9 = 0 ∧ BitVec.ofNat 10 (fld w 9 10) = code ∧ fld w 19 5 = 0 := by
  refine (low_iff [(9, 0), (10, code.toNat), (5, 0)] rfl
    (by simp only [sl, sideBySide]; omega) ⟨(by decide), code.isLt, (by decide), trivial⟩).trans ?_
  simp only [Tiles, ofNatBv_fld, Nat.reduceAdd, and_true]

theorem bare_iff {w op : Nat} (ho : op < 2 ^ 24) :
    w % 2 ^ 24 = op ↔
      fld w 0 24 = op := by
  refine (low_iff [(24, op)] rfl
    (by simp only [sideBySide]; omega) ⟨ho, trivial⟩).trans ?_
  simp only [Tiles, and_true]

theorem loadForm_iff {w : Nat} {off : BitVec 11} {ty : BitVec 3} {d a : Fin 32} :
    w % 2 ^ 24 = sl d.val 19 + sl a.val 14 + sl ty.toNat 11 + off.toNat ↔
      BitVec.ofNat 11 (fld w 0 11) = off ∧ BitVec.ofNat 3 (fld w 11 3) = ty ∧ Fin.ofNat 32 (fld w 14 5) = a ∧
        Fin.ofNat 32 (fld w 19 5) = d := by
  refine (low_iff [(11, off.toNat), (3, ty.toNat), (5, a.val), (5, d.val)] rfl
    (by simp only [sl, sideBySide]; omega) ⟨off.isLt, ty.isLt, a.isLt, d.isLt, trivial⟩).trans ?_
  simp only [Tiles, ofNatBv_fld, ofNat32_fld, Nat.reduceAdd, and_true]

theorem storeForm_iff {w : Nat} {off : BitVec 12} {sz : BitVec 2} {s a : Fin 32} :
    w % 2 ^ 24 = sl s.val 19 + sl a.val 14 + sl sz.toNat 12 + off.toNat ↔
      BitVec.ofNat 12 (fld w 0 12) = off ∧ BitVec.ofNat 2 (fld w 12 2) = sz ∧ Fin.ofNat 32 (fld w 14 5) = a ∧
        Fin.ofNat 32 (fld w 19 5) = s := by
  refine (low_iff [(12, off.toNat), (2, sz.toNat), (5, a.val), (5, s.val)] rfl
    (by simp only [sl, sideBySide]; omega) ⟨off.isLt, sz.isLt, a.isLt, s.isLt, trivial⟩).trans ?_
  simp only [Tiles, ofNatBv_fld, ofNat32_fld, Nat.reduceAdd, and_true]

theorem acquireForm_iff {w : Nat} {sg : BitVec 1} {scope sz : BitVec 2} {d a : Fin 32} :
    w % 2 ^ 24 = sl d.val 19 + sl a.val 14 + sl scope.toNat 5 + sl sz.toNat 3 + sl sg.toNat 2 ↔
      fld w 0 2 = 0 ∧ BitVec.ofNat 1 (fld w 2 1) = sg ∧ BitVec.ofNat 2 (fld w 3 2) = sz ∧ BitVec.ofNat 2 (fld w 5 2) = scope ∧
        fld w 7 7 = 0 ∧ Fin.ofNat 32 (fld w 14 5) = a ∧ Fin.ofNat 32 (fld w 19 5) = d := by
  refine (low_iff [(2, 0), (1, sg.toNat), (2, sz.toNat), (2, scope.toNat), (7, 0), (5, a.val), (5, d.val)] rfl
    (by simp only [sl, sideBySide]; omega) ⟨(by decide), sg.isLt, sz.isLt, scope.isLt, (by decide), a.isLt, d.isLt, trivial⟩).trans ?_
  simp only [Tiles, ofNatBv_fld, ofNat32_fld, Nat.reduceAdd, and_true]

theorem releaseForm_iff {w op : Nat} {scope sz : BitVec 2} {a b : Fin 32} (ho : op % 2 ^ 7 = 0 ∧ op < 2 ^ 9) :
    w % 2 ^ 24 = sl a.val 14 + sl b.val 9 + sl scope.toNat 5 + sl sz.toNat 3 + op ↔
      fld w 0 3 = 0 ∧ BitVec.ofNat 2 (fld w 3 2) = sz ∧ BitVec.ofNat 2 (fld w 5 2) = scope ∧ fld w 7 2 = op / 2 ^ 7 ∧
        Fin.ofNat 32 (fld w 9 5) = b ∧ Fin.ofNat 32 (fld w 14 5) = a ∧ fld w 19 5 = 0 := by
  refine (low_iff [(3, 0), (2, sz.toNat), (2, scope.toNat), (2, op / 2 ^ 7), (5, b.val), (5, a.val), (5, 0)] rfl
    (by simp only [sl, sideBySide]; omega) ⟨(by decide), sz.isLt, scope.isLt, (by omega), b.isLt, a.isLt, (by decide), trivial⟩).trans ?_
  simp only [Tiles, ofNatBv_fld, ofNat32_fld, Nat.reduceAdd, and_true]

theorem fenceForm_iff {w op : Nat} {scope : BitVec 2} (ho : op % 2 ^ 4 = 0 ∧ op < 2 ^ 24) :
    w % 2 ^ 24 = sl scope.toNat 2 + op ↔
      fld w 0 2 = 0 ∧ BitVec.ofNat 2 (fld w 2 2) = scope ∧ fld w 4 20 = op / 2 ^ 4 := by
  refine (low_iff [(2, 0), (2, scope.toNat), (20, op / 2 ^ 4)] rfl
    (by simp only [sl, sideBySide]; omega) ⟨(by decide), scope.isLt, (by omega), trivial⟩).trans ?_
  simp only [Tiles, ofNatBv_fld, Nat.reduceAdd, and_true]

theorem twoSources_iff {w op : Nat} {a b : Fin 32} (ho : op < 2 ^ 9) :
    w % 2 ^ 24 = sl a.val 14 + sl b.val 9 + op ↔
      fld w 0 9 = op ∧ Fin.ofNat 32 (fld w 9 5) = b ∧ Fin.ofNat 32 (fld w 14 5) = a ∧ fld w 19 5 = 0 := by
  refine (low_iff [(9, op), (5, b.val), (5, a.val), (5, 0)] rfl
    (by simp only [sl, sideBySide]; omega) ⟨ho, b.isLt, a.isLt, (by decide), trivial⟩).trans ?_
  simp only [Tiles, ofNat32_fld, Nat.reduceAdd, and_true]

theorem atomic_iff {w op : Nat} {order scope : BitVec 2} {sz : BitVec 1} {d a b : Fin 32} (ho : op % 2 ^ 5 = 0 ∧ op < 2 ^ 9) :
    w % 2 ^ 24 = sl d.val 19 + sl a.val 14 + sl b.val 9 + sl sz.toNat 4 + sl order.toNat 2 + scope.toNat + op ↔
      BitVec.ofNat 2 (fld w 0 2) = scope ∧ BitVec.ofNat 2 (fld w 2 2) = order ∧ BitVec.ofNat 1 (fld w 4 1) = sz ∧
        fld w 5 4 = op / 2 ^ 5 ∧ Fin.ofNat 32 (fld w 9 5) = b ∧ Fin.ofNat 32 (fld w 14 5) = a ∧ Fin.ofNat 32 (fld w 19 5) = d := by
  refine (low_iff [(2, scope.toNat), (2, order.toNat), (1, sz.toNat), (4, op / 2 ^ 5), (5, b.val), (5, a.val), (5, d.val)] rfl
    (by simp only [sl, sideBySide]; omega) ⟨scope.isLt, order.isLt, sz.isLt, (by omega), b.isLt, a.isLt, d.isLt, trivial⟩).trans ?_
  simp only [Tiles, ofNatBv_fld, ofNat32_fld, Nat.reduceAdd, and_true]

theorem floatAtomic_iff {w op : Nat} {order scope : BitVec 2} {d a b : Fin 32} (ho : op % 2 ^ 4 = 0 ∧ op < 2 ^ 9) :
    w % 2 ^ 24 = sl d.val 19 + sl a.val 14 + sl b.val 9 + sl order.toNat 2 + scope.toNat + op ↔
      BitVec.ofNat 2 (fld w 0 2) = scope ∧ BitVec.ofNat 2 (fld w 2 2) = order ∧ fld w 4 5 = op / 2 ^ 4 ∧
        Fin.ofNat 32 (fld w 9 5) = b ∧ Fin.ofNat 32 (fld w 14 5) = a ∧ Fin.ofNat 32 (fld w 19 5) = d := by
  refine (low_iff [(2, scope.toNat), (2, order.toNat), (5, op / 2 ^ 4), (5, b.val), (5, a.val), (5, d.val)] rfl
    (by simp only [sl, sideBySide]; omega) ⟨scope.isLt, order.isLt, (by omega), b.isLt, a.isLt, d.isLt, trivial⟩).trans ?_
  simp only [Tiles, ofNatBv_fld, ofNat32_fld, Nat.reduceAdd, and_true]

theorem waitSet_iff {w : Nat} {set : BitVec 3} :
    w % 2 ^ 24 = sl set.toNat 3 ↔
      fld w 0 3 = 0 ∧ BitVec.ofNat 3 (fld w 3 3) = set ∧ fld w 6 18 = 0 := by
  refine (low_iff [(3, 0), (3, set.toNat), (18, 0)] rfl
    (by simp only [sl, sideBySide]; omega) ⟨(by decide), set.isLt, (by decide), trivial⟩).trans ?_
  simp only [Tiles, ofNatBv_fld, Nat.reduceAdd, and_true]

theorem postSet_iff {w op : Nat} {set : BitVec 3} (ho : op % 2 ^ 3 = 0 ∧ op < 2 ^ 24) :
    w % 2 ^ 24 = set.toNat + op ↔
      BitVec.ofNat 3 (fld w 0 3) = set ∧ fld w 3 21 = op / 2 ^ 3 := by
  refine (low_iff [(3, set.toNat), (21, op / 2 ^ 3)] rfl
    (by simp only [sideBySide]; omega) ⟨set.isLt, (by omega), trivial⟩).trans ?_
  simp only [Tiles, ofNatBv_fld, Nat.reduceAdd, and_true]

theorem pushForm_iff {w op : Nat} {q : BitVec 3} {a : Fin 32} (ho : op % 2 ^ 3 = 0 ∧ op < 2 ^ 14) :
    w % 2 ^ 24 = sl a.val 14 + q.toNat + op ↔
      BitVec.ofNat 3 (fld w 0 3) = q ∧ fld w 3 11 = op / 2 ^ 3 ∧ Fin.ofNat 32 (fld w 14 5) = a ∧ fld w 19 5 = 0 := by
  refine (low_iff [(3, q.toNat), (11, op / 2 ^ 3), (5, a.val), (5, 0)] rfl
    (by simp only [sl, sideBySide]; omega) ⟨q.isLt, (by omega), a.isLt, (by decide), trivial⟩).trans ?_
  simp only [Tiles, ofNatBv_fld, ofNat32_fld, Nat.reduceAdd, and_true]

theorem popForm_iff {w op : Nat} {q : BitVec 3} {d : Fin 32} (ho : op % 2 ^ 3 = 0 ∧ op < 2 ^ 19) :
    w % 2 ^ 24 = sl d.val 19 + q.toNat + op ↔
      BitVec.ofNat 3 (fld w 0 3) = q ∧ fld w 3 16 = op / 2 ^ 3 ∧ Fin.ofNat 32 (fld w 19 5) = d := by
  refine (low_iff [(3, q.toNat), (16, op / 2 ^ 3), (5, d.val)] rfl
    (by simp only [sl, sideBySide]; omega) ⟨q.isLt, (by omega), d.isLt, trivial⟩).trans ?_
  simp only [Tiles, ofNatBv_fld, ofNat32_fld, Nat.reduceAdd, and_true]

theorem stageToReg_iff {w op : Nat} {st : BitVec 4} {d : Fin 32} (ho : op % 2 ^ 4 = 0 ∧ op < 2 ^ 19) :
    w % 2 ^ 24 = sl d.val 19 + st.toNat + op ↔
      BitVec.ofNat 4 (fld w 0 4) = st ∧ fld w 4 15 = op / 2 ^ 4 ∧ Fin.ofNat 32 (fld w 19 5) = d := by
  refine (low_iff [(4, st.toNat), (15, op / 2 ^ 4), (5, d.val)] rfl
    (by simp only [sl, sideBySide]; omega) ⟨st.isLt, (by omega), d.isLt, trivial⟩).trans ?_
  simp only [Tiles, ofNatBv_fld, ofNat32_fld, Nat.reduceAdd, and_true]

theorem regToStage_iff {w op : Nat} {st : BitVec 4} {a : Fin 32} (ho : op % 2 ^ 4 = 0 ∧ op < 2 ^ 14) :
    w % 2 ^ 24 = sl a.val 14 + st.toNat + op ↔
      BitVec.ofNat 4 (fld w 0 4) = st ∧ fld w 4 10 = op / 2 ^ 4 ∧ Fin.ofNat 32 (fld w 14 5) = a ∧ fld w 19 5 = 0 := by
  refine (low_iff [(4, st.toNat), (10, op / 2 ^ 4), (5, a.val), (5, 0)] rfl
    (by simp only [sl, sideBySide]; omega) ⟨st.isLt, (by omega), a.isLt, (by decide), trivial⟩).trans ?_
  simp only [Tiles, ofNatBv_fld, ofNat32_fld, Nat.reduceAdd, and_true]

theorem claspOne_iff {w op : Nat} {rel : BitVec 1} {a : Fin 32} (ho : op % 2 ^ 6 = 0 ∧ op < 2 ^ 14) :
    w % 2 ^ 24 = sl a.val 14 + sl rel.toNat 5 + op ↔
      fld w 0 5 = 0 ∧ BitVec.ofNat 1 (fld w 5 1) = rel ∧ fld w 6 8 = op / 2 ^ 6 ∧ Fin.ofNat 32 (fld w 14 5) = a ∧ fld w 19 5 = 0 := by
  refine (low_iff [(5, 0), (1, rel.toNat), (8, op / 2 ^ 6), (5, a.val), (5, 0)] rfl
    (by simp only [sl, sideBySide]; omega) ⟨(by decide), rel.isLt, (by omega), a.isLt, (by decide), trivial⟩).trans ?_
  simp only [Tiles, ofNatBv_fld, ofNat32_fld, Nat.reduceAdd, and_true]

theorem claspTwo_iff {w op : Nat} {rel : BitVec 1} {a b : Fin 32} (ho : op % 2 ^ 6 = 0 ∧ op < 2 ^ 9) :
    w % 2 ^ 24 = sl a.val 14 + sl b.val 9 + sl rel.toNat 5 + op ↔
      fld w 0 5 = 0 ∧ BitVec.ofNat 1 (fld w 5 1) = rel ∧ fld w 6 3 = op / 2 ^ 6 ∧ Fin.ofNat 32 (fld w 9 5) = b ∧
        Fin.ofNat 32 (fld w 14 5) = a ∧ fld w 19 5 = 0 := by
  refine (low_iff [(5, 0), (1, rel.toNat), (3, op / 2 ^ 6), (5, b.val), (5, a.val), (5, 0)] rfl
    (by simp only [sl, sideBySide]; omega) ⟨(by decide), rel.isLt, (by omega), b.isLt, a.isLt, (by decide), trivial⟩).trans ?_
  simp only [Tiles, ofNatBv_fld, ofNat32_fld, Nat.reduceAdd, and_true]

theorem toReg_iff {w op : Nat} {d : Fin 32} (ho : op < 2 ^ 19) :
    w % 2 ^ 24 = sl d.val 19 + op ↔
      fld w 0 19 = op ∧ Fin.ofNat 32 (fld w 19 5) = d := by
  refine (low_iff [(19, op), (5, d.val)] rfl
    (by simp only [sl, sideBySide]; omega) ⟨ho, d.isLt, trivial⟩).trans ?_
  simp only [Tiles, ofNat32_fld, Nat.reduceAdd, and_true]

theorem powerForm_iff {w : Nat} {lv : BitVec 8} :
    w % 2 ^ 24 = lv.toNat ↔
      BitVec.ofNat 8 (fld w 0 8) = lv ∧ fld w 8 16 = 0 := by
  refine (low_iff [(8, lv.toNat), (16, 0)] rfl
    (by simp only [sideBySide]; omega) ⟨lv.isLt, (by decide), trivial⟩).trans ?_
  simp only [Tiles, ofNatBv_fld, Nat.reduceAdd, and_true]

theorem sequence_iff {w op : Nat} {ch : BitVec 3} {ga gb : Fin 32} (ho : op < 2 ^ 6) :
    w % 2 ^ 24 = sl ga.val 19 + sl gb.val 14 + sl ch.toNat 6 + op ↔
      fld w 0 6 = op ∧ BitVec.ofNat 3 (fld w 6 3) = ch ∧ fld w 9 5 = 0 ∧ Fin.ofNat 32 (fld w 14 5) = gb ∧
        Fin.ofNat 32 (fld w 19 5) = ga := by
  refine (low_iff [(6, op), (3, ch.toNat), (5, 0), (5, gb.val), (5, ga.val)] rfl
    (by simp only [sl, sideBySide]; omega) ⟨ho, ch.isLt, (by decide), gb.isLt, ga.isLt, trivial⟩).trans ?_
  simp only [Tiles, ofNatBv_fld, ofNat32_fld, Nat.reduceAdd, and_true]

theorem copyForm_iff {w op : Nat} {ch : BitVec 3} {ga gb gc : Fin 32} (ho : op < 2 ^ 6) :
    w % 2 ^ 24 = sl ga.val 19 + sl gb.val 14 + sl gc.val 9 + sl ch.toNat 6 + op ↔
      fld w 0 6 = op ∧ BitVec.ofNat 3 (fld w 6 3) = ch ∧ Fin.ofNat 32 (fld w 9 5) = gc ∧ Fin.ofNat 32 (fld w 14 5) = gb ∧
        Fin.ofNat 32 (fld w 19 5) = ga := by
  refine (low_iff [(6, op), (3, ch.toNat), (5, gc.val), (5, gb.val), (5, ga.val)] rfl
    (by simp only [sl, sideBySide]; omega) ⟨ho, ch.isLt, gc.isLt, gb.isLt, ga.isLt, trivial⟩).trans ?_
  simp only [Tiles, ofNatBv_fld, ofNat32_fld, Nat.reduceAdd, and_true]

theorem channelReg_iff {w op : Nat} {ch : BitVec 3} {ga : Fin 32} (ho : op < 2 ^ 6) :
    w % 2 ^ 24 = sl ga.val 19 + sl ch.toNat 6 + op ↔
      fld w 0 6 = op ∧ BitVec.ofNat 3 (fld w 6 3) = ch ∧ fld w 9 10 = 0 ∧ Fin.ofNat 32 (fld w 19 5) = ga := by
  refine (low_iff [(6, op), (3, ch.toNat), (10, 0), (5, ga.val)] rfl
    (by simp only [sl, sideBySide]; omega) ⟨ho, ch.isLt, (by decide), ga.isLt, trivial⟩).trans ?_
  simp only [Tiles, ofNatBv_fld, ofNat32_fld, Nat.reduceAdd, and_true]

theorem channelOnly_iff {w op : Nat} {ch : BitVec 3} (ho : op < 2 ^ 6) :
    w % 2 ^ 24 = sl ch.toNat 6 + op ↔
      fld w 0 6 = op ∧ BitVec.ofNat 3 (fld w 6 3) = ch ∧ fld w 9 15 = 0 := by
  refine (low_iff [(6, op), (3, ch.toNat), (15, 0)] rfl
    (by simp only [sl, sideBySide]; omega) ⟨ho, ch.isLt, (by decide), trivial⟩).trans ?_
  simp only [Tiles, ofNatBv_fld, Nat.reduceAdd, and_true]

theorem lanes_iff {w op : Nat} {ty : BitVec 2} {mk : Fin 8} {vd va vb : Fin 32} (ho : op < 2 ^ 4) :
    w % 2 ^ 24 = sl vd.val 19 + sl va.val 14 + sl vb.val 9 + sl mk.val 6 + sl ty.toNat 4 + op ↔
      fld w 0 4 = op ∧ BitVec.ofNat 2 (fld w 4 2) = ty ∧ Fin.ofNat 8 (fld w 6 3) = mk ∧ Fin.ofNat 32 (fld w 9 5) = vb ∧
        Fin.ofNat 32 (fld w 14 5) = va ∧ Fin.ofNat 32 (fld w 19 5) = vd := by
  refine (low_iff [(4, op), (2, ty.toNat), (3, mk.val), (5, vb.val), (5, va.val), (5, vd.val)] rfl
    (by simp only [sl, sideBySide]; omega) ⟨ho, ty.isLt, mk.isLt, vb.isLt, va.isLt, vd.isLt, trivial⟩).trans ?_
  simp only [Tiles, ofNatBv_fld, ofNat8_fld, ofNat32_fld, Nat.reduceAdd, and_true]

theorem laneCompare_iff {w op : Nat} {ty : BitVec 2} {md mk : Fin 8} {va vb : Fin 32} (ho : op < 2 ^ 4) :
    w % 2 ^ 24 = sl md.val 19 + sl va.val 14 + sl vb.val 9 + sl mk.val 6 + sl ty.toNat 4 + op ↔
      fld w 0 4 = op ∧ BitVec.ofNat 2 (fld w 4 2) = ty ∧ Fin.ofNat 8 (fld w 6 3) = mk ∧ Fin.ofNat 32 (fld w 9 5) = vb ∧
        Fin.ofNat 32 (fld w 14 5) = va ∧ Fin.ofNat 8 (fld w 19 3) = md ∧ fld w 22 2 = 0 := by
  refine (low_iff [(4, op), (2, ty.toNat), (3, mk.val), (5, vb.val), (5, va.val), (3, md.val), (2, 0)] rfl
    (by simp only [sl, sideBySide]; omega) ⟨ho, ty.isLt, mk.isLt, vb.isLt, va.isLt, md.isLt, (by decide), trivial⟩).trans ?_
  simp only [Tiles, ofNatBv_fld, ofNat8_fld, ofNat32_fld, Nat.reduceAdd, and_true]

theorem masked_iff {w op : Nat} {mk : Fin 8} {vd va vb : Fin 32} (ho : op < 2 ^ 6) :
    w % 2 ^ 24 = sl vd.val 19 + sl va.val 14 + sl vb.val 9 + sl mk.val 6 + op ↔
      fld w 0 6 = op ∧ Fin.ofNat 8 (fld w 6 3) = mk ∧ Fin.ofNat 32 (fld w 9 5) = vb ∧ Fin.ofNat 32 (fld w 14 5) = va ∧
        Fin.ofNat 32 (fld w 19 5) = vd := by
  refine (low_iff [(6, op), (3, mk.val), (5, vb.val), (5, va.val), (5, vd.val)] rfl
    (by simp only [sl, sideBySide]; omega) ⟨ho, mk.isLt, vb.isLt, va.isLt, vd.isLt, trivial⟩).trans ?_
  simp only [Tiles, ofNat8_fld, ofNat32_fld, Nat.reduceAdd, and_true]

theorem broadcast_iff {w op : Nat} {mk : Fin 8} {sz : BitVec 2} {vd a : Fin 32} (ho : op < 2 ^ 6) :
    w % 2 ^ 24 = sl vd.val 19 + sl a.val 14 + sl sz.toNat 9 + sl mk.val 6 + op ↔
      fld w 0 6 = op ∧ Fin.ofNat 8 (fld w 6 3) = mk ∧ BitVec.ofNat 2 (fld w 9 2) = sz ∧ fld w 11 3 = 0 ∧
        Fin.ofNat 32 (fld w 14 5) = a ∧ Fin.ofNat 32 (fld w 19 5) = vd := by
  refine (low_iff [(6, op), (3, mk.val), (2, sz.toNat), (3, 0), (5, a.val), (5, vd.val)] rfl
    (by simp only [sl, sideBySide]; omega) ⟨ho, mk.isLt, sz.isLt, (by decide), a.isLt, vd.isLt, trivial⟩).trans ?_
  simp only [Tiles, ofNat8_fld, ofNatBv_fld, ofNat32_fld, Nat.reduceAdd, and_true]

theorem maskedUnary_iff {w op : Nat} {mk : Fin 8} {vd va : Fin 32} (ho : op < 2 ^ 6) :
    w % 2 ^ 24 = sl vd.val 19 + sl va.val 14 + sl mk.val 6 + op ↔
      fld w 0 6 = op ∧ Fin.ofNat 8 (fld w 6 3) = mk ∧ fld w 9 5 = 0 ∧ Fin.ofNat 32 (fld w 14 5) = va ∧ Fin.ofNat 32 (fld w 19 5) = vd := by
  refine (low_iff [(6, op), (3, mk.val), (5, 0), (5, va.val), (5, vd.val)] rfl
    (by simp only [sl, sideBySide]; omega) ⟨ho, mk.isLt, (by decide), va.isLt, vd.isLt, trivial⟩).trans ?_
  simp only [Tiles, ofNat8_fld, ofNat32_fld, Nat.reduceAdd, and_true]

theorem laneRead_iff {w op : Nat} {lane : BitVec 4} {d va : Fin 32} (ho : op < 2 ^ 9) :
    w % 2 ^ 24 = sl d.val 19 + sl va.val 14 + sl lane.toNat 9 + op ↔
      fld w 0 9 = op ∧ BitVec.ofNat 4 (fld w 9 4) = lane ∧ fld w 13 1 = 0 ∧ Fin.ofNat 32 (fld w 14 5) = va ∧
        Fin.ofNat 32 (fld w 19 5) = d := by
  refine (low_iff [(9, op), (4, lane.toNat), (1, 0), (5, va.val), (5, d.val)] rfl
    (by simp only [sl, sideBySide]; omega) ⟨ho, lane.isLt, (by decide), va.isLt, d.isLt, trivial⟩).trans ?_
  simp only [Tiles, ofNatBv_fld, ofNat32_fld, Nat.reduceAdd, and_true]

theorem laneUnary_iff {w op : Nat} {ty : BitVec 2} {mk : Fin 8} {vd va : Fin 32} (ho : op < 2 ^ 4) :
    w % 2 ^ 24 = sl vd.val 19 + sl va.val 14 + sl mk.val 6 + sl ty.toNat 4 + op ↔
      fld w 0 4 = op ∧ BitVec.ofNat 2 (fld w 4 2) = ty ∧ Fin.ofNat 8 (fld w 6 3) = mk ∧ fld w 9 5 = 0 ∧
        Fin.ofNat 32 (fld w 14 5) = va ∧ Fin.ofNat 32 (fld w 19 5) = vd := by
  refine (low_iff [(4, op), (2, ty.toNat), (3, mk.val), (5, 0), (5, va.val), (5, vd.val)] rfl
    (by simp only [sl, sideBySide]; omega) ⟨ho, ty.isLt, mk.isLt, (by decide), va.isLt, vd.isLt, trivial⟩).trans ?_
  simp only [Tiles, ofNatBv_fld, ofNat8_fld, ofNat32_fld, Nat.reduceAdd, and_true]

theorem conversion_iff {w : Nat} {mk : Fin 8} {sa : BitVec 1} {rm : BitVec 2} {dt st : BitVec 4} {vd va : Fin 32} :
    w % 2 ^ 24 = sl vd.val 19 + sl va.val 14 + sl dt.toNat 10 + sl st.toNat 6 + sl rm.toNat 4 + sl sa.toNat 3 + mk.val ↔
      Fin.ofNat 8 (fld w 0 3) = mk ∧ BitVec.ofNat 1 (fld w 3 1) = sa ∧ BitVec.ofNat 2 (fld w 4 2) = rm ∧
        BitVec.ofNat 4 (fld w 6 4) = st ∧ BitVec.ofNat 4 (fld w 10 4) = dt ∧ Fin.ofNat 32 (fld w 14 5) = va ∧
        Fin.ofNat 32 (fld w 19 5) = vd := by
  refine (low_iff [(3, mk.val), (1, sa.toNat), (2, rm.toNat), (4, st.toNat), (4, dt.toNat), (5, va.val), (5, vd.val)] rfl
    (by simp only [sl, sideBySide]; omega) ⟨mk.isLt, sa.isLt, rm.isLt, st.isLt, dt.isLt, va.isLt, vd.isLt, trivial⟩).trans ?_
  simp only [Tiles, ofNat8_fld, ofNatBv_fld, ofNat32_fld, Nat.reduceAdd, and_true]

theorem vectorMemory_iff {w op : Nat} {mk : Fin 8} {v a : Fin 32} (ho : op % 2 ^ 6 = 0 ∧ op < 2 ^ 14) :
    w % 2 ^ 24 = sl v.val 19 + sl a.val 14 + sl mk.val 3 + op ↔
      fld w 0 3 = 0 ∧ Fin.ofNat 8 (fld w 3 3) = mk ∧ fld w 6 8 = op / 2 ^ 6 ∧ Fin.ofNat 32 (fld w 14 5) = a ∧
        Fin.ofNat 32 (fld w 19 5) = v := by
  refine (low_iff [(3, 0), (3, mk.val), (8, op / 2 ^ 6), (5, a.val), (5, v.val)] rfl
    (by simp only [sl, sideBySide]; omega) ⟨(by decide), mk.isLt, (by omega), a.isLt, v.isLt, trivial⟩).trans ?_
  simp only [Tiles, ofNat8_fld, ofNat32_fld, Nat.reduceAdd, and_true]

theorem vectorQueue_iff {w op : Nat} {mk : Fin 8} {v : Fin 32} (ho : op % 2 ^ 6 = 0 ∧ op < 2 ^ 19) :
    w % 2 ^ 24 = sl v.val 19 + sl mk.val 3 + op ↔
      fld w 0 3 = 0 ∧ Fin.ofNat 8 (fld w 3 3) = mk ∧ fld w 6 13 = op / 2 ^ 6 ∧ Fin.ofNat 32 (fld w 19 5) = v := by
  refine (low_iff [(3, 0), (3, mk.val), (13, op / 2 ^ 6), (5, v.val)] rfl
    (by simp only [sl, sideBySide]; omega) ⟨(by decide), mk.isLt, (by omega), v.isLt, trivial⟩).trans ?_
  simp only [Tiles, ofNat8_fld, ofNat32_fld, Nat.reduceAdd, and_true]

theorem formatForm_iff {w : Nat} {g : Fin 32} :
    w % 2 ^ 24 = sl g.val 5 ↔
      fld w 0 5 = 0 ∧ Fin.ofNat 32 (fld w 5 5) = g ∧ fld w 10 14 = 0 := by
  refine (low_iff [(5, 0), (5, g.val), (14, 0)] rfl
    (by simp only [sl, sideBySide]; omega) ⟨(by decide), g.isLt, (by decide), trivial⟩).trans ?_
  simp only [Tiles, ofNat32_fld, Nat.reduceAdd, and_true]

theorem tileMemory_iff {w op : Nat} {g : Fin 32} {ta : Fin 16} (ho : op < 2 ^ 5) :
    w % 2 ^ 24 = sl ta.val 20 + sl g.val 5 + op ↔
      fld w 0 5 = op ∧ Fin.ofNat 32 (fld w 5 5) = g ∧ fld w 10 10 = 0 ∧ Fin.ofNat 16 (fld w 20 4) = ta := by
  refine (low_iff [(5, op), (5, g.val), (10, 0), (4, ta.val)] rfl
    (by simp only [sl, sideBySide]; omega) ⟨ho, g.isLt, (by decide), ta.isLt, trivial⟩).trans ?_
  simp only [Tiles, ofNat32_fld, ofNat16_fld, Nat.reduceAdd, and_true]

theorem tileOnly_iff {w op : Nat} {ta : Fin 16} (ho : op < 2 ^ 20) :
    w % 2 ^ 24 = sl ta.val 20 + op ↔
      fld w 0 20 = op ∧ Fin.ofNat 16 (fld w 20 4) = ta := by
  refine (low_iff [(20, op), (4, ta.val)] rfl
    (by simp only [sl, sideBySide]; omega) ⟨ho, ta.isLt, trivial⟩).trans ?_
  simp only [Tiles, ofNat16_fld, Nat.reduceAdd, and_true]

theorem tilePair_iff {w op : Nat} {ta tb : Fin 16} (ho : op < 2 ^ 16) :
    w % 2 ^ 24 = sl ta.val 20 + sl tb.val 16 + op ↔
      fld w 0 16 = op ∧ Fin.ofNat 16 (fld w 16 4) = tb ∧ Fin.ofNat 16 (fld w 20 4) = ta := by
  refine (low_iff [(16, op), (4, tb.val), (4, ta.val)] rfl
    (by simp only [sl, sideBySide]; omega) ⟨ho, tb.isLt, ta.isLt, trivial⟩).trans ?_
  simp only [Tiles, ofNat16_fld, Nat.reduceAdd, and_true]

theorem tileConversion_iff {w op : Nat} {rm : BitVec 2} {ta tb : Fin 16} (ho : op < 2 ^ 3) :
    w % 2 ^ 24 = sl ta.val 20 + sl tb.val 16 + sl rm.toNat 3 + op ↔
      fld w 0 3 = op ∧ BitVec.ofNat 2 (fld w 3 2) = rm ∧ fld w 5 11 = 0 ∧ Fin.ofNat 16 (fld w 16 4) = tb ∧
        Fin.ofNat 16 (fld w 20 4) = ta := by
  refine (low_iff [(3, op), (2, rm.toNat), (11, 0), (4, tb.val), (4, ta.val)] rfl
    (by simp only [sl, sideBySide]; omega) ⟨ho, rm.isLt, (by decide), tb.isLt, ta.isLt, trivial⟩).trans ?_
  simp only [Tiles, ofNatBv_fld, ofNat16_fld, Nat.reduceAdd, and_true]

theorem product_iff {w : Nat} {acc : BitVec 6} {ta tb : Fin 16} :
    w % 2 ^ 24 = sl ta.val 20 + sl tb.val 16 + sl acc.toNat 10 ↔
      fld w 0 10 = 0 ∧ BitVec.ofNat 6 (fld w 10 6) = acc ∧ Fin.ofNat 16 (fld w 16 4) = tb ∧ Fin.ofNat 16 (fld w 20 4) = ta := by
  refine (low_iff [(10, 0), (6, acc.toNat), (4, tb.val), (4, ta.val)] rfl
    (by simp only [sl, sideBySide]; omega) ⟨(by decide), acc.isLt, tb.isLt, ta.isLt, trivial⟩).trans ?_
  simp only [Tiles, ofNatBv_fld, ofNat16_fld, Nat.reduceAdd, and_true]

theorem scaledProduct_iff {w : Nat} {g : Fin 32} {acc : BitVec 6} {ta tb : Fin 16} :
    w % 2 ^ 24 = sl ta.val 20 + sl tb.val 16 + sl acc.toNat 10 + sl g.val 5 ↔
      fld w 0 5 = 0 ∧ Fin.ofNat 32 (fld w 5 5) = g ∧ BitVec.ofNat 6 (fld w 10 6) = acc ∧ Fin.ofNat 16 (fld w 16 4) = tb ∧
        Fin.ofNat 16 (fld w 20 4) = ta := by
  refine (low_iff [(5, 0), (5, g.val), (6, acc.toNat), (4, tb.val), (4, ta.val)] rfl
    (by simp only [sl, sideBySide]; omega) ⟨(by decide), g.isLt, acc.isLt, tb.isLt, ta.isLt, trivial⟩).trans ?_
  simp only [Tiles, ofNat32_fld, ofNatBv_fld, ofNat16_fld, Nat.reduceAdd, and_true]

theorem drain_iff {w : Nat} {g : Fin 32} {acc : BitVec 6} :
    w % 2 ^ 24 = sl acc.toNat 10 + sl g.val 5 ↔
      fld w 0 5 = 0 ∧ Fin.ofNat 32 (fld w 5 5) = g ∧ BitVec.ofNat 6 (fld w 10 6) = acc ∧ fld w 16 8 = 0 := by
  refine (low_iff [(5, 0), (5, g.val), (6, acc.toNat), (8, 0)] rfl
    (by simp only [sl, sideBySide]; omega) ⟨(by decide), g.isLt, acc.isLt, (by decide), trivial⟩).trans ?_
  simp only [Tiles, ofNat32_fld, ofNatBv_fld, Nat.reduceAdd, and_true]

theorem drainAdd_iff {w op : Nat} {k : BitVec 1} {g : Fin 32} {acc : BitVec 6} (ho : op < 2 ^ 4) :
    w % 2 ^ 24 = sl acc.toNat 10 + sl g.val 5 + sl k.toNat 4 + op ↔
      fld w 0 4 = op ∧ BitVec.ofNat 1 (fld w 4 1) = k ∧ Fin.ofNat 32 (fld w 5 5) = g ∧ BitVec.ofNat 6 (fld w 10 6) = acc ∧
        fld w 16 8 = 0 := by
  refine (low_iff [(4, op), (1, k.toNat), (5, g.val), (6, acc.toNat), (8, 0)] rfl
    (by simp only [sl, sideBySide]; omega) ⟨ho, k.isLt, g.isLt, acc.isLt, (by decide), trivial⟩).trans ?_
  simp only [Tiles, ofNatBv_fld, ofNat32_fld, Nat.reduceAdd, and_true]

theorem accOnly_iff {w op : Nat} {acc : BitVec 6} (ho : op < 2 ^ 10) :
    w % 2 ^ 24 = sl acc.toNat 10 + op ↔
      fld w 0 10 = op ∧ BitVec.ofNat 6 (fld w 10 6) = acc ∧ fld w 16 8 = 0 := by
  refine (low_iff [(10, op), (6, acc.toNat), (8, 0)] rfl
    (by simp only [sl, sideBySide]; omega) ⟨ho, acc.isLt, (by decide), trivial⟩).trans ?_
  simp only [Tiles, ofNatBv_fld, Nat.reduceAdd, and_true]

end Sys2Proof.Machine
end

section
/-! The instruction of decodable words holds their fields, major by major (R54 to R82). -/

namespace Sys2Proof.Machine

theorem decode_at_01 {w0 w1 : Nat} (h : majorOf w0 = 0x01) : decode w0 w1 = decode01 w0 := by rw [decode, h]; rfl
theorem decode_at_02 {w0 w1 : Nat} (h : majorOf w0 = 0x02) : decode w0 w1 = decode02 w0 := by rw [decode, h]; rfl
theorem decode_at_03 {w0 w1 : Nat} (h : majorOf w0 = 0x03) : decode w0 w1 = decode03 w0 := by rw [decode, h]; rfl
theorem decode_at_04 {w0 w1 : Nat} (h : majorOf w0 = 0x04) : decode w0 w1 = decode04 w0 := by rw [decode, h]; rfl
theorem decode_at_05 {w0 w1 : Nat} (h : majorOf w0 = 0x05) : decode w0 w1 = decode05 w0 := by rw [decode, h]; rfl
theorem decode_at_06 {w0 w1 : Nat} (h : majorOf w0 = 0x06) : decode w0 w1 = decode06 w0 := by rw [decode, h]; rfl
theorem decode_at_08 {w0 w1 : Nat} (h : majorOf w0 = 0x08) : decode w0 w1 = decode08 w0 := by rw [decode, h]; rfl
theorem decode_at_09 {w0 w1 : Nat} (h : majorOf w0 = 0x09) : decode w0 w1 = decode09 w0 := by rw [decode, h]; rfl
theorem decode_at_0A {w0 w1 : Nat} (h : majorOf w0 = 0x0A) : decode w0 w1 = decode0A w0 := by rw [decode, h]; rfl
theorem decode_at_0B {w0 w1 : Nat} (h : majorOf w0 = 0x0B) : decode w0 w1 = decode0B w0 := by rw [decode, h]; rfl
theorem decode_at_0C {w0 w1 : Nat} (h : majorOf w0 = 0x0C) : decode w0 w1 = decode0C w0 := by rw [decode, h]; rfl
theorem decode_at_0D {w0 w1 : Nat} (h : majorOf w0 = 0x0D) : decode w0 w1 = decode0D w0 := by rw [decode, h]; rfl
theorem decode_at_0E {w0 w1 : Nat} (h : majorOf w0 = 0x0E) : decode w0 w1 = decode0E w0 := by rw [decode, h]; rfl
theorem decode_at_0F {w0 w1 : Nat} (h : majorOf w0 = 0x0F) : decode w0 w1 = decode0F w0 := by rw [decode, h]; rfl
theorem decode_at_10 {w0 w1 : Nat} (h : majorOf w0 = 0x10) : decode w0 w1 = decode10 w0 := by rw [decode, h]; rfl
theorem decode_at_11 {w0 w1 : Nat} (h : majorOf w0 = 0x11) : decode w0 w1 = decode11 w0 := by rw [decode, h]; rfl
theorem decode_at_12 {w0 w1 : Nat} (h : majorOf w0 = 0x12) : decode w0 w1 = decode12 w0 := by rw [decode, h]; rfl
theorem decode_at_13 {w0 w1 : Nat} (h : majorOf w0 = 0x13) : decode w0 w1 = decode13 w0 := by rw [decode, h]; rfl
theorem decode_at_14 {w0 w1 : Nat} (h : majorOf w0 = 0x14) : decode w0 w1 = decode14 w0 := by rw [decode, h]; rfl
theorem decode_at_15 {w0 w1 : Nat} (h : majorOf w0 = 0x15) : decode w0 w1 = decode15 w0 := by rw [decode, h]; rfl
theorem decode_at_16 {w0 w1 : Nat} (h : majorOf w0 = 0x16) : decode w0 w1 = decode16 w0 := by rw [decode, h]; rfl
theorem decode_at_17 {w0 w1 : Nat} (h : majorOf w0 = 0x17) : decode w0 w1 = decode17 w0 := by rw [decode, h]; rfl
theorem decode_at_18 {w0 w1 : Nat} (h : majorOf w0 = 0x18) : decode w0 w1 = decode18 w0 := by rw [decode, h]; rfl
theorem decode_at_19 {w0 w1 : Nat} (h : majorOf w0 = 0x19) : decode w0 w1 = decode19 w0 := by rw [decode, h]; rfl
theorem decode_at_1A {w0 w1 : Nat} (h : majorOf w0 = 0x1A) : decode w0 w1 = decode1A w0 := by rw [decode, h]; rfl
theorem decode_at_1B {w0 w1 : Nat} (h : majorOf w0 = 0x1B) : decode w0 w1 = decode1B w0 := by rw [decode, h]; rfl
theorem decode_at_1C {w0 w1 : Nat} (h : majorOf w0 = 0x1C) : decode w0 w1 = decode1C w0 := by rw [decode, h]; rfl
theorem decode_at_1D {w0 w1 : Nat} (h : majorOf w0 = 0x1D) : decode w0 w1 = decode1D w0 := by rw [decode, h]; rfl
theorem decode_at_20 {w0 w1 : Nat} (h : majorOf w0 = 0x20) : decode w0 w1 = decode20 w0 := by rw [decode, h]; rfl
theorem decode_at_21 {w0 w1 : Nat} (h : majorOf w0 = 0x21) : decode w0 w1 = decode21 w0 := by rw [decode, h]; rfl
theorem decode_at_22 {w0 w1 : Nat} (h : majorOf w0 = 0x22) : decode w0 w1 = decode22 w0 := by rw [decode, h]; rfl
theorem decode_at_23 {w0 w1 : Nat} (h : majorOf w0 = 0x23) : decode w0 w1 = decode23 w0 := by rw [decode, h]; rfl
theorem decode_at_24 {w0 w1 : Nat} (h : majorOf w0 = 0x24) : decode w0 w1 = decode24 w0 := by rw [decode, h]; rfl
theorem decode_at_25 {w0 w1 : Nat} (h : majorOf w0 = 0x25) : decode w0 w1 = decode25 w0 := by rw [decode, h]; rfl
theorem decode_at_28 {w0 w1 : Nat} (h : majorOf w0 = 0x28) : decode w0 w1 = decode28 w0 w1 := by rw [decode, h]; rfl
theorem decode_at_29 {w0 w1 : Nat} (h : majorOf w0 = 0x29) : decode w0 w1 = decode29 w0 w1 := by rw [decode, h]; rfl
theorem decode_at_2A {w0 w1 : Nat} (h : majorOf w0 = 0x2A) : decode w0 w1 = decode2A w0 w1 := by rw [decode, h]; rfl
theorem decode_at_2B {w0 w1 : Nat} (h : majorOf w0 = 0x2B) : decode w0 w1 = decode2B w0 w1 := by rw [decode, h]; rfl
theorem decode_at_2C {w0 w1 : Nat} (h : majorOf w0 = 0x2C) : decode w0 w1 = decode2C w0 w1 := by rw [decode, h]; rfl
theorem decode_at_2D {w0 w1 : Nat} (h : majorOf w0 = 0x2D) : decode w0 w1 = decode2D w0 w1 := by rw [decode, h]; rfl
theorem decode_at_2E {w0 w1 : Nat} (h : majorOf w0 = 0x2E) : decode w0 w1 = decode2E w0 w1 := by rw [decode, h]; rfl
theorem decode_at_2F {w0 w1 : Nat} (h : majorOf w0 = 0x2F) : decode w0 w1 = decode2F w0 w1 := by rw [decode, h]; rfl
theorem decode_at_30 {w0 w1 : Nat} (h : majorOf w0 = 0x30) : decode w0 w1 = decode30 w0 := by rw [decode, h]; rfl
theorem decode_at_31 {w0 w1 : Nat} (h : majorOf w0 = 0x31) : decode w0 w1 = decode31 w0 := by rw [decode, h]; rfl
theorem decode_at_32 {w0 w1 : Nat} (h : majorOf w0 = 0x32) : decode w0 w1 = decode32 w0 := by rw [decode, h]; rfl
theorem decode_at_33 {w0 w1 : Nat} (h : majorOf w0 = 0x33) : decode w0 w1 = decode33 w0 := by rw [decode, h]; rfl
theorem decode_at_34 {w0 w1 : Nat} (h : majorOf w0 = 0x34) : decode w0 w1 = decode34 w0 := by rw [decode, h]; rfl
theorem decode_at_35 {w0 w1 : Nat} (h : majorOf w0 = 0x35) : decode w0 w1 = decode35 w0 := by rw [decode, h]; rfl
theorem decode_at_36 {w0 w1 : Nat} (h : majorOf w0 = 0x36) : decode w0 w1 = decode36 w0 w1 := by rw [decode, h]; rfl
theorem decode_at_38 {w0 w1 : Nat} (h : majorOf w0 = 0x38) : decode w0 w1 = decode38 w0 w1 := by rw [decode, h]; rfl
theorem decode_at_39 {w0 w1 : Nat} (h : majorOf w0 = 0x39) : decode w0 w1 = decode39 w0 w1 := by rw [decode, h]; rfl
theorem decode_at_3A {w0 w1 : Nat} (h : majorOf w0 = 0x3A) : decode w0 w1 = decode3A w0 w1 := by rw [decode, h]; rfl
theorem decode_at_3B {w0 w1 : Nat} (h : majorOf w0 = 0x3B) : decode w0 w1 = decode3B w0 w1 := by rw [decode, h]; rfl
theorem decode_at_3C {w0 w1 : Nat} (h : majorOf w0 = 0x3C) : decode w0 w1 = decode3C w0 w1 := by rw [decode, h]; rfl
theorem decode_at_3D {w0 w1 : Nat} (h : majorOf w0 = 0x3D) : decode w0 w1 = decode3D w0 w1 := by rw [decode, h]; rfl
theorem decode_at_3E {w0 w1 : Nat} (h : majorOf w0 = 0x3E) : decode w0 w1 = decode3E w0 w1 := by rw [decode, h]; rfl

theorem holds_of_decode01 {w0 w1 : Nat} {i : Instr} (hm : majorOf w0 = 0x01)
    (h : decode01 w0 = .ok i) : Holds w0 w1 i := by
  unfold decode01 at h
  refine holds_of_form h
    (fun f0 hf => ⟨hf, hm, ((threeRegs_iff (by decide)).mpr ⟨f0, rfl, rfl, rfl⟩).trans (Nat.add_zero _), second_of_short hm rfl⟩) fun h => ?_
  iterate 15
    refine holds_of_form h (fun f0 hf => ⟨hf, hm, (threeRegs_iff (by decide)).mpr ⟨f0, rfl, rfl, rfl⟩, second_of_short hm rfl⟩) fun h => ?_
  cases h

theorem holds_of_decode02 {w0 w1 : Nat} {i : Instr} (hm : majorOf w0 = 0x02)
    (h : decode02 w0 = .ok i) : Holds w0 w1 i := by
  unfold decode02 at h
  refine holds_of_form h
    (fun f0 hf => ⟨hf, hm, ((threeRegs_iff (by decide)).mpr ⟨f0, rfl, rfl, rfl⟩).trans (Nat.add_zero _), second_of_short hm rfl⟩) fun h => ?_
  iterate 9
    refine holds_of_form h (fun f0 hf => ⟨hf, hm, (threeRegs_iff (by decide)).mpr ⟨f0, rfl, rfl, rfl⟩, second_of_short hm rfl⟩) fun h => ?_
  cases h

theorem holds_of_decode03 {w0 w1 : Nat} {i : Instr} (hm : majorOf w0 = 0x03)
    (h : decode03 w0 = .ok i) : Holds w0 w1 i := by
  unfold decode03 at h
  refine holds_of_form h
    (fun f0 hf => ⟨hf, hm, ((twoRegs_iff (by decide)).mpr ⟨f0, rfl, rfl⟩).trans (Nat.add_zero _), second_of_short hm rfl⟩) fun h => ?_
  iterate 10
    refine holds_of_form h (fun f0 hf => ⟨hf, hm, (twoRegs_iff (by decide)).mpr ⟨f0, rfl, rfl⟩, second_of_short hm rfl⟩) fun h => ?_
  cases h

theorem holds_of_decode04 {w0 w1 : Nat} {i : Instr} (hm : majorOf w0 = 0x04)
    (h : decode04 w0 = .ok i) : Holds w0 w1 i := by
  unfold decode04 at h
  refine holds_of_form h
    (fun ⟨f0, f22⟩ hf => ⟨hf, hm, ((compare_iff (by decide)).mpr ⟨f0, rfl, rfl, rfl, f22⟩).trans (Nat.add_zero _), second_of_short hm rfl⟩) fun h => ?_
  iterate 6
    refine holds_of_form h
      (fun ⟨f0, f22⟩ hf => ⟨hf, hm, (compare_iff (by decide)).mpr ⟨f0, rfl, rfl, rfl, f22⟩, second_of_short hm rfl⟩) fun h => ?_
  cases h

theorem holds_of_decode05 {w0 w1 : Nat} {i : Instr} (hm : majorOf w0 = 0x05)
    (h : decode05 w0 = .ok i) : Holds w0 w1 i := by
  unfold decode05 at h
  refine holds_of_form h
    (fun ⟨f0, f12, f17, f22⟩ hf => ⟨hf, hm, ((threePreds_iff (by decide)).mpr ⟨f0, rfl, f12, rfl, f17, rfl, f22⟩).trans (Nat.add_zero _), second_of_short hm rfl⟩) fun h => ?_
  iterate 3
    refine holds_of_form h
      (fun ⟨f0, f12, f17, f22⟩ hf => ⟨hf, hm, (threePreds_iff (by decide)).mpr ⟨f0, rfl, f12, rfl, f17, rfl, f22⟩, second_of_short hm rfl⟩) fun h => ?_
  refine holds_of_form h
    (fun ⟨f0, f17, f22⟩ hf => ⟨hf, hm, (twoPreds_iff (by decide)).mpr ⟨f0, rfl, f17, rfl, f22⟩, second_of_short hm rfl⟩) fun h => ?_
  refine holds_of_form h
    (fun ⟨f0, f22⟩ hf => ⟨hf, hm, (regToPred_iff (by decide)).mpr ⟨f0, rfl, rfl, f22⟩, second_of_short hm rfl⟩) fun h => ?_
  refine holds_of_form h
    (fun ⟨f0, f17⟩ hf => ⟨hf, hm, (predToReg_iff (by decide)).mpr ⟨f0, rfl, f17, rfl⟩, second_of_short hm rfl⟩) fun h => ?_
  refine holds_of_form h (fun f3 hf => ⟨hf, hm, (select_iff (by decide)).mpr ⟨rfl, f3, rfl, rfl, rfl⟩, second_of_short hm rfl⟩) fun h => ?_
  cases h

theorem holds_of_decode06 {w0 w1 : Nat} {i : Instr} (hm : majorOf w0 = 0x06)
    (h : decode06 w0 = .ok i) : Holds w0 w1 i := by
  unfold decode06 at h
  refine holds_of_form h (fun f2 hf => ⟨hf, hm, shiftedSum_iff.mpr ⟨rfl, f2, rfl, rfl, rfl⟩, second_of_short hm rfl⟩) fun h => ?_
  refine holds_of_form h (fun f0 hf => ⟨hf, hm, (threeRegs_iff (by decide)).mpr ⟨f0, rfl, rfl, rfl⟩, second_of_short hm rfl⟩) fun h => ?_
  cases h

theorem holds_of_decode08 {w0 w1 : Nat} {i : Instr} (hm : majorOf w0 = 0x08)
    (h : decode08 w0 = .ok i) : Holds w0 w1 i := by
  unfold decode08 at h
  exact holds_of_checked h fun hf => ⟨hf, hm, regImm_iff.mpr ⟨rfl, rfl, rfl⟩, second_of_short hm rfl⟩

theorem holds_of_decode09 {w0 w1 : Nat} {i : Instr} (hm : majorOf w0 = 0x09)
    (h : decode09 w0 = .ok i) : Holds w0 w1 i := by
  unfold decode09 at h
  exact holds_of_checked h fun hf => ⟨hf, hm, regImm_iff.mpr ⟨rfl, rfl, rfl⟩, second_of_short hm rfl⟩

theorem holds_of_decode0A {w0 w1 : Nat} {i : Instr} (hm : majorOf w0 = 0x0A)
    (h : decode0A w0 = .ok i) : Holds w0 w1 i := by
  unfold decode0A at h
  exact holds_of_checked h fun hf => ⟨hf, hm, regImm_iff.mpr ⟨rfl, rfl, rfl⟩, second_of_short hm rfl⟩

theorem holds_of_decode0B {w0 w1 : Nat} {i : Instr} (hm : majorOf w0 = 0x0B)
    (h : decode0B w0 = .ok i) : Holds w0 w1 i := by
  unfold decode0B at h
  exact holds_of_checked h fun hf => ⟨hf, hm, regImm_iff.mpr ⟨rfl, rfl, rfl⟩, second_of_short hm rfl⟩

theorem holds_of_decode0C {w0 w1 : Nat} {i : Instr} (hm : majorOf w0 = 0x0C)
    (h : decode0C w0 = .ok i) : Holds w0 w1 i := by
  unfold decode0C at h
  refine holds_of_form h
    (fun f6 hf => ⟨hf, hm, ((shiftImm_iff (by decide)).mpr ⟨rfl, f6, rfl, rfl⟩).trans (Nat.add_zero _), second_of_short hm rfl⟩) fun h => ?_
  iterate 3
    refine holds_of_form h (fun f6 hf => ⟨hf, hm, (shiftImm_iff (by decide)).mpr ⟨rfl, f6, rfl, rfl⟩, second_of_short hm rfl⟩) fun h => ?_
  cases h

theorem holds_of_decode0D {w0 w1 : Nat} {i : Instr} (hm : majorOf w0 = 0x0D)
    (h : decode0D w0 = .ok i) : Holds w0 w1 i := by
  unfold decode0D at h
  refine holds_of_form h
    (fun ⟨f11, f22⟩ hf => ⟨hf, hm, ((compareImm_iff (by decide)).mpr ⟨rfl, f11, rfl, rfl, f22⟩).trans (Nat.add_zero _), second_of_short hm rfl⟩) fun h => ?_
  iterate 7
    refine holds_of_form h
      (fun ⟨f11, f22⟩ hf => ⟨hf, hm, (compareImm_iff (by decide)).mpr ⟨rfl, f11, rfl, rfl, f22⟩, second_of_short hm rfl⟩) fun h => ?_
  cases h

theorem holds_of_decode0E {w0 w1 : Nat} {i : Instr} (hm : majorOf w0 = 0x0E)
    (h : decode0E w0 = .ok i) : Holds w0 w1 i := by
  unfold decode0E at h
  exact holds_of_checked h fun hf => ⟨hf, hm, loadImm_iff.mpr ⟨rfl, rfl⟩, second_of_short hm rfl⟩

theorem holds_of_decode0F {w0 w1 : Nat} {i : Instr} (hm : majorOf w0 = 0x0F)
    (h : decode0F w0 = .ok i) : Holds w0 w1 i := by
  unfold decode0F at h
  refine holds_of_form h (fun f16 hf => ⟨hf, hm, extendImm_iff.mpr ⟨rfl, f16, rfl⟩, second_of_short hm rfl⟩) fun h => ?_
  cases h

theorem holds_of_decode10 {w0 w1 : Nat} {i : Instr} (hm : majorOf w0 = 0x10)
    (h : decode10 w0 = .ok i) : Holds w0 w1 i := by
  unfold decode10 at h
  exact holds_of_checked h fun hf => ⟨hf, hm, branch_iff.mpr ⟨rfl, rfl, rfl, rfl⟩, second_of_short hm rfl⟩

theorem holds_of_decode11 {w0 w1 : Nat} {i : Instr} (hm : majorOf w0 = 0x11)
    (h : decode11 w0 = .ok i) : Holds w0 w1 i := by
  unfold decode11 at h
  exact holds_of_checked h fun hf => ⟨hf, hm, branch_iff.mpr ⟨rfl, rfl, rfl, rfl⟩, second_of_short hm rfl⟩

theorem holds_of_decode12 {w0 w1 : Nat} {i : Instr} (hm : majorOf w0 = 0x12)
    (h : decode12 w0 = .ok i) : Holds w0 w1 i := by
  unfold decode12 at h
  refine holds_of_form h
    (fun ⟨f0, f19⟩ hf => ⟨hf, hm, ((oneSource_iff (by decide)).mpr ⟨f0, rfl, f19⟩).trans (Nat.add_zero _), second_of_short hm rfl⟩) fun h => ?_
  refine holds_of_form h (fun f0 hf => ⟨hf, hm, (twoRegs_iff (by decide)).mpr ⟨f0, rfl, rfl⟩, second_of_short hm rfl⟩) fun h => ?_
  cases h

theorem holds_of_decode13 {w0 w1 : Nat} {i : Instr} (hm : majorOf w0 = 0x13)
    (h : decode13 w0 = .ok i) : Holds w0 w1 i := by
  unfold decode13 at h
  exact holds_of_checked h fun hf => ⟨hf, hm, loopForm_iff.mpr ⟨rfl, rfl, rfl, rfl⟩, second_of_short hm rfl⟩

theorem holds_of_decode14 {w0 w1 : Nat} {i : Instr} (hm : majorOf w0 = 0x14)
    (h : decode14 w0 = .ok i) : Holds w0 w1 i := by
  unfold decode14 at h
  refine holds_of_form h (fun f12 hf => ⟨hf, hm, specialReg_iff.mpr ⟨rfl, f12, rfl⟩, second_of_short hm rfl⟩) fun h => ?_
  cases h

theorem holds_of_decode15 {w0 w1 : Nat} {i : Instr} (hm : majorOf w0 = 0x15)
    (h : decode15 w0 = .ok i) : Holds w0 w1 i := by
  unfold decode15 at h
  refine holds_of_form h (fun f12 hf => ⟨hf, hm, specialReg_iff.mpr ⟨rfl, f12, rfl⟩, second_of_short hm rfl⟩) fun h => ?_
  cases h

theorem holds_of_decode16 {w0 w1 : Nat} {i : Instr} (hm : majorOf w0 = 0x16)
    (h : decode16 w0 = .ok i) : Holds w0 w1 i := by
  unfold decode16 at h
  refine holds_of_form h (fun ⟨f6, f14⟩ hf => ⟨hf, hm, shapeForm_iff.mpr ⟨rfl, f6, rfl, f14, rfl, rfl⟩, second_of_short hm rfl⟩) fun h => ?_
  cases h

theorem holds_of_decode17 {w0 w1 : Nat} {i : Instr} (hm : majorOf w0 = 0x17)
    (h : decode17 w0 = .ok i) : Holds w0 w1 i := by
  unfold decode17 at h
  refine holds_of_form h (fun ⟨f0, f19⟩ hf => ⟨hf, hm, trapForm_iff.mpr ⟨f0, rfl, f19⟩, second_of_short hm rfl⟩) fun h => ?_
  iterate 3
    refine holds_of_form h (fun f0 hf => ⟨hf, hm, (bare_iff (by decide)).mpr f0, second_of_short hm rfl⟩) fun h => ?_
  cases h

theorem holds_of_decode18 {w0 w1 : Nat} {i : Instr} (hm : majorOf w0 = 0x18)
    (h : decode18 w0 = .ok i) : Holds w0 w1 i := by
  unfold decode18 at h
  exact holds_of_checked h fun hf => ⟨hf, hm, loadForm_iff.mpr ⟨rfl, rfl, rfl, rfl⟩, second_of_short hm rfl⟩

theorem holds_of_decode19 {w0 w1 : Nat} {i : Instr} (hm : majorOf w0 = 0x19)
    (h : decode19 w0 = .ok i) : Holds w0 w1 i := by
  unfold decode19 at h
  exact holds_of_checked h fun hf => ⟨hf, hm, storeForm_iff.mpr ⟨rfl, rfl, rfl, rfl⟩, second_of_short hm rfl⟩

theorem holds_of_decode1A {w0 w1 : Nat} {i : Instr} (hm : majorOf w0 = 0x1A)
    (h : decode1A w0 = .ok i) : Holds w0 w1 i := by
  unfold decode1A at h
  refine holds_of_form h
    (fun ⟨f0, f7⟩ hf => ⟨hf, hm, acquireForm_iff.mpr ⟨f0, rfl, rfl, rfl, f7, rfl, rfl⟩, second_of_short hm rfl⟩) fun h => ?_
  refine holds_of_form h
    (fun ⟨f0, f7, f19⟩ hf => ⟨hf, hm, (releaseForm_iff (by decide)).mpr ⟨f0, rfl, rfl, f7, rfl, rfl, f19⟩, second_of_short hm rfl⟩) fun h => ?_
  cases h

theorem holds_of_decode1B {w0 w1 : Nat} {i : Instr} (hm : majorOf w0 = 0x1B)
    (h : decode1B w0 = .ok i) : Holds w0 w1 i := by
  unfold decode1B at h
  refine holds_of_form h
    (fun ⟨f0, f4⟩ hf => ⟨hf, hm, ((fenceForm_iff (by decide)).mpr ⟨f0, rfl, f4⟩).trans (Nat.add_zero _), second_of_short hm rfl⟩) fun h => ?_
  iterate 2
    refine holds_of_form h (fun ⟨f0, f4⟩ hf => ⟨hf, hm, (fenceForm_iff (by decide)).mpr ⟨f0, rfl, f4⟩, second_of_short hm rfl⟩) fun h => ?_
  iterate 4
    refine holds_of_form h
      (fun ⟨f0, f19⟩ hf => ⟨hf, hm, (twoSources_iff (by decide)).mpr ⟨f0, rfl, rfl, f19⟩, second_of_short hm rfl⟩) fun h => ?_
  cases h

theorem holds_of_decode1C {w0 w1 : Nat} {i : Instr} (hm : majorOf w0 = 0x1C)
    (h : decode1C w0 = .ok i) : Holds w0 w1 i := by
  unfold decode1C at h
  refine holds_of_form h
    (fun f5 hf => ⟨hf, hm, ((atomic_iff (by decide)).mpr ⟨rfl, rfl, rfl, f5, rfl, rfl, rfl⟩).trans (Nat.add_zero _), second_of_short hm rfl⟩) fun h => ?_
  iterate 8
    refine holds_of_form h
      (fun f5 hf => ⟨hf, hm, (atomic_iff (by decide)).mpr ⟨rfl, rfl, rfl, f5, rfl, rfl, rfl⟩, second_of_short hm rfl⟩) fun h => ?_
  refine holds_of_form h
    (fun f4 hf => ⟨hf, hm, (floatAtomic_iff (by decide)).mpr ⟨rfl, rfl, f4, rfl, rfl, rfl⟩, second_of_short hm rfl⟩) fun h => ?_
  refine holds_of_form h
    (fun f5 hf => ⟨hf, hm, (atomic_iff (by decide)).mpr ⟨rfl, rfl, rfl, f5, rfl, rfl, rfl⟩, second_of_short hm rfl⟩) fun h => ?_
  cases h

theorem holds_of_decode1D {w0 w1 : Nat} {i : Instr} (hm : majorOf w0 = 0x1D)
    (h : decode1D w0 = .ok i) : Holds w0 w1 i := by
  unfold decode1D at h
  refine holds_of_form h
    (fun ⟨f0, f19⟩ hf => ⟨hf, hm, ((twoSources_iff (by decide)).mpr ⟨f0, rfl, rfl, f19⟩).trans (Nat.add_zero _), second_of_short hm rfl⟩) fun h => ?_
  refine holds_of_form h
    (fun ⟨f0, f19⟩ hf => ⟨hf, hm, (twoSources_iff (by decide)).mpr ⟨f0, rfl, rfl, f19⟩, second_of_short hm rfl⟩) fun h => ?_
  refine holds_of_form h (fun f0 hf => ⟨hf, hm, (twoRegs_iff (by decide)).mpr ⟨f0, rfl, rfl⟩, second_of_short hm rfl⟩) fun h => ?_
  refine holds_of_form h (fun f0 hf => ⟨hf, hm, (threeRegs_iff (by decide)).mpr ⟨f0, rfl, rfl, rfl⟩, second_of_short hm rfl⟩) fun h => ?_
  cases h

theorem holds_of_decode20 {w0 w1 : Nat} {i : Instr} (hm : majorOf w0 = 0x20)
    (h : decode20 w0 = .ok i) : Holds w0 w1 i := by
  unfold decode20 at h
  refine holds_of_form h (fun ⟨f0, f6⟩ hf => ⟨hf, hm, waitSet_iff.mpr ⟨f0, rfl, f6⟩, second_of_short hm rfl⟩) fun h => ?_
  refine holds_of_form h (fun f3 hf => ⟨hf, hm, (postSet_iff (by decide)).mpr ⟨rfl, f3⟩, second_of_short hm rfl⟩) fun h => ?_
  refine holds_of_form h
    (fun ⟨f3, f19⟩ hf => ⟨hf, hm, (pushForm_iff (by decide)).mpr ⟨rfl, f3, rfl, f19⟩, second_of_short hm rfl⟩) fun h => ?_
  refine holds_of_form h (fun f3 hf => ⟨hf, hm, (popForm_iff (by decide)).mpr ⟨rfl, f3, rfl⟩, second_of_short hm rfl⟩) fun h => ?_
  cases h

theorem holds_of_decode21 {w0 w1 : Nat} {i : Instr} (hm : majorOf w0 = 0x21)
    (h : decode21 w0 = .ok i) : Holds w0 w1 i := by
  unfold decode21 at h
  refine holds_of_form h
    (fun f4 hf => ⟨hf, hm, ((stageToReg_iff (by decide)).mpr ⟨rfl, f4, rfl⟩).trans (Nat.add_zero _), second_of_short hm rfl⟩) fun h => ?_
  refine holds_of_form h
    (fun ⟨f4, f19⟩ hf => ⟨hf, hm, (regToStage_iff (by decide)).mpr ⟨rfl, f4, rfl, f19⟩, second_of_short hm rfl⟩) fun h => ?_
  refine holds_of_form h (fun f4 hf => ⟨hf, hm, (stageToReg_iff (by decide)).mpr ⟨rfl, f4, rfl⟩, second_of_short hm rfl⟩) fun h => ?_
  iterate 2
    refine holds_of_form h
      (fun ⟨f4, f19⟩ hf => ⟨hf, hm, (regToStage_iff (by decide)).mpr ⟨rfl, f4, rfl, f19⟩, second_of_short hm rfl⟩) fun h => ?_
  cases h

theorem holds_of_decode22 {w0 w1 : Nat} {i : Instr} (hm : majorOf w0 = 0x22)
    (h : decode22 w0 = .ok i) : Holds w0 w1 i := by
  unfold decode22 at h
  refine holds_of_form h
    (fun ⟨f0, f6, f19⟩ hf => ⟨hf, hm, ((claspOne_iff (by decide)).mpr ⟨f0, rfl, f6, rfl, f19⟩).trans (Nat.add_zero _), second_of_short hm rfl⟩) fun h => ?_
  iterate 2
    refine holds_of_form h
      (fun ⟨f0, f6, f19⟩ hf => ⟨hf, hm, (claspTwo_iff (by decide)).mpr ⟨f0, rfl, f6, rfl, rfl, f19⟩, second_of_short hm rfl⟩) fun h => ?_
  refine holds_of_form h
    (fun ⟨f0, f6, f19⟩ hf => ⟨hf, hm, (claspOne_iff (by decide)).mpr ⟨f0, rfl, f6, rfl, f19⟩, second_of_short hm rfl⟩) fun h => ?_
  refine holds_of_form h (fun ⟨f0, f19⟩ hf => ⟨hf, hm, (oneSource_iff (by decide)).mpr ⟨f0, rfl, f19⟩, second_of_short hm rfl⟩) fun h => ?_
  cases h

theorem holds_of_decode23 {w0 w1 : Nat} {i : Instr} (hm : majorOf w0 = 0x23)
    (h : decode23 w0 = .ok i) : Holds w0 w1 i := by
  unfold decode23 at h
  refine holds_of_form h (fun f0 hf => ⟨hf, hm, (bare_iff (by decide)).mpr f0, second_of_short hm rfl⟩) fun h => ?_
  refine holds_of_form h (fun f0 hf => ⟨hf, hm, (toReg_iff (by decide)).mpr ⟨f0, rfl⟩, second_of_short hm rfl⟩) fun h => ?_
  iterate 2
    refine holds_of_form h (fun f0 hf => ⟨hf, hm, (twoRegs_iff (by decide)).mpr ⟨f0, rfl, rfl⟩, second_of_short hm rfl⟩) fun h => ?_
  cases h

theorem holds_of_decode24 {w0 w1 : Nat} {i : Instr} (hm : majorOf w0 = 0x24)
    (h : decode24 w0 = .ok i) : Holds w0 w1 i := by
  unfold decode24 at h
  refine holds_of_form h (fun f8 hf => ⟨hf, hm, powerForm_iff.mpr ⟨rfl, f8⟩, second_of_short hm rfl⟩) fun h => ?_
  refine holds_of_form h (fun f0 hf => ⟨hf, hm, (bare_iff (by decide)).mpr f0, second_of_short hm rfl⟩) fun h => ?_
  cases h

theorem holds_of_decode25 {w0 w1 : Nat} {i : Instr} (hm : majorOf w0 = 0x25)
    (h : decode25 w0 = .ok i) : Holds w0 w1 i := by
  unfold decode25 at h
  iterate 2
    refine holds_of_form h (fun f0 hf => ⟨hf, hm, (bare_iff (by decide)).mpr f0, second_of_short hm rfl⟩) fun h => ?_
  cases h

theorem holds_of_decode28 {w0 w1 : Nat} {i : Instr} (h1 : w1 < 2 ^ 32) (hm : majorOf w0 = 0x28)
    (h : decode28 w0 w1 = .ok i) : Holds w0 w1 i := by
  unfold decode28 at h
  refine holds_of_form h
    (fun ⟨f0, hx⟩ hf => ⟨hf, hm, ((twoRegs_iff (by decide)).mpr ⟨f0, rfl, rfl⟩).trans (Nat.add_zero _), second_of_long hm rfl h1 ((slot_iff rfl).mpr ⟨rfl, hx⟩).symm⟩) fun h => ?_
  cases h

theorem holds_of_decode29 {w0 w1 : Nat} {i : Instr} (h1 : w1 < 2 ^ 32) (hm : majorOf w0 = 0x29)
    (h : decode29 w0 w1 = .ok i) : Holds w0 w1 i := by
  unfold decode29 at h
  refine holds_of_form h
    (fun ⟨f0, hx⟩ hf => ⟨hf, hm, ((threeRegs_iff (by decide)).mpr ⟨f0, rfl, rfl, rfl⟩).trans (Nat.add_zero _), second_of_long hm rfl h1 ((slot_iff rfl).mpr ⟨rfl, hx⟩).symm⟩) fun h => ?_
  cases h

theorem holds_of_decode2A {w0 w1 : Nat} {i : Instr} (h1 : w1 < 2 ^ 32) (hm : majorOf w0 = 0x2A)
    (h : decode2A w0 w1 = .ok i) : Holds w0 w1 i := by
  unfold decode2A at h
  refine holds_of_form h
    (fun ⟨f0, f9, hx⟩ hf => ⟨hf, hm, ((sequence_iff (by decide)).mpr ⟨f0, rfl, f9, rfl, rfl⟩).trans (Nat.add_zero _), second_of_long hm rfl h1 ((slot_iff rfl).mpr ⟨rfl, hx⟩).symm⟩) fun h => ?_
  iterate 3
    refine holds_of_form h
      (fun ⟨f0, f9, hx⟩ hf => ⟨hf, hm, (sequence_iff (by decide)).mpr ⟨f0, rfl, f9, rfl, rfl⟩, second_of_long hm rfl h1 ((slot_iff rfl).mpr ⟨rfl, hx⟩).symm⟩) fun h => ?_
  cases h

theorem holds_of_decode2B {w0 w1 : Nat} {i : Instr} (h1 : w1 < 2 ^ 32) (hm : majorOf w0 = 0x2B)
    (h : decode2B w0 w1 = .ok i) : Holds w0 w1 i := by
  unfold decode2B at h
  refine holds_of_form h
    (fun ⟨f0, hx⟩ hf => ⟨hf, hm, ((copyForm_iff (by decide)).mpr ⟨f0, rfl, rfl, rfl, rfl⟩).trans (Nat.add_zero _), second_of_long hm rfl h1 hx.symm⟩) fun h => ?_
  refine holds_of_form h
    (fun ⟨f0, hx⟩ hf => ⟨hf, hm, (copyForm_iff (by decide)).mpr ⟨f0, rfl, rfl, rfl, rfl⟩, second_of_long hm rfl h1 hx.symm⟩) fun h => ?_
  cases h

theorem holds_of_decode2C {w0 w1 : Nat} {i : Instr} (h1 : w1 < 2 ^ 32) (hm : majorOf w0 = 0x2C)
    (h : decode2C w0 w1 = .ok i) : Holds w0 w1 i := by
  unfold decode2C at h
  refine holds_of_form h
    (fun f0 hf => ⟨hf, hm, ((copyForm_iff (by decide)).mpr ⟨f0, rfl, rfl, rfl, rfl⟩).trans (Nat.add_zero _), second_of_long hm rfl h1 (count_iff.mpr ⟨rfl, rfl⟩).symm⟩) fun h => ?_
  refine holds_of_form h
    (fun f0 hf => ⟨hf, hm, (copyForm_iff (by decide)).mpr ⟨f0, rfl, rfl, rfl, rfl⟩, second_of_long hm rfl h1 (count_iff.mpr ⟨rfl, rfl⟩).symm⟩) fun h => ?_
  cases h

theorem holds_of_decode2D {w0 w1 : Nat} {i : Instr} (h1 : w1 < 2 ^ 32) (hm : majorOf w0 = 0x2D)
    (h : decode2D w0 w1 = .ok i) : Holds w0 w1 i := by
  unfold decode2D at h
  refine holds_of_form h
    (fun ⟨f0, hx⟩ hf => ⟨hf, hm, ((copyForm_iff (by decide)).mpr ⟨f0, rfl, rfl, rfl, rfl⟩).trans (Nat.add_zero _), second_of_long hm rfl h1 ((slot_iff rfl).mpr ⟨rfl, hx⟩).symm⟩) fun h => ?_
  cases h

theorem holds_of_decode2E {w0 w1 : Nat} {i : Instr} (h1 : w1 < 2 ^ 32) (hm : majorOf w0 = 0x2E)
    (h : decode2E w0 w1 = .ok i) : Holds w0 w1 i := by
  unfold decode2E at h
  refine holds_of_form h
    (fun ⟨f0, hx⟩ hf => ⟨hf, hm, ((copyForm_iff (by decide)).mpr ⟨f0, rfl, rfl, rfl, rfl⟩).trans (Nat.add_zero _), second_of_long hm rfl h1 hx.symm⟩) fun h => ?_
  cases h

theorem holds_of_decode2F {w0 w1 : Nat} {i : Instr} (h1 : w1 < 2 ^ 32) (hm : majorOf w0 = 0x2F)
    (h : decode2F w0 w1 = .ok i) : Holds w0 w1 i := by
  unfold decode2F at h
  refine holds_of_form h
    (fun ⟨f0, f9, hx⟩ hf => ⟨hf, hm, ((channelReg_iff (by decide)).mpr ⟨f0, rfl, f9, rfl⟩).trans (Nat.add_zero _), second_of_long hm rfl h1 ((slot_iff rfl).mpr ⟨rfl, hx⟩).symm⟩) fun h => ?_
  refine holds_of_form h
    (fun ⟨f0, f9, hx⟩ hf => ⟨hf, hm, (channelReg_iff (by decide)).mpr ⟨f0, rfl, f9, rfl⟩, second_of_long hm rfl h1 hx.symm⟩) fun h => ?_
  refine holds_of_form h
    (fun ⟨f0, f9, hx⟩ hf => ⟨hf, hm, (channelOnly_iff (by decide)).mpr ⟨f0, rfl, f9⟩, second_of_long hm rfl h1 hx.symm⟩) fun h => ?_
  refine holds_of_form h
    (fun ⟨f0, f9, hx⟩ hf => ⟨hf, hm, (channelReg_iff (by decide)).mpr ⟨f0, rfl, f9, rfl⟩, second_of_long hm rfl h1 hx.symm⟩) fun h => ?_
  cases h

theorem holds_of_decode30 {w0 w1 : Nat} {i : Instr} (hm : majorOf w0 = 0x30)
    (h : decode30 w0 = .ok i) : Holds w0 w1 i := by
  unfold decode30 at h
  refine holds_of_form h
    (fun f0 hf => ⟨hf, hm, ((lanes_iff (by decide)).mpr ⟨f0, rfl, rfl, rfl, rfl, rfl⟩).trans (Nat.add_zero _), second_of_short hm rfl⟩) fun h => ?_
  iterate 8
    refine holds_of_form h
      (fun f0 hf => ⟨hf, hm, (lanes_iff (by decide)).mpr ⟨f0, rfl, rfl, rfl, rfl, rfl⟩, second_of_short hm rfl⟩) fun h => ?_
  iterate 3
    refine holds_of_form h
      (fun ⟨f0, f22⟩ hf => ⟨hf, hm, (laneCompare_iff (by decide)).mpr ⟨f0, rfl, rfl, rfl, rfl, rfl, f22⟩, second_of_short hm rfl⟩) fun h => ?_
  cases h

theorem holds_of_decode31 {w0 w1 : Nat} {i : Instr} (hm : majorOf w0 = 0x31)
    (h : decode31 w0 = .ok i) : Holds w0 w1 i := by
  unfold decode31 at h
  refine holds_of_form h
    (fun f0 hf => ⟨hf, hm, ((lanes_iff (by decide)).mpr ⟨f0, rfl, rfl, rfl, rfl, rfl⟩).trans (Nat.add_zero _), second_of_short hm rfl⟩) fun h => ?_
  iterate 8
    refine holds_of_form h
      (fun f0 hf => ⟨hf, hm, (lanes_iff (by decide)).mpr ⟨f0, rfl, rfl, rfl, rfl, rfl⟩, second_of_short hm rfl⟩) fun h => ?_
  iterate 3
    refine holds_of_form h
      (fun ⟨f0, f22⟩ hf => ⟨hf, hm, (laneCompare_iff (by decide)).mpr ⟨f0, rfl, rfl, rfl, rfl, rfl, f22⟩, second_of_short hm rfl⟩) fun h => ?_
  cases h

theorem holds_of_decode32 {w0 w1 : Nat} {i : Instr} (hm : majorOf w0 = 0x32)
    (h : decode32 w0 = .ok i) : Holds w0 w1 i := by
  unfold decode32 at h
  refine holds_of_form h
    (fun f0 hf => ⟨hf, hm, ((masked_iff (by decide)).mpr ⟨f0, rfl, rfl, rfl, rfl⟩).trans (Nat.add_zero _), second_of_short hm rfl⟩) fun h => ?_
  iterate 4
    refine holds_of_form h
      (fun f0 hf => ⟨hf, hm, (masked_iff (by decide)).mpr ⟨f0, rfl, rfl, rfl, rfl⟩, second_of_short hm rfl⟩) fun h => ?_
  refine holds_of_form h
    (fun ⟨f0, f11⟩ hf => ⟨hf, hm, (broadcast_iff (by decide)).mpr ⟨f0, rfl, rfl, f11, rfl, rfl⟩, second_of_short hm rfl⟩) fun h => ?_
  refine holds_of_form h (fun f0 hf => ⟨hf, hm, (masked_iff (by decide)).mpr ⟨f0, rfl, rfl, rfl, rfl⟩, second_of_short hm rfl⟩) fun h => ?_
  refine holds_of_form h
    (fun ⟨f0, f9⟩ hf => ⟨hf, hm, (maskedUnary_iff (by decide)).mpr ⟨f0, rfl, f9, rfl, rfl⟩, second_of_short hm rfl⟩) fun h => ?_
  iterate 4
    refine holds_of_form h
      (fun ⟨f0, f12, f17, f22⟩ hf => ⟨hf, hm, (threePreds_iff (by decide)).mpr ⟨f0, rfl, f12, rfl, f17, rfl, f22⟩, second_of_short hm rfl⟩) fun h => ?_
  refine holds_of_form h
    (fun ⟨f0, f17, f22⟩ hf => ⟨hf, hm, (twoPreds_iff (by decide)).mpr ⟨f0, rfl, f17, rfl, f22⟩, second_of_short hm rfl⟩) fun h => ?_
  refine holds_of_form h
    (fun ⟨f0, f13⟩ hf => ⟨hf, hm, (laneRead_iff (by decide)).mpr ⟨f0, rfl, f13, rfl, rfl⟩, second_of_short hm rfl⟩) fun h => ?_
  cases h

theorem holds_of_decode33 {w0 w1 : Nat} {i : Instr} (hm : majorOf w0 = 0x33)
    (h : decode33 w0 = .ok i) : Holds w0 w1 i := by
  unfold decode33 at h
  refine holds_of_form h
    (fun f0 hf => ⟨hf, hm, ((lanes_iff (by decide)).mpr ⟨f0, rfl, rfl, rfl, rfl, rfl⟩).trans (Nat.add_zero _), second_of_short hm rfl⟩) fun h => ?_
  iterate 5
    refine holds_of_form h
      (fun f0 hf => ⟨hf, hm, (lanes_iff (by decide)).mpr ⟨f0, rfl, rfl, rfl, rfl, rfl⟩, second_of_short hm rfl⟩) fun h => ?_
  iterate 3
    refine holds_of_form h
      (fun ⟨f0, f22⟩ hf => ⟨hf, hm, (laneCompare_iff (by decide)).mpr ⟨f0, rfl, rfl, rfl, rfl, rfl, f22⟩, second_of_short hm rfl⟩) fun h => ?_
  iterate 2
    refine holds_of_form h
      (fun ⟨f0, f9⟩ hf => ⟨hf, hm, (laneUnary_iff (by decide)).mpr ⟨f0, rfl, rfl, f9, rfl, rfl⟩, second_of_short hm rfl⟩) fun h => ?_
  cases h

theorem holds_of_decode34 {w0 w1 : Nat} {i : Instr} (hm : majorOf w0 = 0x34)
    (h : decode34 w0 = .ok i) : Holds w0 w1 i := by
  unfold decode34 at h
  refine holds_of_form h
    (fun ⟨f0, f9⟩ hf => ⟨hf, hm, ((maskedUnary_iff (by decide)).mpr ⟨f0, rfl, f9, rfl, rfl⟩).trans (Nat.add_zero _), second_of_short hm rfl⟩) fun h => ?_
  iterate 7
    refine holds_of_form h
      (fun ⟨f0, f9⟩ hf => ⟨hf, hm, (maskedUnary_iff (by decide)).mpr ⟨f0, rfl, f9, rfl, rfl⟩, second_of_short hm rfl⟩) fun h => ?_
  refine holds_of_form h (fun f0 hf => ⟨hf, hm, (masked_iff (by decide)).mpr ⟨f0, rfl, rfl, rfl, rfl⟩, second_of_short hm rfl⟩) fun h => ?_
  cases h

theorem holds_of_decode35 {w0 w1 : Nat} {i : Instr} (hm : majorOf w0 = 0x35)
    (h : decode35 w0 = .ok i) : Holds w0 w1 i := by
  unfold decode35 at h
  exact holds_of_checked h fun hf => ⟨hf, hm, conversion_iff.mpr ⟨rfl, rfl, rfl, rfl, rfl, rfl, rfl⟩, second_of_short hm rfl⟩

theorem holds_of_decode36 {w0 w1 : Nat} {i : Instr} (h1 : w1 < 2 ^ 32) (hm : majorOf w0 = 0x36)
    (h : decode36 w0 w1 = .ok i) : Holds w0 w1 i := by
  unfold decode36 at h
  refine holds_of_form h
    (fun ⟨f0, f6⟩ hf => ⟨hf, hm, ((vectorMemory_iff (by decide)).mpr ⟨f0, rfl, f6, rfl, rfl⟩).trans (Nat.add_zero _), second_of_long hm rfl h1 ((ofNatBv_fld ..).mp rfl).symm⟩) fun h => ?_
  refine holds_of_form h
    (fun ⟨f0, f6⟩ hf => ⟨hf, hm, (vectorMemory_iff (by decide)).mpr ⟨f0, rfl, f6, rfl, rfl⟩, second_of_long hm rfl h1 ((ofNatBv_fld ..).mp rfl).symm⟩) fun h => ?_
  iterate 2
    refine holds_of_form h
      (fun ⟨f0, f6, hx⟩ hf => ⟨hf, hm, (vectorQueue_iff (by decide)).mpr ⟨f0, rfl, f6, rfl⟩, second_of_long hm rfl h1 hx.symm⟩) fun h => ?_
  cases h

theorem holds_of_decode38 {w0 w1 : Nat} {i : Instr} (h1 : w1 < 2 ^ 32) (hm : majorOf w0 = 0x38)
    (h : decode38 w0 w1 = .ok i) : Holds w0 w1 i := by
  unfold decode38 at h
  refine holds_of_form h (fun ⟨f0, f10, hx⟩ hf => ⟨hf, hm, formatForm_iff.mpr ⟨f0, rfl, f10⟩, second_of_long hm rfl h1 hx.symm⟩) fun h => ?_
  cases h

theorem holds_of_decode39 {w0 w1 : Nat} {i : Instr} (h1 : w1 < 2 ^ 32) (hm : majorOf w0 = 0x39)
    (h : decode39 w0 w1 = .ok i) : Holds w0 w1 i := by
  unfold decode39 at h
  refine holds_of_form h
    (fun ⟨f0, f10, hx⟩ hf => ⟨hf, hm, ((tileMemory_iff (by decide)).mpr ⟨f0, rfl, f10, rfl⟩).trans (Nat.add_zero _), second_of_long hm rfl h1 hx.symm⟩) fun h => ?_
  refine holds_of_form h
    (fun ⟨f0, f10, hx⟩ hf => ⟨hf, hm, (tileMemory_iff (by decide)).mpr ⟨f0, rfl, f10, rfl⟩, second_of_long hm rfl h1 hx.symm⟩) fun h => ?_
  refine holds_of_form h
    (fun ⟨f0, hx⟩ hf => ⟨hf, hm, (tileOnly_iff (by decide)).mpr ⟨f0, rfl⟩, second_of_long hm rfl h1 hx.symm⟩) fun h => ?_
  cases h

theorem holds_of_decode3A {w0 w1 : Nat} {i : Instr} (h1 : w1 < 2 ^ 32) (hm : majorOf w0 = 0x3A)
    (h : decode3A w0 w1 = .ok i) : Holds w0 w1 i := by
  unfold decode3A at h
  refine holds_of_form h
    (fun ⟨f0, hx⟩ hf => ⟨hf, hm, ((tileOnly_iff (by decide)).mpr ⟨f0, rfl⟩).trans (Nat.add_zero _), second_of_long hm rfl h1 hx.symm⟩) fun h => ?_
  refine holds_of_form h
    (fun ⟨f0, hx⟩ hf => ⟨hf, hm, (tilePair_iff (by decide)).mpr ⟨f0, rfl, rfl⟩, second_of_long hm rfl h1 hx.symm⟩) fun h => ?_
  refine holds_of_form h
    (fun ⟨f0, f5, hx⟩ hf => ⟨hf, hm, (tileConversion_iff (by decide)).mpr ⟨f0, rfl, f5, rfl, rfl⟩, second_of_long hm rfl h1 hx.symm⟩) fun h => ?_
  cases h

theorem holds_of_decode3B {w0 w1 : Nat} {i : Instr} (h1 : w1 < 2 ^ 32) (hm : majorOf w0 = 0x3B)
    (h : decode3B w0 w1 = .ok i) : Holds w0 w1 i := by
  unfold decode3B at h
  refine holds_of_form h (fun ⟨f0, hx⟩ hf => ⟨hf, hm, product_iff.mpr ⟨f0, rfl, rfl, rfl⟩, second_of_long hm rfl h1 hx.symm⟩) fun h => ?_
  cases h

theorem holds_of_decode3C {w0 w1 : Nat} {i : Instr} (h1 : w1 < 2 ^ 32) (hm : majorOf w0 = 0x3C)
    (h : decode3C w0 w1 = .ok i) : Holds w0 w1 i := by
  unfold decode3C at h
  refine holds_of_form h
    (fun ⟨f0, hx⟩ hf => ⟨hf, hm, scaledProduct_iff.mpr ⟨f0, rfl, rfl, rfl, rfl⟩, second_of_long hm rfl h1 hx.symm⟩) fun h => ?_
  cases h

theorem holds_of_decode3D {w0 w1 : Nat} {i : Instr} (h1 : w1 < 2 ^ 32) (hm : majorOf w0 = 0x3D)
    (h : decode3D w0 w1 = .ok i) : Holds w0 w1 i := by
  unfold decode3D at h
  refine holds_of_form h (fun ⟨f0, f16, hx⟩ hf => ⟨hf, hm, drain_iff.mpr ⟨f0, rfl, rfl, f16⟩, second_of_long hm rfl h1 hx.symm⟩) fun h => ?_
  refine holds_of_form h
    (fun ⟨f0, f16, hx⟩ hf => ⟨hf, hm, (drainAdd_iff (by decide)).mpr ⟨f0, rfl, rfl, rfl, f16⟩, second_of_long hm rfl h1 hx.symm⟩) fun h => ?_
  cases h

theorem holds_of_decode3E {w0 w1 : Nat} {i : Instr} (h1 : w1 < 2 ^ 32) (hm : majorOf w0 = 0x3E)
    (h : decode3E w0 w1 = .ok i) : Holds w0 w1 i := by
  unfold decode3E at h
  refine holds_of_form h (fun ⟨f0, f16, hx⟩ hf => ⟨hf, hm, drain_iff.mpr ⟨f0, rfl, rfl, f16⟩, second_of_long hm rfl h1 hx.symm⟩) fun h => ?_
  refine holds_of_form h
    (fun ⟨f0, f16, hx⟩ hf => ⟨hf, hm, (accOnly_iff (by decide)).mpr ⟨f0, rfl, f16⟩, second_of_long hm rfl h1 hx.symm⟩) fun h => ?_
  cases h

theorem majorOf_cases {m : Nat} (hm : m < 64) (ha : majorAssigned m = true) :
    m = 0x01 ∨ m = 0x02 ∨ m = 0x03 ∨ m = 0x04 ∨ m = 0x05 ∨ m = 0x06 ∨ m = 0x08 ∨ m = 0x09 ∨ m = 0x0A ∨ m = 0x0B ∨ m = 0x0C ∨ m = 0x0D ∨ m = 0x0E ∨ m = 0x0F ∨ m = 0x10 ∨ m = 0x11 ∨ m = 0x12 ∨ m = 0x13 ∨ m = 0x14 ∨ m = 0x15 ∨ m = 0x16 ∨ m = 0x17 ∨ m = 0x18 ∨ m = 0x19 ∨ m = 0x1A ∨ m = 0x1B ∨ m = 0x1C ∨ m = 0x1D ∨ m = 0x20 ∨ m = 0x21 ∨ m = 0x22 ∨ m = 0x23 ∨ m = 0x24 ∨ m = 0x25 ∨ m = 0x28 ∨ m = 0x29 ∨ m = 0x2A ∨ m = 0x2B ∨ m = 0x2C ∨ m = 0x2D ∨ m = 0x2E ∨ m = 0x2F ∨ m = 0x30 ∨ m = 0x31 ∨ m = 0x32 ∨ m = 0x33 ∨ m = 0x34 ∨ m = 0x35 ∨ m = 0x36 ∨ m = 0x38 ∨ m = 0x39 ∨ m = 0x3A ∨ m = 0x3B ∨ m = 0x3C ∨ m = 0x3D ∨ m = 0x3E := by
  interval_cases m <;> simp [majorAssigned] at ha ⊢

theorem majorAssigned_of_decode {w0 w1 : Nat} {i : Instr} (h : decode w0 w1 = .ok i) : majorAssigned (majorOf w0) = true := by
  unfold decode at h
  split at h
  case h_57 => cases h
  all_goals next hm => rw [hm]; rfl

theorem holds_of_decode {w0 w1 : Nat} {i : Instr} (h1 : w1 < 2 ^ 32) (h : decode w0 w1 = .ok i) : Holds w0 w1 i := by
  rcases majorOf_cases (fld_lt ..) (majorAssigned_of_decode h) with
    hm | hm | hm | hm | hm | hm | hm | hm | hm | hm | hm | hm | hm | hm | hm | hm | hm | hm | hm | hm | hm | hm | hm | hm | hm | hm | hm | hm | hm | hm | hm | hm | hm | hm | hm | hm | hm | hm | hm | hm | hm | hm | hm | hm | hm | hm | hm | hm | hm | hm | hm | hm | hm | hm | hm | hm
  · exact holds_of_decode01 hm ((decode_at_01 hm).symm.trans h)
  · exact holds_of_decode02 hm ((decode_at_02 hm).symm.trans h)
  · exact holds_of_decode03 hm ((decode_at_03 hm).symm.trans h)
  · exact holds_of_decode04 hm ((decode_at_04 hm).symm.trans h)
  · exact holds_of_decode05 hm ((decode_at_05 hm).symm.trans h)
  · exact holds_of_decode06 hm ((decode_at_06 hm).symm.trans h)
  · exact holds_of_decode08 hm ((decode_at_08 hm).symm.trans h)
  · exact holds_of_decode09 hm ((decode_at_09 hm).symm.trans h)
  · exact holds_of_decode0A hm ((decode_at_0A hm).symm.trans h)
  · exact holds_of_decode0B hm ((decode_at_0B hm).symm.trans h)
  · exact holds_of_decode0C hm ((decode_at_0C hm).symm.trans h)
  · exact holds_of_decode0D hm ((decode_at_0D hm).symm.trans h)
  · exact holds_of_decode0E hm ((decode_at_0E hm).symm.trans h)
  · exact holds_of_decode0F hm ((decode_at_0F hm).symm.trans h)
  · exact holds_of_decode10 hm ((decode_at_10 hm).symm.trans h)
  · exact holds_of_decode11 hm ((decode_at_11 hm).symm.trans h)
  · exact holds_of_decode12 hm ((decode_at_12 hm).symm.trans h)
  · exact holds_of_decode13 hm ((decode_at_13 hm).symm.trans h)
  · exact holds_of_decode14 hm ((decode_at_14 hm).symm.trans h)
  · exact holds_of_decode15 hm ((decode_at_15 hm).symm.trans h)
  · exact holds_of_decode16 hm ((decode_at_16 hm).symm.trans h)
  · exact holds_of_decode17 hm ((decode_at_17 hm).symm.trans h)
  · exact holds_of_decode18 hm ((decode_at_18 hm).symm.trans h)
  · exact holds_of_decode19 hm ((decode_at_19 hm).symm.trans h)
  · exact holds_of_decode1A hm ((decode_at_1A hm).symm.trans h)
  · exact holds_of_decode1B hm ((decode_at_1B hm).symm.trans h)
  · exact holds_of_decode1C hm ((decode_at_1C hm).symm.trans h)
  · exact holds_of_decode1D hm ((decode_at_1D hm).symm.trans h)
  · exact holds_of_decode20 hm ((decode_at_20 hm).symm.trans h)
  · exact holds_of_decode21 hm ((decode_at_21 hm).symm.trans h)
  · exact holds_of_decode22 hm ((decode_at_22 hm).symm.trans h)
  · exact holds_of_decode23 hm ((decode_at_23 hm).symm.trans h)
  · exact holds_of_decode24 hm ((decode_at_24 hm).symm.trans h)
  · exact holds_of_decode25 hm ((decode_at_25 hm).symm.trans h)
  · exact holds_of_decode28 h1 hm ((decode_at_28 hm).symm.trans h)
  · exact holds_of_decode29 h1 hm ((decode_at_29 hm).symm.trans h)
  · exact holds_of_decode2A h1 hm ((decode_at_2A hm).symm.trans h)
  · exact holds_of_decode2B h1 hm ((decode_at_2B hm).symm.trans h)
  · exact holds_of_decode2C h1 hm ((decode_at_2C hm).symm.trans h)
  · exact holds_of_decode2D h1 hm ((decode_at_2D hm).symm.trans h)
  · exact holds_of_decode2E h1 hm ((decode_at_2E hm).symm.trans h)
  · exact holds_of_decode2F h1 hm ((decode_at_2F hm).symm.trans h)
  · exact holds_of_decode30 hm ((decode_at_30 hm).symm.trans h)
  · exact holds_of_decode31 hm ((decode_at_31 hm).symm.trans h)
  · exact holds_of_decode32 hm ((decode_at_32 hm).symm.trans h)
  · exact holds_of_decode33 hm ((decode_at_33 hm).symm.trans h)
  · exact holds_of_decode34 hm ((decode_at_34 hm).symm.trans h)
  · exact holds_of_decode35 hm ((decode_at_35 hm).symm.trans h)
  · exact holds_of_decode36 h1 hm ((decode_at_36 hm).symm.trans h)
  · exact holds_of_decode38 h1 hm ((decode_at_38 hm).symm.trans h)
  · exact holds_of_decode39 h1 hm ((decode_at_39 hm).symm.trans h)
  · exact holds_of_decode3A h1 hm ((decode_at_3A hm).symm.trans h)
  · exact holds_of_decode3B h1 hm ((decode_at_3B hm).symm.trans h)
  · exact holds_of_decode3C h1 hm ((decode_at_3C hm).symm.trans h)
  · exact holds_of_decode3D h1 hm ((decode_at_3D hm).symm.trans h)
  · exact holds_of_decode3E h1 hm ((decode_at_3E hm).symm.trans h)

end Sys2Proof.Machine
end

section
/-! Words that hold an instruction decode to it (R54 to R82). -/

namespace Sys2Proof.Machine

theorem decode_of_low_scalar {w0 w1 : Nat} {i : Instr}
    (hi : [0x01, 0x02, 0x03, 0x04, 0x05, 0x06, 0x08, 0x09, 0x0A, 0x0B, 0x0C, 0x0D, 0x0E, 0x0F].contains (majorOfInstr i) = true)
    (hm : majorOf w0 = majorOfInstr i) (hw : w0 % 2 ^ 24 = encodeLow i) : decode w0 w1 = checked i := by
  cases i <;> cases hi
  case add d a b =>
    obtain ⟨f0, f9, f14, f19⟩ := (threeRegs_iff (op := 0) (by decide)).mp (by rw [Nat.add_zero]; exact hw)
    rw [decode_at_01 hm]
    simp only [decode01, f0, f9, f14, f19, if_true]
  case sub | addt | subt | mul | mulh | mulhn | mult | div | divn | rem | remn | min | max | minn | maxn d a b =>
    obtain ⟨f0, f9, f14, f19⟩ := (threeRegs_iff (by decide)).mp hw
    rw [decode_at_01 hm]
    simp only [decode01, f0, f9, f14, f19, if_true, Nat.reduceEqDiff, if_false]
  case and d a b =>
    obtain ⟨f0, f9, f14, f19⟩ := (threeRegs_iff (op := 0) (by decide)).mp (by rw [Nat.add_zero]; exact hw)
    rw [decode_at_02 hm]
    simp only [decode02, f0, f9, f14, f19, if_true]
  case or | xor | andn | orn | shl | shr | sra | rol | ror d a b =>
    obtain ⟨f0, f9, f14, f19⟩ := (threeRegs_iff (by decide)).mp hw
    rw [decode_at_02 hm]
    simp only [decode02, f0, f9, f14, f19, if_true, Nat.reduceEqDiff, if_false]
  case clz d a =>
    obtain ⟨f0, f14, f19⟩ := (twoRegs_iff (op := 0) (by decide)).mp (by rw [Nat.add_zero]; exact hw)
    rw [decode_at_03 hm]
    simp only [decode03, f0, f14, f19, if_true]
  case ctz | popc | brev | bswap | sextI8 | sextI16 | sextI32 | zextN8 | zextN16 | zextN32 d a =>
    obtain ⟨f0, f14, f19⟩ := (twoRegs_iff (by decide)).mp hw
    rw [decode_at_03 hm]
    simp only [decode03, f0, f14, f19, if_true, Nat.reduceEqDiff, if_false]
  case cmpeq d a b =>
    obtain ⟨f0, f9, f14, f19, f22⟩ := (compare_iff (op := 0) (by decide)).mp (by rw [Nat.add_zero]; exact hw)
    rw [decode_at_04 hm]
    simp only [decode04, f0, f9, f14, f19, f22, and_self, if_true]
  case cmpne | cmplt | cmple | cmpltn | cmplen | tstnz d a b =>
    obtain ⟨f0, f9, f14, f19, f22⟩ := (compare_iff (by decide)).mp hw
    rw [decode_at_04 hm]
    simp only [decode04, f0, f9, f14, f19, f22, and_self, if_true, Nat.reduceEqDiff, if_false, false_and]
  case pand d a b =>
    obtain ⟨f0, f9, f12, f14, f17, f19, f22⟩ := (threePreds_iff (op := 0) (by decide)).mp (by rw [Nat.add_zero]; exact hw)
    rw [decode_at_05 hm]
    simp only [decode05, f0, f9, f12, f14, f17, f19, f22, and_self, if_true]
  case por | pxor | pandn d a b =>
    obtain ⟨f0, f9, f12, f14, f17, f19, f22⟩ := (threePreds_iff (by decide)).mp hw
    rw [decode_at_05 hm]
    simp only [decode05, f0, f9, f12, f14, f17, f19, f22, and_self, if_true, Nat.reduceEqDiff, if_false, false_and]
  case pnot d a =>
    obtain ⟨f0, f14, f17, f19, f22⟩ := (twoPreds_iff (by decide)).mp hw
    have s0 := fld_split w0 0 9 5
    simp only [Nat.reducePow, Nat.reduceAdd] at s0
    rw [decode_at_05 hm, decode05]
    iterate 4 refine form_skip (by omega) ?_
    refine form_take ⟨f0, f17, f22⟩ ?_
    rw [f14, f19]
  case pset d a =>
    obtain ⟨f0, f14, f19, f22⟩ := (regToPred_iff (by decide)).mp hw
    have s0 := fld_split w0 0 9 5
    simp only [Nat.reducePow, Nat.reduceAdd] at s0
    rw [decode_at_05 hm, decode05]
    iterate 5 refine form_skip (by omega) ?_
    refine form_take ⟨f0, f22⟩ ?_
    rw [f14, f19]
  case pget d a =>
    obtain ⟨f0, f14, f17, f19⟩ := (predToReg_iff (by decide)).mp hw
    have s0 := fld_split w0 0 9 5
    simp only [Nat.reducePow, Nat.reduceAdd] at s0
    rw [decode_at_05 hm, decode05]
    iterate 6 refine form_skip (by omega) ?_
    refine form_take ⟨f0, f17⟩ ?_
    rw [f14, f19]
  case sel d a b p =>
    obtain ⟨f0, f3, f9, f14, f19⟩ := (select_iff (by decide)).mp hw
    have s0 := fld_split w0 0 3 6
    have s1 := fld_split w0 0 9 5
    simp only [Nat.reducePow, Nat.reduceAdd] at s0 s1
    rw [decode_at_05 hm, decode05]
    iterate 7 refine form_skip (by omega) ?_
    refine form_take f3 ?_
    rw [f0, f9, f14, f19]
  case lea d a b sh =>
    obtain ⟨f0, f2, f9, f14, f19⟩ := shiftedSum_iff.mp hw
    rw [decode_at_06 hm]
    simp only [decode06, f0, f2, f9, f14, f19, if_true]
  case gaddr d a b =>
    obtain ⟨f0, f9, f14, f19⟩ := (threeRegs_iff (by decide)).mp hw
    have s0 := fld_split w0 0 2 7
    have b0 := fld_lt w0 0 2
    simp only [Nat.reducePow, Nat.reduceAdd] at s0 b0
    rw [decode_at_06 hm, decode06]
    refine form_skip (by omega) ?_
    refine form_take f0 ?_
    rw [f9, f14, f19]
  case addi d a imm =>
    obtain ⟨f0, f14, f19⟩ := regImm_iff.mp hw
    rw [decode_at_08 hm]
    simp only [decode08, f0, f14, f19]
  case andi d a imm =>
    obtain ⟨f0, f14, f19⟩ := regImm_iff.mp hw
    rw [decode_at_09 hm]
    simp only [decode09, f0, f14, f19]
  case ori d a imm =>
    obtain ⟨f0, f14, f19⟩ := regImm_iff.mp hw
    rw [decode_at_0A hm]
    simp only [decode0A, f0, f14, f19]
  case xori d a imm =>
    obtain ⟨f0, f14, f19⟩ := regImm_iff.mp hw
    rw [decode_at_0B hm]
    simp only [decode0B, f0, f14, f19]
  case shli d a n =>
    obtain ⟨f0, f6, f14, f19⟩ := (shiftImm_iff (op := 0) (by decide)).mp (by rw [Nat.add_zero]; exact hw)
    rw [decode_at_0C hm]
    simp only [decode0C, f0, f6, f14, f19, Nat.reducePow, Nat.reduceDiv, if_true]
  case shri | srai | rori d a n =>
    obtain ⟨f0, f6, f14, f19⟩ := (shiftImm_iff (by decide)).mp hw
    rw [decode_at_0C hm]
    simp only [decode0C, f0, f6, f14, f19, Nat.reducePow, Nat.reduceDiv, if_true, Nat.reduceEqDiff, if_false]
  case cmpeqi d a imm =>
    obtain ⟨f0, f11, f14, f19, f22⟩ := (compareImm_iff (op := 0) (by decide)).mp (by rw [Nat.add_zero]; exact hw)
    rw [decode_at_0D hm]
    simp only [decode0D, f0, f11, f14, f19, f22, Nat.reducePow, Nat.reduceDiv, and_self, if_true]
  case cmpnei | cmplti | cmplei | cmpgti | cmpgei | cmpltni | cmpgtni d a imm =>
    obtain ⟨f0, f11, f14, f19, f22⟩ := (compareImm_iff (by decide)).mp hw
    rw [decode_at_0D hm]
    simp only [decode0D, f0, f11, f14, f19, f22, Nat.reducePow, Nat.reduceDiv, and_self, if_true, Nat.reduceEqDiff, if_false, false_and]
  case li d imm =>
    obtain ⟨f0, f19⟩ := loadImm_iff.mp hw
    rw [decode_at_0E hm]
    simp only [decode0E, f0, f19]
  case lix d imm =>
    obtain ⟨f0, f16, f19⟩ := extendImm_iff.mp hw
    rw [decode_at_0F hm]
    simp only [decode0F, f0, f16, f19, if_true]

theorem decode_of_low_control {w0 w1 : Nat} {i : Instr}
    (hi : [0x10, 0x11, 0x12, 0x13, 0x14, 0x15, 0x16, 0x17, 0x18, 0x19, 0x1A, 0x1B, 0x1C, 0x1D].contains (majorOfInstr i) = true)
    (hm : majorOf w0 = majorOfInstr i) (hw : w0 % 2 ^ 24 = encodeLow i) : decode w0 w1 = checked i := by
  cases i <;> cases hi
  case b p sense word delta =>
    obtain ⟨f0, f16, f20, f21⟩ := branch_iff.mp hw
    rw [decode_at_10 hm]
    simp only [decode10, f0, f16, f20, f21]
  case call p sense word delta =>
    obtain ⟨f0, f16, f20, f21⟩ := branch_iff.mp hw
    rw [decode_at_11 hm]
    simp only [decode11, f0, f16, f20, f21]
  case jmpr a =>
    obtain ⟨f0, f14, f19⟩ := (oneSource_iff (op := 0) (by decide)).mp (by rw [Nat.add_zero]; exact hw)
    rw [decode_at_12 hm]
    simp only [decode12, f0, f14, f19, and_self, if_true]
  case callr d a =>
    obtain ⟨f0, f14, f19⟩ := (twoRegs_iff (by decide)).mp hw
    rw [decode_at_12 hm]
    simp only [decode12, f0, f14, f19, if_true, Nat.reduceEqDiff, if_false, false_and]
  case loop lv c word delta =>
    obtain ⟨f0, f13, f17, f22⟩ := loopForm_iff.mp hw
    rw [decode_at_13 hm]
    simp only [decode13, f0, f13, f17, f22]
  case mfs d n =>
    obtain ⟨f0, f12, f19⟩ := specialReg_iff.mp hw
    rw [decode_at_14 hm]
    simp only [decode14, f0, f12, f19, if_true]
  case mts n s =>
    obtain ⟨f0, f12, f19⟩ := specialReg_iff.mp hw
    rw [decode_at_15 hm]
    simp only [decode15, f0, f12, f19, if_true]
  case tshape t ty cols rows =>
    obtain ⟨f0, f6, f7, f14, f16, f20⟩ := shapeForm_iff.mp hw
    rw [decode_at_16 hm]
    simp only [decode16, f0, f6, f7, f14, f16, f20, and_self, if_true]
  case trap code =>
    obtain ⟨f0, f9, f19⟩ := trapForm_iff.mp hw
    rw [decode_at_17 hm]
    simp only [decode17, f0, f9, f19, and_self, if_true]
  case sret =>
    have f0 := (bare_iff (op := 1) (by decide)).mp hw
    have s0 := fld_split w0 0 9 15
    simp only [Nat.reducePow, Nat.reduceAdd] at s0
    rw [decode_at_17 hm, decode17]
    refine form_skip (by omega) ?_
    exact form_take f0 rfl
  case idle =>
    have f0 := (bare_iff (op := 2) (by decide)).mp hw
    have s0 := fld_split w0 0 9 15
    simp only [Nat.reducePow, Nat.reduceAdd] at s0
    rw [decode_at_17 hm, decode17]
    iterate 2 refine form_skip (by omega) ?_
    exact form_take f0 rfl
  case nop =>
    have f0 := (bare_iff (op := 3) (by decide)).mp hw
    have s0 := fld_split w0 0 9 15
    simp only [Nat.reducePow, Nat.reduceAdd] at s0
    rw [decode_at_17 hm, decode17]
    iterate 3 refine form_skip (by omega) ?_
    exact form_take f0 rfl
  case ld d a ty off =>
    obtain ⟨f0, f11, f14, f19⟩ := loadForm_iff.mp hw
    rw [decode_at_18 hm]
    simp only [decode18, f0, f11, f14, f19]
  case st a s sz off =>
    obtain ⟨f0, f12, f14, f19⟩ := storeForm_iff.mp hw
    rw [decode_at_19 hm]
    simp only [decode19, f0, f12, f14, f19]
  case lda d a scope sz sg =>
    obtain ⟨f0, f2, f3, f5, f7, f14, f19⟩ := acquireForm_iff.mp hw
    rw [decode_at_1A hm]
    simp only [decode1A, f0, f2, f3, f5, f7, f14, f19, and_self, if_true]
  case str a b scope sz =>
    obtain ⟨f0, f3, f5, f7, f9, f14, f19⟩ := (releaseForm_iff (by decide)).mp hw
    have s0 := fld_split w0 7 2 5
    simp only [Nat.reducePow, Nat.reduceAdd] at s0
    rw [decode_at_1A hm, decode1A]
    refine form_skip (by omega) ?_
    refine form_take ⟨f0, f7, f19⟩ ?_
    rw [f3, f5, f9, f14]
  case fence scope =>
    obtain ⟨f0, f2, f4⟩ := (fenceForm_iff (op := 0) (by decide)).mp (by rw [Nat.add_zero]; exact hw)
    rw [decode_at_1B hm]
    simp only [decode1B, f0, f2, f4, Nat.reducePow, Nat.reduceDiv, and_self, if_true]
  case fencea | fencer scope =>
    obtain ⟨f0, f2, f4⟩ := (fenceForm_iff (by decide)).mp hw
    rw [decode_at_1B hm]
    simp only [decode1B, f0, f2, f4, Nat.reducePow, Nat.reduceDiv, and_self, if_true, Nat.reduceEqDiff, if_false, and_false]
  case wbr a b =>
    obtain ⟨f0, f9, f14, f19⟩ := (twoSources_iff (by decide)).mp hw
    have s0 := fld_split w0 0 4 5
    have s1 := fld_split w0 4 5 15
    have b0 := fld_lt w0 0 4
    simp only [Nat.reducePow, Nat.reduceAdd] at s0 s1 b0
    rw [decode_at_1B hm, decode1B]
    iterate 3 refine form_skip (by omega) ?_
    refine form_take ⟨f0, f19⟩ ?_
    rw [f9, f14]
  case invr a b =>
    obtain ⟨f0, f9, f14, f19⟩ := (twoSources_iff (by decide)).mp hw
    have s0 := fld_split w0 0 4 5
    have s1 := fld_split w0 4 5 15
    have b0 := fld_lt w0 0 4
    simp only [Nat.reducePow, Nat.reduceAdd] at s0 s1 b0
    rw [decode_at_1B hm, decode1B]
    iterate 4 refine form_skip (by omega) ?_
    refine form_take ⟨f0, f19⟩ ?_
    rw [f9, f14]
  case discard a b =>
    obtain ⟨f0, f9, f14, f19⟩ := (twoSources_iff (by decide)).mp hw
    have s0 := fld_split w0 0 4 5
    have s1 := fld_split w0 4 5 15
    have b0 := fld_lt w0 0 4
    simp only [Nat.reducePow, Nat.reduceAdd] at s0 s1 b0
    rw [decode_at_1B hm, decode1B]
    iterate 5 refine form_skip (by omega) ?_
    refine form_take ⟨f0, f19⟩ ?_
    rw [f9, f14]
  case pref a b =>
    obtain ⟨f0, f9, f14, f19⟩ := (twoSources_iff (by decide)).mp hw
    have s0 := fld_split w0 0 4 5
    have s1 := fld_split w0 4 5 15
    have b0 := fld_lt w0 0 4
    simp only [Nat.reducePow, Nat.reduceAdd] at s0 s1 b0
    rw [decode_at_1B hm, decode1B]
    iterate 6 refine form_skip (by omega) ?_
    refine form_take ⟨f0, f19⟩ ?_
    rw [f9, f14]
  case aadd d a b sz order scope =>
    obtain ⟨f0, f2, f4, f5, f9, f14, f19⟩ := (atomic_iff (op := 0) (by decide)).mp (by rw [Nat.add_zero]; exact hw)
    rw [decode_at_1C hm]
    simp only [decode1C, f0, f2, f4, f5, f9, f14, f19, Nat.reducePow, Nat.reduceDiv, if_true]
  case aand | aor | axor | amin | amax | aminn | amaxn | aswp d a b sz order scope =>
    obtain ⟨f0, f2, f4, f5, f9, f14, f19⟩ := (atomic_iff (by decide)).mp hw
    rw [decode_at_1C hm]
    simp only [decode1C, f0, f2, f4, f5, f9, f14, f19, Nat.reducePow, Nat.reduceDiv, if_true, Nat.reduceEqDiff, if_false]
  case afadd d a b order scope =>
    obtain ⟨f0, f2, f4, f9, f14, f19⟩ := (floatAtomic_iff (by decide)).mp hw
    have s0 := fld_split w0 4 1 4
    have b0 := fld_lt w0 4 1
    simp only [Nat.reducePow, Nat.reduceAdd] at s0 b0
    rw [decode_at_1C hm, decode1C]
    iterate 9 refine form_skip (by omega) ?_
    refine form_take f4 ?_
    rw [f0, f2, f9, f14, f19]
  case acas d a b sz order scope =>
    obtain ⟨f0, f2, f4, f5, f9, f14, f19⟩ := (atomic_iff (by decide)).mp hw
    have s0 := fld_split w0 4 1 4
    simp only [Nat.reducePow, Nat.reduceAdd] at s0
    rw [decode_at_1C hm, decode1C]
    iterate 10 refine form_skip (by omega) ?_
    refine form_take f5 ?_
    rw [f0, f2, f4, f9, f14, f19]
  case join a b =>
    obtain ⟨f0, f9, f14, f19⟩ := (twoSources_iff (op := 0) (by decide)).mp (by rw [Nat.add_zero]; exact hw)
    rw [decode_at_1D hm]
    simp only [decode1D, f0, f9, f14, f19, and_self, if_true]
  case joina a b =>
    obtain ⟨f0, f9, f14, f19⟩ := (twoSources_iff (by decide)).mp hw
    rw [decode_at_1D hm]
    simp only [decode1D, f0, f9, f14, f19, and_self, if_true, Nat.reduceEqDiff, if_false, false_and]
  case ldlat d a =>
    obtain ⟨f0, f14, f19⟩ := (twoRegs_iff (by decide)).mp hw
    have s0 := fld_split w0 0 9 5
    simp only [Nat.reducePow, Nat.reduceAdd] at s0
    rw [decode_at_1D hm, decode1D]
    iterate 2 refine form_skip (by omega) ?_
    refine form_take f0 ?_
    rw [f14, f19]
  case ldge d a b =>
    obtain ⟨f0, f9, f14, f19⟩ := (threeRegs_iff (by decide)).mp hw
    have s0 := fld_split w0 0 9 5
    simp only [Nat.reducePow, Nat.reduceAdd] at s0
    rw [decode_at_1D hm, decode1D]
    iterate 3 refine form_skip (by omega) ?_
    refine form_take f0 ?_
    rw [f9, f14, f19]

theorem decode_of_low_channels {w0 w1 : Nat} {i : Instr}
    (hi : [0x20, 0x21, 0x22, 0x23, 0x24, 0x25, 0x28, 0x29, 0x2A, 0x2B, 0x2C, 0x2D, 0x2E, 0x2F].contains (majorOfInstr i) = true)
    (hf : wellFormed i = true) (hm : majorOf w0 = majorOfInstr i) (hw : w0 % 2 ^ 24 = encodeLow i) (h1 : isLongMajor (majorOfInstr i) = true → encodeSecond i = some w1) : decode w0 w1 = checked i := by
  cases i <;> cases hi
  case tkwait set =>
    obtain ⟨f0, f3, f6⟩ := waitSet_iff.mp hw
    rw [decode_at_20 hm]
    simp only [decode20, f0, f3, f6, and_self, if_true]
  case tkpost set =>
    obtain ⟨f0, f3⟩ := (postSet_iff (by decide)).mp hw
    have s0 := fld_split w0 3 3 18
    have b0 := fld_lt w0 3 3
    simp only [Nat.reducePow, Nat.reduceAdd] at s0 b0
    rw [decode_at_20 hm, decode20]
    refine form_skip (by omega) ?_
    refine form_take f3 ?_
    rw [f0]
  case qpush q a =>
    obtain ⟨f0, f3, f14, f19⟩ := (pushForm_iff (by decide)).mp hw
    have s0 := fld_split w0 3 3 8
    have s1 := fld_split w0 6 8 10
    have s2 := fld_split w0 3 11 10
    have b0 := fld_lt w0 3 3
    simp only [Nat.reducePow, Nat.reduceAdd] at s0 s1 s2 b0
    rw [decode_at_20 hm, decode20]
    iterate 2 refine form_skip (by omega) ?_
    refine form_take ⟨f3, f19⟩ ?_
    rw [f0, f14]
  case qpop d q =>
    obtain ⟨f0, f3, f19⟩ := (popForm_iff (by decide)).mp hw
    have s0 := fld_split w0 3 3 13
    have s1 := fld_split w0 6 13 5
    have s2 := fld_split w0 3 16 5
    have s3 := fld_split w0 3 11 5
    have b0 := fld_lt w0 3 3
    simp only [Nat.reducePow, Nat.reduceAdd] at s0 s1 s2 s3 b0
    rw [decode_at_20 hm, decode20]
    iterate 3 refine form_skip (by omega) ?_
    refine form_take f3 ?_
    rw [f0, f19]
  case sclaim st d =>
    obtain ⟨f0, f4, f19⟩ := (stageToReg_iff (op := 0) (by decide)).mp (by rw [Nat.add_zero]; exact hw)
    rw [decode_at_21 hm]
    simp only [decode21, f0, f4, f19, Nat.reducePow, Nat.reduceDiv, if_true]
  case sfill st a =>
    obtain ⟨f0, f4, f14, f19⟩ := (regToStage_iff (by decide)).mp hw
    have s0 := fld_split w0 4 10 5
    simp only [Nat.reducePow, Nat.reduceAdd] at s0
    rw [decode_at_21 hm, decode21]
    refine form_skip (by omega) ?_
    refine form_take ⟨f4, f19⟩ ?_
    rw [f0, f14]
  case swfill st d =>
    obtain ⟨f0, f4, f19⟩ := (stageToReg_iff (by decide)).mp hw
    have s0 := fld_split w0 4 10 5
    simp only [Nat.reducePow, Nat.reduceAdd] at s0
    rw [decode_at_21 hm, decode21]
    iterate 2 refine form_skip (by omega) ?_
    refine form_take f4 ?_
    rw [f0, f19]
  case srel st a =>
    obtain ⟨f0, f4, f14, f19⟩ := (regToStage_iff (by decide)).mp hw
    have s0 := fld_split w0 4 10 5
    simp only [Nat.reducePow, Nat.reduceAdd] at s0
    rw [decode_at_21 hm, decode21]
    iterate 3 refine form_skip (by omega) ?_
    refine form_take ⟨f4, f19⟩ ?_
    rw [f0, f14]
  case swfree st a =>
    obtain ⟨f0, f4, f14, f19⟩ := (regToStage_iff (by decide)).mp hw
    have s0 := fld_split w0 4 10 5
    simp only [Nat.reducePow, Nat.reduceAdd] at s0
    rw [decode_at_21 hm, decode21]
    iterate 4 refine form_skip (by omega) ?_
    refine form_take ⟨f4, f19⟩ ?_
    rw [f0, f14]
  case clinit a rel =>
    obtain ⟨f0, f5, f6, f14, f19⟩ := (claspOne_iff (op := 0) (by decide)).mp (by rw [Nat.add_zero]; exact hw)
    rw [decode_at_22 hm]
    simp only [decode22, f0, f5, f6, f14, f19, Nat.reducePow, Nat.reduceDiv, and_self, if_true]
  case clexpect a b rel =>
    obtain ⟨f0, f5, f6, f9, f14, f19⟩ := (claspTwo_iff (by decide)).mp hw
    have s0 := fld_split w0 6 3 5
    simp only [Nat.reducePow, Nat.reduceAdd] at s0
    rw [decode_at_22 hm, decode22]
    refine form_skip (by omega) ?_
    refine form_take ⟨f0, f6, f19⟩ ?_
    rw [f5, f9, f14]
  case clarrive a b rel =>
    obtain ⟨f0, f5, f6, f9, f14, f19⟩ := (claspTwo_iff (by decide)).mp hw
    have s0 := fld_split w0 6 3 5
    simp only [Nat.reducePow, Nat.reduceAdd] at s0
    rw [decode_at_22 hm, decode22]
    iterate 2 refine form_skip (by omega) ?_
    refine form_take ⟨f0, f6, f19⟩ ?_
    rw [f5, f9, f14]
  case clwait a rel =>
    obtain ⟨f0, f5, f6, f14, f19⟩ := (claspOne_iff (by decide)).mp hw
    have s0 := fld_split w0 6 3 5
    simp only [Nat.reducePow, Nat.reduceAdd] at s0
    rw [decode_at_22 hm, decode22]
    iterate 3 refine form_skip (by omega) ?_
    refine form_take ⟨f0, f6, f19⟩ ?_
    rw [f5, f14]
  case clbase a =>
    obtain ⟨f0, f14, f19⟩ := (oneSource_iff (by decide)).mp hw
    have s0 := fld_split w0 0 6 8
    have s1 := fld_split w0 6 3 5
    have b0 := fld_lt w0 0 6
    simp only [Nat.reducePow, Nat.reduceAdd] at s0 s1 b0
    rw [decode_at_22 hm, decode22]
    iterate 4 refine form_skip (by omega) ?_
    refine form_take ⟨f0, f19⟩ ?_
    rw [f14]
  case publ =>
    have f0 := (bare_iff (op := 0) (by decide)).mp hw
    rw [decode_at_23 hm]
    simp only [decode23, f0, if_true]
  case rdcad d =>
    obtain ⟨f0, f19⟩ := (toReg_iff (by decide)).mp hw
    have s0 := fld_split w0 0 19 5
    simp only [Nat.reducePow, Nat.reduceAdd] at s0
    rw [decode_at_23 hm, decode23]
    refine form_skip (by omega) ?_
    refine form_take f0 ?_
    rw [f19]
  case locq d a =>
    obtain ⟨f0, f14, f19⟩ := (twoRegs_iff (by decide)).mp hw
    have s0 := fld_split w0 0 19 5
    have s1 := fld_split w0 0 14 5
    simp only [Nat.reducePow, Nat.reduceAdd] at s0 s1
    rw [decode_at_23 hm, decode23]
    iterate 2 refine form_skip (by omega) ?_
    refine form_take f0 ?_
    rw [f14, f19]
  case launch d a =>
    obtain ⟨f0, f14, f19⟩ := (twoRegs_iff (by decide)).mp hw
    have s0 := fld_split w0 0 19 5
    have s1 := fld_split w0 0 14 5
    simp only [Nat.reducePow, Nat.reduceAdd] at s0 s1
    rw [decode_at_23 hm, decode23]
    iterate 3 refine form_skip (by omega) ?_
    refine form_take f0 ?_
    rw [f14, f19]
  case pwracq lv =>
    obtain ⟨f0, f8⟩ := powerForm_iff.mp hw
    rw [decode_at_24 hm]
    simp only [decode24, f0, f8, if_true]
  case pwrrel =>
    have f0 := (bare_iff (op := 262144) (by decide)).mp hw
    have s0 := fld_split w0 0 8 16
    have b0 := fld_lt w0 0 8
    simp only [Nat.reducePow, Nat.reduceAdd] at s0 b0
    rw [decode_at_24 hm, decode24]
    refine form_skip (by omega) ?_
    exact form_take f0 rfl
  case exit =>
    have f0 := (bare_iff (op := 0) (by decide)).mp hw
    rw [decode_at_25 hm]
    simp only [decode25, f0, if_true]
  case end_ =>
    have f0 := (bare_iff (op := 1) (by decide)).mp hw
    rw [decode_at_25 hm]
    simp only [decode25, f0, if_true, Nat.reduceEqDiff, if_false]
  case tdesc _ _ ga gb =>
    obtain ⟨f0, f14, f19⟩ := (twoRegs_iff (op := 0) (by decide)).mp (by rw [Nat.add_zero]; exact hw)
    obtain ⟨hl, hx⟩ := longOf_longWord (h1 rfl) (BitVec.toNat_lt_twoPow_of_le (by decide))
    obtain ⟨hs, hx⟩ := (slot_iff (m := 3) rfl).mp hx
    rw [decode_at_28 hm]
    simp only [decode28, f0, f14, f19, hl, hs, hx, and_self, if_true]
  case seqcfg _ _ ga gb gc =>
    obtain ⟨f0, f9, f14, f19⟩ := (threeRegs_iff (op := 0) (by decide)).mp (by rw [Nat.add_zero]; exact hw)
    obtain ⟨hl, hx⟩ := longOf_longWord (h1 rfl) (BitVec.toNat_lt_twoPow_of_le (by decide))
    obtain ⟨hs, hx⟩ := (slot_iff (m := 4) rfl).mp hx
    rw [decode_at_29 hm]
    simp only [decode29, f0, f9, f14, f19, hl, hs, hx, and_self, if_true]
  case seqrunCopy _ ch _ ga gb =>
    obtain ⟨f0, f6, f9, f14, f19⟩ := (sequence_iff (op := 0) (by decide)).mp (by rw [Nat.add_zero]; exact hw)
    obtain ⟨hl, hx⟩ := longOf_longWord (h1 rfl) (BitVec.toNat_lt_twoPow_of_le (by decide))
    obtain ⟨hs, hx⟩ := (slot_iff (m := 3) rfl).mp hx
    rw [decode_at_2A hm]
    simp only [decode2A, f0, f6, f9, f14, f19, hl, hs, hx, and_self, if_true]
  case seqrunGather | seqrunScatter | seqrunCpyscl _ ch _ ga gb =>
    obtain ⟨f0, f6, f9, f14, f19⟩ := (sequence_iff (by decide)).mp hw
    obtain ⟨hl, hx⟩ := longOf_longWord (h1 rfl) (BitVec.toNat_lt_twoPow_of_le (by decide))
    obtain ⟨hs, hx⟩ := (slot_iff (m := 3) rfl).mp hx
    rw [decode_at_2A hm]
    simp only [decode2A, f0, f6, f9, f14, f19, hl, hs, hx, and_self, if_true, Nat.reduceEqDiff, if_false, false_and]
  case copy _ ch ga gb gc =>
    obtain ⟨f0, f6, f9, f14, f19⟩ := (copyForm_iff (op := 0) (by decide)).mp (by rw [Nat.add_zero]; exact hw)
    obtain ⟨hl, hx⟩ := longOf_longWord (h1 rfl) (by decide)
    rw [decode_at_2B hm]
    simp only [decode2B, f0, f6, f9, f14, f19, hl, hx, and_self, if_true]
  case copyj _ ch ga gb gc =>
    obtain ⟨f0, f6, f9, f14, f19⟩ := (copyForm_iff (by decide)).mp hw
    obtain ⟨hl, hx⟩ := longOf_longWord (h1 rfl) (by decide)
    rw [decode_at_2B hm]
    simp only [decode2B, f0, f6, f9, f14, f19, hl, hx, and_self, if_true, Nat.reduceEqDiff, if_false, false_and]
  case gather _ ch ga gb gc _ _ =>
    obtain ⟨f0, f6, f9, f14, f19⟩ := (copyForm_iff (op := 0) (by decide)).mp (by rw [Nat.add_zero]; exact hw)
    obtain ⟨hl, hx⟩ := longOf_longWord (h1 rfl) (count_lt ..)
    obtain ⟨hs, hx⟩ := count_iff.mp hx
    rw [decode_at_2C hm]
    simp only [decode2C, f0, f6, f9, f14, f19, hl, hs, hx, if_true]
  case scatter _ ch ga gb gc _ _ =>
    obtain ⟨f0, f6, f9, f14, f19⟩ := (copyForm_iff (by decide)).mp hw
    obtain ⟨hl, hx⟩ := longOf_longWord (h1 rfl) (count_lt ..)
    obtain ⟨hs, hx⟩ := count_iff.mp hx
    rw [decode_at_2C hm]
    simp only [decode2C, f0, f6, f9, f14, f19, hl, hs, hx, if_true, Nat.reduceEqDiff, if_false]
  case copymc _ ch ga gb gc _ =>
    obtain ⟨f0, f6, f9, f14, f19⟩ := (copyForm_iff (op := 0) (by decide)).mp (by rw [Nat.add_zero]; exact hw)
    obtain ⟨hl, hx⟩ := longOf_longWord (h1 rfl) (BitVec.toNat_lt_twoPow_of_le (by decide))
    obtain ⟨hs, hx⟩ := (slot_iff (m := 3) rfl).mp hx
    rw [decode_at_2D hm]
    simp only [decode2D, f0, f6, f9, f14, f19, hl, hs, hx, and_self, if_true]
  case cpyscl _ ch ga gb gc =>
    obtain ⟨f0, f6, f9, f14, f19⟩ := (copyForm_iff (op := 0) (by decide)).mp (by rw [Nat.add_zero]; exact hw)
    obtain ⟨hl, hx⟩ := longOf_longWord (h1 rfl) (by decide)
    rw [decode_at_2E hm]
    simp only [decode2E, f0, f6, f9, f14, f19, hl, hx, and_self, if_true]
  case qsend _ ch ga _ =>
    obtain ⟨f0, f6, f9, f19⟩ := (channelReg_iff (op := 0) (by decide)).mp (by rw [Nat.add_zero]; exact hw)
    obtain ⟨hl, hx⟩ := longOf_longWord (h1 rfl) (BitVec.toNat_lt_twoPow_of_le (by decide))
    obtain ⟨hs, hx⟩ := (slot_iff (m := 6) rfl).mp hx
    rw [decode_at_2F hm]
    simp only [decode2F, f0, f6, f9, f19, hl, hs, hx, and_self, if_true]
  case qrecv _ ch ga =>
    obtain ⟨f0, f6, f9, f19⟩ := (channelReg_iff (by decide)).mp hw
    obtain ⟨hl, hx⟩ := longOf_longWord (h1 rfl) (by decide)
    rw [decode_at_2F hm]
    simp only [decode2F, f0, f6, f9, f19, hl, hx, and_self, if_true, Nat.reduceEqDiff, if_false, false_and]
  case chwait _ ch =>
    obtain ⟨f0, f6, f9⟩ := (channelOnly_iff (by decide)).mp hw
    obtain ⟨hl, hx⟩ := longOf_longWord (h1 rfl) (by decide)
    rw [decode_at_2F hm]
    simp only [decode2F, f0, f6, f9, hl, hx, and_self, if_true, Nat.reduceEqDiff, if_false, false_and]
  case chwaitStage _ ch ga =>
    obtain ⟨f0, f6, f9, f19⟩ := (channelReg_iff (by decide)).mp hw
    obtain ⟨hl, hx⟩ := longOf_longWord (h1 rfl) (by decide)
    have nz : ga ≠ 0 := of_decide_eq_true (Bool.and_eq_true_iff.mp hf).1
    have n : fld w0 19 5 ≠ 0 := fun h => nz (Fin.ext (((ofNat32_fld ..).mp f19).symm.trans h))
    have s0 := fld_split w0 9 10 5
    simp only [Nat.reducePow, Nat.reduceAdd] at s0
    rw [decode_at_2F hm, decode2F]
    iterate 3 refine form_skip (by omega) ?_
    refine form_take ⟨f0, f9, hx⟩ ?_
    rw [hl, f6, f19]

theorem decode_of_low_vectors {w0 w1 : Nat} {i : Instr}
    (hi : [0x30, 0x31, 0x32, 0x33, 0x34, 0x35, 0x36, 0x38, 0x39, 0x3A, 0x3B, 0x3C, 0x3D, 0x3E].contains (majorOfInstr i) = true)
    (hm : majorOf w0 = majorOfInstr i) (hw : w0 % 2 ^ 24 = encodeLow i) (h1 : isLongMajor (majorOfInstr i) = true → encodeSecond i = some w1) : decode w0 w1 = checked i := by
  cases i <;> cases hi
  case vaddI vd va vb mk sz =>
    obtain ⟨f0, f4, f6, f9, f14, f19⟩ := (lanes_iff (op := 0) (by decide)).mp (by rw [Nat.add_zero]; exact hw)
    rw [decode_at_30 hm]
    simp only [decode30, f0, f4, f6, f9, f14, f19, if_true]
  case vsubI | vmulI | vaddsI | vsubsI | vminI | vmaxI | vshlI | vshrI vd va vb mk sz =>
    obtain ⟨f0, f4, f6, f9, f14, f19⟩ := (lanes_iff (by decide)).mp hw
    rw [decode_at_30 hm]
    simp only [decode30, f0, f4, f6, f9, f14, f19, if_true, Nat.reduceEqDiff, if_false, false_and]
  case vcmpeqI | vcmpltI | vcmpleI md va vb mk sz =>
    obtain ⟨f0, f4, f6, f9, f14, f19, f22⟩ := (laneCompare_iff (by decide)).mp hw
    rw [decode_at_30 hm]
    simp only [decode30, f0, f4, f6, f9, f14, f19, f22, and_self, if_true, Nat.reduceEqDiff, if_false, false_and]
  case vaddN vd va vb mk sz =>
    obtain ⟨f0, f4, f6, f9, f14, f19⟩ := (lanes_iff (op := 0) (by decide)).mp (by rw [Nat.add_zero]; exact hw)
    rw [decode_at_31 hm]
    simp only [decode31, f0, f4, f6, f9, f14, f19, if_true]
  case vsubN | vmulN | vaddsN | vsubsN | vminN | vmaxN | vshlN | vshrN vd va vb mk sz =>
    obtain ⟨f0, f4, f6, f9, f14, f19⟩ := (lanes_iff (by decide)).mp hw
    rw [decode_at_31 hm]
    simp only [decode31, f0, f4, f6, f9, f14, f19, if_true, Nat.reduceEqDiff, if_false, false_and]
  case vcmpeqN | vcmpltN | vcmpleN md va vb mk sz =>
    obtain ⟨f0, f4, f6, f9, f14, f19, f22⟩ := (laneCompare_iff (by decide)).mp hw
    rw [decode_at_31 hm]
    simp only [decode31, f0, f4, f6, f9, f14, f19, f22, and_self, if_true, Nat.reduceEqDiff, if_false, false_and]
  case vand vd va vb mk =>
    obtain ⟨f0, f6, f9, f14, f19⟩ := (masked_iff (op := 0) (by decide)).mp (by rw [Nat.add_zero]; exact hw)
    rw [decode_at_32 hm]
    simp only [decode32, f0, f6, f9, f14, f19, if_true]
  case vor | vxor | vandn | vsel | vshuf vd va vb mk =>
    obtain ⟨f0, f6, f9, f14, f19⟩ := (masked_iff (by decide)).mp hw
    rw [decode_at_32 hm]
    simp only [decode32, f0, f6, f9, f14, f19, if_true, Nat.reduceEqDiff, if_false, false_and]
  case vbcst vd a sz mk =>
    obtain ⟨f0, f6, f9, f11, f14, f19⟩ := (broadcast_iff (by decide)).mp hw
    rw [decode_at_32 hm]
    simp only [decode32, f0, f6, f9, f11, f14, f19, and_self, if_true, Nat.reduceEqDiff, if_false, false_and]
  case vmov vd va mk =>
    obtain ⟨f0, f6, f9, f14, f19⟩ := (maskedUnary_iff (by decide)).mp hw
    rw [decode_at_32 hm]
    simp only [decode32, f0, f6, f9, f14, f19, and_self, if_true, Nat.reduceEqDiff, if_false, false_and]
  case mand md ma mb =>
    obtain ⟨f0, f9, f12, f14, f17, f19, f22⟩ := (threePreds_iff (by decide)).mp hw
    have s0 := fld_split w0 0 6 3
    simp only [Nat.reducePow, Nat.reduceAdd] at s0
    rw [decode_at_32 hm, decode32]
    iterate 8 refine form_skip (by omega) ?_
    refine form_take ⟨f0, f12, f17, f22⟩ ?_
    rw [f9, f14, f19]
  case mor md ma mb =>
    obtain ⟨f0, f9, f12, f14, f17, f19, f22⟩ := (threePreds_iff (by decide)).mp hw
    have s0 := fld_split w0 0 6 3
    simp only [Nat.reducePow, Nat.reduceAdd] at s0
    rw [decode_at_32 hm, decode32]
    iterate 9 refine form_skip (by omega) ?_
    refine form_take ⟨f0, f12, f17, f22⟩ ?_
    rw [f9, f14, f19]
  case mxor md ma mb =>
    obtain ⟨f0, f9, f12, f14, f17, f19, f22⟩ := (threePreds_iff (by decide)).mp hw
    have s0 := fld_split w0 0 6 3
    simp only [Nat.reducePow, Nat.reduceAdd] at s0
    rw [decode_at_32 hm, decode32]
    iterate 10 refine form_skip (by omega) ?_
    refine form_take ⟨f0, f12, f17, f22⟩ ?_
    rw [f9, f14, f19]
  case mandn md ma mb =>
    obtain ⟨f0, f9, f12, f14, f17, f19, f22⟩ := (threePreds_iff (by decide)).mp hw
    have s0 := fld_split w0 0 6 3
    simp only [Nat.reducePow, Nat.reduceAdd] at s0
    rw [decode_at_32 hm, decode32]
    iterate 11 refine form_skip (by omega) ?_
    refine form_take ⟨f0, f12, f17, f22⟩ ?_
    rw [f9, f14, f19]
  case mnot md ma =>
    obtain ⟨f0, f14, f17, f19, f22⟩ := (twoPreds_iff (by decide)).mp hw
    have s0 := fld_split w0 0 9 5
    have s1 := fld_split w0 0 6 3
    simp only [Nat.reducePow, Nat.reduceAdd] at s0 s1
    rw [decode_at_32 hm, decode32]
    iterate 12 refine form_skip (by omega) ?_
    refine form_take ⟨f0, f17, f22⟩ ?_
    rw [f14, f19]
  case vlane d va lane =>
    obtain ⟨f0, f9, f13, f14, f19⟩ := (laneRead_iff (by decide)).mp hw
    have s0 := fld_split w0 0 6 3
    have s1 := fld_split w0 0 9 5
    simp only [Nat.reducePow, Nat.reduceAdd] at s0 s1
    rw [decode_at_32 hm, decode32]
    iterate 13 refine form_skip (by omega) ?_
    refine form_take ⟨f0, f13⟩ ?_
    rw [f9, f14, f19]
  case vaddF vd va vb mk ty =>
    obtain ⟨f0, f4, f6, f9, f14, f19⟩ := (lanes_iff (op := 0) (by decide)).mp (by rw [Nat.add_zero]; exact hw)
    rw [decode_at_33 hm]
    simp only [decode33, f0, f4, f6, f9, f14, f19, if_true]
  case vsubF | vmulF | vfma | vminF | vmaxF vd va vb mk ty =>
    obtain ⟨f0, f4, f6, f9, f14, f19⟩ := (lanes_iff (by decide)).mp hw
    rw [decode_at_33 hm]
    simp only [decode33, f0, f4, f6, f9, f14, f19, if_true, Nat.reduceEqDiff, if_false, false_and]
  case vcmpeqF | vcmpltF | vcmpleF md va vb mk ty =>
    obtain ⟨f0, f4, f6, f9, f14, f19, f22⟩ := (laneCompare_iff (by decide)).mp hw
    rw [decode_at_33 hm]
    simp only [decode33, f0, f4, f6, f9, f14, f19, f22, and_self, if_true, Nat.reduceEqDiff, if_false, false_and]
  case vabs | vneg vd va mk ty =>
    obtain ⟨f0, f4, f6, f9, f14, f19⟩ := (laneUnary_iff (by decide)).mp hw
    rw [decode_at_33 hm]
    simp only [decode33, f0, f4, f6, f9, f14, f19, and_self, if_true, Nat.reduceEqDiff, if_false, false_and]
  case vexp2 vd va mk =>
    obtain ⟨f0, f6, f9, f14, f19⟩ := (maskedUnary_iff (op := 0) (by decide)).mp (by rw [Nat.add_zero]; exact hw)
    rw [decode_at_34 hm]
    simp only [decode34, f0, f6, f9, f14, f19, and_self, if_true]
  case vlog2 | vrcp | vrsq | vtanh | vrsum | vrmax | vrmin vd va mk =>
    obtain ⟨f0, f6, f9, f14, f19⟩ := (maskedUnary_iff (by decide)).mp hw
    rw [decode_at_34 hm]
    simp only [decode34, f0, f6, f9, f14, f19, and_self, if_true, Nat.reduceEqDiff, if_false, false_and]
  case vtopk vd va vb mk =>
    obtain ⟨f0, f6, f9, f14, f19⟩ := (masked_iff (by decide)).mp hw
    rw [decode_at_34 hm]
    simp only [decode34, f0, f6, f9, f14, f19, if_true, Nat.reduceEqDiff, if_false, false_and]
  case vcvt vd va dt st rm sa mk =>
    obtain ⟨f0, f3, f4, f6, f10, f14, f19⟩ := conversion_iff.mp hw
    rw [decode_at_35 hm]
    simp only [decode35, f0, f3, f4, f6, f10, f14, f19]
  case vld _ v a _ mk =>
    obtain ⟨f0, f3, f6, f14, f19⟩ := (vectorMemory_iff (op := 0) (by decide)).mp (by rw [Nat.add_zero]; exact hw)
    obtain ⟨hl, hx⟩ := longOf_longWord (h1 rfl) (BitVec.isLt _)
    have hx := (ofNatBv_fld ..).mpr hx
    rw [decode_at_36 hm]
    simp only [decode36, f0, f3, f6, f14, f19, hl, hx, Nat.reducePow, Nat.reduceDiv, and_self, if_true]
  case vst _ v a _ mk =>
    obtain ⟨f0, f3, f6, f14, f19⟩ := (vectorMemory_iff (by decide)).mp hw
    obtain ⟨hl, hx⟩ := longOf_longWord (h1 rfl) (BitVec.isLt _)
    have hx := (ofNatBv_fld ..).mpr hx
    rw [decode_at_36 hm]
    simp only [decode36, f0, f3, f6, f14, f19, hl, hx, Nat.reducePow, Nat.reduceDiv, and_self, if_true, Nat.reduceEqDiff, if_false, and_false]
  case vqpop _ v mk =>
    obtain ⟨f0, f3, f6, f19⟩ := (vectorQueue_iff (by decide)).mp hw
    obtain ⟨hl, hx⟩ := longOf_longWord (h1 rfl) (by decide)
    have s0 := fld_split w0 6 8 5
    simp only [Nat.reducePow, Nat.reduceAdd] at s0
    rw [decode_at_36 hm, decode36]
    iterate 2 refine form_skip (by omega) ?_
    refine form_take ⟨f0, f6, hx⟩ ?_
    rw [hl, f3, f19]
  case vqpush _ v mk =>
    obtain ⟨f0, f3, f6, f19⟩ := (vectorQueue_iff (by decide)).mp hw
    obtain ⟨hl, hx⟩ := longOf_longWord (h1 rfl) (by decide)
    have s0 := fld_split w0 6 8 5
    simp only [Nat.reducePow, Nat.reduceAdd] at s0
    rw [decode_at_36 hm, decode36]
    iterate 3 refine form_skip (by omega) ?_
    refine form_take ⟨f0, f6, hx⟩ ?_
    rw [hl, f3, f19]
  case fmtw _ g =>
    obtain ⟨f0, f5, f10⟩ := formatForm_iff.mp hw
    obtain ⟨hl, hx⟩ := longOf_longWord (h1 rfl) (by decide)
    rw [decode_at_38 hm]
    simp only [decode38, f0, f5, f10, hl, hx, and_self, if_true]
  case tld _ ta g =>
    obtain ⟨f0, f5, f10, f20⟩ := (tileMemory_iff (op := 0) (by decide)).mp (by rw [Nat.add_zero]; exact hw)
    obtain ⟨hl, hx⟩ := longOf_longWord (h1 rfl) (by decide)
    rw [decode_at_39 hm]
    simp only [decode39, f0, f5, f10, f20, hl, hx, and_self, if_true]
  case tst _ ta g =>
    obtain ⟨f0, f5, f10, f20⟩ := (tileMemory_iff (by decide)).mp hw
    obtain ⟨hl, hx⟩ := longOf_longWord (h1 rfl) (by decide)
    rw [decode_at_39 hm]
    simp only [decode39, f0, f5, f10, f20, hl, hx, and_self, if_true, Nat.reduceEqDiff, if_false, false_and]
  case tqld _ ta =>
    obtain ⟨f0, f20⟩ := (tileOnly_iff (by decide)).mp hw
    obtain ⟨hl, hx⟩ := longOf_longWord (h1 rfl) (by decide)
    have s0 := fld_split w0 0 5 15
    simp only [Nat.reducePow, Nat.reduceAdd] at s0
    rw [decode_at_39 hm, decode39]
    iterate 2 refine form_skip (by omega) ?_
    refine form_take ⟨f0, hx⟩ ?_
    rw [hl, f20]
  case tzero _ ta =>
    obtain ⟨f0, f20⟩ := (tileOnly_iff (op := 0) (by decide)).mp (by rw [Nat.add_zero]; exact hw)
    obtain ⟨hl, hx⟩ := longOf_longWord (h1 rfl) (by decide)
    rw [decode_at_3A hm]
    simp only [decode3A, f0, f20, hl, hx, and_self, if_true]
  case ttrans _ ta tb =>
    obtain ⟨f0, f16, f20⟩ := (tilePair_iff (by decide)).mp hw
    obtain ⟨hl, hx⟩ := longOf_longWord (h1 rfl) (by decide)
    have s0 := fld_split w0 0 16 4
    simp only [Nat.reducePow, Nat.reduceAdd] at s0
    rw [decode_at_3A hm, decode3A]
    refine form_skip (by omega) ?_
    refine form_take ⟨f0, hx⟩ ?_
    rw [hl, f16, f20]
  case tcvt _ ta tb rm =>
    obtain ⟨f0, f3, f5, f16, f20⟩ := (tileConversion_iff (by decide)).mp hw
    obtain ⟨hl, hx⟩ := longOf_longWord (h1 rfl) (by decide)
    have s0 := fld_split w0 0 3 13
    have s1 := fld_split w0 0 16 4
    simp only [Nat.reducePow, Nat.reduceAdd] at s0 s1
    rw [decode_at_3A hm, decode3A]
    iterate 2 refine form_skip (by omega) ?_
    refine form_take ⟨f0, f5, hx⟩ ?_
    rw [hl, f3, f16, f20]
  case tmma _ acc ta tb =>
    obtain ⟨f0, f10, f16, f20⟩ := product_iff.mp hw
    obtain ⟨hl, hx⟩ := longOf_longWord (h1 rfl) (by decide)
    rw [decode_at_3B hm]
    simp only [decode3B, f0, f10, f16, f20, hl, hx, and_self, if_true]
  case tmmas _ acc ta tb g =>
    obtain ⟨f0, f5, f10, f16, f20⟩ := scaledProduct_iff.mp hw
    obtain ⟨hl, hx⟩ := longOf_longWord (h1 rfl) (by decide)
    rw [decode_at_3C hm]
    simp only [decode3C, f0, f5, f10, f16, f20, hl, hx, and_self, if_true]
  case tdrain _ g acc =>
    obtain ⟨f0, f5, f10, f16⟩ := drain_iff.mp hw
    obtain ⟨hl, hx⟩ := longOf_longWord (h1 rfl) (by decide)
    rw [decode_at_3D hm]
    simp only [decode3D, f0, f5, f10, f16, hl, hx, and_self, if_true]
  case tdrainadd _ g acc k =>
    obtain ⟨f0, f4, f5, f10, f16⟩ := (drainAdd_iff (by decide)).mp hw
    obtain ⟨hl, hx⟩ := longOf_longWord (h1 rfl) (by decide)
    have s0 := fld_split w0 0 4 1
    simp only [Nat.reducePow, Nat.reduceAdd] at s0
    rw [decode_at_3D hm, decode3D]
    refine form_skip (by omega) ?_
    refine form_take ⟨f0, f16, hx⟩ ?_
    rw [hl, f4, f5, f10]
  case hmrd _ g acc =>
    obtain ⟨f0, f5, f10, f16⟩ := drain_iff.mp hw
    obtain ⟨hl, hx⟩ := longOf_longWord (h1 rfl) (by decide)
    rw [decode_at_3E hm]
    simp only [decode3E, f0, f5, f10, f16, hl, hx, and_self, if_true]
  case hmclr _ acc =>
    obtain ⟨f0, f10, f16⟩ := (accOnly_iff (by decide)).mp hw
    obtain ⟨hl, hx⟩ := longOf_longWord (h1 rfl) (by decide)
    have s0 := fld_split w0 0 5 5
    simp only [Nat.reducePow, Nat.reduceAdd] at s0
    rw [decode_at_3E hm, decode3E]
    refine form_skip (by omega) ?_
    refine form_take ⟨f0, f16, hx⟩ ?_
    rw [hl, f10]

theorem majorAssigned_of_wellFormed {i : Instr} (h : wellFormed i = true) : majorAssigned (majorOfInstr i) = true := by
  cases i <;> first | rfl | cases h

theorem majorOfInstr_lt {i : Instr} (h : wellFormed i = true) : majorOfInstr i < 64 := by
  have := majorAssigned_of_wellFormed h
  simp only [majorAssigned, Bool.and_eq_true, decide_eq_true_eq] at this
  exact this.2

theorem majorAssigned_split {m : Nat} (hm : m < 64) (ha : majorAssigned m = true) :
    [0x01, 0x02, 0x03, 0x04, 0x05, 0x06, 0x08, 0x09, 0x0A, 0x0B, 0x0C, 0x0D, 0x0E, 0x0F].contains m = true ∨
    [0x10, 0x11, 0x12, 0x13, 0x14, 0x15, 0x16, 0x17, 0x18, 0x19, 0x1A, 0x1B, 0x1C, 0x1D].contains m = true ∨
    [0x20, 0x21, 0x22, 0x23, 0x24, 0x25, 0x28, 0x29, 0x2A, 0x2B, 0x2C, 0x2D, 0x2E, 0x2F].contains m = true ∨
    [0x30, 0x31, 0x32, 0x33, 0x34, 0x35, 0x36, 0x38, 0x39, 0x3A, 0x3B, 0x3C, 0x3D, 0x3E].contains m = true := by
  interval_cases m <;> simp [majorAssigned] at ha ⊢

theorem decode_of_holds {w0 w1 : Nat} {i : Instr} (h : Holds w0 w1 i) : decode w0 w1 = .ok i := by
  obtain ⟨hf, hm, hw, h1⟩ := h
  suffices decode w0 w1 = checked i by rw [this, checked, if_pos hf]
  have second (hl : isLongMajor (majorOfInstr i) = true) : encodeSecond i = some w1 := by rw [h1, hm, if_pos hl]
  rcases majorAssigned_split (majorOfInstr_lt hf) (majorAssigned_of_wellFormed hf) with m | m | m | m
  · exact decode_of_low_scalar m hm hw
  · exact decode_of_low_control m hm hw
  · exact decode_of_low_channels m hf hm hw second
  · exact decode_of_low_vectors m hm hw second

theorem decode_iff_holds {w0 w1 : Nat} {i : Instr} (h1 : w1 < 2 ^ 32) : decode w0 w1 = .ok i ↔ Holds w0 w1 i :=
  ⟨holds_of_decode h1, decode_of_holds⟩

end Sys2Proof.Machine
end

section
/-! Decoding and encoding agree: O56 and O57. -/

namespace Sys2Proof.Machine

theorem encodeLow_lt (i : Instr) : encodeLow i < 2 ^ 24 := by
  cases i
  all_goals
    simp only [encodeLow, sl, Nat.reducePow]
    omega

theorem encodeSecond_lt {i : Instr} {w : Nat} (h : encodeSecond i = some w) : w < 2 ^ 32 := by
  cases i <;> cases h
  all_goals
    apply longWord_lt
    simp only [sl, Nat.reducePow]
    omega

theorem encodeSecond_isSome (i : Instr) : (encodeSecond i).isSome = isLongMajor (majorOfInstr i) := by
  cases i <;> rfl

theorem encodeFirst_lt (s e : Bool) {i : Instr} (h : wellFormed i = true) : encodeFirst s e i < 2 ^ 32 := by
  have hm := majorOfInstr_lt h
  have hl := encodeLow_lt i
  have hs := s.toNat_lt
  have he := e.toNat_lt
  simp only [encodeFirst, sl, Nat.reducePow] at *
  omega

theorem encodeFirst_parts (s e : Bool) {i : Instr} (h : wellFormed i = true) :
    majorOf (encodeFirst s e i) = majorOfInstr i ∧ encodeFirst s e i / 2 ^ 25 % 2 = s.toNat ∧
      encodeFirst s e i / 2 ^ 24 % 2 = e.toNat ∧ encodeFirst s e i % 2 ^ 24 = encodeLow i := by
  have hw := encodeFirst_lt s e h
  have hl := encodeLow_lt i
  have hs := s.toNat_lt
  have he := e.toNat_lt
  simp only [majorOf, fld, encodeFirst, sl, Nat.reducePow] at *
  omega

theorem encodeFirst_of_holds {w0 w1 : Nat} {i : Instr} (h0 : w0 < 2 ^ 32) (h : Holds w0 w1 i) :
    encodeFirst (decide (w0 / 2 ^ 25 % 2 = 1)) (decide (w0 / 2 ^ 24 % 2 = 1)) i = w0 := by
  obtain ⟨-, hm, hl, -⟩ := h
  rw [encodeFirst, ← hm, ← hl]
  have bit (n : Nat) : (decide (n % 2 = 1)).toNat = n % 2 := by
    rcases Nat.mod_two_eq_zero_or_one n with h | h <;> simp [h]
  simp only [bit, majorOf, fld, sl, Nat.reducePow] at *
  omega

theorem holds_encode (s e : Bool) {i : Instr} (h : wellFormed i = true) :
    Holds (encodeFirst s e i) ((encodeSecond i).toList.headD 0) i := by
  obtain ⟨hm, -, -, hl⟩ := encodeFirst_parts s e h
  refine ⟨h, hm, hl, ?_⟩
  rw [hm, ← encodeSecond_isSome]
  cases encodeSecond i <;> rfl

/-- Settles O56: the words of an instruction are its fields side by side, and a decodable word is the sum of its fields. -/
theorem decodingAndEncodingAgree : Obligations.DecodingAndEncodingAgree := by
  refine ⟨fun s e i h => ?_, fun w0 w1 i h0 h1 h => ?_⟩
  · obtain ⟨hm, hs, he, -⟩ := encodeFirst_parts s e h
    have hlong := encodeSecond_isSome i
    have second : ∀ w ∈ (encodeSecond i).toList, w < 2 ^ 32 := fun w hw => encodeSecond_lt (by simpa using hw)
    refine ⟨_, _, rfl, encodeFirst_lt s e h, second, ?_, hm, hs, he, (decode_iff_holds ?_).mpr (holds_encode s e h)⟩
    · rw [hm, ← hlong]
      cases encodeSecond i <;> rfl
    · cases h2 : encodeSecond i with
      | none => decide
      | some w => exact encodeSecond_lt h2
  · have holds := (decode_iff_holds h1).mp h
    have ⟨hf, _, _, second⟩ := holds
    refine ⟨hf, ?_⟩
    rw [encode, encodeFirst_of_holds h0 holds, second]
    split <;> rfl

/-- Settles O57, by evaluating the decoder. -/
theorem writtenOutWordsDecode : Obligations.WrittenOutWordsDecode := by
  refine ⟨rfl, rfl, rfl, rfl, rfl, rfl, rfl, rfl, rfl, rfl, rfl, rfl, rfl, rfl, rfl, rfl, rfl, rfl, rfl, rfl, rfl, rfl, rfl, rfl, rfl, rfl,
    fun i h => ?_, fun i h => ?_⟩ <;> cases h
end Sys2Proof.Machine
end

section
/-! Branches, calls and jumps: where a target lies, and what going on there changes (R43, R59, R60, R135). -/

namespace Sys2Proof.Machine

/-! Targets. -/

/-- The line a label names, relative to the line of an address. -/
def targetLine (base : Word) (delta : Int) : Int := (base.toNat % 2 ^ 40 / 64 : Nat) + delta

/-- The address of a word of a line, with the address bits that stand above a code offset. -/
def targetWord (base : Word) (line : Int) (word : Nat) : Word :=
  BitVec.ofNat 64 (base.toNat / 2 ^ 40 * 2 ^ 40 + line.toNat * 64 + word * 4)

theorem codeTarget_eq (base : Word) (delta : Int) (word : Nat) : codeTarget base delta word =
    if 0 ≤ targetLine base delta ∧ targetLine base delta < 2 ^ 34 then some (targetWord base (targetLine base delta) word) else none := by
  have line : bits base 6 34 = base.toNat % 2 ^ 40 / 64 := by unfold bits; omega
  have high : bits base 40 24 = base.toNat / 2 ^ 40 := by have := base.isLt; unfold bits; omega
  simp only [codeTarget, line, high]
  rfl

theorem State.target_inside {s : State} {delta : Int} (h : 0 ≤ targetLine s.ir.bpc delta ∧ targetLine s.ir.bpc delta < 2 ^ 34)
    (word : BitVec 4) : s.target? word delta = some (targetWord s.ir.bpc (targetLine s.ir.bpc delta) word.toNat) := by
  rw [State.target?, codeTarget_eq, if_pos h]

theorem State.target_outside {s : State} {delta : Int} (h : ¬ (0 ≤ targetLine s.ir.bpc delta ∧ targetLine s.ir.bpc delta < 2 ^ 34))
    (word : BitVec 4) : s.target? word delta = none := by
  rw [State.target?, codeTarget_eq, if_neg h]

/-- What R42 asks of a code address, as numbers. -/
theorem codeAddrOk_iff (a : Word) : codeAddrOk a = true ↔ a.toNat / 2 ^ 60 ≤ 1 ∧ a.toNat % 4 = 0 ∧ a.toNat / 4 % 16 ≠ 0 := by
  rw [codeAddrOk, Bool.and_eq_true, Bool.and_eq_true, decide_eq_true_iff, decide_eq_true_iff, decide_eq_true_iff, bits_path, bits_low,
    and_assoc]
  rfl

/-! A register written, and the executing cluster changed. -/

theorem setG_onCl_frame (s : State) (d : Reg) (r : Word) (f : Cluster → Cluster) (rep : Report) :
    sameButCluster s { ((s.setG d r).onCl f) with report := rep } ∧
    State.cl { ((s.setG d r).onCl f) with report := rep } = f (s.setG d r).cl := by
  have whole : (s.setG d r).onCl f = s.setCore s.cur.core ((s.me.putG s.cur.clu d r).onClu s.cur.clu f) := by
    rw [State.setG_eq]; exact State.onMe_setCore _ _ _
  have me : State.me { ((s.setG d r).onCl f) with report := rep } = (s.me.putG s.cur.clu d r).onClu s.cur.clu f := by
    rw [whole]; exact State.me_setCore s _
  refine ⟨⟨sameMemory_of_ms ?_, ?_, ?_, fun y h => ?_⟩, State.onCl_cl _ _⟩
  · rw [whole]; rfl
  · rw [whole]; exact sameOutside_setCore s _
  · rw [me, Core.onClu, Core.putG_frame]
  · rw [me, Core.onClu_ne _ _ h, Core.putG_ne _ h]

theorem onlyG_setG_onCl (s : State) (d : Reg) (r : Word) {f : Cluster → Cluster} (hf : ∀ c, (f c).g = c.g) (rep : Report) :
    onlyG s { ((s.setG d r).onCl f) with report := rep } d r := fun q => by
  rw [(setG_onCl_frame s d r f rep).2, Cluster.gReg_of_g (hf _), State.setG_cl_gReg]

/-- Going on at an address, after a register was written, changes the position and that register. -/
theorem jumped_setG (s : State) (d : Reg) (r a : Word) : jumped s ((s.setG d r).goTo a false) a ∧ onlyG s ((s.setG d r).goTo a false) d r := by
  obtain ⟨frame, cl⟩ := setG_onCl_frame s d r (fun c => { c with pc := a, pcReg := false, lineRoom := maxLines }) .branched
  have reg := onlyG_setG_onCl s d r (f := fun c => { c with pc := a, pcReg := false, lineRoom := maxLines }) (fun _ => rfl) .branched
  refine ⟨⟨frame, rfl, ?_⟩, reg⟩
  have before := (wroteG_setG s d r).2.2.1
  change State.cl { ((s.setG d r).onCl _) with report := .branched } = _
  rw [State.goTo, cl, before]

theorem nextBundle_of_pcBad {s : State} (h : s.cl.pcBad = true) : s.nextBundle = .error ⟨5, 7, s.cl.pc, 0, 0⟩ := if_pos h

/-! Taken branches. -/

theorem branch_inside (s : State) {delta : Int} (h : 0 ≤ targetLine s.ir.bpc delta ∧ targetLine s.ir.bpc delta < 2 ^ 34)
    (word : BitVec 4) (d : Reg) (r : Word) :
    (s.setG d r).branch word delta = (s.setG d r).goTo (targetWord s.ir.bpc (targetLine s.ir.bpc delta) word.toNat) false := by
  have ir : (s.setG d r).ir = s.ir := by rw [State.setG_eq]; rfl
  have found := State.target_inside (s := s.setG d r) (by rw [ir]; exact h) word
  rw [ir] at found
  rw [State.branch, found]

/-- A taken branch whose target lies outside leaves the fetch fault to the next bundle. -/
theorem branch_outside (s : State) {delta : Int} (h : ¬ (0 ≤ targetLine s.ir.bpc delta ∧ targetLine s.ir.bpc delta < 2 ^ 34))
    (word : BitVec 4) (d : Reg) (r : Word) : sameButCluster s ((s.setG d r).branch word delta) ∧
      onlyG s ((s.setG d r).branch word delta) d r ∧ ((s.setG d r).branch word delta).nextBundle = .error ⟨5, 7, s.ir.bpc, 0, 0⟩ := by
  have ir : (s.setG d r).ir = s.ir := by rw [State.setG_eq]; rfl
  have found := State.target_outside (s := s.setG d r) (by rw [ir]; exact h) word
  obtain ⟨frame, cl⟩ := setG_onCl_frame s d r (fun c => { c with pc := s.ir.bpc, pcReg := false, pcBad := true }) .branched
  have reg := onlyG_setG_onCl s d r (f := fun c => { c with pc := s.ir.bpc, pcReg := false, pcBad := true }) (fun _ => rfl) .branched
  rw [State.branch, found]
  simp only [ir]
  refine ⟨frame, reg, ?_⟩
  have marked : (State.cl { ((s.setG d r).onCl fun c => { c with pc := s.ir.bpc, pcReg := false, pcBad := true }) with
    report := .branched }).pcBad = true := by rw [cl]
  rw [nextBundle_of_pcBad marked, cl]

theorem execB_taken {s : State} {p : Pred} {sense : BitVec 1} (h : s.p p = (sense == 1)) (word : BitVec 4) (delta : BitVec 16) :
    exec (.b p sense word delta) s = .next ((s.setG 0 0).branch word delta.toInt) := congrArg Host.Outcome.next (if_pos h)

theorem execCall_taken {s : State} {p : Pred} {sense : BitVec 1} (h : s.p p = (sense == 1)) (word : BitVec 4) (delta : BitVec 16) :
    exec (.call p sense word delta) s = match s.returnAddress with
      | .error e => s.fetchFault e
      | .ok r => .next ((s.setG 24 r).branch word delta.toInt) := if_neg (not_not_intro h)

theorem execJmpr_legal {s : State} {a : Reg} (h : codeAddrOk (s.g a) = true) : exec (.jmpr a) s = .next ((s.setG 0 0).goTo (s.g a) false) :=
  if_pos h

theorem execCallr_legal {s : State} {a : Reg} (h : codeAddrOk (s.g a) = true) (d : Reg) : exec (.callr d a) s = match s.returnAddress with
    | .error e => s.fetchFault e
    | .ok r => .next ((s.setG d r).goTo (s.g a) false) := if_neg (by simp [h])

/-- Settles O6: a taken branch goes to its target or leaves the fault at it, and a jump through a register checks its address first. -/
theorem branchesCallsAndJumpsGoToTheNamedBundle : Obligations.BranchesCallsAndJumpsGoToTheNamedBundle := by
  refine ⟨fun s p sense word delta => ?_, fun s d a => ?_⟩
  · intro taken line inside target
    have call := fun h : taken => execCall_taken h word delta
    have branch := fun h : taken => execB_taken h word delta
    refine ⟨fun h => ⟨congrArg Host.Outcome.next (if_neg h), if_pos h⟩, fun h i => ?_, fun h i => ?_, fun h i r hr => ?_, fun h i r hr => ?_,
      fun h e he => ?_⟩
    · have moved := branch_inside s i word 0 0
      exact ⟨_, (branch h).trans (congrArg _ moved), jumped_setG s 0 0 target⟩
    · exact ⟨_, branch h, branch_outside s i word 0 0⟩
    · have moved := branch_inside s i word 24 r
      exact ⟨_, (call h).trans (by rw [hr]; exact congrArg Host.Outcome.next moved), jumped_setG s 24 r target⟩
    · exact ⟨_, (call h).trans (by rw [hr]), branch_outside s i word 24 r⟩
    · rw [call h, he]; rfl
  · intro x legal
    have checked : legal → codeAddrOk (s.g a) = true := (codeAddrOk_iff _).mpr
    refine ⟨fun h => ⟨_, execJmpr_legal (checked h), jumped_setG s 0 0 x⟩, fun h r hr => ?_, fun h e he => ?_, fun h => ?_⟩
    · exact ⟨_, (execCallr_legal (checked h) d).trans (by rw [hr]), jumped_setG s d r x⟩
    · rw [execCallr_legal (checked h) d, he]; rfl
    · have refused : ¬ codeAddrOk (s.g a) = true := fun e => h ((codeAddrOk_iff _).mp e)
      exact ⟨if_neg refused, if_pos (by simp [refused])⟩

end Sys2Proof.Machine
end

section
/-! Hardware loops: LOOP, and the levels that act at an end bundle (R136, R137, R138). -/

namespace Sys2Proof.Machine

/-! The end bundle. -/

/-- Level j is active and ends at the bundle. -/
abbrev Cluster.endsAt (o : Cluster) (bpc : Word) (j : Fin 4) : Prop := vget o.lpc j ≠ 0 ∧ vget o.lpe j = bpc

/-- Level j ends at the bundle with more than one pass left. -/
def Cluster.repeatsAt (o : Cluster) (bpc : Word) (j : Fin 4) : Prop := o.endsAt bpc j ∧ vget o.lpc j ≠ 1

/-- The count of level j, where the bundle does not write it itself (R137). -/
def Cluster.putCount (c : Cluster) (wrote : Option Nat) (j : Fin 4) (x : Word) : Cluster :=
  if wrote = some j.val then c else { c with lpc := vset c.lpc j x }

theorem Cluster.putCount_frame (c : Cluster) (wrote : Option Nat) (j : Fin 4) (x : Word) :
    c.putCount wrote j x = { c with lpc := (c.putCount wrote j x).lpc } := by
  unfold Cluster.putCount
  split <;> rfl

theorem Cluster.putCount_lpc (c : Cluster) (wrote : Option Nat) (j : Fin 4) (x : Word) (h : Fin 4) :
    vget (c.putCount wrote j x).lpc h = if h = j ∧ wrote ≠ some j.val then x else vget c.lpc h := by
  unfold Cluster.putCount
  split
  · next w => rw [if_neg (fun e => e.2 w)]
  · next w => simp only [vget_vset, and_iff_left w]

section
variable {o : Cluster} {bpc : Word} {wrote : Option Nat} (c : Cluster) {j : Fin 4}

theorem level_index (j : Fin 4) : Fin.ofNat 4 j.val = j := Fin.ext (Nat.mod_eq_of_lt j.isLt)

theorem loopEnd_skips (h : ¬ o.endsAt bpc j) : loopEnd o bpc wrote c (j.val + 1) = loopEnd o bpc wrote c j.val := by
  have passes : ¬ (vget o.lpc (Fin.ofNat 4 j.val) ≠ 0 ∧ vget o.lpe (Fin.ofNat 4 j.val) = bpc) := by rw [level_index]; exact h
  exact if_neg passes

theorem loopEnd_closes (h : o.endsAt bpc j) (hr : ¬ o.repeatsAt bpc j) :
    loopEnd o bpc wrote c (j.val + 1) = loopEnd o bpc wrote (c.putCount wrote j 0) j.val := by
  have last : vget o.lpc j = 1 := by_contra fun e => hr ⟨h, e⟩
  rw [loopEnd, level_index]
  exact (if_pos h).trans (if_pos last)

theorem loopEnd_repeats (h : o.repeatsAt bpc j) : loopEnd o bpc wrote c (j.val + 1) =
    { c.putCount wrote j (vget o.lpc j - 1) with
      pc := vget o.lps j, pcReg := true, lineRoom := maxLines, clb := advanceRot c.clb j.val } := by
  obtain ⟨ends, more⟩ := h
  rw [loopEnd, level_index]
  exact (if_pos ends).trans (if_neg more)

/-- Below level n, an end bundle leaves all registers but the counts, the position and the clasp base. -/
theorem loopEnd_frame {n : Nat} (hn : n ≤ 4) : ∀ c : Cluster, (loopEnd o bpc wrote c n).g = c.g ∧ (loopEnd o bpc wrote c n).p = c.p ∧
    (loopEnd o bpc wrote c n).lps = c.lps ∧ (loopEnd o bpc wrote c n).lpe = c.lpe := by
  induction n with
  | zero => exact fun c => ⟨rfl, rfl, rfl, rfl⟩
  | succ n ih =>
    intro c
    have below := ih (Nat.le_of_succ_le hn)
    by_cases ends : o.endsAt bpc ⟨n, hn⟩
    · by_cases more : o.repeatsAt bpc ⟨n, hn⟩
      · rw [loopEnd_repeats (j := ⟨n, hn⟩) c more, Cluster.putCount_frame]
        exact ⟨rfl, rfl, rfl, rfl⟩
      · rw [loopEnd_closes (j := ⟨n, hn⟩) c ends more]
        have := below (c.putCount wrote ⟨n, hn⟩ 0)
        rw [Cluster.putCount_frame] at this ⊢
        exact this
    · rw [loopEnd_skips (j := ⟨n, hn⟩) c ends]
      exact below c

/-- Where no level below n repeats, those that end become inactive and the cluster goes on. -/
theorem loopEnd_none {n : Nat} (hn : n ≤ 4) (h : ∀ j : Fin 4, j.val < n → ¬ o.repeatsAt bpc j) : ∀ c : Cluster,
    (loopEnd o bpc wrote c n).pc = c.pc ∧ (loopEnd o bpc wrote c n).clb = c.clb ∧
    ∀ j, vget (loopEnd o bpc wrote c n).lpc j = if j.val < n ∧ o.endsAt bpc j ∧ wrote ≠ some j.val then 0 else vget c.lpc j := by
  induction n with
  | zero => exact fun c => ⟨rfl, rfl, fun j => (if_neg fun e => absurd e.1 (Nat.not_lt_zero _)).symm⟩
  | succ n ih =>
    intro c
    have below := ih (Nat.le_of_succ_le hn) fun j hj => h j (Nat.lt_succ_of_lt hj)
    have apart : ∀ j : Fin 4, j.val < n + 1 ↔ j.val < n ∨ j = ⟨n, hn⟩ := fun j => by rw [Fin.ext_iff, Nat.lt_succ_iff_lt_or_eq]
    by_cases ends : o.endsAt bpc ⟨n, hn⟩
    · obtain ⟨pc, clb, counts⟩ := below (c.putCount wrote ⟨n, hn⟩ 0)
      rw [loopEnd_closes (j := ⟨n, hn⟩) c ends (h _ (Nat.lt_succ_self n))]
      refine ⟨pc.trans (by rw [Cluster.putCount_frame]), clb.trans (by rw [Cluster.putCount_frame]), fun j => ?_⟩
      simp only [counts, Cluster.putCount_lpc, apart]
      by_cases e : j = ⟨n, hn⟩
      · subst e
        by_cases w : wrote = some n
        · simp [w]
        · rw [if_neg fun e => lt_irrefl n e.1, if_pos ⟨rfl, w⟩, if_pos ⟨.inr rfl, ends, w⟩]
      · simp [e]
    · obtain ⟨pc, clb, counts⟩ := below c
      rw [loopEnd_skips (j := ⟨n, hn⟩) c ends]
      refine ⟨pc, clb, fun j => ?_⟩
      simp only [counts, apart]
      by_cases e : j = ⟨n, hn⟩
      · subst e; simp [ends]
      · simp [e]

/-- The highest level below n that repeats goes on at its start; those above it become inactive, those below it are left. -/
theorem loopEnd_first {n : Nat} (hn : n ≤ 4) (hj : j.val < n) (hr : o.repeatsAt bpc j)
    (hh : ∀ h : Fin 4, j < h → h.val < n → ¬ o.repeatsAt bpc h) : ∀ c : Cluster,
    (loopEnd o bpc wrote c n).pc = vget o.lps j ∧ (loopEnd o bpc wrote c n).clb = advanceRot c.clb j.val ∧
    (∀ h, h ≤ j → vget (loopEnd o bpc wrote c n).lpc h = if h = j ∧ wrote ≠ some j.val then vget o.lpc j - 1 else vget c.lpc h) ∧
    ∀ h, j < h → vget (loopEnd o bpc wrote c n).lpc h =
      if h.val < n ∧ o.endsAt bpc h ∧ wrote ≠ some h.val then 0 else vget c.lpc h := by
  induction n with
  | zero => exact absurd hj (Nat.not_lt_zero _)
  | succ n ih =>
    intro c
    rcases Nat.lt_succ_iff_lt_or_eq.mp hj with lower | rfl
    · have below := ih (Nat.le_of_succ_le hn) lower fun h a b => hh h a (Nat.lt_succ_of_lt b)
      have apart : ∀ h : Fin 4, h.val < n + 1 ↔ h.val < n ∨ h = ⟨n, hn⟩ := fun h => by rw [Fin.ext_iff, Nat.lt_succ_iff_lt_or_eq]
      have other : ∀ h : Fin 4, h ≤ j → h ≠ ⟨n, hn⟩ := fun h le e => by
        have : h.val ≤ j.val := le
        rw [e] at this
        exact absurd lower (Nat.not_lt.mpr this)
      by_cases ends : o.endsAt bpc ⟨n, hn⟩
      · obtain ⟨pc, clb, le, gt⟩ := below (c.putCount wrote ⟨n, hn⟩ 0)
        rw [loopEnd_closes (j := ⟨n, hn⟩) c ends (hh _ lower (Nat.lt_succ_self n))]
        refine ⟨pc, clb.trans (by rw [Cluster.putCount_frame]), fun h hle => ?_, fun h hlt => ?_⟩
        · rw [le h hle, Cluster.putCount_lpc, if_neg (c := h = ⟨n, hn⟩ ∧ _) fun e => other h hle e.1]
        · simp only [gt h hlt, Cluster.putCount_lpc, apart]
          by_cases e : h = ⟨n, hn⟩
          · subst e
            by_cases w : wrote = some n
            · simp [w]
            · rw [if_neg fun e => lt_irrefl n e.1, if_pos ⟨rfl, w⟩, if_pos ⟨.inr rfl, ends, w⟩]
          · simp [e]
      · obtain ⟨pc, clb, le, gt⟩ := below c
        rw [loopEnd_skips (j := ⟨n, hn⟩) c ends]
        refine ⟨pc, clb, le, fun h hlt => ?_⟩
        simp only [gt h hlt, apart]
        by_cases e : h = ⟨n, hn⟩
        · subst e; simp [ends]
        · simp [e]
    · rw [loopEnd_repeats c hr]
      refine ⟨rfl, rfl, fun h _ => Cluster.putCount_lpc .., fun h hlt => ?_⟩
      have above : ¬ h.val < j.val + 1 := Nat.not_lt.mpr hlt
      have apart : h ≠ j := Fin.ne_of_gt hlt
      rw [if_neg fun e => above e.1]
      exact (Cluster.putCount_lpc ..).trans (if_neg fun e => apart e.1)

end

/-! LOOP. -/

theorem nested_iff (c : Cluster) (lv : Fin 4) : c.nested (BitVec.ofNat 2 lv.val).toNat = true ↔ ∃ j : Fin 4, lv ≤ j ∧ vget c.lpc j ≠ 0 := by
  have level : (BitVec.ofNat 2 lv.val).toNat = lv.val := by rw [BitVec.toNat_ofNat]; exact Nat.mod_eq_of_lt lv.isLt
  simp only [Cluster.nested, level, List.any_eq_true, List.mem_range, Bool.and_eq_true, decide_eq_true_iff]
  constructor
  · rintro ⟨j, hj, le, ne⟩
    exact ⟨⟨j, hj⟩, le, by rwa [show Fin.ofNat 4 j = ⟨j, hj⟩ from level_index ⟨j, hj⟩] at ne⟩
  · rintro ⟨j, le, ne⟩
    exact ⟨j.val, j.isLt, le, by rwa [level_index]⟩

/-- The bundle after the end bundle of a LOOP that is skipped. -/
def State.skipped (s : State) (ends : Word) : Except FetchError (Word × Nat) :=
  s.afterEnd (s.old.fetcher s.cur.core s.cur.clu) s.ir.npc ends (maxLines + 1) (16 * maxLines)

section
variable {s : State} {lv : BitVec 2} {c : Reg} {word : BitVec 4} {delta : BitVec 13}

theorem execLoop_free (h : ¬ (s.old.clu s.cur.clu).nested lv.toNat = true) : exec (.loop lv c word delta) s =
    match s.target? word delta.toInt with
    | none => s.faultAt 5 7 s.ir.bpc
    | some ends =>
      if s.g c = 0 then
        (match s.skipped ends with
        | .error e => s.fetchFault e
        | .ok (a, n) => .next (s.onCl fun c => { c with pc := a, pcReg := false, lineRoom := n }))
      else
        match s.returnAddress with
        | .error e => s.fetchFault e
        | .ok a => .next (s.onCl fun u => { u with
            lps := vset u.lps (Fin.ofNat 4 lv.toNat) a, lpe := vset u.lpe (Fin.ofNat 4 lv.toNat) ends
            lpc := vset u.lpc (Fin.ofNat 4 lv.toNat) (s.g c) }) := if_neg h

variable {ends : Word} (h : ¬ (s.old.clu s.cur.clu).nested lv.toNat = true) (ht : s.target? word delta.toInt = some ends)
include h ht

theorem execLoop_zero (h0 : s.g c = 0) : exec (.loop lv c word delta) s = match s.skipped ends with
    | .error e => s.fetchFault e
    | .ok (a, n) => .next (s.onCl fun c => { c with pc := a, pcReg := false, lineRoom := n }) := by
  rw [execLoop_free h, ht]
  exact if_pos h0

theorem execLoop_opens (h0 : s.g c ≠ 0) : exec (.loop lv c word delta) s = match s.returnAddress with
    | .error e => s.fetchFault e
    | .ok a => .next (s.onCl fun u => { u with
        lps := vset u.lps (Fin.ofNat 4 lv.toNat) a, lpe := vset u.lpe (Fin.ofNat 4 lv.toNat) ends
        lpc := vset u.lpc (Fin.ofNat 4 lv.toNat) (s.g c) }) := by
  rw [execLoop_free h, ht]
  exact if_neg h0

end

/-- Settles O7: LOOP by its checks in order, and the end bundle by induction on the levels, from the highest down. -/
theorem loopsOpenRepeatAndEnd : Obligations.LoopsOpenRepeatAndEnd := by
  refine ⟨fun s lv c word delta => ?_, fun o c bpc wrote => ?_⟩
  · intro i o active line inside ends
    have level : Fin.ofNat 4 (BitVec.ofNat 2 lv.val).toNat = lv := by
      rw [BitVec.toNat_ofNat, Nat.mod_eq_of_lt lv.isLt, level_index]
    have free : ¬ active → ¬ (s.old.clu s.cur.clu).nested (BitVec.ofNat 2 lv.val).toNat = true := mt (nested_iff _ lv).mp
    have found : inside → s.target? word delta.toInt = some ends := fun hi => State.target_inside hi word
    refine ⟨fun h => if_pos ((nested_iff _ lv).mpr h), fun h hi => ?_, fun h hi h0 r hr => ?_, fun h hi h0 e he => ?_,
      fun h hi h0 a n ha => ?_, fun h hi h0 e he => ?_⟩
    · have lost : s.target? word delta.toInt = none := State.target_outside hi word
      exact (execLoop_free (free h)).trans (by rw [lost])
    · have opens := execLoop_opens (free h) (found hi) h0
      rw [hr, level] at opens
      refine ⟨_, opens, sameButCluster_onCl _ _, rfl, by rw [State.onCl_cl], fun j => ?_⟩
      rw [State.onCl_cl]
      exact ⟨vget_vset .., vget_vset .., vget_vset ..⟩
    · exact (execLoop_opens (free h) (found hi) h0).trans (by rw [he]; rfl)
    · have skips : s.skipped ends = .ok (a, n) := ha
      have goesOn := execLoop_zero (free h) (found hi) h0
      rw [skips] at goesOn
      exact ⟨_, goesOn, sameButCluster_onCl _ _, rfl, State.onCl_cl _ _⟩
    · have skips : s.skipped ends = .error e := he
      exact (execLoop_zero (free h) (found hi) h0).trans (by rw [skips]; rfl)
  · intro acts repeats d
    refine ⟨fun h => ?_, fun j hr hh => ?_, loopEnd_frame (Nat.le_refl 4) c⟩
    · obtain ⟨pc, clb, counts⟩ := loopEnd_none (wrote := wrote) (Nat.le_refl 4) (fun j _ => h j) c
      refine ⟨pc, clb, fun j => (counts j).trans ?_⟩
      simp only [j.isLt, true_and]
      rfl
    · obtain ⟨pc, clb, le, gt⟩ := loopEnd_first (wrote := wrote) (Nat.le_refl 4) j.isLt hr (fun h lt _ => hh h lt) c
      refine ⟨pc, clb, fun h lt => ?_, fun w => ?_, fun w => ?_, fun h lt => (gt h lt).trans ?_⟩
      · exact (le h (Fin.le_of_lt lt)).trans (if_neg fun e => Fin.ne_of_lt lt e.1)
      · exact (le j (Fin.le_refl j)).trans (if_pos ⟨rfl, w⟩)
      · exact (le j (Fin.le_refl j)).trans (if_neg fun e => e.2 w)
      · simp only [h.isLt, true_and]
        rfl

end Sys2Proof.Machine
end

section
/-! Traps taken, and precise faults (R126, R345, R346): the cluster that a trap leaves, and the core that a fault restores. -/

namespace Sys2Proof.Machine

/-- The cluster as a trap leaves it: the fault of a handler, the entry into the handler, or the halt. -/
theorem State.deliver_clu (s : State) (k : Fin 768) (x : Clu) (t : Trap) (tpc : Word) :
    ((((s.core k).clu x).inh = true ∧ ∃ h, ((s.deliver k x t tpc).core k).clu x = ((s.core k).clu x).record h tpc) ∨
      ((s.deliver k x t tpc).core k).clu x = ((s.core k).clu x).enter t tpc (s.core k).slot) ∨
      ((s.deliver k x t tpc).core k).clu x = { ((s.core k).clu x).record t tpc with halted := true } := by
  have ended : ∀ (u : State) (f : Cluster → Cluster) (cause : Word) (a b : Bool),
      ((u.onCore k fun c => (c.onClu x f).terminate cause a b).core k).clu x = f ((u.core k).clu x) := fun u f cause a b => by
    obtain ⟨r, e, -⟩ := Core.terminate_cases ((u.core k).onClu x f) cause a b
    rw [State.onCore_core_same, e]
    exact Core.onClu_same _ _ _
  unfold State.deliver
  dsimp only
  split
  · next h =>
    rw [Bool.and_eq_true, Bool.and_eq_true] at h
    exact .inl (.inl ⟨h.1.1, _, ended ..⟩)
  · split
    · refine .inl (.inr ?_)
      rw [State.onCore_core_same, Core.onClu_same]
    · refine .inr ?_
      obtain ⟨⟨q, e⟩, -⟩ := State.requestSave_frame (s.onCore k fun q => q.onClu x fun d => { d.record t tpc with halted := true }) k 4
      rw [e, State.onCore_core_same]
      exact Core.onClu_same (s.core k) x fun d => { d.record t tpc with halted := true }
    · exact .inr (ended ..)

/-- A trap changes the trap registers of its cluster, the position, the level and the states that end with it. -/
theorem State.deliver_trapRegs (s : State) (k : Fin 768) (x : Clu) (t : Trap) (tpc : Word) :
    sameButTrapRegs ((s.core k).clu x) (((s.deliver k x t tpc).core k).clu x) ∧ (((s.deliver k x t tpc).core k).clu x).tpc = tpc := by
  rcases s.deliver_clu k x t tpc with (⟨-, h, e⟩ | e) | e <;> rw [e] <;> exact ⟨rfl, rfl⟩

/-- Outside a handler the trap registers tell of the trap. -/
theorem State.deliver_tells {s : State} {k : Fin 768} {x : Clu} (h : ((s.core k).clu x).inh = false) (t : Trap) (tpc : Word) :
    (((s.deliver k x t tpc).core k).clu x).tcause = causeWord t ∧ (((s.deliver k x t tpc).core k).clu x).taddr = t.addr ∧
      (((s.deliver k x t tpc).core k).clu x).tinfo = t.info := by
  rcases s.deliver_clu k x t tpc with (⟨i, -⟩ | e) | e
  · rw [h] at i; cases i
  · rw [e]; exact ⟨rfl, rfl, rfl⟩
  · rw [e]; exact ⟨rfl, rfl, rfl⟩

/-- A fault ends in its trap on the core that the bundle found, an overlap check counted. -/
theorem State.faultAt_latched {s : State} {k0 : Core} (h : s.latch = some k0) {cause : Nat} (hc : cause < 0x20) (detail : Nat) (addr : Word) :
    s.faultAt cause detail addr = .next { (s.setCore s.cur.core (if cause = 0x11 then k0.count 0x10 s.cur.clu 1 else k0)).deliver
      s.cur.core s.cur.clu ⟨s.cur.clu, cause, detail, false, trapAddr cause addr, s.irInfo⟩ (k0.clu s.cur.clu).pc with
        report := .trapped } := by
  have precise : ¬ 0x20 ≤ cause := Nat.not_le.mpr hc
  have found : (if cause = 0x11 then s.undo.onMe fun k => k.count 0x10 s.cur.clu 1 else s.undo) =
      s.setCore s.cur.core (if cause = 0x11 then k0.count 0x10 s.cur.clu 1 else k0) := by
    simp only [State.undo, h, State.onMe_setCore]
    split <;> rfl
  have pc : ((if cause = 0x11 then k0.count 0x10 s.cur.clu 1 else k0).clu s.cur.clu) = k0.clu s.cur.clu := by
    split
    · rw [Core.count_frame]; rfl
    · rfl
  simp only [State.faultAt, State.raise, found, State.cl_setCore, pc, if_neg precise, decide_eq_false precise]

theorem trapAddr_eq (cause : Nat) (addr : Word) : trapAddr cause addr = if cause = 5 ∨ (8 ≤ cause ∧ cause ≤ 12) then addr else 0 :=
  ite_congr (propext Or.comm) (fun _ => rfl) fun _ => rfl

theorem causeWord_eq {t : Trap} (ha : t.async = false) (hd : t.detail < 16) (hc : t.cause < 0x20) :
    causeWord t = BitVec.ofNat 64 ((cluCode t.clu).val * 2 ^ 28 + t.detail * 2 ^ 24 + t.cause) := by
  have detail : t.detail % 16 = t.detail := Nat.mod_eq_of_lt hd
  have cause : t.cause % 256 = t.cause := Nat.mod_eq_of_lt (by omega)
  have sum : ∀ a b : Nat, a + b + (if t.async = true then 2 ^ 15 else 0) + t.cause = a + b + t.cause := fun a b => by simp [ha]
  unfold causeWord
  rw [detail, cause, sum]

/-- Settles O13: the fault is the trap on the core as the bundle found it (`faultAt_latched`), which changes what traps change. -/
theorem faultsUndoTheBundle : Obligations.FaultsUndoTheBundle := by
  intro s k0 cause detail addr hl hc hd k
  have clu : (s.setCore s.cur.core k).cl = k0.clu s.cur.clu := by
    rw [State.cl_setCore]
    change Core.clu (if _ then _ else _) _ = _
    split
    · rw [Core.count_frame]; rfl
    · rfl
  have core : ((s.setCore s.cur.core k).core s.cur.core).clu s.cur.clu = k0.clu s.cur.clu := clu
  obtain ⟨regs, tpc⟩ := (s.setCore s.cur.core k).deliver_trapRegs s.cur.core s.cur.clu
    ⟨s.cur.clu, cause, detail, false, trapAddr cause addr, s.irInfo⟩ (k0.clu s.cur.clu).pc
  have same := (s.setCore s.cur.core k).deliver_frame s.cur.core s.cur.clu
    ⟨s.cur.clu, cause, detail, false, trapAddr cause addr, s.irInfo⟩ (k0.clu s.cur.clu).pc
  have cur := same.2.2.2.2.2.2.2.2.1
  rw [core] at regs
  have mine : ∀ u : State, u.cur = s.cur → State.cl { u with report := .trapped } = (u.core s.cur.core).clu s.cur.clu := fun u e => by
    rw [← e]; rfl
  refine ⟨_, State.faultAt_latched hl hc detail addr, rfl, same, ?_, ?_, fun hi => ?_⟩
  · rw [mine _ cur]; exact tpc
  · rw [mine _ cur]; exact regs
  · rw [mine _ cur]
    obtain ⟨cause_, addr_, info_⟩ := State.deliver_tells (s := s.setCore s.cur.core k) (by rw [core]; exact hi)
      ⟨s.cur.clu, cause, detail, false, trapAddr cause addr, s.irInfo⟩ (k0.clu s.cur.clu).pc
    exact ⟨info_, addr_.trans (trapAddr_eq _ _), cause_.trans (causeWord_eq rfl hd hc)⟩

end Sys2Proof.Machine
end

section
/-! Shape records read on the UC path: the read at the home slice recalls the copies of the line (R201, R268, R280). -/

namespace Sys2Proof.Machine

/-- A well-formed record: tensor 1, elements of one byte, one dimension of 4, stride 1, a tile of 4. -/
def recordBytes : List Byte :=
  leBytes 1 2 ++ leBytes 1 1 ++ leBytes 1 1 ++ leBytes 0 4 ++ leBytes 4 4 ++ leBytes 0 12 ++ leBytes 1 5 ++ leBytes 0 15 ++ leBytes 4 4 ++
    leBytes 0 16

/-- Die 0's modified copy of a line. -/
def ownedLine (line : Nat) (data : List Byte) : DieLine :=
  { die := 0, line := line, coh := some .m, key := 0, home := 0, tag := (0, 0, 0), pte := 0, valid := 0, dirty := 0, data := bytesLine data
    bad := false }

/-- Memory in which page 0 of tensor 1 is a coherent page in frame 8, and die 0 owns the page's first line, modified: it holds the record,
which memory does not. -/
def recordMem : MemSys :=
  { State.reset.ms with
    dieLines := [ownedLine 0 (leBytes 0 16 ++ leBytes (2 ^ 63 + 2 ^ 32) 8 ++ leBytes 1 8 ++ leBytes 0 32),
      ownedLine 512 (leBytes (8 * 2 ^ 24 + 3) 8 ++ leBytes 0 56), ownedLine 8192 recordBytes]
    dir := [⟨8192, 0, .owned 0⟩]
    keys := [(0, { state := 1, key := 0 })] }

/-- The UC address of the record. -/
def recordAddr : Word := BitVec.ofNat 64 (3 * 2 ^ 60 + 2 ^ 40)

/-- The device after reset with that memory, and the address of the record in g1. -/
def recordState : State := { State.reset with ms := recordMem }.setG 1 recordAddr

/-- A long form that nothing guards, and that waits for nothing and posts nothing. -/
def plainLong : Long := { guard := 0, wait := 0, post := 0, stamp := 0 }

/-- The read of the record succeeds. -/
theorem recordState_reads : (match (recordState.popWait plainLong).recBytes recordAddr with
    | .ok bs _ => decide (bs = recordBytes)
    | _ => false) = true := by decide +kernel

/-- The read puts the owner's bytes back to memory: byte 2 of the record, its element type, stands there after the instruction. -/
theorem recordState_recalls : (match exec (.tdesc plainLong 0 1 0) recordState with
    | .next t => decide (t.ms.main.read (8 * 65536 + 2) = 1)
    | _ => false) = true := by decide +kernel

theorem recordState_memory : recordState.ms.main.read (8 * 65536 + 2) = 0 := by decide +kernel

theorem recordState_addr : recordState.g 1 = recordAddr := by decide +kernel

theorem recordBytes_fields : recordBytes.length = 64 ∧ recShapeBad recordBytes = false ∧ recField recordBytes 2 1 = 1 ∧
    recField recordBytes 3 1 = 1 ∧ recField recordBytes 24 5 = 1 ∧ recField recordBytes 44 4 = 4 := by decide

/-- Refutes O31: a record read on the UC path from a coherent line that a die owns modified puts the line back to memory, so a byte of
memory changes. -/
theorem not_recordsLevelsAndRunsCheckAndIssue : ¬ Obligations.RecordsLevelsAndRunsCheckAndIssue := by
  intro h
  obtain ⟨records, -⟩ := h recordState plainLong 0 0 0 1 0 0
  obtain ⟨-, -, acts⟩ := records
  obtain ⟨-, -, -, writes⟩ := acts (State.p_zero _) (by decide +kernel)
  rw [recordState_addr] at writes
  have read := recordState_reads
  cases found : (recordState.popWait plainLong).recBytes recordAddr with
  | wait => rw [found] at read; cases read
  | trap c d a => rw [found] at read; cases read
  | ok bs u =>
    rw [found] at read
    obtain rfl : bs = recordBytes := of_decide_eq_true read
    obtain ⟨length, fields, type, dims, stride, tile⟩ := recordBytes_fields
    obtain ⟨-, passes⟩ := writes recordBytes u found length
    have own : (if (recordState.g 0).toNat % 2 ^ 16 = 0 then recordBytes
      else [(recordState.g 0).setWidth 8, (recordState.g 0 >>> 8).setWidth 8] ++ recordBytes.drop 2) = recordBytes := by
      rw [State.g_zero]; rfl
    simp only [own, type, dims, stride, tile] at passes
    obtain ⟨-, -, -, -, done⟩ := passes fields
    obtain ⟨t, run, ⟨⟨same, -⟩, -⟩⟩ := done (fun i _ => Nat.mod_one _) rfl (fun i lo hi => absurd hi (by omega)) rfl
    have recalled := recordState_recalls
    rw [run] at recalled
    have changed : t.ms.main.read (8 * 65536 + 2) = 1 := of_decide_eq_true recalled
    rw [same, recordState_memory] at changed
    exact absurd changed (by decide)

end Sys2Proof.Machine
end

section
/-! The issue of channel commands (R196, R203, R204): the first failing check of a list, and the model's stages as such lists. -/

namespace Sys2Proof.Machine

/-! The first check of a list that fails. -/

/-- A check: when it fails, and the cause, detail and address that it then raises. -/
abbrev Check := Prop × Nat × Nat × Word

open Classical in
/-- What the first failing check of a list raises. -/
noncomputable def firstOf : List Check → Option (Nat × Nat × Word)
  | [] => none
  | q :: qs => if q.1 then some q.2 else firstOf qs

@[simp] theorem firstOf_nil : firstOf [] = none := rfl

theorem firstOf_cons_pos {q : Check} (h : q.1) (qs : List Check) : firstOf (q :: qs) = some q.2 := if_pos h

theorem firstOf_cons_neg {q : Check} (h : ¬ q.1) (qs : List Check) : firstOf (q :: qs) = firstOf qs := if_neg h

theorem firstOf_append (xs ys : List Check) : firstOf (xs ++ ys) = (firstOf xs).or (firstOf ys) := by
  induction xs with
  | nil => rfl
  | cons q qs ih =>
    by_cases h : q.1
    · rw [List.cons_append, firstOf_cons_pos h, firstOf_cons_pos h, Option.some_or]
    · rw [List.cons_append, firstOf_cons_neg h, firstOf_cons_neg h, ih]

theorem firstOf_of_pass {qs : List Check} (h : ∀ q ∈ qs, ¬ q.1) : firstOf qs = none := by
  induction qs with
  | nil => rfl
  | cons q qs ih =>
    rw [firstOf_cons_neg (h q (List.mem_cons_self ..))]
    exact ih fun r hr => h r (List.mem_cons_of_mem _ hr)

/-- One check with the meaning of a Boolean test. -/
theorem firstOf_single {p : Prop} {b : Bool} (h : p ↔ b = true) (c d : Nat) (a : Word) :
    firstOf [(p, c, d, a)] = if b then some (c, d, a) else none := by
  cases b with
  | true => exact firstOf_cons_pos (h.mpr rfl) _
  | false => exact firstOf_cons_neg (fun e => Bool.noConfusion (h.mp e)) _

theorem firstOf_first {pre post : List Check} {p : Prop} {c d : Nat} {a : Word} (h : ∀ q ∈ pre, ¬ q.1) (hp : p) :
    firstOf (pre ++ (p, c, d, a) :: post) = some (c, d, a) := by
  rw [firstOf_append, firstOf_of_pass h, Option.none_or, firstOf_cons_pos hp]

/-- What the first failing check comes to inside an instruction. -/
def State.firstRaised (s : State) : Option (Nat × Nat × Word) → Res Unit
  | some (c, d, a) => .trap c d a
  | none => .ok () s

/-- An instruction whose checks are those of a list, in its order. -/
theorem inOrder_of_firstRaised {i : Instr} {s : State} {cs : List Check} {goesOn : Prop} {f : Unit → State → Out}
    (h : exec i s = (s.firstRaised (firstOf cs)).out s f) (hf : (∀ q ∈ cs, ¬ q.1) → exec i s = f () s → goesOn) :
    inOrder i s cs goesOn := by
  refine ⟨fun pre p c d a post hcs hpre hp => ?_, fun hpass => hf hpass ?_⟩
  · rw [h, hcs, firstOf_first hpre hp]; rfl
  · rw [h, firstOf_of_pass hpass]; rfl

/-! The stages of R204 on one side. -/

/-- Stage 1: the path is assigned, and allowed at the level. -/
def State.levelChecks (s : State) (a : Word) : List Check :=
  [(a.toNat / 2 ^ 60 = 6 ∨ a.toNat / 2 ^ 60 = 7 ∨ a.toNat / 2 ^ 60 = 13, 8, 0, a),
   (a.toNat / 2 ^ 60 = 15 ∧ (s.old.clu s.cur.clu).priv = false, 3, 0, a)]

/-- Stage 2: the granules. -/
def grainChecks (a : Word) (g len lg : Nat) : List Check := [(a.toNat % g ≠ 0 ∨ len % lg ≠ 0, 9, 6, a)]

/-- Stage 3: the form. -/
def State.formChecks (s : State) (a : Word) : List Check :=
  [((a.toNat / 2 ^ 60 = 0 ∨ a.toNat / 2 ^ 60 = 1 ∨ a.toNat / 2 ^ 60 = 3) ∧ genForm a = false ∨
    a.toNat / 2 ^ 60 = 2 ∧ s.taskRegion a = none ∨
    a.toNat / 2 ^ 60 = 4 ∧ ¬ (a.toNat / 2 ^ 52 % 256 = 0 ∧ a.toNat % 2 ^ 52 < (s.dev 0xE00).toNat) ∨
    a.toNat / 2 ^ 60 = 5 ∧ a.toNat / 2 ^ 58 % 4 ≠ 0 ∨
    8 ≤ a.toNat / 2 ^ 60 ∧ a.toNat / 2 ^ 60 ≤ 11 ∧ a.toNat / 2 ^ 40 % 2 ^ 20 ≠ 0 ∨
    a.toNat / 2 ^ 60 = 12 ∧ a.toNat / 2 ^ 42 % 2 ^ 18 ≠ 0, 8, 0, a)]

/-- Stage 4 for a source. -/
def sourceChecks (a : Word) : List Check :=
  [(a.toNat / 2 ^ 60 = 8 ∨ a.toNat / 2 ^ 60 = 10 ∨ a.toNat / 2 ^ 60 = 11, 0xA, 0, a), (a.toNat / 2 ^ 60 ∈ [6, 7, 13, 14, 15], 8, 0, a)]

/-- Stage 4 for a destination. -/
def destChecks (a : Word) : List Check :=
  [(a.toNat / 2 ^ 60 = 10 ∨ a.toNat / 2 ^ 60 = 11, 0xA, 0, a), (a.toNat / 2 ^ 60 = 2, 0xB, 0, a),
   (a.toNat / 2 ^ 60 ∈ [1, 6, 7, 13, 14, 15], 8, 0, a)]

/-- Stage 4 for the one path allowed. -/
def onlyChecks (r : Nat) (a : Word) : List Check := [(a.toNat / 2 ^ 60 ≠ r, 8, 0, a)]

/-- Stage 4 for the destination of a QRECV. -/
def recvChecks (a : Word) : List Check :=
  [(a.toNat / 2 ^ 60 = 2 ∨ a.toNat / 2 ^ 60 = 4 ∨ a.toNat / 2 ^ 60 = 5, 8, 0, a)] ++ destChecks a

/-- Stage 5: the end of the range and the footprint. -/
def State.endChecks (s : State) (a : Word) (m : Nat) : List Check :=
  [((a.toNat / 2 ^ 60 = 0 ∨ a.toNat / 2 ^ 60 = 1 ∨ a.toNat / 2 ^ 60 = 2 ∨ a.toNat / 2 ^ 60 = 3) ∧ 2 ^ 40 < a.toNat % 2 ^ 40 + m ∨
    a.toNat / 2 ^ 60 = 2 ∧ (∀ tk, s.me.task = some tk → s.latCovered tk.ctx a m 65 = false) ∨
    a.toNat / 2 ^ 60 = 4 ∧ (s.dev 0xE00).toNat < a.toNat % 2 ^ 52 + m ∨
    a.toNat / 2 ^ 60 = 5 ∧ 2 ^ 48 < a.toNat % 2 ^ 48 + m ∨
    8 ≤ a.toNat / 2 ^ 60 ∧ a.toNat / 2 ^ 60 ≤ 11 ∧ s.me.inFoot (Fin.ofNat 4 (a.toNat / 2 ^ 60)) (a.toNat % 2 ^ 40) m = false ∨
    a.toNat / 2 ^ 60 = 12 ∧ ¬ ((quadCore s.cur.core (a.toNat / 2 ^ 40 % 4) = s.cur.core ∨
      s.sameLaunch s.cur.core (quadCore s.cur.core (a.toNat / 2 ^ 40 % 4)) = true) ∧
      (s.core (quadCore s.cur.core (a.toNat / 2 ^ 40 % 4))).inFoot 1 (a.toNat % 2 ^ 40) m = true), 8, 0, a)]

/-- What a stage finds on a side. -/
def Side.found (f : Side → Option (Nat × Nat)) (d : Side) : Option (Nat × Nat × Word) := (f d).map fun e => (e.1, e.2, d.a)

theorem firstFault_cons (f : Side → Option (Nat × Nat)) (d : Side) (ds : List Side) :
    firstFault f (d :: ds) = (d.found f).or (firstFault f ds) := by
  unfold Side.found
  rw [firstFault]
  cases f d <;> rfl

theorem firstFault_none {f : Side → Option (Nat × Nat)} {ds : List Side} (h : firstFault f ds = none) : ∀ d ∈ ds, f d = none := by
  induction ds with
  | nil => exact fun d hd => absurd hd (List.not_mem_nil)
  | cons e es ih =>
    rw [firstFault_cons, Option.or_eq_none_iff] at h
    intro d hd
    rcases List.mem_cons.mp hd with rfl | hd
    · exact Option.map_eq_none_iff.mp h.1
    · exact ih h.2 d hd

section
variable (s : State) (d : Side)

theorem found_level : d.found s.sidePath = firstOf (s.levelChecks d.a) := by
  simp only [Side.found, State.sidePath, State.levelChecks, firstOf, bits_path]
  split_ifs <;> simp_all

theorem found_grain : d.found Side.granules = firstOf (grainChecks d.a d.gran d.n d.lenGran) := by
  simp only [Side.found, Side.granules, grainChecks, firstOf]
  split_ifs <;> rfl

/-- A range that is not known at issue has no granules. -/
theorem found_grain_free (hg : d.gran = 1) (hl : d.lenGran = 1) : d.found Side.granules = none := by
  simp [Side.found, Side.granules, hg, hl, Nat.mod_one]

/-- An address on the LAT path leads to the region it lies in, if any. -/
theorem State.latTarget_taskRegion {a : Word} (h : bits a 60 4 = 2) :
    (∃ r, s.taskRegion a = some r ∧ s.latTarget a = .ok (.lat r.1 r.2) s) ∨ (s.taskRegion a = none ∧ s.latTarget a = .trap 8 0 a) := by
  unfold State.latTarget State.taskRegion
  cases s.me.task with
  | none => exact .inr ⟨rfl, rfl⟩
  | some t =>
    simp only [h, decide_true, Bool.and_true]
    generalize (if genForm a = true then s.regionAt t.ctx a else none) = r
    cases r with
    | none => exact .inr ⟨rfl, rfl⟩
    | some r => exact .inl ⟨r, rfl, rfl⟩

theorem found_of_iff {f : Side → Option (Nat × Nat)} {p : Prop} {b : Bool} {c e : Nat} (hf : f d = if b then some (c, e) else none)
    (h : p ↔ b = true) : d.found f = firstOf [(p, c, e, d.a)] := by
  rw [firstOf_single h, Side.found, hf]
  cases b <;> rfl

theorem found_form (hw : d.whole = true) : d.found s.sideForm = firstOf (s.formChecks d.a) := by
  have small : bits d.a 60 4 < 16 := Nat.mod_lt _ (by decide)
  have host : bits d.a 52 8 = d.a.toNat / 2 ^ 52 % 256 := rfl
  have peer : bits d.a 58 2 = d.a.toNat / 2 ^ 58 % 4 := rfl
  have buffer : bits d.a 40 20 = d.a.toNat / 2 ^ 40 % 2 ^ 20 := rfl
  have quad : bits d.a 42 18 = d.a.toNat / 2 ^ 42 % 2 ^ 18 := rfl
  refine found_of_iff d rfl ?_
  rw [hw, Bool.true_and]
  simp only [← bits_path, host, peer, buffer, quad, bits_low]
  by_cases lat : bits d.a 60 4 = 2
  · rcases s.latTarget_taskRegion lat with ⟨r, region, target⟩ | ⟨region, target⟩ <;> simp [lat, region, target]
  · generalize bits d.a 60 4 = p at small lat
    interval_cases p <;> simp at lat ⊢
    exact imp_iff_not_or

theorem found_form_free (hw : d.whole = false) : d.found s.sideForm = none := by simp [Side.found, State.sideForm, hw]

theorem found_source (h : d.table = copySource) : d.found Side.path = firstOf (sourceChecks d.a) := by
  have small : bits d.a 60 4 < 16 := Nat.mod_lt _ (by decide)
  simp only [Side.found, Side.path, h, sourceChecks, firstOf, copySource, ← bits_path]
  generalize bits d.a 60 4 = p at small
  interval_cases p <;> simp

theorem found_dest (h : d.table = copyDest) : d.found Side.path = firstOf (destChecks d.a) := by
  have small : bits d.a 60 4 < 16 := Nat.mod_lt _ (by decide)
  simp only [Side.found, Side.path, h, destChecks, firstOf, copyDest, ← bits_path]
  generalize bits d.a 60 4 = p at small
  interval_cases p <;> simp

theorem found_recv (h : d.table = recvDest) : d.found Side.path = firstOf (recvChecks d.a) := by
  have small : bits d.a 60 4 < 16 := Nat.mod_lt _ (by decide)
  simp only [Side.found, Side.path, h, recvChecks, destChecks, firstOf, List.cons_append, List.nil_append, recvDest, copyDest, ← bits_path]
  generalize bits d.a 60 4 = p at small
  interval_cases p <;> simp

theorem found_only {r : Nat} (h : d.table = onlyPath r) : d.found Side.path = firstOf (onlyChecks r d.a) := by
  simp only [Side.found, Side.path, h, onlyChecks, firstOf, onlyPath, bits_path]
  split_ifs <;> simp_all

theorem found_end_free (hw : d.whole = false) : d.found s.sideEnd = none := by simp [Side.found, State.sideEnd, hw]

theorem firstOf_two (p q : Prop) (x : Nat × Nat × Word) : firstOf [(p, x), (q, x)] = firstOf [(p ∨ q, x)] := by
  simp only [firstOf]
  split_ifs <;> simp_all

/-- The end of a range on an assigned path, and what else the range must meet. -/
theorem found_end (hw : d.whole = true) (hp : bits d.a 60 4 ≤ 5 ∨ 8 ≤ bits d.a 60 4 ∧ bits d.a 60 4 ≤ 12) :
    d.found s.sideEnd = firstOf (s.endChecks d.a d.n ++ [(d.ends = false, 8, 0, d.a)]) := by
  have quad : bits d.a 40 2 = d.a.toNat / 2 ^ 40 % 4 := rfl
  rw [State.endChecks, List.cons_append, List.nil_append, firstOf_two]
  refine found_of_iff d rfl ?_
  rw [hw, Bool.true_and]
  simp only [← bits_path, quad, bits_low, Bool.not_and, Bool.or_eq_true, Bool.not_eq_true']
  refine or_congr ?_ Iff.rfl
  by_cases lat : bits d.a 60 4 = 2
  · cases s.me.task <;> simp [lat, or_iff_not_imp_left]
  · generalize bits d.a 60 4 = p at hp lat
    have small : p ≤ 12 := by omega
    interval_cases p <;> simp at hp lat ⊢

end

/-! The checks of a command's sides. -/

/-- The paths that the tables of R204 to R218 allow. -/
def Side.Tabled (d : Side) : Prop := d.table (bits d.a 60 4) = none → bits d.a 60 4 ≤ 5 ∨ 8 ≤ bits d.a 60 4 ∧ bits d.a 60 4 ≤ 12

theorem tabled_source {d : Side} (h : d.table = copySource) : d.Tabled := by
  intro e
  have small : bits d.a 60 4 < 16 := Nat.mod_lt _ (by decide)
  rw [h, copySource] at e
  split at e
  · omega
  · split at e <;> cases e

theorem tabled_dest {d : Side} (h : d.table = copyDest) : d.Tabled := by
  intro e
  rw [h, copyDest] at e
  split at e
  · omega
  · split at e
    · cases e
    · split at e <;> cases e

theorem tabled_recv {d : Side} (h : d.table = recvDest) : d.Tabled := by
  intro e
  rw [h, recvDest] at e
  split at e
  · cases e
  · exact tabled_dest (d := { d with table := copyDest }) rfl e

theorem tabled_only {d : Side} {r : Nat} (h : d.table = onlyPath r) (hr : r ≤ 5 ∨ 8 ≤ r ∧ r ≤ 12) : d.Tabled := by
  intro e
  rw [h, onlyPath] at e
  split at e
  · next p => rw [p]; exact hr
  · cases e

/-- Stage 5 on a side: nothing where the range is not known. -/
noncomputable def State.endFound (s : State) (d : Side) : Option (Nat × Nat × Word) :=
  if d.whole then firstOf (s.endChecks d.a d.n ++ [(d.ends = false, 8, 0, d.a)]) else none

theorem endFound_eq {s : State} {d : Side} (ht : d.Tabled) (h : d.path = none) : d.found s.sideEnd = s.endFound d := by
  unfold State.endFound
  split
  · next hw => exact found_end s d hw (ht (Option.map_eq_none_iff.mp h))
  · next hw => exact found_end_free s d (by simpa using hw)

/-- The first finding over the sides. -/
def firstFound (g : Side → Option (Nat × Nat × Word)) : List Side → Option (Nat × Nat × Word)
  | [] => none
  | d :: ds => (g d).or (firstFound g ds)

theorem firstFault_eq {f : Side → Option (Nat × Nat)} {g : Side → Option (Nat × Nat × Word)} {ds : List Side}
    (h : ∀ d ∈ ds, d.found f = g d) : firstFault f ds = firstFound g ds := by
  induction ds with
  | nil => rfl
  | cons d ds ih =>
    rw [firstFault_cons, firstFound, h d (List.mem_cons_self ..), ih fun e he => h e (List.mem_cons_of_mem _ he)]

/-- The sides of a command are checked stage by stage. -/
theorem sideCheck_eq (s : State) {ds : List Side} (ht : ∀ d ∈ ds, d.Tabled) : s.sideCheck ds = s.firstRaised
    ((firstFound (fun d => firstOf (s.levelChecks d.a)) ds).or ((firstFound (Side.found Side.granules) ds).or
      ((firstFound (Side.found s.sideForm) ds).or ((firstFound (Side.found Side.path) ds).or (firstFound s.endFound ds))))) := by
  have last : (firstFault Side.path ds).or (firstFault s.sideEnd ds) = (firstFault Side.path ds).or (firstFound s.endFound ds) := by
    cases h : firstFault Side.path ds with
    | some x => rfl
    | none =>
      rw [Option.none_or, Option.none_or]
      exact firstFault_eq fun d hd => endFound_eq (ht d hd) (firstFault_none h d hd)
  have levels : firstFault s.sidePath ds = firstFound (fun d => firstOf (s.levelChecks d.a)) ds := firstFault_eq fun d _ => found_level s d
  have grains : firstFault Side.granules ds = firstFound (Side.found Side.granules) ds := firstFault_eq fun _ _ => rfl
  have forms : firstFault s.sideForm ds = firstFound (Side.found s.sideForm) ds := firstFault_eq fun _ _ => rfl
  have paths : firstFault Side.path ds = firstFound (Side.found Side.path) ds := firstFault_eq fun _ _ => rfl
  unfold State.sideCheck
  rw [← levels, ← grains, ← forms, ← paths, ← last]
  simp only [Option.orElse_eq_orElse, Option.orElse_eq_or]
  have answer : ∀ r : Option (Nat × Nat × Word), (match r with
      | some (c, e, a) => .trap c e a
      | none => .ok () s) = s.firstRaised r := fun r => by cases r <;> rfl
  exact answer _

end Sys2Proof.Machine
end

section
/-! The entry of channel commands (R196, R198): what a command that passes its checks changes. -/

namespace Sys2Proof.Machine

/-- A long form that takes its wait tokens changes the token queues and the checker of its core. -/
theorem State.popWait_eq (s : State) (l : Long) : ∃ x, s.popWait l = s.setCore s.cur.core
    { s.me with st := s.me.st.popTokens s.cur.clu l.wait, en := { s.me.en with check := x } } := by
  rw [State.popWait, State.onMe_eq, Core.popTokens, Core.onCheck_frame]
  exact ⟨_, rfl⟩

/-- Entry into a channel changes the room of the post set, the channel, the count of commands and the checker of the core. -/
theorem State.enterChan_eq (s : State) (k : Core) (l : Long) (ch : Fin 8) (c : ChCmd) : ∃ x,
    (s.setCore s.cur.core k).enterChan l ch c = s.setCore s.cur.core
      { k with
        st := k.st.reserve s.cur.clu l.post
        en := { k.en with
          chans := vset k.en.chans ch { vget k.en.chans ch with cmds := (vget k.en.chans ch).cmds ++ [c], next := (vget k.en.chans ch).next + 1 }
          issued := k.en.issued + 1, check := x } } := by
  simp only [State.enterChan, State.reserveSets, State.onCheck, State.onMe_setCore, State.setCore_cur]
  rw [Core.onCheck_frame]
  exact ⟨_, rfl⟩

theorem enterChan_entered (s : State) (l : Long) (ch : Fin 8) (c : ChCmd) : entered s ((s.popWait l).enterChan l ch c) l ch c := by
  obtain ⟨x, hp⟩ := s.popWait_eq l
  rw [hp]
  obtain ⟨y, he⟩ := s.enterChan_eq { s.me with st := s.me.st.popTokens s.cur.clu l.wait, en := { s.me.en with check := x } } l ch c
  rw [he]
  refine ⟨sameMemory_of_ms rfl, sameOutside_setCore s _, rfl, ?_⟩
  rw [State.me_setCore]
  rfl

/-- What a channel command holds as it enters: its operands, its slot and number, and no progress. -/
def freshCmd (s : State) (d : ChCmd) (i : Instr) (k : Fin 8) (a b c : Word) (range : Option (Fin 4 × Nat × Nat)) : Prop :=
  d.i = i ∧ d.ga = a ∧ d.gb = b ∧ d.gc = c ∧ d.slot = (vget s.me.en.chans k).next ∧ d.started = false ∧ d.prog = 0 ∧ d.payload = [] ∧
    d.filled = 0 ∧ d.order = s.me.en.issued ∧ d.range = range

/-- An instruction that is nullified, waits, makes the checks of a list, and enters its command. -/
theorem issueChan_issues {i : Instr} {s : State} {l : Long} {ch : BitVec 3} {cs : List Check} {d : ChCmd} {goesOn : Prop}
    (h : exec i s = s.issueChan l ch (s.firstRaised (firstOf cs)) d)
    (hd : (∀ q ∈ cs, ¬ q.1) → exec i s = .next ((s.popWait l).enterChan l (chanOf ch) d) → goesOn) :
    underGuard i s l
      ((16 ≤ (vget s.me.en.chans (chanOf ch)).cmds.length + (vget s.me.en.chans (chanOf ch)).elems.length → exec i s = s.stall) ∧
       ((vget s.me.en.chans (chanOf ch)).cmds.length + (vget s.me.en.chans (chanOf ch)).elems.length < 16 → inOrder i s cs goesOn)) := by
  have cases_ := s.guarded_cases l fun u =>
    if 16 ≤ (vget s.me.en.chans (chanOf ch)).cmds.length + (vget s.me.en.chans (chanOf ch)).elems.length then s.stall
    else (s.firstRaised (firstOf cs)).out s fun _ _ => .next (u.enterChan l (chanOf ch) d)
  have whole : exec i s = s.guarded l _ := h
  rw [← whole] at cases_
  rcases cases_ with ⟨hg, e⟩ | ⟨hg, hr, e⟩ | ⟨hg, hr, e⟩
  · exact ⟨fun _ => e, fun g => absurd (hg.symm.trans g) Bool.false_ne_true, fun g => absurd (hg.symm.trans g) Bool.false_ne_true⟩
  · exact ⟨fun g => absurd (g.symm.trans hg) Bool.false_ne_true, fun _ _ => e, fun _ r => absurd (hr.symm.trans r) Bool.false_ne_true⟩
  · refine ⟨fun g => absurd (g.symm.trans hg) Bool.false_ne_true, fun _ r => absurd (r.symm.trans hr) Bool.false_ne_true, fun _ _ => ⟨?_, ?_⟩⟩
    · exact fun full => e.trans (if_pos full)
    · intro free
      have acts := e.trans (if_neg (Nat.not_le.mpr free))
      exact inOrder_of_firstRaised acts hd

end Sys2Proof.Machine
end

section
/-! The checks of each channel command, in the order of R204 to R209 and R218, and its entry. -/

namespace Sys2Proof.Machine

/-! The lists of checks. -/

/-- The checks of a flat copy of n bytes with granule g: `table` judges the destination's path, and `last` comes after its range. -/
def State.flatChecks (s : State) (a b : Word) (n g : Nat) (table last : List Check) : List Check :=
  s.levelChecks a ++ s.levelChecks b ++ grainChecks a g n g ++ grainChecks b g n 1 ++ s.formChecks a ++ s.formChecks b ++ table ++
    sourceChecks b ++ s.endChecks a n ++ last ++ s.endChecks b n

/-- The checks of a queue command's one range of 64 bytes. -/
def State.oneChecks (s : State) (a : Word) (table : List Check) : List Check :=
  s.levelChecks a ++ grainChecks a 64 64 1 ++ s.formChecks a ++ table ++ s.endChecks a 64

/-- The checks of a gather of n elements of z bytes. -/
def State.gatherChecks (s : State) (a b c : Word) (n z : Nat) : List Check :=
  s.levelChecks a ++ s.levelChecks b ++ s.levelChecks c ++ grainChecks a z (n * z) 1 ++ grainChecks c 4 (4 * n) 1 ++ s.formChecks a ++
    s.formChecks c ++ destChecks a ++ sourceChecks b ++ sourceChecks c ++ s.endChecks a (n * z) ++ s.endChecks c (4 * n)

/-- The checks of a scatter of n elements of z bytes. -/
def State.scatterChecks (s : State) (a b c : Word) (n z : Nat) : List Check :=
  s.levelChecks a ++ s.levelChecks b ++ s.levelChecks c ++ grainChecks b z (n * z) 1 ++ grainChecks c 4 (4 * n) 1 ++ s.formChecks b ++
    s.formChecks c ++ destChecks a ++ sourceChecks b ++ sourceChecks c ++ s.endChecks b (n * z) ++ s.endChecks c (4 * n)

section
variable (s : State)

theorem firstOf_met (x : Nat × Nat × Word) : firstOf [(true = false, x)] = none := firstOf_cons_neg (q := (true = false, x)) Bool.noConfusion []

theorem endFound_whole (a : Word) (n g lg : Nat) (table : Nat → Option Nat) :
    s.endFound ⟨a, n, g, lg, table, true, true⟩ = firstOf (s.endChecks a n) := by
  rw [State.endFound, if_pos rfl, firstOf_append, firstOf_met, Option.or_none]

theorem endFound_ends (a : Word) (n g lg : Nat) (table : Nat → Option Nat) (e : Bool) :
    s.endFound ⟨a, n, g, lg, table, true, e⟩ = firstOf (s.endChecks a n ++ [(e = false, 8, 0, a)]) := if_pos rfl

theorem endFound_free (a : Word) (n g lg : Nat) (table : Nat → Option Nat) (e : Bool) :
    s.endFound ⟨a, n, g, lg, table, false, e⟩ = none := if_neg Bool.false_ne_true

/-- The checks of a flat copy's two sides. -/
theorem sideCheck_flat {a b : Word} {n g : Nat} {table : Nat → Option Nat} {ends : Bool} {tcs last : List Check}
    (ht : Side.Tabled ⟨a, n, g, g, table, true, ends⟩) (hf : Side.found Side.path ⟨a, n, g, g, table, true, ends⟩ = firstOf tcs)
    (hl : firstOf last = firstOf [(ends = false, 8, 0, a)]) :
    s.sideCheck [⟨a, n, g, g, table, true, ends⟩, ⟨b, n, g, 1, copySource, true, true⟩] =
      s.firstRaised (firstOf (s.flatChecks a b n g tcs last)) := by
  have tabled : ∀ d ∈ [(⟨a, n, g, g, table, true, ends⟩ : Side), ⟨b, n, g, 1, copySource, true, true⟩], d.Tabled := by
    simpa using ⟨ht, tabled_source rfl⟩
  rw [sideCheck_eq s tabled]
  simp only [firstFound, State.flatChecks, firstOf_append, hf, hl, found_grain, found_form, found_source, endFound_ends, firstOf_met,
    Option.or_none, Option.or_assoc]

theorem sideCheck_one {a : Word} {table : Nat → Option Nat} {tcs : List Check} (ht : Side.Tabled ⟨a, 64, 64, 1, table, true, true⟩)
    (hf : Side.found Side.path ⟨a, 64, 64, 1, table, true, true⟩ = firstOf tcs) :
    s.sideCheck [⟨a, 64, 64, 1, table, true, true⟩] = s.firstRaised (firstOf (s.oneChecks a tcs)) := by
  have tabled : ∀ d ∈ [(⟨a, 64, 64, 1, table, true, true⟩ : Side)], d.Tabled := by simpa using ht
  rw [sideCheck_eq s tabled]
  simp only [firstFound, State.oneChecks, firstOf_append, hf, found_grain, found_form, endFound_whole, Option.or_none, Option.or_assoc]

theorem sideCheck_gather (a b c : Word) (n z : Nat) :
    s.sideCheck [⟨a, n * z, z, 1, copyDest, true, true⟩, ⟨b, 0, 1, 1, copySource, false, true⟩, ⟨c, 4 * n, 4, 1, copySource, true, true⟩] =
      s.firstRaised (firstOf (s.gatherChecks a b c n z)) := by
  have tabled : ∀ d ∈ [(⟨a, n * z, z, 1, copyDest, true, true⟩ : Side), ⟨b, 0, 1, 1, copySource, false, true⟩,
      ⟨c, 4 * n, 4, 1, copySource, true, true⟩], d.Tabled := by
    simpa using ⟨tabled_dest rfl, tabled_source rfl, tabled_source rfl⟩
  have free : Side.found Side.granules ⟨b, 0, 1, 1, copySource, false, true⟩ = none := found_grain_free _ rfl rfl
  rw [sideCheck_eq s tabled]
  simp only [firstFound, State.gatherChecks, firstOf_append, free, found_grain, found_form, found_form_free, found_source, found_dest,
    endFound_whole, endFound_free, Option.or_none, Option.none_or, Option.or_assoc]

theorem sideCheck_scatter (a b c : Word) (n z : Nat) :
    s.sideCheck [⟨a, 0, 1, 1, copyDest, false, true⟩, ⟨b, n * z, z, 1, copySource, true, true⟩, ⟨c, 4 * n, 4, 1, copySource, true, true⟩] =
      s.firstRaised (firstOf (s.scatterChecks a b c n z)) := by
  have tabled : ∀ d ∈ [(⟨a, 0, 1, 1, copyDest, false, true⟩ : Side), ⟨b, n * z, z, 1, copySource, true, true⟩,
      ⟨c, 4 * n, 4, 1, copySource, true, true⟩], d.Tabled := by
    simpa using ⟨tabled_dest rfl, tabled_source rfl, tabled_source rfl⟩
  have free : Side.found Side.granules ⟨a, 0, 1, 1, copyDest, false, true⟩ = none := found_grain_free _ rfl rfl
  rw [sideCheck_eq s tabled]
  simp only [firstFound, State.scatterChecks, firstOf_append, free, found_grain, found_form, found_form_free, found_source, found_dest,
    endFound_whole, endFound_free, Option.or_none, Option.none_or, Option.or_assoc]

end

/-! The commands. -/

section
variable (s : State) (l : Long) (ch : BitVec 3) (ga gb gc : Reg)

/-- A flat copy of length zero makes no check. -/
theorem flatCopy_eq {i : Instr} {g : Nat} {table : Nat → Option Nat} {ends : Bool} {tcs last : List Check}
    (ht : ∀ n, Side.Tabled ⟨s.g ga, n, g, g, table, true, ends⟩)
    (hf : ∀ n, Side.found Side.path ⟨s.g ga, n, g, g, table, true, ends⟩ = firstOf tcs)
    (hl : firstOf last = firstOf [(ends = false, 8, 0, s.g ga)]) :
    s.flatCopy l ch i ga gb gc g table ends = s.issueChan l ch
      (s.firstRaised (firstOf (if (s.g gc).toNat % 2 ^ 32 = 0 then []
        else s.flatChecks (s.g ga) (s.g gb) ((s.g gc).toNat % 2 ^ 32) g tcs last)))
      { s.mkChan i (chanOf ch) (s.g ga) (s.g gb) (s.g gc) with range := s.wmRange (s.g ga) ((s.g gc).toNat % 2 ^ 32) } := by
  have length : copyLen (s.g gc) = (s.g gc).toNat % 2 ^ 32 := bits_low _ 32
  rw [State.flatCopy, length, sideCheck_flat s (ht _) (hf _) hl]
  split <;> rfl

/-- What a command that passes its checks leaves, its fields as it entered. -/
theorem entered_next {i j : Instr} {d : ChCmd} (h : exec i s = .next ((s.popWait l).enterChan l (chanOf ch) d))
    {a b c : Word} {range : Option (Fin 4 × Nat × Nat)} (hd : freshCmd s d j (chanOf ch) a b c range) :
    ∃ t d, exec i s = .next t ∧ entered s t l (chanOf ch) d ∧ freshCmd s d j (chanOf ch) a b c range :=
  ⟨_, d, h, enterChan_entered s l (chanOf ch) d, hd⟩

/-- The clause of a channel command: its guard and sets, its slot, its checks in order, and the command that enters. -/
def IssuesAs (i : Instr) (cs : List Check) (a b c : Word) (range : Option (Fin 4 × Nat × Nat)) : Prop :=
  underGuard i s l
    ((16 ≤ (vget s.me.en.chans (chanOf ch)).cmds.length + (vget s.me.en.chans (chanOf ch)).elems.length → exec i s = s.stall) ∧
     ((vget s.me.en.chans (chanOf ch)).cmds.length + (vget s.me.en.chans (chanOf ch)).elems.length < 16 →
       inOrder i s cs (∃ t d, exec i s = .next t ∧ entered s t l (chanOf ch) d ∧ freshCmd s d i (chanOf ch) a b c range)))

theorem issuesAs_of {i : Instr} {cs : List Check} {d : ChCmd} {a b c : Word} {range : Option (Fin 4 × Nat × Nat)}
    (h : exec i s = s.issueChan l ch (s.firstRaised (firstOf cs)) d)
    (hd : (∀ q ∈ cs, ¬ q.1) → freshCmd s d i (chanOf ch) a b c range) : IssuesAs s l ch i cs a b c range :=
  issueChan_issues h fun hpass e => entered_next s l ch e (hd hpass)

theorem copy_issues : IssuesAs s l ch (.copy l ch ga gb gc) (if (s.g gc).toNat % 2 ^ 32 = 0 then []
    else s.flatChecks (s.g ga) (s.g gb) ((s.g gc).toNat % 2 ^ 32) 4 (destChecks (s.g ga)) []) (s.g ga) (s.g gb) (s.g gc)
    (s.wmRange (s.g ga) ((s.g gc).toNat % 2 ^ 32)) :=
  issuesAs_of s l ch (flatCopy_eq s l ch ga gb gc (fun _ => tabled_dest rfl) (fun _ => found_dest _ rfl) (firstOf_met _).symm)
    fun _ => ⟨rfl, rfl, rfl, rfl, rfl, rfl, rfl, rfl, rfl, rfl, rfl⟩

theorem cpyscl_issues : IssuesAs s l ch (.cpyscl l ch ga gb gc) (if (s.g gc).toNat % 2 ^ 32 = 0 then []
    else s.flatChecks (s.g ga) (s.g gb) ((s.g gc).toNat % 2 ^ 32) 4 (onlyChecks 11 (s.g ga)) []) (s.g ga) (s.g gb) (s.g gc)
    (s.wmRange (s.g ga) ((s.g gc).toNat % 2 ^ 32)) :=
  issuesAs_of s l ch (flatCopy_eq s l ch ga gb gc (fun _ => tabled_only rfl (by decide)) (fun _ => found_only _ rfl) (firstOf_met _).symm)
    fun _ => ⟨rfl, rfl, rfl, rfl, rfl, rfl, rfl, rfl, rfl, rfl, rfl⟩

/-- The granule of a COPYJ: the cell size of the destination's region (R206). -/
def State.joinGrain (s : State) (a : Word) : Nat :=
  match s.taskRegion a with
  | some (_, r) => cellSize r.type
  | none => 1

/-- The destination of a COPYJ leaves its region (R206). -/
def State.joinOutside (s : State) (a : Word) (n : Nat) : Prop :=
  match s.taskRegion a with
  | some (_, r) => r.base.toNat + r.size < a.toNat + n
  | none => True

theorem copyj_issues : IssuesAs s l ch (.copyj l ch ga gb gc) (if (s.g gc).toNat % 2 ^ 32 = 0 then []
    else s.flatChecks (s.g ga) (s.g gb) ((s.g gc).toNat % 2 ^ 32) (s.joinGrain (s.g ga)) (onlyChecks 2 (s.g ga))
      [(s.joinOutside (s.g ga) ((s.g gc).toNat % 2 ^ 32), 8, 0, s.g ga)]) (s.g ga) (s.g gb) (s.g gc)
    (s.wmRange (s.g ga) ((s.g gc).toNat % 2 ^ 32)) := by
  have length : copyLen (s.g gc) = (s.g gc).toNat % 2 ^ 32 := bits_low _ 32
  refine issuesAs_of s l ch (flatCopy_eq s l ch ga gb gc (ends := match s.taskRegion (s.g ga) with
    | some (_, r) => decide ((s.g ga).toNat + copyLen (s.g gc) ≤ r.base.toNat + r.size)
    | none => false) (fun _ => tabled_only rfl (by decide)) (fun _ => found_only _ rfl) ?_)
    fun _ => ⟨rfl, rfl, rfl, rfl, rfl, rfl, rfl, rfl, rfl, rfl, rfl⟩
  refine congrArg (fun p : Prop => firstOf [(p, 8, 0, s.g ga)]) (propext ?_)
  rw [length, State.joinOutside]
  cases s.taskRegion (s.g ga) with
  | none => simp
  | some r => simp

theorem qsend_issues (q : BitVec 1) : IssuesAs s l ch (.qsend l ch ga q) (s.oneChecks (s.g ga) (sourceChecks (s.g ga))) (s.g ga) 0 0 none :=
  issuesAs_of s l ch (congrArg (fun c => s.issueChan l ch c _) (sideCheck_one s (tabled_source rfl) (found_source _ rfl)))
    fun _ => ⟨rfl, rfl, rfl, rfl, rfl, rfl, rfl, rfl, rfl, rfl, rfl⟩

theorem qrecv_issues : IssuesAs s l ch (.qrecv l ch ga) (s.oneChecks (s.g ga) (recvChecks (s.g ga))) (s.g ga) 0 0 (s.wmRange (s.g ga) 64) :=
  issuesAs_of s l ch (congrArg (fun c => s.issueChan l ch c _) (sideCheck_one s (tabled_recv rfl) (found_recv _ rfl)))
    fun _ => ⟨rfl, rfl, rfl, rfl, rfl, rfl, rfl, rfl, rfl, rfl, rfl⟩

theorem gather_issues (cnt : BitVec 5) (esz : BitVec 2) : IssuesAs s l ch (.gather l ch ga gb gc cnt esz)
    (s.gatherChecks (s.g ga) (s.g gb) (s.g gc) (cnt.toNat + 1) (2 ^ esz.toNat)) (s.g ga) (s.g gb) (s.g gc)
    (s.wmRange (s.g ga) ((cnt.toNat + 1) * 2 ^ esz.toNat)) :=
  issuesAs_of s l ch (congrArg (fun c => s.issueChan l ch c _) (sideCheck_gather s ..))
    fun _ => ⟨rfl, rfl, rfl, rfl, rfl, rfl, rfl, rfl, rfl, rfl, rfl⟩

theorem scatter_issues (cnt : BitVec 5) (esz : BitVec 2) : IssuesAs s l ch (.scatter l ch ga gb gc cnt esz)
    (s.scatterChecks (s.g ga) (s.g gb) (s.g gc) (cnt.toNat + 1) (2 ^ esz.toNat)) (s.g ga) (s.g gb) (s.g gc) none :=
  issuesAs_of s l ch (congrArg (fun c => s.issueChan l ch c _) (sideCheck_scatter s ..))
    fun _ => ⟨rfl, rfl, rfl, rfl, rfl, rfl, rfl, rfl, rfl, rfl, rfl⟩

end

end Sys2Proof.Machine
end

section
/-! COPYMC, whose receivers and clasp base are checked besides (R209, R210); the channel commands together. -/

namespace Sys2Proof.Machine

section
variable (s : State) (l : Long) (ch : BitVec 3) (ga gb gc : Reg) (mask : BitVec 4)

/-- A core that the mask names runs no task of the launch (R209). -/
def State.absentReceiver : Prop := ∃ j : Fin 4, mask.getLsbD j.val = true ∧ quadCore s.cur.core j.val ≠ s.cur.core ∧
  s.sameLaunch s.cur.core (quadCore s.cur.core j.val) = false

theorem receiversOk_eq_false_iff : s.receiversOk mask = false ↔ s.absentReceiver mask := by
  simp only [State.receiversOk, State.absentReceiver, List.all_eq_false, List.mem_range, Bool.not_eq_true, Bool.or_eq_false_iff,
    Bool.not_eq_false', beq_eq_false_iff_ne, bit, and_assoc]
  exact ⟨fun ⟨q, hq, h⟩ => ⟨⟨q, hq⟩, h⟩, fun ⟨q, h⟩ => ⟨q.val, q.isLt, h⟩⟩

/-- A counting multicast relative to a clasp base names none (R210, R228). -/
def State.noClaspBase (c : Word) : Prop :=
  c.getLsbD 49 = true ∧ c.getLsbD 48 = true ∧ (s.old.clu .a).clb.toNat / 2 ^ 8 % 256 = 0

theorem mcClasp_cases (c : Word) : (s.noClaspBase c ∧ s.mcClasp c = .error 6) ∨ (¬ s.noClaspBase c ∧ ∃ i, s.mcClasp c = .ok i) := by
  have small : (BitVec.ofNat 64 (bits c 40 8) : Word).toNat / 256 = 0 := by
    rw [BitVec.toNat_ofNat]; unfold bits; omega
  have base : bits (s.old.clu .a).clb 8 8 = (s.old.clu .a).clb.toNat / 2 ^ 8 % 256 := rfl
  unfold State.mcClasp State.noClaspBase
  simp only [claspIndex, small, base, bit, ne_eq, not_true_eq_false, if_false]
  cases c.getLsbD 49 with
  | false => exact .inr ⟨by simp, none, rfl⟩
  | true =>
    cases c.getLsbD 48 with
    | false => exact .inr ⟨by simp, _, rfl⟩
    | true =>
      by_cases h : (s.old.clu .a).clb.toNat / 2 ^ 8 % 256 = 0
      · exact .inl ⟨⟨rfl, rfl, h⟩, by simp only [Bool.not_true, Bool.false_eq_true, if_false, if_true, if_pos h]⟩
      · exact .inr ⟨fun e => h e.2.2, _, by simp only [Bool.not_true, Bool.false_eq_true, if_false, if_true, if_neg h]; rfl⟩

/-- The checks of a COPYMC of n bytes. -/
def State.multicastChecks (n : Nat) : List Check :=
  s.flatChecks (s.g ga) (s.g gb) n 4 (onlyChecks 9 (s.g ga)) [(s.absentReceiver mask, 8, 0, s.g ga)] ++
    [(s.noClaspBase (s.g gc), 0x14, 6, 0)]

/-- What follows the checks of the sides is checked last. -/
theorem State.firstRaised_bind (r : Option (Nat × Nat × Word)) {p : Prop} {c d : Nat} {a : Word} :
    (p → (s.firstRaised r).bind (fun _ _ => (.trap c d a : Res Unit)) = s.firstRaised (r.or (firstOf [(p, c, d, a)]))) ∧
    (¬ p → (s.firstRaised r).bind (fun _ _ => .ok () s) = s.firstRaised (r.or (firstOf [(p, c, d, a)]))) := by
  constructor
  · intro h
    rw [firstOf_cons_pos (q := (p, c, d, a)) h]
    cases r <;> rfl
  · intro h
    rw [firstOf_cons_neg (q := (p, c, d, a)) h]
    cases r <;> rfl

theorem copymc_issues : IssuesAs s l ch (.copymc l ch ga gb gc mask) (if (s.g gc).toNat % 2 ^ 32 = 0 then []
    else s.multicastChecks ga gb gc mask ((s.g gc).toNat % 2 ^ 32)) (s.g ga) (s.g gb) (s.g gc)
    (if mask.getLsbD (s.cur.core.val % 4) = true then s.wmRange (s.g ga) ((s.g gc).toNat % 2 ^ 32) else none) := by
  have length : copyLen (s.g gc) = (s.g gc).toNat % 2 ^ 32 := bits_low _ 32
  have absent : firstOf [(s.absentReceiver mask, 8, 0, s.g ga)] = firstOf [(s.receiversOk mask = false, 8, 0, s.g ga)] :=
    congrArg (fun p : Prop => firstOf [(p, 8, 0, s.g ga)]) (propext (receiversOk_eq_false_iff s mask)).symm
  have sides : ∀ n, s.sideCheck [⟨s.g ga, n, 4, 4, onlyPath 9, true, s.receiversOk mask⟩, ⟨s.g gb, n, 4, 1, copySource, true, true⟩] =
      s.firstRaised (firstOf (s.flatChecks (s.g ga) (s.g gb) n 4 (onlyChecks 9 (s.g ga)) [(s.absentReceiver mask, 8, 0, s.g ga)])) :=
    fun n => sideCheck_flat s (tabled_only rfl (by decide)) (found_only _ rfl) absent
  have empty : s.wmRange (s.g ga) 0 = none := by simp [State.wmRange]
  have whole : (if (s.g gc).toNat % 2 ^ 32 = 0 then .ok () s
      else s.firstRaised ((firstOf (s.flatChecks (s.g ga) (s.g gb) ((s.g gc).toNat % 2 ^ 32) 4 (onlyChecks 9 (s.g ga))
        [(s.absentReceiver mask, 8, 0, s.g ga)])).or (firstOf [(s.noClaspBase (s.g gc), 0x14, 6, 0)]))) =
      s.firstRaised (firstOf (if (s.g gc).toNat % 2 ^ 32 = 0 then []
        else s.multicastChecks ga gb gc mask ((s.g gc).toNat % 2 ^ 32))) := by
    split
    · rfl
    · rw [State.multicastChecks, firstOf_append]
  have run : exec (.copymc l ch ga gb gc mask) s = execCopymc l ch ga gb gc mask s := rfl
  rw [execCopymc, length] at run
  rcases mcClasp_cases s (s.g gc) with ⟨no, e⟩ | ⟨yes, i, e⟩
  · rw [e] at run
    simp only [sides, (s.firstRaised_bind _).1 no, whole] at run
    refine issuesAs_of s l ch run fun hpass => ?_
    have zero : (s.g gc).toNat % 2 ^ 32 = 0 := by
      by_contra h
      rw [if_neg h] at hpass
      exact hpass _ (List.mem_append_right _ (List.mem_singleton.mpr rfl)) no
    rw [zero, empty, ite_self]
    exact ⟨rfl, rfl, rfl, rfl, rfl, rfl, rfl, rfl, rfl, rfl, rfl⟩
  · rw [e] at run
    have last := fun r => (s.firstRaised_bind r (c := 0x14) (d := 6) (a := 0)).2 yes
    simp only [sides, last, whole] at run
    exact issuesAs_of s l ch run fun _ => ⟨rfl, rfl, rfl, rfl, rfl, rfl, rfl, rfl, rfl, rfl, rfl⟩

end

/-- Settles O30: the model's checks, stage by stage over the sides, are those of R204's list (`sideCheck_eq`), and a command that passes
them enters its channel (`enterChan_entered`). -/
theorem channelCommandsCheckAndEnter : Obligations.ChannelCommandsCheckAndEnter := by
  intro s l ch ga gb gc cnt esz mask q
  exact ⟨copy_issues s l ch ga gb gc, cpyscl_issues s l ch ga gb gc, copyj_issues s l ch ga gb gc, copymc_issues s l ch ga gb gc mask,
    gather_issues s l ch ga gb gc cnt esz, scatter_issues s l ch ga gb gc cnt esz, qsend_issues s l ch ga q, qrecv_issues s l ch ga⟩

end Sys2Proof.Machine
end

section
/-! Trap delivery, the handler timeout and power grants (R345, R348, R395). -/

namespace Sys2Proof.Machine

/-! Pending traps. -/

theorem takePend_none {x : Clu} {l : List (Clu × Trap)} (h : ∀ e ∈ l, e.1 ≠ x) : takePend x l = none := by
  induction l with
  | nil => rfl
  | cons e l ih =>
    have other : (e.1 == x) = false := by simpa using h e (List.mem_cons_self ..)
    rw [takePend, other, ih fun f hf => h f (List.mem_cons_of_mem _ hf)]
    rfl

theorem takePend_first {x : Clu} {pre post : List (Clu × Trap)} {t : Trap} (h : ∀ e ∈ pre, e.1 ≠ x) :
    takePend x (pre ++ (x, t) :: post) = some (t, pre ++ post) := by
  induction pre with
  | nil => simp [takePend]
  | cons e l ih =>
    have other : (e.1 == x) = false := by simpa using h e (List.mem_cons_self ..)
    rw [List.cons_append, takePend, other, ih fun f hf => h f (List.mem_cons_of_mem _ hf)]
    rfl

/-- A cluster of a core may take a boundary trap. -/
def State.takesTraps (s : State) (k : Fin 768) (x : Clu) : Prop :=
  (s.core k).task.isSome ∧ (s.core k).term = none ∧ (s.core k).restoring = false ∧ ((s.core k).clu x).inh = false ∧ (s.core k).save = none ∧
    s.running k = true

theorem trapDelivery_shut {s : State} {k : Fin 768} {x : Clu} (h : ¬ s.takesTraps k x) : Idles (.trapDelivery k x) s := by
  have held : ((s.core k).task.isNone || (s.core k).term.isSome || (s.core k).restoring || ((s.core k).clu x).inh || s.saveWanted k ||
      !s.running k) = true := by
    by_contra free
    simp only [Bool.or_eq_true, not_or, Bool.not_eq_true, Bool.not_eq_false'] at free
    obtain ⟨⟨⟨⟨⟨task, term⟩, restoring⟩, inh⟩, save⟩, run⟩ := free
    exact h ⟨by simpa using task, by simpa using term, restoring, inh, by simpa [State.saveWanted] using save, run⟩
  exact if_pos held

theorem trapDelivery_open {s : State} {k : Fin 768} {x : Clu} (h : s.takesTraps k x) : exec (.trapDelivery k x) s =
    match takePend x (s.core k).pend with
    | none => s.idleOut
    | some (t, rest) =>
      .next { ((s.onCore k fun c => { c with pend := rest }).deliver k x t (s.pcOf k x)) with report := .trapped } := by
  obtain ⟨task, term, restoring, inh, save, run⟩ := h
  have free : ¬ ((s.core k).task.isNone || (s.core k).term.isSome || (s.core k).restoring || ((s.core k).clu x).inh || s.saveWanted k ||
      !s.running k) = true := by
    have some_ : (s.core k).task.isNone = false := by simpa using task
    simp [some_, term, restoring, inh, State.saveWanted, save, run]
  exact if_neg free

theorem trapDelivery_acts (s : State) (k : Fin 768) (x : Clu) :
    ((¬ s.takesTraps k x ∨ ∀ e ∈ (s.core k).pend, e.1 ≠ x) → Idles (.trapDelivery k x) s) ∧
    (∀ pre tr post, s.takesTraps k x → (s.core k).pend = pre ++ (x, tr) :: post → (∀ e ∈ pre, e.1 ≠ x) → exec (.trapDelivery k x) s =
      .next { ((s.setCore k { s.core k with pend := pre ++ post }).deliver k x tr (s.pcOf k x)) with report := .trapped }) := by
  refine ⟨fun h => ?_, fun pre tr post ready hp hpre => ?_⟩
  · by_cases ready : s.takesTraps k x
    · rw [Idles, trapDelivery_open ready, takePend_none (h.resolve_left (not_not_intro ready))]
      rfl
    · exact trapDelivery_shut ready
  · rw [trapDelivery_open ready, hp, takePend_first hpre]
    rfl

/-! The handler timeout. -/

theorem Core.terminate_of_none {c : Core} {x : Clu} {f : Cluster → Cluster} (h : c.term = none) (w : Word) (corrupt killed : Bool) :
    (c.onClu x f).terminate w corrupt killed =
      { c.onClu x f with term := some { cause := w, corrupt := corrupt, killed := killed } } := by
  have term : (c.onClu x f).term = none := h
  rw [Core.terminate, term]

theorem Core.terminate_clu (c : Core) (x : Clu) (f : Cluster → Cluster) (w : Word) (corrupt killed : Bool) :
    ((c.onClu x f).terminate w corrupt killed).clu x = f (c.clu x) := by
  obtain ⟨r, e, -, -⟩ := Core.terminate_cases (c.onClu x f) w corrupt killed
  rw [e]
  exact Core.onClu_same c x f

/-- A machine check ends the task of the core under its cause, unless the task is ending already (R343, R350). -/
theorem machineCheck_terminates {s : State} {k : Fin 768} (ht : (s.core k).term = none) (x : Clu) {cause : Nat} (hc : 0x20 ≤ cause)
    (hd : s.disposition cause = .terminate) (hk : cause ≠ 0x20) (info : Word) :
    ∃ q, ((s.machineCheck k x cause info).core k).term = some q ∧ q.killed = false ∧ q.cause = causeWord ⟨x, cause, 0, true, 0, info⟩ ∧
      (((s.machineCheck k x cause info).core k).clu x).tcause = q.cause := by
  have handler : ((((s.core k).clu x).inh && ((s.core k).clu x).priv && decide (cause < 0x20)) = true) = False := by
    simp [Nat.not_lt.mpr hc]
  have plain : (cause == 0x20) = false := by simpa using hk
  simp only [State.machineCheck, State.deliver, handler, if_false, hd, State.onCore_core_same, plain]
  refine ⟨_, congrArg Core.term (Core.terminate_of_none ht ..), rfl, rfl, ?_⟩
  rw [Core.terminate_clu]
  rfl

theorem handlerTimeout_acts (s : State) (k : Fin 768) (x : Clu) :
    (((s.core k).save = none ∨ ((s.core k).clu x).inh = false ∨ (s.core k).term ≠ none) → Idles (.handlerTimeout k x) s) ∧
    (∀ r, (s.core k).save = some r → ((s.core k).clu x).inh = true → (s.core k).term = none →
      (s.cadence.toNat ≤ r.tick + (s.dev 0x821).toNat % 2 ^ 32 → Idles (.handlerTimeout k x) s) ∧
      (r.tick + (s.dev 0x821).toNat % 2 ^ 32 < s.cadence.toNat → ∃ t q, exec (.handlerTimeout k x) s = .next t ∧ t.report = .trapped ∧
        (t.core k).term = some q ∧ q.cause.toNat = (cluCode x).val * 2 ^ 28 + 2 ^ 15 + 0x22 ∧ q.killed = false ∧
        ((t.core k).clu x).tcause = q.cause ∧ sameButTrapped s t k x)) := by
  have at_ : exec (.handlerTimeout k x) s = match (s.core k).save with
      | none => s.idleOut
      | some r =>
        if !((s.core k).clu x).inh || (s.core k).term.isSome || decide (s.cadence.toNat ≤ r.tick + bits (s.dev 0x821) 0 32) then s.idleOut
        else .next { s.machineCheck k x 0x22 0 with report := .trapped } := rfl
  rw [Idles, at_]
  refine ⟨fun h => ?_, fun r hs hi ht => ?_⟩
  · cases hs : (s.core k).save with
    | none => rfl
    | some r =>
      have held : (!((s.core k).clu x).inh || (s.core k).term.isSome) = true := by
        rcases h with h | h | h
        · rw [hs] at h; cases h
        · rw [h]; rfl
        · rw [Option.isSome_iff_ne_none.mpr h, Bool.or_true]
      exact if_pos (by rw [held, Bool.true_or])
  · rw [hs, hi, ht, bits_low]
    refine ⟨fun h => if_pos (by simpa using h), fun h => ?_⟩
    obtain ⟨q, term, killed, cause, tcause⟩ := machineCheck_terminates ht x (cause := 0x22) (by decide) rfl (by decide) 0
    have word : q.cause.toNat = (cluCode x).val * 2 ^ 28 + 2 ^ 15 + 0x22 := by
      rw [cause, causeWord, BitVec.toNat_ofNat]
      have := (cluCode x).isLt
      simp only [if_true]
      omega
    have late : ¬ (!true || (none : Option TermRec).isSome || decide (s.cadence.toNat ≤ r.tick + (s.dev 0x821).toNat % 2 ^ 32)) = true := by
      simpa using h
    exact ⟨_, q, if_neg late, rfl, term, word, killed, tcause, s.deliver_frame k x _ _⟩

/-! Power. -/

/-- Nothing changes of islands, dies and cores' registers. -/
def KeepsPower (s t : State) : Prop := t.plat.islands = s.plat.islands ∧ t.plat.dies = s.plat.dies ∧ ∀ k, (t.core k).rg = (s.core k).rg

namespace KeepsPower

theorem refl (s : State) : KeepsPower s s := ⟨rfl, rfl, fun _ => rfl⟩

theorem trans {s t u : State} (h : KeepsPower s t) (k : KeepsPower t u) : KeepsPower s u := by
  obtain ⟨hi, hd, hr⟩ := h
  obtain ⟨ki, kd, kr⟩ := k
  exact ⟨ki.trans hi, kd.trans hd, fun j => (kr j).trans (hr j)⟩

theorem ite {p : Prop} [Decidable p] {s t u : State} (h : KeepsPower s t) (k : KeepsPower s u) : KeepsPower s (if p then t else u) := by
  split
  · exact h
  · exact k

end KeepsPower

theorem State.shootdown_keepsPower (s : State) (slot scope tid first count : Nat) : KeepsPower s (s.shootdown slot scope tid first count) :=
  ⟨rfl, rfl, fun k => by rw [core_vmap s (fun c => c.shot slot scope tid first count) _ rfl]; rfl⟩

theorem State.revived_keepsPower (s : State) (p : Phys) : KeepsPower s (s.revived p) :=
  .ite (.trans (t := { s with ms := s.ms.revive p }) ⟨rfl, rfl, fun _ => rfl⟩ (State.shootdown_keepsPower ..)) (.refl s)

theorem State.homePutLine_keepsPower (s : State) (p : Phys) (mask : Word) (data : Line) : KeepsPower s (s.homePutLine p mask data) :=
  (s.revived_keepsPower p).trans ⟨rfl, rfl, fun _ => rfl⟩

theorem State.writePieces_keepsPower {slot : Nat} {base : Word} (ps : List (Nat × Nat × Nat)) : ∀ {s t : State} {bs : List Byte},
    State.writePieces slot base s bs ps = some t → KeepsPower s t := by
  induction ps with
  | nil => intro s t bs h; cases h; exact .refl _
  | cons p ps ih =>
    intro s t bs h
    unfold State.writePieces at h
    dsimp only at h
    split at h
    · cases h
    · exact (State.homePutLine_keepsPower _ _ _ _).trans (ih h)

theorem State.writeRange_keepsPower {s t : State} {slot : Nat} {a : Word} {bs : List Byte} (h : s.writeRange slot a bs = some t) :
    KeepsPower s t := by
  unfold State.writeRange at h
  split at h
  · cases h
  · exact State.writePieces_keepsPower _ h

theorem State.wakeClu_keepsPower (s : State) (k : Nat) (x : Clu) : KeepsPower s (s.wakeClu k x) := by
  unfold State.wakeClu
  split
  · next hk =>
    refine ⟨rfl, rfl, fun j => ?_⟩
    by_cases e : j = ⟨k, hk⟩
    · rw [e, State.onCore_core_same]; rfl
    · rw [State.onCore_core_ne _ _ e]
  · exact .refl s

theorem State.notice_keepsPower (s : State) (code kind src detail loc : Nat) : KeepsPower s (s.notice code kind src detail loc) := by
  unfold State.notice
  dsimp only
  split
  · exact ⟨rfl, rfl, fun _ => rfl⟩
  · split
    · exact ⟨rfl, rfl, fun _ => rfl⟩
    · next t ht =>
      refine (State.writeRange_keepsPower ht).trans ?_
      split
      · exact .trans (t := { t with plat := _ }) ⟨rfl, rfl, fun _ => rfl⟩ (State.wakeClu_keepsPower ..)
      · exact ⟨rfl, rfl, fun _ => rfl⟩

theorem or_bit_of_set {x : BitVec 5} {b : Nat} (hb : b < 5) (h : bit x b = true) : x ||| BitVec.ofNat 5 (2 ^ b) = x := by
  refine BitVec.eq_of_getLsbD_eq fun i hi => ?_
  have one : (BitVec.ofNat 5 (2 ^ b)).getLsbD i = decide (i = b) := by
    rw [BitVec.getLsbD_ofNat, Nat.testBit_two_pow, decide_eq_true hi, Bool.true_and]
    exact decide_eq_decide.mpr eq_comm
  rw [BitVec.getLsbD_or, one]
  by_cases e : i = b
  · subst e; rw [show x.getLsbD i = true from h]; rfl
  · rw [decide_eq_false e, Bool.or_false]

/-- A throttle reason sets its bit and leaves dies and cores' registers. -/
theorem State.setThr_sets (s : State) (i : Fin 76) {b : Nat} (hb : b < 5) :
    (vget (s.setThr i b).plat.islands i).thr = (vget s.plat.islands i).thr ||| BitVec.ofNat 5 (2 ^ b) ∧ (s.setThr i b).plat.dies = s.plat.dies ∧
      ∀ k, ((s.setThr i b).core k).rg = (s.core k).rg := by
  unfold State.setThr
  split
  · next h => exact ⟨(or_bit_of_set hb h).symm, rfl, fun _ => rfl⟩
  · obtain ⟨islands, dies, rg⟩ := (s.onIsland i fun d => { d with thr := d.thr ||| BitVec.ofNat 5 (2 ^ b) }).notice_keepsPower (thrCode b) 2 i.val 0 0
    refine ⟨?_, dies, rg⟩
    rw [islands, State.onIsland_same]

theorem powerGrant_idle {s : State} {d : Fin 8} (h : (vget s.plat.dies d).waiting = []) (th cur : Bool) : Idles (.powerGrant d th cur) s :=
  if_pos h

section
variable {s : State} {d : Fin 8} {k : Fin 768} {by_ : Option (Clu × Bool)} {level : BitVec 8} {rest : List PowerReq}

theorem powerGrant_acts (h : (vget s.plat.dies d).waiting = { core := k, by_ := by_, level := level } :: rest) (th cur : Bool) :
    exec (.powerGrant d th cur) s = .next
      { (if (s.dev (0xF50 + d.val)).toNat / 2 ^ 32 % 2 ^ 16 + s.contribution k < s.granted d + level.toNat then s.setThr (islandOf k) 1
        else if (vget s.plat.islands (islandOf k)).thr.getLsbD 0 || !th then s.setThr (islandOf k) 0
        else if !cur then s.setThr (islandOf k) 4
        else s.grant { core := k, by_ := by_, level := level }) with report := .issued } := by
  have some_ : ¬ (vget s.plat.dies d).waiting = [] := by rw [h]; exact List.cons_ne_nil _ _
  have acts : exec (.powerGrant d th cur) s = .next { s.examineHead d th cur with report := .issued } := if_neg some_
  rw [acts, State.examineHead, h]
  rfl

/-- A refused head request keeps its place. -/
theorem powerGrant_refuses {th cur : Bool} {b : Nat} (hb : b < 5)
    (h : exec (.powerGrant d th cur) s = .next { s.setThr (islandOf k) b with report := .issued }) :
    Occurs (.powerGrant d th cur) s fun t => (vget t.plat.islands (islandOf k)).thr =
      (vget s.plat.islands (islandOf k)).thr ||| BitVec.ofNat 5 (2 ^ b) ∧ (vget t.plat.dies d).waiting = (vget s.plat.dies d).waiting ∧
      (t.core k).rg = (s.core k).rg := by
  obtain ⟨thr, dies, rg⟩ := s.setThr_sets (islandOf k) hb
  exact ⟨_, h, rfl, thr, congrArg (fun v : Vector Die 8 => (vget v d).waiting) dies, rg k⟩

/-- A granted request leaves its queue and sets the core's level. -/
theorem grant_grants (h : (vget s.plat.dies d).waiting = { core := k, by_ := by_, level := level } :: rest) (hd : dieOf k = d) :
    let t := s.grant { core := k, by_ := by_, level := level }
    sameMemory s t ∧ t.plat.islands = s.plat.islands ∧
    t.core k = { s.core k with rg := { (s.core k).rg with pwrlvl := level, pwrGot := by_.toList ++ (s.core k).rg.pwrGot } } ∧
    (∀ j, j ≠ k → t.core j = s.core j) ∧ (vget t.plat.dies d).waiting = rest.filter (fun r => !(r.core == k && r.by_ == by_)) ∧
    ∀ e, e ≠ d → vget t.plat.dies e = vget s.plat.dies e := by
  subst hd
  refine ⟨sameMemory_of_ms rfl, rfl, ?_, fun j hj => State.onCore_core_ne _ _ hj, ?_, fun e he => ?_⟩
  · rw [State.grant, State.onCore_core_same]
    cases by_ <;> rfl
  · have after : (vget (s.withdraw { core := k, by_ := by_, level := level }).plat.dies (dieOf k)).waiting =
        (vget s.plat.dies (dieOf k)).waiting.filter fun x => !x.same { core := k, by_ := by_, level := level } := by
      simp only [State.withdraw, State.onDie, vget_vset, if_true]
    refine after.trans ?_
    rw [h, List.filter_cons_of_neg (by simp [PowerReq.same])]
    rfl
  · exact vget_vset_ne _ _ he

end

theorem powerGrant_decides (s : State) (k : Fin 768) (d : Fin 8) (th cur : Bool) :
    let q := (vget s.plat.dies d).waiting
    let i := islandOf k
    let isl := vget s.plat.islands i
    (q = [] → Idles (.powerGrant d th cur) s) ∧
    (∀ rest by_ l, q = { core := k, by_ := by_, level := l } :: rest →
      let budget : Prop := (s.dev (0xF50 + d.val)).toNat / 2 ^ 32 % 2 ^ 16 + s.contribution k < s.granted d + l.toNat
      let hot : Prop := isl.thr.getLsbD 0 = true ∨ th = false
      let refused (b : Nat) : Prop := Occurs (.powerGrant d th cur) s fun t => (vget t.plat.islands i).thr = isl.thr ||| BitVec.ofNat 5 (2 ^ b) ∧
        (vget t.plat.dies d).waiting = q ∧ (t.core k).rg = (s.core k).rg
      (budget → refused 1) ∧ (¬ budget → hot → refused 0) ∧ (¬ budget → ¬ hot → cur = false → refused 4) ∧
      (¬ budget → ¬ hot → cur = true → dieOf k = d → Occurs (.powerGrant d th cur) s fun t => sameMemory s t ∧ t.plat.islands = s.plat.islands ∧
        t.core k = { s.core k with rg := { (s.core k).rg with pwrlvl := l, pwrGot := by_.toList ++ (s.core k).rg.pwrGot } } ∧ (∀ j, j ≠ k → t.core j = s.core j) ∧
        (vget t.plat.dies d).waiting = rest.filter (fun r => !(r.core == k && r.by_ == by_)) ∧ ∀ e, e ≠ d → vget t.plat.dies e = vget s.plat.dies e)) := by
  intro q i isl
  refine ⟨fun h => powerGrant_idle h th cur, fun rest by_ l h => ?_⟩
  intro budget hot refused
  have acts := powerGrant_acts h th cur
  have warm : hot ↔ (isl.thr.getLsbD 0 || !th) = true := by simp [hot]
  refine ⟨fun hb => ?_, fun hb hh => ?_, fun hb hh hc => ?_, fun hb hh hc hd => ?_⟩
  · rw [if_pos hb] at acts
    exact powerGrant_refuses (by decide) acts
  · rw [if_neg hb, if_pos (warm.mp hh)] at acts
    exact powerGrant_refuses (by decide) acts
  · rw [if_neg hb, if_neg fun e => hh (warm.mpr e), if_pos (by rw [hc]; rfl)] at acts
    exact powerGrant_refuses (by decide) acts
  · rw [if_neg hb, if_neg fun e => hh (warm.mpr e), if_neg (by rw [hc]; decide)] at acts
    exact ⟨_, acts, rfl, grant_grants h hd⟩

end Sys2Proof.Machine
end

section
/-! The rendezvous of a core's sync bundles (R48). -/

namespace Sys2Proof.Machine

/-! The orders of a list. -/

theorem mem_insertions {α : Type} (x : α) (pre post : List α) : pre ++ x :: post ∈ insertions x (pre ++ post) := by
  induction pre with
  | nil => cases post <;> simp [insertions]
  | cons y ys ih => exact List.mem_cons_of_mem _ (List.mem_map.mpr ⟨_, ih, rfl⟩)

theorem perm_of_mem_insertions {α : Type} {x : α} {l : List α} : ∀ {m : List α}, m ∈ insertions x l → m.Perm (x :: l) := by
  induction l with
  | nil => intro m h; rw [List.mem_singleton.mp h]
  | cons y ys ih =>
    intro m h
    rcases List.mem_cons.mp h with rfl | h
    · exact .refl _
    · obtain ⟨n, hn, rfl⟩ := List.mem_map.mp h
      exact ((ih hn).cons y).trans (.swap x y ys)

theorem mem_orders_of_perm {α : Type} {l m : List α} (h : m.Perm l) : m ∈ orders l := by
  induction l generalizing m with
  | nil => rw [h.eq_nil]; exact List.mem_singleton.mpr rfl
  | cons x xs ih =>
    obtain ⟨pre, post, rfl⟩ := List.append_of_mem (h.symm.subset (List.mem_cons_self ..))
    have rest : (pre ++ post).Perm xs := (List.perm_middle.symm.trans h).cons_inv
    exact List.mem_flatMap.mpr ⟨_, ih rest, mem_insertions x pre post⟩

theorem perm_of_mem_orders {α : Type} {l m : List α} (h : m ∈ orders l) : m.Perm l := by
  induction l generalizing m with
  | nil => rw [List.mem_singleton.mp h]
  | cons x xs ih =>
    obtain ⟨n, hn, hm⟩ := List.mem_flatMap.mp h
    exact (perm_of_mem_insertions hm).trans ((ih hn).cons x)

/-! Where a cluster is away from its sync bundle, or none is live. -/

/-- A cluster of the core has not ended. -/
def State.lives (s : State) (k : Fin 768) (x : Clu) : Prop := ((s.core k).clu x).ended = false

/-- The live clusters of a core in the order in which a rendezvous tries them. -/
def State.living (s : State) (k : Fin 768) : List Clu := [Clu.a, .v, .m, .c].filter fun x => !((s.core k).clu x).ended

theorem mem_living {s : State} {k : Fin 768} {x : Clu} : x ∈ s.living k ↔ s.lives k x := by
  rw [State.living, List.mem_filter, State.lives, Bool.not_eq_true']
  exact and_iff_right (by cases x <;> simp)

theorem nodup_living (s : State) (k : Fin 768) : (s.living k).Nodup := List.Nodup.filter _ (by decide)

theorem rendezvous_idle {s : State} {k : Fin 768} (h : (∀ x, ¬ s.lives k x) ∨ ∃ x, s.lives k x ∧ s.syncNext k x = false) :
    Idles (.syncRendezvous k) s := by
  have away : ((s.living k).isEmpty || !((s.living k).all fun x => s.syncNext k x)) = true := by
    rcases h with none_ | ⟨x, hx, hn⟩
    · rw [show s.living k = [] from List.eq_nil_iff_forall_not_mem.mpr fun x hx => none_ x (mem_living.mp hx)]
      rfl
    · have some_ : (s.living k).all (fun x => s.syncNext k x) = false :=
        List.all_eq_false.mpr ⟨x, mem_living.mpr hx, by rw [hn]; exact Bool.false_ne_true⟩
      rw [some_, Bool.not_false, Bool.or_true]
  have met : s.rendezvous issueInstr k = .next { s with report := .stalled } := if_pos away
  have run : exec (.syncRendezvous k) s = s.unlessStalled (s.rendezvous issueInstr k) := rfl
  rw [Idles, run, met]
  exact unlessStalled_held s (.inl rfl)

/-! Where every live cluster stands at its sync bundle. -/

section
variable {s : State} {k : Fin 768} (some_ : ∃ x, s.lives k x) (ready : ∀ x, s.lives k x → s.syncNext k x = true)
include some_ ready

theorem rendezvous_of_ready : s.rendezvous issueInstr k = match State.tryMeet issueInstr k (s.living k) s true with
    | .error u => .next u
    | .ok (t, false) => .next { t with report := .stalled }
    | .ok (_, true) => s.meetAny issueInstr k (s.living k) := by
  have here : ¬ ((s.living k).isEmpty || !((s.living k).all fun x => s.syncNext k x)) = true := by
    obtain ⟨x, hx⟩ := some_
    have full : (s.living k).isEmpty = false := List.isEmpty_eq_false_iff.mpr (List.ne_nil_of_mem (mem_living.mpr hx))
    have all_ : (s.living k).all (fun x => s.syncNext k x) = true := List.all_eq_true.mpr fun y hy => ready y (mem_living.mp hy)
    rw [full, all_]
    exact Bool.false_ne_true
  exact if_neg here

end

/-- The bundle of a cluster issues when it is tried alone against the state of a rendezvous. -/
def State.meetsAlone (s : State) (k : Fin 768) (x : Clu) : Prop :=
  ∃ w, (s.onCore k Core.meetClocks).tryBundle issueInstr k x true = .next w ∧ (w.report = .issued ∨ w.report = .branched)

theorem tryMeet_done {s u : State} {k : Fin 768} {x : Clu} (hu : (s.onCore k Core.meetClocks).tryBundle issueInstr k x true = .next u)
    (hr : u.report = .issued ∨ u.report = .branched) (xs : List Clu) (ok : Bool) :
    State.tryMeet issueInstr k (x :: xs) s ok = State.tryMeet issueInstr k xs s ok := by
  conv_lhs => unfold State.tryMeet
  rw [hu]
  dsimp only
  rcases hr with hr | hr <;> rw [hr]

theorem tryMeet_passes {s : State} {k : Fin 768} {pre : List Clu} (h : ∀ x ∈ pre, s.meetsAlone k x) (rest : List Clu) (ok : Bool) :
    State.tryMeet issueInstr k (pre ++ rest) s ok = State.tryMeet issueInstr k rest s ok := by
  induction pre with
  | nil => rfl
  | cons x xs ih =>
    obtain ⟨w, hw, hr⟩ := h x (List.mem_cons_self ..)
    exact (tryMeet_done hw hr (xs ++ rest) ok).trans (ih fun y hy => h y (List.mem_cons_of_mem _ hy))

theorem tryMeet_traps {s w w' : State} {k : Fin 768} {x : Clu} (hw' : (s.onCore k Core.meetClocks).tryBundle issueInstr k x true = .next w')
    (hw : s.tryBundle issueInstr k x true = .next w) (hr' : w'.report = .trapped) (hr : w.report = .trapped) (rest : List Clu) (ok : Bool) :
    State.tryMeet issueInstr k (x :: rest) s ok = .error w := by
  unfold State.tryMeet
  rw [hw', hw]
  dsimp only
  rw [hr']
  exact congrArg Except.error (if_pos hr)

/-- A cluster's bundle as it stands fetched before a rendezvous issues in the state that its peers' bundles have left. -/
def meetTurn (k : Fin 768) (f : Clu → Fetched) (ps : Clu → List Part) (t : State) (x : Clu) : Option State :=
  match ((t.at_ k x).onCl fun c => { c with pc := (f x).addr, pcReg := false }).execBundle issueInstr (f x) (ps x) true with
  | .next w => if w.report = .issued ∨ w.report = .branched then some w else none
  | _ => none

section
variable {s : State} {k : Fin 768} {f : Clu → Fetched} {ps : Clu → List Part}

theorem meetOne_eq {x : Clu} (hf : ∃ v, (s.at_ k x).nextBundle = .ok (v, f x)) (hp : decodeBundle x (f x) = .ok (ps x)) (t : State) :
    s.meetOne issueInstr t k x =
      ((t.at_ k x).onCl fun c => { c with pc := (f x).addr, pcReg := false }).execBundle issueInstr (f x) (ps x) true := by
  obtain ⟨v, hv⟩ := hf
  have whole : (s.at_ k x).nextBundle = ({ s with cur := { core := k, clu := x }, latch := none } : State).nextBundle := rfl
  rw [State.meetOne, ← whole, hv]
  simp only [hp]
  rfl

variable (fetched : ∀ x, s.lives k x → (∃ v, (s.at_ k x).nextBundle = .ok (v, f x)) ∧ decodeBundle x (f x) = .ok (ps x))
include fetched

/-- Bundles that issue one after another meet, and bundles that meet issue one after another. -/
theorem meetAll_iff {l : List Clu} (hl : ∀ x ∈ l, s.lives k x) (t : State) :
    (∀ w, l.foldlM (meetTurn k f ps) t = some w → s.meetAll issueInstr k l t = .next { w with report := .issued }) ∧
      (l.foldlM (meetTurn k f ps) t = none → hasMet (s.meetAll issueInstr k l t) = false) := by
  induction l generalizing t with
  | nil =>
    refine ⟨fun w hw => ?_, fun h => ?_⟩
    · cases hw; rfl
    · cases h
  | cons x xs ih =>
    obtain ⟨hf, hp⟩ := fetched x (hl x (List.mem_cons_self ..))
    have tail := fun u => ih (fun y hy => hl y (List.mem_cons_of_mem _ hy)) u
    rw [List.foldlM_cons, meetTurn, State.meetAll, meetOne_eq hf hp]
    cases ((t.at_ k x).onCl fun c => { c with pc := (f x).addr, pcReg := false }).execBundle issueInstr (f x) (ps x) true with
    | next u =>
      dsimp only
      by_cases issued : u.report = .issued ∨ u.report = .branched
      · rw [if_pos issued]
        rcases issued with hr | hr <;> rw [hr] <;> exact tail u
      · rw [if_neg issued]
        refine ⟨fun w h => (by cases h), fun _ => ?_⟩
        cases hr : u.report with
        | issued => exact absurd (.inl hr) issued
        | branched => exact absurd (.inr hr) issued
        | _ => rfl
    | fault e => simp [hasMet]
    | refused e => simp [hasMet]

theorem meetAny_issues {l : List Clu} (hl : l.Perm (s.living k)) (hm : (l.foldlM (meetTurn k f ps) (s.onCore k Core.meetClocks)).isSome) :
    ∃ (m : List Clu) (t : State), m.Perm (s.living k) ∧ m.foldlM (meetTurn k f ps) (s.onCore k Core.meetClocks) = some t ∧
      s.meetAny issueInstr k (s.living k) = .next { t with report := .issued } := by
  have met := fun {m : List Clu} (hm : m.Perm (s.living k)) =>
    meetAll_iff fetched (fun x hx => mem_living.mp (hm.subset hx)) (s.onCore k Core.meetClocks)
  cases found : (orders (s.living k)).find? fun l => hasMet (s.meetAll issueInstr k l (s.onCore k Core.meetClocks)) with
  | none =>
    obtain ⟨w, hw⟩ := Option.isSome_iff_exists.mp hm
    have := List.find?_eq_none.mp found l (mem_orders_of_perm hl)
    rw [(met hl).1 w hw] at this
    exact absurd rfl this
  | some m =>
    have perm := perm_of_mem_orders (List.mem_of_find?_eq_some found)
    cases hw : m.foldlM (meetTurn k f ps) (s.onCore k Core.meetClocks) with
    | none =>
      have := List.find?_some found
      rw [(met perm).2 hw] at this
      cases this
    | some t =>
      refine ⟨m, t, perm, hw, ?_⟩
      rw [State.meetAny, found]
      exact (met perm).1 t hw

theorem rendezvous_meets (some_ : ∃ x, s.lives k x) (ready : ∀ x, s.lives k x → s.syncNext k x = true)
    (alone : ∀ x ∈ s.living k, s.meetsAlone k x)
    (h : ∃ l : List Clu, l.Perm (s.living k) ∧ (l.foldlM (meetTurn k f ps) (s.onCore k Core.meetClocks)).isSome) :
    ∃ (l : List Clu) (t : State), l.Perm (s.living k) ∧ l.foldlM (meetTurn k f ps) (s.onCore k Core.meetClocks) = some t ∧
      exec (.syncRendezvous k) s = .next { t with report := .issued } := by
  obtain ⟨l, hl, hm⟩ := h
  obtain ⟨m, t, perm, fold, any_⟩ := meetAny_issues fetched hl hm
  have passes : State.tryMeet issueInstr k (s.living k) s true = .ok (s, true) :=
    (congrArg (State.tryMeet issueInstr k · s true) (List.append_nil _).symm).trans (tryMeet_passes alone [] true)
  have run : exec (.syncRendezvous k) s = s.unlessStalled (s.rendezvous issueInstr k) := rfl
  refine ⟨m, t, perm, fold, ?_⟩
  rw [run, rendezvous_of_ready some_ ready, passes]
  dsimp only
  rw [any_]
  exact unlessStalled_done s (by simp)

end

theorem rendezvous_traps {s w w' : State} {k : Fin 768} {x : Clu} {pre post : List Clu} (some_ : ∃ x, s.lives k x)
    (ready : ∀ x, s.lives k x → s.syncNext k x = true) (hl : s.living k = pre ++ x :: post) (alone : ∀ y ∈ pre, s.meetsAlone k y)
    (hw' : (s.onCore k Core.meetClocks).tryBundle issueInstr k x true = .next w') (hw : s.tryBundle issueInstr k x true = .next w)
    (hr' : w'.report = .trapped) (hr : w.report = .trapped) : exec (.syncRendezvous k) s = .next w := by
  have run : exec (.syncRendezvous k) s = s.unlessStalled (s.rendezvous issueInstr k) := rfl
  rw [run, rendezvous_of_ready some_ ready, hl, tryMeet_passes alone, tryMeet_traps hw' hw hr' hr]
  exact unlessStalled_done s (by rw [hr]; simp)

end Sys2Proof.Machine
end

section
/-! Fetching again: a bundle that fetch has found is found from its own address, whatever the cores have done since. -/

namespace Sys2Proof.Machine

/-- Nothing differs but the cores and what belongs to the bundle in hand. -/
def sameDevice (s t : State) : Prop :=
  t = { s with cores := t.cores, cur := t.cur, latch := t.latch, ir := t.ir, report := t.report }

theorem sameDevice.refl (s : State) : sameDevice s s := rfl

theorem sameDevice.trans {s t u : State} (h : sameDevice s t) (k : sameDevice t u) : sameDevice s u := by
  rw [sameDevice, k, h]

theorem sameDevice.symm {s t : State} (h : sameDevice s t) : sameDevice t s := by
  rw [sameDevice, h]

theorem sameDevice_onCl (s : State) (f : Cluster → Cluster) : sameDevice s (s.onCl f) := rfl

theorem codeLine_of_sameDevice {s t : State} (h : sameDevice s t) (w : Fetcher) (pc : Word) : t.codeLine w pc = s.codeLine w pc := by
  rw [h]; rfl

theorem walk_of_sameDevice {s t : State} (h : sameDevice s t) (w : Fetcher) (pc : Word) (n : Nat) : t.walk w pc n = s.walk w pc n := by
  induction n generalizing pc with
  | zero => rfl
  | succ n ih => simp only [State.walk, codeLine_of_sameDevice h, ih]

theorem normalise_of_sameDevice {s t : State} (h : sameDevice s t) (w : Fetcher) (pc : Word) (reg : Bool) (n : Nat) :
    t.normalise w pc reg n = s.normalise w pc reg n := by
  simp only [State.normalise, State.seek, codeLine_of_sameDevice h, walk_of_sameDevice h]

theorem firstWord_spec {l : Line} {i n j : Nat} (h : firstWord l i n = some j) : i ≤ j ∧ j < i + n ∧ lineWord l j ≠ 0 := by
  induction n generalizing i with
  | zero => cases h
  | succ n ih =>
    rw [firstWord] at h
    split at h
    · next here => cases h; exact ⟨le_rfl, by omega, here⟩
    · obtain ⟨above, below, found⟩ := ih h
      exact ⟨by omega, by omega, found⟩

theorem firstWord_here {l : Line} {i n : Nat} (h : lineWord l i ≠ 0) : firstWord l i (n + 1) = some i := if_pos h

theorem toNat_withIndex (pc : Word) {i : Nat} (h : i < 16) : (withIndex pc i).toNat = pc.toNat / 64 * 64 + 4 * i := by
  have e : pc &&& ~~~63 = BitVec.ofNat 64 (pc.toNat / 64 * 64) := and_not_lowMask pc 6
  have := pc.isLt
  rw [withIndex, e, BitVec.toNat_add, BitVec.toNat_ofNat, BitVec.toNat_ofNat]
  omega

/-- Within a line, an address with another index reads the same line. -/
theorem codeLine_withIndex {s : State} {w : Fetcher} {pc : Word} {l : Line} (h : s.codeLine w pc = .ok l) {i : Nat} (hi : i < 16) :
    s.codeLine w (withIndex pc i) = .ok l := by
  have value := toNat_withIndex pc hi
  have line : withIndex pc i &&& ~~~63 = pc &&& ~~~63 := by
    have e : ∀ x : Word, x &&& ~~~63 = BitVec.ofNat 64 (x.toNat / 64 * 64) := fun x => and_not_lowMask x 6
    rw [e, e, value]
    congr 1
    omega
  have path : bits (withIndex pc i) 60 4 = bits pc 60 4 := by simp only [bits, value]; omega
  have high : bits (withIndex pc i) 56 4 = bits pc 56 4 := by simp only [bits, value]; omega
  have tid : bits (withIndex pc i) 40 16 = bits pc 40 16 := by simp only [bits, value]; omega
  unfold State.codeLine at h ⊢
  rw [line, path, high, tid]
  dsimp only at h ⊢
  split at h
  · cases h
  · next gen =>
    rw [if_neg gen]
    split at h
    · cases h
    · next form =>
      rw [if_neg form]
      cases found : s.translate w.slot (bits pc 40 16) (bits (pc &&& ~~~63) 0 40) false with
      | error e => rw [found] at h; cases e <;> cases h
      | ok p =>
        rw [found] at h
        dsimp only at h ⊢
        split at h
        · cases h
        · next frame =>
          rw [if_neg frame]
          split at h
          · next dead => rw [if_pos dead]; exact h
          · next live =>
            rw [if_neg live]
            split at h
            · cases h
            · next whole => rw [if_neg whole]; exact h

theorem bits_withIndex (pc : Word) {i : Nat} (h : i < 16) : bits (withIndex pc i) 2 4 = i := by
  have value := toNat_withIndex pc h
  simp only [bits, value]
  omega

theorem withIndex_withIndex (pc : Word) {i : Nat} (h : i < 16) : withIndex (withIndex pc i) i = withIndex pc i := by
  refine BitVec.eq_of_toNat_eq ?_
  rw [toNat_withIndex _ h, toNat_withIndex _ h]
  omega

theorem nextLine_index {pc a : Word} {link : Nat} (h : nextLine pc link = .ok a) : bits a 2 4 = 1 := by
  unfold nextLine at h
  split at h
  · cases h
  · rw [codeTarget_eq] at h
    split at h
    · next b hb =>
      cases h
      split at hb
      · next inside =>
        cases hb
        have := pc.isLt
        have below : (targetLine pc (linkNext link)).toNat < 2 ^ 34 := by omega
        rw [targetWord, bits, BitVec.toNat_ofNat]
        omega
      · cases hb
    · cases h

/-- The walk ends at a bundle from which it ends again at once. -/
theorem walk_again {s : State} {w : Fetcher} {pc a : Word} {l : Line} {n m : Nat} (hi : bits pc 2 4 ≠ 0)
    (h : s.walk w pc n = .ok (a, l, m)) : bits a 2 4 ≠ 0 ∧ s.walk w a (m + 1) = .ok (a, l, m) := by
  induction n generalizing pc with
  | zero => cases h
  | succ n ih =>
    rw [State.walk] at h
    cases hl : s.codeLine w pc with
    | error e => rw [hl] at h; cases h
    | ok l' =>
      rw [hl] at h
      dsimp only [bind, Except.bind] at h
      split at h
      · cases h
      · next link =>
        split at h
        · next i found =>
          cases h
          obtain ⟨above, below, here⟩ := firstWord_spec found
          have small : i < 16 := by
            have : bits pc 2 4 < 16 := Nat.mod_lt _ (by decide)
            omega
          have again : firstWord l (bits (withIndex pc i) 2 4) (16 - bits (withIndex pc i) 2 4) = some i := by
            rw [bits_withIndex pc small, show 16 - i = 15 - i + 1 by omega]
            exact firstWord_here here
          refine ⟨by rw [bits_withIndex pc small]; omega, ?_⟩
          rw [State.walk, codeLine_withIndex hl small]
          dsimp only [bind, Except.bind]
          rw [link, again]
          dsimp only
          rw [withIndex_withIndex pc small]
        · cases hn : nextLine pc (lineWord l' 0) with
          | error e => rw [hn] at h; cases h
          | ok b => rw [hn] at h; exact ih (by rw [nextLine_index hn]; decide) h

theorem normalise_again {s : State} {w : Fetcher} {pc a : Word} {reg : Bool} {l : Line} {n m : Nat}
    (h : s.normalise w pc reg n = .ok (a, l, m)) : s.normalise w a false (m + 1) = .ok (a, l, m) := by
  have walked : ∃ b k, bits b 2 4 ≠ 0 ∧ s.walk w b k = .ok (a, l, m) := by
    rw [State.normalise] at h
    split at h
    · cases h
    · rw [State.seek] at h
      split at h
      · dsimp only [bind, Except.bind] at h
        cases hl : s.codeLine w (pc - 64) with
        | error e => rw [hl] at h; cases h
        | ok l' =>
          rw [hl] at h
          dsimp only at h
          cases hn : nextLine (pc - 64) (lineWord l' 0) with
          | error e => rw [hn] at h; cases h
          | ok b =>
            rw [hn] at h
            exact ⟨b, _, by rw [nextLine_index hn]; decide, h⟩
      · next index => exact ⟨pc, n, index, h⟩
  obtain ⟨b, k, index, walked⟩ := walked
  obtain ⟨index, again⟩ := walk_again index walked
  have reads : s.normalise w a false (m + 1) = s.seek w a (m + 1) := if_neg (by simp)
  rw [reads, State.seek, if_neg index, again]

/-! The next bundle. -/

theorem Core.onClu_onClu (c : Core) (x : Clu) (f g : Cluster → Cluster) : (c.onClu x f).onClu x g = c.onClu x fun u => g (f u) := by
  rw [Core.onClu, Core.onClu_same]
  simp only [Core.onClu, vset, Vector.set_set]

theorem State.onCl_onCl (s : State) (f g : Cluster → Cluster) : (s.onCl f).onCl g = s.onCl fun c => g (f c) := by
  rw [State.onCl, State.onCl, State.onMe_eq s, State.onMe_setCore, State.setCore_cur, Core.onClu_onClu]
  rfl

/-- The cluster with its pc at a bundle that fetch has found. -/
def Cluster.found (a : Word) (n : Nat) (c : Cluster) : Cluster := { c with pc := a, pcReg := false, lineRoom := n + 1 }

theorem nextBundle_iff {s v : State} {f : Fetched} : s.nextBundle = .ok (v, f) ↔ s.cl.pcBad = false ∧ s.cl.badEnd = none ∧
    ∃ a l n, s.normalise (s.me.fetcher s.cur.core s.cur.clu) s.cl.pc s.cl.pcReg s.cl.lineRoom = .ok (a, l, n) ∧ parseBundle a l = .ok f ∧
      v = s.onCl (Cluster.found a n) := by
  constructor
  · intro h
    unfold State.nextBundle at h
    dsimp only at h
    split at h
    · cases h
    · next good =>
      cases hn : s.normalise (s.me.fetcher s.cur.core s.cur.clu) s.cl.pc s.cl.pcReg s.cl.lineRoom with
      | error e => rw [hn] at h; cases h
      | ok r =>
        obtain ⟨a, l, n⟩ := r
        rw [hn] at h
        dsimp only [bind, Except.bind] at h
        split at h
        · cases h
        · next ends =>
          cases hp : parseBundle a l with
          | error e => rw [hp] at h; cases h
          | ok g => rw [hp] at h; cases h; exact ⟨by simpa using good, ends, a, l, n, rfl, hp, rfl⟩
  · rintro ⟨good, ends, a, l, n, hn, hp, rfl⟩
    unfold State.nextBundle
    dsimp only
    rw [if_neg (by rw [good]; exact Bool.false_ne_true), hn]
    dsimp only [bind, Except.bind]
    rw [ends]
    dsimp only
    rw [hp]
    rfl

/-- What fetch reads of a cluster is in both the same. -/
def fetchesAlike (c d : Cluster) : Prop :=
  d.pc = c.pc ∧ d.pcReg = c.pcReg ∧ d.pcBad = c.pcBad ∧ d.lineRoom = c.lineRoom ∧ d.inh = c.inh ∧ d.lpc = c.lpc ∧ d.lpe = c.lpe ∧
    d.priv = c.priv ∧ d.pctx = c.pctx

/-- Fetch reads of the cores only the cluster's position and loop ends, and the context it translates through. -/
theorem nextBundle_alike {s t v : State} {f : Fetched} (hs : sameDevice s t) (hc : t.cur = s.cur) (hl : fetchesAlike s.cl t.cl)
    (ht : t.me.task = s.me.task) (h : s.nextBundle = .ok (v, f)) : ∃ a n, v = s.onCl (Cluster.found a n) ∧
      t.nextBundle = .ok (t.onCl (Cluster.found a n), f) := by
  obtain ⟨good, ends, a, l, n, hn, hp, rfl⟩ := nextBundle_iff.mp h
  obtain ⟨pc, reg, bad, room, inh, lpc, lpe, priv, pctx⟩ := hl
  have slot : t.me.slotFor t.cur.clu = s.me.slotFor s.cur.clu := by
    have mine : ∀ u : State, u.me.slotFor u.cur.clu = if u.cl.priv then (if bit u.cl.pctx 6 then bits u.cl.pctx 0 6 else 0)
        else u.me.slot := fun u => rfl
    rw [mine, mine, priv, pctx, Core.slot, ht]
    rfl
  have fetcher : t.me.fetcher t.cur.core t.cur.clu = s.me.fetcher s.cur.core s.cur.clu := by
    rw [Core.fetcher, slot, hc]; rfl
  refine ⟨a, n, rfl, nextBundle_iff.mpr ⟨bad.trans good, ?_, a, l, n, ?_, hp, rfl⟩⟩
  · rw [Cluster.badEnd, inh, lpc, lpe]; exact ends
  · rw [normalise_of_sameDevice hs, fetcher, pc, reg, room]; exact hn

/-- A bundle that fetch has found is found again from the state in which the core stands at it. -/
theorem nextBundle_again {s v : State} {f : Fetched} (h : s.nextBundle = .ok (v, f)) : v.nextBundle = .ok (v, f) := by
  obtain ⟨good, ends, a, l, n, hn, hp, rfl⟩ := nextBundle_iff.mp h
  have cl : (s.onCl (Cluster.found a n)).cl = Cluster.found a n s.cl := State.onCl_cl _ _
  have slot : (s.onCl (Cluster.found a n)).me.slotFor s.cur.clu = s.me.slotFor s.cur.clu := by
    rw [Core.slotFor, show (s.onCl (Cluster.found a n)).me.clu s.cur.clu = _ from cl, State.onCl, State.onMe_me]
    rfl
  refine nextBundle_iff.mpr ⟨by rw [cl]; exact good, by rw [cl]; exact ends, a, l, n, ?_, hp, ?_⟩
  · rw [normalise_of_sameDevice (sameDevice_onCl s _), State.onCl_cur, Core.fetcher, slot, cl]
    exact normalise_again hn
  · rw [State.onCl_onCl]
    rfl

end Sys2Proof.Machine
end

section
/-! Sync bundles of one NOP each: every live cluster's turn of the rendezvous issues (R48). -/

namespace Sys2Proof.Machine

/-! The end of a sync bundle. -/

/-- The records of a cluster as its sync bundle issues outside a handler. -/
def Cluster.synced (now : Nat) (c : Cluster) : Cluster :=
  { c.holdOff now with stampSeen := none, syncs := c.syncs + 1, atSync := false, claspKept := none }

/-- A charge enters the list, and those that no longer count leave it. -/
def CoreRegs.charged (r : CoreRegs) (now n : Nat) : CoreRegs :=
  { r with charges := (now, n) :: r.charges.filter fun e => decide (now < e.1 + 256) }

theorem draw_from (l : List (Nat × Nat)) (now a b : Nat) :
    l.foldl (fun n c => if now < c.1 + 256 then n + c.2 else n) (a + b) =
      a + l.foldl (fun n c => if now < c.1 + 256 then n + c.2 else n) b := by
  induction l generalizing b with
  | nil => rfl
  | cons e l ih =>
    rw [List.foldl_cons, List.foldl_cons]
    split
    · rw [Nat.add_assoc, ih]
    · exact ih b

theorem draw_charged (r : CoreRegs) (now n : Nat) : (r.charged now n).draw now = r.draw now + n := by
  have counts : now < now + 256 := by omega
  have rest : ∀ a, (r.charges.filter fun e => decide (now < e.1 + 256)).foldl (fun n c => if now < c.1 + 256 then n + c.2 else n) a =
      r.charges.foldl (fun n c => if now < c.1 + 256 then n + c.2 else n) a := fun a => by
    rw [List.foldl_filter]
    congr 1
    funext n c
    by_cases h : now < c.1 + 256 <;> simp [h]
  rw [CoreRegs.draw, CoreRegs.charged, List.foldl_cons, if_pos counts, rest, Nat.zero_add, CoreRegs.draw, ← Nat.add_zero n, draw_from,
    Nat.add_comm, Nat.add_zero]

theorem Core.count_charges (c : Core) (e : Nat) (x : Clu) (n : Nat) : (c.count e x n).rg.charges = c.rg.charges ∧
    (c.count e x n).rg.pwrlvl = c.rg.pwrlvl := by
  unfold Core.count
  split
  · exact ⟨rfl, rfl⟩
  · dsimp only
    split <;> exact ⟨rfl, rfl⟩

theorem charge_setCore (s : State) (k : Fin 768) (c : Core) (n : Nat) :
    (s.setCore k c).charge k n = s.setCore k { c with rg := c.rg.charged s.cadence.toNat n } := by
  have whole : (s.setCore k c).charge k n =
      (s.setCore k c).setCore k { (s.setCore k c).core k with rg := ((s.setCore k c).core k).rg.charged s.cadence.toNat n } := rfl
  rw [whole, State.setCore_core_same, State.setCore_setCore]

/-- The end of a sync bundle outside a handler, at which no hardware loop ends. -/
theorem endBundle_met {w : State} {o : Core} (hr : w.report = .issued) (hl : ∀ l, vget (o.clu w.cur.clu).lpc l = 0)
    (hi : (o.clu w.cur.clu).inh = false) (ps : List Part) (n : Nat) : ∃ rg : CoreRegs,
      w.endBundle o ps true n = { (w.setCore w.cur.core { w.me.onClu w.cur.clu (Cluster.synced w.cadence.toNat) with
        rg := rg.charged w.cadence.toNat n }) with latch := none } ∧
      rg.charges = w.me.rg.charges ∧ rg.pwrlvl = w.me.rg.pwrlvl := by
  have loops : (w.onCl fun c => loopEnd (o.clu w.cur.clu) w.ir.bpc (ps.findSome? fun p => writesLpc p.i) c 4) = w := by
    simp only [loopEnd_idle hl]
    exact onCl_id w
  have stays : ¬ w.report = .branched := by rw [hr]; exact Report.noConfusion
  have ends : (fun c : Cluster => { c.holdOff w.cadence.toNat with stampSeen := none, syncs := if true then c.syncs + 1 else c.syncs, atSync := false
                                                                   claspKept := if (o.clu w.cur.clu).inh then c.claspKept else none }) =
      Cluster.synced w.cadence.toNat := by
    rw [hi]; rfl
  obtain ⟨charges, level⟩ := Core.count_charges (w.me.onClu w.cur.clu (Cluster.synced w.cadence.toNat)) 3 w.cur.clu 1
  refine ⟨_, ?_, charges, level⟩
  unfold State.endBundle
  dsimp only
  rw [if_neg stays, loops, ends, State.onCl, State.onMe_eq w, State.onMe_setCore, State.setCore_cur, charge_setCore, Core.count_frame]

theorem endBundle_met_core {w : State} {o c : Core} {k : Fin 768} {x : Clu} (hr : w.report = .issued) (hw : w.cur = { core := k, clu := x })
    (hc : w.core k = c) (hl : ∀ l, vget (o.clu x).lpc l = 0) (hi : (o.clu x).inh = false) (ps : List Part) (n : Nat) : ∃ rg : CoreRegs,
      (w.endBundle o ps true n).core k = { c.onClu x (Cluster.synced w.cadence.toNat) with rg := rg.charged w.cadence.toNat n } ∧
      (∀ j, j ≠ k → (w.endBundle o ps true n).core j = w.core j) ∧ sameDevice w (w.endBundle o ps true n) ∧
      rg.charges = c.rg.charges ∧ rg.pwrlvl = c.rg.pwrlvl := by
  subst hc
  obtain ⟨rg, ends, charges, level⟩ := endBundle_met (w := w) (o := o) hr (by rw [hw]; exact hl) (by rw [hw]; exact hi) ps n
  rw [ends]
  rw [State.me, hw] at charges level ⊢
  exact ⟨rg, State.setCore_core_same w k _, fun j hj => State.setCore_core_ne w _ hj, rfl, charges, level⟩

/-! The bundle. -/

theorem interlocked_nop (c : Core) (x : Clu) : c.interlocked x .nop =
    c.en.forms.any fun f => f.clu == x && isChwait f.i && f.handler == (c.clu x).inh := by
  have apart : ∀ l : List RegRef, sharesReg l [] = false := fun l => by induction l <;> simp_all [sharesReg]
  have reads : readsOf .nop = [] := rfl
  have writes : writesOf .nop = [] := rfl
  have never : ∀ {α : Type} (l : List α), (l.any fun _ => false) = false := fun l => List.any_eq_false.mpr fun _ _ => Bool.false_ne_true
  simp [Core.interlocked, reads, writes, apart, never]

/-- A sync bundle of one NOP that nothing holds issues. -/
theorem execBundle_nop {v : State} {p : Part} {f : Fetched} {sync : Bool} (hp : p.i = .nop) (h : v.me.interlocked v.cur.clu p.i = false)
    (ho : v.overdraws v.cur.core 1 = false) : v.execBundle issueInstr f [p] sync = .next ((v.entering p f).endBundle v.me [p] sync 1) := by
  have runs : issueInstr p.i (v.entering p f) = .next (v.entering p f) := by rw [hp]; rfl
  have free : (v.entering p f).chargeOf p.i = 0 := by
    unfold State.chargeOf
    rw [hp]
    split <;> rfl
  rw [execBundle_free h, runs, free]
  dsimp only
  rw [if_neg (by simp [State.entering]), show max 1 0 = 1 from rfl, ho]
  rfl

/-! The clusters that have issued so far. -/

/-- The cluster of a sync bundle that has issued, its pc behind the bundle. -/
def Cluster.met (c : Cluster) (npc : Word) (now : Nat) : Cluster := Cluster.synced now (c.past npc)

/-- Of a core's sync bundles, each a NOP, those of some clusters have issued. -/
structure MetSoFar (s : State) (k : Fin 768) (npc : Clu → Word) (done : List Clu) (t : State) : Prop where
  device : sameDevice s t
  others : ∀ j, j ≠ k → t.core j = s.core j
  storage : (t.core k).st = (s.core k).st
  forms : (t.core k).en.forms = (s.core k).en.forms
  level : (t.core k).rg.pwrlvl = (s.core k).rg.pwrlvl
  drawn : (t.core k).rg.draw s.cadence.toNat = (s.core k).rg.draw s.cadence.toNat + done.length
  waiting : ∀ x, x ∉ done → (t.core k).clu x = (s.core k).clu x
  issued : ∀ x ∈ done, (t.core k).clu x = ((s.core k).clu x).met (npc x) s.cadence.toNat

theorem Core.meetClocks_frame (c : Core) : c.meetClocks = { c with en := { c.en with check := c.meetClocks.en.check } } := Core.onCheck_frame c _

theorem metSoFar_nil (s : State) (k : Fin 768) (npc : Clu → Word) : MetSoFar s k npc [] (s.onCore k Core.meetClocks) := by
  have core : (s.onCore k Core.meetClocks).core k = (s.core k).meetClocks := State.onCore_core_same s k _
  refine ⟨rfl, fun j hj => State.onCore_core_ne s _ hj, ?_, ?_, ?_, ?_, fun x _ => ?_, fun x hx => absurd hx List.not_mem_nil⟩ <;>
    rw [core, Core.meetClocks_frame] <;> rfl

/-- Only the position of the cluster is moved. -/
def movesPc (F : Cluster → Cluster) : Prop := ∀ c, ∃ a r n, F c = { c with pc := a, pcReg := r, lineRoom := n }

theorem movesPc.same {F : Cluster → Cluster} (h : movesPc F) (c : Cluster) : (F c).inh = c.inh ∧ (F c).lpc = c.lpc ∧ ∀ n, (F c).past n = c.past n := by
  obtain ⟨a, r, n, e⟩ := h c
  rw [e]
  exact ⟨rfl, rfl, fun _ => rfl⟩

theorem movesPc_found (a : Word) (n : Nat) : movesPc (Cluster.found a n) := fun _ => ⟨_, _, _, rfl⟩

theorem overdraws_of_same {s u : State} {k : Fin 768} {m n : Nat} (hs : sameDevice s u) (hl : (u.core k).rg.pwrlvl = (s.core k).rg.pwrlvl)
    (hd : (u.core k).rg.draw s.cadence.toNat + m ≤ (s.core k).rg.draw s.cadence.toNat + n) (ho : s.overdraws k n = false) :
    u.overdraws k m = false := by
  have now : u.cadence = s.cadence := by rw [hs]
  have level : u.allowance k = s.allowance k := by
    rw [State.allowance, hl, show u.defLevel k = s.defLevel k by rw [hs]; rfl]; rfl
  rw [State.overdraws, decide_eq_false_iff_not, Nat.not_lt] at ho ⊢
  rw [level, now]
  omega

/-! What a cluster's next bundle being known says of the device before it is fetched. -/

section
variable {s v : State} {k : Fin 768} {x : Clu} {p : Part} {f : Fetched} (h : NextIs s k x p v f)
include h

theorem nextIs_found : ∃ a n, v = (s.at_ k x).onCl (Cluster.found a n) := by
  obtain ⟨-, -, a, -, n, -, -, rfl⟩ := nextBundle_iff.mp h.2.1
  exact ⟨a, n, rfl⟩

theorem nextIs_core : ∃ a n, v.core k = (s.core k).onClu x (Cluster.found a n) := by
  obtain ⟨a, n, rfl⟩ := nextIs_found h
  exact ⟨a, n, State.onMe_me (s.at_ k x) _⟩

theorem nextIs_cl : ∃ a n, v.cl = ((s.core k).clu x).found a n := by
  obtain ⟨a, n, rfl⟩ := nextIs_found h
  exact ⟨a, n, State.onCl_cl (s.at_ k x) _⟩

theorem nextIs_inh : v.cl.inh = ((s.core k).clu x).inh := by
  obtain ⟨a, n, e⟩ := nextIs_cl h
  rw [e]; rfl

theorem nextIs_lpc (l : Fin 4) : vget ((s.core k).clu x).lpc l = 0 := by
  obtain ⟨a, n, e⟩ := nextIs_cl h
  obtain ⟨-, -, -, -, -, loops⟩ := h
  rw [← loops l, e]; rfl

theorem nextIs_overdraws (n : Nat) : v.overdraws k n = s.overdraws k n := by
  obtain ⟨a, m, e⟩ := nextIs_core h
  obtain ⟨b, n', rfl⟩ := nextIs_found h
  have level : ((s.at_ k x).onCl (Cluster.found b n')).allowance k = s.allowance k := by
    rw [State.allowance, e]; rfl
  rw [State.overdraws, level, e]; rfl

end

section
variable {s t v : State} {k : Fin 768} {x : Clu} {p : Part} {f : Fetched} {npc : Clu → Word} {done : List Clu}

/-- A cluster that can issue a NOP beside its peers' can do so after some of them have. -/
theorem MetSoFar.turn (h : MetSoFar s k npc done t) (hx : x ∉ done) (hd : done.length ≤ 3) (hn : NextIs s k x p v f) (hi : v.cl.inh = false)
    (hp : p.i = .nop) (hf : npc x = f.npc) (ho : v.overdraws k 4 = false) {F : Cluster → Cluster} (hF : movesPc F) :
    ∃ w, ((t.at_ k x).onCl F).execBundle issueInstr f [p] true = .next w ∧ w.report = .issued ∧ MetSoFar s k npc (x :: done) w := by
  have hl := nextIs_lpc hn
  rw [nextIs_inh hn] at hi
  rw [nextIs_overdraws hn] at ho
  obtain ⟨inh, lpc, past⟩ := hF.same ((s.core k).clu x)
  have me : ((t.at_ k x).onCl F).core k = (t.core k).onClu x F := State.onMe_me (t.at_ k x) _
  have cl : (((t.at_ k x).onCl F).core k).clu x = F ((s.core k).clu x) := by
    rw [me, Core.onClu_same, h.waiting x hx]
  have open_ : (((t.at_ k x).onCl F).core k).interlocked x p.i = false := by
    obtain ⟨a, n, found⟩ := nextIs_core hn
    obtain ⟨-, -, -, -, free, -⟩ := hn
    rw [found, hp, interlocked_nop, Core.onClu_same] at free
    rw [hp, interlocked_nop, cl, inh, me, Core.onClu_en, h.forms]
    exact free
  have pays : ((t.at_ k x).onCl F).overdraws k 1 = false := by
    refine overdraws_of_same (n := 4) (h.device.trans rfl) ?_ ?_ ho
    · rw [me, ← h.level]; rfl
    · have drawn := h.drawn
      rw [me, Core.onClu_rg]
      omega
  have enters : (((t.at_ k x).onCl F).entering p f).core k = (t.core k).onClu x fun c => (F c).past f.npc := by
    rw [← Core.onClu_onClu (t.core k) x F fun c => c.past f.npc, ← me]
    exact State.onMe_me ((t.at_ k x).onCl F) fun c => c.onClu x fun c => c.past f.npc
  obtain ⟨rg, core, rest, device, charges, level⟩ := endBundle_met_core (k := k) (x := x) (o := ((t.at_ k x).onCl F).core k) rfl rfl enters
    (fun l => by rw [cl, lpc]; exact hl l) (by rw [cl, inh]; exact hi) [p] 1
  rw [Core.onClu_onClu, show (((t.at_ k x).onCl F).entering p f).cadence = t.cadence from rfl, show t.cadence = s.cadence by rw [h.device]] at core
  refine ⟨_, execBundle_nop hp open_ pays, endBundle_report _ _ _ _ _, ?_⟩
  have drawn : (rg.charged s.cadence.toNat 1).draw s.cadence.toNat = (s.core k).rg.draw s.cadence.toNat + (done.length + 1) := by
    have before : rg.draw s.cadence.toNat = (t.core k).rg.draw s.cadence.toNat := by
      rw [CoreRegs.draw, charges]; rfl
    rw [draw_charged, before, h.drawn, Nat.add_assoc]
  have clus : ∀ y, ((((((t.at_ k x).onCl F).entering p f).endBundle (((t.at_ k x).onCl F).core k) [p] true 1)).core k).clu y =
      ((t.core k).onClu x fun c => ((F c).past f.npc).synced s.cadence.toNat).clu y := fun y => by rw [core]; rfl
  have pass : sameDevice t (((t.at_ k x).onCl F).entering p f) := rfl
  refine ⟨(h.device.trans pass).trans device, fun j hj => ?_, (congrArg Core.st core).trans h.storage, (congrArg (·.en.forms) core).trans h.forms,
    (congrArg (·.rg.pwrlvl) core).trans (level.trans h.level), (congrArg (·.rg.draw s.cadence.toNat) core).trans drawn, fun y hy => ?_, fun y hy => ?_⟩
  · exact (rest j hj).trans ((State.setCore_core_ne _ _ hj).trans ((State.setCore_core_ne _ _ hj).trans (h.others j hj)))
  · rw [List.mem_cons, not_or] at hy
    exact ((clus y).trans (Core.onClu_ne (t.core k) _ hy.1)).trans (h.waiting y hy.2)
  · by_cases own : y = x
    · rw [own, hf]
      refine (clus x).trans ((Core.onClu_same (t.core k) x _).trans ?_)
      rw [h.waiting x hx, past]
      rfl
    · exact ((clus y).trans (Core.onClu_ne (t.core k) _ own)).trans (h.issued y ((List.mem_cons.mp hy).resolve_left own))

end

/-! The rendezvous. -/

/-- The checker does not decide whether a cluster may issue. -/
theorem canIssue_of_check {s t : State} {k : Fin 768} {ck : Checker} (x : Clu) (hs : sameDevice s t)
    (h : t.core k = { s.core k with en := { (s.core k).en with check := ck } }) : t.canIssue k x = s.canIssue k x := by
  have stops : t.saveStops k = s.saveStops k := by
    rw [State.saveStops, h, show t.cadence = s.cadence by rw [hs]]; rfl
  have runs : t.running k = s.running k := by rw [hs]; rfl
  rw [State.canIssue, stops, runs, h]
  rfl

theorem syncNext_of_next {s v : State} {k : Fin 768} {x : Clu} {p : Part} {f : Fetched} (h : NextIs s k x p v f) :
    s.syncNext k x = (!((s.core k).clu x).inh && f.sync) := by
  obtain ⟨hi, hv, -⟩ := h
  have whole : s.syncNext k x = ((s.at_ k x).canIssue k x && !((s.core k).clu x).inh && match (s.at_ k x).nextBundle with
    | .ok (_, f) => f.sync
    | .error _ => false) := rfl
  rw [whole, hi, hv, Bool.true_and]

section
variable {s : State} {k : Fin 768} {p : Clu → Part} {v : Clu → State} {f : Clu → Fetched}
  (each : ∀ x, s.lives k x → NextIs s k x (p x) (v x) (f x) ∧ (f x).sync = true ∧ (v x).cl.inh = false ∧ (p x).i = .nop ∧
    (v x).overdraws k 4 = false)
include each

theorem meetsAlone_of_nop {x : Clu} (hx : s.lives k x) : s.meetsAlone k x := by
  obtain ⟨hn, hs, hi, hp, ho⟩ := each x hx
  have start := metSoFar_nil s k fun y => (f y).npc
  have core : (s.onCore k Core.meetClocks).core k = (s.core k).meetClocks := State.onCore_core_same s k _
  have device : sameDevice (s.at_ k x) ((s.onCore k Core.meetClocks).at_ k x) := rfl
  have can : ((s.onCore k Core.meetClocks).at_ k x).canIssue k x = true := by
    have same : ((s.onCore k Core.meetClocks).at_ k x).core k = { (s.at_ k x).core k with en := { (s.at_ k x).me.en with
        check := (s.core k).meetClocks.en.check } } := core.trans (Core.meetClocks_frame _)
    exact (canIssue_of_check x device same).trans hn.1
  have clu : ((s.onCore k Core.meetClocks).at_ k x).cl = (s.at_ k x).cl := start.waiting x List.not_mem_nil
  have task : ((s.onCore k Core.meetClocks).at_ k x).me.task = (s.at_ k x).me.task := by
    rw [show ((s.onCore k Core.meetClocks).at_ k x).me = _ from core, Core.meetClocks_frame]; rfl
  obtain ⟨a, n, -, fetched⟩ := nextBundle_alike device rfl (by rw [clu]; exact ⟨rfl, rfl, rfl, rfl, rfl, rfl, rfl, rfl, rfl⟩) task hn.2.1
  obtain ⟨w, hw, hr, -⟩ := start.turn List.not_mem_nil (Nat.zero_le 3) hn hi hp rfl ho (movesPc_found a n)
  refine ⟨w, ?_, .inl hr⟩
  have turn := atTurn_of_canIssue can
  have inh : (((s.onCore k Core.meetClocks).at_ k x).onCl (Cluster.found a n)).cl.inh = false := by
    rw [State.onCl_cl, clu]
    rw [nextIs_inh hn] at hi
    exact hi
  rw [tryBundle_free (turn ▸ can), turn, fetched]
  dsimp only
  rw [hn.2.2.1, inh, hs]
  exact hw

theorem nops_meet {l done : List Clu} {t : State} (ht : MetSoFar s k (fun x => (f x).npc) done t) (hl : ∀ x ∈ l, s.lives k x) (nodup : l.Nodup)
    (apart : ∀ x ∈ l, x ∉ done) (few : done.length + l.length ≤ 4) :
    ∃ u, l.foldlM (meetTurn k f fun x => [p x]) t = some u ∧ MetSoFar s k (fun x => (f x).npc) (l.reverse ++ done) u := by
  induction l generalizing done t with
  | nil => exact ⟨t, rfl, ht⟩
  | cons x xs ih =>
    obtain ⟨hn, -, hi, hp, ho⟩ := each x (hl x (List.mem_cons_self ..))
    obtain ⟨out, rest⟩ := List.nodup_cons.mp nodup
    rw [List.length_cons] at few
    obtain ⟨w, hw, hr, hm⟩ := ht.turn (apart x (List.mem_cons_self ..)) (by omega) hn hi hp rfl ho
      (F := fun c => { c with pc := (f x).addr, pcReg := false }) fun c => ⟨_, _, c.lineRoom, rfl⟩
    have turn : meetTurn k f (fun x => [p x]) t x = some w := by
      rw [meetTurn, hw]
      exact if_pos (.inl hr)
    obtain ⟨u, hu, done'⟩ := ih hm (fun y hy => hl y (List.mem_cons_of_mem _ hy)) rest
      (fun y hy => by
        rw [List.mem_cons, not_or]
        exact ⟨fun e => out (e ▸ hy), apart y (List.mem_cons_of_mem _ hy)⟩) (by rw [List.length_cons]; omega)
    refine ⟨u, ?_, by rw [List.reverse_cons, List.append_assoc]; exact done'⟩
    rw [List.foldlM_cons, turn]
    exact hu

/-- Sync bundles of one NOP each meet: every live cluster goes on behind its own. -/
theorem nops_rendezvous (some_ : ∃ x, s.lives k x) : ∃ t, exec (.syncRendezvous k) s = .next t ∧
    issuedPast s t k (s.lives k) (fun x => (f x).npc) ∧ (t.core k).st = (s.core k).st ∧
    ∀ x, s.lives k x → ((t.core k).clu x).syncs = ((s.core k).clu x).syncs + 1 ∧ ((t.core k).clu x).g = ((s.core k).clu x).g := by
  have few : (s.living k).length ≤ 4 := (List.length_filter_le _ _).trans le_rfl
  have meets : ∀ l : List Clu, l.Perm (s.living k) → ∃ u, l.foldlM (meetTurn k f fun x => [p x]) (s.onCore k Core.meetClocks) = some u ∧
      MetSoFar s k (fun x => (f x).npc) (l.reverse ++ []) u := fun l hl =>
    nops_meet each (metSoFar_nil s k _) (fun x hx => mem_living.mp (hl.subset hx)) (hl.nodup_iff.mpr (nodup_living s k))
      (fun _ _ => List.not_mem_nil) (by rw [List.length_nil, hl.length_eq]; omega)
  have ready : ∀ x, s.lives k x → s.syncNext k x = true := fun x hx => by
    obtain ⟨hn, hs, hi, -⟩ := each x hx
    rw [syncNext_of_next hn, ← nextIs_inh hn, hi, hs]; rfl
  obtain ⟨u, hu, -⟩ := meets _ (.refl _)
  obtain ⟨l, t, perm, fold, ran⟩ := rendezvous_meets (f := f) (ps := fun x => [p x])
    (fun x hx => ⟨⟨_, (each x hx).1.2.1⟩, (each x hx).1.2.2.1⟩) some_ ready
    (fun x hx => meetsAlone_of_nop each (mem_living.mp hx)) ⟨_, .refl _, by rw [hu]; rfl⟩
  obtain ⟨t', fold', met⟩ := meets l perm
  obtain rfl : t = t' := Option.some.inj (fold.symm.trans fold')
  have who : ∀ x, x ∈ l.reverse ++ [] ↔ s.lives k x := fun x => by
    rw [List.append_nil, List.mem_reverse, perm.mem_iff, mem_living]
  obtain ⟨device, others, storage, -, -, -, waiting, issued⟩ := met
  have live : ∀ x, s.lives k x → (t.core k).clu x = ((s.core k).clu x).met (f x).npc s.cadence.toNat := fun x hx => issued x ((who x).mpr hx)
  refine ⟨_, ran, ⟨sameMemory_of_ms (by rw [device]), ?_, ?_, ?_, ?_, ?_, ?_, ?_, ?_, others, rfl, fun y => ⟨fun hy => ?_, fun hy => ?_⟩⟩, storage, fun x hx => ?_⟩
  iterate 8 (rw [device])
  · exact waiting y fun h => hy ((who y).mp h)
  · have past : (t.core k).clu y = { (s.core k).clu y with
        g := ((t.core k).clu y).g, pc := (f y).npc, pcReg := false, lineRoom := ((t.core k).clu y).lineRoom, atSync := false
        syncs := ((t.core k).clu y).syncs, waitSince := ((t.core k).clu y).waitSince, claspWait := ((t.core k).clu y).claspWait
        claspKept := ((t.core k).clu y).claspKept, stampSeen := none, hold := ((t.core k).clu y).hold } := by
      rw [live y hy]; rfl
    exact past
  · show ((t.core k).clu x).syncs = _ ∧ ((t.core k).clu x).g = _
    rw [live x hx]
    exact ⟨rfl, rfl⟩

end

end Sys2Proof.Machine
end

section
/-! Stamped bundles: which instructions they hold, when one misses its schedule, and the fault it then raises (R174 to R176). -/

namespace Sys2Proof.Machine

/-! The instructions of a stamped bundle. -/

/-- The forms of the matrix cluster that may carry a stamp, with their second word's long fields. -/
inductive MatrixForm (l : Long) : Instr → Prop
  | tld (t : TReg) (g : Reg) : MatrixForm l (.tld l t g)
  | tst (t : TReg) (g : Reg) : MatrixForm l (.tst l t g)
  | tqld (t : TReg) : MatrixForm l (.tqld l t)
  | tzero (t : TReg) : MatrixForm l (.tzero l t)
  | ttrans (t u : TReg) : MatrixForm l (.ttrans l t u)
  | tcvt (t u : TReg) (rm : BitVec 2) : MatrixForm l (.tcvt l t u rm)
  | tmma (acc : BitVec 6) (t u : TReg) : MatrixForm l (.tmma l acc t u)
  | tmmas (acc : BitVec 6) (t u : TReg) (g : Reg) : MatrixForm l (.tmmas l acc t u g)
  | tdrain (g : Reg) (acc : BitVec 6) : MatrixForm l (.tdrain l g acc)
  | tdrainadd (g : Reg) (acc : BitVec 6) (k : BitVec 1) : MatrixForm l (.tdrainadd l g acc k)
  | hmrd (g : Reg) (acc : BitVec 6) : MatrixForm l (.hmrd l g acc)
  | hmclr (acc : BitVec 6) : MatrixForm l (.hmclr l acc)

theorem checked_ok {i j : Instr} (h : checked i = .ok j) : i = j := by
  unfold checked at h
  split at h
  · exact Except.ok.inj h
  · cases h

theorem ite_checked {c : Prop} [Decidable c] {i j : Instr} {e : Except DecodeError Instr} (h : (if c then checked i else e) = .ok j) :
    i = j ∨ e = .ok j := by
  split at h
  · exact .inl (checked_ok h)
  · exact .inr h

/-- A long form of the matrix cluster is decoded to one of them. -/
theorem matrixForm_of_decode {w0 w1 : Nat} {i : Instr} (hm : 0x36 ≤ majorOf w0) (hc : clusterOk .m w0 = true) (h : decode w0 w1 = .ok i) :
    MatrixForm (longOf w1) i := by
  have low : majorOf w0 < 64 := fld_lt ..
  have known := majorAssigned_of_decode h
  have own : majorOf w0 ≠ 0x36 ∧ majorOf w0 ≠ 0x38 := by
    constructor <;> intro e <;> rw [clusterOk, e] at hc <;> cases hc
  obtain hm | hm | hm | hm | hm | hm : majorOf w0 = 0x39 ∨ majorOf w0 = 0x3A ∨ majorOf w0 = 0x3B ∨ majorOf w0 = 0x3C ∨
      majorOf w0 = 0x3D ∨ majorOf w0 = 0x3E := by
    rw [majorAssigned] at known
    simp at known
    omega
  · rw [decode_at_39 hm] at h
    rcases ite_checked h with rfl | h
    · exact .tld _ _
    rcases ite_checked h with rfl | h
    · exact .tst _ _
    rcases ite_checked h with rfl | h
    · exact .tqld _
    cases h
  · rw [decode_at_3A hm] at h
    rcases ite_checked h with rfl | h
    · exact .tzero _
    rcases ite_checked h with rfl | h
    · exact .ttrans _ _
    rcases ite_checked h with rfl | h
    · exact .tcvt _ _ _
    cases h
  · rw [decode_at_3B hm] at h
    rcases ite_checked h with rfl | h
    · exact .tmma _ _ _
    cases h
  · rw [decode_at_3C hm] at h
    rcases ite_checked h with rfl | h
    · exact .tmmas _ _ _ _
    cases h
  · rw [decode_at_3D hm] at h
    rcases ite_checked h with rfl | h
    · exact .tdrain _ _
    rcases ite_checked h with rfl | h
    · exact .tdrainadd _ _ _
    cases h
  · rw [decode_at_3E hm] at h
    rcases ite_checked h with rfl | h
    · exact .hmrd _ _
    rcases ite_checked h with rfl | h
    · exact .hmclr _
    cases h

theorem decodeBundle_one {x : Clu} {f : Fetched} {p : Part} (h : decodeBundle x f = .ok [p]) : decodeChecked x (p.w0, p.w1) = .ok p.i := by
  cases hf : f.second with
  | none =>
    obtain ⟨ok, error⟩ := decodeBundle_single hf (x := x)
    cases hd : decodeChecked x f.first with
    | ok i => cases (ok i hd).symm.trans h; exact hd
    | error c => cases (error c hd).symm.trans h
  | some w =>
    unfold decodeBundle at h
    rw [hf] at h
    dsimp only at h
    split at h
    · cases h
    · dsimp only [bind, Except.bind] at h
      split at h
      · cases h
      · split at h
        · cases h
        · split at h
          · cases h
          · cases h

theorem decodeChecked_ok {x : Clu} {w : Nat × Nat} {i : Instr} (h : decodeChecked x w = .ok i) :
    clusterOk x w.1 = true ∧ decode w.1 w.2 = .ok i := by
  unfold decodeChecked at h
  split at h
  · cases h
  · split at h
    · cases h
    · next free =>
      split at h
      · cases h
      · next hd => cases h; exact ⟨by simpa using free, hd⟩

theorem matrixForm_of_next {s v : State} {k : Fin 768} {p : Part} {f : Fetched} (h : NextIs s k .m p v f) (hs : p.stamped = true) :
    MatrixForm (longOf p.w1) p.i := by
  obtain ⟨own, decoded⟩ := decodeChecked_ok (decodeBundle_one h.2.2.1)
  rw [Part.stamped, Bool.and_eq_true, decide_eq_true_iff] at hs
  exact matrixForm_of_decode (hs.1.trans (Nat.mod_le _ _)) own decoded

theorem stamped_iff (p : Part) : p.stamped = true ↔ 0x36 ≤ p.w0 / 2 ^ 26 % 64 ∧ (longOf p.w1).stamp ≠ 0 := by
  have major : majorOf p.w0 % 64 = p.w0 / 2 ^ 26 % 64 := Nat.mod_mod _ _
  rw [Part.stamped, Bool.and_eq_true, decide_eq_true_iff, decide_eq_true_iff, major]

/-! The bundle that is next. -/

/-- What holds the stamped bundle p of the matrix cluster makes it miss its schedule (R175). -/
def State.lacks (s : State) (k : Fin 768) (p : Part) : Prop :=
  (s.at_ k .m).setsReady (longOf p.w1) = false ∨
    ∃ t, p.i = .tqld (longOf p.w1) t ∧ (s.core k).st.qam.length < (vget (s.core k).st.tsh t).toNat % 2 ^ 6

/-- The target tick of the stamped bundle p of the matrix cluster. -/
def State.dueTick (s : State) (k : Fin 768) (p : Part) : Word := (s.core k).st.stampb + (longOf p.w1).stamp.setWidth 64

/-- The stamped bundle p of the matrix cluster misses its schedule (R175). -/
def State.misses (s : State) (k : Fin 768) (p : Part) : Prop :=
  if s.cadence = s.dueTick k p then s.lacks k p
  else s.dueTick k p < s.cadence ∧ ((s.core k).clu .m).stampSeen.getD (!((s.core k).clu .m).holdCovers (s.dueTick k p).toNat) = true

section
variable {s v : State} {k : Fin 768} {p : Part} {f : Fetched} (h : NextIs s k .m p v f)
include h

theorem stampedIssue_idle (hs : ¬ p.stamped = true) (uP uS : Upset) : Idles (.stampedIssue ⟨k, uP, uS⟩) s := by
  have none_ : ¬ (s.nextParts k .m).any Part.stamped = true := by
    rw [nextParts_of_next h, List.any_cons, List.any_nil, Bool.or_false]
    exact hs
  exact if_neg none_

theorem stampedNext_eq : s.stampedNext k = if p.stamped && ((s.core k).clu .m).pReg (longOf p.w1).guard then some p else none := by
  have guard : (s.asClu k .m).p (longOf p.w1).guard = ((s.core k).clu .m).pReg (longOf p.w1).guard := rfl
  rw [State.stampedNext, nextParts_of_next h]
  simp only [List.find?_cons, List.find?_nil, guard]
  cases p.stamped && ((s.core k).clu .m).pReg (longOf p.w1).guard <;> rfl

theorem short_iff (hs : p.stamped = true) : (match p.i with
      | .tqld _ r => decide ((s.asClu k .m).me.st.qam.length < shRows ((s.asClu k .m).tsh r))
      | _ => false) = true ↔ ∃ t, p.i = .tqld (longOf p.w1) t ∧ (s.core k).st.qam.length < (vget (s.core k).st.tsh t).toNat % 2 ^ 6 := by
  have rows : ∀ t, shRows ((s.asClu k .m).tsh t) = (vget (s.core k).st.tsh t).toNat % 2 ^ 6 := fun t => bits_low _ _
  have form := matrixForm_of_next h hs
  generalize p.i = i at form ⊢
  cases form with
  | tqld t =>
    rw [decide_eq_true_iff, rows]
    refine ⟨fun few => ⟨t, rfl, few⟩, ?_⟩
    rintro ⟨t', e, few⟩
    cases e
    exact few
  | _ => exact ⟨fun e => absurd e Bool.false_ne_true, fun ⟨_, e, _⟩ => by cases e⟩

theorem missReason_iff (hn : f.sync = false ∨ v.cl.inh = true) (hs : p.stamped = true) : s.missReason k p = true ↔ s.lacks k p := by
  have alone : s.syncNext k .m = false := by
    rw [syncNext_of_next h, ← nextIs_inh h]
    rcases hn with e | e <;> rw [e] <;> simp
  rw [State.missReason, alone, Bool.false_and, Bool.or_false, Bool.or_eq_true, Bool.not_eq_true']
  exact or_congr Iff.rfl (short_iff h hs)

theorem missing_iff (hn : f.sync = false ∨ v.cl.inh = true) (hs : p.stamped = true) : s.missing k p = true ↔ s.misses k p := by
  have tick : (s.asClu k .m).stampTick (longOf p.w1) = s.dueTick k p := rfl
  have late : (s.asClu k .m).missedStamp (longOf p.w1) = (decide (s.cadence ≠ s.dueTick k p) &&
    ((s.core k).clu .m).stampSeen.getD (!((s.core k).clu .m).holdCovers (s.dueTick k p).toNat)) := rfl
  rw [State.missing, State.misses, tick, late]
  split
  · exact missReason_iff h hn hs
  · next apart =>
    rw [Bool.and_eq_true, decide_eq_true_iff, Bool.and_eq_true, decide_eq_true_iff]
    exact and_congr_right fun _ => and_iff_right apart

theorem scheduleMiss_idle (hn : f.sync = false ∨ v.cl.inh = true)
    (hm : ¬ p.stamped = true ∨ ((s.core k).clu .m).pReg (longOf p.w1).guard = false ∨ ¬ s.misses k p) : Idles (.scheduleMiss k) s := by
  have run : exec (.scheduleMiss k) s = execScheduleMiss k s := rfl
  rw [Idles, run, execScheduleMiss, stampedNext_eq h]
  by_cases hs : p.stamped = true
  · cases hg : ((s.core k).clu .m).pReg (longOf p.w1).guard with
    | false => rw [Bool.and_false]; rfl
    | true =>
      have kept : s.missing k p = false := by
        rw [← Bool.not_eq_true, missing_iff h hn hs]
        rcases hm with e | e | e
        · exact absurd hs e
        · rw [hg] at e; cases e
        · exact e
      rw [hs, Bool.and_self, if_pos rfl]
      dsimp only
      rw [kept]
      rfl
  · rw [Bool.eq_false_iff.mpr hs]
    rfl

/-- A stamped bundle that misses its schedule: the fault, or under LATE the late issue. -/
theorem scheduleMiss_eq (hn : f.sync = false ∨ v.cl.inh = true) (hs : p.stamped = true)
    (hg : ((s.core k).clu .m).pReg (longOf p.w1).guard = true) (hm : s.misses k p) : exec (.scheduleMiss k) s =
      if bit (s.core k).st.stampc 0 then
        s.unlessStalled (((s.at_ k .m).onCl fun c => { c with stampSeen := some true }).runBundle issueInstr k .m)
      else v.refuseBundle 0x10 0 0 p.w0 p.w1 := by
  have run : exec (.scheduleMiss k) s = execScheduleMiss k s := rfl
  have due := (missing_iff h hn hs).mpr hm
  have fetched : (s.asClu k .m).nextBundle = .ok (v, f) := h.2.1
  rw [run, execScheduleMiss, stampedNext_eq h, hs, hg, Bool.and_self, if_pos rfl]
  dsimp only
  rw [due, fetched]
  rfl

end

end Sys2Proof.Machine
end

section
/-! What the start of a matrix command does not look at: the record of a stamp and the late count of each core, and the upsets that stand
beside the bundle in hand, and the report. -/

namespace Sys2Proof.Machine

/-! Marks of a core. -/

/-- The record of a stamp and the late count of a core. -/
structure Mark where
  seen : Option Bool
  late : Word

/-- A cluster with a record of its stamp. -/
def Cluster.saw (o : Option Bool) (u : Cluster) : Cluster := { u with stampSeen := o }

/-- A core with a record of its stamp and a late count. -/
def Core.marked (c : Core) (n : Mark) : Core := { c.onClu .m (Cluster.saw n.seen) with st := { c.st with stampc := n.late } }

/-- The marks a core has. -/
def Core.mark (c : Core) : Mark := { seen := (c.clu .m).stampSeen, late := c.st.stampc }

theorem Core.marked_mark (c : Core) : c.marked c.mark = c := by
  have same : c.onClu .m (Cluster.saw (c.clu .m).stampSeen) = c := by
    have own : (c.clu .m).saw (c.clu .m).stampSeen = c.clu .m := rfl
    rw [Core.onClu, own, Core.clu, vset_vget]
  rw [Core.marked, Core.mark, same]

/-- A cluster of a marked core differs in its record only. -/
theorem Core.clu_marked (c : Core) (n : Mark) (x : Clu) : ∃ o, (c.marked n).clu x = (c.clu x).saw o := by
  by_cases hx : x = .m
  · subst hx
    exact ⟨n.seen, Core.onClu_same c .m (Cluster.saw n.seen)⟩
  · exact ⟨(c.clu x).stampSeen, Core.onClu_ne c (Cluster.saw n.seen) hx⟩

/-- A change of a core that neither looks at its marks nor touches them. -/
def passesMarks (F : Core → Core) : Prop := ∀ c n, F (c.marked n) = (F c).marked n

/-- A change of a cluster that neither looks at its record of a stamp nor touches it. -/
def passesSeen (f : Cluster → Cluster) : Prop := ∀ u o, f (u.saw o) = (f u).saw o

theorem passesMarks.comp {F G : Core → Core} (hF : passesMarks F) (hG : passesMarks G) : passesMarks fun c => G (F c) := fun c n =>
  (congrArg G (hF c n)).trans (hG (F c) n)

theorem passesMarks_onClu (x : Clu) {f : Cluster → Cluster} (hf : passesSeen f) : passesMarks fun c => c.onClu x f := fun c n => by
  have swap : (c.onClu .m (Cluster.saw n.seen)).onClu x f = (c.onClu x f).onClu .m (Cluster.saw n.seen) := by
    by_cases hx : x = .m
    · subst hx
      rw [Core.onClu_onClu, Core.onClu_onClu]
      exact congrArg (c.onClu .m) (funext fun u => hf u n.seen)
    · have mine : (c.onClu .m (Cluster.saw n.seen)).clu x = c.clu x := Core.onClu_ne c _ hx
      have its : (c.onClu x f).clu .m = c.clu .m := Core.onClu_ne c _ (Ne.symm hx)
      rw [Core.onClu, mine, Core.onClu, Core.onClu, its, Core.onClu]
      simp only [vset]
      rw [Vector.set_comm]
      exact fun e => hx (cluCode_inj (Fin.ext e.symm))
  have marks : (c.marked n).onClu x f = { (c.onClu .m (Cluster.saw n.seen)).onClu x f with st := { c.st with stampc := n.late } } := rfl
  exact marks.trans (by rw [swap]; rfl)

theorem passesMarks_count (e : Nat) (x : Clu) (n : Nat) : passesMarks fun c => c.count e x n := fun c m => by
  have counts : ((c.marked m).count e x n).rg = (c.count e x n).rg := by
    have task : (c.marked m).task = c.task := rfl
    have rg : (c.marked m).rg = c.rg := rfl
    unfold Core.count
    rw [task, rg]
    cases c.task with
    | none => rfl
    | some t => dsimp only; split <;> rfl
  show (c.marked m).count e x n = (c.count e x n).marked m
  rw [Core.count_frame, counts, Core.count_frame c]
  rfl

theorem passesMarks_onCheck (f : Checker → Checker) : passesMarks fun c => c.onCheck f := fun c m => by
  show (c.marked m).onCheck f = (c.onCheck f).marked m
  have det : (c.marked m).det = c.det := rfl
  unfold Core.onCheck
  rw [det]
  split <;> rfl

/-! Marks of the device. -/

/-- The marks of every core and of the latched core, the upsets beside the bundle in hand, what the last step came to, and the executing
cluster. -/
structure Marks where
  core : Fin 768 → Mark
  old : Mark
  upsetP : Upset
  upsetS : Upset
  report : Report
  cur : Cur

/-- The marks a device has. -/
def State.marks (s : State) : Marks :=
  { core := fun j => (s.core j).mark, old := s.old.mark, upsetP := s.ir.upsetP, upsetS := s.ir.upsetS, report := s.report, cur := s.cur }

/-- The second device differs from the first in that it has these marks; both execute their cluster. -/
structure Marked (m : Marks) (s t : State) : Prop where
  device : t = { s with
    cores := t.cores, latch := s.latch.map fun c => c.marked m.old, ir := { s.ir with upsetP := m.upsetP, upsetS := m.upsetS }
    report := m.report }
  core : ∀ j, t.core j = (s.core j).marked (m.core j)
  here : s.cur = m.cur

theorem marked_marks (s : State) : Marked s.marks s s := by
  have latched : s.latch.map (fun c => c.marked s.old.mark) = s.latch := by
    cases h : s.latch with
    | none => rfl
    | some c => rw [show s.old = c by rw [State.old, h], Option.map_some, Core.marked_mark]
  exact ⟨by rw [State.marks, latched], fun j => (Core.marked_mark _).symm, rfl⟩

section
variable {m : Marks} {s t : State} (h : Marked m s t)
include h

theorem Marked.cur : t.cur = s.cur := by rw [h.device]
theorem Marked.ms : t.ms = s.ms := by rw [h.device]
theorem Marked.cadence : t.cadence = s.cadence := by rw [h.device]
theorem Marked.report : t.report = m.report := by rw [h.device]
theorem Marked.upsetP : t.ir.upsetP = m.upsetP := by rw [h.device]
theorem Marked.upsetS : t.ir.upsetS = m.upsetS := by rw [h.device]
theorem Marked.w0 : t.ir.w0 = s.ir.w0 := by rw [h.device]
theorem Marked.w1 : t.ir.w1 = s.ir.w1 := by rw [h.device]

theorem Marked.me : t.me = s.me.marked (m.core s.cur.core) := by rw [State.me, h.cur, h.core]; rfl

theorem Marked.old : ∃ n, t.old = s.old.marked n := by
  have latch : t.latch = s.latch.map fun c => c.marked m.old := by rw [h.device]
  unfold State.old
  rw [latch]
  cases s.latch with
  | none => exact ⟨_, h.me⟩
  | some c => exact ⟨_, rfl⟩

theorem Marked.setCore (j : Fin 768) {c d : Core} (hc : d = c.marked (m.core j)) : Marked m (s.setCore j c) (t.setCore j d) := by
  refine ⟨?_, fun i => ?_, h.here⟩
  · rw [h.device]; rfl
  · by_cases hi : i = j
    · subst hi
      rw [State.setCore_core_same, State.setCore_core_same, hc]
    · rw [State.setCore_core_ne _ _ hi, State.setCore_core_ne _ _ hi, h.core]

theorem Marked.onCore (j : Fin 768) {F : Core → Core} (hF : passesMarks F) : Marked m (s.onCore j F) (t.onCore j F) :=
  h.setCore j (by rw [h.core, hF])

theorem Marked.onMe {F : Core → Core} (hF : passesMarks F) : Marked m (s.onMe F) (t.onMe F) := by
  rw [State.onMe, State.onMe, h.cur]
  exact h.onCore _ hF

theorem Marked.onEn (f : Engines → Engines) : Marked m (s.onEn f) (t.onEn f) := h.onMe fun _ _ => rfl

theorem Marked.withMs (ms : MemSys) : Marked m { s with ms := ms } { t with ms := ms } := ⟨by rw [h.device], h.core, h.here⟩

end

end Sys2Proof.Machine
end

section
/-! Marks through the checks of a matrix command. -/

namespace Sys2Proof.Machine

/-! Values that do not depend on marks. -/

section
variable {m : Marks} {s t : State} (h : Marked m s t)
include h

theorem Marked.reach (slot : Nat) (a : Word) (w : Bool) : t.reach slot a w = s.reach slot a w := by rw [h.device]; rfl
theorem Marked.held (d : Fin 8) (p : Phys) : t.held d p = s.held d p := by rw [h.device]; rfl
theorem Marked.frameLost (p : Phys) : t.frameLost p = s.frameLost p := by rw [h.device]; rfl
theorem Marked.latticeFrame (p : Phys) : t.latticeFrame p = s.latticeFrame p := by rw [h.device]; rfl
theorem Marked.regionAt (ctx : BitVec 12) (a : Word) : t.regionAt ctx a = s.regionAt ctx a := by rw [h.device]; rfl
theorem Marked.dev (n : Nat) : t.dev n = s.dev n := by rw [h.device]; rfl

theorem Marked.oldSt : t.old.st.tsh = s.old.st.tsh ∧ t.old.st.fq = s.old.st.fq ∧ t.old.st.stampb = s.old.st.stampb ∧
    t.old.en.emulDone = s.old.en.emulDone := by
  obtain ⟨n, e⟩ := h.old
  rw [e]
  exact ⟨rfl, rfl, rfl, rfl⟩

theorem Marked.oldClu (x : Clu) : ∃ o, t.old.clu x = (s.old.clu x).saw o := by
  obtain ⟨n, e⟩ := h.old
  rw [e]
  exact Core.clu_marked _ n x

theorem Marked.g (r : Reg) : t.g r = s.g r := by
  obtain ⟨o, e⟩ := h.oldClu s.cur.clu
  rw [State.g, h.cur, e]; rfl

theorem Marked.p (r : Pred) : t.p r = s.p r := by
  obtain ⟨o, e⟩ := h.oldClu s.cur.clu
  rw [State.p, h.cur, e]; rfl

theorem Marked.slotFor : t.old.slotFor t.cur.clu = s.old.slotFor s.cur.clu := by
  obtain ⟨n, e⟩ := h.old
  obtain ⟨o, ec⟩ := Core.clu_marked s.old n s.cur.clu
  rw [e, h.cur, Core.slotFor, ec]; rfl

theorem Marked.pathShut (path : Nat) : t.pathShut path = s.pathShut path := by
  obtain ⟨o, e⟩ := h.oldClu s.cur.clu
  rw [State.pathShut, h.cur, e]; rfl

theorem Marked.tsh (r : TReg) : t.tsh r = s.tsh r := by rw [State.tsh, h.oldSt.1]; rfl
theorem Marked.nextFmt : t.nextFmt = s.nextFmt := by rw [State.nextFmt, h.oldSt.2.1]; rfl
theorem Marked.stampTick (l : Long) : t.stampTick l = s.stampTick l := by rw [State.stampTick, h.oldSt.2.2.1]; rfl

theorem Marked.setsReady (l : Long) : t.setsReady l = s.setsReady l := by rw [State.setsReady, h.me, h.cur]; rfl

theorem Marked.accInFoot (acc : BitVec 6) : t.accInFoot acc = s.accInFoot acc := by rw [State.accInFoot, h.me]; rfl

theorem Marked.moveForm (a : Word) (n : Nat) : t.moveForm a n = s.moveForm a n := by rw [State.moveForm, h.me]; rfl

theorem Marked.placed (c : MCmd) (w : Bool) : t.placed c w = s.placed c w := by
  simp only [State.placed, h.slotFor, h.reach]

theorem Marked.mkCmd (i : Instr) (fmt : Word32) (g a b : Word) : t.mkCmd i fmt g a b = s.mkCmd i fmt g a b := by
  obtain ⟨o, e⟩ := Core.clu_marked s.me (m.core s.cur.core) s.cur.clu
  have fence : t.cl.fence = s.cl.fence := by rw [State.cl, h.me, h.cur, e]; rfl
  rw [State.mkCmd, h.w0, h.w1, h.me, fence]; rfl

theorem Marked.chargeOf (i : Instr) : t.chargeOf i = s.chargeOf i := by
  obtain ⟨tsh, fq, -, done⟩ := h.oldSt
  have cycles : t.mmaCycles = s.mmaCycles := by rw [State.mmaCycles, fq]; rfl
  unfold State.chargeOf
  rw [h.cur, done, cycles, tsh]
  simp only [h.p, h.g]

end

/-! Results that differ in their marks only. -/

/-- Two results agree but for the marks of their states. -/
inductive MarkedRes (m : Marks) {α : Type} : Res α → Res α → Prop
  | ok {s t : State} (a : α) (h : Marked m s t) : MarkedRes m (.ok a s) (.ok a t)
  | wait : MarkedRes m .wait .wait
  | trap (c d : Nat) (a : Word) : MarkedRes m (.trap c d a) (.trap c d a)

theorem MarkedRes.bind {m : Marks} {α β : Type} {r r' : Res α} (h : MarkedRes m r r') {f g : α → State → Res β}
    (hf : ∀ a s t, Marked m s t → MarkedRes m (f a s) (g a t)) : MarkedRes m (r.bind f) (r'.bind g) := by
  cases h with
  | ok a h => exact hf a _ _ h
  | wait => exact .wait
  | trap c d a => exact .trap c d a

/-! The checks. -/

/-- The clock under which the executing cluster accesses bytes of a buffer. -/
def State.accessClock (s : State) (b : Fin 4) (off n : Nat) : Clock :=
  ((s.me.en.check.clock s.agent).join (s.me.en.check.stallClock s.agent)).join (s.me.wmClock b off n s.me.en.issued)

/-- The record of an access of a matrix command to buffer bytes. -/
def State.noteRace (s : State) (b : Fin 4) (off n : Nat) (write : Bool) (c : Core) : Core :=
  if c.det then ((c.count 0x10 s.cur.clu 1).onCheck fun x => (x.acquire s.agent (s.accessClock b off n)).unstall s.agent).noteAccess
    (s.accessClock b off n) s.agent b off n write (s.me.heldBy b off n s.me.en.issued) (some (s.me.cmdAgent s.me.en.issued))
  else c

theorem passesMarks_noteRace (s : State) (b : Fin 4) (off n : Nat) (write : Bool) : passesMarks (s.noteRace b off n write) := fun c k => by
  have det : (c.marked k).det = c.det := rfl
  unfold State.noteRace
  rw [det]
  split
  · exact (((passesMarks_count 0x10 s.cur.clu 1).comp (passesMarks_onCheck _)).comp (passesMarks_onCheck _)) c k
  · rfl

section
variable {m : Marks} {s t : State} (h : Marked m s t)
include h

theorem Marked.latTarget (a : Word) : MarkedRes m (s.latTarget a) (t.latTarget a) := by
  have task : t.me.task = s.me.task := by rw [h.me]; rfl
  unfold State.latTarget
  rw [task]
  cases s.me.task with
  | none => exact .trap _ _ _
  | some k =>
    simp only [h.regionAt]
    cases (if genForm a then s.regionAt k.ctx a else none) with
    | none => exact .trap _ _ _
    | some r => exact .ok _ h

theorem Marked.moveReach (kind : MoveKind) (lines : List Word) : MarkedRes m (s.moveReach kind lines) (t.moveReach kind lines) := by
  induction lines with
  | nil => exact .ok _ h
  | cons a rest ih =>
    unfold State.moveReach
    rw [h.slotFor, h.reach]
    split
    · exact ih
    · split
      · exact .trap _ _ _
      · split
        · exact .trap _ _ _
        · exact ih

theorem Marked.raceCheck (b : Fin 4) (off n : Nat) (write : Bool) (addr : Word) :
    MarkedRes m (s.raceCheck b off n write addr) (t.raceCheck b off n write addr) := by
  have same : t.raceCheck b off n write addr = if s.me.races (s.accessClock b off n) s.agent b off n write then .trap 0x11 0 addr
      else .ok () (t.onMe (s.noteRace b off n write)) := by
    unfold State.raceCheck
    rw [h.me, h.cur]; rfl
  have own : s.raceCheck b off n write addr = if s.me.races (s.accessClock b off n) s.agent b off n write then .trap 0x11 0 addr
      else .ok () (s.onMe (s.noteRace b off n write)) := rfl
  rw [own, same]
  split
  · exact .trap _ _ _
  · exact .ok _ (h.onMe (passesMarks_noteRace s b off n write))

end

theorem Marked.raceLines {m : Marks} (write : Bool) (n : Nat) (lines : List Word) : ∀ {s t : State}, Marked m s t →
    MarkedRes m (s.raceLines write n lines) (t.raceLines write n lines) := by
  induction lines with
  | nil => exact fun h => .ok _ h
  | cons a rest ih =>
    intro s t h
    unfold State.raceLines
    split
    · exact (h.raceCheck ..).bind fun _ _ _ h => ih h
    · exact ih h

section
variable {m : Marks} {s t : State} (h : Marked m s t)
include h

theorem Marked.moveCheck (kind : MoveKind) (a : Word) (align n : Nat) (lines : List Word) :
    MarkedRes m (s.moveCheck kind a align n lines) (t.moveCheck kind a align n lines) := by
  have form : (fun x => !t.moveForm x n) = fun x => !s.moveForm x n := funext fun x => by rw [h.moveForm]
  unfold State.moveCheck
  dsimp only
  rw [h.pathShut, form]
  split
  · exact .trap _ _ _
  split
  · exact .trap _ _ _
  split
  · exact .trap _ _ _
  split
  · exact .trap _ _ _
  split
  · have target := h.latTarget a
    generalize s.latTarget a = r, t.latTarget a = r' at target ⊢
    cases target with
    | ok => exact .trap _ _ _
    | wait => exact .trap _ _ _
    | trap => exact .trap _ _ _
  · exact .trap _ _ _
  · exact (h.moveReach kind lines).bind fun _ _ _ h => h.raceLines ..

theorem Marked.scaleCheck (w : Word32) (c0 : Word) : MarkedRes m (s.scaleCheck w c0) (t.scaleCheck w c0) := by
  have foot : ∀ off n, t.me.inFoot 3 off n = s.me.inFoot 3 off n := fun off n => by rw [h.me]; rfl
  unfold State.scaleCheck
  simp only [foot]
  split
  · exact .trap _ _ _
  · exact h.raceCheck ..

theorem Marked.mmaCheck (w : Word32) (scaled : Bool) (a b : Word) (acc : BitVec 6) {rest : State → Res Unit}
    (hr : ∀ {s t : State}, Marked m s t → MarkedRes m (rest s) (rest t)) :
    MarkedRes m (s.mmaCheck w scaled a b acc rest) (t.mmaCheck w scaled a b acc rest) := by
  unfold State.mmaCheck
  rw [h.accInFoot]
  split
  · exact .ok _ h
  split
  · exact .trap _ _ _
  split
  · exact .trap _ _ _
  · exact (hr h).bind fun _ _ _ h => (h.raceCheck ..).bind fun _ _ _ h => .ok _ h

theorem Marked.drainCheck (w : Word32) (kind : MoveKind) (acc : BitVec 6) (a : Word) (align n : Nat) :
    MarkedRes m (s.drainCheck w kind acc a align n) (t.drainCheck w kind acc a align n) := by
  unfold State.drainCheck
  rw [h.accInFoot]
  split
  · exact .trap _ _ _
  · exact (h.moveCheck ..).bind fun _ _ _ h => (h.raceCheck ..).bind fun _ _ _ h => .ok _ h

end

end Sys2Proof.Machine
end

section
/-! Marks through the start of a matrix command. -/

namespace Sys2Proof.Machine

/-! Changes of a core that pass its marks. -/

theorem passesMarks_terminate (cause : Word) (corrupt killed : Bool) : passesMarks fun c => c.terminate cause corrupt killed := fun c n => by
  show (c.marked n).terminate cause corrupt killed = (c.terminate cause corrupt killed).marked n
  have term : (c.marked n).term = c.term := rfl
  unfold Core.terminate
  rw [term]
  cases c.term <;> rfl

theorem passesMarks_shot (slot scope tid first count : Nat) : passesMarks fun c => c.shot slot scope tid first count := fun _ _ => rfl

theorem passesMarks_l1Update (line : Nat) (mask : Word) (data : Line) : passesMarks fun c => c.l1Update line mask data := fun _ _ => rfl

theorem passesMarks_addRun (r : MRun) : passesMarks fun c => c.addRun r := fun _ _ => rfl

theorem passesMarks_takeDraws (n : Nat) : passesMarks fun c => c.takeDraws n := passesMarks_onClu .m fun _ _ => rfl

theorem passesMarks_passMarks (c : MCmd) : passesMarks fun k => k.passMarks c := fun k n => by
  have agent : (k.marked n).cluAgent .m = k.cluAgent .m := rfl
  show (k.marked n).passMarks c = (k.passMarks c).marked n
  unfold Core.passMarks
  rw [agent]
  exact passesMarks_onCheck _ k n

/-- A change of a core's storage that neither looks at the late count nor touches it. -/
def passesLate (f : Storage → Storage) : Prop := ∀ t z, f { t with stampc := z } = { f t with stampc := z }

theorem passesMarks_onSt {f : Storage → Storage} (hf : passesLate f) : passesMarks fun c => { c with st := f c.st } := fun c n => by
  show ({ c.marked n with st := f { c.st with stampc := n.late } } : Core) = _
  rw [hf]; rfl

theorem passesLate_foldl {α : Type} {f : Storage → α → Storage} (hf : ∀ a, passesLate (f · a)) (l : List α) : passesLate fun t => l.foldl f t :=
  fun _ z => List.foldl_hom (fun t : Storage => { t with stampc := z }) fun t a => hf a t z

theorem passesLate_popTokens (x : Clu) (w : BitVec 3) : passesLate fun t => t.popTokens x w := passesLate_foldl (fun _ _ _ => rfl) _

theorem passesLate_reserve (x : Clu) (w : BitVec 3) : passesLate fun t => t.reserve x w := passesLate_foldl (fun _ _ _ => rfl) _

theorem passesLate_resetHall (off n : Nat) : passesLate fun t => t.resetHall off n :=
  passesLate_foldl (fun a t z => by dsimp only; split <;> rfl) _

theorem passesLate_putBuf (b : Fin 4) (off : Nat) (bs : List Byte) : passesLate fun t => t.putBuf b off bs := fun t z => by
  show ({ t with stampc := z } : Storage).putBuf b off bs = { t.putBuf b off bs with stampc := z }
  have buf : ({ t with stampc := z } : Storage).buf b = t.buf b := rfl
  unfold Storage.putBuf Storage.setBuf
  rw [buf]
  split
  · rfl
  split
  · rfl
  split <;> rfl

theorem passesMarks_popTokens (agent : Nat) (x : Clu) (w : BitVec 3) : passesMarks fun k => k.popTokens agent x w :=
  (passesMarks_onSt (passesLate_popTokens x w)).comp (passesMarks_onCheck _)

theorem passesMarks_putBytes (b : Fin 4) (off x n : Nat) : passesMarks fun k =>
    { k with st := if b = 2 then (k.st.putBuf b off (leBytes x n)).resetHall off n else k.st.putBuf b off (leBytes x n) } := by
  by_cases hb : b = 2
  · simp only [if_pos hb]
    exact (passesMarks_onSt (passesLate_putBuf b off (leBytes x n))).comp (passesMarks_onSt (passesLate_resetHall off n))
  · simp only [if_neg hb]
    exact passesMarks_onSt (passesLate_putBuf b off (leBytes x n))

/-! Sets, queue and line accesses. -/

section
variable {m : Marks} {s t : State} (h : Marked m s t)
include h

theorem Marked.agent : t.agent = s.agent := by rw [State.agent, h.me, h.cur]; rfl

theorem Marked.takeSets (l : Long) : Marked m (s.takeSets l) (t.takeSets l) := by
  have popped : Marked m (s.popWait l) (t.popWait l) := by
    unfold State.popWait
    rw [h.agent, h.cur]
    exact h.onMe (passesMarks_popTokens _ _ _)
  unfold State.takeSets State.reserveSets
  rw [popped.cur]
  exact popped.onMe (passesMarks_onSt (passesLate_reserve _ l.post))

theorem Marked.popFmt (pop : Bool) : Marked m (s.popFmt pop) (t.popFmt pop) := by
  unfold State.popFmt
  split
  · exact h.onMe fun _ _ => rfl
  · exact h

theorem Marked.enqueue (pop : Bool) (c : MCmd) : Marked m (s.enqueue pop c) (t.enqueue pop c) := (h.popFmt pop).onEn _

theorem Marked.countHome (p : Phys) (cached : Bool) (mask : Word) : Marked m (s.countHome p cached mask) (t.countHome p cached mask) := by
  unfold State.countHome
  rw [h.cur, h.ms]
  refine h.onMe ?_
  cases cached && decide (dieOf s.cur.core ≠ p.home) && s.ms.serves (dieOf s.cur.core) p.line mask with
  | false => exact passesMarks_count _ _ _
  | true => exact (passesMarks_count _ _ _).comp (passesMarks_count _ _ _)

theorem Marked.shootdown (slot scope tid first count : Nat) :
    Marked m (s.shootdown slot scope tid first count) (t.shootdown slot scope tid first count) := by
  have core : ∀ (u : State) (j : Fin 768), (u.shootdown slot scope tid first count).core j = (u.core j).shot slot scope tid first count :=
    fun u j => vmap_get _ _ j
  refine ⟨?_, fun j => ?_, h.here⟩
  · unfold State.shootdown
    rw [h.ms, h.device]
  · rw [core, core, h.core]
    exact passesMarks_shot slot scope tid first count _ _

theorem Marked.revived (p : Phys) : Marked m (s.revived p) (t.revived p) := by
  unfold State.revived
  rw [h.ms]
  split
  · exact (h.withMs _).shootdown ..
  · exact h

theorem Marked.lineLoad (p : Phys) (path : Nat) (mask : Word) : MarkedRes m (s.lineLoad p path mask) (t.lineLoad p path mask) := by
  have counted := h.countHome p (decide (path ≠ 3)) mask
  have die : dieOf (t.countHome p (decide (path ≠ 3)) mask).cur.core = dieOf (s.countHome p (decide (path ≠ 3)) mask).cur.core := by
    rw [counted.cur]
  unfold State.lineLoad
  dsimp only
  rw [h.cur, h.held, h.ms, die, counted.ms]
  split
  · exact .ok _ h
  split
  · exact .wait
  by_cases uncached : path = 3
  · rw [if_pos uncached, if_pos uncached, if_pos uncached]
    split
    · exact .trap _ _ _
    · exact .ok _ (counted.withMs _)
  · rw [if_neg uncached, if_neg uncached, if_neg uncached]
    split
    · exact .trap _ _ _
    · exact .ok _ (counted.withMs _)

theorem Marked.lineStore (p : Phys) (path : Nat) (mask : Word) (data : Line) :
    MarkedRes m (s.lineStore p path mask data) (t.lineStore p path mask data) := by
  unfold State.lineStore
  rw [h.cur, h.held]
  split
  · exact .wait
  have updated := ((h.revived p).countHome p (decide (path ≠ 3)) 0).onMe (passesMarks_l1Update p.line mask data)
  have die := congrArg (fun c : Cur => dieOf c.core) updated.cur
  dsimp only at die ⊢
  rw [die, updated.ms]
  exact .ok _ (updated.withMs _)

end

end Sys2Proof.Machine
end

section
/-! Marks through a matrix command that starts. -/

namespace Sys2Proof.Machine

/-! Lines and rows. -/

section
variable {m : Marks} {s t : State} (h : Marked m s t)
include h

theorem Marked.fresh (p : Phys) : t.fresh p = s.fresh p := by rw [State.fresh, h.ms]; rfl

theorem Marked.putLineBytes (q : Spot) (n x : Nat) : Marked m (s.putLineBytes q n x) (t.putLineBytes q n x) := by
  unfold State.putLineBytes
  cases q.place with
  | none => exact h.onMe (passesMarks_putBytes _ _ _ _)
  | some p =>
    dsimp only
    rw [h.frameLost, h.latticeFrame, h.fresh]
    split
    · exact h
    · have stored := h.lineStore (s.fresh p) (bits q.addr 60 4) (rangeMask p.off n) (placeInLine (x % 256 ^ n) p.off)
      generalize s.lineStore (s.fresh p) (bits q.addr 60 4) (rangeMask p.off n) (placeInLine (x % 256 ^ n) p.off) = r,
        t.lineStore (s.fresh p) (bits q.addr 60 4) (rangeMask p.off n) (placeInLine (x % 256 ^ n) p.off) = r' at stored ⊢
      cases stored with
      | ok _ h => exact h
      | wait => exact h
      | trap => exact h

/-- Two results that may be missing agree but for the marks of their states. -/
inductive MarkedOpt (m : Marks) {α : Type} : Option (α × State) → Option (α × State) → Prop
  | none : MarkedOpt m none none
  | some {s t : State} (a : α) (h : Marked m s t) : MarkedOpt m (some (a, s)) (some (a, t))

theorem Marked.getLineBytes (q : Spot) (n : Nat) : MarkedOpt m (s.getLineBytes q n) (t.getLineBytes q n) := by
  have poisoned : ∀ b off n, t.me.st.poisoned b off n = s.me.st.poisoned b off n := fun b off n => by rw [h.me]; rfl
  have buf : ∀ b, t.me.st.buf b = s.me.st.buf b := fun b => by rw [h.me]; rfl
  unfold State.getLineBytes
  cases q.place with
  | none =>
    dsimp only
    rw [poisoned, buf]
    split
    · exact .none
    · exact .some _ h
  | some p =>
    dsimp only
    rw [h.frameLost, h.fresh]
    split
    · exact .none
    · have loaded := h.lineLoad (s.fresh p) (bits q.addr 60 4) (rangeMask p.off n)
      generalize s.lineLoad (s.fresh p) (bits q.addr 60 4) (rangeMask p.off n) = r,
        t.lineLoad (s.fresh p) (bits q.addr 60 4) (rangeMask p.off n) = r' at loaded ⊢
      cases loaded with
      | ok l h => exact .some _ h
      | wait => exact .none
      | trap => exact .none

end

theorem Marked.loadRows {m : Marks} (n : Nat) (spots : List Spot) : ∀ {s t : State}, Marked m s t → ∀ (x : Memory) (i : Nat),
    MarkedOpt m (s.loadRows n x i spots) (t.loadRows n x i spots) := by
  induction spots with
  | nil => exact fun h x i => .some x h
  | cons q rest ih =>
    intro s t h x i
    have got := h.getLineBytes q n
    unfold State.loadRows
    generalize s.getLineBytes q n = r, t.getLineBytes q n = r' at got ⊢
    cases got with
    | none => exact .none
    | some b h => exact ih h _ _

theorem Marked.storeRows {m : Marks} (n : Nat) (x : Memory) (spots : List Spot) : ∀ {s t : State}, Marked m s t → ∀ i : Nat,
    Marked m (s.storeRows n x i spots) (t.storeRows n x i spots) := by
  induction spots with
  | nil => exact fun h _ => h
  | cons q rest ih => exact fun h i => ih (h.putLineBytes q n _) _

/-! The start. -/

/-- A run recorded that is read from a core, past its marks. -/
theorem passesMarks_record {F : Core → Core} (hF : passesMarks F) {r : Core → MRun} (hr : ∀ c n, r (c.marked n) = r c) :
    passesMarks fun c => (F c).addRun (r c) := fun c n => by
  show (F (c.marked n)).addRun (r (c.marked n)) = ((F c).addRun (r c)).marked n
  rw [hF, hr]; rfl

theorem passesMarks_draw {F : Core → Core} (hF : passesMarks F) {r : Core → MRun} (hr : ∀ c n, r (c.marked n) = r c) (n : Nat) :
    passesMarks fun c => ((F c).takeDraws n).addRun (r c) := passesMarks_record (hF.comp (passesMarks_takeDraws n)) hr

theorem passesMarks_takeRows (ta : TReg) (x : Memory) (n : Nat) (f : Checker → Checker) (r : MRun) : passesMarks fun c =>
    (({ c with st := { c.st.setTile ta x with qam := c.st.qam.drop n } } : Core).onCheck f).addRun r :=
  passesMarks_record (passesMarks.comp (F := fun c => { c with st := { c.st.setTile ta x with qam := c.st.qam.drop n } }) (fun _ _ => rfl)
    (passesMarks_onCheck f)) fun _ _ => rfl

/-- The trap of a matrix command whose data are lost. -/
def lostTrap : Trap := { clu := .m, cause := 0x21, detail := 0, async := true, addr := 0, info := 0 }

section
variable {m : Marks} {s t : State} (h : Marked m s t)
include h

theorem Marked.lost : Marked m (s.machineCheck s.cur.core .m 0x21 0) (t.machineCheck t.cur.core .m 0x21 0) := by
  have ends : ∀ u : State, u.machineCheck u.cur.core .m 0x21 0 = u.onMe fun c =>
      (c.onClu .m fun d => { d.record lostTrap (u.me.clu .m).pc with halted := true }).terminate (causeWord lostTrap) false false := fun u => by
    have imprecise : ¬ ((u.me.clu .m).inh && (u.me.clu .m).priv && decide (0x21 < 0x20)) = true := by simp
    exact if_neg imprecise
  have pc : (t.me.clu .m).pc = (s.me.clu .m).pc := by
    obtain ⟨o, e⟩ := Core.clu_marked s.me (m.core s.cur.core) .m
    rw [h.me, e]; rfl
  rw [ends, ends, pc]
  exact h.onMe ((passesMarks_onClu .m fun _ _ => rfl).comp (passesMarks_terminate _ _ _))

theorem Marked.canStart (k : Fin 768) (c : MCmd) : t.canStart k c = s.canStart k c := by
  have ready : ∀ p, t.lineReady p = s.lineReady p := fun p => by
    have held : (fun q => !t.held (dieOf t.cur.core) q) = fun q => !s.held (dieOf s.cur.core) q := funext fun q => by rw [h.cur, h.held]
    rw [State.lineReady, held]; rfl
  have dest : t.heldDest k = s.heldDest k := by rw [State.heldDest, h.core]; rfl
  have reads : t.heldReads k = s.heldReads k := by rw [State.heldReads, h.core]; rfl
  unfold State.canStart
  rw [dest, reads, h.core]
  simp only [ready]
  rfl

theorem Marked.startCmd (c : MCmd) (p q : Upset) : Marked m (s.startCmd c p q) (t.startCmd c p q) := by
  have started : Marked m (s.onMe fun k => (k.count 7 .m 1).passMarks c) (t.onMe fun k => (k.count 7 .m 1).passMarks c) :=
    h.onMe ((passesMarks_count _ _ _).comp (passesMarks_passMarks c))
  have poisoned : t.me.st.cmdPoisoned c = s.me.st.cmdPoisoned c := by
    rw [h.me]
    unfold Storage.cmdPoisoned
    rfl
  have tiles : t.me.st.tiles = s.me.st.tiles := by rw [h.me]; rfl
  have hall : t.me.st.hall = s.me.st.hall := by rw [h.me]; rfl
  have qam : t.me.st.qam = s.me.st.qam := by rw [h.me]; rfl
  have draws : (t.me.clu .m).srkey = (s.me.clu .m).srkey ∧ (t.me.clu .m).srctr = (s.me.clu .m).srctr := by
    obtain ⟨o, e⟩ := Core.clu_marked s.me (m.core s.cur.core) .m
    rw [h.me, e]; exact ⟨rfl, rfl⟩
  have agent : (t.onMe fun k => (k.count 7 .m 1).passMarks c).me.cluAgent .m = (s.onMe fun k => (k.count 7 .m 1).passMarks c).me.cluAgent .m := by
    rw [started.me]; rfl
  have lost := started.lost.onMe (passesMarks_addRun c.done)
  unfold State.startCmd
  dsimp only
  rw [poisoned, tiles, hall, qam, draws.1, draws.2]
  generalize (s.onMe fun k => (k.count 7 .m 1).passMarks c) = u, (t.onMe fun k => (k.count 7 .m 1).passMarks c) = u' at started agent lost ⊢
  split
  · exact lost
  split
  · have rows := started.loadRows (shBytes c.shA) c.spots Memory.empty 0
    generalize u.loadRows (shBytes c.shA) Memory.empty 0 c.spots = r, u'.loadRows (shBytes c.shA) Memory.empty 0 c.spots = r' at rows ⊢
    cases rows with
    | none => exact lost
    | some x h => exact h.onMe fun _ _ => rfl
  · exact (started.storeRows ..).onMe (passesMarks_addRun _)
  · rw [agent]
    exact started.onMe (passesMarks_takeRows _ _ _ _ _)
  · exact started.onMe fun _ _ => rfl
  · exact started.onMe fun _ _ => rfl
  · exact started.onMe (passesMarks_draw (fun _ _ => rfl) (fun _ _ => rfl) _)
  · exact started.onMe fun _ _ => rfl
  · exact started.onMe fun _ _ => rfl
  · exact started.onMe (passesMarks_draw (fun _ _ => rfl) (fun _ _ => rfl) _)
  · exact started.onMe (passesMarks_draw (fun _ _ => rfl) (fun _ _ => rfl) _)
  · exact started.onMe ((passesMarks_onClu .m fun _ _ => rfl).comp (passesMarks_addRun _))
  · exact started.onMe fun _ _ => rfl
  · exact started

end

end Sys2Proof.Machine
end

section
/-! The forms of the matrix cluster: how each issues, whatever the marks (R155). -/

namespace Sys2Proof.Machine

theorem Marked.startHead {m : Marks} {s t : State} (h : Marked m s t) (p q : Upset) :
    Option.Rel (Marked m) (s.startHead p q) (t.startHead p q) := by
  have queue : t.me.en.mq = s.me.en.mq := by rw [h.me]; rfl
  unfold State.startHead
  rw [queue]
  cases s.me.en.mq with
  | nil => exact .none
  | cons c rest =>
    dsimp only
    rw [h.cur, h.canStart]
    split
    · exact .some ((h.onEn _).startCmd c p q)
    · exact .none

/-- The command and the checks of a matrix form, in the state it finds; neither depends on marks. -/
structure MatrixIssue (l : Long) (i : Instr) (pop : Bool) (cmd : State → MCmd) (check : State → State → Res WordClass) : Prop where
  run : ∀ s, exec i s = s.issueMatrix l pop (cmd s) (check s)
  instr : ∀ s, (cmd s).i = i
  cmd : ∀ {m s t}, Marked m s t → cmd t = cmd s
  check : ∀ {m s t u v}, Marked m s t → Marked m u v → MarkedRes m (check s u) (check t v)

section
variable {l : Long} {i : Instr} {pop : Bool} {cmd : State → MCmd} {check : State → State → Res WordClass}

/-- Where a form starts its command, it starts it with other marks too, and the marks pass through. -/
theorem MatrixIssue.starts (form : MatrixIssue l i pop cmd check) {m : Marks} {e d t u : State} (h : Marked m e d) {p q : Upset}
    (checked : check e (e.takeSets l) = .ok .hard t)
    (start : (t.enqueue pop (t.placed (cmd e) (cmd e).writes)).startHead p q = some u) : ∃ t' u', check d (d.takeSets l) = .ok .hard t' ∧
      (t'.enqueue pop (t'.placed (cmd d) (cmd d).writes)).startHead p q = some u' ∧ Marked m u u' := by
  have checks := form.check h (h.takeSets l)
  rw [checked] at checks
  generalize check d (d.takeSets l) = r at checks ⊢
  cases checks with
  | @ok _ t' _ ht =>
    have begun := (ht.enqueue pop (t.placed (cmd e) (cmd e).writes)).startHead p q
    rw [start] at begun
    refine ⟨t', ?_⟩
    rw [form.cmd h, ht.placed]
    generalize (t'.enqueue pop (t.placed (cmd e) (cmd e).writes)).startHead p q = r at begun ⊢
    cases begun with
    | some hu => exact ⟨_, rfl, rfl, hu⟩

theorem MatrixIssue.starts_own (form : MatrixIssue l i pop cmd check) {e t u : State} {p q : Upset}
    (checked : check e (e.takeSets l) = .ok .hard t)
    (start : (t.enqueue pop (t.placed (cmd e) (cmd e).writes)).startHead p q = some u) : Marked e.marks u u := by
  obtain ⟨t', u', checked', start', h⟩ := form.starts (marked_marks e) checked start
  cases checked.symm.trans checked'
  cases start.symm.trans start'
  exact h

end

theorem MarkedRes.hard {m : Marks} {r r' : Res Unit} (h : MarkedRes m r r') : MarkedRes m r.hard r'.hard := h.bind fun _ _ _ h => .ok _ h

theorem MatrixForm.issues {l : Long} {i : Instr} (h : MatrixForm l i) : ∃ pop cmd check, MatrixIssue l i pop cmd check := by
  cases h with
  | tld ta g =>
    refine ⟨false, fun s => s.mkCmd (.tld l ta g) 0 (s.g g) (s.tsh ta) 0,
      fun s u => if shType (s.tsh ta) = 0 then .trap 0xF 0 0
      else (u.moveCheck .load (u.g g) 64 (shBytes (s.tsh ta)) (lineAddrs (u.g g) (shRows (s.tsh ta)))).hard,
      fun _ => rfl, fun _ => rfl, fun h => ?_, fun h k => ?_⟩
    · rw [h.mkCmd, h.g, h.tsh]
    · rw [h.tsh, k.g]
      split
      · exact .trap _ _ _
      · exact (k.moveCheck ..).hard
  | tst ta g =>
    refine ⟨false, fun s => s.mkCmd (.tst l ta g) 0 (s.g g) (s.tsh ta) 0,
      fun s u => if shType (s.tsh ta) = 0 then .trap 0xF 0 0
      else (u.moveCheck .store (u.g g) 64 (shBytes (s.tsh ta)) (lineAddrs (u.g g) (shRows (s.tsh ta)))).hard,
      fun _ => rfl, fun _ => rfl, fun h => ?_, fun h k => ?_⟩
    · rw [h.mkCmd, h.g, h.tsh]
    · rw [h.tsh, k.g]
      split
      · exact .trap _ _ _
      · exact (k.moveCheck ..).hard
  | tqld ta =>
    refine ⟨false, fun s => s.mkCmd (.tqld l ta) 0 0 (s.tsh ta) 0,
      fun s u => if shType (s.tsh ta) = 0 then .trap 0xF 0 0 else .ok .hard u,
      fun _ => rfl, fun _ => rfl, fun h => ?_, fun h k => ?_⟩
    · rw [h.mkCmd, h.tsh]
    · rw [h.tsh]
      split
      · exact .trap _ _ _
      · exact .ok _ k
  | tzero ta =>
    refine ⟨false, fun s => s.mkCmd (.tzero l ta) 0 0 (s.tsh ta) 0,
      fun _ u => .ok .hard u,
      fun _ => rfl, fun _ => rfl, fun h => ?_, fun h k => ?_⟩
    · rw [h.mkCmd, h.tsh]
    · exact .ok _ k
  | ttrans ta tb =>
    refine ⟨false, fun s => s.mkCmd (.ttrans l ta tb) 0 0 (s.tsh ta) (s.tsh tb),
      fun s u =>
      if shType (s.tsh ta) = shType (s.tsh tb) ∧ shRows (s.tsh ta) = shCols (s.tsh tb) ∧ shCols (s.tsh ta) = shRows (s.tsh tb) then .ok .hard u
      else .trap 0xF 0 0,
      fun _ => rfl, fun _ => rfl, fun h => ?_, fun h k => ?_⟩
    · rw [h.mkCmd, h.tsh, h.tsh]
    · rw [h.tsh, h.tsh]
      split
      · exact .ok _ k
      · exact .trap _ _ _
  | tcvt ta tb rm =>
    refine ⟨false, fun s => s.mkCmd (.tcvt l ta tb rm) 0 0 (s.tsh ta) (s.tsh tb),
      fun s u =>
      if rm = 2 ∧ shType (s.tsh ta) = 4 then .trap 1 0 0
      else if shType (s.tsh ta) = 0 ∨ shType (s.tsh tb) = 0 ∨ shRows (s.tsh ta) ≠ shRows (s.tsh tb) ∨ shCols (s.tsh ta) ≠ shCols (s.tsh tb) then .trap 0xF 0 0
      else .ok (if deadType (shType (s.tsh ta)) || deadType (shType (s.tsh tb)) then .invalid
        else if 9 ≤ shType (s.tsh ta) ∨ 9 ≤ shType (s.tsh tb) then .emulated else .hard) u,
      fun _ => rfl, fun _ => rfl, fun h => ?_, fun h k => ?_⟩
    · rw [h.mkCmd, h.tsh, h.tsh]
    · rw [h.tsh, h.tsh]
      split
      · exact .trap _ _ _
      split
      · exact .trap _ _ _
      · exact .ok _ k
  | tmma acc ta tb =>
    refine ⟨true, fun s => s.mkCmd (.tmma l acc ta tb) s.nextFmt 0 (s.tsh ta) (s.tsh tb),
      fun s u => u.mmaCheck u.nextFmt false (s.tsh ta) (s.tsh tb) acc fun t => .ok () t,
      fun _ => rfl, fun _ => rfl, fun h => ?_, fun h k => ?_⟩
    · rw [h.mkCmd, h.nextFmt, h.tsh, h.tsh]
    · rw [h.tsh, h.tsh, k.nextFmt]
      exact k.mmaCheck _ _ _ _ _ fun h => .ok _ h
  | tmmas acc ta tb g =>
    refine ⟨true, fun s => s.mkCmd (.tmmas l acc ta tb g) s.nextFmt (s.g g) (s.tsh ta) (s.tsh tb),
      fun s u => u.mmaCheck u.nextFmt true (s.tsh ta) (s.tsh tb) acc fun t => t.scaleCheck t.nextFmt (t.g g),
      fun _ => rfl, fun _ => rfl, fun h => ?_,
      fun h k => ?_⟩
    · rw [h.mkCmd, h.nextFmt, h.g, h.tsh, h.tsh]
    · rw [h.tsh, h.tsh, k.nextFmt]
      exact k.mmaCheck _ _ _ _ _ fun h => by rw [h.nextFmt, h.g]; exact h.scaleCheck ..
  | tdrain g acc =>
    refine ⟨true, fun s => s.mkCmd (.tdrain l g acc) s.nextFmt (s.g g) 0 0,
      fun _ u => if drainWord u.nextFmt = .invalid then .ok .invalid u
      else u.drainCheck u.nextFmt .drain acc (u.g g) 64 (16 * sizeOfR18 (wD u.nextFmt)),
      fun _ => rfl, fun _ => rfl, fun h => ?_, fun h k => ?_⟩
    · rw [h.mkCmd, h.nextFmt, h.g]
    · rw [k.nextFmt, k.g]
      split
      · exact .ok _ k
      · exact k.drainCheck ..
  | tdrainadd g acc n =>
    refine ⟨true, fun s => s.mkCmd (.tdrainadd l g acc n) s.nextFmt (s.g g) 0 0,
      fun _ u => if drainWord u.nextFmt = .invalid then .ok .invalid u
      else if wAcc u.nextFmt ≠ 0 ∨ wD u.nextFmt ≠ 7 then .trap 0xE 0 0
      else u.drainCheck u.nextFmt .add acc (u.g g) 128 64,
      fun _ => rfl, fun _ => rfl, fun h => ?_, fun h k => ?_⟩
    · rw [h.mkCmd, h.nextFmt, h.g]
    · rw [k.nextFmt, k.g]
      split
      · exact .ok _ k
      split
      · exact .trap _ _ _
      · exact k.drainCheck ..
  | hmrd g acc =>
    refine ⟨false, fun s => s.mkCmd (.hmrd l g acc) 0 0 0 0,
      fun _ u => .ok .hard u,
      fun _ => rfl, fun _ => rfl, fun h => ?_, fun h k => ?_⟩
    · rw [h.mkCmd]
    · exact .ok _ k
  | hmclr acc =>
    refine ⟨false, fun s => s.mkCmd (.hmclr l acc) 0 0 0 0,
      fun _ u => .ok .hard u,
      fun _ => rfl, fun _ => rfl, fun h => ?_, fun h k => ?_⟩
    · rw [h.mkCmd]
    · exact .ok _ k

end Sys2Proof.Machine
end

section
/-! What comes of a stamped matrix form (R155, R174 to R176). -/

namespace Sys2Proof.Machine

theorem State.undo_me (s : State) : s.undo.me = s.old := by
  unfold State.undo State.old
  cases s.latch with
  | none => rfl
  | some c => exact State.setCore_core_same s s.cur.core c

theorem State.undo_device (s : State) : sameDevice s s.undo := by
  unfold State.undo
  cases s.latch <;> rfl

theorem State.undo_cur (s : State) : s.undo.cur = s.cur := by
  unfold State.undo
  cases s.latch <;> rfl

theorem State.undo_ir (s : State) : s.undo.ir = s.ir := by
  unfold State.undo
  cases s.latch <;> rfl

/-- The form has not acted: its bundle stands as it was, but for a record of what holds it or a request to the control cluster. -/
structure Unmoved (e w : State) : Prop where
  device : sameDevice e w
  cur : w.cur = e.cur
  ir : w.ir = e.ir
  task : w.me.task = e.old.task
  fetches : fetchesAlike (e.old.clu e.cur.clu) w.cl
  report : w.report = .stalled ∨ w.report = .trapped

theorem unmoved_of_stall (e : State) {F : Cluster → Cluster} (hF : ∀ c, fetchesAlike c (F c)) :
    Unmoved e { (e.undo.onCl F) with report := .stalled } := by
  have me : (e.undo.onCl F).me = e.old.onClu e.cur.clu F := by
    rw [State.onCl, State.onMe_me, e.undo_me, e.undo_cur]
  have cl : (e.undo.onCl F).cl = F (e.old.clu e.cur.clu) := by
    rw [State.onCl_cl, State.cl, e.undo_me, e.undo_cur]
  refine ⟨e.undo_device.trans rfl, e.undo_cur, e.undo_ir, (congrArg Core.task me).trans rfl, ?_, .inl rfl⟩
  have same : State.cl { (e.undo.onCl F) with report := .stalled } = F (e.old.clu e.cur.clu) := cl
  rw [same]
  exact hF _

/-- The bundle is undone, but for what a request to the control cluster takes. -/
structure AtBundle (e u : State) : Prop where
  device : sameDevice e u
  cur : u.cur = e.cur
  ir : u.ir = e.ir
  task : u.me.task = e.old.task
  cl : u.me.cl = e.old.cl

theorem atBundle_undo (e : State) : AtBundle e e.undo := ⟨e.undo_device, e.undo_cur, e.undo_ir, by rw [e.undo_me], by rw [e.undo_me]⟩

theorem AtBundle.onMe {e u : State} (h : AtBundle e u) {F : Core → Core} (hF : ∀ c, (F c).task = c.task ∧ (F c).cl = c.cl) :
    AtBundle e (u.onMe F) :=
  ⟨h.device.trans rfl, h.cur, h.ir, by rw [State.onMe_me, (hF _).1, h.task], by rw [State.onMe_me, (hF _).2, h.cl]⟩

theorem AtBundle.charge {e u : State} (h : AtBundle e u) (n : Nat) : AtBundle e (u.charge e.cur.core n) := by
  rw [← h.cur]
  exact h.onMe (F := fun c => { c with rg := c.rg.charged u.cadence.toNat n }) fun _ => ⟨rfl, rfl⟩

theorem AtBundle.unmoved {e u : State} (h : AtBundle e u) : Unmoved e { u with report := .trapped } := by
  refine ⟨h.device.trans rfl, h.cur, h.ir, h.task, ?_, .inr rfl⟩
  have cl : State.cl { u with report := .trapped } = e.old.clu e.cur.clu := by
    have mine : State.cl { u with report := .trapped } = vget u.me.cl (cluCode u.cur.clu) := rfl
    rw [mine, h.cl, h.cur]; rfl
  rw [cl]
  exact ⟨rfl, rfl, rfl, rfl, rfl, rfl, rfl, rfl, rfl⟩

theorem unmoved_of_emulate {e w : State} {l : Long} {pop late : Bool} {cmd : MCmd} (h : e.emulate l pop late cmd = .next w) :
    Unmoved e w ∨ e.fault 0x1B 0 = .next w := by
  unfold State.emulate at h
  dsimp only at h
  split at h
  · exact .inr h
  · left
    cases h
    have reserved := (atBundle_undo e).onMe (F := fun k => { k with st := k.st.reserve e.cur.clu l.post }) fun _ => ⟨rfl, rfl⟩
    have popped : AtBundle e ((e.undo.onSt fun t => t.reserve e.cur.clu l.post).popFmt pop) := by
      unfold State.popFmt
      split
      · exact reserved.onMe fun _ => ⟨rfl, rfl⟩
      · exact reserved
    have counted : AtBundle e (if late then ((e.undo.onSt fun t => t.reserve e.cur.clu l.post).popFmt pop).onMe Core.late
        else (e.undo.onSt fun t => t.reserve e.cur.clu l.post).popFmt pop) := by
      split
      · exact popped.onMe fun c => by rw [Core.late, Core.count_frame]; exact ⟨rfl, rfl⟩
      · exact popped
    have requested := counted.onMe (F := fun k => { k with
      en := { k.en with emul := some cmd }
      pend := k.pend ++ [(.c, { clu := .m, cause := 0x1C, detail := 0, async := true, addr := 0, info := cmd.w0 ++ cmd.fmt })] }) fun _ => ⟨rfl, rfl⟩
    exact (requested.charge _).unmoved

/-- A stamped matrix form passes its checks, in t, and its command starts, in u. -/
structure StampedStart (e : State) (l : Long) (pop : Bool) (cmd : MCmd) (check : State → Res WordClass) (t u : State) : Prop where
  early : ¬ e.cadence < e.stampTick l
  late : ¬ (e.missedStamp l && !bit e.old.st.stampc 0) = true
  ready : e.setsReady l = true
  full : cmd.shortOf e.me.st = false
  fmt : ¬ (pop = true ∧ e.old.st.fq = [])
  checked : check (e.takeSets l) = .ok .hard t
  idle : e.me.en.mq = []
  start : (t.enqueue pop (t.placed cmd cmd.writes)).startHead e.ir.upsetP e.ir.upsetS = some u

/-- What a stamped matrix form comes to. -/
inductive MatrixOutcome (e : State) (l : Long) (pop : Bool) (cmd : MCmd) (check : State → Res WordClass) : State → Prop
  | nullified (hg : e.p l.guard = false) : MatrixOutcome e l pop cmd check e
  | finished (he : e.me.en.emul.isSome) :
    MatrixOutcome e l pop cmd check (e.onEn fun x => { x with emul := none, emulDone := false })
  | unmoved {w : State} (h : Unmoved e w) : MatrixOutcome e l pop cmd check w
  | faults {w : State} (c d : Nat) (a info : Word) (h : e.raise c d a info = .next w) : MatrixOutcome e l pop cmd check w
  | starts {t u : State} (h : StampedStart e l pop cmd check t u) :
    MatrixOutcome e l pop cmd check (if e.missedStamp l then u.onMe Core.late else u)

theorem fetchesAlike_refl (c : Cluster) : fetchesAlike c c := ⟨rfl, rfl, rfl, rfl, rfl, rfl, rfl, rfl, rfl⟩

theorem issueMatrix_outcome {e : State} {l : Long} (hs : l.stamp ≠ 0) (pop : Bool) (cmd : MCmd) (check : State → Res WordClass) :
    ∃ w, e.issueMatrix l pop cmd check = .next w ∧ MatrixOutcome e l pop cmd check w := by
  have stall : ∃ w, e.stall = .next w ∧ MatrixOutcome e l pop cmd check w := by
    refine ⟨_, rfl, .unmoved ?_⟩
    rw [← onCl_id e.undo]
    exact unmoved_of_stall e fetchesAlike_refl
  have held : ∃ w, e.stallHeld = .next w ∧ MatrixOutcome e l pop cmd check w :=
    ⟨_, rfl, .unmoved (unmoved_of_stall e fun _ => ⟨rfl, rfl, rfl, rfl, rfl, rfl, rfl, rfl, rfl⟩)⟩
  have fault : ∀ c d a fmt, ∃ w, e.matrixFault c d a fmt = .next w ∧ MatrixOutcome e l pop cmd check w :=
    fun c d a fmt => ⟨_, rfl, .faults c d a _ rfl⟩
  have emulated : ∃ w, e.emulate l pop (e.missedStamp l) cmd = .next w ∧ MatrixOutcome e l pop cmd check w := by
    obtain ⟨w, hw⟩ : ∃ w, e.emulate l pop (e.missedStamp l) cmd = .next w := by
      unfold State.emulate
      dsimp only
      split <;> exact ⟨_, rfl⟩
    refine ⟨w, hw, ?_⟩
    rcases unmoved_of_emulate hw with h | h
    · exact .unmoved h
    · exact .faults _ _ _ _ h
  have stamped : decide (l.stamp ≠ 0) = true := decide_eq_true hs
  unfold State.issueMatrix
  rw [stamped]
  simp only [Bool.true_and, if_neg hs]
  split
  · next hg => exact ⟨e, rfl, .nullified (by simpa using hg)⟩
  split
  · next hd => exact ⟨_, rfl, .finished hd.2⟩
  split
  · exact stall
  next early =>
  split
  · exact fault _ _ _ _
  next late =>
  split
  · unfold State.missStamp
    split
    · exact ⟨_, rfl, .unmoved (unmoved_of_stall e fun _ => ⟨rfl, rfl, rfl, rfl, rfl, rfl, rfl, rfl, rfl⟩)⟩
    · exact fault _ _ _ _
  next reasons =>
  split
  · exact fault _ _ _ _
  next fmt =>
  cases checked : check (e.takeSets l) with
  | wait => exact stall
  | trap c d a => exact fault _ _ _ _
  | ok word t =>
    cases word with
    | hard =>
      dsimp only
      unfold State.issueCmd
      rw [if_neg hs]
      split
      · exact held
      next idle =>
      cases start : (t.enqueue pop (t.placed cmd cmd.writes)).startHead e.ir.upsetP e.ir.upsetS with
      | none => exact held
      | some u =>
        simp only [Bool.not_eq_true, Bool.or_eq_false_iff, Bool.not_eq_false'] at reasons
        exact ⟨_, rfl, .starts ⟨fun h => early ⟨hs, h⟩, late, reasons.1, reasons.2, fmt, checked, not_not.mp idle, start⟩⟩
    | invalid => exact emulated
    | emulated => exact emulated

theorem issueMatrix_starts {e t u : State} {l : Long} {pop : Bool} {cmd : MCmd} {check : State → Res WordClass} (hs : l.stamp ≠ 0)
    (guard : e.p l.guard = true) (held : ¬ (e.me.en.emulDone = true ∧ e.me.en.emul.isSome = true)) (h : StampedStart e l pop cmd check t u) :
    e.issueMatrix l pop cmd check = .next (if e.missedStamp l then u.onMe Core.late else u) := by
  obtain ⟨early, late, ready, full, fmt, checked, idle, start⟩ := h
  have stamped : decide (l.stamp ≠ 0) = true := decide_eq_true hs
  have reasons : ¬ (!e.setsReady l || cmd.shortOf e.me.st) = true := by rw [ready, full]; exact Bool.false_ne_true
  have starts : e.issueCmd l pop (e.missedStamp l) (t.placed cmd cmd.writes) t = .next (if e.missedStamp l then u.onMe Core.late else u) := by
    unfold State.issueCmd
    rw [if_neg hs, if_neg (not_not.mpr idle), start]
  unfold State.issueMatrix
  rw [guard, Bool.not_true, if_neg Bool.false_ne_true, if_neg held, if_neg fun h => early h.2, stamped]
  simp only [Bool.true_and]
  rw [if_neg late, if_neg reasons, if_neg fmt, checked]
  exact starts

end Sys2Proof.Machine
end

section
/-! The issue of a stamped bundle outside a rendezvous (R174, R176). -/

namespace Sys2Proof.Machine

theorem deliver_atSync (s : State) (k : Fin 768) (x : Clu) (t : Trap) (tpc : Word) :
    (((s.deliver k x t tpc).core k).clu x).atSync = false := by
  rcases s.deliver_clu k x t tpc with (⟨-, h, e⟩ | e) | e <;> rw [e] <;> rfl

theorem deliver_ir (s : State) (k : Fin 768) (x : Clu) (t : Trap) (tpc : Word) : (s.deliver k x t tpc).ir = s.ir := by
  obtain ⟨-, -, -, -, -, -, -, -, -, ir, -⟩ := s.deliver_frame k x t tpc
  exact ir

/-- A bundle's attempt of cluster x of core k has left no upset behind, and no rendezvous that the cluster could complete. -/
structure Settles (k : Fin 768) (x : Clu) (w : State) : Prop where
  upsetP : w.ir.upsetP = []
  upsetS : w.ir.upsetS = []
  alone : (((w.core k).clu x).atSync && w.syncNext k x) = false

theorem Settles.unlatched {k : Fin 768} {x : Clu} {w : State} (h : Settles k x w) : Settles k x { w with latch := none } :=
  ⟨h.upsetP, h.upsetS, h.alone⟩

theorem settles_deliver {u : State} {k : Fin 768} {x : Clu} (hP : u.ir.upsetP = []) (hS : u.ir.upsetS = []) (t : Trap) (tpc : Word)
    (r : Report) : Settles k x { u.deliver k x t tpc with report := r } := by
  have ir : ({ u.deliver k x t tpc with report := r } : State).ir = u.ir := deliver_ir ..
  refine ⟨by rw [ir, hP], by rw [ir, hS], ?_⟩
  rw [show ((({ u.deliver k x t tpc with report := r } : State).core k).clu x).atSync = false from deliver_atSync ..]
  rfl

theorem Settles.runs {k : Fin 768} {x : Clu} {w : State} (h : Settles k x w) (ex : Instr → State → Out) :
    w.meetAfter ex k x = .next w ∧ calmed (.next w) = .next w := by
  obtain ⟨hP, hS, alone⟩ := h
  refine ⟨if_neg (by rw [alone]; exact Bool.false_ne_true), ?_⟩
  have ir : ({ w.ir with upsetP := [], upsetS := [] } : Ir) = { w.ir with upsetP := w.ir.upsetP, upsetS := w.ir.upsetS } := by rw [hP, hS]
  exact congrArg (fun i => Host.Outcome.next { w with ir := i }) ir

/-- The records of a cluster as its bundle issues. -/
def Cluster.closed (now : Nat) (sync inh : Bool) (c : Cluster) : Cluster :=
  { c.holdOff now with stampSeen := none, syncs := if sync then c.syncs + 1 else c.syncs, atSync := false, claspKept := if inh then c.claspKept else none }

/-- The device after the loop ends of a bundle that has issued. -/
def State.looped (w : State) (o : Core) (ps : List Part) : State :=
  if w.report = .branched then w
  else w.onCl fun c => loopEnd (o.clu w.cur.clu) w.ir.bpc (ps.findSome? fun p => writesLpc p.i) c 4

theorem State.looped_same (w : State) (o : Core) (ps : List Part) : (w.looped o ps).cur = w.cur ∧ (w.looped o ps).ir = w.ir ∧
    (w.looped o ps).cadence = w.cadence := by
  unfold State.looped
  split <;> exact ⟨rfl, rfl, rfl⟩

theorem endBundle_eq (w : State) (o : Core) (ps : List Part) (sync : Bool) (n : Nat) : ∃ rg, w.endBundle o ps sync n =
    { ((w.looped o ps).setCore w.cur.core { ((w.looped o ps).me.onClu w.cur.clu
      (Cluster.closed w.cadence.toNat sync (o.clu w.cur.clu).inh)) with rg := rg }) with latch := none } := by
  obtain ⟨cur, -, now⟩ := w.looped_same o ps
  obtain ⟨rg, e⟩ := onCl_regs (w.looped o ps) (Cluster.closed w.cadence.toNat sync (o.clu w.cur.clu).inh) (fun k => k.count_frame 3 w.cur.clu 1)
    (h := fun c => { c with rg := c.rg.charged w.cadence.toNat n }) fun _ => rfl
  refine ⟨rg, ?_⟩
  rw [cur] at e
  rw [← e]
  unfold State.endBundle State.looped
  dsimp only
  split <;> rfl

theorem endBundle_atSync (w : State) (o : Core) (ps : List Part) (sync : Bool) (n : Nat) :
    (((w.endBundle o ps sync n).core w.cur.core).clu w.cur.clu).atSync = false ∧ (w.endBundle o ps sync n).ir = w.ir := by
  obtain ⟨rg, e⟩ := endBundle_eq w o ps sync n
  rw [e]
  refine ⟨?_, (w.looped_same o ps).2.1⟩
  rw [show ({ ((w.looped o ps).setCore w.cur.core { ((w.looped o ps).me.onClu w.cur.clu
      (Cluster.closed w.cadence.toNat sync (o.clu w.cur.clu).inh)) with rg := rg }) with latch := none } : State).core w.cur.core = _
    from State.setCore_core_same _ _ _]
  exact congrArg (·.atSync) (Core.onClu_same (w.looped o ps).me w.cur.clu _)

section
variable {s v : State} {k : Fin 768} {p : Part} {f : Fetched} (h : NextIs s k .m p v f)
include h

theorem tryBundle_of_next (hn : f.sync = false ∨ v.cl.inh = true) : s.tryBundle issueInstr k .m false = v.execBundle issueInstr f [p] false := by
  have turn := atTurn_of_canIssue h.1
  exact tryBundle_runs (turn ▸ h.1) (turn ▸ h.2.1) h.2.2.1 hn

/-- STAMPED_ISSUE runs the stamped bundle with the upsets that it brings. -/
theorem stampedIssue_runs (hs : p.stamped = true) (uP uS : Upset) : exec (.stampedIssue ⟨k, uP, uS⟩) s =
    s.unlessStalled (calmed (({ s with ir := { s.ir with upsetP := uP, upsetS := uS } } : State).runBundle issueInstr k .m)) := by
  have any_ : (s.nextParts k .m).any Part.stamped = true := by
    rw [nextParts_of_next h, List.any_cons, hs, Bool.true_or]
  exact if_pos any_

theorem settles_of_issue (calm : v.ir.upsetP = [] ∧ v.ir.upsetS = []) {w : State} (hw : exec p.i (v.entering p f) = .next w)
    (cur : w.cur = v.cur) (hP : w.ir.upsetP = []) (hS : w.ir.upsetS = []) (hr : w.report = .issued) :
    ∃ x, v.execBundle issueInstr f [p] false = .next x ∧ Settles k .m x := by
  have here := nextIs_cur h
  rw [execBundle_of_next h hw, if_neg (by rw [hr]; simp)]
  dsimp only
  split
  · refine ⟨_, rfl, ?_⟩
    rw [here]
    exact settles_deliver calm.1 calm.2 _ _ _
  · obtain ⟨alone, ir⟩ := endBundle_atSync w v.me [p] false (max 1 ((v.entering p f).chargeOf p.i))
    rw [cur, here] at alone
    exact ⟨_, rfl, by rw [ir, hP], by rw [ir, hS], by rw [alone]; rfl⟩

theorem settles_of_stall {w : State} (hw : exec p.i (v.entering p f) = .next w) (hr : w.report = .stalled ∨ w.report = .trapped)
    (hx : Settles k .m w) : ∃ x, v.execBundle issueInstr f [p] false = .next x ∧ Settles k .m x := by
  rw [execBundle_of_next h hw, if_pos (by tauto)]
  exact ⟨_, rfl, hx.unlatched⟩

end

section
variable {s v : State} {k : Fin 768} {p : Part} {f : Fetched} (h : NextIs s k .m p v f) (hn : f.sync = false ∨ v.cl.inh = true)
include h hn

/-- A cluster that stands at a bundle that is not to be synchronised does not complete a rendezvous. -/
theorem syncNext_of_unmoved {w : State} (hd : sameDevice v w) (ht : (w.core k).task = v.me.task) (hc : fetchesAlike v.cl ((w.core k).clu .m)) :
    w.syncNext k .m = false := by
  have cur := nextIs_cur h
  have device : sameDevice v (w.at_ k .m) := hd.trans rfl
  obtain ⟨a, n, -, again⟩ := nextBundle_alike device cur.symm hc ht (nextBundle_again h.2.1)
  have whole : w.syncNext k .m = ((w.at_ k .m).canIssue k .m && !((w.core k).clu .m).inh && match (w.at_ k .m).nextBundle with
    | .ok (_, f) => f.sync
    | .error _ => false) := rfl
  have inh : ((w.core k).clu .m).inh = v.cl.inh := hc.2.2.2.2.1
  rw [whole, again, inh]
  rcases hn with e | e <;> simp [e]

theorem settles_of_outcome (hs : p.stamped = true) (calm : s.ir.upsetP = [] ∧ s.ir.upsetS = []) :
    ∃ x, v.execBundle issueInstr f [p] false = .next x ∧ Settles k .m x := by
  obtain ⟨pop, cmd, check, form⟩ := (matrixForm_of_next h hs).issues
  have stamp : (longOf p.w1).stamp ≠ 0 := ((stamped_iff p).mp hs).2
  obtain ⟨w, hw, out⟩ := issueMatrix_outcome (e := v.entering p f) stamp pop (cmd (v.entering p f)) (check (v.entering p f))
  have cur := nextIs_cur h
  have ran : exec p.i (v.entering p f) = .next w := (form.run _).trans hw
  have still : v.ir.upsetP = [] ∧ v.ir.upsetS = [] := by
    obtain ⟨a, n, rfl⟩ := nextIs_found h
    exact calm
  obtain ⟨hP, hS⟩ := still
  cases out with
  | nullified => exact settles_of_issue h ⟨hP, hS⟩ ran rfl hP hS rfl
  | finished => exact settles_of_issue h ⟨hP, hS⟩ ran rfl hP hS rfl
  | @starts t u begun =>
    have own := form.starts_own begun.checked begun.start
    have same : ∀ b : Bool, (if b then u.onMe Core.late else u).cur = u.cur ∧ (if b then u.onMe Core.late else u).ir = u.ir ∧
        (if b then u.onMe Core.late else u).report = u.report := fun b => by cases b <;> exact ⟨rfl, rfl, rfl⟩
    obtain ⟨scur, sir, sreport⟩ := same ((v.entering p f).missedStamp (longOf p.w1))
    exact settles_of_issue h ⟨hP, hS⟩ ran (scur.trans own.here) (by rw [sir, own.upsetP]; exact hP) (by rw [sir, own.upsetS]; exact hS)
      (sreport.trans own.report)
  | unmoved out =>
    obtain ⟨device, wcur, ir, task, fetches, report⟩ := out
    have pass : sameDevice v (v.entering p f) := rfl
    have core : w.core k = w.me := by rw [State.me, wcur]; exact congrArg (fun c : Cur => w.core c.core) cur.symm
    have alone : w.syncNext k .m = false := by
      have cl : w.cl = (w.core k).clu .m := by rw [State.cl, wcur, core]; exact congrArg (fun c : Cur => w.me.clu c.clu) cur
      rw [cl] at fetches
      exact syncNext_of_unmoved h hn (pass.trans device) (by rw [core, task]; rfl) fetches
    exact settles_of_stall h ran report ⟨by rw [ir]; exact hP, by rw [ir]; exact hS, by rw [alone, Bool.and_false]⟩
  | faults c d a info out =>
    cases out
    refine settles_of_stall h ran (.inr rfl) ?_
    have undone : ∀ q : Core → Core, (if c = 0x11 then (v.entering p f).undo.onMe q else (v.entering p f).undo).ir = (v.entering p f).ir := fun q => by
      split <;> exact (v.entering p f).undo_ir
    have here : (v.entering p f).cur = { core := k, clu := .m } := cur
    rw [here]
    exact settles_deliver (by rw [undone]; exact hP) (by rw [undone]; exact hS) _ _ _

theorem stampedIssue_eq (hs : p.stamped = true) (calm : s.ir.upsetP = [] ∧ s.ir.upsetS = []) :
    exec (.stampedIssue ⟨k, [], []⟩) s = exec (.stalledBundleIssue k .m) s := by
  obtain ⟨x, hx, settles⟩ := settles_of_outcome h hn hs calm
  obtain ⟨meets, calm'⟩ := settles.runs issueInstr
  have same : ({ s with ir := { s.ir with upsetP := [], upsetS := [] } } : State) = s := by
    have ir : ({ s.ir with upsetP := [], upsetS := [] } : Ir) = { s.ir with upsetP := s.ir.upsetP, upsetS := s.ir.upsetS } := by rw [calm.1, calm.2]
    exact congrArg (fun i => ({ s with ir := i } : State)) ir
  rw [stampedIssue_runs h hs, same, runBundle_eq, tryBundle_of_next h hn, hx, stalledIssue_of_next h hn, hx]
  dsimp only
  rw [meets, calm']

end

end Sys2Proof.Machine
end

section
/-! The late issue of a stamped bundle (R175, R176). -/

namespace Sys2Proof.Machine

/-- The device in which the matrix cluster's stamp is recorded as missed. -/
def State.sawMiss (s : State) (k : Fin 768) : State := (s.at_ k .m).onCl (Cluster.saw (some true))

/-- The marks of a core whose stamp is recorded as missed. -/
def Core.missMark (c : Core) : Mark := { seen := some true, late := c.st.stampc }

theorem sawMiss_core (s : State) (k : Fin 768) : (s.sawMiss k).core k = (s.core k).marked (s.core k).missMark := by
  have own : (s.sawMiss k).core k = (s.core k).onClu .m (Cluster.saw (some true)) := State.onMe_me (s.at_ k .m) _
  rw [own]; rfl

theorem sawMiss_other (s : State) {k j : Fin 768} (h : j ≠ k) : (s.sawMiss k).core j = s.core j := State.setCore_core_ne _ _ h

/-- A mark does not decide whether a cluster may issue. -/
theorem canIssue_of_mark {s t : State} {k : Fin 768} {n : Mark} (x : Clu) (hs : sameDevice s t) (h : t.core k = (s.core k).marked n) :
    t.canIssue k x = s.canIssue k x := by
  obtain ⟨o, clu⟩ := Core.clu_marked (s.core k) n x
  have stops : t.saveStops k = s.saveStops k := by
    rw [State.saveStops, h, show t.cadence = s.cadence by rw [hs]]; rfl
  have runs : t.running k = s.running k := by rw [hs]; rfl
  rw [State.canIssue, stops, runs, h, clu]
  rfl

theorem interlocked_marked (c : Core) (n : Mark) (x : Clu) (i : Instr) : (c.marked n).interlocked x i = c.interlocked x i := by
  obtain ⟨o, clu⟩ := Core.clu_marked c n x
  rw [Core.interlocked, clu]
  rfl

/-- The marks of a device whose matrix cluster of core k has missed its stamp. -/
def missMarks (e : State) (k : Fin 768) (n : Mark) : Marks := { e.marks with core := fun j => if j = k then n else (e.core j).mark, old := n }

section
variable {s v : State} {k : Fin 768} {p : Part} {f : Fetched} (h : NextIs s k .m p v f)
include h

theorem nextIs_sawMiss : ∃ v', NextIs (s.sawMiss k) k .m p v' f ∧ v'.cl.inh = v.cl.inh ∧
    Marked (missMarks (v.entering p f) k (s.core k).missMark) (v.entering p f) (v'.entering p f) := by
  have core := sawMiss_core s k
  have device : sameDevice (s.at_ k .m) ((s.sawMiss k).at_ k .m) := rfl
  obtain ⟨o, clu⟩ := Core.clu_marked (s.core k) (s.core k).missMark .m
  have cl : ((s.sawMiss k).at_ k .m).cl = (s.at_ k .m).cl.saw o := (congrArg (Core.clu · .m) core).trans clu
  obtain ⟨can, found, decoded, wf, free, loops⟩ := h
  obtain ⟨a, n, rfl, again⟩ := nextBundle_alike device rfl (by rw [cl]; exact ⟨rfl, rfl, rfl, rfl, rfl, rfl, rfl, rfl, rfl⟩)
    ((congrArg Core.task core).trans rfl) found
  have vcore : ((s.at_ k .m).onCl (Cluster.found a n)).core k = (s.core k).onClu .m (Cluster.found a n) := State.onMe_me (s.at_ k .m) _
  have vcore' : (((s.sawMiss k).at_ k .m).onCl (Cluster.found a n)).core k =
      (((s.at_ k .m).onCl (Cluster.found a n)).core k).marked (s.core k).missMark := by
    rw [vcore, ← passesMarks_onClu .m (f := Cluster.found a n) (fun _ _ => rfl), ← core]
    exact State.onMe_me ((s.sawMiss k).at_ k .m) _
  have vcl' : (((s.sawMiss k).at_ k .m).onCl (Cluster.found a n)).cl = ((s.at_ k .m).onCl (Cluster.found a n)).cl.saw o := by
    rw [State.onCl_cl, State.onCl_cl, cl]; rfl
  refine ⟨_, ⟨?_, again, decoded, wf, ?_, fun l => ?_⟩, by rw [vcl']; rfl, ?_, fun j => ?_, rfl⟩
  · exact (canIssue_of_mark .m device core).trans can
  · rw [vcore', interlocked_marked]; exact free
  · rw [vcl']; exact loops l
  · have whole : (((s.sawMiss k).at_ k .m).onCl (Cluster.found a n)).entering p f = { ((s.at_ k .m).onCl (Cluster.found a n)).entering p f with
        cores := ((((s.sawMiss k).at_ k .m).onCl (Cluster.found a n)).entering p f).cores
        latch := some (((s.sawMiss k).at_ k .m).onCl (Cluster.found a n)).me } := rfl
    have latch : (((s.sawMiss k).at_ k .m).onCl (Cluster.found a n)).me =
        ((s.at_ k .m).onCl (Cluster.found a n)).me.marked (s.core k).missMark := vcore'
    rw [latch] at whole
    exact whole
  · have past : ∀ u : State, u.cur = { core := k, clu := .m } →
        (u.entering p f).core j = if j = k then (u.core k).onClu .m (·.past f.npc) else u.core j := by
      rintro u cur
      have at_ : u.cur.core = k := congrArg Cur.core cur
      have clu_ : u.cur.clu = .m := congrArg Cur.clu cur
      have whole : (u.entering p f).core j = (u.setCore u.cur.core (u.me.onClu u.cur.clu (·.past f.npc))).core j := rfl
      rw [whole, State.me, at_, clu_]
      split
      · next own => rw [own]; exact State.setCore_core_same _ _ _
      · next other => exact State.setCore_core_ne _ _ other
    rw [past _ rfl, past _ rfl]
    unfold missMarks
    dsimp only
    by_cases own : j = k
    · rw [if_pos own, if_pos own, if_pos own, vcore']
      exact (passesMarks_onClu .m (f := (·.past f.npc)) (fun _ _ => rfl) _ _)
    · rw [if_neg own, if_neg own, if_neg own, past _ rfl, if_neg own, Core.marked_mark]
      exact (State.setCore_core_ne _ _ own).trans ((sawMiss_other s own).trans (State.setCore_core_ne _ _ own).symm)

end

end Sys2Proof.Machine
end

section
/-! The end of a late stamped bundle (R175, R176). -/

namespace Sys2Proof.Machine

/-! The end of a bundle. -/

/-- A core as a bundle of cluster x issues on it. -/
def Core.closed (c : Core) (x : Clu) (now : Nat) (sync inh : Bool) (n : Nat) : Core :=
  let d := (c.onClu x (Cluster.closed now sync inh)).count 3 x 1
  { d with rg := d.rg.charged now n }

theorem endBundle_closes {w : State} {o : Core} (hr : w.report = .issued) (hl : ∀ l, vget (o.clu w.cur.clu).lpc l = 0) (ps : List Part) (sync : Bool)
    (n : Nat) : w.endBundle o ps sync n =
      { w.onMe (fun c => c.closed w.cur.clu w.cadence.toNat sync (o.clu w.cur.clu).inh n) with latch := none } := by
  have loops : (w.onCl fun c => loopEnd (o.clu w.cur.clu) w.ir.bpc (ps.findSome? fun p => writesLpc p.i) c 4) = w := by
    simp only [loopEnd_idle hl]
    exact onCl_id w
  have stays : ¬ w.report = .branched := by rw [hr]; exact Report.noConfusion
  unfold State.endBundle
  dsimp only
  rw [if_neg stays, loops, State.onCl, State.onMe_eq w, State.onMe_setCore, State.setCore_cur, charge_setCore]
  rfl

theorem Core.closed_saw (c : Core) (o : Option Bool) (x : Clu) (now : Nat) (sync inh : Bool) (n : Nat) :
    (c.onClu x (Cluster.saw o)).closed x now sync inh n = c.closed x now sync inh n := by
  unfold Core.closed
  rw [Core.onClu_onClu]
  rfl

theorem Core.closed_st (c : Core) (x : Clu) (now : Nat) (sync inh : Bool) (n : Nat) : (c.closed x now sync inh n).st = c.st := by
  unfold Core.closed
  dsimp only
  rw [Core.count_frame]
  rfl

/-! A late issue counts. -/

theorem Core.count_onClu (c : Core) (e : Nat) (x y : Clu) (n : Nat) (f : Cluster → Cluster) :
    (c.onClu y f).count e x n = (c.count e x n).onClu y f := by
  have task : (c.onClu y f).task = c.task := rfl
  have rg : (c.onClu y f).rg = c.rg := rfl
  unfold Core.count
  rw [task, rg]
  cases c.task with
  | none => rfl
  | some t => dsimp only; split <;> rfl

/-- The count of late issues in its register after one more. -/
def lateCount (n : Word) : Word := BitVec.ofNat 64 (min (bits n 32 32 + 1) 0xFFFF_FFFF * 2 ^ 32 + bits n 0 32)

theorem toNat_lateCount (n : Word) : (lateCount n).toNat % 2 ^ 32 = n.toNat % 2 ^ 32 ∧
    (lateCount n).toNat / 2 ^ 32 = min (n.toNat / 2 ^ 32 + 1) (2 ^ 32 - 1) := by
  have wide := n.isLt
  rw [lateCount, BitVec.toNat_ofNat]
  simp only [bits]
  omega

theorem Core.late_eq (c : Core) : c.late = ({ c with st := { c.st with stampc := lateCount c.st.stampc } } : Core).count 0xF .m 1 := rfl

theorem Core.late_onClu (c : Core) (y : Clu) (f : Cluster → Cluster) : (c.onClu y f).late = c.late.onClu y f := by
  have st : (c.onClu y f).st = c.st := rfl
  have swap : ∀ t : Storage, ({ c.onClu y f with st := t } : Core) = ({ c with st := t } : Core).onClu y f := fun _ => rfl
  rw [Core.late_eq, Core.late_eq, st, swap, Core.count_onClu]

theorem Core.late_st (c : Core) : c.late.st = { c.st with stampc := lateCount c.st.stampc } := by
  rw [Core.late_eq, Core.count_frame]

/-! The device of the late issue. -/

theorem Core.marked_late (c : Core) {n : Mark} (h : n.late = c.st.stampc) : c.marked n = c.onClu .m (Cluster.saw n.seen) := by
  rw [Core.marked, h]
  rfl

/-- A device that bears other marks than the one it comes from. -/
theorem marked_device {e u w : State} {k : Fin 768} {n : Mark} (hk : e.cur = { core := k, clu := .m }) (hn : n.late = (e.core k).st.stampc)
    (own : Marked e.marks u u) (other : Marked (missMarks e k n) u w) :
    w = { u.onMe (fun c => c.onClu .m (Cluster.saw n.seen)) with latch := w.latch } := by
  have here : u.cur = { core := k, clu := .m } := own.here.trans hk
  have late : n.late = (u.core k).st.stampc := by rw [own.core k, hn]; rfl
  have cores : w.cores = (u.onMe fun c => c.onClu .m (Cluster.saw n.seen)).cores := by
    rw [State.onMe, here]
    refine Vector.ext fun i hi => ?_
    have core : w.core ⟨i, hi⟩ = (u.onCore k fun c => c.onClu .m (Cluster.saw n.seen)).core ⟨i, hi⟩ := by
      rw [other.core]
      unfold missMarks
      by_cases mine : (⟨i, hi⟩ : Fin 768) = k
      · rw [mine, State.onCore_core_same]
        dsimp only
        rw [if_pos rfl, Core.marked_late _ late]
      · rw [State.onCore_core_ne _ _ mine]
        dsimp only
        rw [if_neg mine]
        exact (own.core _).symm
    exact core
  have ir : ({ u.ir with upsetP := e.ir.upsetP, upsetS := e.ir.upsetS } : Ir) = u.ir := by
    have p : u.ir.upsetP = e.ir.upsetP := own.upsetP
    have q : u.ir.upsetS = e.ir.upsetS := own.upsetS
    rw [← p, ← q]
  have latch : w.latch = u.latch.map fun c => c.marked n := by rw [other.device]; rfl
  have whole := other.device
  rw [cores] at whole
  unfold missMarks State.marks at whole
  dsimp only at whole
  rw [ir, show e.report = u.report from own.report.symm] at whole
  rw [latch]
  exact whole

end Sys2Proof.Machine
end

section
/-! A stamped bundle that has missed its schedule issues late (R175, R176). -/

namespace Sys2Proof.Machine

/-- A start with other marks, under LATE. -/
theorem StampedStart.marked {m : Marks} {e d t u : State} {l : Long} {i : Instr} {pop : Bool} {cmd : State → MCmd}
    {check : State → State → Res WordClass} (form : MatrixIssue l i pop cmd check) (h : Marked m e d)
    (b : StampedStart e l pop (cmd e) (check e) t u) (upsets : m.upsetP = e.ir.upsetP ∧ m.upsetS = e.ir.upsetS)
    (late : bit d.old.st.stampc 0 = true) : ∃ t' u', StampedStart d l pop (cmd d) (check d) t' u' ∧ Marked m u u' := by
  obtain ⟨t', u', checked, start, marked⟩ := form.starts h b.checked b.start
  refine ⟨t', u', ⟨?_, ?_, ?_, ?_, ?_, checked, ?_, ?_⟩, marked⟩
  · rw [h.cadence, h.stampTick]; exact b.early
  · rw [late, Bool.not_true, Bool.and_false]; exact Bool.false_ne_true
  · rw [h.setsReady]; exact b.ready
  · have full := b.full
    rw [form.cmd h, h.me]
    unfold MCmd.shortOf at full ⊢
    exact full
  · rw [h.oldSt.2.1]; exact b.fmt
  · rw [h.me]; exact b.idle
  · rw [h.upsetP, h.upsetS, upsets.1, upsets.2]; exact start

section
variable {s v : State} {k : Fin 768} {p : Part} {f : Fetched} (h : NextIs s k .m p v f)
include h

theorem entering_p (q : Pred) : (v.entering p f).p q = ((s.core k).clu .m).pReg q := by
  obtain ⟨a, n, e⟩ := nextIs_cl h
  have own : (v.entering p f).p q = v.cl.pReg q := rfl
  rw [own, e]
  rfl

theorem entering_stampTick : (v.entering p f).stampTick (longOf p.w1) = s.dueTick k p := by
  obtain ⟨a, n, core⟩ := nextIs_core h
  have own : (v.entering p f).stampTick (longOf p.w1) = (v.core k).st.stampb + (longOf p.w1).stamp.setWidth 64 :=
    congrArg (fun c : Cur => (v.core c.core).st.stampb + (longOf p.w1).stamp.setWidth 64) (nextIs_cur h)
  rw [own, core]
  rfl

theorem entering_missedStamp : (v.entering p f).missedStamp (longOf p.w1) = (decide (s.cadence ≠ s.dueTick k p) &&
    ((s.core k).clu .m).stampSeen.getD (!((s.core k).clu .m).holdCovers (s.dueTick k p).toNat)) := by
  obtain ⟨a, n, clu⟩ := nextIs_cl h
  have now : (v.entering p f).cadence = s.cadence := by
    obtain ⟨a, n, rfl⟩ := nextIs_found h
    rfl
  have own : (v.entering p f).old.clu (v.entering p f).cur.clu = v.cl := rfl
  rw [State.missedStamp, entering_stampTick h, now, own, clu]
  rfl

theorem entering_missed (hm : s.misses k p) (late : s.cadence ≠ s.dueTick k p) : (v.entering p f).missedStamp (longOf p.w1) = true := by
  rw [State.misses, if_neg late] at hm
  rw [entering_missedStamp h, decide_eq_true late, hm.2]
  rfl

theorem entering_punctual (early : ¬ s.cadence < s.dueTick k p) (hm : ¬ s.misses k p) :
    (v.entering p f).missedStamp (longOf p.w1) = false := by
  rw [entering_missedStamp h]
  by_cases due : s.cadence = s.dueTick k p
  · rw [due, decide_eq_false (not_not.mpr rfl)]; rfl
  · have after : s.dueTick k p < s.cadence := BitVec.lt_of_le_ne (BitVec.not_lt.mp early) (Ne.symm due)
    rw [State.misses, if_neg due, not_and, Bool.not_eq_true] at hm
    rw [hm after, Bool.and_false]

/-- A stamped bundle issues. -/
theorem stamped_issued (hn : f.sync = false ∨ v.cl.inh = true) (hs : p.stamped = true)
    (hg : ((s.core k).clu .m).pReg (longOf p.w1).guard = true) (he : (s.core k).en.emul = none) {pop : Bool} {cmd : State → MCmd}
    {check : State → State → Res WordClass} (form : MatrixIssue (longOf p.w1) p.i pop cmd check) {t : State}
    (ran : exec (.stalledBundleIssue k .m) s = .next t) (hr : t.report = .issued) : ∃ d u,
      StampedStart (v.entering p f) (longOf p.w1) pop (cmd (v.entering p f)) (check (v.entering p f)) d u ∧
      v.overdraws k (max 1 ((v.entering p f).chargeOf p.i)) = false ∧
      t = (if (v.entering p f).missedStamp (longOf p.w1) then u.onMe Core.late else u).endBundle v.me [p] false
        (max 1 ((v.entering p f).chargeOf p.i)) := by
  have stamp : (longOf p.w1).stamp ≠ 0 := ((stamped_iff p).mp hs).2
  obtain ⟨w, hw, out⟩ := issueMatrix_outcome (e := v.entering p f) stamp pop (cmd (v.entering p f)) (check (v.entering p f))
  have went : exec p.i (v.entering p f) = .next w := (form.run _).trans hw
  have trapped : w.report = .stalled ∨ w.report = .trapped → False := fun stops => by
    rw [stalledIssue_of_next h hn, execBundle_of_next h went, if_pos (by tauto)] at ran
    dsimp only [State.unlessStalled] at ran
    split at ran
    · cases ran; cases hr
    · next open_ => cases ran; rcases stops with e | e <;> simp_all
  cases out with
  | nullified off =>
    rw [entering_p h, hg] at off
    cases off
  | finished busy =>
    rw [entering_me h, Core.onClu_en, he] at busy
    cases busy
  | unmoved out => exact (trapped out.report).elim
  | faults c d a info out => cases out; exact (trapped (.inr rfl)).elim
  | @starts d u begun =>
    refine ⟨d, u, begun, ?_⟩
    have own := form.starts_own begun.checked begun.start
    have report : (if (v.entering p f).missedStamp (longOf p.w1) then u.onMe Core.late else u).report = .issued := by
      split <;> exact own.report
    have fate := stalledIssue_of_next h hn
    rw [execBundle_of_next h went, if_neg (by rw [report]; simp)] at fate
    dsimp only at fate
    rw [ran] at fate
    split at fate
    · cases fate; cases hr
    · next pays =>
      rw [State.unlessStalled, endBundle_report, report, if_neg (by simp)] at fate
      exact ⟨by simpa using pays, Host.Outcome.next.inj fate⟩

omit h in
theorem sawMiss_misses (hm : s.misses k p) (late : s.cadence ≠ s.dueTick k p) : (s.sawMiss k).misses k p ∧
    (s.sawMiss k).cadence ≠ (s.sawMiss k).dueTick k p := by
  have core := sawMiss_core s k
  have clu : ((s.sawMiss k).core k).clu .m = ((s.core k).clu .m).saw (some true) := by
    rw [core]; exact Core.onClu_same (s.core k) .m _
  have tick : (s.sawMiss k).dueTick k p = s.dueTick k p := by
    rw [State.dueTick, core]; rfl
  have now : (s.sawMiss k).cadence = s.cadence := rfl
  rw [State.misses, if_neg late] at hm
  rw [State.misses, tick, now, if_neg late, clu]
  exact ⟨⟨hm.1, rfl⟩, late⟩

theorem sawMiss_overdraws (n : Nat) {v' : State} (h' : NextIs (s.sawMiss k) k .m p v' f) : v'.overdraws k n = v.overdraws k n := by
  have level : (s.sawMiss k).allowance k = s.allowance k := by
    rw [State.allowance, sawMiss_core]; rfl
  rw [nextIs_overdraws h', nextIs_overdraws h, State.overdraws, level, sawMiss_core]
  rfl

omit h in
theorem State.onMe_onMe (u : State) (F G : Core → Core) : (u.onMe F).onMe G = u.onMe fun c => G (F c) := by
  rw [State.onMe_eq u, State.onMe_setCore]; rfl

/-- A bundle that has issued ends alike on a device whose record of the stamp differs. -/
theorem endBundle_sawMiss {v' u u' : State} {l : Option Core} (h' : NextIs (s.sawMiss k) k .m p v' f) (inh : v'.cl.inh = v.cl.inh)
    (hu : u.cur = v.cur) (hr : u.report = .issued) (same : u' = { u.onMe (fun c => c.onClu .m (Cluster.saw (some true))) with latch := l })
    (n : Nat) : (u'.onMe Core.late).endBundle v'.me [p] false n = (u.onMe Core.late).endBundle v.me [p] false n := by
  subst same
  have here : u.cur = { core := k, clu := .m } := hu.trans (nextIs_cur h)
  have own : v.me.clu .m = v.cl := by rw [State.cl, nextIs_cur h]
  have own' : v'.me.clu .m = v'.cl := by rw [State.cl, nextIs_cur h']
  have clu : (u.onMe Core.late).cur.clu = .m := congrArg Cur.clu here
  have clu' : (({ u.onMe (fun c => c.onClu .m (Cluster.saw (some true))) with latch := l } : State).onMe Core.late).cur.clu = .m := clu
  have closes := endBundle_closes (w := u.onMe Core.late) (o := v.me) hr (fun i => by rw [clu, own]; exact h.2.2.2.2.2 i) [p] false n
  have closes' := endBundle_closes (w := ({ u.onMe (fun c => c.onClu .m (Cluster.saw (some true))) with latch := l } : State).onMe Core.late)
    (o := v'.me) hr (fun i => by rw [clu', own']; exact h'.2.2.2.2.2 i) [p] false n
  rw [clu, own] at closes
  rw [clu', own', inh] at closes'
  rw [closes, closes']
  have whole : ∀ C : Core → Core, (({ u.onMe (fun c => c.onClu .m (Cluster.saw (some true))) with latch := l } : State).onMe Core.late).onMe C =
      { u.onMe (fun c => C (c.onClu .m (Cluster.saw (some true))).late) with latch := l } := fun C => by
    have order : ((u.onMe fun c => c.onClu .m (Cluster.saw (some true))).onMe Core.late).onMe C =
        u.onMe fun c => C (c.onClu .m (Cluster.saw (some true))).late := by rw [State.onMe_onMe, State.onMe_onMe]
    exact congrArg (fun w : State => ({ w with latch := l } : State)) order
  rw [whole, State.onMe_onMe]
  simp only [Core.late_onClu, Core.closed_saw]
  rfl

theorem endBundle_late {u : State} (hu : u.cur = v.cur) (hr : u.report = .issued) (n : Nat) :
    (((u.onMe Core.late).endBundle v.me [p] false n).core k).st.stampc = lateCount (u.core k).st.stampc := by
  have here : u.cur = { core := k, clu := .m } := hu.trans (nextIs_cur h)
  have own : v.me.clu .m = v.cl := by rw [State.cl, nextIs_cur h]
  have clu : (u.onMe Core.late).cur.clu = .m := congrArg Cur.clu here
  have core : ∀ c, (u.setCore u.cur.core c).core k = c := fun c => by rw [here]; exact State.setCore_core_same u k c
  rw [endBundle_closes (w := u.onMe Core.late) (o := v.me) hr (fun i => by rw [clu, own]; exact h.2.2.2.2.2 i), State.onMe_onMe]
  refine (congrArg (·.st.stampc) (core _)).trans ?_
  rw [Core.closed_st, Core.late_st, here]

section
variable (hn : f.sync = false ∨ v.cl.inh = true)
include hn

/-- The bundle on a device that records the miss. -/
theorem sawMiss_issues (hs : p.stamped = true) (hg : ((s.core k).clu .m).pReg (longOf p.w1).guard = true) (hm : s.misses k p)
    (late : s.cadence ≠ s.dueTick k p) (hb : bit (s.core k).st.stampc 0 = true) (he : (s.core k).en.emul = none) {t : State}
    (ran : exec (.stalledBundleIssue k .m) s = .next t) (hr : t.report = .issued) :
    (∃ v', NextIs (s.sawMiss k) k .m p v' f ∧ v'.cl.inh = v.cl.inh ∧ v'.execBundle issueInstr f [p] false = .next t) ∧
    (t.core k).st.stampc = lateCount (s.core k).st.stampc := by
  obtain ⟨pop, cmd, check, form⟩ := (matrixForm_of_next h hs).issues
  obtain ⟨d, u, begun, pays, rfl⟩ := stamped_issued h hn hs hg he form ran hr
  obtain ⟨v', h', inh, marks⟩ := nextIs_sawMiss h
  obtain ⟨misses', late'⟩ := sawMiss_misses hm late
  have own := form.starts_own begun.checked begun.start
  have here : u.cur = v.cur := own.here
  have cur := nextIs_cur h
  have report : u.report = .issued := own.report
  have lateBit : bit (v'.entering p f).old.st.stampc 0 = true := by
    obtain ⟨a, n, core⟩ := nextIs_core h'
    have old : (v'.entering p f).old = v'.core k := congrArg (fun c : Cur => v'.core c.core) (nextIs_cur h')
    rw [old, core, sawMiss_core]
    exact hb
  have stampc : (s.core k).missMark.late = ((v.entering p f).core k).st.stampc := by
    have mine : (v.entering p f).core k = (v.entering p f).me := congrArg (fun c : Cur => (v.entering p f).core c.core) cur.symm
    rw [mine, entering_me h]; rfl
  obtain ⟨t', u', begun', marked⟩ := begun.marked form marks ⟨rfl, rfl⟩ lateBit
  have same := marked_device (e := v.entering p f) cur stampc own marked
  have ran' : exec p.i (v'.entering p f) = .next (u'.onMe Core.late) := by
    have guard : (v'.entering p f).p (longOf p.w1).guard = true := by rw [marks.p, entering_p h, hg]
    have held : ¬ ((v'.entering p f).me.en.emulDone = true ∧ (v'.entering p f).me.en.emul.isSome = true) := by
      rw [entering_me h', sawMiss_core, Core.onClu_en]
      rintro ⟨-, busy⟩
      have none_ : ((s.core k).marked (s.core k).missMark).en.emul = none := he
      rw [none_] at busy
      cases busy
    rw [form.run, issueMatrix_starts ((stamped_iff p).mp hs).2 guard held begun', entering_missed h' misses' late', if_pos rfl]
  rw [entering_missed h hm late, if_pos rfl] at hr ⊢
  have issued : (u'.onMe Core.late).report = .issued := by rw [same]; exact report
  refine ⟨⟨v', h', inh, ?_⟩, ?_⟩
  · rw [execBundle_of_next h' ran', if_neg (by rw [issued]; simp)]
    dsimp only
    rw [marks.chargeOf, sawMiss_overdraws h _ h', pays, if_neg Bool.false_ne_true, endBundle_sawMiss h h' inh here report same]
  · have kept : u.core k = (u.core k).marked ((v.entering p f).core k).mark := own.core k
    rw [endBundle_late h here report, kept]
    exact congrArg lateCount stampc.symm

/-- SCHEDULE_MISS under LATE issues the bundle late. -/
theorem scheduleMiss_late (hs : p.stamped = true) (hg : ((s.core k).clu .m).pReg (longOf p.w1).guard = true) (hm : s.misses k p)
    (late : s.cadence ≠ s.dueTick k p) (hb : bit (s.core k).st.stampc 0 = true) (calm : s.ir.upsetP = [] ∧ s.ir.upsetS = [])
    (he : (s.core k).en.emul = none) {t : State} (ran : exec (.stampedIssue ⟨k, [], []⟩) s = .next t) (hr : t.report = .issued) :
    exec (.scheduleMiss k) s = .next t ∧ (t.core k).st.stampc = lateCount (s.core k).st.stampc := by
  rw [stampedIssue_eq h hn hs calm] at ran
  obtain ⟨⟨v', h', inh, issues⟩, count⟩ := sawMiss_issues h hn hs hg hm late hb he ran hr
  refine ⟨?_, count⟩
  have hn' : f.sync = false ∨ v'.cl.inh = true := by rw [inh]; exact hn
  obtain ⟨x, hx, settles⟩ := settles_of_outcome h' hn' hs calm
  obtain rfl := Host.Outcome.next.inj (issues.symm.trans hx)
  have runs : (s.sawMiss k).runBundle issueInstr k .m = .next t := by
    rw [runBundle_eq, tryBundle_of_next h' hn', hx]
    exact (settles.runs issueInstr).1
  have miss := scheduleMiss_eq h hn hs hg hm
  rw [if_pos hb] at miss
  rw [miss]
  show s.unlessStalled ((s.sawMiss k).runBundle issueInstr k .m) = .next t
  rw [runs, State.unlessStalled, if_neg (by rw [hr]; simp)]

end

end

end Sys2Proof.Machine
end

section
/-! A stamped TZERO that is due starts at once (R163, R174). -/

namespace Sys2Proof.Machine

/-! The start of the command on its core. -/

theorem Storage.reserve_tiles (t : Storage) (x : Clu) (w : BitVec 3) : (t.reserve x w).tiles = t.tiles := by
  unfold Storage.reserve
  generalize peerSet x w = l
  induction l generalizing t with
  | nil => rfl
  | cons p l ih => exact ih _

theorem Storage.took_tiles (t : Storage) (x : Clu) (l : Long) : (t.took x l).tiles = t.tiles := by
  rw [Storage.took, Storage.reserve_tiles, Storage.popTokens_frame]

/-- The core on which a TZERO of tile r has started, as run d, its sets taken. -/
structure Zeroed (c d : Core) (l : Long) (r : TReg) (run : MRun) : Prop where
  core : d = { c with st := d.st, en := d.en, rg := d.rg }
  st : d.st = { c.st.took .m l with tiles := vset c.st.tiles r Memory.empty }
  mrun : d.en.mrun = c.en.mrun ++ [run]
  mq : d.en.mq = []

/-- The core a TZERO starts on. -/
def Core.zeroing (c : Core) (agent : Nat) (l : Long) (r : TReg) (cmd : MCmd) : Core :=
  let taken := { c.popTokens agent .m l.wait with st := (c.popTokens agent .m l.wait).st.reserve .m l.post }
  let started := (({ taken with en := { taken.en with mq := [], issued := taken.en.issued + 1 } } : Core).count 7 .m 1).passMarks cmd
  ({ started with st := started.st.setTile r Memory.empty } : Core).addRun cmd.done

theorem Core.popTokens_frame (c : Core) (agent : Nat) (x : Clu) (w : BitVec 3) : c.popTokens agent x w =
    { c with st := c.st.popTokens x w, en := { c.en with check := (c.popTokens agent x w).en.check } } := Core.onCheck_frame _ _

theorem Core.passMarks_frame (c : Core) (cmd : MCmd) : c.passMarks cmd = { c with en := { c.en with check := (c.passMarks cmd).en.check } } := by
  unfold Core.passMarks
  exact Core.onCheck_frame _ _

theorem zeroed_zeroing (c : Core) (agent : Nat) (l : Long) (r : TReg) (cmd : MCmd) : Zeroed c (c.zeroing agent l r cmd) l r cmd.done := by
  unfold Core.zeroing
  dsimp only
  rw [Core.passMarks_frame, Core.count_frame, Core.popTokens_frame]
  refine ⟨rfl, ?_, rfl, rfl⟩
  have tiles := c.st.took_tiles .m l
  unfold Storage.took at tiles ⊢
  show ((c.st.popTokens .m l.wait).reserve .m l.post).setTile r Memory.empty = _
  rw [Storage.setTile, tiles]

section
variable {e : State} {k : Fin 768} {l : Long} {r : TReg} (here : e.cur = { core := k, clu := .m })
include here

theorem takeSets_onMe : e.takeSets l = e.onMe fun c => { c.popTokens e.agent .m l.wait with
    st := (c.popTokens e.agent .m l.wait).st.reserve .m l.post } := by
  unfold State.takeSets State.popWait State.reserveSets
  rw [State.onMe_cur, here, State.onMe_onMe]

theorem tzero_starts (cmd : MCmd) (hc : cmd.i = .tzero l r) (idle : e.me.en.mq = []) (free : e.me.tileLocked r = false) (P S : Upset) :
    ((e.takeSets l).enqueue false cmd).startHead P S = some (e.onMe fun c => c.zeroing e.agent l r cmd) := by
  have queued : (e.takeSets l).enqueue false cmd = e.onMe fun c =>
      let d : Core := { c.popTokens e.agent .m l.wait with st := (c.popTokens e.agent .m l.wait).st.reserve .m l.post }
      { d with en := { d.en with mq := d.en.mq ++ [cmd], issued := d.en.issued + 1 } } := by
    unfold State.enqueue State.popFmt State.onEn
    rw [takeSets_onMe here, if_neg Bool.false_ne_true, State.onMe_onMe]
  have mq : ((e.takeSets l).enqueue false cmd).me.en.mq = [cmd] := by
    rw [queued, State.onMe_me, Core.popTokens_frame]
    show e.me.en.mq ++ [cmd] = _
    rw [idle]; rfl
  have can : ((e.takeSets l).enqueue false cmd).canStart ((e.takeSets l).enqueue false cmd).cur.core cmd = true := by
    have writes : cmd.writesTile = some r := by unfold MCmd.writesTile; rw [hc]
    have locked : (((e.takeSets l).enqueue false cmd).core ((e.takeSets l).enqueue false cmd).cur.core).tileLocked r = e.me.tileLocked r := by
      have core : ((e.takeSets l).enqueue false cmd).core ((e.takeSets l).enqueue false cmd).cur.core = ((e.takeSets l).enqueue false cmd).me := rfl
      rw [core, queued, State.onMe_me, Core.popTokens_frame]
      rfl
    unfold State.canStart
    rw [writes, hc]
    dsimp only
    rw [locked, free]
    rfl
  have starts : ∀ u : State, u.startCmd cmd P S = u.onMe fun c =>
      ({ (c.count 7 .m 1).passMarks cmd with st := ((c.count 7 .m 1).passMarks cmd).st.setTile r Memory.empty } : Core).addRun cmd.done := fun u => by
    have clean : u.me.st.cmdPoisoned cmd = false := by unfold Storage.cmdPoisoned; rw [hc]
    unfold State.startCmd
    dsimp only
    rw [clean, if_neg Bool.false_ne_true, hc]
    exact State.onMe_onMe u _ _
  unfold State.startHead
  rw [mq]
  dsimp only
  rw [if_pos can, starts, State.onEn, queued, State.onMe_onMe, State.onMe_onMe]
  rfl

end

theorem Zeroed.clu {c d : Core} {l : Long} {r : TReg} {run : MRun} (h : Zeroed c d l r run) (x : Clu) : d.clu x = c.clu x := by
  rw [h.core]; rfl

theorem Zeroed.past {c d : Core} {l : Long} {r : TReg} {run : MRun} {x : Clu} {F : Cluster → Cluster} (h : Zeroed (c.onClu x F) d l r run) :
    d.st = { c.st.took .m l with tiles := vset c.st.tiles r Memory.empty } ∧ d.en.mrun = c.en.mrun ++ [run] ∧ d.en.mq = [] := by
  obtain ⟨-, st, mrun, mq⟩ := h
  exact ⟨st, mrun, mq⟩

theorem Core.closed_en (c : Core) (x : Clu) (now : Nat) (sync inh : Bool) (n : Nat) : (c.closed x now sync inh n).en = c.en := by
  unfold Core.closed
  dsimp only
  rw [Core.count_frame]
  rfl

theorem endBundle_core {s v w t : State} {k : Fin 768} {p : Part} {f : Fetched} (h : NextIs s k .m p v f) (hw : w.cur = v.cur)
    (hr : w.report = .issued) {n : Nat} (ht : w.endBundle v.me [p] false n = t) :
    t.core k = w.me.closed .m w.cadence.toNat false v.cl.inh n := by
  have here : w.cur = { core := k, clu := .m } := hw.trans (nextIs_cur h)
  have own : v.me.clu w.cur.clu = v.cl := by rw [State.cl, hw]
  have clu : w.cur.clu = .m := congrArg Cur.clu here
  have core : ∀ c, (w.setCore w.cur.core c).core k = c := fun c => by rw [here]; exact State.setCore_core_same w k c
  rw [← ht, endBundle_closes hr (fun i => by rw [own]; exact h.2.2.2.2.2 i), own, clu]
  exact core _

theorem actedAlone_of_clu {s : State} {F : Core → Core} (h : ∀ y, (F s.me).clu y = s.me.clu y) : actedAlone s (s.onMe F) := by
  refine ⟨F s.me, rfl, fun y _ => h y, ?_⟩
  rw [h]
  rfl

/-! The issue. -/

section
variable {s v : State} {k : Fin 768} {p : Part} {f : Fetched} {r : TReg} (h : NextIs s k .m p v f) (hp : p.i = .tzero (longOf p.w1) r)
  (hs : p.stamped = true) (hg : ((s.core k).clu .m).pReg (longOf p.w1).guard = true) (early : ¬ s.cadence < s.dueTick k p)
  (hm : ¬ s.misses k p) (ready : v.setsReady (longOf p.w1) = true) (idle : (s.core k).en.mq = []) (he : (s.core k).en.emul = none)
  (free : (s.core k).tileLocked r = false)
include h hp hs hg early hm ready idle he free

omit hs hg he in
theorem tzero_begins {cmd : MCmd} (hc : cmd.i = p.i) : StampedStart (v.entering p f) (longOf p.w1) false cmd (fun s => .ok .hard s)
    ((v.entering p f).takeSets (longOf p.w1)) ((v.entering p f).onMe fun c => c.zeroing (v.entering p f).agent (longOf p.w1) r
      (((v.entering p f).takeSets (longOf p.w1)).placed cmd cmd.writes)) := by
  have me := entering_me h
  refine ⟨?_, ?_, ?_, ?_, fun e => Bool.false_ne_true e.1, rfl, by rw [me]; exact idle, ?_⟩
  · rw [entering_stampTick h]
    obtain ⟨a, n, rfl⟩ := nextIs_found h
    exact early
  · rw [entering_punctual h early hm, Bool.false_and]
    exact Bool.false_ne_true
  · have same : (v.entering p f).me = v.me.onClu v.cur.clu (·.past f.npc) := State.onMe_me v fun c => c.onClu v.cur.clu (·.past f.npc)
    rw [State.setsReady, same]
    exact ready
  · unfold MCmd.shortOf
    rw [hc, hp]
  · exact tzero_starts (entering_cur h) (((v.entering p f).takeSets (longOf p.w1)).placed cmd cmd.writes) (hc.trans hp) (by rw [me]; exact idle) (by rw [me]; exact free) _ _

theorem tzero_acts : ∃ cmd : MCmd, cmd.i = p.i ∧
    exec p.i (v.entering p f) = .next ((v.entering p f).onMe fun c => c.zeroing (v.entering p f).agent (longOf p.w1) r cmd) := by
  have held : ¬ ((v.entering p f).me.en.emulDone = true ∧ (v.entering p f).me.en.emul.isSome = true) := by
    rw [entering_me h, Core.onClu_en, he]
    exact fun e => Bool.false_ne_true e.2
  have run : exec p.i (v.entering p f) = (v.entering p f).issueMatrix (longOf p.w1) false
      ((v.entering p f).mkCmd p.i 0 0 ((v.entering p f).tsh r) 0) fun s => .ok .hard s := by rw [hp]; rfl
  have begun := tzero_begins h hp early hm ready idle free (cmd := (v.entering p f).mkCmd p.i 0 0 ((v.entering p f).tsh r) 0) rfl
  refine ⟨((v.entering p f).takeSets (longOf p.w1)).placed ((v.entering p f).mkCmd p.i 0 0 ((v.entering p f).tsh r) 0)
    ((v.entering p f).mkCmd p.i 0 0 ((v.entering p f).tsh r) 0).writes, rfl, ?_⟩
  rw [run, issueMatrix_starts ((stamped_iff p).mp hs).2 (by rw [entering_p h, hg]) held begun, entering_punctual h early hm,
    if_neg Bool.false_ne_true]

/-- The bundle of a TZERO that nothing holds. -/
theorem tzero_bundle (ho : v.overdraws k 1 = false) : ∃ (t : State) (cmd : MCmd), v.execBundle issueInstr f [p] false = .next t ∧
    issuedPast s t k (· = .m) (fun _ => f.npc) ∧ t.cur = { core := k, clu := .m } ∧ cmd.i = p.i ∧
    (t.core k).st = { (s.core k).st.took .m (longOf p.w1) with tiles := vset (s.core k).st.tiles r Memory.empty } ∧
    (t.core k).en.mrun = (s.core k).en.mrun ++ [cmd.done] ∧ (t.core k).en.mq = [] := by
  obtain ⟨cmd, same, ran⟩ := tzero_acts h hp hs hg early hm ready idle he free
  have zeroed := zeroed_zeroing (v.entering p f).me (v.entering p f).agent (longOf p.w1) r cmd
  have alone : actedAlone (v.entering p f) ((v.entering p f).onMe fun c => c.zeroing (v.entering p f).agent (longOf p.w1) r cmd) :=
    actedAlone_of_clu zeroed.clu
  have charge : (v.entering p f).chargeOf p.i = 0 := by
    unfold State.chargeOf
    rw [hp]
    split <;> rfl
  obtain ⟨t, done, past, cur, -, -, -, st⟩ := issuedPast_of_actedAlone h alone 1
  refine ⟨t, cmd, ?_, past, cur, same, ?_⟩
  · rw [execBundle_of_next h ran, if_neg (by simp [State.entering])]
    dsimp only
    rw [charge, show max 1 0 = 1 from rfl, ho, if_neg Bool.false_ne_true, done]
  · rw [entering_me h] at zeroed
    obtain ⟨storage, mrun, mq⟩ := zeroed.past
    have core := endBundle_core (w := (v.entering p f).onMe fun c => c.zeroing (v.entering p f).agent (longOf p.w1) r cmd) h rfl rfl done
    rw [core, Core.closed_st, Core.closed_en, State.onMe_me, entering_me h]
    exact ⟨storage, mrun, mq⟩

end

/-! Upsets. -/

/-- The device with upsets that fall on the two engines. -/
def State.struck (s : State) (P S : Upset) : State := { s with ir := { s.ir with upsetP := P, upsetS := S } }

theorem nextIs_struck {s v : State} {k : Fin 768} {p : Part} {f : Fetched} (h : NextIs s k .m p v f) (P S : Upset) :
    ∃ v', NextIs (s.struck P S) k .m p v' f ∧ v'.cores = v.cores ∧ v'.cur = v.cur := by
  have device : sameDevice (s.at_ k .m) ((s.struck P S).at_ k .m) := rfl
  obtain ⟨can, found, decoded, wf, free, loops⟩ := h
  obtain ⟨a, n, rfl, again⟩ := nextBundle_alike device rfl (fetchesAlike_refl _) rfl found
  exact ⟨_, ⟨can, again, decoded, wf, free, loops⟩, rfl, rfl⟩

section
variable {s v : State} {k : Fin 768} {p : Part} {f : Fetched} {r : TReg} (h : NextIs s k .m p v f) (hp : p.i = .tzero (longOf p.w1) r)
  (hn : f.sync = false ∨ v.cl.inh = true)
include h hp hn

theorem stampedTzero_starts (hs : p.stamped = true) (hg : ((s.core k).clu .m).pReg (longOf p.w1).guard = true)
    (early : ¬ s.cadence < s.dueTick k p) (hm : ¬ s.misses k p) (ready : v.setsReady (longOf p.w1) = true) (idle : (s.core k).en.mq = [])
    (he : (s.core k).en.emul = none) (free : (s.core k).tileLocked r = false) (ho : v.overdraws k 1 = false) (P S : Upset) :
    ∃ t, exec (.stampedIssue ⟨k, P, S⟩) s = .next t ∧ issuedPast s t k (· = .m) (fun _ => f.npc) ∧
      (t.core k).st = { (s.core k).st.took .m (longOf p.w1) with tiles := vset (s.core k).st.tiles r Memory.empty } ∧
      (∃ run, (t.core k).en.mrun = (s.core k).en.mrun ++ [run] ∧ run.phase = .done ∧ run.cmd.i = p.i) ∧ (t.core k).en.mq = [] := by
  obtain ⟨v', h', cores, cur⟩ := nextIs_struck h P S
  have me : v'.me = v.me := by rw [State.me, State.core, cores, cur]; rfl
  have cl : v'.cl = v.cl := by rw [State.cl, me, cur]; rfl
  have ready' : v'.setsReady (longOf p.w1) = true := by rw [State.setsReady, me, cur]; exact ready
  have pays : v'.overdraws k 1 = false := by
    rw [nextIs_overdraws h']
    rw [nextIs_overdraws h] at ho
    exact ho
  obtain ⟨t, cmd, ran, past, here, same, storage, mrun, mq⟩ := tzero_bundle h' hp hs hg early hm ready' idle he free pays
  refine ⟨{ t with ir := { t.ir with upsetP := [], upsetS := [] } }, ?_, past, storage, ⟨cmd.done, mrun, rfl, same⟩, mq⟩
  obtain ⟨-, -, -, -, -, -, -, -, -, -, report, clus⟩ := past
  have still : ((t.core k).clu .m).atSync = false := by
    rw [(clus .m).2 rfl]
  have tries : (s.struck P S).tryBundle issueInstr k .m false = .next t := by
    rw [tryBundle_of_next h' (by rw [cl]; exact hn), ran]
  rw [stampedIssue_runs h hs, ← State.struck, runBundle_eq, tries]
  dsimp only
  rw [State.meetAfter, still, Bool.false_and, if_neg Bool.false_ne_true]
  exact if_neg (show ¬ (t.report = .stalled ∨ t.report = .idle) by rw [report]; simp)

end

end Sys2Proof.Machine
end

section
/-! Stamps, rendezvous, traps, timeouts and grants (R48, R174 to R176, R345, R348, R395). -/

namespace Sys2Proof.Machine

theorem nextIs_setsReady {s v : State} {k : Fin 768} {p : Part} {f : Fetched} (h : NextIs s k .m p v f) (l : Long) :
    v.setsReady l = (s.at_ k .m).setsReady l := by
  obtain ⟨a, n, rfl⟩ := nextIs_found h
  have me : ((s.at_ k .m).onCl (Cluster.found a n)).me = (s.core k).onClu .m (Cluster.found a n) := State.onMe_me (s.at_ k .m) _
  rw [State.setsReady, me]
  rfl

/-- The rendezvous of a core's sync bundles. -/
theorem rendezvous_acts (s : State) (k : Fin 768) :
    (((∀ x, ¬ s.lives k x) ∨ ∃ x, s.lives k x ∧ s.syncNext k x = false) → Idles (.syncRendezvous k) s) ∧
    (∀ (p : Clu → Part) (v : Clu → State) (f : Clu → Fetched), (∃ x, s.lives k x) →
      (∀ x, s.lives k x → NextIs s k x (p x) (v x) (f x) ∧ (f x).sync = true ∧ (v x).cl.inh = false ∧ (p x).i = .nop ∧ (v x).overdraws k 4 = false) →
      ∃ t, exec (.syncRendezvous k) s = .next t ∧ issuedPast s t k (s.lives k) (fun x => (f x).npc) ∧ (t.core k).st = (s.core k).st ∧
        ∀ x, s.lives k x → ((t.core k).clu x).syncs = ((s.core k).clu x).syncs + 1 ∧ ((t.core k).clu x).g = ((s.core k).clu x).g) ∧
    (∀ (ps : Clu → List Part) (f : Clu → Fetched), (∃ x, s.lives k x) →
      (∀ x, s.lives k x → s.syncNext k x = true ∧ (∃ v, (s.at_ k x).nextBundle = .ok (v, f x)) ∧ decodeBundle x (f x) = .ok (ps x)) →
      ((∀ x ∈ s.living k, s.meetsAlone k x) →
        (∃ l : List Clu, l.Perm (s.living k) ∧ (l.foldlM (meetTurn k f ps) (s.onCore k Core.meetClocks)).isSome) →
        ∃ (l : List Clu) (t : State), l.Perm (s.living k) ∧ l.foldlM (meetTurn k f ps) (s.onCore k Core.meetClocks) = some t ∧
          exec (.syncRendezvous k) s = .next { t with report := .issued }) ∧
      (∀ pre x post w w', s.living k = pre ++ x :: post → (∀ y ∈ pre, s.meetsAlone k y) →
        (s.onCore k Core.meetClocks).tryBundle issueInstr k x true = .next w' → s.tryBundle issueInstr k x true = .next w →
        w'.report = .trapped → w.report = .trapped → exec (.syncRendezvous k) s = .next w)) := by
  refine ⟨rendezvous_idle, fun p v f some_ each => nops_rendezvous each some_, fun ps f some_ fetched => ?_⟩
  have ready : ∀ x, s.lives k x → s.syncNext k x = true := fun x hx => (fetched x hx).1
  refine ⟨fun alone order => ?_, fun pre x post w w' hl alone hw' hw hr' hr => ?_⟩
  · exact rendezvous_meets (fun x hx => (fetched x hx).2) some_ ready alone order
  · exact rendezvous_traps some_ ready hl alone hw' hw hr' hr

section
variable {s v : State} {k : Fin 768} {p : Part} {f : Fetched} (h : NextIs s k .m p v f) (hn : f.sync = false ∨ v.cl.inh = true)
include h hn

theorem scheduleMiss_lateCount (hs : p.stamped = true) (hg : ((s.core k).clu .m).pReg (longOf p.w1).guard = true) (hm : s.misses k p)
    (late : s.cadence ≠ s.dueTick k p) (hb : (s.core k).st.stampc.getLsbD 0 = true) (calm : s.ir.upsetP = [] ∧ s.ir.upsetS = [])
    (he : (s.core k).en.emul = none) (t : State) (ran : exec (.stampedIssue ⟨k, [], []⟩) s = .next t) (hr : t.report = .issued) :
    exec (.scheduleMiss k) s = .next t ∧ (t.core k).st.stampc.toNat % 2 ^ 32 = (s.core k).st.stampc.toNat % 2 ^ 32 ∧
      (t.core k).st.stampc.toNat / 2 ^ 32 = min ((s.core k).st.stampc.toNat / 2 ^ 32 + 1) (2 ^ 32 - 1) := by
  obtain ⟨miss, count⟩ := scheduleMiss_late h hn hs hg hm late hb calm he ran hr
  rw [count]
  exact ⟨miss, toNat_lateCount _⟩

theorem stampedTzero_acts (hs : p.stamped = true) (hg : ((s.core k).clu .m).pReg (longOf p.w1).guard = true) (hm : ¬ s.misses k p)
    (r : TReg) (P S : Upset) (hp : p.i = .tzero (longOf p.w1) r) (early : ¬ s.cadence < s.dueTick k p)
    (ready : v.setsReady (longOf p.w1) = true) (idle : (s.core k).en.mq = []) (he : (s.core k).en.emul = none)
    (ho : v.overdraws k 1 = false) (free : (s.core k).tileLocked r = false) :
    ∃ t, exec (.stampedIssue ⟨k, P, S⟩) s = .next t ∧ issuedPast s t k (· = .m) (fun _ => f.npc) ∧
      (∀ b, (vget (t.core k).st.tiles r).read b = 0) ∧ (∀ q, q ≠ r → vget (t.core k).st.tiles q = vget (s.core k).st.tiles q) ∧
      (t.core k).st = { (s.core k).st.took .m (longOf p.w1) with tiles := (t.core k).st.tiles } ∧
      (∃ q, (t.core k).en.mrun = (s.core k).en.mrun ++ [q] ∧ q.phase = .done ∧ q.cmd.i = p.i) ∧ (t.core k).en.mq = [] := by
  obtain ⟨t, ran, past, storage, run, mq⟩ := stampedTzero_starts h hp hn hs hg early hm ready idle he free ho P S
  have tiles : (t.core k).st.tiles = vset (s.core k).st.tiles r Memory.empty := by rw [storage]
  refine ⟨t, ran, past, fun b => ?_, fun q hq => ?_, ?_, run, mq⟩
  · rw [tiles, vget_vset_same, Memory.read_empty]
  · rw [tiles, vget_vset_ne _ _ hq]
  · rw [tiles]; exact storage

end

/-- Settles O46: a stamped bundle through the outcomes of its matrix form and a device whose stamp is recorded as missed, a rendezvous
through the turns of its clusters, the other events through their cases. -/
theorem stampsRendezvousAndGrantsActOnTime : Obligations.StampsRendezvousAndGrantsActOnTime := by
  unfold Obligations.StampsRendezvousAndGrantsActOnTime
  intro s k
  refine ⟨fun p v f h hn => ?_, rendezvous_acts s k, fun x => ?_, powerGrant_decides s k⟩
  · intro l c st stamped tick calm held missed
    have marks : p.stamped = true ↔ stamped := stamped_iff p
    have due : s.misses k p ↔ missed := by
      have lacks : s.lacks k p ↔ held := by rw [State.lacks, ← nextIs_setsReady h]
      have own : s.misses k p ↔ if s.cadence = tick then s.lacks k p else tick < s.cadence ∧ c.stampSeen.getD (!c.holdCovers tick.toNat) = true :=
        Iff.rfl
      rw [own, propext lacks]
    refine ⟨fun hs => stampedIssue_eq h hn (marks.mpr hs), fun hs P S => stampedIssue_idle h (fun e => hs (marks.mp e)) P S,
      fun idle => scheduleMiss_idle h hn ?_, fun hs hg => ⟨fun hm hb => ?_, fun hm late hb still he t => ?_, fun r P S hp early hm => ?_⟩⟩
    · exact idle.imp (mt marks.mp) (.imp id (mt due.mp))
    · rw [scheduleMiss_eq h hn (marks.mpr hs) hg (due.mpr hm), if_neg (by rw [bit, hb]; exact Bool.false_ne_true)]
    · exact scheduleMiss_lateCount h hn (marks.mpr hs) hg (due.mpr hm) late hb still he t
    · exact stampedTzero_acts h hn (marks.mpr hs) hg (mt due.mp hm) r P S hp early
  · obtain ⟨away, delivers⟩ := trapDelivery_acts s k x
    obtain ⟨none_, expires⟩ := handlerTimeout_acts s k x
    exact ⟨away, delivers, none_, expires⟩

end Sys2Proof.Machine
end
